-- ==== Sys2Proof/Word.lean ====
section
/-! DEFINITION. The word types of the Taboux (R6, R31, R47, R160) and the one shape of sparse data. -/

namespace Sys2Proof

/-- One byte of memory (R6). -/
abbrev Byte := BitVec 8

/-- An instruction word, and one lane's word of a vector register (R31, R160). -/
abbrev Word := BitVec 32

/-- A scalar register, an address, a 64-bit record word (R47, R54). -/
abbrev Dword := BitVec 64

/-- A set of the 64 lanes of a group (R113): bit L stands for lane L. -/
abbrev Lanes := BitVec 64

/-- The mode register `md` (R37). -/
abbrev ModeWord := BitVec 24

/-- Sparse data: keys strictly rising, no entry equal to what an unlisted key reads as. -/
abbrev SMap (α : Type) := List (Nat × α)

end Sys2Proof
end

