-- ==== Sys2Proof/Config.lean ====
section
/-! DEFINITION. What the spec leaves to the implementation or to the moment: uninterpreted constants, without a body. -/

namespace Sys2Proof.Config

/-- Whether an access takes a buffered translation that differs from the page tables as they stand (R218: it "may have
used the old entry"); a free value per access, log 8. -/
opaque useBuffered : Nat → Bool

/-- A byte of the SPI flash of a package, by offset (R403): what an installation holds, log 5. -/
opaque flash : Nat → Nat → Byte

/-- The SHA-384 hash of the boot key in the fuses of a package, 48 bytes (R403); log 5. -/
opaque fuseKey : Nat → List Byte

/-- The peers, and the debug peers, that the resident-service image of a package lists (R368, R399); log 5. -/
opaque peers : Nat → List Nat
opaque debugPeers : Nat → List Nat

/-- Whether a sub-array fails the self-test that `mtest` runs (R324): whether the array is sound is not the program's doing; a free value per test, log 8. -/
opaque testFails : Nat → Bool

/-- The neighbour of a link port of a package (a logical package, or 0x3FF for a circuit switch), and whether it
advertised CB (R299, R386); none where the port is not connected. How packages are cabled, log 5. -/
opaque link : Nat → Nat → Option (Nat × Bool)

/-- The credits that a link port has from its neighbour at bring-up (R388: a flit returns credits, their number is not
given); log 96. -/
opaque linkCredits : Nat

/-- The three granules of the port map of a phase of a plan (R395: the layout of the control flit is not given), by the
participants, the ports of each and the phase, with its start and length; log 96. -/
opaque portMap : List Nat → Nat → Nat → Nat → Nat → Nat → Nat

/-- The key of a context that OPEN returns (R400), by the count of free values read; log 8. -/
opaque contextKey : Nat → BitVec 58

/-- Where the service begins to look for free DRAM (R400: it "always chooses the die offsets"); a free value per choice,
log 8. -/
opaque freePage : Nat → Nat

/-- The die the service chooses for a MAP that names none (R400); log 8. -/
opaque freeDie : Nat → Nat

/-- What a load image, given as its bytes, holds (R400): sections with their addresses, and the addresses of its launch
headers; none where it is no image. The spec gives no format of the image; log 8. -/
opaque loadImage : List Byte → Option (List (BitVec 64 × List Byte) × List (BitVec 64))

/-- The address by which a replay log names the descriptor of a hidden chain, a tensor's or a domino's, in
sequencer-owned memory (R312, R327, R377: no place is given); log 93. -/
opaque hiddenChain : Nat → BitVec 64

/-- The bytes of hardware state that a suspension of a context saves (R359, R365: no layout is given), by the context's
number and the count of things made so far; a package has less than 2^48 of them; log 8. -/
opaque stateBytes : Nat → Nat → BitVec 48

end Sys2Proof.Config
end

