-- ==== Sys2Proof/Machine/SMap.lean ====
section
/-! DEFINITION. The operations on sparse data: look up, put, erase, and the memory write that keeps the canonical form. -/

namespace Sys2Proof.Machine

/-- The entry at a key. -/
def SMap.find {α : Type} : SMap α → Nat → Option α
  | [], _ => none
  | (j, v) :: m, k => if j = k then some v else SMap.find m k

/-- The entry at a key, or what an unlisted key reads as. -/
def SMap.get {α : Type} (m : SMap α) (k : Nat) (d : α) : α := (SMap.find m k).getD d

/-- Puts an entry in its place, replacing the one at that key. -/
def SMap.put {α : Type} : SMap α → Nat → α → SMap α
  | [], k, v => [(k, v)]
  | (j, w) :: m, k, v =>
    if k < j then (k, v) :: (j, w) :: m
    else if k = j then (k, v) :: m
    else (j, w) :: SMap.put m k v

/-- Takes every entry at a key out. -/
def SMap.erase {α : Type} (m : SMap α) (k : Nat) : SMap α := m.filter fun e => e.1 != k

/-- Puts a value, or erases the entry when the value is what an unlisted key reads as. -/
def SMap.set {α : Type} [DecidableEq α] (m : SMap α) (k : Nat) (v d : α) : SMap α :=
  if v = d then SMap.erase m k else SMap.put m k v

/-- The entries of n keys from one on move to others, where they replace what stands. -/
def SMap.moved {α : Type} (m : SMap α) (old new n : Nat) : SMap α :=
  let within (a k : Nat) : Bool := decide (a ≤ k) && decide (k < a + n)
  (m.filter fun e => within old e.1).foldl (fun a e => SMap.put a (e.1 - old + new) e.2)
    (m.filter fun e => !within old e.1 && !within new e.1)

/-- The keys rise strictly. -/

def SMap.rising {α : Type} : SMap α → Bool
  | [] => true
  | [_] => true
  | (i, _) :: (j, w) :: m => decide (i < j) && SMap.rising ((j, w) :: m)

/-- The canonical form: keys strictly rising, no entry equal to what an unlisted key reads as. -/
def SMap.canon {α : Type} [DecidableEq α] (m : SMap α) (d : α) : Bool :=
  SMap.rising m && m.all fun e => decide (e.2 ≠ d)

end Sys2Proof.Machine
end

