-- ==== Sys2Proof/Syntax.lean ====
section
/-! DEFINITION. The syntax: one constructor per row of the opcode table, 219 instructions (R42) and 95 events
(steps of the machine that no word encodes). An instruction keeps its fields as the word has them; an event names its subject. -/

namespace Sys2Proof

/-- Who issues: a system-class core (R3; die 8 is the service die), or a PC slot of a group (R117). -/
inductive Agent where
  | sys (pkg die core : Nat)
  | slot (gid k : Nat)
deriving DecidableEq, Repr

/-- A Maelub message (R369): the package it reaches, its two header words and its payload; the peer it comes from. -/
structure MaelubMsg where
  pkg : Nat
  w0 : Dword
  w1 : Dword
  payload : List Byte
  src : Nat := 0
deriving DecidableEq, Repr

/-- A request of the request protocol (R399): the package that serves it, its header fields and payload; the peer it
comes from and the port it arrives at (R3, R222); its flow and its place in the arrival order of that, where it came on a
ROD flow. -/
structure Req where
  pkg : Nat
  op : BitVec 8
  tag : BitVec 32
  ctx : Nat
  key : BitVec 58
  addr : Dword
  len : Dword
  arg0 : Dword
  arg1 : Dword
  arg2 : Dword
  payload : List Byte
  src : Nat := 0
  port : Nat := 0
  magic : BitVec 16 := 0x5152
  version : BitVec 8 := 1
  reserved : BitVec 32 := 0
  flow : Option (Nat × Nat) := none
deriving DecidableEq, Repr

/-- Where a message arrives: the package, its Ultra Ethernet port, the sender (R3, R222, R399). -/
structure Arrival where
  pkg : Nat
  src : Nat := 0
  port : Nat := 0
deriving DecidableEq, Repr

/-- The instructions (by the opcode map R42) and the events of the opcode table. -/
inductive Instr where
  | nop
  | br (o : BitVec 24)
  | bz (d : BitVec 8) (o : BitVec 16)
  | bnz (d : BitVec 8) (o : BitVec 16)
  | bltz (d : BitVec 8) (o : BitVec 16)
  | bgez (d : BitVec 8) (o : BitVec 16)
  | call (o : BitVec 24)
  | jr (a : BitVec 8)
  | callr (a : BitVec 8)
  | bsplit (a : BitVec 8) (x : BitVec 32)
  | bmerge
  | bany (d : BitVec 8) (o : BitVec 16)
  | ball (d : BitVec 8) (o : BitVec 16)
  | exit
  | waitc (n : BitVec 8) (t : BitVec 8)
  | trap (n : BitVec 24)
  | sadd (d : BitVec 8) (a : BitVec 8) (b : BitVec 8)
  | ssub (d : BitVec 8) (a : BitVec 8) (b : BitVec 8)
  | smul (d : BitVec 8) (a : BitVec 8) (b : BitVec 8)
  | smulh (d : BitVec 8) (a : BitVec 8) (b : BitVec 8)
  | smulhn (d : BitVec 8) (a : BitVec 8) (b : BitVec 8)
  | sdiv (d : BitVec 8) (a : BitVec 8) (b : BitVec 8)
  | sdivn (d : BitVec 8) (a : BitVec 8) (b : BitVec 8)
  | srem (d : BitVec 8) (a : BitVec 8) (b : BitVec 8)
  | sremn (d : BitVec 8) (a : BitVec 8) (b : BitVec 8)
  | sand (d : BitVec 8) (a : BitVec 8) (b : BitVec 8)
  | sor (d : BitVec 8) (a : BitVec 8) (b : BitVec 8)
  | sxor (d : BitVec 8) (a : BitVec 8) (b : BitVec 8)
  | sshl (d : BitVec 8) (a : BitVec 8) (b : BitVec 8)
  | sshr (d : BitVec 8) (a : BitVec 8) (b : BitVec 8)
  | ssar (d : BitVec 8) (a : BitVec 8) (b : BitVec 8)
  | ssel (d : BitVec 8) (a : BitVec 8) (b : BitVec 8)
  | sli (d : BitVec 8) (i : BitVec 16)
  | slih (d : BitVec 8) (i : BitVec 16)
  | slit (d : BitVec 8) (x : BitVec 32)
  | saddi (d : BitVec 8) (a : BitVec 8) (i : BitVec 8)
  | sandi (d : BitVec 8) (a : BitVec 8) (i : BitVec 8)
  | sshli (d : BitVec 8) (a : BitVec 8) (n : BitVec 8)
  | sshri (d : BitVec 8) (a : BitVec 8) (n : BitVec 8)
  | ssari (d : BitVec 8) (a : BitVec 8) (n : BitVec 8)
  | seq (d : BitVec 8) (a : BitVec 8) (b : BitVec 8)
  | slt (d : BitVec 8) (a : BitVec 8) (b : BitVec 8)
  | sltn (d : BitVec 8) (a : BitVec 8) (b : BitVec 8)
  | smin (d : BitVec 8) (a : BitVec 8) (b : BitVec 8)
  | smax (d : BitVec 8) (a : BitVec 8) (b : BitVec 8)
  | sclz (d : BitVec 8) (a : BitVec 8)
  | spopc (d : BitVec 8) (a : BitVec 8)
  | sbfx (d : BitVec 8) (a : BitVec 8) (b : BitVec 8)
  | sld8 (d : BitVec 8) (a : BitVec 8) (i : BitVec 8)
  | sld16 (d : BitVec 8) (a : BitVec 8) (i : BitVec 8)
  | sld32 (d : BitVec 8) (a : BitVec 8) (i : BitVec 8)
  | sld64 (d : BitVec 8) (a : BitVec 8) (i : BitVec 8)
  | sst8 (d : BitVec 8) (a : BitVec 8) (i : BitVec 8)
  | sst16 (d : BitVec 8) (a : BitVec 8) (i : BitVec 8)
  | sst32 (d : BitVec 8) (a : BitVec 8) (i : BitVec 8)
  | sst64 (d : BitVec 8) (a : BitVec 8) (i : BitVec 8)
  | sldx (d : BitVec 8) (a : BitVec 8) (b : BitVec 8)
  | sstx (d : BitVec 8) (a : BitVec 8) (b : BitVec 8)
  | srsr (d : BitVec 8) (n : BitVec 16)
  | swsr (d : BitVec 8) (n : BitVec 16)
  | splace (d : BitVec 8) (a : BitVec 8) (b : BitVec 8)
  | sfadd (d : BitVec 8) (a : BitVec 8) (b : BitVec 8)
  | sfmul (d : BitVec 8) (a : BitVec 8) (b : BitVec 8)
  | sffma (d : BitVec 8) (a : BitVec 8) (b : BitVec 8)
  | vadd (d : BitVec 8) (a : BitVec 8) (b : BitVec 8)
  | vsub (d : BitVec 8) (a : BitVec 8) (b : BitVec 8)
  | vmul (d : BitVec 8) (a : BitVec 8) (b : BitVec 8)
  | vmulh (d : BitVec 8) (a : BitVec 8) (b : BitVec 8)
  | vmad (d : BitVec 8) (a : BitVec 8) (b : BitVec 8)
  | vdiv (d : BitVec 8) (a : BitVec 8) (b : BitVec 8)
  | vrem (d : BitVec 8) (a : BitVec 8) (b : BitVec 8)
  | vmin (d : BitVec 8) (a : BitVec 8) (b : BitVec 8)
  | vmax (d : BitVec 8) (a : BitVec 8) (b : BitVec 8)
  | vand (d : BitVec 8) (a : BitVec 8) (b : BitVec 8)
  | vor (d : BitVec 8) (a : BitVec 8) (b : BitVec 8)
  | vxor (d : BitVec 8) (a : BitVec 8) (b : BitVec 8)
  | vshl (d : BitVec 8) (a : BitVec 8) (b : BitVec 8)
  | vshr (d : BitVec 8) (a : BitVec 8) (b : BitVec 8)
  | vpopc (d : BitVec 8) (a : BitVec 8)
  | vclz (d : BitVec 8) (a : BitVec 8)
  | vfadd (d : BitVec 8) (a : BitVec 8) (b : BitVec 8)
  | vfsub (d : BitVec 8) (a : BitVec 8) (b : BitVec 8)
  | vfmul (d : BitVec 8) (a : BitVec 8) (b : BitVec 8)
  | vffma (d : BitVec 8) (a : BitVec 8) (b : BitVec 8)
  | vffms (d : BitVec 8) (a : BitVec 8) (b : BitVec 8)
  | vfdiv (d : BitVec 8) (a : BitVec 8) (b : BitVec 8)
  | vfsqrt (d : BitVec 8) (a : BitVec 8)
  | vfmin (d : BitVec 8) (a : BitVec 8) (b : BitVec 8)
  | vfmax (d : BitVec 8) (a : BitVec 8) (b : BitVec 8)
  | vfexp2 (d : BitVec 8) (a : BitVec 8)
  | vflog2 (d : BitVec 8) (a : BitVec 8)
  | vfrcp (d : BitVec 8) (a : BitVec 8)
  | vfrsq (d : BitVec 8) (a : BitVec 8)
  | vfabs (d : BitVec 8) (a : BitVec 8)
  | vfscale (d : BitVec 8) (a : BitVec 8) (b : BitVec 8)
  | vfdp2 (d : BitVec 8) (a : BitVec 8) (b : BitVec 8)
  | vcmpeq (d : BitVec 8) (a : BitVec 8) (b : BitVec 8)
  | vcmpne (d : BitVec 8) (a : BitVec 8) (b : BitVec 8)
  | vcmplt (d : BitVec 8) (a : BitVec 8) (b : BitVec 8)
  | vcmple (d : BitVec 8) (a : BitVec 8) (b : BitVec 8)
  | vcmpun (d : BitVec 8) (a : BitVec 8) (b : BitVec 8)
  | vsel (d : BitVec 8) (a : BitVec 8) (b : BitVec 8)
  | vcvt (d : BitVec 8) (a : BitVec 8) (p : BitVec 8)
  | vmov (d : BitVec 8) (a : BitVec 8)
  | vbcast (d : BitVec 8) (a : BitVec 8) (b : BitVec 8)
  | vli (d : BitVec 8) (i : BitVec 16)
  | vlit (d : BitVec 8) (x : BitVec 32)
  | vget (d : BitVec 8) (a : BitVec 8) (b : BitVec 8)
  | vput (d : BitVec 8) (a : BitVec 8) (b : BitVec 8)
  | vpack (d : BitVec 8) (a : BitVec 8) (b : BitVec 8)
  | vunpkl (d : BitVec 8) (a : BitVec 8)
  | vunpkh (d : BitVec 8) (a : BitVec 8)
  | setmode (x : BitVec 24)
  | modeone (x : BitVec 24)
  | rdmode (d : BitVec 8)
  | wrmode (a : BitVec 8)
  | fmtset (a : BitVec 8) (b : BitVec 8)
  | fmtget (d : BitVec 8) (a : BitVec 8)
  | sfsub (d : BitVec 8) (a : BitVec 8) (b : BitVec 8)
  | sfdiv (d : BitVec 8) (a : BitVec 8) (b : BitVec 8)
  | sfmin (d : BitVec 8) (a : BitVec 8) (b : BitVec 8)
  | sfmax (d : BitVec 8) (a : BitVec 8) (b : BitVec 8)
  | sfcmp (d : BitVec 8) (a : BitVec 8) (b : BitVec 8)
  | sfcvt (d : BitVec 8) (a : BitVec 8)
  | sfexp2 (d : BitVec 8) (a : BitVec 8)
  | sfsqrt (d : BitVec 8) (a : BitVec 8)
  | sfclass (d : BitVec 8) (a : BitVec 8)
  | vshfl (d : BitVec 8) (a : BitVec 8) (b : BitVec 8)
  | vshup (d : BitVec 8) (a : BitVec 8) (n : BitVec 8)
  | vshdn (d : BitVec 8) (a : BitVec 8) (n : BitVec 8)
  | vxorsh (d : BitVec 8) (a : BitVec 8) (n : BitVec 8)
  | vballot (d : BitVec 8) (a : BitVec 8)
  | vscan (d : BitVec 8) (a : BitVec 8) (c : BitVec 8)
  | vred (d : BitVec 8) (a : BitVec 8) (c : BitVec 8)
  | vtopk (d : BitVec 8) (a : BitVec 8) (k : BitVec 8)
  | vxpat (d : BitVec 8) (a : BitVec 8) (t : BitVec 8)
  | xpld (d : BitVec 8) (a : BitVec 8) (b : BitVec 8)
  | rgdeal (d : BitVec 8) (a : BitVec 8) (b : BitVec 8)
  | rgclose (d : BitVec 8) (a : BitVec 8)
  | vcompact (d : BitVec 8) (a : BitVec 8)
  | vexpand (d : BitVec 8) (a : BitVec 8)
  | vld (d : BitVec 8) (a : BitVec 8) (b : BitVec 8)
  | vst (d : BitVec 8) (a : BitVec 8) (b : BitVec 8)
  | vld2 (d : BitVec 8) (a : BitVec 8) (b : BitVec 8)
  | vst2 (d : BitVec 8) (a : BitVec 8) (b : BitVec 8)
  | vlds (d : BitVec 8) (a : BitVec 8) (b : BitVec 8)
  | vsts (d : BitVec 8) (a : BitVec 8) (b : BitVec 8)
  | vldt (d : BitVec 8) (a : BitVec 8) (b : BitVec 8)
  | vstt (d : BitVec 8) (a : BitVec 8) (b : BitVec 8)
  | vldq (d : BitVec 8) (a : BitVec 8) (b : BitVec 8)
  | vstq (d : BitVec 8) (a : BitVec 8) (b : BitVec 8)
  | vpfx (n : BitVec 8) (a : BitVec 8) (b : BitVec 8)
  | vatadd (d : BitVec 8) (a : BitVec 8) (b : BitVec 8)
  | vatmin (d : BitVec 8) (a : BitVec 8) (b : BitVec 8)
  | vatmax (d : BitVec 8) (a : BitVec 8) (b : BitVec 8)
  | vatand (d : BitVec 8) (a : BitVec 8) (b : BitVec 8)
  | vator (d : BitVec 8) (a : BitVec 8) (b : BitVec 8)
  | vatxor (d : BitVec 8) (a : BitVec 8) (b : BitVec 8)
  | vatxchg (d : BitVec 8) (a : BitVec 8) (b : BitVec 8)
  | vatcas (d : BitVec 8) (a : BitVec 8) (b : BitVec 8)
  | vradd (d : BitVec 8) (a : BitVec 8) (b : BitVec 8)
  | vrmin (d : BitVec 8) (a : BitVec 8) (b : BitVec 8)
  | vrmax (d : BitVec 8) (a : BitVec 8) (b : BitVec 8)
  | barinit (d : BitVec 8) (a : BitVec 8) (b : BitVec 8)
  | bararr (d : BitVec 8) (a : BitVec 8) (b : BitVec 8)
  | barwait (d : BitVec 8) (a : BitVec 8) (b : BitVec 8)
  | fence (c : BitVec 8)
  | gfence
  | rclaim (d : BitVec 8) (n : BitVec 8)
  | rgive (d : BitVec 8) (n : BitVec 8)
  | rslice
  | rquery (d : BitVec 8)
  | fwpub (n : BitVec 8)
  | fwend (m : BitVec 8)
  | cpush (d : BitVec 8) (a : BitVec 8)
  | cjoin (d : BitVec 8) (a : BitVec 8)
  | qpush (d : BitVec 8) (a : BitVec 8) (b : BitVec 8)
  | qpop (d : BitVec 8) (a : BitVec 8)
  | launch (d : BitVec 8) (a : BitVec 8) (b : BitVec 8)
  | oclaim (d : BitVec 8) (a : BitVec 8)
  | orel (a : BitVec 8)
  | ofill (d : BitVec 8) (a : BitVec 8) (b : BitVec 8)
  | ofillv (d : BitVec 8) (a : BitVec 8) (b : BitVec 8)
  | mma (d : BitVec 8) (a : BitVec 8) (b : BitVec 8)
  | mmas (d : BitVec 8) (a : BitVec 8) (b : BitVec 8)
  | mmar (d : BitVec 8) (a : BitVec 8) (b : BitVec 8)
  | mmaz (d : BitVec 8) (a : BitVec 8) (b : BitVec 8)
  | oread (d : BitVec 8) (a : BitVec 8) (b : BitVec 8)
  | owrite (d : BitVec 8) (a : BitVec 8) (b : BitVec 8)
  | ostore (d : BitVec 8) (a : BitVec 8) (b : BitVec 8)
  | mtest (n : BitVec 24)
  | mfence
  | orec (d : BitVec 8) (a : BitVec 8) (b : BitVec 8)
  | eappend (d : BitVec 8) (a : BitVec 8) (b : BitVec 8)
  | eseq (d : BitVec 8) (a : BitVec 8)
  | relay (d : BitVec 8) (a : BitVec 8) (b : BitVec 8)
  | tdesc (d : BitVec 8) (a : BitVec 8)
  | tquery (d : BitVec 8) (a : BitVec 8) (b : BitVec 8)
  | tfree (d : BitVec 8) (a : BitVec 8)
  | trig (d : BitVec 8) (a : BitVec 8) (b : BitVec 8)
  | tbset (a : BitVec 8) (b : BitVec 8)
  | tbclr (a : BitVec 8) (b : BitVec 8)
  | tbread (d : BitVec 8) (a : BitVec 8)
  | evpoll (d : BitVec 8) (a : BitVec 8)
  | evack (d : BitVec 8) (a : BitVec 8) (b : BitVec 8)
  | tilebeg (d : BitVec 8) (a : BitVec 8)
  | tileend (d : BitVec 8)
  | vcput (d : BitVec 8) (a : BitVec 8) (b : BitVec 8)
  | vcget (d : BitVec 8) (a : BitVec 8) (b : BitVec 8)
  | vcred (d : BitVec 8) (a : BitVec 8) (b : BitVec 8)
  | a2aplan (d : BitVec 8) (a : BitVec 8)
  | satadd (d : BitVec 8) (a : BitVec 8) (b : BitVec 8)
  | satcas (d : BitVec 8) (a : BitVec 8) (b : BitVec 8)
  | tret
  | pdone
  | brk (n : BitVec 24)
  | svc (n : BitVec 24)
  | tmark (c : BitVec 8) (a : BitVec 8) (b : BitVec 8)
  | wfe (n : BitVec 24)
  | rippleRound (gid : Nat) (k : Nat)
  | publishArrival (n : Nat)
  | distributorExamination (pkg : Nat) (pref : Nat)
  | groupRelease (gid : Nat)
  | waitSave (gid : Nat)
  | savedGroupRelaunch (gid : Nat) (pref : Nat)
  | claimGrant (gid : Nat) (k : Nat)
  | claimDeadlockFault (wg : Nat)
  | faultRecordPost (pkg : Nat)
  | faultReplyReplay (pkg : Nat) (v : Dword)
  | faultReplyReject (pkg : Nat) (v : Dword)
  | scalarAccessComplete (op : Nat)
  | vectorAccessComplete (op : Nat)
  | atomicRequestComplete (op : Nat)
  | collectiveComplete (op : Nat)
  | deferredDataIntegrityFault (ag : Agent)
  | commandStart (chain : Nat)
  | commandComplete (cmd : Nat)
  | eventRecordPost (n : Nat)
  | relayFactoringDone (cmd : Nat)
  | relayPassStart (cmd : Nat)
  | relayPassComplete (cmd : Nat)
  | stampRecordWrite (n : Nat)
  | fillComplete (cmd : Nat)
  | slotReleaseComplete (dom : Nat) (slot : Nat)
  | matrixOperationStart (dom : Nat)
  | raggedFenceRead (dom : Nat)
  | matrixOperationComplete (dom : Nat)
  | selfTestInject (dom : Nat) (failed : Bool)
  | trapEntry (gid : Nat)
  | escalationRecordPost (pkg : Nat)
  | escalationReplyResume (pkg : Nat) (v : Dword)
  | escalationReplyEnd (pkg : Nat) (v : Dword)
  | systemCoreTrapEntry (ag : Agent)
  | preemptionRequestTaken (gid : Nat)
  | hardwareSave (gid : Nat)
  | contextSuspend (pkg : Nat) (ctx : Nat)
  | suspensionComplete (pkg : Nat) (ctx : Nat)
  | contextResume (pkg : Nat) (ctx : Nat)
  | addressComparatorFire (gid : Nat) (k : Nat)
  | registerFileError (gid : Nat) (reg : Nat) (lane : Nat)
  | eccError (key : Nat) (corrected : Bool)
  | translationFlush (v : Dword)
  | timensWrite (v : Dword)
  | cqpushWrite (v : Dword)
  | sevsendWrite (v : Dword)
  | reqsendWrite (v : Dword)
  | unitTag (v : Dword)
  | unitFree (v : Dword)
  | boardAllot (v : Dword)
  | boardFree (v : Dword)
  | streamqWrite (v : Dword)
  | plentWrite (v : Dword)
  | routeTableWrite (num : Nat) (v : Dword)
  | systemRegisterWrite (num : Nat) (v : Dword)
  | maelubStop (m : MaelubMsg)
  | maelubRun (m : MaelubMsg)
  | maelubStep (m : MaelubMsg)
  | maelubStepTimeout (pkg : Nat)
  | maelubDump (m : MaelubMsg)
  | maelubRdmem (m : MaelubMsg)
  | maelubWrmem (m : MaelubMsg)
  | maelubRdsr (m : MaelubMsg)
  | maelubWrsr (m : MaelubMsg)
  | maelubWrreg (m : MaelubMsg)
  | maelubStatus (m : MaelubMsg)
  | requestSlotWrite (x : Arrival) (bytes : List Byte)
  | reqOpen (r : Req)
  | reqClose (r : Req)
  | reqMap (r : Req)
  | reqUnmap (r : Req)
  | reqLoad (r : Req)
  | reqQueue (r : Req)
  | reqLaunch (r : Req)
  | reqRead (r : Req)
  | reqWrite (r : Req)
  | reqFmt (r : Req)
  | reqReserve (r : Req)
  | reqSuspend (r : Req)
  | reqDebug (r : Req)
  | reqWait (r : Req)
  | reqSlice (r : Req)
  | reqBoard (r : Req)
  | reqQuantum (r : Req)
  | flitReceive (pkg : Nat) (port : Nat) (flit : List Byte)
  | remoteAccessTimeout (op : Nat)
  | linkBringUp (pkg : Nat) (idx : Nat) (dom : Nat)
  | planPhaseStart (pkg : Nat)
  | planComplete (pkg : Nat)
  | wfeTimeout (ag : Agent)
  | traceSample (part : Nat)
  | powerOn (pkg : Nat) (strap : Bool)
  | thermalThrottle (pkg : Nat) (temp : Nat) (power : Nat)
  | thermalPowerOff (pkg : Nat) (temp : Nat)
  | powerOff (pkg : Nat)
deriving DecidableEq, Repr

end Sys2Proof
end

