-- ==== Sys2Proof/Machine/State.lean ====
section
/-! DEFINITION. The state of one load-store domain: every piece of state the spec gives the machine, as plain data.
Sparse maps list what differs from the value that an unlisted key reads as. -/

namespace Sys2Proof.Machine

/-! ## The scalar side -/

/-- The clause a slot is in (R26): the address of its header, the number of words after it, its SETA and SETB pips
(15: none) and its YIELD bit. -/
structure Clause where
  hdr : Dword
  len : Nat
  seta : Nat
  setb : Nat
  yield : Bool
deriving DecidableEq, Repr

/-- STATE of a PC slot (R117). -/
inductive SlotSt where
  | free | run | wait
deriving DecidableEq, Repr

/-- Why a slot issues nothing for now. -/
inductive Block where
  /-- the WAIT bits of the clause at its pc name pips that are not zero (R29) -/
  | header
  /-- an operation in flight must complete first (R28, R50) -/
  | op (n : Nat)
  /-- `waitc`, or a full counter: pip n must fall to t (R28, R60) -/
  | pip (n t : Nat)
  /-- every pip must be zero, or every operation of the slot complete (R61, R352, R353) -/
  | drain
  /-- `barwait` on the barrier with this home for the end of this phase (R244) -/
  | barrier (key : Nat) (phase : Dword)
  /-- a `barwait` whose wait has ended at the home, with PHASE as it then stood (R244) -/
  | barDone (key : Nat) (phase : Dword)
  /-- a `barwait` whose barrier became FAULTED, with the detail word of its trap (R241, R246) -/
  | barFault (key : Nat) (detail : Dword)
  /-- `qpop` on the queue with this home (R155) -/
  | queue (key : Nat)
  /-- `fwpub` on port n: a lane holds four generations not yet released (R136, R141) -/
  | publish (n : Nat)
  /-- a ripple clause none of whose pending lanes has avail (R140) -/
  | ripple
  /-- `rclaim` of n granules into s[d] (R183) -/
  | claim (d n : Nat)
  /-- `wfe`, until the wake or this cycle (R396) -/
  | wfe (until_ : Nat)
  /-- a missing page: until the fault's reply (R219) -/
  | parked
  /-- `rgdeal` or `rgclose` on a bucket that is BUSY, by the home of its entry (R204, R205) -/
  | bucket (key : Nat)
  /-- a unit named by the instruction is busy: a tensor pass, a slot, a full pip (1000 and its number), a sequencer queue
  (2^40 and its number) (R28, R307, R318, R323, R341) -/
  | unit (n : Nat)
deriving DecidableEq, Repr

/-- What an `rgdeal` or `rgclose` that waits has read at its issue (R50, R204, R205): the descriptor's bytes and home, the
lanes it acts on, those of them whose key names no bucket, every lane's key, the carried registers. -/
structure Deal where
  desc : Nat
  home : Nat
  active : Lanes := 0
  left_ : Lanes := 0
  keys : List Nat := []
  words : List (List Word) := []
deriving DecidableEq, Repr

/-- The merge point NONE (R117). -/
def mpNone : Dword := 0xFFFFFFFFFFFFFFFC

/-- A PC slot (R117); a system-class core has one, with OWN and MASK 1 (R48, R61). -/
structure Slot where
  /-- STATE -/
  st : SlotSt := .free
  /-- the address of the next word the slot issues; bits 1:0 zero (R50) -/
  pc : Dword := 0
  own : Lanes := 0
  mask : Lanes := 0
  mp : Dword := mpNone
  /-- the pending mode of R99 -/
  pmode : Option ModeWord := none
  /-- the clause in progress; none where a header is expected (R25) -/
  clause : Option Clause := none
  /-- the pending set P of a ripple clause (R140) -/
  ripple : Option Lanes := none
  /-- the lanes of the wave that runs (R140) -/
  wave : Option Lanes := none
  /-- the waves of the round still to run (R140) -/
  waves : List Lanes := []
  /-- the pending mode present when the slot arrived at the clause: it applies to every wave (R140); of a slot in WAIT,
  the one its `bmerge` had, restored where that faults (R99, R121) -/
  waveMode : Option ModeWord := none
  /-- lanes of the next instruction already performed (R237, R352) -/
  done : Lanes := 0
  block : Option Block := none
  /-- the cycle at which it blocked, or entered WAIT (R121, R158) -/
  since : Nat := 0
  /-- the cycle of its last issue (R157 rule 3, R375) -/
  lastIssue : Nat := 0
  /-- the latest cycle at which it was not ready (R157 rule 3) -/
  idleAt : Nat := 0
  /-- the lanes of a stalled `fwpub` that wait (R141, R158) -/
  stalled : Lanes := 0
  /-- its last clause ended with YIELD set (R157 rule 5) -/
  yielded : Bool := false
  /-- an address comparator does not fire on its next word (R345) -/
  passed : Bool := false
  /-- it stands where `tret` or the end of a parking left it: a request that was held is taken here too (R347) -/
  atReturn : Bool := false
  /-- the number of the instruction it stands at, where an earlier issue of that has performed lanes (R237, R250) -/
  named : Option Nat := none
  /-- of an `rgdeal` or `rgclose` that waits: what it read at its issue (R204, R205) -/
  deal : Option Deal := none
  /-- of an `rgclose` in progress: the buckets it has closed, the groups it has formed from them (R205) -/
  closed : Nat × Nat := (0, 0)
deriving DecidableEq, Repr

/-- What a trap records (R345, R346, R350). -/
structure TrapInfo where
  cause : Nat
  /-- TRAPPC -/
  tpc : Dword
  /-- the recorded PC of the trapping slot -/
  resume : Dword
  addr : Dword := 0
  det2 : Dword := 0
  det3 : Dword := 0
  word : Word := 0
  /-- the slot that traps (TSLOT) -/
  slot : Nat := 0
  /-- DONEMASK -/
  done : Lanes := 0
  /-- the number of the instruction that has performed those lanes (R250) -/
  name : Nat := 0
deriving DecidableEq, Repr

/-- The scalar side of a group or of a system-class core (R47, R49). -/
structure Hart where
  /-- s1 to s62 by number; unlisted: zero -/
  sregs : SMap Dword := []
  /-- the mode register (R37) -/
  md : ModeWord := 0xA5
  /-- pip0 to pip11, 6 bits each (R27); unlisted: zero -/
  pips : SMap Nat := []
  /-- the context -/
  ctx : Nat := 0
  /-- handler mode (R347) -/
  handler : Bool := false
  /-- TRAPCAUSE to TRAPMODE and SYSVEC by special register number (R346); unlisted: zero -/
  trap : SMap Dword := []
  /-- RETIRED (R52) -/
  retired : Nat := 0
  /-- the pending wake of `wfe` and its reasons (R396) -/
  wake : BitVec 16 := 0
  /-- WAKEV (R396) -/
  wakev : Dword := 0
deriving DecidableEq, Repr

/-- A partition or a system-class core that is stopped (R370, R372). -/
structure Stop where
  /-- STOPCODE -/
  code : Nat
  /-- the comparator that stopped it -/
  cmp : Nat := 0
  /-- CYCLES at the stop, and the domain's cycle -/
  cycle : Nat := 0
  at_ : Nat := 0
  /-- the hold queue: operations whose writes have arrived, in order -/
  hold : List Nat := []
deriving DecidableEq, Repr

/-- A STEP in progress (R371): the group and its PC slot (unused for a core), the cycle of its request, and the message
it answers; the request of the protocol that carried the message, where one did. -/
structure StepRun where
  gid : Nat := 0
  k : Nat := 0
  at_ : Nat := 0
  msg : MaelubMsg
  req : Option Req := none
deriving DecidableEq, Repr

/-- A trace or stamp record that waits to be written to its ring (R291, R376). -/
structure RingRec where
  pkg : Nat
  ctx : Nat
  stamp : Bool
  /-- the partition or engine whose records lost are counted together -/
  writer : Nat
  words : List Dword
deriving DecidableEq, Repr

/-- A partition as debug and trace see it (R367, R370, R375). -/
structure PartSt where
  stop : Option Stop := none
  /-- DBGCTX, DBGCMP0 to DBGCMP3, DBGTRC less its ENG and EVT -/
  ctx : Dword := 0
  cmps : SMap Dword := []
  trc : Dword := 0
  /-- the cycle of the `swsr` that set SPER, and the last cycle looked at for a sample -/
  sperAt : Nat := 0
  sampled : Nat := 0
  /-- samples taken and not yet written -/
  samples : List RingRec := []
  /-- a STEP in progress -/
  step : Option StepRun := none
deriving DecidableEq, Repr

/-- ENG and EVT of a die, with the partition for which they were written last: its watched context is theirs (R367). -/
structure DieSt where
  eng : Bool := false
  evt : Bool := false
  part : Nat := 0
deriving DecidableEq, Repr

/-- A system-class core (R3, R70). -/
structure SysCore where
  hart : Hart := {}
  slot : Slot := {}
  /-- halted by `exit` or by a trap it cannot take (R61, R364) -/
  halted : Bool := false
  /-- the selectors and other system registers a core has of its own, by number; unlisted: zero -/
  srs : SMap Dword := []
  /-- the clause the core was in at its trap, for a return into the middle of it (R352) -/
  trapClause : Option Clause := none
  /-- a control core that SEVSEND has not named yet (R403) -/
  waiting : Bool := false
  stop : Option Stop := none
  /-- a STEP in progress -/
  step : Option StepRun := none
  /-- entries of its replay ring consumed in replay (R378) -/
  rlPos : Nat := 0
deriving DecidableEq, Repr

/-- The carry check's side of a 64-byte granule (R222, R223). -/
structure Gran where
  origin : BitVec 16 := 0
  poisoned : Bool := false
deriving DecidableEq, Repr

/-! ## Groups, launches, queues -/

/-- Where a group of a launch stands in its life (R127). -/
inductive Life where
  | placed | running | draining | saved
deriving DecidableEq, Repr

/-- How a group stands towards pre-emption (R355 to R358). -/
inductive Phase where
  /-- no pre-emption handler runs -/
  | none
  /-- the save phase of a pre-emption handler -/
  | save
  /-- the resume phase, or the relaunch that leads to it -/
  | resume
deriving DecidableEq, Repr

/-- What follows once a waiting trap entry or escalation is settled (R348, R354). -/
structure Escalation where
  reason : Nat
  second : Nat
  /-- SEQ of the record, once posted -/
  seq : Option Nat := none
  frame : Dword := 0
  /-- ACTION 0 is accepted: the group resumes from its frame once that can be read (R354) -/
  resuming : Bool := false
deriving DecidableEq, Repr

/-- The vector side of a group (R160, R180, R189, R361). -/
structure Vregs where
  /-- v0 to v223 by number, each the list of its 64 lane words; unlisted: zero -/
  v : SMap (List Word) := []
  /-- poison bits: by register, the poisoned lanes -/
  poison : SMap Lanes := []
  /-- of those, the lanes an instruction has read: their fault was raised -/
  consumed : SMap Lanes := []
  /-- elements overwritten unread, as register × 256 + lane: an error record of KIND 1 is due for each -/
  lost : List Nat := []
  /-- the bypass entries bp0 to bp2 -/
  bp : SMap (List Word) := []
  /-- whether each bypass entry holds a 64-bit result, by entry: its upper words -/
  bpHigh : SMap (List Word) := []
  /-- G: granules held beyond the base block (R180) -/
  granules : Nat := 0
  /-- the beats sliced by `rslice` (R186) -/
  sliced : BitVec 2 := 0
deriving DecidableEq, Repr

/-- A group's standing towards traps and pre-emption (R347 to R358). -/
structure GroupTrap where
  /-- TRAPH, PREEMPTH of the launch header -/
  traph : Dword := 0
  preempth : Dword := 0
  /-- the save record it holds -/
  record : Option Dword := none
  phase : Phase := .none
  /-- cycle of entry of the pre-emption handler (R358) -/
  enteredAt : Nat := 0
  /-- a pre-emption request not yet taken -/
  request : Bool := false
  /-- a trap found and not yet entered -/
  pending : Option TrapInfo := none
  escalated : Option Escalation := none
  /-- the slots as they stood at the trap: clauses and waves, for a resumption inside them (R140, R352), what a pre-empted
  group waited in (R188), instructions performed in part (R250) -/
  stood : SMap Slot := []
  /-- `ds` at the entry of the handler: its rows of R121 see only the entries pushed since -/
  entryDs : Dword := 0
  /-- parked slots as they stood, by the address of their PARK entry: clause, lanes done, pending set (R122) -/
  parked : SMap Slot := []
  /-- the state came from a hardware save (R358) -/
  hwsave : Bool := false
  /-- it stands at its relaunch: its save record is still to be read (R348, R356, R358) -/
  relaunching : Bool := false
deriving DecidableEq, Repr

/-- A group (R113, R117, R127). -/
structure Group where
  /-- the package, die, logical core, partition and group slot it occupies, or occupied last -/
  pkg : Nat := 0
  die : Nat := 0
  core : Nat := 0
  part : Nat := 0
  gslot : Nat := 0
  /-- its workgroup -/
  wg : Nat := 0
  /-- the identifier lane 0 carries (R115) -/
  wid0 : Dword := 0
  /-- lane identifiers that do not follow WID0 (a regrouped group, R206) -/
  wids : SMap Dword := []
  /-- the lanes that are work items (R115) -/
  items : Lanes := 0
  /-- RGKEY (R52) -/
  rgkey : Dword := 0
  life : Life := .placed
  /-- how many faulting accesses hold the group parked (R219) -/
  parked : Nat := 0
  hart : Hart := {}
  slot0 : Slot := {}
  slot1 : Slot := {}
  exited : Lanes := 0
  /-- DSLO and DSHI as local-alias addresses (R119) -/
  dslo : Dword := 0
  dshi : Dword := 0
  regs : Vregs := {}
  trap : GroupTrap := {}
  /-- the open tile record, by its number (R290) -/
  tile : Option Nat := none
  placedAt : Nat := 0
  /-- core-cycles charged so far to its stream (R147, R156) -/
  resident : Nat := 0
  /-- of those, cycles blocked in `qpop` (R156) -/
  idle : Nat := 0
  /-- SAVED and eligible again, it waits for room, ahead of new work of its level (R158) -/
  ahead : Bool := false
deriving DecidableEq, Repr

/-- The lifecycle of an operand slot (R308). -/
inductive OState where
  | free | empty | filling | ready | releasing
deriving DecidableEq, Repr

/-- An operand slot reserved for a workgroup (R303, R306, R308). -/
structure OSlot where
  wg : Nat
  st : OState := .free
  gen : Nat := 0
  record : Dword := 0
  stamp : BitVec 16 := 0
  /-- fills in flight, by command -/
  fills : List Nat := []
  /-- slot rows as numbers of 96 bytes; unlisted: zero codes -/
  rows : SMap Nat := []
  /-- poisoned rows -/
  bad : List Nat := []
  /-- the operation of the `orel` that waits for it to be FREE -/
  relOp : Option Nat := none
deriving DecidableEq, Repr

/-- An accumulator reserved for a workgroup (R303). -/
structure Acc where
  wg : Nat
  /-- elements by 128 × row + column; unlisted: zero -/
  elems : SMap Word := []
  /-- poisoned rows, each with the set of its elements not written since -/
  bad : SMap Nat := []
deriving DecidableEq, Repr

/-- A workgroup on a core (R116, R144). -/
structure Workgroup where
  pkg : Nat := 0
  die : Nat := 0
  core : Nat := 0
  ctx : Nat := 0
  /-- its launch; none for a continuation record or a formed group -/
  launch : Option Nat := none
  /-- the stream that placed it -/
  stream : Nat := 0
  /-- its gang rank -/
  rank : Nat := 0
  /-- its groups, those RELEASED left out -/
  groups : List Nat := []
  /-- LEFT: beat-registers left in the budget (R181) -/
  left_ : Nat := 0
  /-- the slice offset B and the bytes of its region (R119) -/
  base : Nat := 0
  bytes : Nat := 0
  /-- 32 × BARS bytes at B hold the launch's barriers (R240) -/
  bars : Nat := 0
  /-- operand and accumulator slots by number on its domino (R302) -/
  oslots : List Nat := []
  aslots : List Nat := []
  /-- the other workgroup of the domino (R302) -/
  partner : Option Nat := none
  /-- its region is race-checked (R261) -/
  race : Bool := false
  /-- the bytes of a region saved with the workgroup (R158, R359), by offset -/
  saved : Option (List Byte) := none
  /-- and their carry checks, by offset / 64 -/
  savedGrans : SMap Gran := []
  /-- the cycle of the test, as a slot of it started to block, from which on R188's condition has held -/
  stuckAt : Option Nat := none
  /-- operand slots and accumulators saved by a suspension, by number, and the scale windows its slots own, by byte
  (R304, R359) -/
  savedSlots : SMap OSlot := []
  savedAccs : SMap Acc := []
  savedScale : SMap Byte := []
deriving DecidableEq, Repr

/-- What one work item holds of one port (R134, R141). -/
structure PortItem where
  /-- PUB -/
  pubs : Nat := 0
  /-- ENDED -/
  ended : Bool := false
  /-- the last publish -/
  last : Word := 0
  /-- the generations that its reader may still read: number and value -/
  held : List (Nat × Word) := []
  /-- generations that have reached the forwarding buffer of the reader's group -/
  arrived : Nat := 0
  /-- as a reader: its latest read was for this generation (0: none) -/
  read : Nat := 0
deriving DecidableEq, Repr

/-- An accepted launch (R130). -/
structure Launch where
  pkg : Nat := 0
  ctx : Nat := 0
  /-- the 16 words of the header as captured (R128, R131) -/
  header : List Dword := []
  /-- the 8 port defaults as captured (R133) -/
  defaults : List Word := []
  args : Dword := 0
  /-- workgroups placed so far, in ascending index (R144) -/
  placed : Nat := 0
  /-- groups not yet RELEASED -/
  alive : Nat := 0
  /-- port state by item: port + 8 × identifier -/
  items : SMap PortItem := []
  /-- workgroups of a gang reserved so far: die, core (R148) -/
  reserved : List (Nat × Nat) := []
  /-- what its `launch` carries to its groups (R131, R257) -/
  know : SMap Nat := []
  /-- of a launch on several packages: the field j and the value k that this package's groups have, and the part that
  holds the items of all (R143, R400) -/
  part : Option (Nat × Nat) := none
  root : Option Nat := none
  /-- LSEQ (R379) -/
  lseq : Nat := 0
deriving DecidableEq, Repr

/-- An entry of a stream (R146). -/
inductive Entry where
  | launch (id : Nat)
  /-- a continuation record: CODE, FRAME, JOIN (R149), and what its push carries (R257) -/
  | cont (code frame join : Dword) (know : SMap Nat)
  /-- a group formed by the regroup unit (R206) -/
  | formed (id : Nat)
deriving DecidableEq, Repr

/-- A group formed by the regroup unit and not yet placed (R206). -/
structure Formed where
  entry : Dword := 0
  args : Dword := 0
  /-- the die its dealer runs on -/
  die : Nat := 0
  /-- RGKEY -/
  key : Nat := 0
  lanes : Nat := 0
  ncarry : Nat := 0
  /-- the keys of its bucket entry and of its staging area, that by blocks of 256 bytes -/
  bucket : Nat := 0
  stage : List Nat := []
  /-- its stream; it waits outside while the queue is full (R146) -/
  stream : Nat := 0
  waits : Bool := false
  know : SMap Nat := []
deriving DecidableEq, Repr

/-- A pattern table that is loaded (R199). -/
structure Pattern where
  /-- rows 0 to 10 of M -/
  rows : List Nat
  sig : BitVec 16
  ctx : Nat
deriving DecidableEq, Repr

/-- The entries of one queue at one priority (R146, R147). -/
structure Stream where
  entries : List Entry := []
  /-- D in units of 1/64 core-cycle -/
  deficit : Int := 0
  /-- Q in core-cycles, and what STREAMQ has set for the next turn on (R387) -/
  quantum : Nat := 2 ^ 20
  next : Option Nat := none
  /-- its turn at the head of the rotation has begun -/
  turn : Bool := false
deriving DecidableEq, Repr

/-! ## Memory -/

/-- The ownership tag of a 1 KiB unit of a slice (R210, R261). -/
structure UnitTag where
  ctx : Nat := 0
  race : Bool := false
deriving DecidableEq, Repr

/-- A buffered translation (R218): the leaf that covers one 64 KiB page. -/
structure Leaf where
  entry : Dword
  level : Nat
deriving DecidableEq, Repr

/-- The scope instances an agent lies in (R251), by scope 0 to 5; none where it lies in no instance. -/
abbrev Scopes := List (Option Nat)

/-- A release an agent has made, or a write carries (R255). -/
structure Release where
  scopes : Scopes
  scope : Nat
  clock : SMap Nat
deriving DecidableEq, Repr

/-- The detection history of one access (R261, R262). -/
structure Access where
  agent : Nat
  /-- the instruction it belongs to (R250: lanes of one instruction do not conflict) -/
  group : Nat
  inst : Nat
  /-- the agent's access count at it -/
  time : Nat
  acc : Nat
  atomic : Bool
  key : Nat
  size : Nat
  det2 : Dword
  det3 : Dword
deriving DecidableEq, Repr

/-- The detection hardware's knowledge of happens-before (R252 to R262); empty until the first checked access. -/
structure Race where
  active : Bool := false
  /-- by agent: how much of every agent happens before its next event -/
  clocks : SMap (SMap Nat) := []
  /-- by agent: the releases its later writes carry -/
  rels : SMap (List Release) := []
  /-- by byte: the releases that a read of it reads from -/
  writes : SMap (List Release) := []
  /-- by byte: the releases of every write so far: an atomic step later in the coherence order carries them (R255) -/
  past : SMap (List Release) := []
  /-- by launch, item, port and generation: the releases its publish carries (R266) -/
  pubs : SMap (List Release) := []
  /-- by agent: the releases its reads have read from -/
  reads : SMap (List Release) := []
  /-- the `sc` fences so far (R256) -/
  sc : List Release := []
  /-- by granule: the accesses seen -/
  hist : SMap (List Access) := []
  /-- by home: what the messages gathered there carry to those they wake or start (R257) -/
  msgs : SMap (SMap Nat) := []
deriving DecidableEq, Repr

/-- Kinds of access for translation and fault records (R216, R220). -/
inductive AccKind where
  | read | write | rmw | fetch
deriving DecidableEq, Repr

/-- The operations of the atomics (R233). -/
inductive AtOp where
  | add | min | max | and | or | xor | xchg | cas
deriving DecidableEq, Repr

/-- One lane's access of a vector operation. -/
structure LaneReq where
  lane : Nat
  va : Dword
  /-- bytes -/
  n : Nat
  /-- the first register a load writes -/
  reg : Nat
  /-- the value stored, or the operand of an atomic -/
  data : Nat := 0
  /-- the compare code of a cas -/
  cmp : Nat := 0
  /-- its home, once translated: key, address as a race or fault record names it, whether it is race-checked -/
  key : Nat := 0
  addr : Nat := 0
  race : Bool := false
  /-- of an element below a byte: its first bit and its width; width 0: whole bytes (R328) -/
  bit : Nat := 0
  width : Nat := 0
  /-- of a collective: the peer, and OP of `vcred` (R391) -/
  peer : Nat := 0
  op : Nat := 0
  /-- in replay: the rank of its step at its address (R379) -/
  order : Option Nat := none
deriving DecidableEq, Repr

/-- A load from a CB tensor (R341): its pieces fill scratch registers 1000 and up; the lane at each listed position of
its block receives the decoded code in register d. -/
structure CbLoad where
  d : Nat
  rate : Nat
  entry : Dword
  pos : SMap Nat
deriving DecidableEq, Repr

/-- What a scalar access that waits for a missing page does once it translates (R66, R219, R238). -/
inductive ScalarAct where
  | load
  | store
  /-- `satadd` or `satcas`: operation, format entry and mode at issue -/
  | atomic (op : AtOp) (entry : Dword) (md : ModeWord)
deriving DecidableEq, Repr

/-- What an operation in flight does when it completes. -/
inductive OpKind where
  /-- a scalar load or other result for s[d] (R67) -/
  | scalar (d : Nat) (value : Dword)
  /-- a scalar access for s[d] that waits for a missing page: no value yet (R28, R219) -/
  | parkedScalar (d : Nat) (act : ScalarAct)
  /-- a vector load: its fills are written in one step (R219, R227) -/
  | load
  | store
  /-- a vector atomic: operation, format entry and mode at issue, whether it returns old values (R234) -/
  | atomic (op : AtOp) (entry : Dword) (md : ModeWord) (old : Bool)
  /-- a collective: 0 put, 1 get, 2 reduce; channel state by its address, format entry and mode at issue (R391) -/
  | collective (which : Nat) (entry : Dword) (md : ModeWord)
  | prefetch
  /-- an engine command or a matrix operation: no access of the slot (R276, R318, R410) -/
  | engine
deriving DecidableEq, Repr

/-- An operation in flight (R27, R28). -/
structure Op where
  agent : Agent
  /-- the pip that counts it -/
  pip : Option Nat
  /-- its instruction: address, word and clause -/
  pc : Dword
  word : Word
  clause : Option Clause := none
  /-- the group's or core's count of instructions at its issue (R379) -/
  inst : Nat := 0
  /-- its instruction's number among all (R250) -/
  name : Nat := 0
  kind : OpKind
  /-- the pending mode at its issue, restored if it traps (R99) -/
  pmode : Option ModeWord := none
  /-- accesses whose completion is awaited: of an atomic, applied at their homes unless they wait for their rank; else
  sent to another package and not performed -/
  reqs : List LaneReq := []
  /-- the cycle at which they were sent (R389) -/
  sent : Nat := 0
  /-- lanes that were done before this issue of the instruction (R237) -/
  before : Lanes := 0
  /-- lanes performed -/
  done : Lanes := 0
  /-- bits of memory a store has written, by bit address, with the place of the writing access in the instruction:
  higher lanes win (R212) -/
  stored : List (Nat × Nat) := []
  /-- data arrived for a load: register, lane, word -/
  fills : List (Nat × Nat × Word) := []
  /-- scalar registers and vector registers with a write pending (R50) -/
  pendS : List Nat := []
  pendV : List Nat := []
  /-- a poisoned granule met: lane, address, second detail word (R224) -/
  bad : Option (Nat × Dword × Dword) := none
  /-- all its data has arrived and its deferred fault is to be taken at its slot's next boundary (R224) -/
  due : Bool := false
  /-- fault buffer entries that hold lanes of it -/
  entries : Nat := 0
  cb : Option CbLoad := none
  /-- the tensor whose handle it accesses, by table key (R341) -/
  tensor : Option Nat := none
  /-- the cycle of its issue (R373) -/
  at_ : Nat := 0
  /-- a lane of it goes to DRAM or to another die (R373) -/
  far : Bool := false
  /-- it was replayed: its group stays parked until it completes (R219) -/
  holds : Bool := false
  /-- it has ended in a trap, which waits for its stopped agent to go on (R370) -/
  ends : Option TrapInfo := none
deriving DecidableEq, Repr

/-- What a fault buffer entry holds back (R219, R230). -/
inductive Parked where
  /-- lanes of an operation in flight -/
  | lanes (op : Nat) (reqs : List LaneReq)
  /-- a word to be fetched or issued again -/
  | reissue (word : Word)
  /-- the hardware's own access to the save record of a group: an entry, a save, a relaunch (R348) -/
  | record
  /-- a walk of `vpfx`: no access, no parking -/
  | walk
  /-- granules of an engine command (R300) -/
  | command (cmd : Nat)
  /-- the fence word of a ragged product, by its domino (R320) -/
  | fence (dom : Nat)
  /-- stamp or trace records, by the core or engine that writes them (R291) -/
  | ring (writer : Nat)
deriving DecidableEq, Repr

/-- An entry of a core's fault buffer, or a fault that waits for one (R219, R220). -/
structure FaultEntry where
  /-- the group, or none for an engine -/
  gid : Option Nat
  slot : Nat := 0
  pkg : Nat
  die : Nat
  core : Nat
  ctx : Nat
  va : Dword
  kind : AccKind
  /-- CAUSE: 0 missing, 1 no RD, 2 no W, 3 no X -/
  cause : Nat
  held : Parked
  /-- FBIDX; none while no entry is free -/
  idx : Option Nat := none
  /-- SEQ, once its record is posted -/
  seq : Option Nat := none
  /-- the pip that counts the word it holds (R28) -/
  pip : Option Nat := none
deriving DecidableEq, Repr

/-! ## Boards (R284) -/

/-- An armed trigger slot (R285): its record and the arming context. -/
structure Trigger where
  record : List Dword
  ctx : Nat
deriving DecidableEq, Repr

/-- The board of a core (R284). -/
structure Board where
  /-- the context each allotted window belongs to -/
  owners : SMap Nat := []
  /-- the bits of each window; unlisted: zero -/
  bits : SMap Dword := []
  /-- trigger slots 0 to 31 that are armed -/
  triggers : SMap Trigger := []
  /-- FAILED, by slot: the context whose append failed (R286) -/
  failed : SMap Nat := []
deriving DecidableEq, Repr

/-! ## Contexts and packages -/

/-- An open queue (R146, R400): its capacity over all priorities, and the priorities permitted. -/
structure Queue where
  cap : Nat := 1024
  prios : BitVec 4 := 0xF
deriving DecidableEq, Repr

/-- A context of a package (R103, R146, R217). -/
structure Ctx where
  opened : Bool := false
  /-- CTXROOT (R217) -/
  root : Dword := 0
  /-- the boot mapping of R403 stands in for page tables -/
  direct : Bool := false
  /-- format entries 16 to 31 as programmed, by index (R74, R76) -/
  fmts : SMap Dword := []
  /-- WAITSAVE, STAMPRING, CTXSAVE and the other registers a context has, by number; unlisted: the reset value -/
  srs : SMap Dword := []
  /-- launch queues by number (0 to 63), continuation queues by 64 + number: the open ones (R146) -/
  queues : SMap Queue := []
  /-- a suspension is requested (R359) -/
  suspending : Bool := false
  /-- it is suspended: no new work is placed -/
  suspended : Bool := false
  /-- the suspension lacks room and has no group to stand for it: a record is due, then SEQ of the record (R354, R365) -/
  short : Option (Option Nat) := none
  /-- the next stamp sequence number (R290, R291) -/
  stampSeq : Nat := 0
  /-- the key that OPEN returned, and the packages it was opened on (R400) -/
  key : BitVec 58 := 0
  members : List Nat := []
  /-- launches accepted: the last LSEQ (R379) -/
  lseq : Nat := 0
  /-- entries of its replay ring consumed in replay, by position (R379) -/
  rlTaken : List Nat := []
  /-- steps logged or applied so far, by address; completions, by die (R377, R379) -/
  ranks : SMap Nat := []
  dieRanks : SMap Nat := []
  /-- port arrivals in logged ranges not yet logged: address and payload (R378) -/
  arrivals : List (Dword × List Byte) := []
  /-- an agent of it has diverged (R380) -/
  diverged : Bool := false
  /-- what it held in the windows taken from it while it was suspended, by 4 × core + window (R284, R359) -/
  boards : SMap Board := []
deriving DecidableEq, Repr

/-- A flit of a Rhoam link (R388): granule slots as numbers of 64 bytes, their words of carry check and origin. -/
structure Flit where
  seq : Nat := 0
  ack : Nat := 0
  /-- 0 idle, 1 data, 2 NAK, 3 control, 4 time -/
  kind : Nat := 0
  credits : Nat := 0
  txa : Dword := 0
  txb : Dword := 0
  grans : List Nat := []
  carries : List Dword := []
deriving DecidableEq, Repr

/-- A link port (R386, R388, R389). -/
structure Link where
  /-- LINKSTAT: 0 down, 1 training, 2 up; the neighbour advertised CB; the neighbour package; retries -/
  st : Nat := 0
  cb : Bool := false
  neighbour : Nat := 0
  retries : Nat := 0
  /-- the SEQ expected next, and retries in a row -/
  rx : Nat := 0
  fails : Nat := 0
  /-- as the sender: the next SEQ, the flits sent and not yet acknowledged (the replay buffer), those that wait for room -/
  tx : Nat := 0
  buffer : List Flit := []
  waiting : List Flit := []
  /-- credits taken by flits sent and not returned, and credits it owes its neighbour -/
  used : Nat := 0
  owed : Nat := 0
deriving DecidableEq, Repr

/-- A WAIT request not yet answered: its TAG, context and launches, by package and LSEQ (R400). -/
structure WaitReq where
  req : Req
  launches : List (Nat × Nat)
deriving DecidableEq, Repr

/-- A package (R1 to R5). -/
structure Pkg where
  /-- it has power -/
  on : Bool := false
  /-- its domain number, from link bring-up on: its index in the domain, assigned with it, is the number by which the
  model knows the package (R385) -/
  domain : Option Nat := none
  /-- the cycle of its power-on (CYCLES counts from it, R52) -/
  onAt : Nat := 0
  booted : Bool := false
  /-- system registers that the package has once, by number; unlisted: zero -/
  srs : SMap Dword := []
  /-- TIMENS: T, and the cycle from which c counts (R52) -/
  timeT : Dword := 0
  timeAt : Nat := 0
  /-- the place table: by die × 128 + logical core, VALID and position (R363); unlisted: 0 -/
  places : SMap (BitVec 8) := []
  /-- the route table (R386): RTENT0 and RTENT1 by 2 × logical package and 1 more; unlisted: not valid -/
  routes : SMap Dword := []
  /-- dominoes per die reserved for collectives: the highest-numbered (R159, R393) -/
  reserved : Nat := 0
  /-- the next sequence numbers of fault and escalation records (R220, R354) -/
  faultSeq : Nat := 0
  escSeq : Nat := 0
  /-- link ports 0 to 71 -/
  links : SMap Link := []
  /-- the circuit of the phase that runs: the peer, its ports, and the TIMENS at which it ends (R395) -/
  circuit : Option (Nat × List Nat × Nat) := none
  /-- requests that wait in the transport's credits, with the port each arrived at (R402) -/
  waitingReqs : List (Nat × List Byte) := []
  /-- the peers that the service image lists, for requests and for debug messages (R368, R399) -/
  peers : List Nat := []
  debugPeers : List Nat := []
  /-- WAIT requests not yet answered -/
  waits : List WaitReq := []
  /-- of every ROD flow that has carried requests, how many of them are served (R399) -/
  flows : SMap Nat := []
  /-- 64 KiB pages of DRAM that the service has given out, by number, and the context each serves, a context not open
  here as its first package + 1, times 64, and its number (R400) -/
  pages : SMap Nat := []
  /-- what LAUNCH returned, by launch number in a context: the LSEQ taken on every package of its list (R400) -/
  numbers : SMap (List (Nat × Nat)) := []
deriving DecidableEq, Repr

/-! ## Chains, tensors -/

/-- What the hardware keeps of an append, beside the command in memory (R276, R278). -/
structure Appended where
  /-- the number of the command from its append on -/
  id : Nat := 0
  va : Dword
  ticket : Nat
  /-- the operation whose pip counts it -/
  op : Option Nat := none
  /-- the workgroup that counts as the lander of its credit (R243) -/
  wg : Option Nat := none
  /-- what ACQ carries, and the scope instances of who appended it; none for a fired command (R264) -/
  know : SMap Nat := []
  scopes : Scopes := []
  /-- the tile record it is attributed to, and whether as copy-out (R289) -/
  tile : Option (Nat × Bool) := none
  at_ : Nat := 0
  /-- of a replay-logged group: the agent, its RETIRED, and the descriptor's address (R379) -/
  by_ : Option (Agent × Nat) := none
  desc : Dword := 0
deriving DecidableEq, Repr

/-- What the engine keeps of a chain (R271). A hidden chain (of a tensor, of a domino) holds its commands itself. -/
structure Chain where
  pkg : Nat := 0
  die : Nat := 0
  engine : Nat := 0
  ctx : Nat := 0
  /-- the command that runs or posts its record -/
  running : Option Nat := none
  /-- the appends not yet complete, in order -/
  appended : List Appended := []
  /-- of a hidden chain: the commands not yet complete, in order -/
  queue : List Nat := []
  /-- of a hidden chain: commands ever appended, COMPL, HALTED -/
  tickets : Nat := 0
  compl : Nat := 0
  halted : Bool := false
deriving DecidableEq, Repr

/-- Bytes in the spill buffer (R300): address, bytes, value, and the origin they carry if poisoned. -/
structure Spill where
  va : Dword
  n : Nat
  value : Nat
  poison : Option (BitVec 16) := none
  /-- of an element below a byte: its first bit and its width; width 0: whole bytes -/
  bit : Nat := 0
  width : Nat := 0
deriving DecidableEq, Repr

/-- One pass of a relay (R338): its level, and its operations (t, s) in the order the data receives them. -/
structure Pass where
  level : Nat
  ops : List (Nat × Nat)
deriving DecidableEq, Repr

/-- Where a relay stands (R340). -/
inductive RelayPhase where
  | accepted | factoring | check | run
  /-- every element is written, some into the spill buffer -/
  | written
deriving DecidableEq, Repr

/-- A relay (R336 to R340). -/
structure RelayRun where
  /-- its tensor, by table key, and the GEN of the handle -/
  tensor : Nat
  gen : Nat
  rows : List Dword
  newBase : Dword
  /-- NEWRATE as the request has it (R336) -/
  newRate : Nat
  phase : RelayPhase := .accepted
  passes : List Pass := []
  /-- passes completed -/
  done : Nat := 0
deriving DecidableEq, Repr

/-- A fill or store of a domino (R311 to R314, R322). -/
structure FillRun where
  /-- the domino's key -/
  dom : Nat
  /-- the operand slot and its GEN; for a store, the first accumulator -/
  slot : Nat
  gen : Nat := 0
  /-- the second accumulator of an fp64 pair that is stored -/
  acc2 : Option Nat := none
  /-- the tensor's table key and GEN -/
  tensor : Nat := 0
  tgen : Nat := 0
  /-- the tensor's format record, captured -/
  fentry : Dword := 0
  /-- format record and mode captured for a store -/
  entry : Dword := 0
  md : ModeWord := 0
  /-- matrix operations ahead of it that must have read the slot, or completed on the accumulator (R308, R322) -/
  after : List Nat := []
  /-- the bytes of `ofillv` as a number, and its first row -/
  block : Option (Nat × Nat) := none
  /-- its data is in the slot -/
  landed : Bool := false
deriving DecidableEq, Repr

/-- An engine command that has started, or that a hidden chain holds (R273 to R277). -/
structure Cmd where
  chain : Nat
  pkg : Nat := 0
  die : Nat := 0
  engine : Nat := 0
  ctx : Nat := 0
  /-- what was kept at its append -/
  app : Appended
  /-- its eight words as captured; the request of a RELAY, OFILL or OSTORE -/
  words : List Dword := []
  req : List Dword := []
  started : Bool := false
  /-- the checks of its start are made -/
  checked : Bool := false
  /-- its record is being posted -/
  posting : Bool := false
  status : Nat := 0
  /-- DONE, DETAIL2, DETAIL3 of its record -/
  bytes : Nat := 0
  det2 : Dword := 0
  det3 : Dword := 0
  /-- granules moved by a COPY or FILL -/
  pos : Nat := 0
  spills : List Spill := []
  relay : Option RelayRun := none
  fill : Option FillRun := none
  /-- it waits for replies -/
  entries : Nat := 0
  startedAt : Nat := 0
  /-- the cycle from which an access of it to another package has been awaited (R389) -/
  awaits : Option Nat := none
deriving DecidableEq, Repr

/-- An event record on its way to its queue (R280, R281). -/
structure EvPost where
  cmd : Nat
  queue : Dword
  words : List Dword
deriving DecidableEq, Repr

/-- An entry of a context's tensor table (R327, R331). -/
structure Tensor where
  live : Bool := false
  gen : Nat := 0
  fmt : Nat := 0
  /-- the record of FMT as captured -/
  entry : Dword := 0
  /-- b_d and e_d by dimension -/
  widths : List Nat := []
  extents : List Nat := []
  wcore : Nat := 0
  wdie : Nat := 0
  wpkg : Nat := 0
  /-- current base, side base, rate code and matrix -/
  base : Dword := 0
  side : Dword := 0
  rate : Nat := 0
  rows : List Dword := []
  /-- the die whose engine ENTRY mod 16 serves its chain -/
  die : Nat := 0
  /-- relays accepted and not complete, by command -/
  relays : List Nat := []
  /-- level of the current or last pass -/
  level : Nat := 0
deriving DecidableEq, Repr

/-- A tile record, open or pending (R288 to R290). -/
structure Tile where
  gid : Nat
  pkg : Nat
  die : Nat
  core : Nat
  ctx : Nat
  tile : Word
  t0 : Nat
  /-- the cycle of each stage reached, by stage 1 to 7 -/
  stages : SMap Nat := []
  fillw : Nat := 0
  arrayw : Nat := 0
  outw : Nat := 0
  /-- SEQ once closed, and the cycle of that -/
  seq : Option Nat := none
  closedAt : Nat := 0
  /-- attributed work not yet complete: commands, and matrix operations as 2^40 + number -/
  work : List Nat := []
  /-- a matrix operation has been issued -/
  matrix : Bool := false
deriving DecidableEq, Repr

/-! ## Dominoes -/

/-- A matrix operation in its sequencer's queue (R315 to R320). -/
structure MatOp where
  id : Nat
  /-- the operation in flight whose pip counts it -/
  op : Nat
  /-- 0 mma, 1 mmas, 2 mmar, 3 mmaz; 4 the test of `mtest`, of sub-array `a` -/
  which : Nat
  ctx : Nat
  /-- the accumulator, and the second of an fp64 pair -/
  acc : Nat
  acc2 : Option Nat := none
  /-- operand slots: A, B, B's second, metadata -/
  a : Nat
  b : Nat
  b2 : Nat := 0
  meta_ : Nat := 0
  /-- the records of A and B -/
  recA : Dword
  recB : Dword
  /-- the format records of A, B and B's second, and the mode, as captured -/
  entryA : Dword
  entryB : Dword
  entryB2 : Dword := 0
  md : ModeWord
  fence : Dword := 0
  /-- the fills it waits for -/
  fills : List Nat := []
  /-- the cycle from which they are done -/
  ready : Option Nat := none
  /-- the stores of its accumulators ahead of it -/
  stores : List Nat := []
  /-- it has started: an operation other than `mmar` has read its operands -/
  started : Bool := false
  /-- NR0, and NR once read (R320) -/
  nr0 : Nat := 0
  nr : Option Nat := none
  /-- its fence could not be read (R320) -/
  dead : Bool := false
  /-- a reply about its fence is awaited -/
  fenceWaits : Bool := false
  /-- the cycle TS at which `mmar` read NR -/
  ts : Nat := 0
  /-- results by 128 × row + column -/
  results : SMap Nat := []
  /-- poisoned result rows -/
  badRows : List Nat := []
  tile : Option Nat := none
  at_ : Nat := 0
deriving DecidableEq, Repr

/-- A domino (R301, R303, R307, R324). -/
structure Domino where
  slots : SMap OSlot := []
  accs : SMap Acc := []
  /-- scale region by byte; unlisted: zero -/
  scale : SMap Byte := []
  queue : List MatOp := []
  /-- OPSEQ -/
  opseq : Nat := 0
  /-- self-tests injected so far -/
  tests : Nat := 0
  /-- fenced sub-arrays -/
  fenced : BitVec 16 := 0
  /-- the sub-array tested next, and the pattern class of the next test: 0 S, 1 H, 2 Q -/
  next : Nat := 0
  class_ : Nat := 0
  /-- by sub-array: OPSEQ and every context's NEXTSEQ at its last pass, and the contexts that ran since, in order -/
  passed : SMap Nat := []
  snaps : SMap (SMap Nat) := []
  ran : SMap (List Nat) := []
deriving DecidableEq, Repr

/-- A plan that runs in the domain (R394, R395). -/
structure PhasePlan where
  pkg : Nat
  ctx : Nat
  /-- its operation in flight -/
  op : Nat
  parts : List Nat
  ports : Nat
  /-- start_q and D_q of every phase -/
  phases : List (Nat × Nat)
  sched : Dword
  die : Nat
  core : Nat
  win : Nat
  bbase : Nat
  /-- phases started -/
  started : Nat := 0
  /-- a window was not allotted: status 2 -/
  unset : Bool := false
deriving DecidableEq, Repr

/-- A message that has left a package: 0 a Maelub reply, 1 a message of REQSEND, 2 a reply of the request protocol, 3 a
flit of a link port. -/
structure Sent where
  pkg : Nat
  kind : Nat
  bytes : List Byte
  port : Nat := 0
deriving DecidableEq, Repr

/-- One choice of the outside: the agent that issues next, an event that happens next, or time that passes. -/
inductive Turn where
  | issue (a : Agent)
  | event (i : Instr)
  | elapse (n : Nat)
deriving DecidableEq, Repr

/-- The whole machine: one load-store domain. -/
structure State where
  /-- cycles of the domain's clock (R4) -/
  cycle : Nat := 0
  /-- the model's own counter of free values read (log 8) -/
  free : Nat := 0
  /-- the outside's choices to come (log 2) -/
  turns : List Turn := []
  /-- the agent that issues -/
  cur : Agent := .sys 0 8 0
  /-- the word that issues, as fetched (TRAPWORD, R345) -/
  word : Word := 0
  /-- memory: DRAM byte p at key p < 2^49, slice place q at key 2^49 + q (R208, R213) -/
  mem : SMap Byte := []
  /-- carry checks, by key / 64 -/
  grans : SMap Gran := []
  /-- ownership tags, by place / 1024; unlisted: FREE (R210) -/
  units : SMap UnitTag := []
  /-- buffered translations, by (pkg × 64 + ctx) × 2^41 + page -/
  buffered : SMap Leaf := []
  race : Race := {}
  pkgs : SMap Pkg := []
  /-- contexts by pkg × 64 + number -/
  ctxs : SMap Ctx := []
  /-- system-class cores by (pkg × 16 + die) × 128 + CORE -/
  cores : SMap SysCore := []
  groups : SMap Group := []
  wgs : SMap Workgroup := []
  launches : SMap Launch := []
  /-- groups formed and not yet placed -/
  formed : SMap Formed := []
  /-- pattern tables, by (partition number) × 16 + index (R199) -/
  patterns : SMap Pattern := []
  /-- the arming workgroup of barrier objects, by home (R242) -/
  armers : SMap Nat := []
  /-- boards by core (R284) -/
  boards : SMap Board := []
  /-- chains by the home of the descriptor; hidden chains above 2^60 -/
  chains : SMap Chain := []
  /-- the chain whose command an engine started last, by (pkg × 16 + die) × 16 + engine (R271) -/
  engineLast : SMap Nat := []
  cmds : SMap Cmd := []
  /-- event records on their way, by number -/
  posts : SMap EvPost := []
  /-- tensor tables by (pkg × 64 + ctx) × 4096 + ENTRY -/
  tensors : SMap Tensor := []
  /-- tile records open or pending, by number -/
  tiles : SMap Tile := []
  /-- dominoes by (pkg × 16 + die) × 64 + number -/
  dominoes : SMap Domino := []
  /-- streams by ((pkg × 64 + ctx) × 128 + queue) × 4 + priority (R146) -/
  streams : SMap Stream := []
  /-- the rotation of streams, the head first (R147) -/
  rotation : List Nat := []
  ops : SMap Op := []
  /-- partitions by core key × 4 + partition -/
  parts : SMap PartSt := []
  /-- dies by pkg × 16 + die -/
  dies : SMap DieSt := []
  /-- stamp and trace records that wait, by the core or engine that writes them -/
  rings : SMap (List RingRec) := []
  /-- trace records dropped since the last written, by partition or engine (R376) -/
  lost : SMap Nat := []
  plan : Option PhasePlan := none
  /-- messages that have left, the latest first -/
  sent : List Sent := []
  /-- fault buffer entries and the faults that wait for one, in the order found -/
  faults : List FaultEntry := []
  /-- the next number for a group, workgroup, launch, operation or command -/
  nextId : Nat := 1
deriving DecidableEq, Repr

/-- What the machine itself stops on: nothing. Every fault of the spec is an exception that is taken, or a status that
is written, and the machine goes on. -/
inductive Fault
deriving DecidableEq, Repr

/-- What the model gives no meaning to. -/
inductive Refusal where
  /-- an instruction the model gives no meaning: raised by its arm of `exec`, safe -/
  | notModelled (mnemonic : String)
deriving DecidableEq, Repr

/-- Right after reset: one package stands unpowered, nothing else is there (R5). -/
def State.reset : State := { pkgs := [(0, {})] }

end Sys2Proof.Machine
end

