-- ==== Sys2Proof/Machine/Base.lean ====
section
/-! DEFINITION. Accessors: every register has one home and all reads and writes of it go through here. -/

namespace Sys2Proof.Machine

/-! ## Bits -/

/-- bits(x, h, l) as a number (R46). -/
def bits (x : Dword) (h l : Nat) : Nat := (x.toNat / 2 ^ l) % 2 ^ (h + 1 - l)

/-- Bit i. -/
def bitAt (x : Dword) (i : Nat) : Bool := x.getLsbD i

/-- The set of the lanes of a list. -/
def lanesOf (l : List Nat) : Lanes := l.foldl (fun m i => m ||| (1#64 <<< i)) 0

/-- The lanes of a set, ascending. -/
def lanesList (m : Lanes) : List Nat := (List.range 64).filter fun i => m.getLsbD i

/-- The lanes 0 to n − 1. -/
def lanesBelow (n : Nat) : Lanes := BitVec.ofNat 64 (2 ^ n - 1)

/-- sext(x, n) of a field (R46). -/
def sext64 {w : Nat} (x : BitVec w) : Dword := x.signExtend 64

/-- 64 words of zero. -/
def zeroVec : List Word := List.replicate 64 0

/-! ## Cores, groups, harts, slots -/

/-- The key of a core: package, die (8: the service die), CORE number. -/
def coreKey (pkg die core : Nat) : Nat := (pkg * 16 + die) * 128 + core

def State.core (s : State) (pkg die core : Nat) : SysCore := SMap.get s.cores (coreKey pkg die core) {}
def State.setCore (s : State) (pkg die core : Nat) (c : SysCore) : State :=
  { s with cores := SMap.put s.cores (coreKey pkg die core) c }

def State.group (s : State) (gid : Nat) : Group := SMap.get s.groups gid {}
def State.setGroup (s : State) (gid : Nat) (g : Group) : State := { s with groups := SMap.put s.groups gid g }

def State.wg (s : State) (w : Nat) : Workgroup := SMap.get s.wgs w {}
def State.setWg (s : State) (w : Nat) (x : Workgroup) : State := { s with wgs := SMap.put s.wgs w x }

def State.launch (s : State) (l : Nat) : Launch := SMap.get s.launches l {}
def State.setLaunch (s : State) (l : Nat) (x : Launch) : State := { s with launches := SMap.put s.launches l x }

def State.pkg (s : State) (p : Nat) : Pkg := SMap.get s.pkgs p {}
def State.setPkg (s : State) (p : Nat) (x : Pkg) : State := { s with pkgs := SMap.put s.pkgs p x }

/-- The key of a context of a package. -/
def ctxKey (pkg ctx : Nat) : Nat := pkg * 64 + ctx

def State.ctx (s : State) (pkg ctx : Nat) : Ctx := SMap.get s.ctxs (ctxKey pkg ctx) {}
def State.setCtx (s : State) (pkg ctx : Nat) (x : Ctx) : State := { s with ctxs := SMap.put s.ctxs (ctxKey pkg ctx) x }

/-- The scalar side of an agent. -/
def State.hart (s : State) : Agent → Hart
  | .sys p d c => (s.core p d c).hart
  | .slot g _ => (s.group g).hart

def State.setHart (s : State) (a : Agent) (h : Hart) : State :=
  match a with
  | .sys p d c => s.setCore p d c { s.core p d c with hart := h }
  | .slot g _ => s.setGroup g { s.group g with hart := h }

/-- Slot k of a group. -/
def Group.slot (g : Group) (k : Nat) : Slot := if k = 0 then g.slot0 else g.slot1
def Group.setSlot (g : Group) (k : Nat) (x : Slot) : Group :=
  if k = 0 then { g with slot0 := x } else { g with slot1 := x }

/-- The PC slot of an agent. -/
def State.slot (s : State) : Agent → Slot
  | .sys p d c => (s.core p d c).slot
  | .slot g k => (s.group g).slot k

def State.setSlot (s : State) (a : Agent) (x : Slot) : State :=
  match a with
  | .sys p d c => s.setCore p d c { s.core p d c with slot := x }
  | .slot g k => s.setGroup g ((s.group g).setSlot k x)

/-- The package, die and core an agent stands on. -/
def State.placeOf (s : State) : Agent → Nat × Nat × Nat
  | .sys p d c => (p, d, c)
  | .slot g _ => ((s.group g).pkg, (s.group g).die, (s.group g).core)

def State.pkgOf (s : State) (a : Agent) : Nat := (s.placeOf a).1

/-- An agent is a system-class core (R3). -/
def isSys : Agent → Bool
  | .sys _ _ _ => true
  | .slot _ _ => false

/-- The group of an agent, 0 for a system-class core. -/
def gidOf : Agent → Nat
  | .sys _ _ _ => 0
  | .slot g _ => g

/-- The PC slot number of an agent. -/
def slotNo : Agent → Nat
  | .sys _ _ _ => 0
  | .slot _ k => k

/-- Two agents share one scalar side (R49). -/
def sameHart : Agent → Agent → Bool
  | .sys p d c, .sys p' d' c' => p == p' && d == d' && c == c'
  | .slot g _, .slot g' _ => g == g'
  | _, _ => false

/-- The context an agent runs in. -/
def State.ctxOf (s : State) (a : Agent) : Nat := (s.hart a).ctx

/-! ## Scalar registers -/

/-- s[n] as the issuing agent reads it (R36, R47, R48): s0 is zero, s63 the slot's mask. -/
def State.readS (s : State) (n : BitVec 8) : Dword :=
  if n = 0 then 0
  else if n = 63 then (s.slot s.cur).mask
  else SMap.get (s.hart s.cur).sregs n.toNat 0

/-- Writes s63: MASK becomes the value AND OWN (R118); a system-class core discards it (R48). -/
def State.writeMask (s : State) (v : Dword) : State :=
  if isSys s.cur then s
  else s.setSlot s.cur { s.slot s.cur with mask := v &&& (s.slot s.cur).own }

/-- s[n] := v (R36, R48, R118). -/
def State.writeS (s : State) (n : BitVec 8) (v : Dword) : State :=
  if n = 0 then s
  else if n = 63 then s.writeMask v
  else s.setHart s.cur { s.hart s.cur with sregs := SMap.put (s.hart s.cur).sregs n.toNat v }

/-- The number of the instruction that the issuing slot issues: the lanes of one instruction share it, those of an earlier
issue of it too (R250). -/
def State.instName (s : State) : Nat := ((s.slot s.cur).named).getD s.cycle

/-! ## Pips (R27, R28) -/

def Hart.pip (h : Hart) (n : Nat) : Nat := SMap.get h.pips n 0
def Hart.setPip (h : Hart) (n v : Nat) : Hart := { h with pips := SMap.set h.pips n v 0 }

/-- Every pip is zero. -/
def Hart.pipsZero (h : Hart) : Bool := h.pips.all fun e => e.2 == 0

/-- Counts pip n of an agent up. -/
def State.pipUp (s : State) (a : Agent) (n : Nat) : State :=
  s.setHart a ((s.hart a).setPip n ((s.hart a).pip n + 1))

/-- Counts pip n of an agent down. -/
def State.pipDown (s : State) (a : Agent) (n : Nat) : State :=
  s.setHart a ((s.hart a).setPip n ((s.hart a).pip n - 1))

/-! ## Modes (R37 to R39) -/

/-- The mode the next instruction of the issuing slot reads: the pending mode of R99, else `md`. -/
def State.mode (s : State) : ModeWord := ((s.slot s.cur).pmode).getD (s.hart s.cur).md

def mdSF (m : ModeWord) : Nat := m.toNat % 32
def mdDF (m : ModeWord) : Nat := m.toNat / 32 % 32
def mdRM (m : ModeWord) : Nat := m.toNat / 1024 % 8
def mdOV (m : ModeWord) : Bool := m.getLsbD 13
def mdIS (m : ModeWord) : Bool := m.getLsbD 14
def mdGR (m : ModeWord) : Nat := m.toNat / 32768 % 64
def mdGI (m : ModeWord) : Bool := m.getLsbD 21

/-- A value `md` accepts: bits 23:22 zero, RM below 6 (R37). -/
def modeOk (m : ModeWord) : Bool := m.toNat / 2 ^ 22 == 0 && mdRM m < 6

/-- The guard of the issuing slot (R39). -/
def State.guard (s : State) : Lanes :=
  let m := s.mode
  if mdGR m = 0 then BitVec.allOnes 64
  else if mdGI m then ~~~ s.readS (BitVec.ofNat 8 (mdGR m)) else s.readS (BitVec.ofNat 8 (mdGR m))

/-- ACTIVE of the issuing slot (R39), narrowed to the wave that runs (R140). -/
def State.active (s : State) : Lanes :=
  if isSys s.cur then 1
  else (s.slot s.cur).mask &&& s.guard &&& ((s.slot s.cur).wave).getD (BitVec.allOnes 64)

/-- The lanes the next instruction acts on: ACTIVE less the lanes already performed (R237, R352). -/
def State.acting (s : State) : Lanes := s.active &&& ~~~ (s.slot s.cur).done

/-! ## Vector registers -/

/-- A vector register's words. -/
def Vregs.reg (r : Vregs) (n : Nat) : List Word := SMap.get r.v n zeroVec
def Vregs.bypass (r : Vregs) (e : Nat) : List Word := SMap.get r.bp e zeroVec

/-- Lane L's word of a register; a sliced beat reads zero (R186). -/
def Vregs.lane (r : Vregs) (reg lane : Nat) : Word :=
  if r.sliced.getLsbD (lane / 32) then 0 else (r.reg reg).getD lane 0

/-- A register as its lanes read it: the words of sliced beats are zero (R186). -/
def Vregs.value (r : Vregs) (reg : Nat) : List Word := (List.range 64).map (r.lane reg)

/-- The poison of some lanes of a register is overwritten: what nothing has read is lost (R361). -/
def Vregs.clear (r : Vregs) (reg : Nat) (lanes : Lanes) : Vregs :=
  let p := SMap.get r.poison reg 0
  if p &&& lanes = 0 then r
  else
    let c := SMap.get r.consumed reg 0
    { r with
      poison := SMap.set r.poison reg (p &&& ~~~ lanes) 0
      consumed := SMap.set r.consumed reg (c &&& ~~~ lanes) 0
      lost := r.lost ++ (lanesList (p &&& lanes &&& ~~~ c)).map fun l => reg * 256 + l }

/-- Writes one register in the lanes of a set; sliced beats discard; poison clears (R161, R186, R361). -/
def Vregs.write (r : Vregs) (reg : Nat) (lanes : Lanes) (f : Nat → Word) : Vregs :=
  let ok (l : Nat) : Bool := lanes.getLsbD l && !r.sliced.getLsbD (l / 32)
  { r with v := SMap.put r.v reg ((List.range 64).map fun l => if ok l then f l else (r.reg reg).getD l 0) }.clear
    reg (lanesOf ((List.range 64).filter ok))

/-! ## Clauses -/

/-- The address of the header of the clause in progress (R33, R46). -/
def Slot.hdr (x : Slot) : Dword := (x.clause.map Clause.hdr).getD x.pc

/-- The first word after the clause (R58): hdr + 4 × (LEN + 2), with `len` = LEN + 1 words after the header. -/
def Clause.next (c : Clause) : Dword := c.hdr + 4 * BitVec.ofNat 64 (c.len + 1)

/-- `next` of the issuing slot. -/
def State.nextClause (s : State) : Dword := (((s.slot s.cur).clause).map Clause.next).getD ((s.slot s.cur).pc + 4)

/-- A branch target: hdr + 4 × sext(offset) (R33). -/
def State.target (s : State) {w : Nat} (off : BitVec w) : Dword := (s.slot s.cur).hdr + 4 * sext64 off

/-- SETA or SETB of the clause in progress: the pip, or none for 15 (R26, R28). -/
def State.setA (s : State) : Option Nat :=
  match (s.slot s.cur).clause with
  | some c => if c.seta = 15 then none else some c.seta
  | none => none
def State.setB (s : State) : Option Nat :=
  match (s.slot s.cur).clause with
  | some c => if c.setb = 15 then none else some c.setb
  | none => none

/-- A word is retired: counted (R52), its pending mode used (R99), its DONEMASK cleared (R237). -/
def State.count (s : State) : State :=
  let s := s.setHart s.cur { s.hart s.cur with retired := (s.hart s.cur).retired + 1 }
  s.setSlot s.cur { s.slot s.cur with
    pmode := none, done := 0, block := none, lastIssue := s.cycle, passed := false, atReturn := false, named := none
    deal := none, closed := (0, 0) }

/-- The slot moves past `words` words; it leaves the clause at its end (R25). -/
def State.advance (s : State) (words : Nat) : State :=
  let x := s.slot s.cur
  let pc := x.pc + 4 * BitVec.ofNat 64 words
  match x.clause with
  | some c =>
    if pc = c.next then s.setSlot s.cur { x with pc := pc, clause := none, yielded := c.yield }
    else s.setSlot s.cur { x with pc := pc, yielded := false }
  | none => s.setSlot s.cur { x with pc := pc }

/-- An instruction of one word, or an L form of two, is done. -/
def State.retire (s : State) (words : Nat := 1) : State := (s.count).advance words

/-- Control goes to `pc`; the clause is left (R25, R58). -/
def State.jump (s : State) (pc : Dword) : State :=
  let s := s.count
  let x := s.slot s.cur
  s.setSlot s.cur { x with pc := pc, clause := none, yielded := ((x.clause).map Clause.yield).getD false }

/-! ## Waits (R156, R158) -/

/-- A slot is blocked for wait-save (R158): in `barwait`, `qpop` or a stalled `fwpub`. -/
def Slot.saveBlocked (x : Slot) : Bool :=
  x.st == .run &&
    (match x.block with
     | some (.barrier _ _) | some (.queue _) | some (.publish _) => true
     | _ => false)

/-- The group is blocked: every slot that is not FREE is, or is in WAIT beside a blocked partner. -/
def Group.saveBlocked (g : Group) : Bool :=
  let a := g.slot0
  let b := g.slot1
  let one (x y : Slot) : Bool := x.st == .free || x.saveBlocked || (x.st == .wait && y.saveBlocked)
  (a.st != .free || b.st != .free) && one a b && one b a

/-- The cycle from which the group has been blocked where it stands. -/
def Group.blockedFrom (g : Group) : Nat :=
  max g.placedAt (max (if g.slot0.st = .free then 0 else g.slot0.since) (if g.slot1.st = .free then 0 else g.slot1.since))

/-- A slot is blocked in `qpop`. -/
def Slot.popping (x : Slot) : Bool := match x.block with | some (.queue _) => x.st == .run | _ => false

/-- The cycles up to now that a group has been blocked in `qpop` count as idle (R156). -/
def Group.idled (g : Group) (now : Nat) : Group :=
  if g.saveBlocked && (g.slot0.popping || g.slot1.popping) then { g with idle := g.idle + (now - g.blockedFrom) } else g

end Sys2Proof.Machine
end

