-- ==== Sys2Proof/Machine/Mem.lean ====
section
/-! DEFINITION. Memory: bytes, granules, places, page tables, the unit tags (R208 to R224). -/

namespace Sys2Proof.Machine

/-! ## Bytes -/

/-- What a byte that nothing has written reads as (log 3). -/
def unwritten : Byte := 0

/-- One byte of memory. -/
def Mem.byte (m : SMap Byte) (k : Nat) : Byte := SMap.get m k unwritten

/-- Writes one byte, keeping the canonical form. -/
def Mem.setByte (m : SMap Byte) (k : Nat) (b : Byte) : SMap Byte := SMap.set m k b unwritten

/-- The canonical form of memory. -/
def Memory.wf (m : SMap Byte) : Bool := SMap.canon m unwritten

/-- n bytes from a key, little-endian (R6). -/
def Mem.read (m : SMap Byte) (k : Nat) : Nat → Nat
  | 0 => 0
  | n + 1 => (Mem.byte m k).toNat + 256 * Mem.read m (k + 1) n

/-- Writes the low n bytes of a value, little-endian (R6). -/
def Mem.write (m : SMap Byte) (k : Nat) : Nat → Nat → SMap Byte
  | 0, _ => m
  | n + 1, v => Mem.write (Mem.setByte m k (BitVec.ofNat 8 v)) (k + 1) n (v / 256)

/-- Bytes as a number, and back. -/
def natOfBytes (l : List Byte) : Nat := l.foldr (fun b n => b.toNat + 256 * n) 0
def bytesOfNat : Nat → Nat → List Byte
  | 0, _ => []
  | n + 1, v => BitVec.ofNat 8 v :: bytesOfNat n (v / 256)

/-! ## Keys -/

/-- Where slice memory starts among the keys. -/
def sliceBase : Nat := 2 ^ 49

/-- The key of a place, its CORE field already a physical position (R208, R363). -/
def sliceKey (place : Nat) : Nat := sliceBase + place

/-- Where the homes of a saved region's bytes lie among the keys, by workgroup (R158). -/
def savedBase : Nat := 2 ^ 61
def savedKey (id : Nat) : Nat := savedBase + id * 2 ^ 20

/-- A key lies in a slice. -/

def isSlice (k : Nat) : Bool := sliceBase ≤ k

/-- The place-table entry of a logical core: VALID and position (R209, R363); 0 until it is written (R346). -/
def State.placeEntry (s : State) (pkg die core : Nat) : BitVec 8 := SMap.get (s.pkg pkg).places (die * 128 + core) 0

/-- The key of a byte of a logical core's slice; none where the core is not enabled. -/
def State.coreSlice (s : State) (pkg die core off : Nat) : Option Nat :=
  let e := s.placeEntry pkg die core
  if core < 88 && e.getLsbD 7 then
    some (sliceKey (pkg * 2 ^ 30 + die * 2 ^ 27 + (e.toNat % 128) * 2 ^ 20 + off))
  else none

/-! ## Who accesses -/

/-- The agents of R250 and what they stand on. -/
inductive WhoKind where
  | lane | thread | core | engine
deriving DecidableEq, Repr

/-- Who makes an access: what it stands on, and what a race record says of it (R262). -/
structure Who where
  kind : WhoKind
  pkg : Nat
  die : Nat
  /-- logical core; for an engine its number -/
  core : Nat
  ctx : Nat
  gid : Nat := 0
  slot : Nat := 0
  lane : Nat := 0
  /-- the address of its instruction or command -/
  pc : Dword := 0
  /-- the instruction's number -/
  inst : Nat := 0
deriving DecidableEq, Repr

/-- The thread of the issuing slot, or the system-class core (R250). -/
def State.thread (s : State) : Who :=
  match s.cur with
  | .sys p d c => 
    { kind := .core, pkg := p, die := d, core := c, ctx := s.ctxOf s.cur, pc := (s.slot s.cur).pc,
      inst := s.instName }
  | .slot g k =>
    { kind := .thread, pkg := (s.group g).pkg, die := (s.group g).die, core := (s.group g).core,
      ctx := (s.group g).hart.ctx, gid := g, slot := k, pc := (s.slot s.cur).pc, inst := s.instName }

/-- A lane of the issuing slot (R250). -/
def State.laneWho (s : State) (l : Nat) : Who := { s.thread with kind := .lane, lane := l }

/-! ## Translation -/

/-- The package and die of a home. -/
def homeOf (key : Nat) : Nat × Nat :=
  if isSlice key then ((key - sliceBase) / 2 ^ 30, (key - sliceBase) / 2 ^ 27 % 8) else (key / 2 ^ 39, key / 2 ^ 36 % 8)

/-- Where an access lands. -/
structure Loc where
  key : Nat
  /-- the logical place (R208) or the physical address (R213) -/
  addr : Nat
  /-- the page or unit is race-checked (R261) -/
  race : Bool := false
deriving DecidableEq, Repr

/-- The outcome of translating one access. -/
inductive Xlat where
  | at (l : Loc)
  /-- unresolvable (R209, R210, R216) -/
  | bad
  /-- missing (0) or permission (1 RD, 2 W, 3 X): replayable for a group or engine (R219) -/
  | miss (cause : Nat)
deriving DecidableEq, Repr

/-- The levels of a walk: shift and index bits; the root's index has RS bits (R214). -/
def levelShift : Nat → Nat
  | 0 => 36 | 1 => 30 | 2 => 21 | _ => 16
def levelBits (rs : Nat) : Nat → Nat
  | 0 => rs | 1 => 6 | 2 => 9 | _ => 5

/-- The outcome of a walk (R216). -/
inductive Walk where
  | leaf (l : Leaf)
  | missing
  | bad
deriving DecidableEq, Repr

/-- A page-table entry has a reserved bit set (R215): 63:49, 7, 5. -/
def pteReserved (e : Dword) : Bool := e.toNat / 2 ^ 49 != 0 || e.getLsbD 7 || e.getLsbD 5

/-- ADDR of an entry, as a byte address (R215). -/
def pteAddr (e : Dword) : Nat := e.toNat % 2 ^ 49 / 256 * 256

/-- The walk from one level on (R216), `fuel` levels left. -/
def walkFrom (m : SMap Byte) (rs va table : Nat) : Nat → Walk
  | 0 => .bad
  | fuel + 1 =>
    let level := 3 - fuel
    let e := BitVec.ofNat 64 (Mem.read m (table + 8 * (va / 2 ^ levelShift level % 2 ^ levelBits rs level)) 8)
    if !e.getLsbD 0 then .missing
    else if pteReserved e then .bad
    else if e.getLsbD 1 then
      if pteAddr e % 2 ^ levelShift level ≠ 0 then .bad else .leaf { entry := e, level := level }
    else if level = 3 then .bad
    else walkFrom m rs va (pteAddr e) fuel

/-- The walk for V under a root (R214, R216). -/
def walk (m : SMap Byte) (root : Dword) (va : Nat) : Walk :=
  let rs := root.toNat % 32
  if va / 2 ^ (36 + rs) ≠ 0 then .bad
  else walkFrom m rs va (root.toNat % 2 ^ 49 / 256 * 256) 4

/-- A package has power. -/
def State.powered (s : State) (p : Nat) : Bool := match SMap.find s.pkgs p with | some x => x.on | none => false

/-- A package is reached from `pkg`: by a valid route with a link port that is up, while it has power (R5, R209, R386,
R389). DESIGN CHOICE (log 86): a package reaches itself whatever its own entry of the route table holds. -/
def State.listed (s : State) (pkg target : Nat) : Bool :=
  let p := s.pkg pkg
  let r1 := SMap.get p.routes (2 * target + 1) 0
  let ports := (SMap.get p.routes (2 * target) 0).toNat + 2 ^ 64 * (r1.toNat % 256)
  target == pkg || ((s.pkg target).on && r1.getLsbD 15 && (List.range 72).any fun i =>
    ports.testBit i && (SMap.get p.links i {}).st == 2)

/-- What a leaf lacks for a kind of access (R216): the cause of R220. -/
def leafLacks (e : Dword) : AccKind → Option Nat
  | .read => if e.getLsbD 2 then none else some 1
  | .write => if e.getLsbD 3 then none else some 2
  | .rmw => if !e.getLsbD 2 then some 1 else if e.getLsbD 3 then none else some 2
  | .fetch => if e.getLsbD 4 then none else some 3

/-- The end of a walk: permission, then the physical address (R216, R213). -/
def State.useLeaf (s : State) (w : Who) (va : Nat) (k : AccKind) (l : Leaf) : Xlat :=
  match leafLacks l.entry k with
  | some c => .miss c
  | none =>
    let p := pteAddr l.entry + va % 2 ^ levelShift l.level
    if s.listed w.pkg (p / 2 ^ 39) then .at { key := p, addr := p, race := l.entry.getLsbD 6 } else .bad

/-- The key of a buffered translation. -/
def bufKey (pkg ctx va : Nat) : Nat := (pkg * 64 + ctx) * 2 ^ 41 + va / 2 ^ 16

/-- Translation by the page tables of the context, through the buffered translations (R216, R218). -/
def State.pageXlate (s : State) (w : Who) (va : Nat) (k : AccKind) : Xlat × State :=
  let c := s.ctx w.pkg w.ctx
  if c.direct then
    (if va < 2 ^ 36 then .at { key := w.pkg * 2 ^ 39 + va, addr := w.pkg * 2 ^ 39 + va } else .miss 0, s)
  else
    let fresh := walk s.mem c.root va
    let old := SMap.find s.buffered (bufKey w.pkg w.ctx va)
    match fresh, old with
    | .leaf l, none => (s.useLeaf w va k l, { s with buffered := SMap.put s.buffered (bufKey w.pkg w.ctx va) l })
    | .missing, none => (.miss 0, s)
    | .bad, none => (.bad, s)
    | fresh, some b =>
      if fresh = .leaf b then (s.useLeaf w va k b, s)
      else if Config.useBuffered s.free then (s.useLeaf w va k b, { s with free := s.free + 1 })
      else
        let s' := { s with free := s.free + 1 }
        match fresh with
        | .leaf l => (s.useLeaf w va k l, { s' with buffered := SMap.put s.buffered (bufKey w.pkg w.ctx va) l })
        | .missing => (.miss 0, s')
        | .bad => (.bad, s')

/-- A place as an agent reaches it: the core must be enabled, the package listed, the unit the agent's (R209, R210). -/
def State.placeXlate (s : State) (w : Who) (place : Nat) (k : AccKind) : Xlat :=
  let pkg := place / 2 ^ 30
  if k = .fetch || !s.listed w.pkg pkg then .bad
  else match s.coreSlice pkg (place / 2 ^ 27 % 8) (place / 2 ^ 20 % 128) (place % 2 ^ 20) with
    | none => .bad
    | some key =>
      let tag := SMap.find s.units ((key - sliceBase) / 1024)
      let race := (tag.map UnitTag.race).getD false
      if w.kind = .core then .at { key := key, addr := place, race := race }
      else match tag with
        | some t => if t.ctx = w.ctx then .at { key := key, addr := place, race := race } else .bad
        | none => .bad

/-- The home at a key of a slice, as its unit is checked (R261). -/
def State.homeLoc (s : State) (key : Nat) : Loc :=
  { key := key, addr := key - sliceBase
    race := ((SMap.find s.units ((key - sliceBase) / 1024)).map UnitTag.race).getD false }

/-- An address in the SRAM window (R54). -/

def isWindow (va : Dword) : Bool := va.toNat / 2 ^ 40 == 0xF000

/-- An address in the local alias (R54). -/
def isAlias (va : Dword) : Bool := va.toNat / 2 ^ 20 == 0xE00000000

/-- Translation of an address (R54, R55 step 3, R209, R210, R216). -/
def State.xlate (s : State) (w : Who) (va : Dword) (k : AccKind) : Xlat × State :=
  if va.toNat / 2 ^ 57 ≠ 0 then (.bad, s)
  else if isWindow va then (s.placeXlate w (va.toNat % 2 ^ 40) k, s)
  else if isAlias va then
    match w.kind with
    | .core | .engine => (.bad, s)
    | _ => (s.placeXlate w (w.pkg * 2 ^ 30 + w.die * 2 ^ 27 + w.core * 2 ^ 20 + va.toNat % 2 ^ 20) k, s)
  else
    let (x, s') := s.pageXlate w va.toNat k
    match w.kind, x with
    | .core, .miss _ => (.bad, s')
    | _, _ => (x, s')

/-! ## Granules (R222 to R224) -/

def State.gran (s : State) (key : Nat) : Gran := SMap.get s.grans (key / 64) {}

/-- Some granule that n bytes at a key lie in is poisoned. -/
def State.poisoned (s : State) (key n : Nat) : Bool :=
  (s.gran key).poisoned || (s.gran (key + n - 1)).poisoned

/-- The origin tag of a store: KIND and the unit die × 128 + logical core (R222). -/
def originOf (kind die core : Nat) : BitVec 16 := BitVec.ofNat 16 (kind * 4096 + die * 128 + core)

/-- The granule's new state when n bytes of it are written: a whole granule is made fresh, a part keeps a poison and
its origin (R223). -/
def Gran.written (g : Gran) (whole : Bool) (origin : BitVec 16) : Gran :=
  if g.poisoned && !whole then g else { origin := origin, poisoned := false }

/-- Writes n bytes (n ≤ 64, inside one granule) with an origin (R223). -/
def State.putBytes (s : State) (key n value : Nat) (origin : BitVec 16) : State :=
  { s with
    mem := Mem.write s.mem key n value
    grans := SMap.set s.grans (key / 64) ((s.gran key).written (n == 64) origin) {} }

/-- The second detail word of a data-integrity fault (R224). -/
def State.integrityDetail (s : State) (l : Loc) : Dword :=
  BitVec.ofNat 64 ((s.gran l.key).origin.toNat * 2 ^ 48 + (if isSlice l.key then 2 ^ 47 + l.addr / 64 % 2 ^ 34
    else l.addr / 64 % 2 ^ 43))

/-- n bytes at a key. -/
def State.bytesAt (s : State) (key n : Nat) : Nat := Mem.read s.mem key n

end Sys2Proof.Machine
end

