-- ==== Sys2Proof/Machine/Boot.lean ====
section
/-! DEFINITION. What the boot ROM checks of a flash image (R403): SHA-384 as FIPS 180-4 defines it, ECDSA over P-384 as
FIPS 186 does. PRESUMED (log 97): the spec names both and gives neither. -/

namespace Sys2Proof.Machine

/-! ## SHA-384 -/

/-- The round constants. -/
def shaK : List Nat :=
  [0x428a2f98d728ae22, 0x7137449123ef65cd, 0xb5c0fbcfec4d3b2f, 0xe9b5dba58189dbbc, 0x3956c25bf348b538,
   0x59f111f1b605d019, 0x923f82a4af194f9b, 0xab1c5ed5da6d8118, 0xd807aa98a3030242, 0x12835b0145706fbe,
   0x243185be4ee4b28c, 0x550c7dc3d5ffb4e2, 0x72be5d74f27b896f, 0x80deb1fe3b1696b1, 0x9bdc06a725c71235,
   0xc19bf174cf692694, 0xe49b69c19ef14ad2, 0xefbe4786384f25e3, 0x0fc19dc68b8cd5b5, 0x240ca1cc77ac9c65]
  ++ [0x2de92c6f592b0275, 0x4a7484aa6ea6e483, 0x5cb0a9dcbd41fbd4, 0x76f988da831153b5, 0x983e5152ee66dfab,
   0xa831c66d2db43210, 0xb00327c898fb213f, 0xbf597fc7beef0ee4, 0xc6e00bf33da88fc2, 0xd5a79147930aa725,
   0x06ca6351e003826f, 0x142929670a0e6e70, 0x27b70a8546d22ffc, 0x2e1b21385c26c926, 0x4d2c6dfc5ac42aed,
   0x53380d139d95b3df, 0x650a73548baf63de, 0x766a0abb3c77b2a8, 0x81c2c92e47edaee6, 0x92722c851482353b]
  ++ [0xa2bfe8a14cf10364, 0xa81a664bbc423001, 0xc24b8b70d0f89791, 0xc76c51a30654be30, 0xd192e819d6ef5218,
   0xd69906245565a910, 0xf40e35855771202a, 0x106aa07032bbd1b8, 0x19a4c116b8d2d0c8, 0x1e376c085141ab53,
   0x2748774cdf8eeb99, 0x34b0bcb5e19b48a8, 0x391c0cb3c5c95a63, 0x4ed8aa4ae3418acb, 0x5b9cca4f7763e373,
   0x682e6ff3d6b2b8a3, 0x748f82ee5defb2fc, 0x78a5636f43172f60, 0x84c87814a1f0ab72, 0x8cc702081a6439ec]
  ++ [0x90befffa23631e28, 0xa4506cebde82bde9, 0xbef9a3f7b2c67915, 0xc67178f2e372532b, 0xca273eceea26619c,
   0xd186b8c721c0c207, 0xeada7dd6cde0eb1e, 0xf57d4f7fee6ed178, 0x06f067aa72176fba, 0x0a637dc5a2c898a6,
   0x113f9804bef90dae, 0x1b710b35131c471b, 0x28db77f523047d84, 0x32caab7b40c72493, 0x3c9ebe0a15c9bebc,
   0x431d67c49c100d4c, 0x4cc5d4becb3e42b6, 0x597f299cfc657e2a, 0x5fcb6fab3ad6faec, 0x6c44198c4a475817]

/-- The initial hash value. -/
def shaInit : List (BitVec 64) :=
  [0xcbbb9d5dc1059ed8, 0x629a292a367cd507, 0x9159015a3070dd17, 0x152fecd8f70e5939,
   0x67332667ffc00b31, 0x8eb44a8768581511, 0xdb0c2e0d64f98fa7, 0x47b5481dbefa4fa4]

/-- A number from its bytes, the most significant first; and n bytes of a number so. -/
def bigNat (l : List Byte) : Nat := natOfBytes l.reverse
def bigBytes (n v : Nat) : List Byte := (bytesOfNat n v).reverse

/-- A message padded to blocks of 128 bytes. -/
def shaPad (l : List Byte) : List Byte :=
  l ++ [0x80] ++ List.replicate ((239 - l.length % 128) % 128) 0 ++ bigBytes 16 (8 * l.length)

/-- The schedule's next words, the latest first. -/
def shaExtend : Nat → List (BitVec 64) → List (BitVec 64)
  | 0, w => w
  | n + 1, w =>
    let a := w.getD 1 0
    let b := w.getD 14 0
    let s0 := b.rotateRight 1 ^^^ b.rotateRight 8 ^^^ (b >>> 7)
    let s1 := a.rotateRight 19 ^^^ a.rotateRight 61 ^^^ (a >>> 6)
    shaExtend n ((w.getD 15 0 + s0 + w.getD 6 0 + s1) :: w)

/-- One round on the working variables a to h. -/
def shaRound (v : List (BitVec 64)) (k w : BitVec 64) : List (BitVec 64) :=
  match v with
  | [a, b, c, d, e, f, g, h] =>
    let t1 := h + (e.rotateRight 14 ^^^ e.rotateRight 18 ^^^ e.rotateRight 41) + ((e &&& f) ^^^ (~~~ e &&& g)) + k + w
    let t2 := (a.rotateRight 28 ^^^ a.rotateRight 34 ^^^ a.rotateRight 39) + ((a &&& b) ^^^ (a &&& c) ^^^ (b &&& c))
    [t1 + t2, a, b, c, d + t1, e, f, g]
  | _ => v

/-- One block. -/
def shaBlock (h : List (BitVec 64)) (block : List Byte) : List (BitVec 64) :=
  let first := (List.range 16).map fun i => BitVec.ofNat 64 (bigNat ((block.drop (8 * i)).take 8))
  let w := (shaExtend 64 first.reverse).reverse
  let v := (shaK.zip w).foldl (fun v x => shaRound v (BitVec.ofNat 64 x.1) x.2) h
  (h.zip v).map fun x => x.1 + x.2

/-- SHA-384: 48 bytes. -/
def sha384 (l : List Byte) : List Byte :=
  let m := shaPad l
  let h := (List.range (m.length / 128)).foldl (fun h i => shaBlock h ((m.drop (128 * i)).take 128)) shaInit
  (h.take 6).flatMap fun x => bigBytes 8 x.toNat

/-! ## ECDSA over P-384 -/

/-- The field's prime, the order of the base point, and b of y² = x³ - 3x + b. -/
def p384 : Nat := 2 ^ 384 - 2 ^ 128 - 2 ^ 96 + 2 ^ 32 - 1
def n384 : Nat := 0xffffffffffffffffffffffffffffffffffffffffffffffffc7634d81f4372ddf581a0db248b0a77aecec196accc52973
def b384 : Nat := 0xb3312fa7e23ee7e4988e056be3f82d19181d9c6efe8141120314088f5013875ac656398d8a2ed19d2a85c8edd3ec2aef

/-- The base point. -/
def g384 : Nat × Nat :=
  (0xaa87ca22be8b05378eb1c71ef320ad746e1d3b628ba79b9859f741e082542a385502f25dbf55296c3a545e3872760ab7,
   0x3617de4a96262c6f5d9e98bf9292dc29f8f41dbd289a147ce9da3113b5f0b8c00a60b1ce1d7e819d7a431d7c90ea0e5f)

/-- x^e mod m, by the bits of e. -/
def powMod (m : Nat) : Nat → Nat → Nat → Nat
  | 0, _, _ => 1 % m
  | fuel + 1, x, e =>
    let r := powMod m fuel (x * x % m) (e / 2)
    if e % 2 = 1 then r * x % m else r

/-- The inverse modulo a prime below 2^384. -/
def invMod (m x : Nat) : Nat := powMod m 384 (x % m) (m - 2)

/-- A point on the curve; none: the point at infinity. -/
def onCurve (q : Nat × Nat) : Bool :=
  decide (q.1 < p384) && decide (q.2 < p384)
    && (q.2 * q.2 + 3 * q.1) % p384 == (q.1 * q.1 * q.1 + b384) % p384

/-- The third point of a chord or tangent of slope k, negated. -/
def chord (k : Nat) (p q : Nat × Nat) : Nat × Nat :=
  let x := (k * k + 2 * p384 - p.1 - q.1) % p384
  (x, (k * (p.1 + p384 - x) + p384 - p.2) % p384)

/-- The sum of two points. -/
def pointAdd : Option (Nat × Nat) → Option (Nat × Nat) → Option (Nat × Nat)
  | none, q => q
  | p, none => p
  | some p, some q =>
    if p.1 = q.1 then
      if (p.2 + q.2) % p384 = 0 then none
      else some (chord ((3 * p.1 * p.1 + 3 * p384 - 3) * invMod p384 (2 * p.2) % p384) p q)
    else some (chord ((q.2 + p384 - p.2) * invMod p384 (q.1 + p384 - p.1) % p384) p q)

/-- k times a point, by the bits of k. -/
def pointMul : Nat → Nat → Option (Nat × Nat) → Option (Nat × Nat)
  | 0, _, _ => none
  | fuel + 1, k, p =>
    let r := pointMul fuel (k / 2) (pointAdd p p)
    if k % 2 = 1 then pointAdd r p else r

/-- The signature (r, s) of a digest under a public key of 97 bytes, uncompressed. -/
def ecdsaOk (key digest : List Byte) (r s : Nat) : Bool :=
  let q := (bigNat ((key.drop 1).take 48), bigNat ((key.drop 49).take 48))
  let w := invMod n384 s
  let u := pointMul 384 (bigNat digest * w % n384) (some g384)
  let v := pointMul 384 (r * w % n384) (some q)
  key.headD 0 == 4 && onCurve q && decide (0 < r) && decide (r < n384) && decide (0 < s) && decide (s < n384)
    && (match pointAdd u v with | none => false | some x => x.1 % n384 == r)

/-! ## The image (R403) -/

/-- n bytes of the flash of a package from an offset on. -/
def flashBytes (pkg off n : Nat) : List Byte := (List.range n).map fun i => Config.flash pkg (off + i)

/-- The dword of the flash of a package at an offset. -/
def flashWord (pkg off : Nat) : Nat := natOfBytes (flashBytes pkg off 8)

/-- What the boot ROM checks of the copy at an offset: MAGIC and VERSION, the digest of the image, the key against the
fuses, and the signature. The signed message is the image, by its digest. -/
def imagePasses (pkg off : Nat) : Bool :=
  let digest := flashBytes pkg (off + 32) 48
  let key := flashBytes pkg (off + 176) 97
  flashWord pkg off == 0x51544F42 + 1 * 2 ^ 32
    && sha384 (flashBytes pkg (off + 4096) (flashWord pkg (off + 8))) == digest
    && sha384 key == Config.fuseKey pkg
    && ecdsaOk key digest (bigNat (flashBytes pkg (off + 80) 48)) (bigNat (flashBytes pkg (off + 128) 48))

/-- The offset of the first image copy that passes. -/
def bootCopy (pkg : Nat) : Option Nat := [0, 0x01000000].find? (imagePasses pkg)

end Sys2Proof.Machine
end

