-- ==== Sys2Proof/Machine/Flags.lean ====
section
/-! DEFINITION. Number formats (R71 to R91): the entry record, reading a code, exact arithmetic, rounding, overflow and
conversion. The hardware keeps no status flags (R81): what other machines flag (overflow, underflow, invalid) is decided
here in the result alone. -/

namespace Sys2Proof.Machine

/-! ## The entry record (R73 to R78) -/

structure Fmt where
  kind : Nat
  sign : Bool
  ew : Nat
  fw : Nat
  bias : Int
  policy : Nat
  mw : Nat
  lgblk : Nat
  sew : Nat
  micro : Bool
deriving DecidableEq, Repr

/-- The fields of a record (R73). -/
def fmtOf (r : Dword) : Fmt :=
  { kind := bits r 62 60, sign := bitAt r 59, ew := bits r 58 55, fw := bits r 54 49,
    bias := (r.extractLsb' 37 12).toInt, policy := bits r 36 35, mw := bits r 34 31, lgblk := bits r 30 28,
    sew := bits r 27 24, micro := bitAt r 23 }

/-- The element width W (R74). -/
def Fmt.w (f : Fmt) : Nat :=
  match f.kind with
  | 0 => f.sign.toNat + f.ew + f.fw
  | 1 => f.fw + 1
  | 2 => 1 + f.fw
  | _ => 1 + f.mw

/-- The container width C of a width (R75). -/
def containerOf (w : Nat) : Nat :=
  if w ≤ 1 then 1 else if w ≤ 2 then 2 else if w ≤ 4 then 4 else if w ≤ 8 then 8 else if w ≤ 16 then 16
  else if w ≤ 32 then 32 else 64

def Fmt.c (f : Fmt) : Nat := containerOf f.w

/-- E: elements per lane (R160). -/
def Fmt.e (f : Fmt) : Nat := if f.c = 64 then 1 else 32 / f.c

/-- The number of the first check of R76 that a record fails; 0 when it passes all. -/
def checkRecord (r : Dword) : Nat :=
  let f := fmtOf r
  let noBlock := f.mw == 0 && f.lgblk == 0 && f.sew == 0 && !f.micro
  if !bitAt r 63 then 1
  else if bits r 22 0 ≠ 0 || 3 < f.kind || 2 < f.policy then 2
  else if f.kind = 0 && !(2 ≤ f.ew && f.ew ≤ 11 && f.fw ≤ 52 && f.w ≤ 64 && noBlock) then 3
  else if f.kind = 0 && ((f.policy = 0 && f.fw = 0) || (f.policy = 1 && f.ew + f.fw < 2)) then 4
  else if f.kind = 1 && !(f.ew = 0 && f.bias = 0 && f.policy = 0 && 1 ≤ f.fw && noBlock) then 5
  else if f.kind = 2 && !(f.sign && f.ew = 0 && f.bias = 0 && f.policy = 2 && 1 ≤ f.fw && noBlock) then 6
  else if f.kind = 3 && !(f.sign && f.ew = 0 && f.fw = 0 && f.policy = 2 && 1 ≤ f.mw && 1 ≤ f.lgblk && f.lgblk ≤ 6
      && 1 ≤ f.sew && f.sew ≤ 8 && 0 ≤ f.bias && f.bias ≤ 2 ^ f.sew - 1) then 7
  else 0

/-- The records of entries 0 to 15 (R78). -/
def fixedRecords : List Dword :=
  [0x983E000000000000, 0x903E000000000000, 0x987E000000000000, 0x907E000000000000,
   0x8DE87FE000000000, 0x8C2E0FE000000000, 0x8A9401E000000000, 0x8C0E0FE000000000,
   0x8A0600E800000000, 0x8A8401E000000000, 0xA80E001000000000, 0xA806001000000000,
   0xB8000FF3C8800000, 0xB8000FF248800000, 0xB8000FF148800000, 0x981E000000000000]

/-- The records of fp32 and fp64. -/
def recFp32 : Dword := 0x8C2E0FE000000000
def recFp64 : Dword := 0x8DE87FE000000000
def recI32 : Dword := 0x983E000000000000
/-- The record of i64. -/
def recI64 : Dword := 0x987E000000000000

/-- The record of entry k of a context's table (R71, R102): zero where unprogrammed. -/
def State.fmtRecord (s : State) (pkg ctx k : Nat) : Dword :=
  if k < 16 then fixedRecords.getD k 0 else SMap.get (s.ctx pkg ctx).fmts k 0

/-- The record of entry k of the issuing agent's context. -/
def State.fmtHere (s : State) (k : Nat) : Dword := s.fmtRecord (s.pkgOf s.cur) (s.ctxOf s.cur) k

/-! ## Values -/

/-- A value: NaN with the payload of its source (bits FW−2:0 and their number), an infinity, or the exact
(−1)^neg × m × 2^e, plus something below 2^e in magnitude when `more` holds. -/
inductive Val where
  | nan (neg : Bool) (payload width : Nat)
  | inf (neg : Bool)
  | fin (neg : Bool) (m : Nat) (e : Int) (more : Bool)
deriving DecidableEq, Repr

/-- The NaN of an invalid operation (R81). -/
def Val.newNan : Val := .nan false 0 0

def Val.isNan : Val → Bool
  | .nan _ _ _ => true
  | _ => false
def Val.isZero : Val → Bool
  | .fin _ m _ more => m == 0 && !more
  | _ => false
def Val.neg? : Val → Bool
  | .nan n _ _ => n
  | .inf n => n
  | .fin n _ _ _ => n
def Val.negate : Val → Val
  | .nan n p w => .nan n p w
  | .inf n => .inf (!n)
  | .fin n m e x => .fin (!n) m e x

/-- An integer as a value; zero is +0. -/
def valOfInt (i : Int) : Val := .fin (decide (i < 0)) i.natAbs 0 false

/-- The value of a float code (R74, R79); nothing is flushed. DESIGN CHOICE (log 29): of a `nanonly` entry with FW = 0 the
all-ones exponent code is the NaN that R80 makes canonical, though R79's column for f = 0 makes it finite. -/
def readFloat (f : Fmt) (c : Nat) : Val :=
  let frac := c % 2 ^ f.fw
  let e := c / 2 ^ f.fw % 2 ^ f.ew
  let neg := f.sign && decide (c / 2 ^ (f.fw + f.ew) % 2 = 1)
  let top := 2 ^ f.ew - 1
  if e = 0 then .fin neg frac (1 - f.bias - f.fw) false
  else if e = top && f.policy = 0 then
    (if frac = 0 then .inf neg else .nan neg (frac % 2 ^ (f.fw - 1)) (f.fw - 1))
  else if e = top && f.policy = 1 && frac = 2 ^ f.fw - 1 then .nan neg 0 0
  else .fin neg (2 ^ f.fw + frac) ((e : Int) - f.bias - f.fw) false

/-- A float code is subnormal. -/
def isSubnormal (f : Fmt) (c : Nat) : Bool := c % 2 ^ f.fw != 0 && c / 2 ^ f.fw % 2 ^ f.ew == 0

/-- The value of a non-block code with the substitutes of R84. -/
def readCode (f : Fmt) (c : Nat) : Val :=
  match f.kind with
  | 0 => readFloat f c
  | 1 =>
    let v := c % 2 ^ f.w
    valOfInt (if f.sign && 2 ^ (f.w - 1) ≤ v then (v : Int) - 2 ^ f.w else v)
  | _ =>
    let m := c % 2 ^ f.fw
    valOfInt (if c / 2 ^ f.fw % 2 = 1 then -(m : Int) else m)

/-- As an operand of arithmetic: a subnormal of a float with W ≤ 16 reads as zero of its sign (R87). -/
def readOperand (f : Fmt) (c : Nat) : Val :=
  if f.kind = 0 && f.w ≤ 16 && isSubnormal f c then .fin (readFloat f c).neg? 0 0 false else readCode f c

/-- The integer an integer value is. -/
def Val.toInt : Val → Int
  | .fin neg m e _ =>
    let k : Int := if 0 ≤ e then ((m * 2 ^ e.toNat : Nat) : Int) else ((m / 2 ^ (-e).toNat : Nat) : Int)
    if neg then -k else k
  | _ => 0

/-! ## Rounding (R85 to R87) -/

/-- Rounds q, followed by a guard bit and something below it, to an integer in direction rm (R85). DESIGN CHOICE (log 30):
of a float entry with FW = 0 both candidates have the significand 1, which is odd; an RNE tie then goes to the larger
magnitude and RTO keeps q. -/
def roundStep (rm : Nat) (neg : Bool) (q : Nat) (guard below : Bool) : Nat :=
  let inexact := guard || below
  match rm with
  | 0 => if guard && (below || q % 2 = 1) then q + 1 else q
  | 1 => q
  | 2 => if neg && inexact then q + 1 else q
  | 3 => if !neg && inexact then q + 1 else q
  | 4 => if guard then q + 1 else q
  | _ => if inexact && q % 2 = 0 then q + 1 else q

/-- m × 2^e cut at the quantum 2^qe: the quotient, its guard bit and whether something lies below. -/
def cutAt (m : Nat) (e : Int) (more : Bool) (qe : Int) : Nat × Bool × Bool :=
  if qe ≤ e then (m * 2 ^ (e - qe).toNat, false, more)
  else
    let d := (qe - e).toNat
    if m.log2 + 2 < d then (0, false, m ≠ 0 || more)
    else (m / 2 ^ d, decide (m / 2 ^ (d - 1) % 2 = 1), more || decide (m % 2 ^ (d - 1) ≠ 0))

/-- The magnitude code of the largest finite value (R79). -/
def maxCode (f : Fmt) : Nat :=
  match f.policy with
  | 0 => 2 ^ (f.ew + f.fw) - 2 ^ f.fw - 1
  | 1 => 2 ^ (f.ew + f.fw) - 2
  | _ => 2 ^ (f.ew + f.fw) - 1

/-- A magnitude code with its sign; a format without sign writes +0 for what is negative (R85). -/
def signed (f : Fmt) (neg : Bool) (mag : Nat) : Nat :=
  if neg then (if f.sign then mag + 2 ^ (f.ew + f.fw) else 0) else mag

/-- A NaN code (R81, R91); a format without sign keeps sign 0. -/
def nanCode (f : Fmt) (neg : Bool) (payload width : Nat) : Nat :=
  let sg := if neg && f.sign then 2 ^ (f.ew + f.fw) else 0
  match f.policy with
  | 0 =>
    let dw := f.fw - 1
    let p := if width ≤ dw then payload * 2 ^ (dw - width) else payload / 2 ^ (width - dw)
    sg + (2 ^ f.ew - 1) * 2 ^ f.fw + 2 ^ (f.fw - 1) + p
  | 1 => sg + (2 ^ (f.ew + f.fw) - 1)
  | _ => 0

/-- What an infinite value writes (R86, R91). -/
def infCode (f : Fmt) (ov neg : Bool) : Nat :=
  match f.policy with
  | 0 => signed f neg ((2 ^ f.ew - 1) * 2 ^ f.fw)
  | 1 => if ov then signed f neg (maxCode f) else if neg && !f.sign then 0 else nanCode f neg 0 0
  | _ => signed f neg (maxCode f)

/-- What an overflow of that sign writes (R86). -/
def overflowCode (f : Fmt) (rm : Nat) (ov neg : Bool) : Nat :=
  let away := match rm with
    | 0 | 4 => true
    | 2 => neg
    | 3 => !neg
    | _ => false
  if ov || !away then signed f neg (maxCode f) else infCode f ov neg

/-- round_to a float format (R85 to R87): the code of a value. -/
def roundTo (f : Fmt) (rm : Nat) (ov : Bool) : Val → Nat
  | .nan neg p w => nanCode f neg p w
  | .inf neg => infCode f ov neg
  | .fin neg m e more =>
    if m = 0 && !more then signed f neg 0
    else
      let top : Int := e + m.log2
      let least : Int := 1 - f.bias
      let qe : Int := (if f.w ≤ 16 then top else max top least) - f.fw
      let (q, g, b) := cutAt m e more qe
      let q' := roundStep rm neg q g b
      if q' < 2 ^ f.fw then
        (if f.w ≤ 16 then signed f neg 0 else signed f neg q')
      else
        let carry := q' = 2 ^ (f.fw + 1)
        let frac := if carry then 0 else q' - 2 ^ f.fw
        let ef : Int := qe + f.fw + f.bias + (if carry then 1 else 0)
        if ef ≤ 0 then signed f neg 0
        else
          let code := ef.toNat * 2 ^ f.fw + frac
          if maxCode f < code then overflowCode f rm ov neg else signed f neg code

/-- A value rounded to an integer in direction rm; not for NaN or infinities. -/
def roundInt (rm : Nat) : Val → Int
  | .fin neg m e more =>
    let (q, g, b) := cutAt m e more 0
    let q' := roundStep rm neg q g b
    if neg then -(q' : Int) else q'
  | _ => 0

/-! ## Integers (R164) -/

/-- The range of an integer or sign-magnitude format. -/
def Fmt.minInt (f : Fmt) : Int := if f.kind = 2 then -(2 ^ f.fw - 1) else if f.sign then -(2 ^ (f.w - 1)) else 0
def Fmt.maxInt (f : Fmt) : Int := if f.kind = 2 then 2 ^ f.fw - 1 else if f.sign then 2 ^ (f.w - 1) - 1 else 2 ^ f.w - 1

/-- sat(x, fmt) for integers (R46). -/
def satInt (f : Fmt) (y : Int) : Int := max f.minInt (min f.maxInt y)

/-- The code of an integer in range. -/
def intCode (f : Fmt) (y : Int) : Nat :=
  if f.kind = 2 then (if y < 0 then 2 ^ f.fw + y.natAbs else y.natAbs) else (y % 2 ^ f.w).toNat

/-- write_int (R164): wrap, or saturate under IS; sign-magnitude always saturates. -/
def writeInt (f : Fmt) (sat : Bool) (y : Int) : Nat :=
  intCode f (if sat || f.kind = 2 then satInt f y else y)

/-! ## Exact arithmetic (R81, R107) -/

/-- The first NaN of some operands (R81). -/
def firstNan (l : List Val) : Option Val := l.find? Val.isNan

/-- The sum of two values; exact zeros take the IEEE sign under rm. -/
def addVal (rm : Nat) (x y : Val) : Val :=
  match x, y with
  | .nan n p w, _ => .nan n p w
  | _, .nan n p w => .nan n p w
  | .inf a, .inf b => if a = b then .inf a else Val.newNan
  | .inf a, _ => .inf a
  | _, .inf b => .inf b
  | .fin a m e _, .fin b n g _ =>
    if m = 0 && n = 0 then .fin (if a = b then a else decide (rm = 2)) 0 0 false
    else if m = 0 then .fin b n g false
    else if n = 0 then .fin a m e false
    else
      let lo := min e g
      let i : Int := (if a then -1 else 1) * (m * 2 ^ (e - lo).toNat : Nat) + (if b then -1 else 1) * (n * 2 ^ (g - lo).toNat : Nat)
      if i = 0 then .fin (decide (rm = 2)) 0 0 false else .fin (decide (i < 0)) i.natAbs lo false

/-- The exact product. -/
def mulVal (x y : Val) : Val :=
  match x, y with
  | .nan n p w, _ => .nan n p w
  | _, .nan n p w => .nan n p w
  | .inf a, .inf b => .inf (a != b)
  | .inf a, .fin b m _ _ => if m = 0 then Val.newNan else .inf (a != b)
  | .fin a m _ _, .inf b => if m = 0 then Val.newNan else .inf (a != b)
  | .fin a m e _, .fin b n g _ => .fin (a != b) (m * n) (e + g) false

/-- x × y + z, the NaN priority being x, y, z (R81). -/
def fmaVal (rm : Nat) (x y z : Val) : Val :=
  match firstNan [x, y, z] with
  | some v => v
  | none => addVal rm (mulVal x y) z

/-- The quotient, with more than 64 bits and what lies below. -/
def divVal (x y : Val) : Val :=
  match x, y with
  | .nan n p w, _ => .nan n p w
  | _, .nan n p w => .nan n p w
  | .inf _, .inf _ => Val.newNan
  | .inf a, .fin b _ _ _ => .inf (a != b)
  | .fin a _ _ _, .inf b => .fin (a != b) 0 0 false
  | .fin a m e _, .fin b n g _ =>
    if n = 0 then (if m = 0 then Val.newNan else .inf (a != b))
    else if m = 0 then .fin (a != b) 0 0 false
    else
      let k := 70 + n.log2
      .fin (a != b) (m * 2 ^ k / n) (e - g - k) (decide (m * 2 ^ k % n ≠ 0))

/-- The integer square root, bit by bit from bit k − 1 down. -/
def isqrt (n : Nat) : Nat → Nat → Nat
  | 0, r => r
  | k + 1, r => let t := r + 2 ^ k; isqrt n k (if t * t ≤ n then t else r)

/-- The square root: −0 for −0, the new NaN below zero. -/
def sqrtVal (x : Val) : Val :=
  match x with
  | .nan n p w => .nan n p w
  | .inf false => .inf false
  | .inf true => Val.newNan
  | .fin neg m e _ =>
    if m = 0 then .fin neg 0 0 false
    else if neg then Val.newNan
    else
      let k : Nat := 140 + (e % 2).toNat
      let n := m * 2 ^ k
      let r := isqrt n (n.log2 / 2 + 1) 0
      .fin false r ((e - k) / 2) (decide (r * r ≠ n))

/-- Compares two values that are not NaN; zeros are equal. -/
def cmpVal (x y : Val) : Ordering :=
  match x, y with
  | .inf a, .inf b => if a = b then .eq else if a then .lt else .gt
  | .inf a, _ => if a then .lt else .gt
  | _, .inf b => if b then .gt else .lt
  | .fin a m e _, .fin b n g _ =>
    let lo := min e g
    let i : Int := (if a then -1 else 1) * (m * 2 ^ (e - lo).toNat : Nat)
    let j : Int := (if b then -1 else 1) * (n * 2 ^ (g - lo).toNat : Nat)
    compare i j
  | _, _ => .eq

/-- minimum or maximum of IEEE 754-2019 (R108): NaNs first, −0 below +0, a on equal values. -/
def minMaxVal (mx : Bool) (x y : Val) : Val :=
  match firstNan [x, y] with
  | some v => v
  | none =>
    let o := match cmpVal x y with
      | .eq => if x.isZero && y.isZero then
          (if x.neg? && !y.neg? then Ordering.lt else if !x.neg? && y.neg? then .gt else .eq) else .eq
      | o => o
    match o with
    | .eq => x
    | .lt => if mx then y else x
    | .gt => if mx then x else y

/-! ## The element functions (R112, R171) -/

/-- The value of the largest finite code. -/
def maxVal (f : Fmt) : Val := readFloat { f with policy := 2 } (maxCode f)

/-- Magnitude of a finite value at least (strictly above, with `more`) that of another exact one. -/
def magAbove (x y : Val) : Bool :=
  match x, y with
  | .fin _ m e more, .fin _ n g _ =>
    let lo := min e g
    let i := m * 2 ^ (e - lo).toNat
    let j := n * 2 ^ (g - lo).toNat
    decide (j < i) || (decide (i = j) && more)
  | _, _ => false

/-- The nearer of the two bracketing values; RM decides only where one of them does not exist (R112, R171). DESIGN CHOICE
(log 83): just below the smallest normal of a DF with W ≤ 16 the brackets are those of R87, with unbounded exponents,
before the flush. -/
def roundNearest (f : Fmt) (rm : Nat) (ov : Bool) (x : Val) : Nat :=
  match x with
  | .fin _ m e _ =>
    let top : Int := e + m.log2
    let tiny : Int := 1 - f.bias - f.fw
    if m = 0 then roundTo f rm ov x
    else if 2 ^ f.ew - f.bias < top then roundTo f rm ov x
    else if top < tiny then roundTo f rm ov x
    else if magAbove x (maxVal f) then roundTo f rm ov x
    else roundTo f 0 ov x
  | _ => roundTo f rm ov x

/-- floor(ln 2 × 2^320). -/
def ln2Scaled : Nat :=
  1480553391661173448385607439722553250922680800745876974795605978609098082859138712941075737848984

/-- The sum of y^n / n! from a term on, all scaled by 2^320. -/
def expSeries (y : Nat) : Nat → Nat → Nat → Nat
  | 0, _, _ => 0
  | fuel + 1, n, t => t + expSeries y fuel (n + 1) (t * y / 2 ^ 320 / (n + 1))

/-- 2^x for a finite x that is no integer, |x| < 2^14: 2^floor(x) times the series of the rest. -/
def exp2Frac (neg : Bool) (m : Nat) (e : Int) : Val :=
  -- x scaled by 2^320, toward −infinity
  let a := if 0 ≤ e + 320 then m * 2 ^ (e + 320).toNat else m / 2 ^ (-(e + 320)).toNat
  let i : Int := if neg then -(a : Int) - 1 else a
  let n : Int := i / ((2 ^ 320 : Nat) : Int)
  let r : Nat := (i % ((2 ^ 320 : Nat) : Int)).toNat
  .fin false (expSeries (r * ln2Scaled / 2 ^ 320) 90 0 (2 ^ 320)) (n - 320) true

/-- 2^x (R112): the value and whether it is exact. -/
def exp2Val (x : Val) : Val × Bool :=
  match x with
  | .nan n p w => (.nan n p w, true)
  | .inf true => (.fin false 0 0 false, true)
  | .inf false => (.inf false, true)
  | .fin neg m e _ =>
    if m = 0 then (.fin false 1 0 false, true)
    else if 14 < e + m.log2 then (.fin false 1 (if neg then -(2 ^ 14) else 2 ^ 14) true, false)
    else if 0 ≤ e || m % 2 ^ (-e).toNat = 0 then
      let i : Int := Val.toInt (.fin neg m e false)
      (.fin false 1 i false, true)
    else (exp2Frac neg m e, false)

/-- Bits of log2 of f = y / 2^320 in [1, 2), most significant first, `fuel` of them. -/
def log2Bits : Nat → Nat → Nat → Nat
  | 0, _, acc => acc
  | fuel + 1, y, acc =>
    let q := y * y / 2 ^ 320
    if 2 ^ 321 ≤ q then log2Bits fuel (q / 2) (2 * acc + 1) else log2Bits fuel q (2 * acc)

/-- log2 x (R171): the value and whether it is exact. -/
def log2Val (x : Val) : Val × Bool :=
  match x with
  | .nan n p w => (.nan n p w, true)
  | .inf false => (.inf false, true)
  | .inf true => (Val.newNan, true)
  | .fin neg m e _ =>
    if m = 0 then (.inf true, true)
    else if neg then (Val.newNan, true)
    else
      let l := m.log2
      let top : Int := e + l
      if m = 2 ^ l then (valOfInt top, true)
      else
        let y := if l ≤ 320 then m * 2 ^ (320 - l) else m / 2 ^ (l - 320)
        let i : Int := top * ((2 ^ 260 : Nat) : Int) + log2Bits 260 y 0
        if i < 0 then (.fin true (i.natAbs - 1) (-260) true, false) else (.fin false i.natAbs (-260) true, false)

/-- 1 / x (R171). -/
def rcpVal (x : Val) : Val := divVal (.fin false 1 0 false) x

/-- 1 / √x (R171). -/
def rsqVal (x : Val) : Val :=
  match x with
  | .nan n p w => .nan n p w
  | .inf false => .fin false 0 0 false
  | .inf true => Val.newNan
  | .fin neg m e _ =>
    if m = 0 then .inf neg
    else if neg then Val.newNan
    else
      let odd := (e % 2).toNat
      let n := m * 2 ^ odd
      let k := 140 + n.log2
      let big := 2 ^ (2 * k) / n
      let r := isqrt big (big.log2 / 2 + 1) 0
      .fin false r (-((e - odd) / 2) - k) (decide (r * r * n ≠ 2 ^ (2 * k)))

/-! ## Conversion (R89, R90) -/

/-- The source value of a conversion: R87's flush of narrow subnormals, unless the destination is a wide float. -/
def readForCvt (sf df : Fmt) (c : Nat) : Val :=
  if df.kind = 0 && 16 < df.w then readCode sf c else readOperand sf c

/-- A value converted into a non-block format (R89). -/
def convertTo (df : Fmt) (md : ModeWord) (x : Val) : Nat :=
  match df.kind with
  | 0 => roundTo df (mdRM md) (mdOV md) x
  | _ =>
    match x with
    | .nan _ _ _ => 0
    | .inf neg => intCode df (if neg then df.minInt else df.maxInt)
    | x => writeInt df (mdIS md) (roundInt (mdRM md) x)

/-- A code converted between two non-block formats (R89). -/
def convert (sf df : Fmt) (md : ModeWord) (c : Nat) : Nat := convertTo df md (readForCvt sf df c)

/-- The bytes of a block (R83). -/
def Fmt.blockLen (f : Fmt) : Nat := 2 ^ f.lgblk
def Fmt.microBytes (f : Fmt) : Nat := if f.micro then (f.blockLen + 15) / 16 else 0
def Fmt.blockBytes (f : Fmt) : Nat := 1 + f.microBytes + (f.blockLen * (f.mw + 1) + 7) / 8

/-- The value of an element from its shared exponent, micro-exponent and code (R83, R84). -/
def blockValue (f : Fmt) (e mu code : Nat) : Val :=
  let e' := if e % 2 ^ f.sew = 2 ^ f.sew - 1 then 2 ^ f.sew - 2 else e % 2 ^ f.sew
  let m := code % 2 ^ f.mw
  .fin (decide (m ≠ 0) && decide (code / 2 ^ f.mw % 2 = 1)) m ((e' : Int) - f.bias - mu - (f.mw - 1)) false

/-- Element j of a block given as one little-endian number (R83). -/
def blockElem (f : Fmt) (blk j : Nat) : Val :=
  let mu := if f.micro then blk / 2 ^ (8 + j / 2) % 2 else 0
  blockValue f (blk % 2 ^ f.sew) mu (blk / 2 ^ (8 * (1 + f.microBytes) + j * (f.mw + 1)) % 2 ^ (f.mw + 1))

/-- floor(log2 |x|) of a finite non-zero value. -/
def Val.topExp : Val → Int
  | .fin _ m e _ => e + m.log2
  | _ => 0

def Val.isFin : Val → Bool
  | .fin _ _ _ _ => true
  | _ => false

/-- The parts of a block formed from its exact values (R90): shared exponent, micro-exponents, element codes. -/
def formBlock (f : Fmt) (rm : Nat) (xs : List Val) : Nat × List Nat × List Nat :=
  let xs := xs.map fun x => if x.isNan then Val.fin false 0 0 false else x
  let top : Int := 2 ^ f.sew - 2
  let fins := xs.filter fun x => x.isFin && !x.isZero
  let e : Int := if xs.any (fun x => !x.isFin) then top
    else match fins with
      | [] => 0
      | y :: ys => max 0 (min top (ys.foldl (fun a x => max a x.topExp) y.topExp + f.bias))
  let small (x : Val) : Bool := x.isFin && (x.isZero || decide (x.topExp < e - f.bias))
  let mus := if f.micro then
      (List.range (f.blockLen / 2)).map fun p => if small (xs.getD (2 * p) (valOfInt 0)) && small (xs.getD (2 * p + 1) (valOfInt 0)) then 1 else 0
    else []
  let codes := xs.zipIdx.map fun (x, j) =>
    let mu : Nat := if f.micro then mus.getD (j / 2) 0 else 0
    match x with
    | .inf neg => 2 ^ f.mw - 1 + (if neg then 2 ^ f.mw else 0)
    | .fin neg m ex more =>
      let y := (roundInt rm (.fin neg m (ex - (e - f.bias - mu - (f.mw - 1))) more)).natAbs
      let mag := min y (2 ^ f.mw - 1)
      if mag = 0 then 0 else mag + (if neg then 2 ^ f.mw else 0)
    | _ => 0
  (e.toNat, mus, codes)

/-- A block as one little-endian number (R83). -/
def packBlock (f : Fmt) (e : Nat) (mus codes : List Nat) : Nat :=
  e + mus.zipIdx.foldl (fun a x => a + x.1 * 2 ^ (8 + x.2)) 0
    + codes.zipIdx.foldl (fun a x => a + x.1 * 2 ^ (8 * (1 + f.microBytes) + x.2 * (f.mw + 1))) 0

end Sys2Proof.Machine
end

