-- ==== Sys2Proof/Machine/Compress.lean ====
section
/-! DEFINITION. The CB compressed format: one block of 4 × 4 values (R292 to R298). -/

namespace Sys2Proof.Machine

/-- Bits per value of a RATE code (R327); 0 for plain. -/
def rateBits (rate : Nat) : Nat := [0, 1, 2, 3, 4, 6, 8].getD rate 0

/-- The lifting step on four integers (R294). -/
def lift4 (u : List Int) : List Int :=
  let h (a b : Int) : Int × Int := let d := a - b; (b + d / 2, d)
  let u (i : Nat) : Int := u.getD i 0
  let (s0, d0) := h (u 0) (u 1)
  let (s1, d1) := h (u 2) (u 3)
  let (ss, sd) := h s0 s1
  [ss, sd, d0, d1]

/-- Its inverse (R297). -/
def unlift4 (u : List Int) : List Int :=
  let g (s d : Int) : Int × Int := let b := s - d / 2; (d + b, b)
  let u (i : Nat) : Int := u.getD i 0
  let (s0, s1) := g (u 0) (u 1)
  let (a0, a1) := g s0 (u 2)
  let (a2, a3) := g s1 (u 3)
  [a0, a1, a2, a3]

/-- Sixteen numbers as four rows, and a matrix turned. -/
def rows4 (l : List Int) : List (List Int) := (List.range 4).map fun i => (l.drop (4 * i)).take 4
def turn4 (m : List (List Int)) : List (List Int) := (List.range 4).map fun j => m.map fun r => r.getD j 0

/-- The coefficients by position p = 4i + j: rows first, then columns (R294). -/
def cbForward (q : List Int) : List Int := (turn4 ((turn4 ((rows4 q).map lift4)).map lift4)).flatten

/-- The integers back from coefficients: columns first, then rows (R297). -/
def cbInverse (c : List Int) : List Int := ((turn4 ((turn4 (rows4 c)).map unlift4)).map unlift4).flatten

/-- b_p (R295). -/
def cbBits (r p : Nat) : Nat :=
  let row (a b c d e f g : Nat) : List Nat := [a, b, d, d, b, c, e, f, d, e, g, g, d, f, g, g]
  (match r with
   | 1 => row 8 0 0 0 0 0 0
   | 2 => row 12 4 4 0 0 0 0
   | 3 => row 14 6 6 2 0 0 0
   | 4 => row 16 8 8 2 1 1 1
   | 6 => row 16 10 10 4 4 3 3
   | 8 => row 16 12 12 6 6 6 5
   | _ => []).getD p 0

/-- W_p (R294). -/
def cbWidth (p : Nat) : Nat := 16 + (if p / 4 = 0 then 0 else 1) + (if p % 4 = 0 then 0 else 1)

/-- v_p of a coefficient (R295). -/
def cbQuant (r p : Nat) (c : Int) : Int :=
  let b := cbBits r p
  let sh := cbWidth p - b
  let lim : Int := 2 ^ (b - 1)
  max (-lim) (min (lim - 1) ((c + (if 0 < sh then 2 ^ (sh - 1) else 0)) / 2 ^ sh))

/-- A value as an encoder reads it: R87 applied, NaN as +0 (R293). -/
def cbValue (f : Fmt) (code : Nat) : Val :=
  let x := readOperand f code
  if x.isNan then .fin false 0 0 false else x

/-- E of a block (R293). -/
def cbExp (xs : List Val) : Nat :=
  match (xs.filter fun x => x.isFin && !x.isZero).map Val.topExp with
  | [] => 0
  | y :: ys => (max 0 (min 254 (ys.foldl max y + 127))).toNat

/-- q of a value (R293). -/
def cbInt (e : Nat) (x : Val) : Int :=
  match x with
  | .fin neg m ex more => max (-32767) (min 32767 (roundInt 0 (.fin neg m (ex + 141 - e) more)))
  | _ => if x.neg? then -32767 else 32767

/-- Packs E and the stored v_p (R296). -/
def cbPack (r e : Nat) (c : List Int) : Nat :=
  ((List.range 16).foldl (fun (a : Nat × Nat) p =>
    let b := cbBits r p
    if b = 0 then a else (a.1 + (cbQuant r p (c.getD p 0) % 2 ^ b).toNat * 2 ^ a.2, a.2 + b)) (e % 256, 8)).1

/-- A block of 16 codes encoded at R bits per value: 2R bytes (R293 to R296). -/
def cbEncode (f : Fmt) (r : Nat) (codes : List Nat) : Nat :=
  let xs := codes.map (cbValue f)
  let e := cbExp xs
  cbPack r e (cbForward (xs.map (cbInt e)))

/-- The coefficients of a stored block (R297). -/
def cbCoeffs (r blk : Nat) : List Int :=
  ((List.range 16).foldl (fun (a : List Int × Nat) p =>
    let b := cbBits r p
    if b = 0 then (a.1 ++ [0], a.2)
    else
      let v : Nat := blk / 2 ^ a.2 % 2 ^ b
      let v : Int := if 2 ^ (b - 1) ≤ v then (v : Int) - 2 ^ b else v
      (a.1 ++ [v * 2 ^ (cbWidth p - b)], a.2 + b)) ([], 8)).1

/-- The 16 codes of a stored block (R297). -/
def cbDecode (f : Fmt) (r blk : Nat) : List Nat :=
  let e : Int := blk % 256
  (cbInverse (cbCoeffs r blk)).map fun q => roundTo f 0 true (.fin (decide (q < 0)) q.natAbs (e - 141) false)

/-- The format e5m2 of a side byte (R78). -/
def fmtE5m2 : Fmt := fmtOf 0x8A8401E000000000

/-- The side byte of a block (R298). -/
def cbSide (f : Fmt) (codes back : List Nat) : Nat :=
  if codes.any fun c => !(readOperand f c).isFin then 0x7C
  else
    let errs := (codes.zip back).map fun c => addVal 0 (cbValue f c.1) (readOperand f c.2).negate
    ((List.range 0x7C).find? fun k => errs.all fun d => !magAbove d (readFloat fmtE5m2 k)).getD 0x7C

end Sys2Proof.Machine
end

