-- ==== Sys2Proof/Machine/Race.lean ====
section
/-! DEFINITION. Happens-before and the detection of races on checked memory (R250 to R262). -/

namespace Sys2Proof.Machine

/-! ## Clocks -/

/-- The larger of two clocks, agent by agent. -/
def clockJoin (a b : SMap Nat) : SMap Nat :=
  b.foldl (fun m e => if SMap.get m e.1 0 < e.2 then SMap.put m e.1 e.2 else m) a

/-- An agent's number among the clocks. -/
def Who.key (w : Who) : Nat :=
  match w.kind with
  | .lane => (w.gid * 128 + w.lane) * 4
  | .thread => (w.gid * 128 + 64 + w.slot) * 4
  | .core => coreKey w.pkg w.die w.core * 4 + 1
  | .engine => w.gid * 4 + 2

/-- Among the clocks: what the accesses of slot k of a group add up to, lanes since masked off included; and what every
later access of the slot follows (R131, R245, R410). -/
def slotHist (gid k : Nat) : Nat := (gid * 128 + 64 + k) * 4 + 3
def slotFloor (gid k : Nat) : Nat := (gid * 128 + 66 + k) * 4 + 3

/-- The scope instances an agent lies in (R251). -/
def State.scopesOf (s : State) (w : Who) : Scopes :=
  let die := some (w.pkg * 16 + w.die)
  match w.kind with
  | .lane | .thread =>
    [some (2 * w.gid), some (2 * (s.group w.gid).wg), some (2 * coreKey w.pkg w.die w.core), die, some w.pkg, some 0]
  | .core =>
    let me := some (2 * coreKey w.pkg w.die w.core + 1)
    [me, me, me, die, some w.pkg, some 0]
  | .engine => [none, none, none, die, some w.pkg, some 0]

/-- A scope covers two agents (R251). -/
def covers (scope : Nat) (a b : Scopes) : Bool :=
  match (a[scope]?).getD none, (b[scope]?).getD none with
  | some x, some y => x == y
  | _, _ => false

def Race.clock (r : Race) (k : Nat) : SMap Nat := SMap.get r.clocks k []

/-- What happens before an agent's next event grows by a clock. -/
def Race.learn (r : Race) (k : Nat) (c : SMap Nat) : Race :=
  { r with clocks := SMap.put r.clocks k (clockJoin (r.clock k) c) }

/-! ## Fences and messages (R253 to R257) -/

/-- A release by an agent: its later writes carry it (R255). -/
def State.release (s : State) (w : Who) (scope : Nat) : State :=
  if !s.race.active then s
  else
    let r := s.race
    let x : Release := { scopes := s.scopesOf w, scope := scope, clock := r.clock w.key }
    { s with race := { r with rels := SMap.put r.rels w.key (x :: SMap.get r.rels w.key []) } }

/-- An acquire by an agent: the releases its reads have met, where both scopes cover both (R255). -/
def State.acquire (s : State) (w : Who) (scope : Nat) : State :=
  if !s.race.active then s
  else
    let me := s.scopesOf w
    let c := (SMap.get s.race.reads w.key []).foldl
      (fun c x => if covers x.scope x.scopes me && covers scope x.scopes me then clockJoin c x.clock else c) []
    { s with race := s.race.learn w.key c }

/-- Joins the single order of `sc` fences (R256). -/
def State.scFence (s : State) (w : Who) (scope : Nat) : State :=
  if !s.race.active then s
  else
    let me := s.scopesOf w
    let c := s.race.sc.foldl
      (fun c x => if covers x.scope x.scopes me && covers scope x.scopes me then clockJoin c x.clock else c) []
    let r := s.race.learn w.key c
    { s with race := { r with sc := { scopes := me, scope := scope, clock := r.clock w.key } :: r.sc } }

/-- The agents of a slot that a fence acts for: its thread and the lanes of its MASK (R247, R252). -/
def State.slotWhos (s : State) : List Who :=
  match s.cur with
  | .sys _ _ _ => [s.thread]
  | .slot _ _ => s.thread :: (lanesList (s.slot s.cur).mask).map s.laneWho

/-- Every agent of a group. -/
def State.groupWhos (s : State) (gid : Nat) : List Who :=
  let g := s.group gid
  let w : Who := { kind := .thread, pkg := g.pkg, die := g.die, core := g.core, ctx := g.hart.ctx, gid := gid }
  w :: { w with slot := 1 } :: (List.range 64).map fun l => { w with kind := .lane, lane := l }

/-- All that happens before the next events of some agents, they included: what a message from them carries. -/
def State.knowledge (s : State) (ws : List Who) : SMap Nat :=
  if !s.race.active then [] else ws.foldl (fun c w => clockJoin c (s.race.clock w.key)) []

/-- All that the accesses before this point of the issuing slot's program order, and their pasts, add up to: the edges
of `launch`, `cpush`, `cjoin`, `bararr` and `rgdeal` start there (R257, R410). -/
def State.slotKnowledge (s : State) : SMap Nat :=
  match s.cur with
  | .sys _ _ _ => s.knowledge [s.thread]
  | .slot gid k => if !s.race.active then [] else clockJoin (s.knowledge s.slotWhos) (s.race.clock (slotHist gid k))

/-- The same of both slots of a group (R248). -/
def State.groupKnowledge (s : State) (gid : Nat) : SMap Nat :=
  if !s.race.active then []
  else clockJoin (clockJoin (s.knowledge (s.groupWhos gid)) (s.race.clock (slotHist gid 0)))
    (s.race.clock (slotHist gid 1))

/-- Agents receive a message (R257). -/
def State.learnAll (s : State) (ws : List Who) (c : SMap Nat) : State :=
  if !s.race.active then s else { s with race := ws.foldl (fun r w => r.learn w.key c) s.race }

/-- Whatever the issuing slot does from now on follows a message: its thread, the lanes of its OWN, and any lane that it
issues for later (R245). -/
def State.learnSlot (s : State) (c : SMap Nat) : State :=
  match s.cur with
  | .sys _ _ _ => s.learnAll [s.thread] c
  | .slot gid k =>
    if !s.race.active then s
    else
      let s1 := s.learnAll (s.thread :: (lanesList (s.slot s.cur).own).map s.laneWho) c
      { s1 with race := s1.race.learn (slotFloor gid k) c }

/-! ## Accesses -/

/-- The detection granule of a key: 4 bytes in a slice, 32 in DRAM (R261). -/
def raceGranule (key : Nat) : Nat := if isSlice key then key / 4 * 4 else key / 32 * 32

/-- What a race record says of an agent as the first access (R262). -/
def State.raceDetail (s : State) (w : Who) (acc : Nat) : Dword :=
  let g := s.group w.gid
  let kind := match w.kind with | .lane => 0 | .thread => 1 | .core => 2 | .engine => 3
  let part := if kind < 2 then g.part else 0
  let gslot := if kind < 2 then g.gslot else 0
  BitVec.ofNat 64 (kind * 2 ^ 61 + acc * 2 ^ 59 + w.ctx * 2 ^ 53 + w.pkg * 2 ^ 43 + w.die * 2 ^ 39 + w.core * 2 ^ 32
    + part * 2 ^ 30 + gslot * 2 ^ 26 + (if kind = 0 then w.lane * 2 ^ 20 else 0))

/-- Two accesses conflict and nothing orders the earlier before the later (R259, R261). -/
def raceWith (clock : SMap Nat) (me x : Access) : Bool :=
  x.agent != me.agent && !(x.group == me.group && x.group != 0 && x.inst == me.inst && x.det3 == me.det3)
    && (x.acc != 0 || me.acc != 0)
    && !(x.atomic && me.atomic && x.key == me.key && x.size == me.size)
    && decide (SMap.get clock x.agent 0 < x.time)

/-- The granules n bytes at a key touch. -/
def granulesOf (key n : Nat) : List Nat :=
  let g := if isSlice key then 4 else 32
  (List.range ((key + n - 1) / g - key / g + 1)).map fun i => key / g * g + i * g

/-- The agents in whose program order an access of `w` stands: a thread's stands in that of the lanes of its slot's
MASK too (R252). -/
def State.poWhos (s : State) (w : Who) : List Who :=
  match w.kind with
  | .thread =>
    if 2 ≤ w.slot then [w]
    else w :: (lanesList (s.slot (.slot w.gid w.slot)).mask).map fun l => { w with kind := .lane, lane := l }
  | _ => [w]

/-- An access by `w` is checked (R261): its page or unit is, or its group's launch has RACECHK. -/
def State.checkedAccess (s : State) (w : Who) (l : Loc) : Bool :=
  l.race || ((w.kind == .lane || w.kind == .thread) &&
    (match (s.wg (s.group w.gid).wg).launch with
     | some id => bitAt ((s.launch id).header.getD 9 0) 21
     | none => false))

/-- An access of `n` bytes at a home: kind 0 read, 1 write, 2 read-modify-write. On checked memory it answers the first
access of a race (R261); else what the access adds to happens-before. -/
def State.raceAccess (s : State) (w : Who) (l : Loc) (n acc : Nat) (atomic : Bool) : Except Access State :=
  let checked := s.checkedAccess w l
  if !checked && !s.race.active then .ok s
  else
    let r := s.race
    let ks := (s.poWhos w).map Who.key
    let grouped := w.kind = .lane || w.kind = .thread
    let clock := ks.foldl (fun c k => clockJoin c (r.clock k))
      (if grouped then r.clock (slotFloor w.gid w.slot) else [])
    let time := SMap.get clock w.key 0 + 1
    let me : Access :=
      { agent := w.key, group := if w.kind = .lane then w.gid else 0, inst := w.inst, time := time, acc := acc
        atomic := atomic, key := l.key, size := n, det2 := s.raceDetail w acc, det3 := w.pc }
    let gs := granulesOf l.key n
    match if checked then (gs.flatMap fun g => SMap.get r.hist g []).find? (raceWith clock me) else none with
    | some x => .error x
    | none =>
      let hist := if checked then gs.foldl (fun h g => SMap.put h g (SMap.get h g [] ++ [me])) r.hist else r.hist
      let bytes := (List.range n).map (l.key + ·)
      let met := bytes.flatMap fun b => SMap.get r.writes b []
      let reads := if acc = 1 then r.reads
        else ks.foldl (fun m k => SMap.put m k (met ++ SMap.get m k [])) r.reads
      let mine := ks.flatMap fun k => SMap.get r.rels k []
      let past := if acc = 0 then r.past
        else bytes.foldl (fun m b => SMap.put m b (mine ++ SMap.get m b [])) r.past
      let writes := if acc = 0 then r.writes
        else bytes.foldl (fun m b => SMap.put m b (if atomic then SMap.get past b [] else mine)) r.writes
      let full := SMap.put clock w.key time
      let clocks := (ks ++ if grouped then [slotHist w.gid w.slot] else []).foldl
        (fun m k => SMap.put m k (clockJoin (SMap.get m k []) full)) r.clocks
      .ok { s with race := { r with active := true, clocks := clocks, reads := reads, writes := writes, past := past,
                                    hist := hist } }

/-- An access by a group's own hardware, `w` an agent apart from its threads and lanes: it follows all that these have
done, and they follow it, so that agents of other groups alone race with it (R119). -/
def State.groupAccess (s : State) (w : Who) (l : Loc) (n acc : Nat) : Except Access State :=
  match (s.learnAll [w] (s.knowledge (s.groupWhos w.gid))).raceAccess w l n acc false with
  | .error x => .error x
  | .ok s1 => .ok (s1.learnAll (s1.groupWhos w.gid) [(w.key, SMap.get (s1.race.clock w.key) w.key 0)])

/-! ## Memory that changes hands or moves -/

/-- The number under which a phase of a barrier object gathers what its arrivals and bytes carry (R245). -/
def barMsg (key phase : Nat) : Nat := 2 ^ 100 + key * 2 ^ 32 + phase % 2 ^ 32

/-- The number under which what sets a wake bit of a core leaves its message (R254). -/
def wakeMsg (core bit : Nat) : Nat := 2 ^ 92 + core * 16 + bit

/-- What is known of n bytes at a home is forgotten, the messages left at objects in them too: their units are tagged
anew. DESIGN CHOICE (log 19). -/
def Race.forget (r : Race) (key n : Nat) : Race :=
  let here (k : Nat) : Bool := decide (key ≤ k) && decide (k < key + n)
  let out {α : Type} (m : SMap α) : SMap α := m.filter fun e => !here e.1
  { r with
    hist := out r.hist, writes := out r.writes, past := out r.past
    msgs := r.msgs.filter fun e => !(here e.1 || (decide (2 ^ 100 ≤ e.1) && here ((e.1 - 2 ^ 100) / 2 ^ 32))) }

/-- What is known of n bytes follows them to another home. -/
def Race.moved (r : Race) (old new n : Nat) : Race :=
  let at_ (a : Access) : Access := if old ≤ a.key ∧ a.key < old + n then { a with key := a.key - old + new } else a
  { r with
    hist := (SMap.moved r.hist old new n).map fun e => (e.1, e.2.map at_)
    writes := SMap.moved r.writes old new n
    past := SMap.moved r.past old new n
    msgs := SMap.moved (SMap.moved r.msgs old new n) (barMsg old 0) (barMsg new 0) (n * 2 ^ 32) }

/-! ## Operations that release, acquire or carry a message -/

/-- A publish of a generation carries what its lane has released (R266); `key` names launch, item, port, generation. -/
def State.publishRels (s : State) (w : Who) (key : Nat) : State :=
  if !s.race.active then s
  else { s with race := { s.race with pubs := SMap.put s.race.pubs key (SMap.get s.race.rels w.key []) } }

/-- A read of a port that returns a publish reads from what that carries (R266). -/
def State.readRels (s : State) (w : Who) (key : Nat) : State :=
  if !s.race.active then s
  else { s with race := { s.race with
    reads := SMap.put s.race.reads w.key (SMap.get s.race.pubs key [] ++ SMap.get s.race.reads w.key []) } }

/-- Every agent of the issuing slot makes a release, or an acquire (R253). -/

def State.releaseSlot (s : State) (scope : Nat) : State := s.slotWhos.foldl (fun s w => s.release w scope) s
def State.acquireSlot (s : State) (scope : Nat) : State := s.slotWhos.foldl (fun s w => s.acquire w scope) s

/-- What a message at a home carries. -/
def State.message (s : State) (k : Nat) : SMap Nat := SMap.get s.race.msgs k []

/-- Knowledge is added to the message gathered at a home (R245, R257). -/
def State.post (s : State) (k : Nat) (c : SMap Nat) : State :=
  if !s.race.active then s
  else { s with race := { s.race with msgs := SMap.put s.race.msgs k (clockJoin (s.message k) c) } }

end Sys2Proof.Machine
end

