-- ==== Sys2Proof/Machine/Links.lean ====
section
/-! DEFINITION. The Rhoam links: flits, the replay buffer, credits, and what a remote access puts on them (R385, R388,
R389, R395). DESIGN CHOICE (log 96) where R388 gives a field no more than its name. -/

namespace Sys2Proof.Machine

/-! ## Flits (R388) -/

/-- CRC-32C, one byte. -/
def crcByte (crc : BitVec 32) (b : Byte) : BitVec 32 :=
  (List.range 8).foldl (fun c _ => if c.getLsbD 0 then (c >>> 1) ^^^ 0x82F63B78 else c >>> 1) (crc ^^^ b.setWidth 32)

/-- CRC-32C. -/
def crc32c (l : List Byte) : BitVec 32 := ~~~ l.foldl crcByte 0xFFFFFFFF

/-- The bytes of a flit before its LCRC. -/
def Flit.body (f : Flit) : List Byte :=
  bytesOfNat 8 (f.seq % 2 ^ 12 + f.ack % 2 ^ 12 * 2 ^ 12 + f.kind % 16 * 2 ^ 24 + f.credits % 256 * 2 ^ 32) ++ bytesOfNat 8 0
    ++ bytesOfNat 8 f.txa.toNat ++ bytesOfNat 8 f.txb.toNat ++ (List.range 3).flatMap (fun i => bytesOfNat 64 (f.grans.getD i 0))
    ++ (List.range 3).flatMap (fun i => bytesOfNat 8 (f.carries.getD i 0).toNat)

/-- A flit as it crosses a link. -/
def Flit.bytes (f : Flit) : List Byte := f.body ++ bytesOfNat 8 (crc32c f.body).toNat

/-- The flit in 256 bytes. -/
def flitOf (l : List Byte) : Flit :=
  let at_ (i n : Nat) : Nat := natOfBytes ((l.drop i).take n)
  let h := at_ 0 8
  { seq := h % 2 ^ 12, ack := h / 2 ^ 12 % 2 ^ 12, kind := h / 2 ^ 24 % 16, credits := h / 2 ^ 32 % 256
    txa := BitVec.ofNat 64 (at_ 0x10 8), txb := BitVec.ofNat 64 (at_ 0x18 8)
    grans := (List.range 3).map fun i => at_ (0x20 + 64 * i) 64
    carries := (List.range 3).map fun i => BitVec.ofNat 64 (at_ (0xE0 + 8 * i) 8) }

/-- A flit that takes a credit: data or control. -/
def Flit.costs (f : Flit) : Bool := f.kind == 1 || f.kind == 3

/-! ## Sending -/

/-- A message leaves a package. -/
def State.send (s : State) (pkg kind : Nat) (bytes : List Byte) : State :=
  { s with sent := { pkg := pkg, kind := kind, bytes := bytes } :: s.sent }

/-- A flit leaves a port. -/
def State.sendFlit (s : State) (pkg port : Nat) (f : Flit) : State :=
  { s with sent := { pkg := pkg, kind := 3, bytes := f.bytes, port := port } :: s.sent }

def State.link (s : State) (pkg port : Nat) : Link := SMap.get (s.pkg pkg).links port {}
def State.setLink (s : State) (pkg port : Nat) (l : Link) : State :=
  let p := s.pkg pkg
  s.setPkg pkg { p with links := SMap.put p.links port l }

/-- The replay buffer of 128 flits, and the credits, have room for a flit. -/
def Link.room (l : Link) (f : Flit) : Bool :=
  decide (l.buffer.length < 128) && (!f.costs || decide (l.used < Config.linkCredits))

/-- Sends the flits of a list that have room, in order; what has none waits. -/
def State.drain (s : State) (pkg port : Nat) : List Flit → State
  | [] => let l := s.link pkg port; s.setLink pkg port { l with waiting := [] }
  | f :: fs =>
    let l := s.link pkg port
    if l.room f then
      let f := { f with seq := l.tx, ack := l.rx, credits := min l.owed 255 }
      let l1 := { l with tx := (l.tx + 1) % 4096, buffer := l.buffer ++ [f], used := l.used + f.costs.toNat
                         owed := l.owed - min l.owed 255 }
      ((s.setLink pkg port l1).sendFlit pkg port f).drain pkg port fs
    else s.setLink pkg port { l with waiting := f :: fs }

/-- A flit goes out at a port, behind those that wait there. -/
def State.emit (s : State) (pkg port : Nat) (f : Flit) : State := s.drain pkg port ((s.link pkg port).waiting ++ [f])

/-! ## Routes (R386, R395) -/

/-- TIMENS of a package (R52). -/
def State.timens (s : State) (pkg : Nat) : Dword :=
  let p := s.pkg pkg
  p.timeT + BitVec.ofNat 64 (2 * (s.cycle - p.timeAt) / 3)

/-- The ports of a route entry that are up; those of a circuit serve its peer alone while it stands. -/
def State.routePorts (s : State) (pkg target : Nat) : List Nat :=
  let p := s.pkg pkg
  let ports := (SMap.get p.routes (2 * target) 0).toNat + 2 ^ 64 * ((SMap.get p.routes (2 * target + 1) 0).toNat % 256)
  let up (i : Nat) : Bool := (SMap.get p.links i {}).st == 2
  let own := (List.range 72).filter fun i => ports.testBit i && up i
  match p.circuit with
  | none => own
  | some (peer, held, till) =>
    if till ≤ (s.timens pkg).toNat then own
    else if peer = target && held.any up then held.filter up
    else
      let rest := own.filter fun i => !held.contains i
      if rest.isEmpty then own else rest

/-- Sends a flit towards a package: the ports of its entry take granules in turn. -/
def State.route (s : State) (pkg target granule : Nat) (f : Flit) : State :=
  let ports := s.routePorts pkg target
  match ports[granule % ports.length]? with
  | none => s
  | some i => s.emit pkg i f

/-! ## Receiving (R389) -/

/-- ACK names the SEQ that the neighbour expects next: the flits before it leave the replay buffer. -/
def Link.acked (l : Link) (ack : Nat) : Link :=
  match l.buffer with
  | [] => l
  | f :: _ =>
    let n := (ack + 4096 - f.seq) % 4096
    if n ≤ l.buffer.length then { l with buffer := l.buffer.drop n } else l

/-- The flit expected is taken: what it acknowledges and returns makes room for those that wait. -/
def State.acceptFlit (s : State) (pkg port : Nat) (f : Flit) : State :=
  let l := s.link pkg port
  let l1 := { l with rx := (l.rx + 1) % 4096, fails := 0, used := l.used - f.credits, owed := l.owed + f.costs.toNat }.acked f.ack
  (s.setLink pkg port l1).drain pkg port l.waiting

/-- A NAK with the failing SEQ, the one expected next. It takes no SEQ of its own. -/
def State.nak (s : State) (pkg port : Nat) : State :=
  let l := s.link pkg port
  s.sendFlit pkg port { seq := l.rx, ack := l.rx, kind := 2 }

/-- A NAK arrives: every flit from its SEQ on is sent again out of the replay buffer. -/
def State.resend (s : State) (pkg port : Nat) (f : Flit) : State :=
  let l := (s.link pkg port).acked f.seq
  l.buffer.foldl (fun s x => s.sendFlit pkg port x) (s.setLink pkg port l)

/-- A port goes down: what it had not brought across moves to the other ports of each route entry. -/
def State.portDown (s : State) (pkg port : Nat) (l : Link) : State :=
  (l.buffer ++ l.waiting).foldl (fun s f =>
    if f.costs then s.route pkg (bits f.txb 19 10) (f.txa.toNat / 64) f else s)
    (s.setLink pkg port { l with st := 0, buffer := [], waiting := [] })

/-! ## Remote accesses -/

/-- The flit of an access to a package: its granule with the check and origin it gets as it enters (R222), of a write of
fewer than 64 bytes the byte mask in GRAN1. The operations are numbered as R388 lists them. -/
def accessFlit (src dst ctx op tag : Nat) (origin : BitVec 16) (r : LaneReq) : Flit :=
  let off := r.addr % 64
  let data := r.data % 2 ^ (8 * r.n) * 2 ^ (8 * off)
  let mask := (2 ^ r.n - 1) * 2 ^ off
  let grans := if op = 0 then [] else if r.n = 64 then [data] else [data, mask]
  let check (g : Nat) : Dword := BitVec.ofNat 64 ((crc32c (bytesOfNat 64 g)).toNat + origin.toNat * 2 ^ 32)
  { kind := 1, txa := BitVec.ofNat 64 (r.addr % 2 ^ 57)
    txb := BitVec.ofNat 64 (src % 1024 + dst % 1024 * 2 ^ 10 + grans.length * 2 ^ 20 + ctx * 2 ^ 22 + op * 2 ^ 28
      + tag % 2 ^ 28 * 2 ^ 36)
    grans := grans, carries := grans.map check }

/-- How R388 names what an operation asks of another package: read, write, atomic step, collective. -/
def OpKind.asks : OpKind → Nat
  | .store | .parkedScalar _ .store => 1
  | .atomic _ _ _ _ | .parkedScalar _ (.atomic _ _ _) => 2
  | .collective _ _ _ => 3
  | _ => 0

/-- Accesses of an operation that go to other packages leave as flits, from package `src` in a context. -/
def State.transmit (s : State) (n : Nat) (o : Op) (src ctx : Nat) (origin : BitVec 16) (reqs : List LaneReq) : State :=
  match reqs.filter fun r => (homeOf r.key).1 != src with
  | [] => s
  | away => away.foldl (fun s r =>
      let dst := (homeOf r.key).1
      s.route src dst (r.addr / 64) (accessFlit src dst ctx o.kind.asks n origin r)) s

end Sys2Proof.Machine
end

