-- ==== Sys2Proof/Machine/Trace.lean ====
section
/-! DEFINITION. Stamp rings and trace rings, what is stopped, and the records that issue, traps, engines and debug write
(R291, R367, R370, R375, R376). -/

namespace Sys2Proof.Machine

/-! ## Registers of packages, contexts, partitions and dies -/

/-- A register a package has once. -/
def Pkg.reg (p : Pkg) (num : Nat) : Dword := SMap.get p.srs num 0
def Pkg.setReg (p : Pkg) (num : Nat) (v : Dword) : Pkg := { p with srs := SMap.put p.srs num v }

/-- CYCLES of a package (R52). -/
def State.cyclesOf (s : State) (pkg : Nat) : Nat := s.cycle - (s.pkg pkg).onAt

/-- A context's register, by number, with its reset value (R52). -/
def State.ctxReg (s : State) (pkg ctx num : Nat) : Dword :=
  SMap.get (s.ctx pkg ctx).srs num (if num = 0x21 then 20000 else 0)
def State.setCtxReg (s : State) (pkg ctx num : Nat) (v : Dword) : State :=
  let c := s.ctx pkg ctx
  s.setCtx pkg ctx { c with srs := SMap.put c.srs num v }

def State.partSt (s : State) (k : Nat) : PartSt := SMap.get s.parts k {}
def State.setPart (s : State) (k : Nat) (x : PartSt) : State := { s with parts := SMap.put s.parts k x }
def State.dieSt (s : State) (pkg die : Nat) : DieSt := SMap.get s.dies (pkg * 16 + die) {}
def State.setDie (s : State) (pkg die : Nat) (x : DieSt) : State := { s with dies := SMap.put s.dies (pkg * 16 + die) x }

/-- The key of the partition a group stands on. -/
def Group.partKey (g : Group) : Nat := coreKey g.pkg g.die g.core * 4 + g.part

/-- A group occupies a slot of its partition (R127). -/
def Group.resides (g : Group) : Bool := g.life != .saved

/-- The stop that holds an agent (R370). -/
def State.stopOf (s : State) (a : Agent) : Option Stop :=
  match a with
  | .sys p d c => (s.core p d c).stop
  | .slot gid _ => if (s.group gid).resides then (s.partSt (s.group gid).partKey).stop else none

def State.isStopped (s : State) (a : Agent) : Bool := (s.stopOf a).isSome

/-- Writes the stop of an agent's partition, or of the core. -/
def State.setStop (s : State) (a : Agent) (x : Option Stop) : State :=
  match a with
  | .sys p d c => s.setCore p d c { s.core p d c with stop := x }
  | .slot gid _ => let k := (s.group gid).partKey; s.setPart k { s.partSt k with stop := x }

/-! ## Fault buffer entries (R219) -/

/-- Opens a fault buffer entry, or lets the fault wait for one: 64 entries a core. -/
def State.openFault (s : State) (e : FaultEntry) : State :=
  let used := s.faults.filterMap fun x =>
    if x.pkg = e.pkg ∧ x.die = e.die ∧ x.core = e.core then x.idx else none
  let idx := (List.range 64).find? fun i => !used.contains i
  { s with faults := s.faults ++ [{ e with idx := idx }] }

/-- Gives free entry numbers to the faults that wait for one, in the order found (R219). -/
def grantEntries (fs : List FaultEntry) : List FaultEntry :=
  (List.range fs.length).foldl (fun (l : List FaultEntry) i =>
    match l[i]? with
    | none => l
    | some e =>
      if e.idx.isSome then l
      else
        let used := l.filterMap fun x => if x.pkg = e.pkg ∧ x.die = e.die ∧ x.core = e.core then x.idx else none
        match (List.range 64).find? fun k => !used.contains k with
        | none => l
        | some k => l.set i { e with idx := some k }) fs

/-- Takes fault entries out; those that wait move up. -/
def State.dropFaults (s : State) (p : FaultEntry → Bool) : State :=
  { s with faults := grantEntries (s.faults.filter fun e => !p e) }

/-! ## Rings (R291, R376) -/

/-- The hardware of a core, or an engine (as core 96 + its number), that writes records for a context. -/
def ringWho (core ctx : Nat) : Who :=
  { kind := .engine, pkg := core / 2048, die := core / 128 % 16, core := core % 128, ctx := ctx, gid := 2 ^ 80 + core }

/-- The origin of ring writes: an engine's, or a core's (R222). -/
def ringOrigin (core : Nat) : BitVec 16 :=
  if 96 ≤ core % 128 && core % 128 < 112 then originOf 2 0 (core % 128 - 96) else originOf 1 (core / 128 % 16) (core % 128)

/-- Bytes of a record. -/
def RingRec.size (r : RingRec) : Nat := 8 * r.words.length

/-- The ring header of a record's ring: its home, or none where the record is dropped uncounted. -/
def State.ringHeader (s : State) (r : RingRec) : Option (Nat × State) :=
  let h := s.ctxReg r.pkg r.ctx (if r.stamp then 0x23 else 0x147)
  if h = 0 || h.toNat % 64 ≠ 0 then none
  else match s.xlate (ringWho (r.writer / 4) r.ctx) h .rmw with
    | (.at l, s1) => some (l.key, s1)
    | _ => none

/-- Adds 1 to the dword at a home. -/
def State.bump (s : State) (key : Nat) (origin : BitVec 16) : State :=
  s.putBytes key 8 ((s.bytesAt key 8 + 1) % 2 ^ 64) origin

/-- A record is dropped and counted. -/
def State.ringDrop (s : State) (r : RingRec) : State :=
  match s.ringHeader r with
  | none => s
  | some (h, s1) =>
    let s2 := s1.bump (h + 0x20) (ringOrigin (r.writer / 4))
    if r.stamp then s2 else { s2 with lost := SMap.put s2.lost r.writer (SMap.get s2.lost r.writer 0 + 1) }

/-- A write by a ring's writer is an event; the writer takes no exception. -/
def State.ringEvent (s : State) (w : Who) (l : Loc) (n : Nat) (atomic : Bool) : State :=
  match s.raceAccess w l n 1 atomic with
  | .ok s1 => s1
  | .error _ => s

/-- Writes one record, then TAIL as a release at package scope; or drops it. A replayable outcome is answered, with the
address and its cause. -/
def State.ringWriteOne (s : State) (r : RingRec) : Option (Dword × Nat) × State :=
  match s.ringHeader r with
  | none => (none, s)
  | some (h, s1) =>
    let w (i : Nat) := BitVec.ofNat 64 (s1.bytesAt (h + 8 * i) 8)
    let cap := 2 ^ bits (w 3) 4 0
    let va := w 2 + BitVec.ofNat 64 (r.size * ((w 1).toNat % cap))
    if cap ≤ (w 1 - w 0).toNat || (w 2).toNat % 64 ≠ 0 then (none, s1.ringDrop r)
    else match s1.xlate (ringWho (r.writer / 4) r.ctx) va .write with
      | (.bad, s2) => (none, s2.ringDrop r)
      | (.miss c, s2) => (some (va, c), s2)
      | (.at l, s2) =>
        let org := ringOrigin (r.writer / 4)
        let who := ringWho (r.writer / 4) r.ctx
        let s2 := ((s2.ringEvent who l r.size false).release who 4).ringEvent who { key := h + 8, addr := h + 8 } 8 true
        let s3 := (s2.putBytes l.key r.size ((r.words.foldr (fun x n => x.toNat + 2 ^ 64 * n) 0)) org).bump (h + 8) org
        (none, if r.stamp then s3.putBytes (h + 0x28) 8 (s3.ctx r.pkg r.ctx).stampSeq org
               else { s3 with lost := SMap.erase s3.lost r.writer })

/-- DIE, CORE, PART, GSLOT, PSLOT and CTX of a trace record with its KIND and DATA0. -/
def traceWhere (core part gslot pslot ctx kind data0 : Nat) : Dword :=
  BitVec.ofNat 64 (kind * 2 ^ 60 + core / 128 % 8 * 2 ^ 57 + core % 128 * 2 ^ 50 + part * 2 ^ 48 + gslot * 2 ^ 44
    + pslot * 2 ^ 43 + ctx % 64 * 2 ^ 32 + data0 % 2 ^ 32)

/-- The LOST record that stands before the first record after a drop. -/
def State.lostRecord (s : State) (r : RingRec) : Option RingRec :=
  let n := SMap.get s.lost r.writer 0
  if r.stamp || n = 0 then none
  else some { r with words := [r.words.headD 0,
    traceWhere (r.writer / 4) (r.writer % 4) 0 0 r.ctx 8 0, 0, BitVec.ofNat 64 n] }

/-- The ring of a record is full. -/
def State.ringFull (s : State) (r : RingRec) : Bool :=
  match s.ringHeader r with
  | none => false
  | some (h, s1) =>
    decide (2 ^ bits (BitVec.ofNat 64 (s1.bytesAt (h + 24) 8)) 4 0
      ≤ (BitVec.ofNat 64 (s1.bytesAt (h + 8) 8) - BitVec.ofNat 64 (s1.bytesAt h 8)).toNat)

/-- Writes a record, a LOST record before it where one is due. -/
def State.ringWrite (s : State) (r : RingRec) : Option (Dword × Nat) × State :=
  if s.ringFull r then (none, s.ringDrop r)
  else match s.lostRecord r with
    | none => s.ringWriteOne r
    | some x =>
      match s.ringWriteOne x with
      | (some m, s1) => (some m, s1)
      | (none, s1) => s1.ringWriteOne r

/-- A record is written, dropped, or waits: behind the records of its core or engine that wait for a reply (R291). -/
def State.record (s : State) (r : RingRec) : State :=
  let q := r.writer / 4
  match SMap.get s.rings q [] with
  | x :: l => { s with rings := SMap.put s.rings q (x :: l ++ [r]) }
  | [] =>
    match s.ringWrite r with
    | (none, s1) => s1
    | (some (va, c), s1) =>
      ({ s1 with rings := SMap.put s1.rings q [r] }).openFault
        { gid := none, pkg := q / 2048, die := q / 128 % 16, core := q % 128, ctx := r.ctx, va := va, kind := .write,
          cause := c, held := .ring q }

/-- A reply about the records that wait: the first is dropped if it is rejected, then all are written in order. -/
def State.ringReply (s : State) (q : Nat) (reject : Bool) : State :=
  let l := SMap.get s.rings q []
  let s1 := { s with rings := SMap.erase s.rings q }
  match l, reject with
  | r :: rest, true => rest.foldl State.record (s1.ringDrop r)
  | l, _ => l.foldl State.record s1

/-! ## Trace records (R376) -/

/-- A trace record of a partition, for the ring of a context, as of a cycle. -/
def State.partRecord (s : State) (part gslot pslot ctx kind data0 : Nat) (d1 d2 : Dword) (cycle : Nat) : RingRec :=
  let pkg := part / 4 / 2048
  { pkg := pkg, ctx := ctx, stamp := false, writer := part,
    words := [BitVec.ofNat 64 (cycle - (s.pkg pkg).onAt), traceWhere (part / 4) (part % 4) gslot pslot ctx kind data0, d1, d2] }

/-- A trace record of a partition is written. -/
def State.tracePart (s : State) (part gslot pslot ctx kind data0 : Nat) (d1 d2 : Dword) : State :=
  s.record (s.partRecord part gslot pslot ctx kind data0 d1 d2 s.cycle)

/-- A trace record of a slot of a group. -/
def State.traceSlot (s : State) (gid k kind data0 : Nat) (d1 d2 : Dword) : State :=
  let g := s.group gid
  s.tracePart g.partKey g.gslot k g.hart.ctx kind data0 d1 d2

/-- ISSUE: a slot enters a clause. -/
def State.traceIssue (s : State) (a : Agent) (hdr : Dword) : State :=
  match a with
  | .sys _ _ _ => s
  | .slot gid k =>
    if bitAt (s.partSt (s.group gid).partKey).trc 0 then
      let m := (s.slot a).mask
      s.traceSlot gid k 0 (lanesList m).length hdr m
    else s

/-- TRAP: trap entry or escalation of a group. -/
def State.traceTrap (s : State) (gid k cause : Nat) (tpc addr : Dword) : State :=
  if bitAt (s.partSt (s.group gid).partKey).trc 1 then s.traceSlot gid k 6 cause tpc addr else s

/-- ENGSTART, ENGDONE, EVENT: a record of an engine, where the die's ENG or EVT is set and watches the context. -/
def State.traceEngine (s : State) (evt : Bool) (pkg die engine ctx kind data0 : Nat) (d1 d2 : Dword) : State :=
  let d := s.dieSt pkg die
  if (if evt then d.evt else d.eng) && bits (s.partSt d.part).ctx 5 0 == ctx then
    s.tracePart (coreKey pkg die (96 + engine) * 4) 0 0 ctx kind data0 d1 d2
  else s

/-! ## Replies (R369, R372, R399) -/

/-- The bytes of dwords. -/
def bytesOf (l : List Dword) : List Byte := l.flatMap fun w => bytesOfNat 8 w.toNat

/-- A Maelub reply: the header with OP | 0x80, the status, what follows it. -/
def maelubReply (m : MaelubMsg) (status : Nat) (payload : List Byte) : List Byte :=
  bytesOf [m.w0 ||| 0x80000000, BitVec.ofNat 64 (bits m.w1 31 0 + (4 + payload.length) * 2 ^ 32)]
    ++ bytesOfNat 4 status ++ payload

/-- A reply of the request protocol: TAG, CTX and KEY echoed. -/
def reqReply (r : Req) (status : Nat) (ctx : Nat) (key : BitVec 58) (arg0 arg1 : Dword) (payload : List Byte) :
    List Byte :=
  bytesOf [BitVec.ofNat 64 (0x5152 + 2 ^ 16 + (r.op.toNat ||| 0x80) * 2 ^ 24 + r.tag.toNat * 2 ^ 32),
    BitVec.ofNat 64 (ctx % 64 + key.toNat * 64), r.addr, BitVec.ofNat 64 payload.length, arg0, arg1, 0,
    BitVec.ofNat 64 status] ++ payload

/-- The reply to a Maelub message leaves, inside the reply to the request that carried it where one did. -/
def State.sendMaelub (s : State) (m : MaelubMsg) (req : Option Req) (status : Nat) (payload : List Byte) : State :=
  match req with
  | none => s.send m.pkg 0 (maelubReply m status payload)
  | some r => s.send m.pkg 2 (reqReply r 0 r.ctx r.key 0 0 (maelubReply m status payload))

/-! ## Stopping (R370) -/

/-- Writes that an operation's completion makes: register beats, and its pip. -/
def Op.writes (o : Op) : Nat := o.pendS.length + 2 * o.pendV.length + o.pip.isSome.toNat

/-- Writes in the hold queue (R372). -/
def State.held (s : State) (x : Stop) : Nat :=
  (x.hold.map fun n => match SMap.find s.ops n with | some o => o.writes | none => 0).sum

/-- The groups that stand on a partition. -/
def State.groupsAt (s : State) (k : Nat) : List (Nat × Group) :=
  s.groups.filter fun e => e.2.partKey == k && e.2.resides

/-- The stop header (R372). -/
def State.stopHeader (s : State) (x : Stop) (slots : List Nat) : List Byte :=
  bytesOf [BitVec.ofNat 64 x.cycle, BitVec.ofNat 64 (x.code % 256 + x.cmp % 8 * 256),
    BitVec.ofNat 64 (slots.eraseDups.map fun g => 2 ^ (g % 16)).sum, BitVec.ofNat 64 (s.held x)]

/-- The reply to a STEP that has ended in this stop. -/
def State.stepReply (s : State) (r : Option StepRun) (x : Stop) (slots : List Nat) : State :=
  match r with
  | none => s
  | some r => s.sendMaelub r.msg r.req 0 (s.stopHeader x slots)

/-- A partition stops with a code, at the present cycle; a STEP in progress is answered; a STOP record is traced when
TRAP is set. -/
def State.stopPart (s : State) (k code cmp : Nat) : State :=
  let x := s.partSt k
  let pkg := k / 4 / 2048
  let stop : Stop := { code := code, cmp := cmp, cycle := s.cyclesOf pkg, at_ := s.cycle }
  let s0 := s.setPart k { x with stop := some stop, step := none }
  let s1 := s0.stepReply x.step stop ((s0.groupsAt k).map fun e => e.2.gslot)
  if bitAt x.trc 1 then
    s1.tracePart k 0 0 (bits x.ctx 5 0) 7 code (BitVec.ofNat 64 (s.cyclesOf pkg)) 0
  else s1

/-- An agent's partition or core stops. -/
def State.stopAgent (s : State) (a : Agent) (code cmp : Nat) : State :=
  match a with
  | .sys p d c =>
    let x := s.core p d c
    let stop : Stop := { code := code, cmp := cmp, cycle := s.cyclesOf p, at_ := s.cycle }
    (s.setCore p d c { x with stop := some stop, step := none }).stepReply x.step stop []
  | .slot gid _ => s.stopPart (s.group gid).partKey code cmp

/-- An operation of a stopped agent has its writes arrive: they wait in the hold queue, which holds 512; where it is
full the response waits in the fabric. -/
def State.holdOp (s : State) (n : Nat) (o : Op) (x : Stop) : State :=
  if x.hold.contains n || decide (512 < s.held x + o.writes) then s
  else s.setStop o.agent (some { x with hold := x.hold ++ [n] })

end Sys2Proof.Machine
end

