-- ==== Sys2Proof/Machine/Wake.lean ====
section
/-! DEFINITION. Pending wakes of system-class cores and groups (R396). -/

namespace Sys2Proof.Machine

/-- Sets a bit of a scalar side's pending wake. -/
def Hart.wakeBit (h : Hart) (bit : Nat) : Hart := { h with wake := h.wake ||| (1#16 <<< bit) }

/-- Sets a pending wake bit of one system-class core, if it is there. -/
def State.wakeCore (s : State) (pkg die core bit : Nat) : State :=
  match SMap.find s.cores (coreKey pkg die core) with
  | none => s
  | some c => s.setCore pkg die core { c with hart := c.hart.wakeBit bit }

/-- Wakes the system cores of a package's service die. -/
def State.wakeSys (s : State) (pkg bit : Nat) : State :=
  (List.range 16).foldl (fun s n => s.wakeCore pkg 8 n bit) s

/-- Bit 7: a board bit was set on a core, in a window of a context: its groups there wake. -/
def State.wakeGroups (s : State) (pkg die core ctx : Nat) : State :=
  { s with groups := s.groups.map fun e =>
      if e.2.pkg = pkg ∧ e.2.die = die ∧ e.2.core = core ∧ e.2.hart.ctx = ctx
      then (e.1, { e.2 with hart := e.2.hart.wakeBit 7 }) else e }

end Sys2Proof.Machine
end

