-- ==== Sys2Proof/Machine/Errors.lean ====
section
/-! DEFINITION. The rings of the service, and the package's error log (R220, R354, R361, R362). -/

namespace Sys2Proof.Machine

/-- Little-endian dwords as one number. -/
def natOfDwords (l : List Dword) : Nat := l.foldr (fun x n => x.toNat + 2 ^ 64 * n) 0

/-- The hardware of a package as it reaches memory of the service context (R220, R354, R362, R365). -/
def serviceWho (pkg : Nat) : Who := { kind := .core, pkg := pkg, die := 8, core := 0, ctx := 0 }

/-! ## Rings of the service (R220, R354, R362) -/

/-- Writes n bytes of a record in the service context of a package. -/
def State.postAt (s : State) (pkg : Nat) (va : Dword) (n : Nat) (words : List Dword) : Option State :=
  match s.xlate (serviceWho pkg) va .write with
  | (.at l, s1) => some (s1.putBytes l.key n (natOfDwords words) (originOf 1 0 0xFFF))
  | _ => none

/-- The identity word of a group (R354). -/
def Group.identity (g : Group) : Dword :=
  BitVec.ofNat 64 (g.gslot % 16 * 2 ^ 24 + g.part % 4 * 2 ^ 22 + g.core % 128 * 2 ^ 15 + g.die % 8 * 2 ^ 12 + g.hart.ctx % 64)

/-- Posts an error record of these seven words after TIME, or drops it where the log is full (R362). -/
def State.postError (s : State) (pkg : Nat) (words : List Dword) : State :=
  let p := s.pkg pkg
  if 1024 ≤ (p.reg 0x56 - p.reg 0x55).toNat then s
  else match s.postAt pkg (p.reg 0x54 + BitVec.ofNat 64 (64 * ((p.reg 0x56).toNat % 1024))) 64 words with
    | none => s
    | some s1 => (s1.setPkg pkg ((s1.pkg pkg).setReg 0x56 (p.reg 0x56 + 1))).wakeSys pkg 2

/-- An error record of KINDs 1 to 4. -/
def State.errorRecord (s : State) (pkg : Nat) (unit_ where_ kind : Dword) : State :=
  s.postError pkg [BitVec.ofNat 64 (s.cyclesOf pkg), unit_, where_, kind, 0, 0, 0, 0]

/-- Error records for register elements overwritten unread (R361). -/
def State.postLost (s : State) (gid : Nat) : State :=
  match SMap.find s.groups gid with
  | none => s
  | some g =>
    if g.regs.lost.isEmpty then s
    else
      let s1 := g.regs.lost.foldl (fun s n => s.errorRecord g.pkg g.identity (BitVec.ofNat 64 n) 1) s
      let g1 := s1.group gid
      s1.setGroup gid { g1 with regs := { g1.regs with lost := [] } }

end Sys2Proof.Machine
end

