-- ==== Sys2Proof/Machine/Ports.lean ====
section
/-! DEFINITION. Forward ports as the launch keeps them: publishes, ends, reads, releases (R133 to R142). -/

namespace Sys2Proof.Machine

/-! ## The launch header (R128) -/

def Launch.word (l : Launch) (off : Nat) : Dword := l.header.getD (off / 8) 0

/-- The width wj of field Fj. -/
def Launch.width (l : Launch) (j : Nat) : Nat := bits (l.word 0x10) (7 * j + 6) (7 * j)

/-- The extent ej of field Fj. -/
def Launch.extent (l : Launch) (j : Nat) : Nat :=
  match j with
  | 0 => bits (l.word 0x18) 5 0 + 1
  | 1 => bits (l.word 0x18) 9 6 + 1
  | 2 => bits (l.word 0x18) 13 10 + 1
  | 3 => (l.word 0x20).toNat + 1
  | 4 => (l.word 0x28).toNat + 1
  | _ => (l.word 0x30).toNat + 1

/-- Pj: where field Fj starts (R114). -/
def Launch.shift (l : Launch) (j : Nat) : Nat := ((List.range j).map l.width).sum

/-- The value of field Fj in an identifier. -/
def Launch.field (l : Launch) (wid : Nat) (j : Nat) : Nat := wid / 2 ^ l.shift j % 2 ^ l.width j

/-- An identifier is a work item of the launch (R115). -/
def Launch.isItem (l : Launch) (wid : Nat) : Bool :=
  (List.range 6).all (fun j => decide (l.field wid j < l.extent j))
    && wid / 2 ^ l.shift 6 == (l.word 0x08).toNat / 2 ^ l.shift 6

/-- The binding of port n: EN, k and register (R128). -/
def Launch.binding (l : Launch) (n : Nat) : BitVec 16 :=
  (l.word (if n < 4 then 0x50 else 0x58)).extractLsb' (16 * (n % 4)) 16
def Launch.portOn (l : Launch) (n : Nat) : Bool := (l.binding n).getLsbD 15
def Launch.portK (l : Launch) (n : Nat) : Nat := (l.binding n).toNat / 256 % 64
def Launch.portReg (l : Launch) (n : Nat) : Nat := (l.binding n).toNat % 256

/-! ## Items -/

def itemKey (n wid : Nat) : Nat := n + 8 * wid
def Launch.item (l : Launch) (n wid : Nat) : PortItem := SMap.get l.items (itemKey n wid) {}
def Launch.setItem (l : Launch) (n wid : Nat) (x : PortItem) : Launch :=
  { l with items := SMap.put l.items (itemKey n wid) x }

/-- wrap(wid + k, 64), the one item that can read what `wid` publishes; wrap(wid − k, 64), the one it reads. -/
def readerOf (wid k : Nat) : Nat := (wid + k) % 2 ^ 64
def predOf (wid k : Nat) : Nat := (wid + 2 ^ 64 - k) % 2 ^ 64

/-- No read of the reader q resolves to generation g of p any more: its own next read is for a later generation, and
where p has ended with g as its last publish, it has read it; where q itself has ended the port, its read generation
stays what it is (R134, R135). -/
def passed (p q : PortItem) (g : Nat) : Bool :=
  if q.ended then g != q.pubs + 1 else g < q.pubs + 1 && (!(p.ended && p.pubs == g) || g ≤ q.read)

/-- The publishes of `wid` on port n that are not yet released (R141): neither passed nor read, by a reader that has not
ended the port. -/
def Launch.unreleased (l : Launch) (n wid : Nat) : Nat :=
  let q := l.item n (readerOf wid (l.portK n))
  if q.ended then 0 else ((l.item n wid).held.filter fun h => decide (q.read < h.1)).length

/-- The generation of a publish that a read of port n by `wid` returns, where it returns one (R135 rows 2 and 3). -/
def Launch.readGen (l : Launch) (n wid : Nat) : Option Nat :=
  let p := predOf wid (l.portK n)
  let x := l.item n p
  let g := (l.item n wid).pubs + 1
  if !l.isItem p then none else if g ≤ x.pubs then some g else if x.ended && x.pubs != 0 then some x.pubs else none

/-- A publish's number among what the race detection keeps (R266). -/
def pubKey (launch n wid g : Nat) : Nat := (launch * 2 ^ 67 + itemKey n wid) * 2 ^ 64 + g

/-- Drops what no read of the reader of `wid` on port n resolves to any more; all of it where no item reads it (R141,
R142). -/

def Launch.releaseItem (l : Launch) (n wid : Nat) : Launch :=
  let p := l.item n wid
  let qid := readerOf wid (l.portK n)
  let q := l.item n qid
  l.setItem n wid { p with held := p.held.filter fun h => l.isItem qid && !passed p q h.1 }

/-- Ends port n for an item, and releases what it would have read (R137, R138, R142). -/
def Launch.endItem (l : Launch) (n wid : Nat) : Launch :=
  let l := l.setItem n wid { l.item n wid with ended := true }
  (l.releaseItem n (predOf wid (l.portK n))).releaseItem n wid

/-- The identifier of a lane (R115, R206). -/
def Group.wid (g : Group) (lane : Nat) : Dword := SMap.get g.wids lane (g.wid0 + BitVec.ofNat 64 lane)

/-- The launch that holds the port items of a group; none for a continuation or a formed group. -/
def State.launchOf (s : State) (gid : Nat) : Option Nat :=
  (s.wg (s.group gid).wg).launch.map fun id => ((s.launch id).root).getD id

/-- The enabled ports among a list. -/
def Launch.enabled (l : Launch) (ns : List Nat) : List Nat := ns.filter l.portOn

/-- Ends every enabled port of some lanes of a group (R138). -/
def State.endPorts (s : State) (gid : Nat) (lanes : Lanes) (ports : List Nat) : State :=
  match s.launchOf gid with
  | none => s
  | some id =>
    let g := s.group gid
    let l := s.launch id
    s.setLaunch id ((lanesList lanes).foldl
      (fun l lane => (l.enabled ports).foldl (fun l n => l.endItem n (g.wid lane).toNat) l) l)

end Sys2Proof.Machine
end

