-- ==== Sys2Proof/Machine/Ops.lean ====
section
/-! DEFINITION. The shared operations of the meanings: how an instruction ends, taking a trap, returning from one. -/

namespace Sys2Proof.Machine

open Host (Outcome)

/-! ## How an instruction ends other than by its effect -/

inductive Exc where
  /-- it traps, in this state -/
  | trap (t : TrapInfo) (s : State)
  /-- its slot issues nothing for now, in this state -/
  | wait (b : Block) (s : State)

/-- What an instruction's effect answers. -/
abbrev Res := Except Exc State

/-! ## Hardware stores and loads of the trap flow -/

/-- Outcome of hardware memory work at a virtual address. -/
inductive HwErr where
  | bad | miss (cause : Nat) (va : Dword)
deriving DecidableEq, Repr

/-- Stores blocks of 64 bytes (as eight dwords each) from a virtual address on, as stores of the agent `w` (R351). -/
def State.hwStore (s : State) (w : Who) (va : Dword) : List (List Dword) → Except HwErr State
  | [] => .ok s
  | b :: bs =>
    match s.xlate w va .write with
    | (.at l, s') =>
      (s'.putBytes l.key 64 (natOfDwords b) (originOf 1 w.die w.core)).hwStore w (va + 64) bs
    | (.bad, _) => .error .bad
    | (.miss c, _) => .error (.miss c va)

/-- Loads `n` bytes (up to 64, inside one granule) at a virtual address. -/
def State.hwLoad (s : State) (w : Who) (va : Dword) (n : Nat) : Except HwErr (Nat × State) :=
  match s.xlate w va .read with
  | (.at l, s') => .ok (s'.bytesAt l.key n, s')
  | (.bad, _) => .error .bad
  | (.miss c, _) => .error (.miss c va)

/-- The thread of slot k of a group. -/
def State.groupWho (s : State) (gid k : Nat) : Who :=
  let g := s.group gid
  { kind := .thread, pkg := g.pkg, die := g.die, core := g.core, ctx := g.hart.ctx, gid := gid, slot := k }

/-! ## Save records (R349, R365) -/

/-- The save pool of a context: base and number of records; none where the area cannot be read. -/
def State.savePool (s : State) (pkg ctx : Nat) : Option (Dword × Nat) :=
  let area := s.ctxReg pkg ctx 0x57
  if area = 0 then none
  else match s.hwLoad (serviceWho pkg) (area + 0x80) 16 with
    | .ok (v, _) => some (BitVec.ofNat 64 v, v / 2 ^ 64)
    | .error _ => none

/-- The save records that groups of a context hold. -/
def State.recordsHeld (s : State) (pkg ctx : Nat) : List Dword :=
  s.groups.filterMap fun e => if e.2.pkg = pkg ∧ e.2.hart.ctx = ctx then e.2.trap.record else none

/-- The save record of a group: the one it holds, or the first free one of its context's pool. -/
def State.takeRecord (s : State) (gid : Nat) : Option Dword :=
  let g := s.group gid
  match g.trap.record with
  | some r => some r
  | none =>
    match s.savePool g.pkg g.hart.ctx with
    | none => none
    | some (base, n) =>
      let held := s.recordsHeld g.pkg g.hart.ctx
      ((List.range (min n (held.length + 1))).map fun i => base + BitVec.ofNat 64 (65536 * i)).find?
        fun r => !held.contains r

/-! ## The trap frame (R350) -/

/-- The state word of a slot: STATE, PV, PMODE. -/
def slotWord (x : Slot) : Dword :=
  BitVec.ofNat 64 ((match x.st with | .free => 0 | .run => 1 | .wait => 2) * 2 ^ 25
    + (match x.pmode with | none => 0 | some m => 2 ^ 24 + m.toNat))

/-- A slot as a frame describes it: one inside a wave stands at its clause's header, its lanes still pending (R140,
R352). -/
def Slot.framed (x : Slot) : Slot :=
  match x.wave, x.clause with
  | some _, some c => { x with pc := c.hdr, clause := none, wave := none, pmode := x.waveMode }
  | _, _ => x

/-- The six words of a slot in the frame. -/
def slotWords (x : Slot) : List Dword :=
  [x.pc, x.own, x.mask, x.mp, slotWord x, (x.ripple).getD 0]

/-- CAUSE, TSLOT, RESUMED, HWSAVE. -/
def frameHead (cause slot : Nat) (resumed hwsave : Bool) : Dword :=
  BitVec.ofNat 64 (cause + slot * 2 ^ 8 + resumed.toNat * 2 ^ 9 + hwsave.toNat * 2 ^ 10)

/-- Words of a list of pips, 6 bits each. -/
def pipWord (h : Hart) (ns : List Nat) : Nat := (ns.zipIdx).foldl (fun a e => a + h.pip e.1 * 2 ^ (6 * e.2)) 0

/-- Words 0x000 to 0x0F8 of the frame. -/
def frameWords (g : Group) (t : TrapInfo) (hwsave : Bool) : List Dword :=
  let x0 := if t.slot = 0 && t.cause != 16 then { g.slot0.framed with pc := t.resume } else g.slot0.framed
  let x1 := if t.slot = 1 && t.cause != 16 then { g.slot1.framed with pc := t.resume } else g.slot1.framed
  [frameHead t.cause t.slot false hwsave, t.tpc, t.addr, t.det2, t.det3,
   BitVec.ofNat 64 (t.word.toNat + g.hart.md.toNat * 2 ^ 32),
   BitVec.ofNat 64 (pipWord g.hart (List.range 10)), BitVec.ofNat 64 (pipWord g.hart [10, 11]),
   t.done, 0]
  ++ slotWords x0 ++ slotWords x1 ++ [g.exited]
  ++ (List.range 4).map (fun i => SMap.get g.hart.sregs (56 + i) 0) ++ List.replicate 5 0

/-- Pairs of words as dwords. -/
def pairUp : List Word → List Dword
  | a :: b :: l => (b ++ a) :: pairUp l
  | _ => []

/-- The whole frame, V0 to V7 and BP0 to BP2 included. -/
def frameImage (g : Group) (t : TrapInfo) (hwsave : Bool) : List Dword :=
  frameWords g t hwsave
  ++ (List.range 8).flatMap (fun j => pairUp (g.regs.value j))
  ++ (List.range 3).flatMap (fun e => pairUp (g.regs.bypass e))

/-- Blocks of eight. -/
def blocks8 : Nat → List Dword → List (List Dword)
  | 0, _ => []
  | n + 1, l => l.take 8 :: blocks8 n (l.drop 8)

/-- The live lanes (R351): work items not in EXITED. -/
def Group.live (g : Group) : Lanes := g.items &&& ~~~ g.exited

/-! ## Parking (R219) -/

/-- A word of a group meets a missing page before it has done anything: the group parks until the reply, and the word
is issued again (R219, R221). -/
def State.parkReissue (s : State) (gid slot : Nat) (va : Dword) (k : AccKind) (cause : Nat) : State :=
  let g := s.group gid
  let s := s.openFault
    { gid := some gid, slot := slot, pkg := g.pkg, die := g.die, core := g.core, ctx := g.hart.ctx, va := va,
      kind := k, cause := cause, held := .reissue s.word }
  let g := s.group gid
  s.setGroup gid { g with parked := g.parked + 1 }

/-- The hardware's own access to the save record of a group meets a missing page: the group parks until the reply, and
the entry, save or relaunch is made again (R348). -/
def State.parkRecord (s : State) (gid slot : Nat) (va : Dword) (k : AccKind) (cause : Nat) : State :=
  let g := s.group gid
  let s := s.openFault
    { gid := some gid, slot := slot, pkg := g.pkg, die := g.die, core := g.core, ctx := g.hart.ctx, va := va,
      kind := k, cause := cause, held := .record }
  let g := s.group gid
  s.setGroup gid { g with parked := g.parked + 1 }

/-- A group has n parked accesses less; with the last of them resolved its slots stand at a boundary (R219, R347). -/
def State.unpark (s : State) (gid n : Nat) : State :=
  if n = 0 then s
  else
    let g := s.group gid
    let back (x : Slot) : Slot := if g.parked ≤ n && x.st != .free then { x with atReturn := true } else x
    s.setGroup gid { g with parked := g.parked - n, slot0 := back g.slot0, slot1 := back g.slot1 }

/-- A word that its meaning has parked is an operation counted on a pip: the pip stays counted until the replay (R28). -/
def State.countParked (s : State) (pip : Option Nat) : State :=
  match pip with
  | none => s
  | some p => match s.faults.reverse with
    | [] => s
    | e :: es => { s with faults := (({ e with pip := some p } : FaultEntry) :: es).reverse }.pipUp s.cur p

/-- The entry of a word that is issued again, or not: its pip counts down (R28). -/
def State.uncount (s : State) (e : FaultEntry) : State :=
  match e.pip, e.gid with
  | some p, some gid => s.pipDown (.slot gid e.slot) p
  | _, _ => s

/-! ## Taking a trap -/

/-- The group stops where it stands and a record is to be posted (R348, R354). -/
def State.setEscalated (s : State) (gid reason second : Nat) (frame : Dword) : State :=
  let g := s.group gid
  s.setGroup gid { g with trap := { g.trap with
    escalated := some { reason := reason, second := second, frame := frame } } }

/-- The same at a trap, which is traced (R376). -/
def State.escalate (s : State) (gid reason second : Nat) (frame : Dword) : State :=
  let g := s.group gid
  let t := (g.trap.pending).getD { cause := bits (SMap.get g.hart.trap 0x40 0) 7 0, tpc := SMap.get g.hart.trap 0x41 0, resume := 0,
                                   addr := SMap.get g.hart.trap 0x44 0 }
  (s.setEscalated gid reason second frame).traceTrap gid t.slot t.cause t.tpc t.addr

/-- An escalation is over. -/
def State.unescalate (s : State) (gid : Nat) : State :=
  let g := s.group gid
  s.setGroup gid { g with trap := { g.trap with escalated := none } }

/-- A group is not escalated, or waits for a save record and one is free now (R348: it retries). -/
def State.escalationOver (s : State) (gid : Nat) : Bool :=
  match (s.group gid).trap.escalated with
  | none => true
  | some x => x.reason == 3 && x.frame == 0 && (s.takeRecord gid).isSome

/-- The values of 0x0040 to 0x0047 of a group after a trap entry (R346). -/
def trapRegs (t : TrapInfo) (head frame : Dword) : SMap Dword :=
  [(0x40, head), (0x41, t.tpc), (0x42, frame), (0x43, t.done), (0x44, t.addr), (0x45, t.det2), (0x46, t.det3),
   (0x47, t.word.setWidth 64)]

/-- A code address: its bits 1:0 are zero, whatever software wrote (R50). -/
def codeAddr (a : Dword) : Dword := a &&& ~~~ 3

/-- A group in a handler (R351 steps 2 and 3). -/
def enterHandler (g : Group) (entry : Dword) : Group :=
  { g with
    hart := { g.hart with handler := true, md := 0xA5 }
    trap := { g.trap with entryDs := SMap.get g.hart.sregs 60 0 }
    slot0 := { st := .run, pc := codeAddr entry, own := g.live, mask := g.live }
    slot1 := {} }

/-- The slots as they stand at a trap, the trapping one at an instruction that may be done in part (R140, R188, R250,
R352). -/
def slotsStood (g : Group) (t : TrapInfo) : SMap Slot :=
  [0, 1].map fun k =>
    let x := g.slot k
    (k, if k = t.slot && t.done != 0 && t.cause != 16 then { x with named := some t.name } else x)

/-- After the frame is written: the handler or the escalation that R348's table gives. -/
def State.afterFrame (s : State) (gid : Nat) (t : TrapInfo) (frame : Dword) : State :=
  let g := s.group gid
  let g := { g with
    hart := { g.hart with trap := trapRegs t (frameHead t.cause t.slot false false) frame }
    trap := { g.trap with pending := none, record := some frame, stood := slotsStood g t } }
  let s' := s.setGroup gid g
  let enter (g : Group) (entry : Dword) : State :=
    (s.setGroup gid (enterHandler g entry)).traceTrap gid t.slot t.cause t.tpc t.addr
  if t.cause = 17 then s'.escalate gid 2 0 frame
  else if t.cause = 16 then
    enter { g with
      trap := { g.trap with phase := .save, enteredAt := s.cycle, request := false } } g.trap.preempth
  else if g.trap.traph = 0 then s'.escalate gid 0 0 frame
  else enter g g.trap.traph

/-- A write to a register that the frame spills is pending, or an atomic of a replay waits for its rank: the spill waits
for it (R50, R351, R379). A load that has met poison will write nothing (R224). -/
def State.spillBusy (s : State) (gid : Nat) : Bool :=
  s.ops.any fun e => sameHart e.2.agent (.slot gid 0) && !e.2.due
    && (e.2.pendV.any (fun r => decide (r < 8)) || e.2.pendS.any (fun r => decide (56 ≤ r) && decide (r ≤ 59))
      || e.2.reqs.any (fun r => r.order.isSome))

/-- A group takes its pending trap, on a partition that is not stopped (R347, R348, R351, R370). -/
def State.trapEntry (s : State) (gid : Nat) : State :=
  let g := s.group gid
  match g.trap.pending with
  | none => s
  | some t =>
    if s.isStopped (.slot gid 0) then s
    else if g.hart.handler then
      (s.setGroup gid { g with trap := { g.trap with pending := none } }).escalate gid 1 t.cause ((g.trap.record).getD 0)
    else if s.spillBusy gid then s
    else match s.takeRecord gid with
      | none => s.escalate gid 3 0 0
      | some r =>
        let s0 := s.setGroup gid { g with trap := { g.trap with record := some r } }
        match s0.hwStore (s.groupWho gid t.slot) r (blocks8 48 (frameImage g t false)) with
        | .ok s' => s'.afterFrame gid t r
        | .error .bad => s0.escalate gid 3 0 r
        | .error (.miss c va) => s0.parkRecord gid t.slot va .write c

/-- A system-class core takes a trap (R364): nothing is spilled; in handler mode, or with SYSVEC zero, it halts. -/
def State.sysTrap (s : State) (a : Agent) (t : TrapInfo) : State :=
  match a with
  | .slot _ _ => s
  | .sys p d c =>
    let k := s.core p d c
    let h := k.hart
    let sysvec := SMap.get h.trap 0x49 0
    if h.handler || sysvec = 0 then s.setCore p d c { k with halted := true }
    else
      let pm := match k.slot.pmode with | none => 0 | some m => BitVec.ofNat 64 (2 ^ 24 + m.toNat)
      s.setCore p d c { k with
        hart := { h with
          handler := true
          trap := [(0x40, BitVec.ofNat 64 t.cause), (0x41, t.resume), (0x44, t.addr), (0x45, t.det2), (0x46, t.det3),
            (0x47, t.word.setWidth 64), (0x48, pm), (0x49, sysvec)] }
        slot := { k.slot with pc := codeAddr sysvec, clause := none, pmode := none, block := none, passed := false }
        trapClause := k.slot.clause.filter fun c => decide (c.hdr < t.resume) && decide (t.resume < c.next) }

/-- A fault of a word that had issued while another trap of its group waited: the fault is discarded, the word counts as
not executed, and its slot stands at it, with the lanes it has done (R347, R360). -/
def Group.discarded (g : Group) (k : Nat) (first t : TrapInfo) : Group :=
  let x := g.slot k
  { g with trap := { g.trap with pending := some { first with done := first.done ||| t.done } } }.setSlot k
    { x with block := none, done := x.done ||| t.done, named := if t.done = 0 then x.named else some t.name }

/-- Taking a trap: the agent's group records it, DONEMASK with the lanes that the other slot's instruction has done
(R360), and enters its handler at once, or the core enters SYSVEC. Inside a wave of a ripple clause the trap is only
recorded: it enters where the wave began (R140). -/
def State.takeTrap (s : State) (a : Agent) (t : TrapInfo) : State :=
  match a with
  | .sys _ _ _ => s.sysTrap a t
  | .slot gid k =>
    let g := s.group gid
    let x := g.slot k
    match g.trap.pending with
    | some first => s.setGroup gid (g.discarded k first t)
    | none =>
      let t := { t with done := t.done ||| (g.slot (1 - k)).done }
      let s1 := (s.setGroup gid { g.idled s.cycle with trap := { g.trap with pending := some t } }).setSlot (.slot gid k)
        { x with block := if t.cause = 16 then x.block else none }
      if x.wave.isSome then s1 else s1.trapEntry gid

/-! ## Ending lanes -/

/-- Ends lanes of a group as `exit` does (R125, R138): they leave both slots and their ports end. -/
def State.endLanes (s : State) (gid : Nat) (lanes : Lanes) : State :=
  let g := s.group gid
  let drop (x : Slot) : Slot := { x with own := x.own &&& ~~~ lanes, mask := x.mask &&& ~~~ lanes }
  (s.setGroup gid { g with exited := g.exited ||| lanes, slot0 := drop g.slot0, slot1 := drop g.slot1 }).endPorts
    gid lanes (List.range 8)

/-! ## Returning from a trap (R352) -/

/-- Word i of a frame's first 32 words. -/
def frameWord (img : Nat) (i : Nat) : Dword := BitVec.ofNat 64 (img / 2 ^ (64 * i))

/-- A slot as six words of a frame describe it; `x` is the slot as it stood at the trap. DESIGN CHOICE (log 90): a slot
whose wave had published in part, and which the frame leaves at its clause's header with its pending set, goes on in that
wave where it stood. -/
def slotOfWords (img i : Nat) (x : Slot) (exited done : Lanes) : Slot :=
  let w (j : Nat) := frameWord img (i + j)
  let st := bits (w 4) 26 25
  if st = 0 then {}
  else
    let pc := w 0
    let rip := w 5 &&& ~~~ exited
    let y : Slot :=
      { st := if st = 1 then .run else .wait
        pc := pc
        own := w 1 &&& ~~~ exited
        mask := w 2 &&& ~~~ exited
        mp := w 3
        pmode := if bitAt (w 4) 24 then some ((w 4).setWidth 24) else none
        ripple := if w 5 = 0 then none else some rip
        done := done &&& w 1
        clause := if w 5 = 0 then x.clause.filter fun c => decide (c.hdr < pc) && decide (pc < c.next) else none
        passed := true
        atReturn := true
        named := if x.pc = pc then x.named else none
        closed := if x.pc = pc then x.closed else (0, 0) }
    if x.wave.isSome && x.framed.pc == pc && x.ripple == some (w 5) then
      { y with pc := x.pc, clause := x.clause, wave := x.wave.map (· &&& ~~~ exited), waves := x.waves,
               waveMode := y.pmode, pmode := x.pmode }
    else y

/-- The frame's fixed part is valid (R352), but for the ripple clause check. -/
def frameValid (img : Nat) : Bool :=
  let w := frameWord img
  let slotOk (i : Nat) : Bool :=
    bits (w i) 1 0 == 0 && (w (i + 2) &&& ~~~ w (i + 1)) == 0 && bits (w (i + 4)) 63 27 == 0
      && bits (w (i + 4)) 26 25 != 3 && (!bitAt (w (i + 4)) 24 || modeOk ((w (i + 4)).setWidth 24))
      && (w (i + 5) &&& ~~~ w (i + 2)) == 0
  bits (w 0) 63 11 == 0 && bits (w 5) 63 56 == 0 && bits (w 6) 63 60 == 0 && bits (w 7) 63 12 == 0 && w 9 == 0
    && (List.range 5).all (fun i => w (27 + i) == 0)
    && modeOk (BitVec.ofNat 24 (bits (w 5) 55 32)) && (w 11 &&& w 17) == 0 && slotOk 10 && slotOk 16

/-- Reads blocks of 64 bytes from a virtual address on, as one number. -/
def State.hwLoadBlocks (s : State) (w : Who) (va : Dword) : Nat → Except HwErr Nat
  | 0 => .ok 0
  | n + 1 =>
    match s.hwLoad w va 64 with
    | .ok (v, _) =>
      match s.hwLoadBlocks w (va + 64) n with
      | .ok r => .ok (v + 2 ^ 512 * r)
      | .error e => .error e
    | .error e => .error e

/-- The 64 words of a register in a record image, from a byte offset. -/
def imageVec (img off : Nat) : List Word := (List.range 64).map fun l => BitVec.ofNat 32 (img / 2 ^ (8 * (off + 4 * l)))

/-- A register is written whole; poison that nothing has read is lost (R361). -/
def Vregs.load (r : Vregs) (reg : Nat) (l : List Word) : Vregs :=
  { r with v := SMap.put r.v reg l }.clear reg (BitVec.allOnes 64)

/-- v0 to v7, bp0 to bp2, s56 to s59 and md from a frame image of 0xC00 bytes. -/
def frameRegs (g : Group) (img : Nat) : Group :=
  { g with
    hart := { g.hart with
      md := BitVec.ofNat 24 (bits (frameWord img 5) 55 32)
      sregs := (List.range 4).foldl (fun m i => SMap.put m (56 + i) (frameWord img (23 + i))) g.hart.sregs }
    regs := { (List.range 8).foldl (fun (r : Vregs) j => r.load j (imageVec img (0x100 + 256 * j))) g.regs with
      bp := (List.range 3).map fun e => (e, imageVec img (0x900 + 256 * e))
      bpHigh := [] } }

/-- The group resumes from a frame image as `tret` does (R352). -/
def State.resumeFrame (s : State) (gid : Nat) (img : Nat) : State :=
  let s := (s.setGroup gid (frameRegs (s.group gid) img)).postLost gid
  let w := frameWord img
  let g := s.group gid
  let s := s.endLanes gid (g.live &&& ~~~ (w 11 ||| w 17))
  let g := s.group gid
  let x (k : Nat) : Slot := SMap.get g.trap.stood k {}
  s.setGroup gid { g with
    slot0 := slotOfWords img 10 (x 0) g.exited (w 8)
    slot1 := slotOfWords img 16 (x 1) g.exited (w 8)
    hart := { g.hart with handler := false, trap := SMap.put g.hart.trap 0x43 (w 8) }
    trap := { g.trap with phase := .none, hwsave := false, stood := [] } }

/-- Word 0x000 of a record with RESUMED and HWSAVE cleared (R352). -/
def State.clearResumed (s : State) (gid : Nat) (head : Dword) : State :=
  let g := s.group gid
  match g.trap.record with
  | none => s
  | some r =>
    match s.xlate (s.groupWho gid 0) r .write with
    | (.at l, s') => s'.putBytes l.key 8 (head.toNat % 2 ^ 9) (originOf 1 g.die g.core)
    | _ => s

/-! ## The ends of an instruction -/

/-- A slot that cannot go on blocks; the time counts from its first try (R158). -/
def State.blockSlot (s : State) (b : Block) : State :=
  let x := s.slot s.cur
  s.setSlot s.cur { x with block := some b, since := if x.block = some b then x.since else s.cycle }

/-- The outcome of an instruction's effect: a next state, also where it traps or waits. -/
def finish : Res → Outcome State Fault Refusal
  | .ok s => .next s
  | .error (.trap t s) => .next (s.takeTrap s.cur t)
  | .error (.wait b s) => .next (s.blockSlot b)

/-- A precise trap of the issuing word, with nothing changed (R345). -/
def State.trapAt (s : State) (cause : Nat) (addr : Dword := 0) (det2 : Dword := 0) (det3 : Dword := 0)
    (done : Lanes := 0) : Exc :=
  let x := s.slot s.cur
  .trap { cause := cause, tpc := x.pc, resume := x.pc, addr := addr, det2 := det2, det3 := det3, word := s.word,
          slot := slotNo s.cur, done := x.done ||| done, name := s.instName } s

/-- An illegal-instruction trap. -/
def State.illegal (s : State) : Exc := s.trapAt 1

/-- The wait of an operation counted on a pip, parked before it has done anything (R28). -/
def Exc.counted (pip : Option Nat) : Exc → Exc
  | .wait .parked s => .wait .parked (s.countParked pip)
  | e => e

/-- An operation that a pip counts also while it is parked (R28). -/
def counting (pip : Option Nat) (x : Res) : Res := x.mapError (Exc.counted pip)

/-- Continues when a condition holds. -/
def guardRes (c : Bool) (e : Exc) : Except Exc Unit := if c then .ok () else .error e

/-! ## Interlocks (R28, R50) -/

/-- The operation in flight, if any, that has a write pending to one of these registers of the issuing scalar side. -/
def State.pendingOn (s : State) (ss vs : List Nat) : Option Nat :=
  (s.ops.find? fun e => sameHart e.2.agent s.cur
    && (e.2.pendS.any (fun r => ss.contains r) || e.2.pendV.any (fun r => vs.contains r))).map Prod.fst

/-- An instruction that names registers with a write pending waits for the write (R50). -/
def State.need (s : State) (ss : List (BitVec 8)) (vs : List Nat := []) : Except Exc Unit :=
  match s.pendingOn (ss.map BitVec.toNat) vs with
  | some n => .error (.wait (.op n) s)
  | none => .ok ()

/-- A pip that holds 63 lets no further operation issue (R28). -/
def State.needPip (s : State) (pip : Option Nat) : Except Exc Unit :=
  match pip with
  | none => .ok ()
  | some n => if (s.hart s.cur).pip n < 63 then .ok () else .error (.wait (.unit (1000 + n)) s)

/-- A fresh number. -/
def State.fresh (s : State) : Nat × State := (s.nextId, { s with nextId := s.nextId + 1 })

/-- An operation goes into flight, counted by its pip (R28). -/
def State.launchOp (s : State) (o : Op) : State :=
  let (n, s) := s.fresh
  let s := { s with ops := SMap.put s.ops n o }
  match o.pip with
  | none => s
  | some p => s.pipUp o.agent p

/-- The operation record of the issuing word. -/
def State.opHere (s : State) (pip : Option Nat) (kind : OpKind) : Op :=
  { agent := s.cur, pip := pip, pc := (s.slot s.cur).pc, word := s.word, clause := (s.slot s.cur).clause,
    inst := (s.hart s.cur).retired, name := s.instName, kind := kind, pmode := (s.slot s.cur).pmode,
    before := (s.slot s.cur).done, at_ := s.cycle, sent := s.cycle }

end Sys2Proof.Machine
end

