-- ==== Sys2Proof/Machine/Tiles.lean ====
section
/-! DEFINITION. Tile stamp records: opening, closing, and writing them to the stamp ring (R288 to R291). -/

namespace Sys2Proof.Machine

open Host (Outcome)

def State.tile (s : State) (n : Nat) : Tile :=
  SMap.get s.tiles n { gid := 0, pkg := 0, die := 0, core := 0, ctx := 0, tile := 0, t0 := 0 }
def State.setTile (s : State) (n : Nat) (t : Tile) : State := { s with tiles := SMap.put s.tiles n t }

/-- The closed records of a core that are pending: their attributed work is not complete. -/
def State.pendingTiles (s : State) (pkg die core : Nat) : Nat :=
  (s.tiles.filter fun e =>
    e.2.pkg == pkg && e.2.die == die && e.2.core == core && e.2.seq.isSome && !e.2.work.isEmpty).length

/-- `tilebeg` (R290). -/
def execTilebeg (d a : BitVec 8) (s : State) : Outcome State Fault Refusal :=
  finish do
    s.need [d, a]
    match s.cur with
    | .sys _ _ _ => .error s.illegal
    | .slot gid _ =>
      let g := s.group gid
      if g.tile.isSome then .ok ((s.writeS d 1).retire)
      else
        guardRes (decide (s.pendingTiles g.pkg g.die g.core < 64)) (.wait (.unit 3000) s)
        let (n, s1) := s.fresh
        let t : Tile := { gid := gid, pkg := g.pkg, die := g.die, core := g.core, ctx := g.hart.ctx,
                          tile := (s.readS a).setWidth 32, t0 := s.cycle }
        .ok ((((s1.setTile n t).setGroup gid { g with tile := some n }).writeS d 0).retire)

/-- NEXTSEQ of the stamp ring's header follows the context's count, where the header can be written (R291). -/
def State.writeNextSeq (s : State) (core pkg ctx : Nat) : State :=
  match s.ringHeader { pkg := pkg, ctx := ctx, stamp := true, writer := core * 4, words := [] } with
  | none => s
  | some (h, s1) => s1.putBytes (h + 0x28) 8 (s1.ctx pkg ctx).stampSeq (ringOrigin core)

/-- Closes the open tile of a group, as `tileend` does: its SEQ, if one is open (R290). -/
def State.closeTile (s : State) (gid : Nat) : Option Nat × State :=
  let g := s.group gid
  match g.tile with
  | none => (none, s)
  | some n =>
    let t := s.tile n
    let c := s.ctx t.pkg t.ctx
    let s1 := (s.setTile n { t with seq := some c.stampSeq, closedAt := s.cycle }).setGroup gid { g with tile := none }
    (some c.stampSeq,
      (s1.setCtx t.pkg t.ctx { c with stampSeq := c.stampSeq + 1 }).writeNextSeq (coreKey t.pkg t.die t.core) t.pkg t.ctx)

/-- `tileend` (R290). -/
def execTileend (d : BitVec 8) (s : State) : Outcome State Fault Refusal :=
  finish do
    s.need [d]
    match s.cur with
    | .sys _ _ _ => .error s.illegal
    | .slot gid _ =>
      match s.closeTile gid with
      | (none, s1) => .ok ((s1.writeS d 0xFFFFFFFFFFFFFFFF).retire)
      | (some n, s1) => .ok ((s1.writeS d (BitVec.ofNat 64 n)).retire)

/-! ## Writing (R291) -/

/-- A stage as a delta after T0 (R288). -/
def Tile.delta (t : Tile) (stage : Nat) : Nat :=
  match SMap.find t.stages stage with
  | none => 0xFFFFFFFF
  | some c => min (c - t.t0) 0xFFFFFFFE

/-- The stamp record of a tile (R288); its core-cycle counts saturate at 2^32 − 1. -/
def Tile.record (t : Tile) (onAt : Nat) : List Dword :=
  let two (hi lo : Nat) : Dword := BitVec.ofNat 64 (hi * 2 ^ 32 + lo)
  let sat (n : Nat) : Nat := min n (2 ^ 32 - 1)
  [BitVec.ofNat 64 (t.t0 - onAt), two (t.delta 2) (t.delta 1), two (t.delta 4) (t.delta 3), two (t.delta 6) (t.delta 5),
   two (sat t.fillw) (t.delta 7), two (sat t.outw) (sat t.arrayw),
   BitVec.ofNat 64 (t.die % 8 * 2 ^ 54 + t.core / 2 % 64 * 2 ^ 48 + t.tile.toNat), BitVec.ofNat 64 (t.seq.getD 0)]

/-- A record is closed and its attributed work complete. -/
def Tile.complete (t : Tile) : Bool := t.seq.isSome && t.work.isEmpty

/-- The cycle at which it became complete. -/
def Tile.completeAt (t : Tile) : Nat := t.stages.foldl (fun m e => max m e.2) t.closedAt

/-- STAMP_RECORD_WRITE: of the complete records of a context, on whatever cores, the one that completed first is written to
its stamp ring. -/
def execStampRecordWrite (n : Nat) (s : State) : Outcome State Fault Refusal :=
  match SMap.find s.tiles n with
  | none => .next s
  | some t =>
    let earlier (e : Nat × Tile) : Bool := e.2.pkg == t.pkg && e.2.ctx == t.ctx && e.2.complete
      && (decide (e.2.completeAt < t.completeAt) || (e.2.completeAt == t.completeAt && decide (e.1 < n)))
    if !t.complete || s.tiles.any earlier then .next s
    else
      .next (({ s with tiles := SMap.erase s.tiles n }).record
        { pkg := t.pkg, ctx := t.ctx, stamp := true, writer := coreKey t.pkg t.die t.core * 4,
          words := t.record (s.pkg t.pkg).onAt })

end Sys2Proof.Machine
end

