-- ==== Sys2Proof/Machine/Diverge.lean ====
section
/-! DEFINITION. The divergence area and the slot table of R121, checked after every event in a group. -/

namespace Sys2Proof.Machine

/-- An entry of the divergence area (R120). -/
structure DivEntry where
  pc : Dword
  own : Lanes
  mask : Lanes
  /-- bits 63:2 are MP, bits 1:0 KIND -/
  mpKind : Dword
  pmode : Dword
deriving DecidableEq, Repr

/-- KIND: 0 PARK, 1 JOIN (R120). -/
def DivEntry.kind (e : DivEntry) : Nat := e.mpKind.toNat % 4
def DivEntry.mp (e : DivEntry) : Dword := e.mpKind &&& ~~~ 3
def DivEntry.pm (e : DivEntry) : Option ModeWord := if bitAt e.pmode 24 then some (e.pmode.setWidth 24) else none

/-- `ds` (s60) of a group. -/
def Group.ds (g : Group) : Dword := SMap.get g.hart.sregs 60 0
def Group.setDs (g : Group) (v : Dword) : Group :=
  { g with hart := { g.hart with sregs := SMap.put g.hart.sregs 60 v } }

/-- The area is intact where an entry is read (R121): DSLO ≤ ds < DSHI, ds mod 64 = 0. -/
def Group.dsOk (g : Group) : Bool :=
  decide (g.dslo.toNat ≤ g.ds.toNat) && decide (g.ds.toNat < g.dshi.toNat) && g.ds.toNat % 64 == 0

/-- Where an address of the divergence area lies: in the group's own slice. -/
def State.areaLoc (s : State) (gid : Nat) (va : Dword) : Option Loc :=
  let g := s.group gid
  (s.coreSlice g.pkg g.die g.core (va.toNat % 2 ^ 20)).map fun k =>
    { key := k, addr := g.pkg * 2 ^ 30 + g.die * 2 ^ 27 + g.core * 2 ^ 20 + va.toNat % 2 ^ 20
      race := ((SMap.find s.units ((k - sliceBase) / 1024)).map UnitTag.race).getD false }

/-- A group's hardware as it accesses the area for an instruction of slot k. -/
def State.areaWho (s : State) (gid k : Nat) : Who := { s.groupWho gid 8 with pc := ((s.group gid).slot k).pc, inst := s.cycle }

/-- Why the top entry cannot be read: cause, fault address, detail words. -/
abbrev AreaFault := Nat × Dword × Dword × Dword

/-- The top entry as slot k's instruction reads it: the checks of R121, the carry check and race detection (R55, R119).
DESIGN CHOICE (log 22): a poisoned or racing entry faults where a damaged area does, with cause 11 or 7. -/
def State.topEntry (s : State) (gid k : Nat) : Except AreaFault (DivEntry × State) :=
  let g := s.group gid
  match s.areaLoc gid g.ds with
  | none => .error (13, g.ds, 0, 0)
  | some l =>
    let w (i : Nat) := BitVec.ofNat 64 (s.bytesAt (l.key + 8 * i) 8)
    let e : DivEntry := { pc := w 0, own := w 1, mask := w 2, mpKind := w 3, pmode := w 4 }
    if !g.dsOk then .error (13, g.ds, 0, 0)
    else match s.groupAccess (s.areaWho gid k) l 64 0 with
      | .error x => .error (7, g.ds, x.det2, x.det3)
      | .ok s1 =>
        if s.poisoned l.key 64 then .error (11, g.ds, s.integrityDetail l, 0)
        else if e.kind < 2 then .ok (e, s1) else .error (13, g.ds, 0, 0)

/-- Pushes an entry by slot k: ds := ds − 64, then the entry at ds (R119, R120); or the race it meets. -/
def State.pushEntry (s : State) (gid k : Nat) (e : DivEntry) : Except AreaFault State :=
  let g := s.group gid
  let ds := g.ds - 64
  match s.areaLoc gid ds with
  | none => .error (13, g.ds, 0, 0)
  | some l =>
    match s.groupAccess (s.areaWho gid k) l 64 1 with
    | .error x => .error (7, ds, x.det2, x.det3)
    | .ok s1 =>
      .ok ((s1.setGroup gid ((s1.group gid).setDs ds)).putBytes l.key 64
        (natOfDwords [e.pc, e.own, e.mask, e.mpKind, e.pmode, 0, 0, 0]) (originOf 1 g.die g.core))

/-- Pops: ds := ds + 64; the entry's parked clause leaves with it. -/
def State.popEntry (s : State) (gid : Nat) : State :=
  let g := s.group gid
  s.setGroup gid { g.setDs (g.ds + 64) with trap := { g.trap with parked := SMap.erase g.trap.parked g.ds.toNat } }

/-- The PARK entry of a slot (R120). -/
def parkEntry (x : Slot) : DivEntry :=
  { pc := x.pc, own := x.own, mask := x.mask, mpKind := x.mp &&& ~~~ 3,
    pmode := BitVec.ofNat 64 (match x.pmode with | none => 0 | some m => 2 ^ 24 + m.toNat) }

/-- Slot k parks the other slot on the area, as it stands at its next-word boundary: its clause, the lanes its next word
has done, its pending set and its wave are kept beside (R122). -/
def State.parkSlot (s : State) (gid k : Nat) (x : Slot) : Except AreaFault State := do
  let s ← s.pushEntry gid k (parkEntry x.framed)
  let g := s.group gid
  .ok (s.setGroup gid { g with trap := { g.trap with parked := SMap.put g.trap.parked g.ds.toNat x } })

/-- What the rows of R121 call for. -/
inductive Exam where
  | nothing
  | next (s : State)
  /-- the top entry cannot be read -/
  | damaged (f : AreaFault)
  /-- row 5: the fault is at the `bmerge` of this slot -/
  | stuck (k : Nat)

/-- The slot that a PARK entry becomes (R121 row 1), at a code address (R50). -/
def unparked (g : Group) (e : DivEntry) : Slot :=
  let x := SMap.get g.trap.parked g.ds.toNat {}
  let pc := codeAddr e.pc
  let same := x.st != .free && x.framed.pc == pc
  let y : Slot :=
    { st := .run, pc := pc, own := e.own &&& ~~~ g.exited, mask := e.mask &&& ~~~ g.exited, mp := e.mp, pmode := e.pm,
      clause := x.clause.filter fun c => decide (c.hdr < pc) && decide (pc < c.next)
      ripple := if same then x.ripple.map (· &&& ~~~ g.exited) else none
      done := if same then x.done else 0
      named := if same then x.named else none
      deal := if same then x.deal else none
      closed := if same then x.closed else (0, 0) }
  if same && x.wave.isSome then
    { y with pc := x.pc, clause := x.clause, wave := x.wave.map (· &&& ~~~ g.exited), waves := x.waves,
             waveMode := y.pmode, pmode := x.pmode }
  else y

/-- The slot that a combine leaves running (R121 row 2): after W's `bmerge`, at which a waiting slot's PC stands. -/
def combined (g : Group) (w : Slot) (e : DivEntry) : Slot :=
  let pc := w.pc + 4
  { w with st := .run, own := e.own &&& ~~~ g.exited, mask := e.mask &&& ~~~ g.exited, mp := e.mp, block := none,
           waveMode := none, pc := pc, clause := w.clause.filter fun c => decide (pc ≠ c.next),
           yielded := (w.clause.map fun c => c.yield && decide (pc = c.next)).getD false }

/-- The group is not SAVED and has a slot that is FREE or in WAIT, so a row of R121 may apply. -/
def Group.examinable (g : Group) : Bool := g.life != .saved && (g.slot0.st != .run || g.slot1.st != .run)

/-- The slot that entered WAIT last, of two that wait (R121 row 5). -/
def Group.lastWaiter (g : Group) : Nat := if g.slot1.since < g.slot0.since then 0 else 1

/-- One examination by the rows of R121 in order, charged to slot j. A handler starts with slot 1 FREE: until both slots
are FREE its rows see only the entries pushed since its entry (log 12). DESIGN CHOICE (log 23): with both slots FREE row 1
pops into slot 0. -/
def State.examineOnce (s : State) (gid j : Nat) : Exam :=
  let g := s.group gid
  let x := g.slot0
  let y := g.slot1
  let bothFree := x.st == .free && y.st == .free
  let bothWait := x.st == .wait && y.st == .wait
  let anyFree := x.st == .free || y.st == .free
  let anyWait := x.st == .wait || y.st == .wait
  let hidden := g.hart.handler && !bothFree && decide (g.trap.entryDs.toNat ≤ g.ds.toNat)
  if !g.examinable then .nothing
  else if hidden || g.ds == g.dshi then
    -- the area is empty: rows 4 and 5
    if bothFree then (if g.life = .draining then .nothing else .next ((s.setGroup gid { g with life := .draining }).closeTile gid).2)
    else if bothWait then (if x.mp != y.mp then .stuck g.lastWaiter else .nothing)
    else if anyFree && anyWait then .stuck (if x.st == .wait then 0 else 1)
    else .nothing
  else if bothWait && x.mp != y.mp then .stuck g.lastWaiter
  else if !anyFree && !bothWait then .nothing
  else match s.topEntry gid j with
    | .error f => .damaged f
    | .ok (e, s) =>
      if e.kind = 0 then
        if anyFree then
          -- row 1
          let k := if x.st == .free then 0 else 1
          let n := unparked g e
          let s := s.popEntry gid
          .next (s.setGroup gid ((s.group gid).setSlot k (if n.own = 0 then {} else n)))
        else .nothing
      else if bothFree then .next (s.popEntry gid)
      else if !anyWait then .nothing
      else
        let k := if bothWait then 1 - g.lastWaiter else if x.st == .wait then 0 else 1
        let w := g.slot k
        if e.pc = w.mp then
          let s := s.popEntry gid
          .next (s.setGroup gid (((s.group gid).setSlot k (combined g w e)).setSlot (1 - k) {}))
        else if bothWait then .nothing
        else .stuck k

/-- The examination repeated; at most one pop for each of the 16 entries and the last step to DRAINING. -/
def State.examine (s : State) (gid j : Nat) : Nat → Exam × State
  | 0 => (.nothing, s)
  | n + 1 =>
    match s.examineOnce gid j with
    | .next s' => s'.examine gid j n
    | e => (e, s)

/-- The slot that waits at a `bmerge` of row 5 returns to RUN at it: the `bmerge` counts as not executed (R52, R99). -/
def State.unmerge (s : State) (gid j : Nat) : State :=
  let g := s.group gid
  let x := g.slot j
  ({ g with hart := { g.hart with retired := g.hart.retired - 1 } } |> s.setGroup gid).setSlot (.slot gid j)
    { x with st := .run, block := none, pmode := x.waveMode, waveMode := none }

/-- The rows of R121 after an event whose instruction was at `tpc` with word `word`, by slot `k`. DESIGN CHOICE (log 24):
the fault of row 5 has fault address 0; (log 78) a trap for a damaged area whose slot its exit has made FREE records PC 0. -/
def State.examined (s : State) (a : Agent) (tpc : Dword) (word : Word) : State :=
  match a with
  | .sys _ _ _ => s
  | .slot gid k =>
    match s.examine gid k 20 with
    | (.damaged (cause, addr, det2, det3), s) =>
      s.takeTrap a { cause := cause, tpc := tpc, resume := ((s.group gid).slot k).pc, addr := addr, det2 := det2, det3 := det3,
                     word := word, slot := k }
    | (.stuck j, s) =>
      let pc := ((s.group gid).slot j).pc
      (s.unmerge gid j).takeTrap (.slot gid j) { cause := 13, tpc := pc, resume := pc, word := 0x0A000000, slot := j }
    | (_, s) => s

end Sys2Proof.Machine
end

