-- ==== Sys2Proof/Machine/Control.lean ====
section
/-! DEFINITION. Control: branches, splits and merges, `exit`, `waitc`, the deliberate traps (R58 to R61, R122 to R125,
R353). -/

namespace Sys2Proof.Machine

open Host (Outcome)

def execNop (s : State) : Outcome State Fault Refusal := finish (.ok s.retire)

/-- A branch that is taken or falls to `next` (R58). -/
def State.branchIf (s : State) (c : Bool) (o : BitVec 16) : State :=
  if c then s.jump (s.target o) else s.jump s.nextClause

/-- A conditional branch on one scalar register (R58). -/
def condBranch (d : BitVec 8) (o : BitVec 16) (c : Dword → Bool) (s : State) : Outcome State Fault Refusal :=
  finish do
    s.need [d]
    .ok (s.branchIf (c (s.readS d)) o)

def execBr (o : BitVec 24) (s : State) : Outcome State Fault Refusal := finish (.ok (s.jump (s.target o)))
def execBz (d : BitVec 8) (o : BitVec 16) (s : State) : Outcome State Fault Refusal :=
  condBranch d o (fun v => v == 0) s
def execBnz (d : BitVec 8) (o : BitVec 16) (s : State) : Outcome State Fault Refusal :=
  condBranch d o (fun v => v != 0) s
def execBltz (d : BitVec 8) (o : BitVec 16) (s : State) : Outcome State Fault Refusal :=
  condBranch d o (fun v => v.getLsbD 63) s
def execBgez (d : BitVec 8) (o : BitVec 16) (s : State) : Outcome State Fault Refusal :=
  condBranch d o (fun v => !v.getLsbD 63) s

def execCall (o : BitVec 24) (s : State) : Outcome State Fault Refusal :=
  finish do
    s.need [62]
    .ok ((s.writeS 62 s.nextClause).jump (s.target o))

/-- A target with bits 1:0 not zero is a misalignment fault; nothing changes (R59). -/
def State.jumpTarget (s : State) (a : BitVec 8) : Except Exc Dword :=
  if bits (s.readS a) 1 0 = 0 then .ok (s.readS a) else .error (s.trapAt 5 (s.readS a))

def execJr (a : BitVec 8) (s : State) : Outcome State Fault Refusal :=
  finish do
    s.need [a]
    let t ← s.jumpTarget a
    .ok (s.jump t)

/-- `callr` reads s[a] before it writes s62 (R58). -/
def execCallr (a : BitVec 8) (s : State) : Outcome State Fault Refusal :=
  finish do
    s.need [a, 62]
    let t ← s.jumpTarget a
    .ok ((s.writeS 62 s.nextClause).jump t)

/-- The scalar registers ACTIVE derives from: s63 and the guard (R39, R50). -/
def State.guardRegs (s : State) : List (BitVec 8) :=
  if isSys s.cur then [] else if mdGR s.mode = 0 then [63] else [63, BitVec.ofNat 8 (mdGR s.mode)]

/-- The operation that keeps the other slot of a group from its next-word boundary: its word is in flight, or its fault is
due (R122, R224). -/
def State.otherBusy (s : State) (gid k : Nat) : Option Nat :=
  let y := (s.group gid).slot (1 - k)
  (s.ops.find? fun e => (e.2.agent == .slot gid (1 - k) && e.2.due) || y.block == some (.op e.1)).map Prod.fst

/-- A fault of the area as a precise trap. -/
def State.areaTrap (s : State) (f : AreaFault) : Exc := s.trapAt f.1 f.2.1 f.2.2.1 f.2.2.2

/-- The split of R122 for a group: T the lanes that take the target. -/
def State.split (s : State) (gid k : Nat) (t : Lanes) (tg m : Dword) : Res :=
  let x := s.slot s.cur
  if t = 0 then .ok (s.jump s.nextClause)
  else if x.own &&& ~~~ t = 0 then .ok (s.jump tg)
  else
    let g := s.group gid
    let y := g.slot (1 - k)
    let need := if y.st = .free then 64 else 128
    if g.ds.toNat < g.dslo.toNat + need || g.dshi.toNat < g.ds.toNat || g.ds.toNat % 64 ≠ 0 then
      .error (s.trapAt 13 g.ds)
    else
      let join : DivEntry := { pc := m, own := x.own, mask := x.mask, mpKind := (x.mp &&& ~~~ 3) + 1, pmode := 0 }
      let next := s.nextClause
      match s.otherBusy gid k, if y.st = .free then .ok s else s.parkSlot gid k y with
      | some n, _ => .error (.wait (.op n) s)
      | none, .error f => .error (s.areaTrap f)
      | none, .ok s1 =>
        match s1.pushEntry gid k join with
        | .error f => .error (s.areaTrap f)
        | .ok s2 =>
          let s3 := s2.jump next
          let x := s3.slot s3.cur
          let s4 := s3.setSlot s3.cur { x with own := x.own &&& ~~~ t, mask := x.mask &&& ~~~ t, mp := m }
          .ok (s4.setSlot (.slot gid (1 - k)) { st := .run, pc := tg, own := t, mask := t, mp := m })

/-- `bsplit` with its literal: target offset in bits 31:16, merge offset in bits 15:0 (R122); on a system-class core
bit 0 chooses (R61). -/
def execBsplit (a : BitVec 8) (x : BitVec 32) (s : State) : Outcome State Fault Refusal :=
  let tg := s.target (x.extractLsb' 16 16)
  let m := s.target (x.extractLsb' 0 16)
  finish do
    s.need ([a, 60] ++ s.guardRegs)
    match s.cur with
    | .sys _ _ _ => .ok (s.jump (if bitAt (s.readS a) 0 then tg else s.nextClause))
    | .slot gid k => s.split gid k (s.active &&& s.readS a) tg m

/-- `bmerge` (R123): WAIT at its own header, the PC staying at the `bmerge`; then R121 applies. -/
def execBmerge (s : State) : Outcome State Fault Refusal :=
  match s.cur with
  | .sys _ _ _ => finish (.ok s.retire)
  | .slot _ _ =>
    if (s.slot s.cur).mp = (s.slot s.cur).hdr then
      let pc := (s.slot s.cur).pc
      let s' := s.count
      finish (.ok ((s'.setSlot s.cur { s'.slot s.cur with
        st := .wait, since := s.cycle, waveMode := (s.slot s.cur).pmode }).examined s.cur pc s.word))
    else finish (.ok s.retire)

/-- `bany`: some lane of ACTIVE has its bit set (R124); `ball`: every lane of ACTIVE has. -/
def execBany (d : BitVec 8) (o : BitVec 16) (s : State) : Outcome State Fault Refusal :=
  finish do
    s.need (d :: s.guardRegs)
    .ok (s.branchIf (s.active &&& s.readS d != 0) o)
def execBall (d : BitVec 8) (o : BitVec 16) (s : State) : Outcome State Fault Refusal :=
  finish do
    s.need (d :: s.guardRegs)
    .ok (s.branchIf (s.active &&& ~~~ s.readS d == 0) o)

/-- `exit` (R125, R138); on a system-class core it halts once every pip is zero (R61). -/
def execExit (s : State) : Outcome State Fault Refusal :=
  match s.cur with
  | .sys p d c =>
    if (s.hart s.cur).pipsZero then
      let s' := s.count
      finish (.ok (s'.setCore p d c { s'.core p d c with halted := true }))
    else finish (.error (.wait .drain s))
  | .slot gid k =>
    finish do
      s.need s.guardRegs
      let a := s.active
      let pc := (s.slot s.cur).pc
      let s' := (s.jump s.nextClause).endLanes gid a
      if a != 0 && ((s'.group gid).slot k).own == 0 then
        .ok ((s'.setSlot s.cur {}).examined s.cur pc s.word)
      else .ok s'

/-- `waitc` completes when the pip holds no more than t (R58, R60). -/
def execWaitc (n t : BitVec 8) (s : State) : Outcome State Fault Refusal :=
  if 12 ≤ n.toNat || 64 ≤ t.toNat then finish (.error s.illegal)
  else if (s.hart s.cur).pip n.toNat ≤ t.toNat then finish (.ok s.retire)
  else finish (.error (.wait (.pip n.toNat t.toNat) s))

/-- An operation in flight counts as an access (R410). -/
def Op.isAccess (o : Op) : Bool :=
  match o.kind with
  | .prefetch | .engine => false
  | _ => true

/-- The issuing slot has an access in flight that R410 counts. -/
def State.accessInFlight (s : State) : Bool :=
  s.ops.any fun e => e.2.agent == s.cur && e.2.isAccess

/-- `trap`, `brk`, `svc`: earlier accesses complete, then the trap is taken; TRAPPC names the word (R345, R353). -/
def deliberate (cause : Nat) (resume : Dword) (s : State) : Outcome State Fault Refusal :=
  if s.accessInFlight then finish (.error (.wait .drain s))
  else
    let pc := (s.slot s.cur).pc
    finish (.error (.trap { cause := cause, tpc := pc, resume := resume, addr := if isSys s.cur then pc else 0,
                            word := s.word, slot := slotNo s.cur, done := (s.slot s.cur).done } s))

def execTrap (_n : BitVec 24) (s : State) : Outcome State Fault Refusal := deliberate 15 s.nextClause s
def execSvc (_n : BitVec 24) (s : State) : Outcome State Fault Refusal := deliberate 17 s.nextClause s

end Sys2Proof.Machine
end

