-- ==== Sys2Proof/Machine/Replay.lean ====
section
/-! DEFINITION. Replay logs: what a system-class core or a replay-logged launch records of its inputs, and how a replay
enforces them (R377 to R380). -/

namespace Sys2Proof.Machine

open Host (Outcome)

/-! ## Whose log -/

/-- An agent's log: its ring header, the package and context it lies in, and whether it is replayed. -/
structure Log where
  replay : Bool
  ring : Dword
  pkg : Nat
  ctx : Nat
deriving DecidableEq, Repr

/-- The launch of a group has REPLOG set (R128). -/
def State.repLogged (s : State) (gid : Nat) : Bool :=
  match s.launchOf gid with
  | some id => bitAt ((s.launch id).word 0x48) 22
  | none => false

/-- The log of an agent, where it records or replays. -/
def State.logOf (s : State) (a : Agent) : Option Log :=
  let pick (mode ring : Dword) (pkg ctx : Nat) : Option Log :=
    if bits mode 1 0 = 0 then none else some { replay := bits mode 1 0 == 2, ring := ring, pkg := pkg, ctx := ctx }
  match a with
  | .sys p d c =>
    let k := s.core p d c
    pick (SMap.get k.srs 0x149 0) (SMap.get k.srs 0x148 0) p k.hart.ctx
  | .slot gid _ =>
    let g := s.group gid
    if s.repLogged gid then
      pick (s.ctxReg g.pkg g.hart.ctx 0x14B) (s.ctxReg g.pkg g.hart.ctx 0x14A) g.pkg g.hart.ctx
    else none

/-- AGENT and the third word of an agent's entries, KIND left out (R377). -/
def State.logAgent (s : State) (a : Agent) : Dword × Nat :=
  match a with
  | .sys _ d c => (BitVec.ofNat 64 (d * 256 + c), (s.hart a).ctx % 64 * 2 ^ 54 + 2 ^ 28)
  | .slot gid k =>
    let g := s.group gid
    let lseq := match (s.wg g.wg).launch with | some id => (s.launch id).lseq | none => 0
    (g.wid0, g.hart.ctx % 64 * 2 ^ 54 + lseq % 2 ^ 24 * 2 ^ 30 + k * 2 ^ 29)

/-! ## The ring -/

/-- The header's home; none where it cannot be reached. -/
def State.logHeader (s : State) (l : Log) : Option Nat :=
  match s.xlate (ringWho (coreKey l.pkg 8 0) l.ctx) l.ring .rmw with
  | (.at x, _) => some x.key
  | _ => none

/-- HEAD, TAIL, BASE and capacity at a home. -/
def State.logFields (s : State) (h : Nat) : Dword × Dword × Dword × Nat :=
  let w (i : Nat) := BitVec.ofNat 64 (s.bytesAt (h + 8 * i) 8)
  (w 0, w 1, w 2, 2 ^ bits (w 3) 4 0)

/-- The home of the entry at a position; none where it cannot be written. -/
def State.logSlot (s : State) (l : Log) (base : Dword) (cap pos : Nat) : Option (Nat × State) :=
  match s.xlate (ringWho (coreKey l.pkg 8 0) l.ctx) (base + BitVec.ofNat 64 (64 * (pos % cap))) .write with
  | (.at x, s1) => some (x.key, s1)
  | _ => none

/-- Entries that atomics in flight are still to write under a log: of lanes whose page is missing (R219). -/
def State.logOwed (s : State) (l : Log) : Nat :=
  (s.faults.map fun e => match e.held with
    | .lanes n reqs => (match SMap.find s.ops n with
      | some o => if s.logOf o.agent = some l then reqs.length else 0
      | none => 0)
    | _ => 0).sum

/-- n more entries fit, and can be written: an agent whose ring cannot be reached stalls, as at a full one. DESIGN CHOICE
(log 94): the spec says that a log is never incomplete, and names only the full ring. -/
def State.logRoom (s : State) (l : Log) (n : Nat) : Bool :=
  match s.logHeader l with
  | none => false
  | some h =>
    let (head, tail, base, cap) := s.logFields h
    decide ((tail - head).toNat + n + s.logOwed l ≤ cap)
      && (List.range n).all fun i => (s.logSlot l base cap (tail.toNat + i)).isSome

/-- Appends 64 bytes. -/
def State.logPut (s : State) (l : Log) (bytes : Nat) : State :=
  match s.logHeader l with
  | none => s
  | some h =>
    let (_, tail, base, cap) := s.logFields h
    match s.logSlot l base cap tail.toNat with
    | some (k, s1) => (s1.putBytes k 64 bytes (originOf 1 8 0)).putBytes (h + 8) 8 (tail + 1).toNat (originOf 1 8 0)
    | none => s

/-- The 64 bytes at a position below TAIL. -/
def State.logGet (s : State) (l : Log) (pos : Nat) : Option Nat :=
  match s.logHeader l with
  | none => none
  | some h =>
    let (_, tail, base, cap) := s.logFields h
    if tail.toNat ≤ pos then none
    else match s.xlate (ringWho (coreKey l.pkg 8 0) l.ctx) (base + BitVec.ofNat 64 (64 * (pos % cap))) .read with
      | (.at x, _) => some (s.bytesAt x.key 64)
      | _ => none

/-- An entry of the log (R377). -/
def logEntry (count : Nat) (agent : Dword) (rest kind : Nat) (where_ value : Dword) (order : Nat) : Nat :=
  natOfDwords [BitVec.ofNat 64 count, agent, BitVec.ofNat 64 (rest + kind * 2 ^ 60), where_, value, BitVec.ofNat 64 order, 0, 0]

/-- Word i of an entry. -/
def entryWord (e i : Nat) : Dword := BitVec.ofNat 64 (e / 2 ^ (64 * i))
def entryKind (e : Nat) : Nat := bits (entryWord e 2) 63 60

/-- Records one input of an agent at a count. -/
def State.logInput (s : State) (a : Agent) (l : Log) (count kind : Nat) (where_ value : Dword) (order : Nat) : State :=
  let (agent, rest) := s.logAgent a
  s.logPut l (logEntry count agent rest kind where_ value order)

/-! ## Reading a replay -/

/-- An agent of a replay diverges (R380): it stops; a group's context is suspended. -/
def State.diverge (s : State) (a : Agent) : State :=
  let s1 := s.stopAgent a 4 0
  match a with
  | .sys _ _ _ => s1
  | .slot gid _ =>
    let g := s1.group gid
    let c := s1.ctx g.pkg g.hart.ctx
    let s2 := s1.setCtx g.pkg g.hart.ctx { c with diverged := true, suspending := c.suspending || !c.suspended }
    { s2 with groups := s2.groups.map fun e =>
        if e.2.pkg = g.pkg ∧ e.2.hart.ctx = g.hart.ctx ∧ e.2.life ≠ .saved ∧ e.2.life ≠ .draining
        then (e.1, { e.2 with trap := { e.2.trap with request := true } }) else e }

/-- The agent waits: in its slot, nothing else changed. -/
def divergeExc (s : State) : Exc := .wait (.unit 4001) (s.diverge s.cur)

/-- The entries of a group's slot that are left, in order, with their positions. -/
def State.entriesOf (s : State) (a : Agent) (l : Log) : List (Nat × Nat) :=
  let (agent, rest) := s.logAgent a
  let n := match s.logHeader l with | some h => (s.logFields h).2.1.toNat | none => 0
  (List.range n).filterMap fun pos =>
    if (s.ctx l.pkg l.ctx).rlTaken.contains pos then none
    else match s.logGet l pos with
      | some e => if entryWord e 1 = agent && (entryWord e 2).toNat % 2 ^ 60 == rest && entryKind e != 6
          then some (e, pos) else none
      | none => none

/-- The next entry of an agent and its position: a core's at its place in its ring, a group's the first of its own. -/
def State.nextEntry (s : State) (a : Agent) (l : Log) : Option (Nat × Nat) :=
  match a with
  | .sys p d c => let pos := (s.core p d c).rlPos; (s.logGet l pos).map fun e => (e, pos)
  | .slot _ _ => (s.entriesOf a l).head?

/-- An entry is consumed, with the `extra` positions after it. -/

def State.consume (s : State) (a : Agent) (l : Log) (pos extra : Nat) : State :=
  match a with
  | .sys p d c => s.setCore p d c { s.core p d c with rlPos := pos + 1 + extra }
  | .slot _ _ =>
    let c := s.ctx l.pkg l.ctx
    s.setCtx l.pkg l.ctx { c with rlTaken := pos :: c.rlTaken }

/-- Writes bytes at a virtual address as a port arrival (origin KIND 3), where they translate. -/
def State.arrive (s : State) (pkg ctx : Nat) (va : Dword) : List Byte → State
  | [] => s
  | b :: bs =>
    (match s.xlate (ringWho (coreKey pkg 8 0) ctx) va .write with
     | (.at l, s1) => s1.putBytes l.key 1 b.toNat (originOf 3 0 0)
     | _ => s).arrive pkg ctx (va + 1) bs

/-- Arrivals that stand next in a core's log are written into their buffers (R378). -/
def State.replayArrivals (s : State) (a : Agent) (l : Log) : Nat → State
  | 0 => s
  | fuel + 1 =>
    match s.nextEntry a l with
    | some (e, pos) =>
      if entryKind e = 3 && (entryWord e 0).toNat == (s.hart a).retired then
        let n := (entryWord e 4).toNat
        let rows := (n + 63) / 64
        let bytes := (List.range rows).flatMap fun i => bytesOfNat 64 ((s.logGet l (pos + 1 + i)).getD 0)
        ((s.arrive l.pkg l.ctx (entryWord e 3) (bytes.take n)).consume a l pos rows).replayArrivals a l fuel
      else s
    | none => s

/-- Arrivals not yet logged go into a core's log before the input that observes them. -/
def State.recordArrivals (s : State) (a : Agent) (l : Log) : State :=
  let c := s.ctx l.pkg l.ctx
  let count := (s.hart a).retired
  let s1 := c.arrivals.foldl (fun s x =>
    let rows := (x.2.length + 63) / 64
    (List.range rows).foldl (fun s i => s.logPut l (natOfBytes ((x.2.drop (64 * i)).take 64)))
      (s.logInput a l count 3 x.1 (BitVec.ofNat 64 x.2.length) 0)) s
  s1.setCtx l.pkg l.ctx { s1.ctx l.pkg l.ctx with arrivals := [] }

/-- Positions that the arrivals not yet logged need. -/
def State.arrivalRows (s : State) (l : Log) : Nat :=
  ((s.ctx l.pkg l.ctx).arrivals.map fun x => 1 + (x.2.length + 63) / 64).sum

/-! ## Logged ranges (R367) -/

/-- An address as it names its home: a local-alias address as the window address of its core. -/
def State.homeVa (s : State) (a : Agent) (va : Dword) : Dword :=
  if isAlias va then
    let (p, d, c) := s.placeOf a
    BitVec.ofNat 64 (0xF000 * 2 ^ 40 + p * 2 ^ 30 + d * 2 ^ 27 + c * 2 ^ 20 + va.toNat % 2 ^ 20)
  else va

/-- An address lies in a logged range of a context. -/
def State.logged (s : State) (pkg ctx : Nat) (va : Dword) : Bool :=
  (List.range 16).any fun i =>
    let r := s.ctxReg pkg ctx (0x150 + i)
    bitAt r 15 && decide (r.toNat % 2 ^ 57 / 2 ^ 16 * 2 ^ 16 ≤ va.toNat)
      && decide (va.toNat < r.toNat % 2 ^ 57 / 2 ^ 16 * 2 ^ 16 + 2 ^ bits r 5 0)

/-! ## Inputs (R378) -/

/-- An input of the issuing agent: what is delivered, live or from the log. A full ring stalls the agent. -/
def State.input (s : State) (kind : Nat) (where_ live : Dword) : Except Exc (Dword × State) :=
  match s.logOf s.cur with
  | none => .ok (live, s)
  | some l =>
    let count := (s.hart s.cur).retired
    let arrivals := kind = 1 || kind = 2
    if l.replay then
      let s1 := if arrivals then s.replayArrivals s.cur l 64 else s
      match s1.nextEntry s.cur l with
      | none => .error (divergeExc s1)
      | some (e, pos) =>
        if (entryWord e 0).toNat = count && entryKind e == kind && entryWord e 3 == where_ then
          .ok (entryWord e 4, s1.consume s.cur l pos 0)
        else .error (divergeExc s1)
    else if !s.logRoom l (1 + if arrivals then s.arrivalRows l else 0) then .error (.wait (.unit 4000) s)
    else
      let s1 := if arrivals then s.recordArrivals s.cur l else s
      .ok (live, s1.logInput s.cur l count kind where_ live 0)

/-! ## Steps (R377 to R379) -/

def Ctx.rank (c : Ctx) (va : Dword) : Nat := SMap.get c.ranks va.toNat 0

/-- A step at an address has been applied. -/
def State.stepCount (s : State) (l : Log) (va : Dword) : State :=
  let c := s.ctx l.pkg l.ctx
  s.setCtx l.pkg l.ctx { c with ranks := SMap.put c.ranks va.toNat (c.rank va + 1) }

/-- The issuing agent's steps at an address are logged. -/
def State.stepLogged (s : State) (va : Dword) : Option Log :=
  match s.logOf s.cur with
  | none => none
  | some l => if s.logged l.pkg l.ctx va then some l else none

/-- In replay, the entry of the issuing agent's next step, of a KIND, once its rank is next; otherwise it waits, or
diverges. -/
def State.stepEntry (s : State) (l : Log) (kind : Nat) (va : Dword) : Except Exc (Nat × Nat) :=
  match s.nextEntry s.cur l with
  | none => .error (divergeExc s)
  | some (e, pos) =>
    if (entryWord e 0).toNat = (s.hart s.cur).retired && entryKind e == kind && entryWord e 3 == va then
      if (entryWord e 5).toNat = (s.ctx l.pkg l.ctx).rank va then .ok (e, pos) else .error (.wait (.unit 4002) s)
    else .error (divergeExc s)

/-- What a step has returned for s[d]: the operation it launched, or the register. -/
def stepValue (before after : State) (d : BitVec 8) : Dword :=
  match if before.nextId = after.nextId then none else SMap.find after.ops (after.nextId - 1) with
  | some o => (match o.kind with | .scalar _ v => v | _ => 0)
  | none => ({ after with cur := before.cur }).readS d

/-- Delivers a value in the place of what a step has returned. -/
def stepDeliver (before after : State) (d : BitVec 8) (v : Dword) : State :=
  match if before.nextId = after.nextId then none else SMap.find after.ops (after.nextId - 1) with
  | some o =>
    (match o.kind with
     | .scalar r _ => { after with ops := SMap.put after.ops (after.nextId - 1) { o with kind := .scalar r v } }
     | _ => after)
  | none => after.writeS d v

/-- Performs a step of the issuing agent under a log. -/
def State.stepWith (s : State) (l : Log) (va : Dword) (d : BitVec 8) (k : State → Res) : Res :=
  let count := (s.hart s.cur).retired
  if l.replay then do
    let (e, pos) ← s.stepEntry l 4 va
    let s1 ← k s
    let s2 := (s1.consume s.cur l pos 0).stepCount l va
    .ok (if isSys s.cur then stepDeliver s s2 d (entryWord e 4) else s2)
  else do
    guardRes (s.logRoom l 1) (.wait (.unit 4000) s)
    let s1 ← k s
    .ok ((s1.logInput s.cur l count 4 va (stepValue s s1 d) ((s1.ctx l.pkg l.ctx).rank va)).stepCount l va)

/-- Performs an atomic step of the issuing agent at an address: logged where its log covers the address. -/
def State.atomicStep (s : State) (va : Dword) (d : BitVec 8) (k : State → Res) : Res :=
  let home := s.homeVa s.cur va
  match s.stepLogged home with
  | none => k s
  | some l => s.stepWith l home d k

/-- Performs the acceptance of a launch or push by a group, as a step at its queue (R379). -/
def State.queueStep (s : State) (q : Nat) (d : BitVec 8) (k : State → Res) : Res :=
  match s.cur, s.logOf s.cur with
  | .slot _ _, some l => s.stepWith l (BitVec.ofNat 64 q) d k
  | _, _ => k s

/-! ## Tickets and completions (R379) -/

/-- Performs an append by the issuing group at a chain descriptor, named by its home, that would take a ticket. -/
def State.ticketStep (s : State) (home ticket : Dword) (k : State → Res) : Res :=
  match s.cur, s.logOf s.cur with
  | .slot _ _, some l =>
    let count := (s.hart s.cur).retired
    if l.replay then do
      let (e, pos) ← s.stepEntry l 5 home
      guardRes (ticket.toNat ≤ (entryWord e 4).toNat) (divergeExc s)
      guardRes (entryWord e 4 == ticket) (.wait (.unit 4002) s)
      (k s).map fun s1 => (s1.consume s.cur l pos 0).stepCount l home
    else do
      guardRes (s.logRoom l 1) (.wait (.unit 4000) s)
      (k s).map fun s1 => (s1.logInput s.cur l count 5 home ticket ((s1.ctx l.pkg l.ctx).rank home)).stepCount l home
  | _, _ => k s

/-- A command's completion effects may be performed now: room to log them, or their rank in the die is next; `none`
where its log has no entry for them. -/
def State.mayComplete (s : State) (c : Cmd) : Option Bool :=
  match c.app.by_ with
  | none => some true
  | some (a, _) =>
    match s.logOf a with
    | none => some true
    | some l =>
      if !l.replay then some (s.logRoom l 1)
      else
        let n := match s.logHeader l with | some h => (s.logFields h).2.1.toNat | none => 0
        let mine := (List.range n).findSome? fun pos => match s.logGet l pos with
          | some e => if entryKind e = 6 && entryWord e 3 == c.app.desc && (entryWord e 4).toNat == c.app.ticket
              then some (entryWord e 5).toNat else none
          | none => none
        mine.map fun r => r == SMap.get (s.ctx l.pkg l.ctx).dieRanks c.die 0

/-- A command's completion effects are performed: logged, and counted for its die. -/
def State.completed (s : State) (c : Cmd) : State :=
  match c.app.by_ with
  | none => s
  | some (a, count) =>
    match s.logOf a with
    | none => s
    | some l =>
      let x := s.ctx l.pkg l.ctx
      let r := SMap.get x.dieRanks c.die 0
      let s1 := s.setCtx l.pkg l.ctx { x with dieRanks := SMap.put x.dieRanks c.die (r + 1) }
      if l.replay then s1
      else s1.logInput a l count 6 c.app.desc (BitVec.ofNat 64 c.app.ticket) r

end Sys2Proof.Machine
end

