-- ==== Sys2Proof/Machine/Scalar.lean ====
section
/-! DEFINITION. Scalar integer arithmetic, immediates and bits (R57, R62 to R65, R69). -/

namespace Sys2Proof.Machine

open Host (Outcome)

/-- Field extract by R65. -/
def fieldExtract (a b : Dword) : Dword :=
  let w := bits b 13 8 + 1
  let f : BitVec 64 := BitVec.ofNat 64 (a.toNat / 2 ^ bits b 5 0 % 2 ^ w)
  if bitAt b 16 && f.getLsbD (w - 1) then f ||| ~~~ BitVec.ofNat 64 (2 ^ w - 1) else f

/-- Signed quotient, truncated toward zero, with the cases of R63. -/
def divSigned (a b : Dword) : Dword := if b = 0 then BitVec.allOnes 64 else a.sdiv b
/-- Unsigned quotient (R63). -/
def divUnsigned (a b : Dword) : Dword := if b = 0 then BitVec.allOnes 64 else a.udiv b
/-- Signed remainder, with the sign of a (R62, R63). -/
def remSigned (a b : Dword) : Dword := if b = 0 then a else a.srem b
/-- Unsigned remainder (R63). -/
def remUnsigned (a b : Dword) : Dword := if b = 0 then a else a.umod b

/-- bits 127:64 of the signed product. -/
def mulHighSigned (a b : Dword) : Dword := BitVec.ofInt 64 (a.toInt * b.toInt / 2 ^ 64)
/-- bits 127:64 of the unsigned product. -/
def mulHighUnsigned (a b : Dword) : Dword := BitVec.ofNat 64 (a.toNat * b.toNat / 2 ^ 64)

/-- Leading zeros, 0 to 64. -/
def leadingZeros (a : Dword) : Nat := if a = 0 then 64 else 63 - a.toNat.log2

/-- Number of one bits. -/
def onesCount (a : Dword) : Nat := ((List.range 64).filter fun i => a.getLsbD i).length

/-- 1 or 0. -/
def ofBool64 (c : Bool) : Dword := if c then 1 else 0

/-- The shape of every instruction that writes one scalar register from values read at issue (R50, R57). -/
def scalarOp (d : BitVec 8) (srcs : List (BitVec 8)) (v : State → Dword) (s : State) (words : Nat := 1) : Res := do
  s.need (d :: srcs)
  .ok ((s.writeS d (v s)).retire words)

/-- Form A with two sources (R62). -/
def alu (f : Dword → Dword → Dword) (d a b : BitVec 8) (s : State) : Outcome State Fault Refusal :=
  finish (scalarOp d [a, b] (fun s => f (s.readS a) (s.readS b)) s)

/-- Form A or B with one source. -/
def alu1 (f : Dword → Dword) (d a : BitVec 8) (s : State) : Outcome State Fault Refusal :=
  finish (scalarOp d [a] (fun s => f (s.readS a)) s)

/-- Form B with a shift count, 0 to 63 (R64). -/
def aluShift (f : Dword → Nat → Dword) (d a n : BitVec 8) (s : State) : Outcome State Fault Refusal :=
  if n.toNat < 64 then alu1 (fun x => f x n.toNat) d a s else finish (.error s.illegal)

def execSadd (d a b : BitVec 8) (s : State) : Outcome State Fault Refusal := alu (· + ·) d a b s
def execSsub (d a b : BitVec 8) (s : State) : Outcome State Fault Refusal := alu (· - ·) d a b s
def execSmul (d a b : BitVec 8) (s : State) : Outcome State Fault Refusal := alu (· * ·) d a b s
def execSmulh (d a b : BitVec 8) (s : State) : Outcome State Fault Refusal := alu mulHighSigned d a b s
def execSmulhn (d a b : BitVec 8) (s : State) : Outcome State Fault Refusal := alu mulHighUnsigned d a b s
def execSdiv (d a b : BitVec 8) (s : State) : Outcome State Fault Refusal := alu divSigned d a b s
def execSdivn (d a b : BitVec 8) (s : State) : Outcome State Fault Refusal := alu divUnsigned d a b s
def execSrem (d a b : BitVec 8) (s : State) : Outcome State Fault Refusal := alu remSigned d a b s
def execSremn (d a b : BitVec 8) (s : State) : Outcome State Fault Refusal := alu remUnsigned d a b s
def execSand (d a b : BitVec 8) (s : State) : Outcome State Fault Refusal := alu (· &&& ·) d a b s
def execSor (d a b : BitVec 8) (s : State) : Outcome State Fault Refusal := alu (· ||| ·) d a b s
def execSxor (d a b : BitVec 8) (s : State) : Outcome State Fault Refusal := alu (· ^^^ ·) d a b s
def execSshl (d a b : BitVec 8) (s : State) : Outcome State Fault Refusal :=
  alu (fun x y => x <<< bits y 5 0) d a b s
def execSshr (d a b : BitVec 8) (s : State) : Outcome State Fault Refusal :=
  alu (fun x y => x >>> bits y 5 0) d a b s
def execSsar (d a b : BitVec 8) (s : State) : Outcome State Fault Refusal :=
  alu (fun x y => x.sshiftRight (bits y 5 0)) d a b s

/-- `ssel` reads d as a source (R62). -/
def execSsel (d a b : BitVec 8) (s : State) : Outcome State Fault Refusal :=
  finish (scalarOp d [a, b] (fun s => if s.readS d ≠ 0 then s.readS a else s.readS b) s)

def execSli (d : BitVec 8) (i : BitVec 16) (s : State) : Outcome State Fault Refusal :=
  finish (scalarOp d [] (fun _ => sext64 i) s)
def execSlih (d : BitVec 8) (i : BitVec 16) (s : State) : Outcome State Fault Refusal :=
  finish (scalarOp d [] (fun s => (s.readS d <<< 16) ||| i.setWidth 64) s)
/-- `slit` with its literal word, two words in all (R32, R64). -/
def execSlit (d : BitVec 8) (x : BitVec 32) (s : State) : Outcome State Fault Refusal :=
  finish (scalarOp d [] (fun _ => x.setWidth 64) s 2)
def execSaddi (d a i : BitVec 8) (s : State) : Outcome State Fault Refusal := alu1 (· + sext64 i) d a s
def execSandi (d a i : BitVec 8) (s : State) : Outcome State Fault Refusal := alu1 (· &&& sext64 i) d a s
def execSshli (d a n : BitVec 8) (s : State) : Outcome State Fault Refusal := aluShift (fun x k => x <<< k) d a n s
def execSshri (d a n : BitVec 8) (s : State) : Outcome State Fault Refusal := aluShift (fun x k => x >>> k) d a n s
def execSsari (d a n : BitVec 8) (s : State) : Outcome State Fault Refusal :=
  aluShift (fun x k => x.sshiftRight k) d a n s
def execSeq (d a b : BitVec 8) (s : State) : Outcome State Fault Refusal := alu (fun x y => ofBool64 (x == y)) d a b s
def execSlt (d a b : BitVec 8) (s : State) : Outcome State Fault Refusal := alu (fun x y => ofBool64 (x.slt y)) d a b s
def execSltn (d a b : BitVec 8) (s : State) : Outcome State Fault Refusal := alu (fun x y => ofBool64 (x.ult y)) d a b s
def execSmin (d a b : BitVec 8) (s : State) : Outcome State Fault Refusal :=
  alu (fun x y => if y.slt x then y else x) d a b s
def execSmax (d a b : BitVec 8) (s : State) : Outcome State Fault Refusal :=
  alu (fun x y => if x.slt y then y else x) d a b s
def execSclz (d a : BitVec 8) (s : State) : Outcome State Fault Refusal :=
  alu1 (fun x => BitVec.ofNat 64 (leadingZeros x)) d a s
def execSpopc (d a : BitVec 8) (s : State) : Outcome State Fault Refusal :=
  alu1 (fun x => BitVec.ofNat 64 (onesCount x)) d a s
def execSbfx (d a b : BitVec 8) (s : State) : Outcome State Fault Refusal := alu fieldExtract d a b s

/-- `splace` (R69): an SRAM-window address from logical identifiers. -/
def placeAddress (a b : Dword) : Dword :=
  BitVec.ofNat 64 (0x00F0000000000000 + bits a 9 0 * 2 ^ 30 + bits a 12 10 * 2 ^ 27 + bits a 19 13 * 2 ^ 20 + bits b 19 0)
def execSplace (d a b : BitVec 8) (s : State) : Outcome State Fault Refusal := alu placeAddress d a b s

end Sys2Proof.Machine
end

