-- ==== Sys2Proof/Machine/ScalarMem.lean ====
section
/-! DEFINITION. Scalar loads and stores, and the completion of operations in flight (R55, R66, R67, R224). -/

namespace Sys2Proof.Machine

open Host (Outcome)

/-- The checks of R55 and R261 on a scalar access, in order; the access itself has not happened yet. -/
def State.scalarAccess (s : State) (va : Dword) (n align : Nat) (k : AccKind) (atomic : Bool) :
    Except Exc (Loc × State) :=
  if va.toNat % align ≠ 0 then .error (s.trapAt 5 va)
  else
    let (x, s1) := s.xlate s.thread va k
    match x with
    | .bad => .error (s.trapAt 6 va)
    | .miss c =>
      match s.cur with
      | .sys _ _ _ => .error (s.trapAt 6 va)
      | .slot gid j => .error (.wait .parked (s1.parkReissue gid j va k c))
    | .at l =>
      match s1.raceAccess s.thread l n (match k with | .read => 0 | .write => 1 | _ => 2) atomic with
      | .error x => .error (s.trapAt 7 va x.det2 x.det3)
      | .ok s2 => .ok (l, s2)

/-- The granule's virtual address. -/
def granuleVA (va : Dword) : Dword := va &&& ~~~ 63

/-- Writes s[n] for an agent other than the issuer. -/
def State.writeSFor (s : State) (a : Agent) (n : Nat) (v : Dword) : State :=
  { ({ s with cur := a }).writeS (BitVec.ofNat 8 n) v with cur := s.cur }

/-- What a scalar load delivers: on a system-class core, in a logged range, it is an input (R378). -/
def State.loadInput (s : State) (va live : Dword) : Except Exc (Dword × State) :=
  if isSys s.cur && s.logged (s.pkgOf s.cur) (s.ctxOf s.cur) va then s.input 1 va live else .ok (live, s)

/-- A home lies in DRAM or on another die than an agent (R373). -/
def Who.far (w : Who) (key : Nat) : Bool := !isSlice key || (key - sliceBase) / 2 ^ 27 != w.pkg * 8 + w.die

/-- A scalar load's data at `l`: read at issue, landed now under SETA 15, or with its pip's operation (R67, R224). -/
def State.scalarLoad (s : State) (l : Loc) (va : Dword) (n : Nat) (d : BitVec 8) : Res := do
  let bad := s.poisoned l.key n
  let (v, s) ← s.loadInput va (BitVec.ofNat 64 (s.bytesAt l.key n))
  match s.setA with
  | none =>
    if bad then .error (s.trapAt 11 (granuleVA va) (s.integrityDetail l))
    else .ok ((s.writeS d v).retire)
  | some p =>
    .ok ((s.launchOp { s.opHere (some p) (.scalar d.toNat v) with
      pendS := if d = 0 then [] else [d.toNat]
      far := s.thread.far l.key
      bad := if bad then some (0, granuleVA va, s.integrityDetail l) else none }).retire)

/-- A scalar operation whose effect at memory is done: nothing, or a status, is left to land. -/
def State.scalarDone (s : State) (d : BitVec 8) (v : Dword) : Res :=
  match s.setA with
  | none => .ok ((s.writeS d v).retire)
  | some p =>
    .ok ((s.launchOp { s.opHere (some p) (.scalar d.toNat v) with pendS := if d = 0 then [] else [d.toNat] }).retire)

/-- The origin of the issuing core's scalar stores (R222). -/
def State.scalarOrigin (s : State) : BitVec 16 := originOf 1 (s.placeOf s.cur).2.1 (s.placeOf s.cur).2.2

/-! ## Faulting lanes (R219) -/

/-- The 64 KiB page of an address. -/
def pageOf (va : Dword) : Nat := va.toNat / 2 ^ 16

/-- The faulting accesses of an instruction by page. -/
def byPage (l : List (LaneReq × Nat)) : List (List (LaneReq × Nat)) :=
  ((l.map fun x => pageOf x.1.va).dedup).map fun p => l.filter fun x => pageOf x.1.va == p

/-- Opens one fault buffer entry for each page of the faulting accesses of operation n; its group parks for each. -/
def State.openEntries (s : State) (n : Nat) (o : Op) (k : AccKind) (pages : List (List (LaneReq × Nat))) : State :=
  match o.agent with
  | .sys _ _ _ => s
  | .slot gid slot =>
    let g := s.group gid
    let s := pages.foldl (fun s l =>
      let first := l.headD ({ lane := 0, va := 0, n := 1, reg := 0 }, 0)
      s.openFault { gid := some gid, slot := slot, pkg := g.pkg, die := g.die, core := g.core, ctx := g.hart.ctx,
                    va := first.1.va, kind := k, cause := first.2, held := .lanes n (l.map Prod.fst) }) s
    let s := { s with ops := SMap.put s.ops n { o with entries := o.entries + pages.length } }
    let g := s.group gid
    s.setGroup gid { g with parked := g.parked + pages.length }

/-- Accesses of an operation that go to other packages leave on the links, with the origin of what enters there (R222,
R388). -/
def State.onLinks (s : State) (n : Nat) (o : Op) (reqs : List LaneReq) : State :=
  let (pkg, die, core) := s.placeOf o.agent
  let kind := match o.kind with | .parkedScalar _ _ => 1 | _ => 0
  s.transmit n o pkg (s.ctxOf o.agent) (originOf kind die core) reqs

/-- The operation goes into flight with its faulting accesses parked; uncounted, its slot waits for it (R28, R219). A
lane counts as performed once all its accesses are. -/
def State.parkOp (s : State) (o : Op) (k : AccKind) (missed : List (LaneReq × Nat)) : State :=
  let n := s.nextId
  let o := { o with done := o.done &&& ~~~ lanesOf (missed.map fun x => x.1.lane) }
  let s := ((s.retire).launchOp o).onLinks n o o.reqs
  let s := s.openEntries n o k (byPage missed)
  if o.pip.isNone then s.setSlot s.cur { s.slot s.cur with block := some (.op n), since := s.cycle } else s

/-- A group's scalar access whose page is missing or lacks the permission, with its cause (R216, R219). -/
def State.scalarMiss (s : State) (va : Dword) (align : Nat) (k : AccKind) : Option (Nat × State) :=
  if isSys s.cur || va.toNat % align ≠ 0 then none
  else match s.xlate s.thread va k with
    | (.miss c, s1) => some (c, s1)
    | _ => none

/-! ## Accesses to another package (R389) -/

/-- Located requests, their homes written into them. -/
def placed (l : List (LaneReq × Loc)) : List LaneReq :=
  l.map fun x => { x.1 with key := x.2.key, addr := x.2.addr, race := x.2.race }

/-- The home of a placed request. -/
def LaneReq.loc (r : LaneReq) : Loc := { key := r.key, addr := r.addr, race := r.race }

/-- Its requests are applied at their homes when it issues. -/
def Op.isAtomic (o : Op) : Bool := match o.kind with | .atomic _ _ _ _ => true | _ => false

/-- Accesses are sent to another package: they are awaited, and perform when its answer comes. -/
def State.sendAway (s : State) (o : Op) (away : List (LaneReq × Loc)) : Op :=
  { o with
    reqs := o.reqs ++ placed away, sent := s.cycle
    done := o.done &&& ~~~ lanesOf (away.map fun x => x.1.lane) }

/-- A home lies in another package than an agent. -/
def State.away (s : State) (a : Agent) (l : Loc) : Bool := (homeOf l.key).1 != s.pkgOf a

/-- Where a scalar access lands that goes to another package. A logged load of a core does not wait (log 72). -/
def State.scalarAway (s : State) (va : Dword) (align : Nat) (k : AccKind) : Option (Loc × State) :=
  if va.toNat % align ≠ 0 || (isSys s.cur && s.logged (s.pkgOf s.cur) (s.ctxOf s.cur) va) then none
  else match s.xlate s.thread va k with
    | (.at l, s1) => if s.away s.cur l then some (l, s1) else none
    | _ => none

/-- A scalar access to another package: its operation is in flight, and performs when it completes. -/
def State.sendScalar (s : State) (act : ScalarAct) (d : BitVec 8) (r : LaneReq) (l : Loc) (k : AccKind) : State :=
  let o := { s.opHere s.setA (.parkedScalar d.toNat act) with pendS := if d = 0 then [] else [d.toNat], far := true }
  s.parkOp (s.sendAway o [(r, l)]) k []

/-- A scalar access waits for its page: its operation is in flight, counted on its pip, and performs at the replay (R28,
R219). -/
def State.parkScalar (s : State) (act : ScalarAct) (d : BitVec 8) (r : LaneReq) (k : AccKind) (cause : Nat) : State :=
  s.parkOp { s.opHere s.setA (.parkedScalar d.toNat act) with pendS := if d = 0 then [] else [d.toNat] } k [(r, cause)]

/-- `sld8` to `sld64`, `sldx` (R66). -/
def loadAt (n : Nat) (d : BitVec 8) (srcs : List (BitVec 8)) (addr : State → Dword) (s : State) :
    Outcome State Fault Refusal :=
  finish do
    s.need (d :: srcs)
    s.needPip s.setA
    match s.scalarMiss (addr s) n .read with
    | some (c, s1) => .ok (s1.parkScalar .load d { lane := 0, va := addr s, n := n, reg := 0 } .read c)
    | none =>
    match s.scalarAway (addr s) n .read with
    | some (l, s1) => .ok (s1.sendScalar .load d { lane := 0, va := addr s, n := n, reg := 0 } l .read)
    | none =>
      let (l, s1) ← s.scalarAccess (addr s) n n .read false
      s1.scalarLoad l (addr s) n d

/-- `sst8` to `sst64`, `sstx` (R66). -/
def storeAt (n : Nat) (d : BitVec 8) (srcs : List (BitVec 8)) (addr : State → Dword) (s : State) :
    Outcome State Fault Refusal :=
  finish do
    s.need (d :: srcs)
    s.needPip s.setA
    let r : LaneReq := { lane := 0, va := addr s, n := n, reg := 0, data := (s.readS d).toNat }
    match s.scalarMiss (addr s) n .write with
    | some (c, s1) => .ok (s1.parkScalar .store 0 r .write c)
    | none =>
    match s.scalarAway (addr s) n .write with
    | some (l, s1) => .ok (s1.sendScalar .store 0 r l .write)
    | none =>
    let (l, s1) ← s.scalarAccess (addr s) n n .write false
    (s1.putBytes l.key n (s.readS d).toNat s.scalarOrigin).scalarDone 0 0

/-- s[a] + sext(imm8) × n (R66). -/
def baseOffset (a i : BitVec 8) (n : Nat) (s : State) : Dword := s.readS a + sext64 i * BitVec.ofNat 64 n
/-- s[a] + s[b] (R66). -/
def baseIndex (a b : BitVec 8) (s : State) : Dword := s.readS a + s.readS b

def execSld8 (d a i : BitVec 8) (s : State) : Outcome State Fault Refusal := loadAt 1 d [a] (baseOffset a i 1) s
def execSld16 (d a i : BitVec 8) (s : State) : Outcome State Fault Refusal := loadAt 2 d [a] (baseOffset a i 2) s
def execSld32 (d a i : BitVec 8) (s : State) : Outcome State Fault Refusal := loadAt 4 d [a] (baseOffset a i 4) s
def execSld64 (d a i : BitVec 8) (s : State) : Outcome State Fault Refusal := loadAt 8 d [a] (baseOffset a i 8) s
def execSst8 (d a i : BitVec 8) (s : State) : Outcome State Fault Refusal := storeAt 1 d [a] (baseOffset a i 1) s
def execSst16 (d a i : BitVec 8) (s : State) : Outcome State Fault Refusal := storeAt 2 d [a] (baseOffset a i 2) s
def execSst32 (d a i : BitVec 8) (s : State) : Outcome State Fault Refusal := storeAt 4 d [a] (baseOffset a i 4) s
def execSst64 (d a i : BitVec 8) (s : State) : Outcome State Fault Refusal := storeAt 8 d [a] (baseOffset a i 8) s
def execSldx (d a b : BitVec 8) (s : State) : Outcome State Fault Refusal := loadAt 8 d [a, b] (baseIndex a b) s
def execSstx (d a b : BitVec 8) (s : State) : Outcome State Fault Refusal := storeAt 8 d [a, b] (baseIndex a b) s

/-! ## Completion -/

/-- Writes one lane word of a register of a group. -/
def Vregs.setLane (r : Vregs) (reg lane : Nat) (v : Word) : Vregs := r.write reg (1#64 <<< lane) fun _ => v

/-- A load's fills land, all in one step (R219, R227). -/
def Vregs.fill (r : Vregs) (fills : List (Nat × Nat × Word)) : Vregs :=
  fills.foldl (fun r f => r.setLane f.1 f.2.1 f.2.2) r

/-- What a load writes: its fills, or for a CB tensor the codes decoded from its pieces (R341). -/
def Op.finalFills (o : Op) : List (Nat × Nat × Word) :=
  match o.cb with
  | none => o.fills
  | some c =>
    let piece (lane i : Nat) : Nat :=
      ((o.fills.find? fun f => f.1 == 1000 + i && f.2.1 == lane).map fun f => f.2.2.toNat % 65536).getD 0
    o.fills.filter (fun f => decide (f.1 < 1000)) ++ c.pos.map fun e =>
      let blk := ((List.range c.rate).map fun i => piece e.1 i * 2 ^ (16 * i)).sum
      (c.d, e.1, BitVec.ofNat 32 ((cbDecode (fmtOf c.entry) c.rate blk).getD e.2 0))

/-- Takes an operation out of flight: its pip counts down (R28); a group that it held parked is so no more (R219). -/
def State.dropOp (s : State) (n : Nat) (o : Op) : State :=
  let s := { s with ops := SMap.erase s.ops n }.unpark (gidOf o.agent) o.holds.toNat
  match o.pip with
  | none => s
  | some p => s.pipDown o.agent p

/-- An instruction that traps after its issue is not counted (R52). -/
def State.unretire (s : State) (a : Agent) : State := s.setHart a { s.hart a with retired := (s.hart a).retired - 1 }

/-- The slot of an operation stands again at the operation's instruction, its pending mode with it (R28, R99). -/
def State.rewind (s : State) (o : Op) : State :=
  (s.unretire o.agent).setSlot o.agent { s.slot o.agent with pc := o.pc, clause := o.clause, pmode := o.pmode, block := none }

/-- What a precise trap of an operation records: its slot has issued nothing since (R28, R221, R224). -/
def Op.trapInfo (o : Op) (cause : Nat) (addr det2 det3 : Dword) (done : Lanes) : TrapInfo :=
  { cause := cause, tpc := o.pc, resume := o.pc, addr := addr, det2 := det2, det3 := det3, word := o.word,
    slot := slotNo o.agent, done := done, name := o.name }

/-- A trap charged to an operation in flight. -/
def State.opTrap (s : State) (o : Op) (cause : Nat) (addr det2 det3 : Dword) (done : Lanes) : State :=
  (s.rewind o).takeTrap o.agent (o.trapInfo cause addr det2 det3 done)

/-- An operation whose partial work stands when it traps: stores, atomics, the collectives that write memory (R224,
R237); a load starts afresh. -/
def Op.keeps (o : Op) : Bool :=
  match o.kind with
  | .store | .atomic _ _ _ _ => true
  | .collective which _ _ => which != 1
  | _ => false

/-- The lanes DONEMASK records for an operation that traps. -/
def Op.doneLanes (o : Op) : Lanes := o.before ||| if o.keeps then o.done else 0

/-- The codes an atomic or a collective has gathered are written to its group's registers. -/
def State.landOld (s : State) (o : Op) : State :=
  match o.agent with
  | .slot gid _ => let g := s.group gid; s.setGroup gid { g with regs := g.regs.fill o.fills }
  | .sys _ _ _ => s

/-- What a trap of an operation leaves in d: the old codes of the lanes performed (R237). -/
def State.landKept (s : State) (o : Op) : State := if o.keeps then s.landOld o else s

/-- A fault entry that holds lanes of an operation. -/
def FaultEntry.holds (e : FaultEntry) (n : Nat) : Bool := match e.held with | .lanes m _ => m == n | _ => false

/-- Its accesses that are awaited and have not performed. -/
def Op.unapplied (o : Op) : List LaneReq :=
  match o.kind with
  | .atomic _ _ _ _ => o.reqs.filter fun r => r.order.isSome
  | _ => o.reqs

/-- The lanes of an operation that are done: none of those with an access still held, in an entry, awaited or among
`left_`. -/
def State.opDone (s : State) (n : Nat) (o : Op) (left_ : List LaneReq) : Lanes :=
  let held := s.faults.flatMap fun e => match e.held with | .lanes m rs => if m = n then rs else [] | _ => []
  o.before ||| (o.doneLanes &&& ~~~ lanesOf ((held ++ left_ ++ o.unapplied).map LaneReq.lane))

/-- An operation that has ended is dropped and its trap taken. -/
def State.takeEnd (s : State) (n : Nat) (o : Op) (t : TrapInfo) : State :=
  ((((s.dropOp n o).landKept o).rewind o).takeTrap o.agent t).postLost (gidOf o.agent)

/-- An operation ends in a precise trap: it is dropped, with every entry that holds lanes of it; `left_` are accesses
that no entry holds and that have not performed. On a stopped agent its writes and its trap wait (R370). -/
def State.endOp (s : State) (n : Nat) (o : Op) (cause : Nat) (addr det2 det3 : Dword) (left_ : List LaneReq) : State :=
  let t := o.trapInfo cause addr det2 det3 (s.opDone n o left_)
  let count := (s.faults.filter fun e => e.holds n).length
  let s1 := (s.dropFaults fun e => e.holds n).unpark (gidOf o.agent) count
  match s1.stopOf o.agent with
  | none => s1.takeEnd n o t
  | some x =>
    let o := { o with reqs := [], entries := 0, ends := some t }
    { s1 with ops := SMap.put s1.ops n o }.holdOp n o x

/-- What an operation that has all its data does when it completes: registers are written, or an uncounted one traps
precisely (R67, R224). -/
def State.land (s : State) (o : Op) : State :=
  match o.bad with
  | some (_, addr, det2) => (s.landKept o).opTrap o 11 addr det2 0 o.doneLanes
  | none =>
    match o.kind, o.agent with
    | .scalar d v, a => s.writeSFor a d v
    | .load, .slot gid _ =>
      let g := s.group gid
      s.setGroup gid { g with regs := g.regs.fill o.finalFills }
    | .atomic _ _ _ _, _ | .collective _ _ _, _ => s.landOld o
    | _, _ => s

/-- An operation that has all its data completes: a counted load that has met poison stays counted until the trap that
is now due retires it (R28, R224); an atomic that waited for its rank traps precisely (R237). -/
def State.finishOp (s : State) (n : Nat) (o : Op) : State :=
  match o.ends with
  | some t => s.takeEnd n o t
  | none =>
    if o.pip.isSome && o.bad.isSome && !o.keeps then
      { s with ops := SMap.put s.ops n { o with due := true, holds := false } }.unpark (gidOf o.agent) o.holds.toNat
    else ((s.dropOp n o).land o).postLost (gidOf o.agent)

/-- An operation all of whose accesses are performed completes; on a stopped agent its writes wait (R370). -/
def State.completeOp (s : State) (n : Nat) : State :=
  match SMap.find s.ops n with
  | none => s
  | some o =>
    if o.entries ≠ 0 || !o.reqs.isEmpty || o.due then s
    else match s.stopOf o.agent with
      | some x => s.holdOp n o x
      | none => s.finishOp n o

/-- The first operation of an agent whose deferred fault is due (R224). -/
def State.dueOp (s : State) (a : Agent) : Option (Nat × Op) := s.ops.find? fun e => e.2.due && e.2.agent == a

/-- The trap of a due operation: its trapping PC is the load's, the recorded PC the word its slot would issue next. -/
def State.dueTrap (s : State) (o : Op) : TrapInfo :=
  let (addr, det2) := match o.bad with | some (_, a, d) => (a, d) | none => (0, 0)
  let x := s.slot o.agent
  { cause := 11, tpc := o.pc, resume := x.pc, addr := addr, det2 := det2, word := o.word, slot := slotNo o.agent,
    done := x.done, name := (x.named).getD 0 }

/-- The deferred fault of an operation is taken: the trap retires it, its pip counts down, and it has not counted as
retired (R28, R52, R224). A slot that has come to be FREE takes none. DESIGN CHOICE (log 91): a fault that comes due only
after its group has entered a handler, whichever slot it is of, is a trap in handler mode (R348). -/
def State.takeDue (s : State) (n : Nat) (o : Op) : State :=
  let s1 := s.dropOp n o
  if !isSys o.agent && (s.slot o.agent).st = .free && !(s.hart o.agent).handler then s1 else
    (s1.unretire o.agent).takeTrap o.agent (s.dueTrap o)

/-- A group may take a deferred trap: it stands on a partition that is not stopped, neither parked nor at a trap. -/
def State.takesDue (s : State) (a : Agent) : Bool :=
  match a with
  | .sys p d c => !(s.core p d c).halted && !s.isStopped a
  | .slot gid _ =>
    let g := s.group gid
    (g.life != .saved) && g.parked == 0 && g.trap.pending.isNone && g.trap.escalated.isNone && !s.isStopped a

/-- DEFERRED_DATA_INTEGRITY_FAULT: the fault of a counted load is taken at its slot's boundary; the recorded PC is the
word the slot would issue next (R224). -/
def execDeferredDataIntegrityFault (ag : Agent) (s : State) : Outcome State Fault Refusal :=
  match s.dueOp ag with
  | none => .next s
  | some (n, o) => .next (if s.takesDue ag then s.takeDue n o else s)

end Sys2Proof.Machine
end

