-- ==== Sys2Proof/Machine/Queues.lean ====
section
/-! DEFINITION. Launches, continuation records, join blocks and work queues (R128 to R131, R146, R149 to R155). -/

namespace Sys2Proof.Machine

open Host (Outcome)

/-! ## Reading records in memory -/

/-- The data-integrity fault of n bytes at a home, if some granule of them is poisoned (R224). -/
def State.cleanAt (s : State) (l : Loc) (va : Dword) (n : Nat) : Except Exc Unit :=
  match ((List.range ((n + 63) / 64)).map fun i => 64 * i).find? fun o => s.poisoned (l.key + o) (min 64 n) with
  | none => .ok ()
  | some o => .error (s.trapAt 11 (granuleVA va + BitVec.ofNat 64 o)
      (s.integrityDetail { l with key := l.key + o, addr := l.addr + o }))

/-- A read of n bytes that its instruction waits for (R55). -/
def State.scalarRead (s : State) (va : Dword) (n align : Nat) : Except Exc (Nat × Loc × State) := do
  let (l, s1) ← s.scalarAccess va n align .read false
  s1.cleanAt l va n
  .ok (s1.bytesAt l.key n, l, s1)

/-- Dword i of a number that holds memory bytes. -/
def dwordOf (x i : Nat) : Dword := BitVec.ofNat 64 (x / 2 ^ (64 * i))

/-! ## Streams (R146) -/

/-- The number of a stream: package, context, queue (64 more for a continuation queue), priority. -/
def streamKey (pkg ctx q prio : Nat) : Nat := ((pkg * 64 + ctx) * 128 + q) * 4 + prio

def State.stream (s : State) (k : Nat) : Stream := SMap.get s.streams k {}

/-- Entries a queue holds over all its priorities. -/
def State.queueLength (s : State) (pkg ctx q : Nat) : Nat :=
  ((List.range 4).map fun p => (s.stream (streamKey pkg ctx q p)).entries.length).sum

/-- A queue has room for one more entry. -/
def State.hasRoom (s : State) (pkg ctx q : Nat) : Bool :=
  match SMap.find (s.ctx pkg ctx).queues q with
  | none => false
  | some x => decide (s.queueLength pkg ctx q < x.cap)

/-- A queue is open, and a priority permitted on it. -/
def State.queueOpen (s : State) (pkg ctx q : Nat) : Bool := (SMap.find (s.ctx pkg ctx).queues q).isSome
def State.prioOk (s : State) (pkg ctx q prio : Nat) : Bool :=
  match SMap.find (s.ctx pkg ctx).queues q with
  | none => false
  | some x => x.prios.getLsbD prio

/-- Appends an entry to a stream; a stream that was empty joins the rotation at its tail (R147). -/
def State.append (s : State) (k : Nat) (e : Entry) : State :=
  let x := s.stream k
  { s with
    streams := SMap.put s.streams k { x with entries := x.entries ++ [e] }
    rotation := if s.rotation.contains k then s.rotation else s.rotation ++ [k] }

/-! ## Continuation records (R149, R151, R152) -/

/-- QUEUE and PRIO of a record's fourth word. -/
def recQueue (w : Dword) : Nat := 64 + bits w 7 2
def recPrio (w : Dword) : Nat := bits w 1 0

/-- The status of pushing a record with this fourth word (R151). -/
def State.pushStatus (s : State) (pkg ctx : Nat) (w : Dword) : Nat :=
  if !s.queueOpen pkg ctx (recQueue w) then 2
  else if !s.prioOk pkg ctx (recQueue w) (recPrio w) then 3
  else if w.toNat / 2 ^ 8 ≠ 0 then 4
  else if !s.hasRoom pkg ctx (recQueue w) then 1
  else 0

/-- Appends the record in 32 bytes to its stream (R151). -/
def State.pushRecord (s : State) (pkg ctx rec : Nat) (know : SMap Nat) : State :=
  let w := dwordOf rec 3
  s.append (streamKey pkg ctx (recQueue w) (recPrio w)) (.cont (dwordOf rec 0) (dwordOf rec 1) (dwordOf rec 2) know)

def execCpush (d a : BitVec 8) (s : State) : Outcome State Fault Refusal :=
  finish do
    s.need [d, a]
    let (r, _, s1) ← s.scalarRead (s.readS a) 32 32
    let pkg := s.pkgOf s.cur
    let ctx := s.ctxOf s.cur
    let st := s1.pushStatus pkg ctx (dwordOf r 3)
    if st ≠ 0 then .ok ((s1.writeS d (BitVec.ofNat 64 st)).retire)
    else s1.queueStep (recQueue (dwordOf r 3)) d fun s1 =>
      .ok (((s1.pushRecord pkg ctx r s1.slotKnowledge).writeS d 0).retire)

/-- An atomic step of the issuing slot at an object of 64 bytes: aligned, translated, an event at each of its bytes, clean
(R55, R152 to R155, R250). -/
def State.objectStep (s : State) (va : Dword) : Except Exc (Loc × State) := do
  let (l, s1) ← s.scalarAccess va 64 64 .rmw true
  s1.cleanAt l va 64
  .ok (l, s1)

/-- `cjoin`: an acquire-release step at package scope (R152, R253). -/
def execCjoin (d a : BitVec 8) (s : State) : Outcome State Fault Refusal :=
  finish do
    s.need [d, a]
    s.atomicStep (s.readS a) d fun s => do
    let (l, s1) ← (s.releaseSlot 4).objectStep (s.readS a)
    let s1 := s1.acquireSlot 4
    let pkg := s.pkgOf s.cur
    let ctx := s.ctxOf s.cur
    let s1 := s1.post l.key s1.slotKnowledge
    let n : Dword := BitVec.ofNat 64 (s1.bytesAt l.key 8) - 1
    let r := s1.bytesAt (l.key + 0x20) 32
    let st := s1.pushStatus pkg ctx (dwordOf r 3)
    let stuck := n == 0 && st != 0
    let s2 := s1.putBytes l.key 8 (if stuck then 1 else n.toNat) s.scalarOrigin
    let s3 := if n == 0 && st == 0 then s2.pushRecord pkg ctx r (s2.message l.key) else s2
    .ok ((s3.writeS d (if stuck then BitVec.ofNat 64 (2 ^ 63 + st) else n)).retire)

/-! ## Work queues (R153 to R155) -/

/-- The fields of a work queue's object. -/
structure WorkQueue where
  head : Dword
  tail : Dword
  base : Dword
  lgcap : Nat

/-- The queue object at a home. DESIGN CHOICE (log 79): its waiter state, bytes 0x20 to 0x38, is kept in the slots that
wait and never as bytes. -/
def State.workQueue (s : State) (key : Nat) : WorkQueue :=
  let w (i : Nat) := BitVec.ofNat 64 (s.bytesAt (key + 8 * i) 8)
  { head := w 0, tail := w 1, base := w 2, lgcap := bits (w 3) 4 0 }

/-- The address of item n. -/
def WorkQueue.item (q : WorkQueue) (n : Dword) : Dword := q.base + BitVec.ofNat 64 (8 * (n.toNat % 2 ^ q.lgcap))

/-- Items waiting. -/
def WorkQueue.count (q : WorkQueue) : Dword := q.tail - q.head

/-- BASE is aligned to 8 (R154). -/
def State.needBase (s : State) (q : WorkQueue) : Except Exc Unit :=
  guardRes (bits q.base 2 0 == 0) (s.trapAt 5 q.base)

/-- Performs a `qpush` under its group's log: an atomic step where the queue lies in a logged range, an acceptance
anywhere (R379). -/
def State.pushStep (s : State) (va : Dword) (d : BitVec 8) (accepted : Bool) (k : State → Res) : Res :=
  let home := s.homeVa s.cur va
  match s.cur, s.logOf s.cur with
  | .slot _ _, some l => if accepted || s.logged l.pkg l.ctx home then s.stepWith l home d k else k s
  | _, _ => k s

/-- `qpush` (R154): a release at package scope; its status lands with its pip. -/
def execQpush (d a b : BitVec 8) (s : State) : Outcome State Fault Refusal :=
  finish <| counting s.setA do
    s.need [d, a, b]
    s.needPip s.setA
    let (l, s1) ← (s.releaseSlot 4).objectStep (s.readS a)
    let q := s1.workQueue l.key
    s1.needBase q
    if 2 ^ q.lgcap ≤ q.count.toNat then (s.pushStep (s.readS a) d false) fun _ => s1.scalarDone d 1
    else (s.pushStep (s.readS a) d true) fun _ => do
      let (i, s2) ← s1.scalarAccess (q.item q.tail) 8 8 .write true
      let s3 := s2.putBytes i.key 8 (s.readS b).toNat s.scalarOrigin
      (s3.putBytes (l.key + 8) 8 (q.tail + 1).toNat s.scalarOrigin).scalarDone d 0

/-- Slots that began waiting on a queue's home before the issuing slot. -/
def State.earlierPops (s : State) (key : Nat) : Bool :=
  let x := s.slot s.cur
  let mine := if x.block = some (.queue key) then x.since else s.cycle + 1
  s.groups.any fun e => (e.2.slot0.block == some (.queue key) && decide (e.2.slot0.since < mine)) ||
    (e.2.slot1.block == some (.queue key) && decide (e.2.slot1.since < mine))

/-- The group whose `qpop` ends has been idle in it. -/
def State.popIdle (s : State) : State :=
  match s.cur with
  | .sys _ _ _ => s
  | .slot gid _ => s.setGroup gid ((s.group gid).idled s.cycle)

/-- `qpop` (R155): waits for an item, and for the slots that began waiting before it; an acquire at package scope. -/
def execQpop (d a : BitVec 8) (s : State) : Outcome State Fault Refusal :=
  finish do
    s.need [d, a]
    s.atomicStep (s.readS a) d fun s => do
    let (l, s1) ← s.objectStep (s.readS a)
    let q := s1.workQueue l.key
    s1.needBase q
    if q.tail.toNat ≤ q.head.toNat || s1.earlierPops l.key then .error (.wait (.queue l.key) s)
    else
      let (i, s2) ← s1.scalarAccess (q.item q.head) 8 8 .read true
      s2.cleanAt i (q.item q.head) 8
      let v := BitVec.ofNat 64 (s2.bytesAt i.key 8)
      let s3 := ((s2.putBytes l.key 8 (q.head + 1).toNat s.scalarOrigin).acquireSlot 4).popIdle
      .ok ((s3.writeS d v).retire)

/-! ## Launches (R128 to R131) -/

/-- e(j) ≤ 2^w(j), exactly. -/
def Launch.extentsOk (l : Launch) : Bool := (List.range 6).all fun j => decide (l.extent j ≤ 2 ^ l.width j)

/-- Fields of the header that its checks and the distributor use. -/
def Launch.initg (l : Launch) : Nat := bits (l.word 0x40) 5 0
def Launch.budget (l : Launch) : Nat := bits (l.word 0x40) 13 6
def Launch.slice (l : Launch) : Nat := 64 * bits (l.word 0x40) 28 14
def Launch.oslots (l : Launch) : Nat := bits (l.word 0x40) 35 29
def Launch.aslots (l : Launch) : Nat := bits (l.word 0x40) 39 36
def Launch.bars (l : Launch) : Nat := bits (l.word 0x40) 46 40
def Launch.gang (l : Launch) : Nat := bits (l.word 0x48) 9 0
def Launch.domino (l : Launch) : Bool := bitAt (l.word 0x48) 10
def Launch.queue (l : Launch) : Nat := bits (l.word 0x48) 16 11
def Launch.prio (l : Launch) : Nat := bits (l.word 0x48) 18 17
def Launch.persist (l : Launch) : Bool := bitAt (l.word 0x48) 19
def Launch.reserve (l : Launch) : Bool := bitAt (l.word 0x48) 20
def Launch.racechk (l : Launch) : Bool := bitAt (l.word 0x48) 21

/-- Every reserved field of a header is zero (R129 check 8). -/
def Launch.reservedOk (l : Launch) : Bool :=
  l.word 0x78 == 0 && bits (l.word 0x48) 63 23 == 0 && bits (l.word 0x40) 63 47 == 0
    && bits (l.word 0x18) 63 14 == 0 && bits (l.word 0x10) 63 42 == 0

/-- A binding passes check 6. -/
def Launch.bindingOk (l : Launch) (n : Nat) : Bool :=
  !(l.binding n).getLsbD 14 &&
    (!l.portOn n || (decide (1 ≤ l.portK n) && decide (l.portReg n ≤ 31 + 4 * l.initg)))

/-- A PERSIST launch of the queue is accepted already (R156). -/
def State.persistHeld (s : State) (pkg ctx q : Nat) : Bool :=
  s.launches.any fun e => e.2.pkg == pkg && e.2.ctx == ctx && e.2.persist && e.2.queue == q && decide (0 < e.2.alive)

/-- The status of a header: the first check of R129 that it fails, or 0. -/
def State.headerStatus (s : State) (l : Launch) : Nat :=
  let entry := l.word 0
  let w := l.width
  let gangs := [1, l.extent 2, l.extent 2 * l.extent 3]
  if entry.toNat % 4 ≠ 0 || entry.toNat / 2 ^ 57 ≠ 0 then 1
  else if !(decide (w 0 ≤ 6) && decide (w 1 ≤ 4) && decide (w 2 ≤ 4) && decide (l.shift 6 ≤ 64)
      && (l.word 0x08).toNat % 2 ^ l.shift 6 == 0) then 2
  else if !l.extentsOk then 3
  else if !(decide (l.initg ≤ 48) && decide (32 + 4 * l.initg ≤ l.budget) && decide (l.budget ≤ 224)
      && l.budget % 4 == 0 && decide (l.oslots ≤ 64) && decide (l.aslots ≤ 8) && decide (l.bars ≤ 64)
      && decide (l.slice + 1024 * l.extent 1 ≤ 2 ^ 20)) then 4
  else if !(decide (1 ≤ l.gang) && decide (l.gang ≤ 704) && gangs.contains l.gang
      && (!l.domino || l.gang % 2 == 0)) then 5
  else if !((List.range 8).all l.bindingOk) then 6
  else if !s.queueOpen l.pkg l.ctx l.queue || !s.prioOk l.pkg l.ctx l.queue l.prio
      || (l.persist && s.persistHeld l.pkg l.ctx l.queue) then 7
  else if !l.reservedOk then 8
  else if !s.hasRoom l.pkg l.ctx l.queue then 9
  else 0

/-- The groups a launch creates on its package: of a field that numbers packages, one value (R400). -/
def Launch.groupCount (l : Launch) : Nat :=
  ((List.range 5).map fun j => if (l.part.map Prod.fst) = some (j + 1) then 1 else l.extent (j + 1)).prod

/-- Enqueues an accepted launch on its stream (R130). -/
def State.enqueue (s : State) (l : Launch) : State :=
  let (id, s) := s.fresh
  let c := s.ctx l.pkg l.ctx
  ((s.setCtx l.pkg l.ctx { c with lseq := c.lseq + 1 }).setLaunch id
    { l with alive := l.groupCount, lseq := c.lseq + 1 }).append (streamKey l.pkg l.ctx l.queue l.prio) (.launch id)

/-- A launch from the words of its header and its defaults. -/
def mkLaunch (pkg ctx : Nat) (header : Nat) (defaults : List Word) (args : Dword) (know : SMap Nat) : Launch :=
  { pkg := pkg, ctx := ctx, header := (List.range 16).map (dwordOf header), defaults := defaults, args := args,
    know := know }

/-- The eight port defaults, read as words (R130). DESIGN CHOICE (log 34): the spec gives FWDEF no alignment; each word is
read as a 4-byte access, so FWDEF must be a multiple of 4. -/

def State.readDefaults (s : State) (va : Dword) : Nat → Except Exc (List Word × State)
  | 0 => .ok ([], s)
  | n + 1 => do
    let (x, _, s1) ← s.scalarRead va 4 4
    let (xs, s2) ← s1.readDefaults (va + 4) n
    .ok (BitVec.ofNat 32 x :: xs, s2)

/-- `launch` (R130): field b = 0 takes ARGS from the header. -/
def execLaunch (d a b : BitVec 8) (s : State) : Outcome State Fault Refusal :=
  finish do
    s.need [d, a, b]
    let (h, _, s1) ← s.scalarRead (s.readS a) 128 128
    let l := mkLaunch (s.pkgOf s.cur) (s.ctxOf s.cur) h []
      (if b = 0 then dwordOf h 7 else s.readS b) s1.slotKnowledge
    let some? := (List.range 8).any l.portOn
    let (ds, s2) ← if l.word 0x60 ≠ 0 && some? then s1.readDefaults (l.word 0x60) 8 else .ok (List.replicate 8 0, s1)
    let st := s2.headerStatus l
    if st ≠ 0 then .ok ((s2.writeS d (BitVec.ofNat 64 st)).retire)
    else s2.queueStep l.queue d fun s2 => .ok (((s2.enqueue { l with defaults := ds }).writeS d 0).retire)

end Sys2Proof.Machine
end

