-- ==== Sys2Proof/Machine/Boards.lean ====
section
/-! DEFINITION. Appending to chains, the trigger boards and their firing test (R272, R273, R278, R284 to R287). -/

namespace Sys2Proof.Machine

open Host (Outcome)

/-! ## Appending a command (R278) -/

/-- Why an append makes none. -/
inductive AppendErr where
  | misaligned (va : Dword)
  | bad (va : Dword)
  | miss (va : Dword) (k : AccKind) (cause : Nat)
  | poisoned (va : Dword) (det2 : Dword)
  /-- the descriptor is not valid (R272) -/
  | invalid
deriving DecidableEq, Repr

/-- Word i of the 64 bytes at a home. -/
def State.wordAt (s : State) (key i : Nat) : Dword := BitVec.ofNat 64 (s.bytesAt (key + 8 * i) 8)

/-- A chain descriptor's reserved bits are zero (R272). -/
def State.chainValid (s : State) (key : Nat) : Bool :=
  s.wordAt key 6 == 0 && s.wordAt key 7 == 0 && bits (s.wordAt key 4) 63 9 == 0 && bits (s.wordAt key 4) 7 4 == 0

/-- HALTED and ENGINE of a descriptor. -/
def State.chainHalted (s : State) (key : Nat) : Bool := bitAt (s.wordAt key 4) 8
def State.chainEngine (s : State) (key : Nat) : Nat := bits (s.wordAt key 4) 3 0

/-- A translation as an append makes it. -/
def State.appendAt (s : State) (w : Who) (va : Dword) (k : AccKind) : Except AppendErr (Loc × State) :=
  match s.xlate w va k with
  | (.bad, _) => .error (.bad va)
  | (.miss c, _) => .error (.miss va k c)
  | (.at l, s1) => if s1.poisoned l.key 64 then .error (.poisoned (granuleVA va) (s1.integrityDetail l)) else .ok (l, s1)

/-- The checks of R278 on a chain address: aligned, a slice address, translated. -/
def State.chainAt (s : State) (w : Who) (c : Dword) : Except AppendErr (Loc × State) :=
  if c.toNat % 64 ≠ 0 then .error (.misaligned c)
  else if !isAlias c && !isWindow c then .error (.bad c)
  else s.appendAt w c .rmw

/-- The chain kept for a home. -/
def State.chain (s : State) (key : Nat) : Chain := SMap.get s.chains key {}
def State.setChain (s : State) (key : Nat) (c : Chain) : State := { s with chains := SMap.put s.chains key c }

/-- The hardware stores of an append at one home. -/
def State.store8 (s : State) (key : Nat) (v : Dword) (origin : BitVec 16) : State := s.putBytes key 8 v.toNat origin

/-- Appends the command at K to the chain at C, on behalf of `w` (R278): its ticket. -/
def State.chainAppend (s : State) (w : Who) (c k : Dword) (app : Appended) : Except AppendErr (Dword × State) := do
  if c.toNat % 64 = 0 && k.toNat % 64 ≠ 0 then .error (.misaligned k)
  else
    let (l, s1) ← s.chainAt w c
    if !s1.chainValid l.key then .error .invalid
    else
      let (m, s2) ← s1.appendAt w k .write
      let org := originOf 1 w.die w.core
      let n := s2.wordAt l.key 2 + 1
      let tail := s2.wordAt l.key 1
      let ch := s2.chain l.key
      let s3 := (s2.store8 (l.key + 0x10) n org).store8 m.key 0 org
      let s4 := s3.store8 (m.key + 0x38) (BitVec.ofNat 64 (n.toNat % 2 ^ 48 * 2 ^ 16)) org
      let s5 ← if tail = 0 then .ok s4 else match s4.appendAt w tail .write with
        | .ok (t, s5) => .ok (s5.store8 t.key k org)
        | .error e => .error e
      -- a command that halted and whose record is being posted runs no more
      let empty := s5.wordAt l.key 0 == 0 && !(ch.running.any fun id => (SMap.find s5.cmds id).any fun c => decide (c.status < 16))
      let idle := empty && !s5.chainHalted l.key
      let s6 := if idle then s5.store8 l.key k org else s5
      let s7 := s6.store8 (l.key + 0x08) k org
      let (id, s8) := if app.id = 0 then s7.fresh else (app.id, s7)
      .ok (n, s8.setChain l.key { ch with
        pkg := l.addr / 2 ^ 30, die := l.addr / 2 ^ 27 % 8, engine := s7.chainEngine l.key, ctx := w.ctx,
        appended := (if empty then [] else ch.appended) ++
          [{ app with id := id, va := k, ticket := n.toNat, at_ := s.cycle }] })

/-! ## The board (R284, R286) -/

def State.board (s : State) (key : Nat) : Board := SMap.get s.boards key {}
def State.setBoard (s : State) (key : Nat) (b : Board) : State := { s with boards := SMap.put s.boards key b }

def Board.window (b : Board) (w : Nat) : Dword := SMap.get b.bits w 0

/-- A window is allotted to a context. -/
def Board.allotted (b : Board) (w ctx : Nat) : Bool := SMap.find b.owners w == some ctx

/-- The number under which what sets a board bit leaves its message. -/
def boardMsg (key win bit : Nat) : Nat := 2 ^ 90 + key * 256 + 64 * win + bit

/-- Everything that happens before the settings of the bits under a mask (R264). -/
def State.maskKnow (s : State) (key win : Nat) (mask : Dword) : SMap Nat :=
  (lanesList mask).foldl (fun c i => clockJoin c (s.message (boardMsg key win i))) []

/-- Word i of a trigger record. -/
def Trigger.word (t : Trigger) (i : Nat) : Dword := t.record.getD i 0
def Trigger.win (t : Trigger) : Nat := bits (t.word 3) 1 0

/-- The core of a board as it appends: as the core's groups would, in the trigger's context. -/
def boardWho (key ctx : Nat) : Who :=
  { kind := .thread, pkg := key / 2048, die := key / 128 % 16, core := key % 128, ctx := ctx }

/-- Tests one trigger slot and fires it (R286). -/
def State.fireSlot (s : State) (key t : Nat) : State :=
  let b := s.board key
  match SMap.find b.triggers t with
  | none => s
  | some x =>
    let mask := x.word 2
    if b.window x.win &&& mask ≠ mask then s
    else
      let know := s.maskKnow key x.win mask
      let clear := if bitAt (x.word 3) 2 then SMap.set b.bits x.win (b.window x.win &&& ~~~ mask) 0 else b.bits
      let s1 := s.setBoard key { b with triggers := SMap.erase b.triggers t, bits := clear }
      let cmd := x.word 1
      let fail (s : State) : State :=
        let b := s.board key
        s.setBoard key { b with failed := SMap.put b.failed t x.ctx }
      if cmd.toNat < 2 then fail s1
      else match s1.chainAppend (boardWho key x.ctx) (x.word 0) cmd { va := 0, ticket := 0, know := know } with
        | .ok (_, s2) => s2
        | .error _ => fail s1

/-- The firing test: armed slots in ascending order. -/
def State.firingTest (s : State) (key : Nat) : State := (List.range 32).foldl (fun s t => s.fireSlot key t) s

/-- Sets bits of a window of a core's board; the firing test follows (R286, R287, R396). -/
def State.setBits (s : State) (key win : Nat) (mask : Dword) (know : SMap Nat) : State :=
  let b := s.board key
  let s1 := s.setBoard key { b with bits := SMap.set b.bits win (b.window win ||| mask) 0 }
  let s2 := (lanesList mask).foldl (fun s i => s.post (boardMsg key win i) know) s1
  let s3 := match SMap.find b.owners win with
    | some ctx => if mask = 0 then s2 else s2.wakeGroups (key / 2048) (key / 128 % 16) (key % 128) ctx
    | none => s2
  s3.firingTest key

/-! ## The bit instructions (R287) -/

/-- The key of the issuing core. -/
def State.coreHere (s : State) : Nat := let (p, d, c) := s.placeOf s.cur; coreKey p d c

/-- Some access of either slot of the issuing group is in flight (R410). -/
def State.groupAccessInFlight (s : State) : Bool :=
  s.ops.any fun e => sameHart e.2.agent s.cur && e.2.isAccess

/-- The core a target word names: none where it is not enabled. -/
def State.targetCore (s : State) (w : Dword) : Option Nat :=
  if bitAt w 63 then some s.coreHere
  else
    let p := bits w 9 0
    let d := bits w 12 10
    let c := bits w 19 13
    if s.listed (s.pkgOf s.cur) p && (s.coreSlice p d c 0).isSome then some (coreKey p d c) else none

def execTbset (a b : BitVec 8) (s : State) : Outcome State Fault Refusal :=
  finish do
    s.need [a, b]
    guardRes (!s.groupAccessInFlight) (.wait .drain s)
    let w := s.readS a
    let win := bits w 21 20
    match s.targetCore w with
    | none => .error (s.trapAt 6 w)
    | some key =>
      guardRes ((s.board key).allotted win (s.ctxOf s.cur)) (s.trapAt 6 w)
      .ok ((s.setBits key win (s.readS b) (s.groupKnowledge (gidOf s.cur))).retire)

def execTbclr (a b : BitVec 8) (s : State) : Outcome State Fault Refusal :=
  finish do
    s.need [a, b]
    let key := s.coreHere
    let x := s.board key
    let win := bits (s.readS a) 1 0
    guardRes (x.allotted win (s.ctxOf s.cur)) (s.trapAt 6 (s.readS a))
    .ok ((s.setBoard key { x with bits := SMap.set x.bits win (x.window win &&& ~~~ s.readS b) 0 }).retire)

def execTbread (d a : BitVec 8) (s : State) : Outcome State Fault Refusal :=
  finish do
    s.need [d, a]
    let key := s.coreHere
    let x := s.board key
    let ctx := s.ctxOf s.cur
    let n := (s.readS a).toNat
    if n < 4 then
      guardRes (x.allotted n ctx) (s.trapAt 6 (s.readS a))
      .ok ((s.writeS d (x.window n)).retire)
    else if n = 4 then
      .ok ((s.writeS d (lanesOf ((x.triggers.filter fun e => e.2.ctx == ctx).map Prod.fst))).retire)
    else if n = 5 then
      let mine := x.failed.filter fun e => e.2 == ctx
      let s1 := s.setBoard key { x with failed := x.failed.filter fun e => e.2 != ctx }
      .ok ((s1.writeS d (lanesOf (mine.map Prod.fst))).retire)
    else .error s.illegal

/-- Arming a trigger from the record at s[a] (R285). -/
def State.arm (s : State) (d a : BitVec 8) : Res := do
  let va := s.readS a
  let (r, _, s1) ← s.scalarRead va 32 32
  let ws := (List.range 4).map (dwordOf r)
  let key := s.coreHere
  let x := s1.board key
  let win := bits (dwordOf r 3) 1 0
  let ctx := s.ctxOf s.cur
  if (dwordOf r 3).toNat / 8 ≠ 0 || dwordOf r 2 = 0 then .ok ((s1.writeS d 0x8000000000000002).retire)
  else if !x.allotted win ctx then .error (s1.trapAt 6 va)
  else match (List.range 32).find? fun t => (SMap.find x.triggers t).isNone with
    | none => .ok ((s1.writeS d 0x8000000000000001).retire)
    | some t =>
      let s2 := s1.setBoard key { x with triggers := SMap.put x.triggers t { record := ws, ctx := ctx } }
      .ok (((s2.writeS d (BitVec.ofNat 64 t)).firingTest key).retire)

def execTrig (d a b : BitVec 8) (s : State) : Outcome State Fault Refusal :=
  finish do
    s.need [d, a, b]
    if s.readS b = 0 then s.arm d a
    else if s.readS b = 1 then
      let key := s.coreHere
      let x := s.board key
      let t := bits (s.readS a) 4 0
      match SMap.find x.triggers t with
      | some y =>
        if y.ctx = s.ctxOf s.cur then
          .ok (((s.setBoard key { x with triggers := SMap.erase x.triggers t }).writeS d 0).retire)
        else .ok ((s.writeS d 1).retire)
      | none => .ok ((s.writeS d 1).retire)
    else .error s.illegal

end Sys2Proof.Machine
end

