-- ==== Sys2Proof/Machine/Operands.lean ====
section
/-! DEFINITION. Vector operands: reading a code in a lane, elements in lane words, writing a destination, the checks of
R162 (R34, R35, R160 to R163, R180, R186, R189, R361). -/

namespace Sys2Proof.Machine

open Host (Outcome)

/-! ## The group that issues -/

/-- The issuing group. -/
def State.grp (s : State) : Group := s.group (gidOf s.cur)
def State.setGrp (s : State) (g : Group) : State := s.setGroup (gidOf s.cur) g

/-- The highest held register plus one (R180). -/
def Vregs.held (r : Vregs) : Nat := 32 + 4 * r.granules

/-- An unclaimed register (R35, R180): the register number is the fault address. -/
def State.needReg (s : State) (r : Nat) : Except Exc Unit :=
  if r < s.grp.regs.held then .ok () else .error (s.trapAt 4 (BitVec.ofNat 64 r))

def State.needRegs (s : State) : List Nat → Except Exc Unit
  | [] => .ok ()
  | r :: rs =>
    match s.needReg r with
    | .ok _ => s.needRegs rs
    | .error e => .error e

/-! ## Reading -/

/-- The value of a forward port for an item, as R135 decides it now: none where the read waits. A predecessor in
another group counts only the generations that have arrived (R141). -/
def Launch.portRead (l : Launch) (n wid : Nat) (sameGroup : Nat → Bool) : Option Word :=
  let p := predOf wid (l.portK n)
  let dflt := l.defaults.getD n 0
  if !l.isItem p then some dflt
  else
    let x := l.item n p
    let g := (l.item n wid).pubs + 1
    if g ≤ x.pubs then
      (if sameGroup p || g ≤ x.arrived then (x.held.find? fun h => h.1 == g).map Prod.snd else none)
    else if x.ended then
      (if x.pubs = 0 then some dflt else if sameGroup p || x.pubs ≤ x.arrived then some x.last else none)
    else none

/-- A work identifier belongs to a lane of the group. -/
def Group.hasWid (g : Group) (wid : Nat) : Bool :=
  (List.range 64).any fun l => g.items.getLsbD l && (g.wid l).toNat == wid

/-- The port value a lane of a group reads (R135); zero where it is not decided (a ripple clause runs no such lane). -/
def State.portValue (s : State) (g : Group) (gid n lane : Nat) : Word :=
  match s.launchOf gid with
  | none => 0
  | some id => ((s.launch id).portRead n (g.wid lane).toNat g.hasWid).getD 0

/-- vsrc(code, L) (R35): the 32-bit word a vector operand code gives in lane L. -/
def State.vsrc (s : State) (c : BitVec 8) (lane : Nat) : Word :=
  let g := s.grp
  let n := c.toNat
  if n < 224 then g.regs.lane n lane
  else if n < 232 then s.portValue g (gidOf s.cur) (n - 224) lane
  else if n < 235 then (g.regs.bypass (n - 232)).getD lane 0
  else if n = 235 then 0
  else if n = 236 then BitVec.ofNat 32 lane
  else if n = 237 then (g.wid lane).setWidth 32
  else (s.readS (BitVec.ofNat 8 (n - 240))).setWidth 32

/-- The 64 bits a code taken as a pair gives in lane L (R35). -/
def State.vsrcPair (s : State) (c : BitVec 8) (lane : Nat) : Dword :=
  let n := c.toNat
  if n < 224 then s.grp.regs.lane (n + 1) lane ++ s.grp.regs.lane n lane
  else if 240 ≤ n then s.readS (BitVec.ofNat 8 (n - 240))
  else (s.vsrc c lane).setWidth 64

/-- The container word of an operand in a lane: the pair for C = 64, else the lane word (R160, R191). -/
def State.unit (s : State) (c : BitVec 8) (width lane : Nat) : Nat :=
  if width = 64 then (s.vsrcPair c lane).toNat else (s.vsrc c lane).toNat

/-- Sub-element j of a lane word in containers of `width` bits (R160). -/
def subElem (width x j : Nat) : Nat := if width = 64 then x else x / 2 ^ (j * width) % 2 ^ width

/-- A lane word from its sub-elements. -/
def joinElems (width : Nat) (l : List Nat) : Nat := l.foldr (fun x a => x % 2 ^ width + 2 ^ width * a) 0

/-! ## Interlocks and checks of operands -/

/-- The vector registers a source code reads. -/
def regsOf (c : BitVec 8) (width : Nat) : List Nat :=
  if c.toNat < 224 then (if width = 64 then [c.toNat, c.toNat + 1] else [c.toNat]) else []

/-- The scalar registers a source code reads. -/
def sregsOf (c : BitVec 8) : List (BitVec 8) := if 240 ≤ c.toNat then [BitVec.ofNat 8 (c.toNat - 240)] else []

/-- A port that the launch leaves disabled is illegal (R35, R133). -/
def State.portOk (s : State) (c : BitVec 8) : Bool :=
  match portIndex c with
  | none => true
  | some n => match s.launchOf (gidOf s.cur) with
    | none => false
    | some id => (s.launch id).portOn n
where portIndex (c : BitVec 8) : Option Nat :=
  if 224 ≤ c.toNat && c.toNat < 232 then some (c.toNat - 224) else none

/-- A code may be taken as a pair (R161). -/
def pairOk (c : BitVec 8) : Bool :=
  let n := c.toNat
  if n < 224 then n % 2 == 0 else (235 ≤ n && n ≤ 237) || 240 ≤ n

/-- A destination may be taken as a pair: an even register, or `bp`. -/
def pairDstOk (d : BitVec 8) : Bool := if d.toNat < 224 then d.toNat % 2 == 0 else d.toNat == 232

/-- A lane reads a poisoned element of a register (R361). -/
def Vregs.poisonedLane (r : Vregs) (regs : List Nat) (lanes : Lanes) : Option (Nat × Nat) :=
  (regs.flatMap fun q => (lanesList (SMap.get r.poison q 0 &&& lanes)).map fun l => (q, l)).head?

/-- The poisoned elements of some registers in some lanes are consumed: their fault has been raised (R361). -/
def Vregs.consume (r : Vregs) (regs : List Nat) (lanes : Lanes) : Vregs :=
  { r with consumed := regs.foldl (fun m q =>
      let x := SMap.get r.poison q 0 &&& lanes
      if x = 0 then m else SMap.put m q (SMap.get m q 0 ||| x)) r.consumed }

/-- The data-integrity fault of a poisoned register element (R361). -/
def State.needClean (s : State) (regs : List Nat) (lanes : Lanes) : Except Exc Unit :=
  match s.grp.regs.poisonedLane regs lanes with
  | none => .ok ()
  | some (q, l) =>
    .error ((s.setGrp { s.grp with regs := s.grp.regs.consume regs lanes }).trapAt 11
      (BitVec.ofNat 64 (0xC000000000000000 + q * 256 + l)) (BitVec.ofNat 64 (0x6FFF * 2 ^ 48)))

/-! ## Formats -/

/-- The detail word of a format-entry fault (R77). -/
def fmtDetail (check reason idx : Nat) : Dword := BitVec.ofNat 64 (check * 256 + reason * 32 + idx)

/-- The format-entry fault of index k. -/
def State.fmtFault (s : State) (reason k : Nat) (check : Nat := 0) : Exc := s.trapAt 3 (fmtDetail check reason k)

/-- Entry k, programmed and of an accepted kind (R77, R162 step 3). -/
def State.useFmt (s : State) (k : Nat) (kinds : List Nat) : Except Exc Fmt :=
  let r := s.fmtHere k
  if !bitAt r 63 then .error (s.fmtFault 0 k)
  else if kinds.contains (fmtOf r).kind then .ok (fmtOf r)
  else .error (s.fmtFault 1 k)

/-- SF of the mode in use. -/
def State.sf (s : State) (kinds : List Nat) : Except Exc Fmt := s.useFmt (mdSF s.mode) kinds
/-- DF of the mode in use. -/
def State.df (s : State) (kinds : List Nat) : Except Exc Fmt := s.useFmt (mdDF s.mode) kinds

/-- A width rule of R163 that is broken is reason 1 on DF (R162 step 3). -/
def State.needWidth (s : State) (c : Bool) : Except Exc Unit :=
  guardRes c (s.fmtFault 1 (mdDF s.mode))

/-- RM = 5 is illegal in what rounds (R38). -/
def State.needRound (s : State) : Except Exc Unit := guardRes (mdRM s.mode != 5) s.illegal

/-! ## Writing -/

/-- Pushes a result on the bypass (R189). -/
def Vregs.push (r : Vregs) (lo : List Word) (hi : Option (List Word)) : Vregs :=
  { r with
    bp := [(0, lo), (1, r.bypass 0), (2, r.bypass 1)]
    bpHigh := (match hi with | some h => [(0, h)] | none => []) ++
      (match SMap.find r.bpHigh 0 with | some h => [(1, h)] | none => []) ++
      (match SMap.find r.bpHigh 1 with | some h => [(2, h)] | none => []) }

/-- Writes a destination in the lanes of a set: the lane word, or the pair for `width` 64; `bp` writes the bypass only, in
the lanes of ACTIVE, zero elsewhere (R35, R161, R189). DESIGN CHOICE (log 84): so too under `vput` (R175) and under `vcvt`
into a block (R177), which write without regard to ACTIVE elsewhere. -/
def Vregs.writeDst (r : Vregs) (d : BitVec 8) (width : Nat) (active lanes : Lanes) (f : Nat → Nat) (push : Bool) : Vregs :=
  let lo (l : Nat) : Word := BitVec.ofNat 32 (f l)
  let hi (l : Nat) : Word := BitVec.ofNat 32 (f l / 2 ^ 32)
  let only (g : Nat → Word) : List Word := (List.range 64).map fun l => if (lanes &&& active).getLsbD l then g l else 0
  if d.toNat = 232 then r.push (only lo) (if width = 64 then some (only hi) else none)
  else
    let r1 := r.write d.toNat lanes lo
    let r2 := if width = 64 then r1.write (d.toNat + 1) lanes hi else r1
    if push then r2.push (r2.value d.toNat) (if width = 64 then some (r2.value (d.toNat + 1)) else none) else r2

/-! ## The shape of a vector instruction (R161, R162) -/

/-- Operand limits, claims, interlocks and poison of a vector instruction, steps 4 and 5 of R162: sources with their
widths, destination registers, scalar registers, and the lanes whose sources are read. -/
def State.vcheck (s : State) (srcs : List (BitVec 8 × Nat)) (d : Option (BitVec 8 × Nat)) (ss : List (BitVec 8))
    (lanes : Lanes) : Except Exc Unit := do
  guardRes (srcs.all fun x => s.portOk x.1 && (x.2 != 64 || pairOk x.1)) s.illegal
  guardRes (match d with | some x => x.2 != 64 || pairDstOk x.1 | none => true) s.illegal
  let rs := srcs.flatMap fun x => regsOf x.1 x.2
  let rd := match d with | some x => regsOf x.1 x.2 | none => []
  s.needRegs (rs ++ rd)
  s.need (ss ++ srcs.flatMap (fun x => sregsOf x.1) ++ s.guardRegs) (rs ++ rd)
  s.needClean rs lanes

/-- The reads of forward ports by some lanes are noted: what they needed may be released (R141), and they read from what
the publishes carry (R266). -/
def State.notePorts (s : State) (cs : List (BitVec 8)) (lanes : Lanes) : State :=
  let ns := (cs.filterMap fun c => if 224 ≤ c.toNat && c.toNat < 232 then some (c.toNat - 224) else none).dedup
  match ns, s.launchOf (gidOf s.cur) with
  | [], _ => s
  | _, none => s
  | ns, some id =>
    let g := s.grp
    let l := s.launch id
    let s1 := (lanesList lanes).foldl (fun s lane => ns.foldl (fun s n =>
      match l.readGen n (g.wid lane).toNat with
      | some k => s.readRels (s.laneWho lane) (pubKey id n (predOf (g.wid lane).toNat (l.portK n)) k)
      | none => s) s) s
    s1.setLaunch id ((lanesList lanes).foldl (fun l lane => ns.foldl (fun l n =>
      let w := (g.wid lane).toNat
      let x := l.item n w
      (l.setItem n w { x with read := max x.read (x.pubs + 1) }).releaseItem n (predOf w (l.portK n))) l) l)

/-- Writes a result and pushes it. -/
def State.vwrite (s : State) (d : BitVec 8) (width : Nat) (lanes : Lanes) (f : Nat → Nat) (push : Bool := true) : State :=
  let g := s.grp
  s.setGrp { g with regs := g.regs.writeDst d width s.acting lanes f push }

end Sys2Proof.Machine
end

