-- ==== Sys2Proof/Machine/Barriers.lean ====
section
/-! DEFINITION. Barrier objects and fences (R239 to R249). -/

namespace Sys2Proof.Machine

open Host (Outcome)

/-- The fields of a barrier object (R239). -/
structure Bar where
  phase : Nat
  exparr : Nat
  arr : Nat
  expbytes : Nat
  landed : Nat
  armed : Bool
  fault : Bool
  ext : Bool
  bbit : Nat
  bcore : Nat
  ben : Bool
deriving DecidableEq, Repr

/-- An object as its four words hold it. -/
def Bar.ofNat (x : Nat) : Bar :=
  { phase := x % 2 ^ 32, exparr := x / 2 ^ 32 % 2 ^ 16, arr := x / 2 ^ 48 % 2 ^ 16,
    expbytes := x / 2 ^ 64 % 2 ^ 48, landed := x / 2 ^ 128 % 2 ^ 48,
    armed := x / 2 ^ 192 % 2 = 1, fault := x / 2 ^ 193 % 2 = 1, ext := x / 2 ^ 194 % 2 = 1,
    bbit := x / 2 ^ 208 % 2 ^ 8, bcore := x / 2 ^ 216 % 2 ^ 7, ben := x / 2 ^ 223 % 2 = 1 }

def Bar.toNat (b : Bar) : Nat :=
  b.phase % 2 ^ 32 + b.exparr * 2 ^ 32 + b.arr * 2 ^ 48 + b.expbytes * 2 ^ 64 + b.landed * 2 ^ 128
    + b.armed.toNat * 2 ^ 192 + b.fault.toNat * 2 ^ 193 + b.ext.toNat * 2 ^ 194 + b.bbit * 2 ^ 208 + b.bcore * 2 ^ 216
    + b.ben.toNat * 2 ^ 223

/-- OPEN (R241). -/
def Bar.isOpen (b : Bar) : Bool := b.armed && !b.fault

/-- The completion test: the object after it, and whether its phase completed (R241). -/
def Bar.test (b : Bar) : Bar × Bool :=
  if b.isOpen && b.arr == b.exparr && b.landed == b.expbytes then
    ({ b with phase := (b.phase + 1) % 2 ^ 32, arr := 0, landed := 0 }, true)
  else (b, false)

/-- done(p) (R244). -/
def Bar.done (b : Bar) (p : Nat) : Bool :=
  let x := (b.phase + 2 ^ 32 - p % 2 ^ 32) % 2 ^ 32
  decide (1 ≤ x) && decide (x ≤ 2 ^ 31)

def State.bar (s : State) (key : Nat) : Bar := Bar.ofNat (s.bytesAt key 32)

/-- The detail of a barrier-mismatch fault (R246). -/
def barDetail (b : Bar) (believed reason : Nat) : Dword :=
  BitVec.ofNat 64 ((if b.armed then b.exparr else 0) * 2 ^ 24 + believed * 2 ^ 8 + reason)

/-- A slot that waits at the object: released with PHASE as it stands, or due to fault, once its wait has ended (R241,
R244). -/
def Slot.barTold (x : Slot) (key : Nat) (b : Bar) : Slot :=
  match x.block with
  | some (.barrier k p) =>
    if k ≠ key then x
    else if b.done p.toNat then { x with block := some (.barDone key (BitVec.ofNat 64 b.phase)) }
    else if b.armed && b.fault then { x with block := some (.barFault key (barDetail b 0 4)) }
    else x
  | _ => x

/-- After a change to an object its home tests every wait on it (R241, R244). -/
def State.barTell (s : State) (key : Nat) (b : Bar) : State :=
  { s with groups := s.groups.map fun e =>
      (e.1, { e.2 with slot0 := e.2.slot0.barTold key b, slot1 := e.2.slot1.barTold key b }) }

/-- An object is written at its home. -/
def State.barPut (s : State) (key : Nat) (b : Bar) (origin : BitVec 16) : State :=
  (s.putBytes key 32 b.toNat origin).barTell key b

/-- The object is written back after the completion test; a completed phase sets its board bit (R241). DESIGN CHOICE (log
87): whatever context the window is allotted to, or none. -/
def State.barCommit (s : State) (key : Nat) (b : Bar) (origin : BitVec 16) : State :=
  let (b', completed) := b.test
  let s1 := s.barPut key b' origin
  if completed && b'.ben then
    let place := key - sliceBase
    s1.setBits (coreKey (place / 2 ^ 30) (place / 2 ^ 27 % 8) b'.bcore) (b'.bbit / 64) (1#64 <<< (b'.bbit % 64))
      (s1.message (barMsg key b.phase))
  else s1

/-- A credit of landed bytes by a workgroup, or by none (R241, R243). -/
def State.credit (s : State) (key n : Nat) (lander : Option Nat) (know : SMap Nat) (origin : BitVec 16) : State :=
  let b := s.bar key
  let outside := lander.isNone || SMap.find s.armers key != lander
  let b := if b.armed && outside then { b with ext := true } else b
  let s := s.post (barMsg key b.phase) know
  let sum := min (b.landed + n) (2 ^ 48 - 1)
  if b.armed && (b.fault || decide (b.expbytes < b.landed + n)) then
    s.barPut key { b with landed := sum, fault := true } origin
  else s.barCommit key { b with landed := sum } origin

/-! ## The barrier instructions (R242 to R244) -/

/-- The address checks of R242. -/
def State.barAccess (s : State) (va : Dword) : Except Exc (Nat × State) :=
  if va.toNat % 32 ≠ 0 then .error (s.trapAt 5 va)
  else if !isAlias va && !isWindow va then .error (s.trapAt 6 va)
  else do
    let (l, s1) ← s.scalarAccess va 32 32 .rmw true
    s1.cleanAt l va 32
    .ok (l.key, s1)

/-- The binding word is acceptable (R242). -/
def bindingWordOk (w : Dword) : Bool := w.toNat / 2 ^ 32 == 0 && bits w 15 0 == 0 && decide (bits w 30 24 < 88)

def execBarinit (d a b : BitVec 8) (s : State) : Outcome State Fault Refusal :=
  finish do
    s.need [d, a, b]
    s.atomicStep (s.readS a) d fun s => do
    let (key, s1) ← s.barAccess (s.readS a)
    let x := s1.bar key
    let exparr := bits (s.readS b) 15 0
    let expbytes := bits (s.readS b) 63 16
    let w := s.readS d
    if exparr = 0 && expbytes = 0 then .ok ((s1.writeS d 1).retire)
    else if !bindingWordOk w then .ok ((s1.writeS d 2).retire)
    else if x.isOpen && (x.arr != 0 || x.landed != 0) then .ok ((s1.writeS d 3).retire)
    else
      let y : Bar := { x with exparr := exparr, expbytes := expbytes, ben := bitAt w 31, bcore := bits w 30 24,
                              bbit := bits w 23 16, armed := true, fault := false, ext := false }
      let y := if x.armed then { y with arr := 0, landed := 0 } else y
      let s2 := { s1 with armers := SMap.put s1.armers key s1.grp.wg }
      let s3 := if y.expbytes < y.landed then s2.barPut key { y with fault := true } s.scalarOrigin
        else s2.barCommit key y s.scalarOrigin
      .ok ((s3.writeS d 0).retire)

/-- Why an arrival with a believed count is not accepted (R241). -/
def Bar.refuses (b : Bar) (believed : Nat) : Option Nat :=
  if !b.armed then some 2
  else if b.fault then some 4
  else if believed ≠ b.exparr then some 1
  else if b.arr = b.exparr then some 3
  else none

def execBararr (d a b : BitVec 8) (s : State) : Outcome State Fault Refusal :=
  finish do
    s.need [d, a, b]
    s.atomicStep (s.readS a) d fun s => do
    let (key, s1) ← s.barAccess (s.readS a)
    let x := s1.bar key
    let believed := bits (s.readS b) 15 0
    match x.refuses believed with
    | some r => .error (s.trapAt 8 (barDetail x believed r) (s.readS a))
    | none =>
      let outside := SMap.find s1.armers key != some s1.grp.wg
      let s2 := s1.post (barMsg key x.phase) s1.slotKnowledge
      let s3 := s2.barCommit key { x with arr := (x.arr + 1) % 2 ^ 16, ext := x.ext || outside } s.scalarOrigin
      .ok ((s3.writeS d (BitVec.ofNat 64 x.phase)).retire)

/-- What a `barwait` at an object comes to: its wait ended while it waited, with PHASE as it then stood or in a fault, or
it ends or waits on the object as it stands. -/
def State.barVerdict (s : State) (key p : Nat) (x : Bar) : Except (Option Dword) Dword :=
  match (s.slot s.cur).block with
  | some (.barDone k ph) => if k = key then .ok ph else barNow p x
  | some (.barFault k det) => if k = key then .error (some det) else barNow p x
  | _ => barNow p x
where barNow (p : Nat) (x : Bar) : Except (Option Dword) Dword :=
  if x.done p then .ok (BitVec.ofNat 64 x.phase)
  else if x.armed && x.fault then .error (some (barDetail x 0 4)) else .error none

/-- `barwait` (R244). -/
def execBarwait (d a b : BitVec 8) (s : State) : Outcome State Fault Refusal :=
  finish do
    s.need [d, a, b]
    s.atomicStep (s.readS a) d fun s => do
    let (key, s1) ← s.barAccess (s.readS a)
    let p := bits (s.readS b) 31 0
    -- the completion test that follows every operation on the object (R241)
    let ends := (s1.bar key).test.2
    let s1 := if ends then s1.barCommit key (s1.bar key) s.scalarOrigin else s1
    match s1.barVerdict key p (s1.bar key) with
    | .ok phase => .ok (((s1.learnSlot (s1.message (barMsg key p))).writeS d phase).retire)
    | .error (some det) => .error (s1.trapAt 8 det (s.readS a))
    | .error none => .error (.wait (.barrier key (BitVec.ofNat 64 p)) (if ends then s1 else s))

/-! ## Fences (R247, R248) -/

/-- A load, or an atomic that returns old codes, of the issuing slot is in flight. -/
def State.readInFlight (s : State) : Bool :=
  s.ops.any fun e => e.2.agent == s.cur && (!e.2.pendS.isEmpty || !e.2.pendV.isEmpty)

/-- `fence`: waits for the slot's earlier accesses, then takes its place in happens-before. -/
def execFence (c : BitVec 8) (s : State) : Outcome State Fault Refusal :=
  finish do
    let kind := c.toNat / 16 % 4
    let scope := c.toNat % 8
    guardRes (decide (c.toNat < 64) && !c.getLsbD 3 && decide (scope < 6)) s.illegal
    guardRes (!(if kind = 0 then s.readInFlight else s.accessInFlight)) (.wait .drain s)
    let s1 := if kind = 1 then s else s.acquireSlot scope
    let s2 := if kind = 3 then s1.slotWhos.foldl (fun s w => s.scFence w scope) s1 else s1
    let s3 := if kind = 0 then s2 else s2.releaseSlot scope
    .ok s3.retire

/-- `gfence`: waits for the earlier accesses of both slots; what they did happens before what the slot does next. -/
def execGfence (s : State) : Outcome State Fault Refusal :=
  finish do
    guardRes (!s.groupAccessInFlight) (.wait .drain s)
    let all := s.groupWhos (gidOf s.cur)
    let s1 := s.learnSlot (s.groupKnowledge (gidOf s.cur))
    let s2 := all.foldl (fun s w => (s.acquire w 0).release w 0) s1
    .ok s2.retire

end Sys2Proof.Machine
end

