-- ==== Sys2Proof/Machine/Vector.lean ====
section
/-! DEFINITION. Rows 0x4 to 0x6: vector integer, floating-point, compare, move and conversion instructions (R160 to R178). -/

namespace Sys2Proof.Machine

open Host (Outcome)

/-- The lane units of a result whose elements are all `width` wide: element j from the operands' elements j. -/
def State.elementwise (s : State) (srcs : List (BitVec 8)) (width : Nat) (f : List Nat → Nat) (lane : Nat) : Nat :=
  let units := srcs.map fun c => s.unit c width lane
  joinElems width ((List.range (if width = 64 then 1 else 32 / width)).map fun j => f (units.map fun u => subElem width u j))

/-- The end of a vector instruction with a vector destination (R161): written, pushed, its port reads noted. -/
def State.vdone (s : State) (d : BitVec 8) (width : Nat) (srcs : List (BitVec 8)) (f : Nat → Nat) (words : Nat := 1) :
    State :=
  let lanes := s.acting
  ((s.vwrite d width lanes f).notePorts srcs lanes).retire words

/-- An instruction whose operands and result have one container width. -/
def vecSame (d : BitVec 8) (srcs : List (BitVec 8)) (width : Nat) (f : List Nat → Nat) (s : State) : Res := do
  s.vcheck (srcs.map fun c => (c, width)) (some (d, width)) [] s.acting
  .ok (s.vdone d width srcs (s.elementwise srcs width f))

/-! ## Row 0x4 (R163 to R166) -/

/-- The integer instructions on values: SF and DF of kinds 1 and 2, one container width. -/
def vecInt (d : BitVec 8) (srcs : List (BitVec 8)) (f : Fmt → ModeWord → List Int → Nat) (s : State) :
    Outcome State Fault Refusal :=
  finish do
    let sf ← s.sf [1, 2]
    let df ← s.df [1, 2]
    s.needWidth (sf.c == df.c)
    vecSame d srcs sf.c (fun l => f df s.mode (l.map fun c => (readCode sf c).toInt)) s

/-- The common end: write_int of an integer function of two values. -/
def vecInt2 (op : Int → Int → Int) (d a b : BitVec 8) (s : State) : Outcome State Fault Refusal :=
  vecInt d [a, b] (fun df md l => writeInt df (mdIS md) (op (l.getD 0 0) (l.getD 1 0))) s

def execVadd (d a b : BitVec 8) (s : State) : Outcome State Fault Refusal := vecInt2 (· + ·) d a b s
def execVsub (d a b : BitVec 8) (s : State) : Outcome State Fault Refusal := vecInt2 (· - ·) d a b s
def execVmul (d a b : BitVec 8) (s : State) : Outcome State Fault Refusal := vecInt2 (· * ·) d a b s
def execVmin (d a b : BitVec 8) (s : State) : Outcome State Fault Refusal := vecInt2 min d a b s
def execVmax (d a b : BitVec 8) (s : State) : Outcome State Fault Refusal := vecInt2 max d a b s
def execVmad (d a b : BitVec 8) (s : State) : Outcome State Fault Refusal :=
  vecInt d [a, b, d] (fun df md l => writeInt df (mdIS md) (l.getD 0 0 * l.getD 1 0 + l.getD 2 0)) s
/-- Quotient by zero: all ones in W(DF) bits (R166). -/
def execVdiv (d a b : BitVec 8) (s : State) : Outcome State Fault Refusal :=
  vecInt d [a, b] (fun df md l =>
    if l.getD 1 0 = 0 then 2 ^ df.w - 1 else writeInt df (mdIS md) ((l.getD 0 0).tdiv (l.getD 1 0))) s
def execVrem (d a b : BitVec 8) (s : State) : Outcome State Fault Refusal :=
  vecInt2 (fun x y => if y = 0 then x else x.tmod y) d a b s

/-- `vmulh`: bits 2W−1:W of the exact product (R165). -/
def execVmulh (d a b : BitVec 8) (s : State) : Outcome State Fault Refusal :=
  finish do
    let sf ← s.sf [1]
    let df ← s.df [1]
    s.needWidth (sf.c == df.c && sf.w == df.w)
    vecSame d [a, b] sf.c (fun l =>
      ((readCode sf (l.getD 0 0)).toInt * (readCode sf (l.getD 1 0)).toInt / ((2 ^ sf.w : Nat) : Int) % ((2 ^ sf.w : Nat) : Int)).toNat) s

/-- The bitwise instructions on raw codes (R165). -/
def vecBits (d : BitVec 8) (srcs : List (BitVec 8)) (kinds : List Nat) (f : Fmt → List Nat → Nat) (s : State) :
    Outcome State Fault Refusal :=
  finish do
    let sf ← s.sf kinds
    vecSame d srcs sf.c (fun l => f sf (l.map fun c => c % 2 ^ sf.w)) s

def execVand (d a b : BitVec 8) (s : State) : Outcome State Fault Refusal :=
  vecBits d [a, b] [0, 1, 2] (fun _ l => l.getD 0 0 &&& l.getD 1 0) s
def execVor (d a b : BitVec 8) (s : State) : Outcome State Fault Refusal :=
  vecBits d [a, b] [0, 1, 2] (fun _ l => l.getD 0 0 ||| l.getD 1 0) s
def execVxor (d a b : BitVec 8) (s : State) : Outcome State Fault Refusal :=
  vecBits d [a, b] [0, 1, 2] (fun _ l => l.getD 0 0 ^^^ l.getD 1 0) s
/-- A shift count is bits 5:0 of b's code (R165). -/
def execVshl (d a b : BitVec 8) (s : State) : Outcome State Fault Refusal :=
  vecBits d [a, b] [1] (fun f l => if f.w ≤ l.getD 1 0 % 64 then 0 else l.getD 0 0 * 2 ^ (l.getD 1 0 % 64) % 2 ^ f.w) s
def execVshr (d a b : BitVec 8) (s : State) : Outcome State Fault Refusal :=
  vecBits d [a, b] [1] (fun f l =>
    let n := min (l.getD 1 0 % 64) f.w
    let fill := if f.sign && decide (2 ^ (f.w - 1) ≤ l.getD 0 0) then 2 ^ f.w - 2 ^ (f.w - n) else 0
    l.getD 0 0 / 2 ^ n + fill) s
/-- Number of one bits below bit w. -/
def natOnes (x : Nat) (w : Nat) : Nat := ((List.range w).filter fun i => x.testBit i).length
def execVpopc (d a : BitVec 8) (s : State) : Outcome State Fault Refusal :=
  vecBits d [a] [0, 1, 2] (fun f l => natOnes (l.getD 0 0) f.w % 2 ^ f.w) s
def execVclz (d a : BitVec 8) (s : State) : Outcome State Fault Refusal :=
  vecBits d [a] [0, 1, 2] (fun f l => (if l.getD 0 0 = 0 then f.w else f.w - 1 - (l.getD 0 0).log2) % 2 ^ f.w) s

/-! ## Row 0x5 (R167 to R171) -/

/-- Row 0x5 but `vfdp2`: RM = 5 illegal, SF and DF floats of one width; the result's code from the operands' values. -/
def vecFloat (d : BitVec 8) (srcs : List (BitVec 8)) (f : Fmt → ModeWord → List Val → Nat) (s : State) :
    Outcome State Fault Refusal :=
  finish do
    s.needRound
    let sf ← s.sf [0]
    let df ← s.df [0]
    s.needWidth (sf.c == df.c)
    vecSame d srcs sf.c (fun l => f df s.mode (l.map (readOperand sf))) s

/-- Rounded once by the mode. -/
def roundMode (df : Fmt) (md : ModeWord) (x : Val) : Nat := roundTo df (mdRM md) (mdOV md) x

/-- Operand i of a list of values. -/
def argVal (l : List Val) (i : Nat) : Val := l.getD i Val.newNan

def vecFloatN (srcs : List (BitVec 8)) (op : Nat → List Val → Val) (d : BitVec 8) (s : State) :
    Outcome State Fault Refusal :=
  vecFloat d srcs (fun df md l => roundMode df md (op (mdRM md) l)) s

/-- x − y, a NaN operand keeping its sign (R81). -/
def subVal (rm : Nat) (x y : Val) : Val := addVal rm x y.negate

/-- z − x × y with one rounding, NaNs in the order x, y, z. -/
def fmsVal (rm : Nat) (x y z : Val) : Val :=
  match firstNan [x, y, z] with
  | some v => v
  | none => match mulVal x y with
    | .nan n p w => .nan n p w
    | m => addVal rm z m.negate

/-- |x|; a NaN with sign 0 (R167). -/
def absVal : Val → Val
  | .nan _ p w => .nan false p w
  | .inf _ => .inf false
  | .fin _ m e x => .fin false m e x

def execVfadd (d a b : BitVec 8) (s : State) : Outcome State Fault Refusal :=
  vecFloatN [a, b] (fun rm l => addVal rm (argVal l 0) (argVal l 1)) d s
def execVfsub (d a b : BitVec 8) (s : State) : Outcome State Fault Refusal :=
  vecFloatN [a, b] (fun rm l => subVal rm (argVal l 0) (argVal l 1)) d s
def execVfmul (d a b : BitVec 8) (s : State) : Outcome State Fault Refusal :=
  vecFloatN [a, b] (fun _ l => mulVal (argVal l 0) (argVal l 1)) d s
def execVffma (d a b : BitVec 8) (s : State) : Outcome State Fault Refusal :=
  vecFloatN [a, b, d] (fun rm l => fmaVal rm (argVal l 0) (argVal l 1) (argVal l 2)) d s
def execVffms (d a b : BitVec 8) (s : State) : Outcome State Fault Refusal :=
  vecFloatN [a, b, d] (fun rm l => fmsVal rm (argVal l 0) (argVal l 1) (argVal l 2)) d s
def execVfdiv (d a b : BitVec 8) (s : State) : Outcome State Fault Refusal :=
  vecFloatN [a, b] (fun _ l => divVal (argVal l 0) (argVal l 1)) d s
def execVfsqrt (d a : BitVec 8) (s : State) : Outcome State Fault Refusal :=
  vecFloatN [a] (fun _ l => sqrtVal (argVal l 0)) d s
def execVfmin (d a b : BitVec 8) (s : State) : Outcome State Fault Refusal :=
  vecFloatN [a, b] (fun _ l => minMaxVal false (argVal l 0) (argVal l 1)) d s
def execVfmax (d a b : BitVec 8) (s : State) : Outcome State Fault Refusal :=
  vecFloatN [a, b] (fun _ l => minMaxVal true (argVal l 0) (argVal l 1)) d s
def execVfabs (d a : BitVec 8) (s : State) : Outcome State Fault Refusal :=
  vecFloatN [a] (fun _ l => absVal (argVal l 0)) d s

/-- An element function: its exact results rounded by RM, the others to nearest (R112, R171). -/
def elemFun (df : Fmt) (md : ModeWord) (x : Val × Bool) : Nat :=
  if x.2 then roundMode df md x.1 else roundNearest df (mdRM md) (mdOV md) x.1

def execVfexp2 (d a : BitVec 8) (s : State) : Outcome State Fault Refusal :=
  vecFloat d [a] (fun df md l => elemFun df md (exp2Val (argVal l 0))) s
/-- An exact log2 is an integer, and still the nearest value when DF cannot hold it (R171). DESIGN CHOICE (log 82): one
that lies midway between two values of DF, as 17 does with FW = 3, takes the even significand whatever RM. -/
def execVflog2 (d a : BitVec 8) (s : State) : Outcome State Fault Refusal :=
  vecFloat d [a] (fun df md l => roundNearest df (mdRM md) (mdOV md) (log2Val (argVal l 0)).1) s
def execVfrcp (d a : BitVec 8) (s : State) : Outcome State Fault Refusal :=
  vecFloat d [a] (fun df md l => roundNearest df (mdRM md) (mdOV md) (rcpVal (argVal l 0))) s
def execVfrsq (d a : BitVec 8) (s : State) : Outcome State Fault Refusal :=
  vecFloat d [a] (fun df md l => roundNearest df (mdRM md) (mdOV md) (rsqVal (argVal l 0))) s

/-- x × 2^n. -/
def scaleVal (x : Val) (n : Int) : Val :=
  match x with
  | .fin neg m e more => .fin neg m (if m = 0 then 0 else e + n) more
  | v => v

/-- `vfscale`: b's container code is a signed integer (R170). -/
def execVfscale (d a b : BitVec 8) (s : State) : Outcome State Fault Refusal :=
  finish do
    s.needRound
    let sf ← s.sf [0]
    let df ← s.df [0]
    s.needWidth (sf.c == df.c)
    vecSame d [a, b] sf.c (fun l =>
      let n := l.getD 1 0
      let i : Int := if 2 ^ (sf.c - 1) ≤ n then (n : Int) - ((2 ^ sf.c : Nat) : Int) else n
      roundMode df s.mode (scaleVal (readOperand sf (l.getD 0 0)) i)) s

/-- The dot product of two terms and an addend, one rounding (R169). -/
def dot2 (rm : Nat) (a0 b0 a1 b1 z : Val) : Val :=
  match firstNan [a0, b0, a1, b1, z] with
  | some v => v
  | none =>
    let p := mulVal a0 b0
    let q := mulVal a1 b1
    match firstNan [p, q] with
    | some v => v
    | none => addVal rm (addVal rm p q) z

/-- `vfdp2` (R169): SF at most 16 wide, DF twice as wide. -/
def execVfdp2 (d a b : BitVec 8) (s : State) : Outcome State Fault Refusal :=
  finish do
    s.needRound
    let sf ← s.sf [0]
    let df ← s.df [0]
    s.needWidth (sf.c ≤ 16 && df.c == 2 * sf.c)
    s.vcheck [(a, sf.c), (b, sf.c), (d, df.c)] (some (d, df.c)) [] s.acting
    let rd (c : BitVec 8) (lane j : Nat) : Val := readOperand sf (subElem sf.c (s.vsrc c lane).toNat j)
    .ok (s.vdone d df.c [a, b] fun lane =>
      joinElems df.c ((List.range (sf.e / 2)).map fun i =>
        roundMode df s.mode (dot2 (mdRM s.mode) (rd a lane (2 * i)) (rd b lane (2 * i)) (rd a lane (2 * i + 1))
          (rd b lane (2 * i + 1)) (readOperand df (subElem df.c (s.vsrc d lane).toNat i)))))

/-! ## Compares (R172) -/

/-- A relation of two element values: of an ordering, or of an unordered pair. -/
def vecCmp (rel : Option Ordering → Bool) (d a b : BitVec 8) (s : State) : Outcome State Fault Refusal :=
  finish do
    let sf ← s.sf [0, 1, 2]
    s.vcheck [(a, sf.c), (b, sf.c)] none [d] s.acting
    let holds (lane : Nat) : Bool := (List.range sf.e).all fun j =>
      let x := readOperand sf (subElem sf.c (s.unit a sf.c lane) j)
      let y := readOperand sf (subElem sf.c (s.unit b sf.c lane) j)
      rel (if x.isNan || y.isNan then none else some (cmpVal x y))
    let lanes := s.acting
    let m := lanesOf ((lanesList lanes).filter holds)
    .ok (((s.writeS d m).notePorts [a, b] lanes).retire)

def execVcmpeq (d a b : BitVec 8) (s : State) : Outcome State Fault Refusal := vecCmp (· == some .eq) d a b s
def execVcmpne (d a b : BitVec 8) (s : State) : Outcome State Fault Refusal := vecCmp (· != some .eq) d a b s
def execVcmplt (d a b : BitVec 8) (s : State) : Outcome State Fault Refusal := vecCmp (· == some .lt) d a b s
def execVcmple (d a b : BitVec 8) (s : State) : Outcome State Fault Refusal :=
  vecCmp (fun o => o == some .lt || o == some .eq) d a b s
def execVcmpun (d a b : BitVec 8) (s : State) : Outcome State Fault Refusal := vecCmp (· == none) d a b s

/-! ## Select, move, broadcast, immediates (R173 to R175) -/

/-- `vsel`: the old container of d, any bit of it, chooses (R173). -/
def execVsel (d a b : BitVec 8) (s : State) : Outcome State Fault Refusal :=
  finish do
    let sf ← s.sf [0, 1, 2]
    vecSame d [d, a, b] sf.c (fun l => if l.getD 0 0 ≠ 0 then l.getD 1 0 else l.getD 2 0) s

def execVmov (d a : BitVec 8) (s : State) : Outcome State Fault Refusal :=
  finish do
    let sf ← s.sf [0, 1, 2]
    s.vcheck [(a, sf.c)] (some (d, sf.c)) [] s.acting
    .ok (s.vdone d sf.c [a] fun lane => s.unit a sf.c lane)

/-- A source code is no forward port, or lane n's read of it is decided (R135). -/
def State.portDecided (s : State) (c : BitVec 8) (n : Nat) : Bool :=
  match State.portOk.portIndex c, s.launchOf (gidOf s.cur) with
  | some p, some id => ((s.launch id).portRead p (s.grp.wid n).toNat s.grp.hasWid).isSome
  | _, _ => true

/-- `vbcast`: every lane takes the unit of lane bits(s[b], 5, 0) (R173); where that is a forward port, lane n's read of
it is the one that is made. -/

def execVbcast (d a b : BitVec 8) (s : State) : Outcome State Fault Refusal :=
  finish do
    let sf ← s.sf [0, 1, 2]
    let n := bits (s.readS b) 5 0
    s.vcheck [(a, sf.c)] (some (d, sf.c)) [b] (1#64 <<< n)
    guardRes (s.portDecided a n) (.wait .ripple s)
    .ok (((s.vwrite d sf.c s.acting fun _ => s.unit a sf.c n).notePorts [a] (1#64 <<< n)).retire)

/-- `vli` (R174). -/
def execVli (d : BitVec 8) (i : BitVec 16) (s : State) : Outcome State Fault Refusal :=
  finish do
    let df ← s.df [0, 1, 2]
    s.vcheck [] (some (d, df.c)) [] 0
    let v := if df.c ≤ 16 then joinElems df.c (List.replicate df.e (i.toNat % 2 ^ df.c)) else (sext64 i).toNat
    .ok (s.vdone d df.c [] fun _ => v)

/-- `vlit` with its literal word (R174). -/
def execVlit (d : BitVec 8) (x : BitVec 32) (s : State) : Outcome State Fault Refusal :=
  finish do
    let df ← s.df [0, 1, 2]
    s.vcheck [] (some (d, df.c)) [] 0
    .ok (s.vdone d df.c [] (fun _ => if df.c = 64 then x.toNat * 2 ^ 32 else x.toNat) 2)

/-- `vget`: one lane's unit into a scalar register (R175). -/
def execVget (d a b : BitVec 8) (s : State) : Outcome State Fault Refusal :=
  finish do
    let sf ← s.sf [0, 1, 2]
    let n := bits (s.readS b) 5 0
    s.vcheck [(a, sf.c)] none [d, b] (1#64 <<< n)
    .ok (((s.writeS d (BitVec.ofNat 64 (s.unit a sf.c n))).notePorts [a] (1#64 <<< n)).retire)

/-- `vput`: one lane's unit from a scalar register; the guard plays no part (R175). -/
def execVput (d a b : BitVec 8) (s : State) : Outcome State Fault Refusal :=
  finish do
    let sf ← s.sf [0, 1, 2]
    s.vcheck [] (some (d, sf.c)) [a, b] 0
    let n := bits (s.readS b) 5 0
    .ok ((s.vwrite d sf.c (1#64 <<< n) fun _ => (s.readS a).toNat).retire)

/-! ## Conversion (R176, R177) -/

/-- `vcvt` between two non-block formats (R176). -/
def vcvtPlain (sf df : Fmt) (d a p : BitVec 8) (s : State) : Res := do
  let es := sf.e
  let ed := df.e
  guardRes (if ed < es then p.toNat < es / ed else if es < ed then p.toNat < ed / es else p == 0) s.illegal
  let keeps := es < ed
  s.vcheck ((a, sf.c) :: (if keeps then [(d, df.c)] else [])) (some (d, df.c)) [] s.acting
  .ok (s.vdone d df.c [a] fun lane =>
    let u := s.unit a sf.c lane
    let cv (j : Nat) : Nat := convert sf df s.mode (subElem sf.c u j)
    if keeps then
      let old := s.unit d df.c lane
      joinElems df.c ((List.range ed).map fun k =>
        if p.toNat * es ≤ k && k < p.toNat * es + es then cv (k - p.toNat * es) else subElem df.c old k)
    else joinElems df.c ((List.range ed).map fun j => cv (if ed < es then p.toNat * ed + j else j)))

/-- The byte stream of the blocks of 64 values, as one number (R177). -/
def blockStream (f : Fmt) (rm : Nat) (xs : List Val) : Nat :=
  let n := f.blockLen
  (List.range (64 / n)).foldl (fun acc q =>
    let (e, mus, codes) := formBlock f rm ((xs.drop (q * n)).take n)
    acc + packBlock f e mus codes * 2 ^ (8 * f.blockBytes * q)) 0

/-- `vcvt` into a block: the whole register is the stream, then zeros; unchanged when ACTIVE is empty (R177). -/
def vcvtIntoBlock (sf df : Fmt) (d a p : BitVec 8) (s : State) : Res := do
  s.needWidth (sf.c == 32)
  guardRes (p == 0) s.illegal
  s.vcheck [(a, 32)] (some (d, 32)) [] s.acting
  let lanes := s.acting
  let xs := (List.range 64).map fun l =>
    if lanes.getLsbD l then readOperand sf (s.vsrc a l).toNat else valOfInt 0
  let st := blockStream df (mdRM s.mode) xs
  .ok (((s.vwrite d 32 (if lanes = 0 then 0 else BitVec.allOnes 64) fun l => st / 2 ^ (32 * l) % 2 ^ 32).notePorts [a]
    lanes).retire)

/-- The lane words that hold the blocks of some lanes' elements (R177). -/
def blockWords (f : Fmt) (lanes : Lanes) : Lanes :=
  lanesOf ((List.range 64).filter fun w => (lanesList lanes).any fun l =>
    let q := l / f.blockLen * f.blockBytes
    decide (q < 4 * w + 4) && decide (4 * w < q + f.blockBytes))

/-- `vcvt` out of a block: element i of the stream into lane i; DF has C = 32 or is the fp64 or the i64 record (R77,
R177). -/
def vcvtFromBlock (sf df : Fmt) (d a p : BitVec 8) (s : State) : Res := do
  let r := s.fmtHere (mdDF s.mode)
  s.needWidth (df.c == 32 || r == recFp64 || r == recI64)
  guardRes (p == 0) s.illegal
  s.vcheck [(a, 32)] (some (d, df.c)) [] (blockWords sf s.acting)
  let st := joinElems 32 ((List.range 64).map fun l => (s.vsrc a l).toNat)
  let n := sf.blockLen
  .ok (s.vdone d df.c [a] fun lane =>
    convertTo df s.mode (blockElem sf (st / 2 ^ (8 * sf.blockBytes * (lane / n)) % 2 ^ (8 * sf.blockBytes)) (lane % n)))

/-- `vcvt` (R176, R177); a block on both sides is reason 1. -/
def execVcvt (d a p : BitVec 8) (s : State) : Outcome State Fault Refusal :=
  finish do
    let sf ← s.sf [0, 1, 2, 3]
    let df ← s.df [0, 1, 2, 3]
    if sf.kind = 3 && df.kind = 3 then .error (s.fmtFault 1 (mdDF s.mode))
    else if df.kind = 3 then vcvtIntoBlock sf df d a p s
    else if sf.kind = 3 then vcvtFromBlock sf df d a p s
    else vcvtPlain sf df d a p s

/-! ## Pack and unpack (R178) -/

/-- A W-bit code extended to a wider container (R178). -/
def extendCode (f : Fmt) (width c : Nat) : Nat :=
  let v := c % 2 ^ f.w
  if f.kind = 1 && f.sign && 2 ^ (f.w - 1) ≤ v then v + 2 ^ width - 2 ^ f.w else v

def execVpack (d a b : BitVec 8) (s : State) : Outcome State Fault Refusal :=
  finish do
    let sf ← s.sf [0, 1, 2]
    let df ← s.df [0, 1, 2]
    s.needWidth (df.c ≤ 16 && sf.c == 2 * df.c)
    s.vcheck [(a, sf.c), (b, sf.c)] (some (d, df.c)) [] s.acting
    let h := df.e / 2
    .ok (s.vdone d df.c [a, b] fun lane =>
      joinElems df.c ((List.range df.e).map fun j =>
        if j < h then subElem sf.c (s.vsrc a lane).toNat j else subElem sf.c (s.vsrc b lane).toNat (j - h)))

/-- `vunpkl`, `vunpkh`: the lower or upper half of a's elements, extended (R178). -/
def vecUnpack (upper : Bool) (d a : BitVec 8) (s : State) : Outcome State Fault Refusal :=
  finish do
    let sf ← s.sf [0, 1, 2]
    let df ← s.df [0, 1, 2]
    s.needWidth (sf.c ≤ 16 && df.c == 2 * sf.c)
    s.vcheck [(a, sf.c)] (some (d, df.c)) [] s.acting
    let h := sf.e / 2
    .ok (s.vdone d df.c [a] fun lane =>
      joinElems df.c ((List.range h).map fun j =>
        extendCode sf df.c (subElem sf.c (s.vsrc a lane).toNat (if upper then j + h else j))))

def execVunpkl (d a : BitVec 8) (s : State) : Outcome State Fault Refusal := vecUnpack false d a s
def execVunpkh (d a : BitVec 8) (s : State) : Outcome State Fault Refusal := vecUnpack true d a s

end Sys2Proof.Machine
end

