-- ==== Sys2Proof/Machine/VectorMem.lean ====
section
/-! DEFINITION. Row 0x9: vector loads, stores and prefetch (R225 to R230), but for the handle forms. -/

namespace Sys2Proof.Machine

open Host (Outcome)

/-! ## One lane's access -/

/-- The lane of an operation, as an agent. -/
def State.opWho (s : State) (o : Op) (lane : Nat) : Who :=
  match o.agent with
  | .slot g k => { s.groupWho g k with kind := .lane, lane := lane, pc := o.pc, inst := o.name }
  | .sys p d c => { kind := .core, pkg := p, die := d, core := c, ctx := s.ctxOf o.agent, pc := o.pc, inst := o.name }

/-- Translation of one access; a collective's at its peer, in the issuing context, by window addresses of the peer and
by pages (R392). -/
def State.reqXlate (s : State) (o : Op) (r : LaneReq) (k : AccKind) : Xlat × State :=
  let w := s.opWho o r.lane
  match o.kind with
  | .collective _ _ _ =>
    if !s.listed w.pkg r.peer || (isWindow r.va && decide (r.va.toNat % 2 ^ 40 / 2 ^ 30 ≠ r.peer)) then (.bad, s)
    else s.xlate { w with kind := .engine, pkg := r.peer } r.va k
  | _ => s.xlate w r.va k

/-- Accesses translated in order: those with a home, those with a missing or permission outcome; an unresolvable
address ends it (R216, R219). -/
def State.locate (s : State) (o : Op) (k : AccKind) :
    List LaneReq → Except Dword (List (LaneReq × Loc) × List (LaneReq × Nat) × State)
  | [] => .ok ([], [], s)
  | r :: rs =>
    match s.reqXlate o r k with
    | (.bad, _) => .error r.va
    | (.miss c, s1) => match s1.locate o k rs with
      | .ok (xs, ys, s2) => .ok (xs, (r, c) :: ys, s2)
      | .error e => .error e
    | (.at l, s1) => match s1.locate o k rs with
      | .ok (xs, ys, s2) => .ok ((r, l) :: xs, ys, s2)
      | .error e => .error e

/-- The words a load of n bytes leaves in a lane from a register on. -/
def fillWords (r : LaneReq) (v : Nat) : List (Nat × Nat × Word) :=
  if r.width ≠ 0 then [(r.reg, r.lane, BitVec.ofNat 32 (v / 2 ^ r.bit % 2 ^ r.width))] else
  (List.range (max 1 (r.n / 4))).map fun i => (r.reg + i, r.lane, BitVec.ofNat 32 (v / 2 ^ (32 * i)))

/-- The bytes a store leaves where an element is narrower than a byte (R328). -/
def LaneReq.merged (r : LaneReq) (old : Nat) : Nat :=
  if r.width = 0 then r.data
  else old - old / 2 ^ r.bit % 2 ^ r.width * 2 ^ r.bit + r.data % 2 ^ r.width * 2 ^ r.bit

/-- The bits of memory a store of `r` at a key names: its bytes, or its element below a byte. -/
def LaneReq.marks (r : LaneReq) (key : Nat) : List Nat :=
  if r.width = 0 then (List.range r.n).map fun i => (key + i) * 8 else [key * 8 + r.bit]

/-- The place of an access among those of its instruction: higher lanes, then later elements, come later (R212). -/
def LaneReq.place (r : LaneReq) : Nat := r.lane * 256 + r.reg

/-- A later access of the instruction has written this bit address already (R212). -/
def Op.overtaken (o : Op) (r : LaneReq) (m : Nat) : Bool := o.stored.any fun e => e.1 == m && decide (r.place < e.2)

/-- The bytes at a store's home after it: those that a later access of the instruction has written stay (R212). -/
def Op.storeBytes (o : Op) (r : LaneReq) (key old : Nat) : Nat :=
  if r.width ≠ 0 then (if o.overtaken r (key * 8 + r.bit) then old else r.merged old)
  else if o.stored.isEmpty then r.data
  else ((List.range r.n).map fun i =>
    (if o.overtaken r ((key + i) * 8) then old else r.data) / 256 ^ i % 256 * 256 ^ i).sum

/-- A store that waits for more of its accesses keeps what it has written (R212). -/
def Op.noted (o : Op) (here : List (LaneReq × Loc)) : Op :=
  match o.kind with
  | .store | .collective 0 _ _ =>
    { o with stored := o.stored ++ here.flatMap fun x => (x.1.marks x.2.key).map fun m => (m, x.1.place) }
  | _ => o

/-- The failing lane of lower number (R224). -/
def lowerBad (a : Option (Nat × Dword × Dword)) (lane : Nat) (addr det2 : Dword) : Option (Nat × Dword × Dword) :=
  match a with
  | some x => if x.1 ≤ lane then a else some (lane, addr, det2)
  | none => some (lane, addr, det2)

/-- Performs one access of a load or store at its home; on a race, the access it meets (R224, R262). -/
def State.performLane (s : State) (o : Op) (r : LaneReq) (l : Loc) : Except Access (Op × State) :=
  let w := s.opWho o r.lane
  let done := o.done ||| (1#64 <<< r.lane)
  let o := { o with far := o.far || w.far l.key }
  match o.kind with
  | .store =>
    match s.raceAccess w l r.n 1 false with
    | .error x => .error x
    | .ok s1 =>
      .ok ({ o with done := done },
        s1.putBytes l.key r.n (o.storeBytes r l.key (s1.bytesAt l.key r.n)) (originOf 0 w.die w.core))
  | _ =>
    match s.raceAccess w l r.n 0 false with
    | .error x => .error x
    | .ok s1 =>
      let bad := if s1.poisoned l.key r.n then lowerBad o.bad r.lane (granuleVA r.va) (s1.integrityDetail l) else o.bad
      .ok ({ o with done := done, bad := bad, fills := o.fills ++ fillWords r (s1.bytesAt l.key r.n) }, s1)

/-- Performs accesses in order; on a race, the access that met it and what was done before. -/
def State.performAll (s : State) (o : Op) : List (LaneReq × Loc) → Except (LaneReq × Access × Op × State) (Op × State)
  | [] => .ok (o, s)
  | (r, l) :: rest =>
    match s.performLane o r l with
    | .error x => .error (r, x, o, s)
    | .ok (o1, s1) => s1.performAll o1 rest

/-! ## Issue -/

/-- A lane's address fails step 3 of R226; `loc` where its lane word counts from base 0. -/
def State.laneBad (s : State) (o : Op) (k : AccKind) (loc : Bool) (r : LaneReq) : Bool :=
  decide (r.va.toNat / 2 ^ 57 ≠ 0) || (loc && !isAlias r.va)
    || ((isAlias r.va || isWindow r.va) && decide ((s.xlate (s.opWho o r.lane) r.va k).1 = .bad))

/-- Steps 2 and 3 of R226 over all lanes. -/
def State.laneChecks (s : State) (o : Op) (k : AccKind) (loc : Bool) (reqs : List LaneReq) : Except Exc Unit := do
  match reqs.find? fun r => r.va.toNat % r.n != 0 with
  | some r => .error (s.trapAt 5 r.va)
  | none =>
    match reqs.find? (s.laneBad o k loc) with
    | some r => .error (s.trapAt 6 r.va)
    | none => .ok ()

/-- The end of an operation all of whose lanes translated: with its pip it lands later, else now. -/
def State.settleOp (s : State) (o : Op) : Res :=
  match o.pip with
  | some _ => .ok ((s.launchOp o).retire)
  | none =>
    match o.bad with
    | some (_, addr, det2) => .error (s.trapAt 11 addr det2)
    | none =>
      match o.kind with
      | .load => .ok ((s.setGrp { s.grp with regs := s.grp.regs.fill o.finalFills }).retire)
      | _ => .ok s.retire

/-- A vector load or store of these accesses. -/
def State.vecAccess (s : State) (o : Op) (k : AccKind) (loc : Bool) (reqs : List LaneReq) : Res := do
  s.laneChecks o k loc reqs
  match s.locate o k reqs with
  | .error va => .error (s.trapAt 6 va)
  | .ok (here, missed, s1) =>
    let (away, near) := here.partition fun x => s.away s.cur x.2
    match s1.performAll o near with
    | .error (r, x, o1, s2) =>
      -- a load has no effect and starts afresh; a store's earlier lanes are done (R262)
      match o.kind with
      | .store => .error (s2.trapAt 7 r.va x.det2 x.det3
          (o1.done &&& ~~~ lanesOf (r.lane :: missed.map (fun m => m.1.lane) ++ away.map fun m => m.1.lane)))
      | _ => .error (s.trapAt 7 r.va x.det2 x.det3)
    | .ok (o1, s2) =>
      if missed.isEmpty && away.isEmpty then s2.settleOp o1
      else .ok (s2.parkOp (s2.sendAway (o1.noted near) away) k missed)

/-! ## Operands (R225) -/

/-- The value of a base selector. -/
def State.baseOf (s : State) (b : BitVec 8) : Dword := if b = 0 then 0x00E0000000000000 else s.readS b

/-- A(L) for a lane word of a. -/
def State.laneAddr (s : State) (a b : BitVec 8) (lane : Nat) : Dword := s.baseOf b + (s.vsrc a lane).setWidth 64

/-- Lanes that make accesses: those acting, in beats not sliced (R186, R226). -/
def State.memLanes (s : State) : Lanes :=
  let g := s.grp
  lanesOf ((lanesList s.acting).filter fun l => !g.regs.sliced.getLsbD (l / 32))

/-- SF as an element of memory: kinds 0 to 2, C of 8 or more (R225, R232). -/
def State.memFmt (s : State) : Except Exc Fmt := do
  let f ← s.sf [0, 1, 2]
  guardRes (decide (8 ≤ f.c)) (s.fmtFault 1 (mdSF s.mode))
  .ok f

/-- The registers an element of C bits takes from d on. -/
def elemRegs (d : BitVec 8) (width : Nat) : List Nat := if width = 64 then [d.toNat, d.toNat + 1] else [d.toNat]

/-- Claims, interlocks and poison of a row-0x9 or row-0xA instruction: vector address operands, data registers, whether
the data is read, scalar operands (R162 steps 4 and 5). -/
def State.memCheck (s : State) (as : List (BitVec 8)) (data : List Nat) (reads : Bool) (ss : List (BitVec 8)) :
    Except Exc Unit := do
  guardRes (as.all s.portOk) s.illegal
  let ra := as.flatMap fun a => regsOf a 32
  s.needRegs (ra ++ data)
  s.need (ss ++ as.flatMap sregsOf ++ s.guardRegs) (ra ++ data)
  s.needClean (ra ++ if reads then data else []) s.memLanes
  s.needPip s.setA

/-- The value of n bytes from a register on in a lane. -/
def State.elemOf (s : State) (reg n lane : Nat) : Nat :=
  joinElems 32 ((List.range (max 1 (n / 4))).map fun i => (s.grp.regs.lane (reg + i) lane).toNat)

/-- The accesses of the lanes that act: for each, elements at offsets with their registers. -/
def State.requests (s : State) (addr : Nat → Dword) (n : Nat) (parts : List (Nat × Nat)) : List LaneReq :=
  (lanesList s.memLanes).flatMap fun l => parts.map fun p =>
    { lane := l, va := addr l + BitVec.ofNat 64 p.1, n := n, reg := p.2, data := s.elemOf p.2 n l % 2 ^ (8 * n) }

/-- Issues a load or store from its requests. -/
def State.issueVec (s : State) (store : Bool) (data : List Nat) (loc : Bool) (reqs : List LaneReq) : Res :=
  s.vecAccess { s.opHere s.setA (if store then .store else .load) with pendV := if store then [] else data }
    (if store then .write else .read) loc reqs

/-- One element per lane at an address of a lane word. -/
def vecElem (store : Bool) (d a b : BitVec 8) (s : State) : Outcome State Fault Refusal :=
  finish do
    let f ← s.memFmt
    guardRes (f.c != 64 || d.toNat % 2 == 0) s.illegal
    let data := elemRegs d f.c
    s.memCheck [a] data store (if b = 0 then [] else [b])
    s.issueVec store data (b == 0) (s.requests (s.laneAddr a b) (f.c / 8) [(0, d.toNat)])

def execVld (d a b : BitVec 8) (s : State) : Outcome State Fault Refusal := vecElem false d a b s
def execVst (d a b : BitVec 8) (s : State) : Outcome State Fault Refusal := vecElem true d a b s

/-- Two elements per lane, C ≤ 32. -/
def vecElem2 (store : Bool) (d a b : BitVec 8) (s : State) : Outcome State Fault Refusal :=
  finish do
    guardRes (decide (d.toNat ≤ 222)) s.illegal
    let f ← s.memFmt
    guardRes (f.c != 64) s.illegal
    let n := f.c / 8
    let data := [d.toNat, d.toNat + 1]
    s.memCheck [a] data store (if b = 0 then [] else [b])
    s.issueVec store data (b == 0) (s.requests (s.laneAddr a b) n [(0, d.toNat), (n, d.toNat + 1)])

def execVld2 (d a b : BitVec 8) (s : State) : Outcome State Fault Refusal := vecElem2 false d a b s
def execVst2 (d a b : BitVec 8) (s : State) : Outcome State Fault Refusal := vecElem2 true d a b s

/-- One element per lane at base + L × stride. -/
def vecStride (store : Bool) (d a b : BitVec 8) (s : State) : Outcome State Fault Refusal :=
  finish do
    let f ← s.memFmt
    guardRes (f.c != 64 || d.toNat % 2 == 0) s.illegal
    let data := elemRegs d f.c
    s.memCheck [] data store ((if a = 0 then [] else [a]) ++ [b])
    s.issueVec store data false
      (s.requests (fun l => s.baseOf a + BitVec.ofNat 64 l * s.readS b) (f.c / 8) [(0, d.toNat)])

def execVlds (d a b : BitVec 8) (s : State) : Outcome State Fault Refusal := vecStride false d a b s
def execVsts (d a b : BitVec 8) (s : State) : Outcome State Fault Refusal := vecStride true d a b s

/-- Sixteen bytes per lane into or from four registers; SF is not read. -/
def vecQuad (store : Bool) (d a b : BitVec 8) (s : State) : Outcome State Fault Refusal :=
  finish do
    guardRes (d.toNat % 4 == 0 && decide (d.toNat ≤ 220)) s.illegal
    let data := (List.range 4).map (d.toNat + ·)
    s.memCheck [a] data store (if b = 0 then [] else [b])
    s.issueVec store data (b == 0) (s.requests (s.laneAddr a b) 16 [(0, d.toNat)])

def execVldq (d a b : BitVec 8) (s : State) : Outcome State Fault Refusal := vecQuad false d a b s
def execVstq (d a b : BitVec 8) (s : State) : Outcome State Fault Refusal := vecQuad true d a b s

/-! ## Prefetch (R230) -/

/-- Walks for addresses, each as a read does (DESIGN CHOICE, log 85); the misses open entries without parking. -/
def State.walkAll (s : State) (o : Op) (reqs : List LaneReq) : List (LaneReq × Nat) × State :=
  match reqs with
  | [] => ([], s)
  | r :: rs =>
    match s.xlate (s.opWho o r.lane) r.va .read with
    | (.miss c, s1) => let (ys, s2) := s1.walkAll o rs; ((r, c) :: ys, s2)
    | (_, s1) => s1.walkAll o rs

/-- The fault entries of walks that missed: nothing parks (R230). -/
def State.walkEntries (s : State) (missed : List (LaneReq × Nat)) : State :=
  let g := s.grp
  (byPage missed).foldl (fun s l =>
    let first := l.headD ({ lane := 0, va := 0, n := 1, reg := 0 }, 0)
    s.openFault { gid := some (gidOf s.cur), slot := slotNo s.cur, pkg := g.pkg, die := g.die, core := g.core,
                  ctx := g.hart.ctx, va := first.1.va, kind := .read, cause := first.2, held := .walk }) s

/-- `vpfx`: translates n + 1 granules for each lane whose own address passes R226; no data moves. -/
def execVpfx (n a b : BitVec 8) (s : State) : Outcome State Fault Refusal :=
  finish do
    guardRes (decide (n.toNat < 64)) s.illegal
    s.memCheck [a] [] false (if b = 0 then [] else [b])
    let o := s.opHere s.setA .prefetch
    let lanes := (lanesList s.memLanes).filter fun l =>
      !s.laneBad o .read (b == 0) { lane := l, va := s.laneAddr a b l, n := 1, reg := 0 }
    let reqs : List LaneReq := lanes.flatMap fun l => (List.range (n.toNat + 1)).map fun i =>
      { lane := l, va := granuleVA (s.laneAddr a b l) + BitVec.ofNat 64 (64 * i), n := 1, reg := 0 }
    let (missed, s1) := s.walkAll o reqs
    let s2 := s1.walkEntries missed
    match o.pip with
    | none => .ok s2.retire
    | some _ => .ok ((s2.launchOp o).retire)

end Sys2Proof.Machine
end

