-- ==== Sys2Proof/Machine/Atomics.lean ====
section
/-! DEFINITION. Vector and scalar atomics (R232 to R238). -/

namespace Sys2Proof.Machine

open Host (Outcome)

/-! ## The operation at the home (R233) -/

/-- The code an arithmetic atomic writes: rounded, or written by write_int, with SF in the place of DF. -/
def atomicArith (op : AtOp) (f : Fmt) (md : ModeWord) (m x : Nat) : Nat :=
  if f.kind = 0 then
    let a := readOperand f m
    let b := readOperand f x
    roundMode f md (match op with
      | .add => addVal (mdRM md) a b
      | .min => minMaxVal false a b
      | _ => minMaxVal true a b)
  else
    let a := (readCode f m).toInt
    let b := (readCode f x).toInt
    writeInt f (mdIS md) (match op with
      | .add => a + b
      | .min => min a b
      | _ => max a b)

/-- op(m, x): the new code at the home, container bits above W zero (R84); c is the compare code of a cas. -/
def atomicApply (op : AtOp) (f : Fmt) (md : ModeWord) (m x c : Nat) : Nat :=
  let w := 2 ^ f.w
  match op with
  | .add | .min | .max => atomicArith op f md m x
  | .and => (m &&& x) % w
  | .or => (m ||| x) % w
  | .xor => (m ^^^ x) % w
  | .xchg => x % w
  | .cas => (if m % w = c % w then x else m) % w

/-- One lane of an atomic at its home; a poisoned granule is left as it is (R235). -/
def State.atomicLane (s : State) (o : Op) (r : LaneReq) : Op × State :=
  match o.kind, o.agent with
  | .atomic op entry md old, .slot gid _ =>
    let g := s.group gid
    if s.poisoned r.key r.n then
      ({ o with bad := lowerBad o.bad r.lane (granuleVA r.va) (s.integrityDetail r.loc) }, s)
    else
      let m := s.bytesAt r.key r.n
      let s1 := s.putBytes r.key r.n (atomicApply op (fmtOf entry) md m r.data r.cmp) (originOf 0 g.die g.core)
      ({ o with done := o.done ||| (1#64 <<< r.lane), fills := if old then o.fills ++ fillWords r m else o.fills }, s1)
  | _, _ => (o, s)

/-- The lanes of an atomic in order, each checked for a race; on one, what was done before it. -/
def State.atomicAll (s : State) (o : Op) : List LaneReq → Except (LaneReq × Access × Op × State) (Op × State)
  | [] => .ok (o, s)
  | r :: rest =>
    match s.raceAccess (s.opWho o r.lane) r.loc r.n 2 true with
    | .error x => .error (r, x, o, s)
    | .ok s1 =>
      let (o1, s2) := s1.atomicLane o r
      s2.atomicAll o1 rest

/-- Some lane's step is logged: its log. -/
def State.lanesLogged (s : State) (l : List LaneReq) : Option Log :=
  (l.findSome? fun r => s.stepLogged (s.homeVa s.cur r.va))

/-- Records the steps of lanes that have been applied, each with the code it found (R379). -/
def State.recordLanes (s : State) (o : Op) (l : Log) (found : List (LaneReq × Nat)) : State :=
  found.foldl (fun s x =>
    let home := s.homeVa o.agent x.1.va
    if s.logged l.pkg l.ctx home then
      (s.logInput o.agent l o.inst 4 home (BitVec.ofNat 64 x.2) ((s.ctx l.pkg l.ctx).rank home)).stepCount l home
    else s) s

/-- Lanes receive their ranks from a list of entries: each that of the first left for its address; none where an entry is
missing. -/
def State.rankLanes (s : State) (l : Log) : List (Nat × Nat) → List LaneReq → Option (List LaneReq)
  | _, [] => some []
  | es, r :: rest =>
    let home := s.homeVa s.cur r.va
    if s.logged l.pkg l.ctx home then
      match es.find? fun e => entryWord e.1 3 == home with
      | none => none
      | some e => (s.rankLanes l (es.erase e) rest).map ({ r with order := some (entryWord e.1 5).toNat } :: ·)
    else (s.rankLanes l es rest).map (r :: ·)

/-- Takes the log's entries for the lanes of an instruction: they are the next of the agent, one for each lane at a logged
address, in whatever order the lanes were applied; otherwise the agent diverges (R379, R380). -/
def State.takeRanks (s : State) (l : Log) (rs : List LaneReq) : Except Exc (List LaneReq × State) :=
  let n := (rs.filter fun r => s.logged l.pkg l.ctx (s.homeVa s.cur r.va)).length
  let es := (s.entriesOf s.cur l).take n
  let step (e : Nat) : Bool := entryKind e == 4 && (entryWord e 0).toNat == (s.hart s.cur).retired
  if es.length = n && es.all fun e => step e.1 then
    match s.rankLanes l es rs with
    | some ms => .ok (ms, es.foldl (fun s e => s.consume s.cur l e.2 0) s)
    | none => .error (divergeExc s)
  else .error (divergeExc s)

/-- The end of an atomic whose requests have been applied at their homes: poison traps precisely with DONEMASK; else its
pip counts it until every request has completed, or it lands now (R235, R237). -/
def State.settleAtomic (s : State) (o : Op) (here : List LaneReq) : Res :=
  match o.bad, o.pip with
  | some (_, addr, det2), _ => .error ((s.landOld o).trapAt 11 addr det2 0 o.done)
  | none, none =>
    if here.any fun r => (homeOf r.key).1 != s.pkgOf o.agent then .ok (s.parkOp { o with reqs := here } .rmw [])
    else .ok (s.landOld o).retire
  | none, some _ => .ok (((s.launchOp { o with reqs := here }).retire).onLinks s.nextId o here)

/-- A race met by a lane of an atomic: the lanes before it are done (R237, R262). -/
def atomicRace (r : LaneReq) (x : Access) (o : Op) (s : State) : Exc :=
  (s.landOld o).trapAt 7 r.va x.det2 x.det3 o.done

/-- An atomic of a replay-logged launch is recorded: its lanes are applied in order at issue (R379). -/
def State.recordAtomic (s : State) (l : Log) (o : Op) (here : List LaneReq) (missed : List (LaneReq × Nat)) : Res :=
  if !s.logRoom l (here.length + missed.length) then .error (.wait (.unit 4000) s)
  else
    let found := here.map fun r => (r, s.bytesAt r.key r.n)
    match s.atomicAll o here with
    | .error (r, x, o1, s2) => .error (atomicRace r x o1 s2)
    | .ok (o1, s2) =>
      let s3 := s2.recordLanes o l found
      if missed.isEmpty then s3.settleAtomic o1 here else .ok (s3.parkOp o1 .rmw missed)

/-- An atomic of a replay: each lane waits at its home for its rank (R379), and the slot for all of them, so that a race
or poison met there traps precisely (R237, R262). -/
def State.replayAtomic (s : State) (l : Log) (o : Op) (here : List LaneReq) (missed : List (LaneReq × Nat)) : Res := do
  let (all, s2) ← s.takeRanks l (here ++ missed.map Prod.fst)
  let rs := all.take here.length
  let ms := all.drop here.length
  let o := { o with reqs := rs }
  let s3 := if missed.isEmpty then ((s2.launchOp o).retire).onLinks s2.nextId o rs else s2.parkOp o .rmw (ms.zip (missed.map Prod.snd))
  .ok (s3.setSlot s.cur { s3.slot s.cur with block := some (.op s2.nextId), since := s.cycle })

/-- Issues a vector atomic: every request that translates is applied at its home, as one step of the order of all
accesses; what does not translate parks (R219, R235, R237). -/
def State.issueAtomic (s : State) (o : Op) (loc : Bool) (reqs : List LaneReq) : Res := do
  s.laneChecks o .rmw loc reqs
  match s.locate o .rmw reqs with
  | .error va => .error (s.trapAt 6 va)
  | .ok (here, missed, s1) =>
    let here := placed here
    match s.lanesLogged reqs with
    | some l =>
      if l.replay then s1.replayAtomic l o here missed else s1.recordAtomic l o here missed
    | none =>
      match s1.atomicAll o here with
      | .error (r, x, o1, s2) => .error (atomicRace r x o1 s2)
      | .ok (o1, s2) => if missed.isEmpty then s2.settleAtomic o1 here else .ok (s2.parkOp o1 .rmw missed)

/-! ## Row 0xA, 0xA0 to 0xAA (R234) -/

/-- A vector atomic; `old` where it returns old codes. -/
def vecAtomic (op : AtOp) (old : Bool) (d a b : BitVec 8) (s : State) : Outcome State Fault Refusal :=
  finish do
    let f ← s.memFmt
    guardRes (!(op == .add && f.kind == 0 && mdRM s.mode == 5)) s.illegal
    let pair := f.c == 64
    guardRes (!pair || d.toNat % 2 == 0) s.illegal
    guardRes (op != .cas || decide (d.toNat ≤ if pair then 220 else 222)) s.illegal
    let step := if pair then 2 else 1
    let own := elemRegs d f.c
    let data := if op == .cas then own ++ own.map (· + step) else own
    s.memCheck [a] data true (if b = 0 then [] else [b])
    let n := f.c / 8
    let o := { s.opHere s.setA (.atomic op (s.fmtHere (mdSF s.mode)) s.mode old) with pendV := if old then own else [] }
    let reqs := s.requests (s.laneAddr a b) n [(0, d.toNat)]
    let reqs := if op == .cas then
        reqs.map fun r => { r with cmp := r.data, data := s.elemOf (d.toNat + step) n r.lane % 2 ^ (8 * n) }
      else reqs
    s.issueAtomic o (b == 0) reqs

def execVatadd (d a b : BitVec 8) (s : State) : Outcome State Fault Refusal := vecAtomic .add true d a b s
def execVatmin (d a b : BitVec 8) (s : State) : Outcome State Fault Refusal := vecAtomic .min true d a b s
def execVatmax (d a b : BitVec 8) (s : State) : Outcome State Fault Refusal := vecAtomic .max true d a b s
def execVatand (d a b : BitVec 8) (s : State) : Outcome State Fault Refusal := vecAtomic .and true d a b s
def execVator (d a b : BitVec 8) (s : State) : Outcome State Fault Refusal := vecAtomic .or true d a b s
def execVatxor (d a b : BitVec 8) (s : State) : Outcome State Fault Refusal := vecAtomic .xor true d a b s
def execVatxchg (d a b : BitVec 8) (s : State) : Outcome State Fault Refusal := vecAtomic .xchg true d a b s
def execVatcas (d a b : BitVec 8) (s : State) : Outcome State Fault Refusal := vecAtomic .cas true d a b s
def execVradd (d a b : BitVec 8) (s : State) : Outcome State Fault Refusal := vecAtomic .add false d a b s
def execVrmin (d a b : BitVec 8) (s : State) : Outcome State Fault Refusal := vecAtomic .min false d a b s
def execVrmax (d a b : BitVec 8) (s : State) : Outcome State Fault Refusal := vecAtomic .max false d a b s

/-- In replay a request's rank at its address is next (R379). -/
def State.rankNext (s : State) (o : Op) (r : LaneReq) : Bool :=
  match r.order, s.logOf o.agent with
  | some k, some l => (s.ctx l.pkg l.ctx).rank (s.homeVa o.agent r.va) == k
  | _, _ => true

/-- Ranked requests have been applied. -/
def State.rankDone (s : State) (o : Op) (rs : List LaneReq) : State :=
  match s.logOf o.agent with
  | some l => rs.foldl (fun s r => s.stepCount l (s.homeVa o.agent r.va)) s
  | none => s

/-- Old codes of the lanes of a completed request are written to d (R235). -/
def State.landLanes (s : State) (o : Op) (lanes : List Nat) : State :=
  s.landOld { o with fills := o.fills.filter fun f => lanes.contains f.2.1 }

/-- The requests of lanes that meet at one address, which waited for their rank, are applied at their home in ascending
lane order, as one step (R235, R379). -/
def State.applyRanked (s : State) (n : Nat) (o : Op) (r : LaneReq) : State :=
  let (mine, rest) := o.reqs.partition fun x => x.key == r.key && x.order.isSome
  match s.atomicAll o mine with
  | .error (r, x, o1, s1) =>
    s1.endOp n o1 7 r.va x.det2 x.det3 ((mine.dropWhile fun y => !(y == r)) ++ rest.filter fun x => x.order.isSome)
  | .ok (o1, s1) =>
    let s2 := ({ s1 with ops := SMap.put s1.ops n { o1 with reqs := rest } }).rankDone o mine
    if rest.isEmpty then s2.completeOp n else s2

/-- A request's old codes arrive: they are written, or wait until the stopped agent goes on (R370). -/
def State.oldArrive (s : State) (n : Nat) (o : Op) (lanes : List Nat) : State :=
  match s.stopOf o.agent with
  | none => s.landLanes o lanes
  | some x => s.holdOp n o x

/-- ATOMIC_REQUEST_COMPLETE: the oldest request of an atomic in flight completes: its lanes' old codes are written; with
the last, the instruction completes (R235, R236). A request that waits for its rank is applied only now. -/
def execAtomicRequestComplete (op : Nat) (s : State) : Outcome State Fault Refusal :=
  match SMap.find s.ops op with
  | none => .next s
  | some o =>
    match o.kind with
    | .atomic _ _ _ _ =>
      if o.reqs.isEmpty then .next (s.completeOp op)
      else match o.reqs.find? (s.rankNext o) with
      | none => .next s
      | some r =>
        if r.order.isSome then .next (s.applyRanked op o r)
        else
          let mine (x : LaneReq) : Bool := x.key == r.key && x.order.isNone
          let o1 := { o with reqs := o.reqs.filter fun x => !mine x }
          let s1 := ({ s with ops := SMap.put s.ops op o1 }).oldArrive op o1 ((o.reqs.filter mine).map LaneReq.lane)
          .next (if o1.reqs.isEmpty then s1.completeOp op else s1)
    | _ => .next s

/-! ## Scalar atomics (R238) -/

/-- On a system-class core every earlier access is complete before the step (R254). -/
def State.needOwnDone (s : State) : Except Exc Unit :=
  guardRes (!(isSys s.cur && s.accessInFlight)) (.wait .drain s)

/-- The old code as s[d] receives it. -/
def oldCode (f : Fmt) (m : Nat) : Dword :=
  if f.kind = 1 && f.sign then BitVec.ofInt 64 (readCode f m).toInt else BitVec.ofNat 64 m

/-- The code a scalar atomic leaves (R238): of the code found, the operand, and for `satcas` the code compared, W-bit codes
as R233 and R84 have them. -/
def scalarNew (op : AtOp) (f : Fmt) (md : ModeWord) (m x c : Nat) : Nat := atomicApply op f md m x c

/-- A scalar access that waited for its page performs: what its operation is then left with (R66, R219, R238). -/
def State.performScalar (s : State) (o : Op) (d : Nat) (act : ScalarAct) (r : LaneReq) (l : Loc) :
    Except Access (Op × State) :=
  let w := if isSys o.agent then s.opWho o 0 else { s.opWho o 0 with kind := .thread }
  match s.raceAccess w l r.n (match act with | .load => 0 | .store => 1 | .atomic _ _ _ => 2)
      (match act with | .atomic _ _ _ => true | _ => false) with
  | .error x => .error x
  | .ok s1 =>
    let m := s1.bytesAt l.key r.n
    let bad := if s1.poisoned l.key r.n then some (0, granuleVA r.va, s1.integrityDetail l) else none
    let org := originOf 1 w.die w.core
    match act with
    | .load => .ok ({ o with kind := .scalar d (BitVec.ofNat 64 m), bad := bad }, s1)
    | .store => .ok ({ o with kind := .scalar 0 0 }, s1.putBytes l.key r.n r.data org)
    | .atomic op entry md =>
      if bad.isSome then .ok ({ o with kind := .scalar d 0, bad := bad }, s1)
      else
        let s2 := s1.putBytes l.key r.n (scalarNew op (fmtOf entry) md m r.data r.cmp) org
        .ok ({ o with kind := .scalar d (oldCode (fmtOf entry) m) }, if isSys o.agent then s2.acquire w 5 else s2)

/-- A scalar atomic. -/
def scalarAtomic (op : AtOp) (d a b : BitVec 8) (s : State) : Outcome State Fault Refusal :=
  finish do
    let f ← s.memFmt
    guardRes (!(op == .add && f.kind == 0 && mdRM s.mode == 5)) s.illegal
    s.need [d, a, b]
    s.needPip s.setA
    s.needOwnDone
    let n := f.c / 8
    let va := s.readS a
    let x := (s.readS b).toNat % 2 ^ f.c
    let c := (s.readS d).toNat % 2 ^ f.c
    let logged := (s.stepLogged (s.homeVa s.cur va)).isSome
    let act : ScalarAct := .atomic op (s.fmtHere (mdSF s.mode)) s.mode
    let r : LaneReq := { lane := 0, va := va, n := n, reg := 0, data := x, cmp := c }
    match if logged then none else s.scalarMiss va n .rmw with
    | some (cause, s1) => .ok (s1.parkScalar act d r .rmw cause)
    | none =>
    match if logged then none else s.scalarAway va n .rmw with
    | some (l, s1) => .ok ((if isSys s.cur then s1.releaseSlot 5 else s1).sendScalar act d r l .rmw)
    | none =>
    s.atomicStep va d fun s => do
    let (l, s1) ← (if isSys s.cur then s.releaseSlot 5 else s).scalarAccess va n n .rmw true
    let m := s1.bytesAt l.key n
    if s1.poisoned l.key n then
      match s.setA with
      | none => .error (s.trapAt 11 (granuleVA va) (s1.integrityDetail l))
      | some p => .ok ((s1.launchOp { s1.opHere (some p) (.scalar d.toNat 0) with
          pendS := if d = 0 then [] else [d.toNat], bad := some (0, granuleVA va, s1.integrityDetail l) }).retire)
    else
      let s2 := s1.putBytes l.key n (scalarNew op f s.mode m x c) s.scalarOrigin
      (if isSys s.cur then s2.acquireSlot 5 else s2).scalarDone d (oldCode f m)

def execSatadd (d a b : BitVec 8) (s : State) : Outcome State Fault Refusal := scalarAtomic .add d a b s
def execSatcas (d a b : BitVec 8) (s : State) : Outcome State Fault Refusal := scalarAtomic .cas d a b s

end Sys2Proof.Machine
end

