-- ==== Sys2Proof/Machine/Collectives.lean ====
section
/-! DEFINITION. Collectives: `vcput`, `vcget`, `vcred` (R391, R392). -/

namespace Sys2Proof.Machine

open Host (Outcome)

/-- One lane of a collective at its home: put, get, or one indivisible step of a reduction (R392). -/
def State.performPeer (s : State) (o : Op) (r : LaneReq) (l : Loc) : Except Access (Op × State) :=
  let w := s.opWho o r.lane
  let done := o.done ||| (1#64 <<< r.lane)
  let org := originOf 0 w.die w.core
  match o.kind with
  | .collective which entry md =>
    match s.raceAccess w l r.n (match which with | 0 => 1 | 1 => 0 | _ => 2) (which == 2) with
    | .error x => .error x
    | .ok s1 =>
      if which = 0 then .ok ({ o with done := done }, s1.putBytes l.key r.n (o.storeBytes r l.key (s1.bytesAt l.key r.n)) org)
      else if s1.poisoned l.key r.n then
        .ok ({ o with bad := lowerBad o.bad r.lane (granuleVA r.va) (s1.integrityDetail l) }, s1)
      else
        let m := s1.bytesAt l.key r.n
        if which = 1 then .ok ({ o with done := done, fills := o.fills ++ fillWords r m }, s1)
        else
          let op : AtOp := if r.op = 0 then .add else if r.op = 1 then .min else .max
          .ok ({ o with done := done }, s1.putBytes l.key r.n (atomicApply op (fmtOf entry) md m r.data 0) org)
  | _ => .ok (o, s)

/-- The lanes of a collective in ascending order; on a race, what was done before it. -/
def State.performPeers (s : State) (o : Op) : List (LaneReq × Loc) → Except (LaneReq × Access × Op × State) (Op × State)
  | [] => .ok (o, s)
  | (r, l) :: rest =>
    match s.performPeer o r l with
    | .error x => .error (r, x, o, s)
    | .ok (o1, s1) => s1.performPeers o1 rest

/-- The access a collective makes. -/
def peerAccess (which : Nat) : AccKind := if which = 0 then .write else if which = 1 then .read else .rmw

/-- A lane's peer word is acceptable (R391): reserved bits zero, OP below 3 and only of `vcred`. -/
def peerWordOk (which : Nat) (w : Word) : Bool :=
  let x : Dword := w.setWidth 64
  bits x 31 14 == 0 && bits x 11 10 == 0 && (if which = 2 then decide (bits x 13 12 < 3) else bits x 13 12 == 0)

/-- Issues a collective: aligned, translated at its peers, performed; what is missing there parks (R392). -/
def State.issuePeers (s : State) (o : Op) (which : Nat) (reqs : List LaneReq) : Res := do
  match reqs.find? fun r => r.va.toNat % r.n != 0 with
  | some r => .error (s.trapAt 5 r.va)
  | none =>
    match s.locate o (peerAccess which) reqs with
    | .error va => .error (s.trapAt 6 va)
    | .ok (here, missed, s1) =>
      let (away, near) := here.partition fun x => s.away s.cur x.2
      match s1.performPeers o near with
      | .error (r, x, o1, s2) => .error (s2.trapAt 7 r.va x.det2 x.det3
          (if o1.keeps then o1.done &&& ~~~ lanesOf (away.map fun m => m.1.lane) else 0))
      | .ok (o1, s2) =>
        if !(missed.isEmpty && away.isEmpty) then
          .ok (s2.parkOp (s2.sendAway (o1.noted near) away) (peerAccess which) missed)
        else match o1.pip, o1.bad with
          | none, some (_, addr, det2) => .error (s2.trapAt 11 addr det2 0 (if o1.keeps then o1.done else 0))
          | some _, some (_, addr, det2) =>
            -- a put or reduction traps precisely, a get is a counted load (R224)
            if o1.keeps then .error (s2.trapAt 11 addr det2 0 o1.done) else .ok ((s2.launchOp o1).retire)
          | some _, none => .ok ((s2.launchOp o1).retire)
          | none, none => .ok (s2.landOld o1).retire

/-- A collective: 0 put, 1 get, 2 reduce. -/
def collective (which : Nat) (d a b : BitVec 8) (s : State) : Outcome State Fault Refusal :=
  finish do
    let f ← s.memFmt
    let pair := f.c == 64
    guardRes (decide (d.toNat < 224) && (!pair || d.toNat % 2 == 0)) s.illegal
    guardRes ((decide (a.toNat < 224) && a.toNat % 2 == 0) || decide (240 ≤ a.toNat)) s.illegal
    let own := elemRegs d f.c
    let src := if which = 1 then [] else own
    guardRes (s.portOk b) s.illegal
    let ra := regsOf a 64 ++ regsOf b 32
    s.needRegs (ra ++ own)
    s.need (sregsOf a ++ sregsOf b ++ s.guardRegs) (ra ++ own)
    s.needClean (ra ++ src) s.memLanes
    s.needPip s.setB
    let word (l : Nat) : Dword := (s.vsrc b l).setWidth 64
    guardRes ((lanesList s.active).all fun l => peerWordOk which (s.vsrc b l)) s.illegal
    guardRes (!(which == 2 && f.kind == 0 && mdRM s.mode == 5
      && (lanesList s.active).any fun l => bits (word l) 13 12 == 0)) s.illegal
    let n := f.c / 8
    let o := { s.opHere s.setB (.collective which (s.fmtHere (mdSF s.mode)) s.mode) with
      pendV := if which = 1 then own else [] }
    let reqs := (s.requests (fun l => s.vsrcPair a l) n [(0, d.toNat)]).map fun r =>
      { r with peer := bits (word r.lane) 9 0, op := bits (word r.lane) 13 12 }
    s.issuePeers o which reqs

def execVcput (d a b : BitVec 8) (s : State) : Outcome State Fault Refusal := collective 0 d a b s
def execVcget (d a b : BitVec 8) (s : State) : Outcome State Fault Refusal := collective 1 d a b s
def execVcred (d a b : BitVec 8) (s : State) : Outcome State Fault Refusal := collective 2 d a b s

end Sys2Proof.Machine
end

