-- ==== Sys2Proof/Machine/CrossLane.lean ====
section
/-! DEFINITION. Row 0x8: shuffles, votes, compaction, scans, reductions, top-k and pattern tables (R191 to R202). -/

namespace Sys2Proof.Machine

open Host (Outcome)

/-! ## Moving units between lanes (R191 to R194) -/

/-- SF gives the width of a lane unit, whatever its kind (R191). -/
def State.unitFmt (s : State) : Except Exc Fmt := s.sf [0, 1, 2, 3]

/-- The bits of a lane unit: 64 for a pair. -/
def unitWidth (f : Fmt) : Nat := if f.c = 64 then 64 else 32

/-- A move of a's units: every lane of `dst` receives the unit of the lane it takes from, or zero. -/
def moveUnits (d a : BitVec 8) (dst : Lanes) (take : Nat → Option Nat) (more : List (BitVec 8 × Nat)) (s : State) :
    Outcome State Fault Refusal :=
  finish do
    let sf ← s.unitFmt
    let w := unitWidth sf
    s.vcheck ((a, w) :: more) (some (d, w)) [] 0
    s.needClean (regsOf a w) (lanesOf ((lanesList dst).filterMap take))
    s.needClean (more.flatMap fun x => regsOf x.1 x.2) dst
    .ok ((s.vwrite d w dst fun l => match take l with | some m => s.unit a w m | none => 0).retire)

/-- An immediate lane distance is 0 to 63 (R193). -/
def shiftUnits (d a n : BitVec 8) (take : Nat → Nat → Option Nat) (s : State) : Outcome State Fault Refusal :=
  if 64 ≤ n.toNat then finish (.error s.illegal) else moveUnits d a s.acting (take n.toNat) [] s

def execVshfl (d a b : BitVec 8) (s : State) : Outcome State Fault Refusal :=
  moveUnits d a s.acting (fun l => some ((s.vsrc b l).toNat % 64)) [(b, 32)] s
def execVshup (d a n : BitVec 8) (s : State) : Outcome State Fault Refusal :=
  shiftUnits d a n (fun n l => if l < n then none else some (l - n)) s
def execVshdn (d a n : BitVec 8) (s : State) : Outcome State Fault Refusal :=
  shiftUnits d a n (fun n l => if 63 < l + n then none else some (l + n)) s
def execVxorsh (d a n : BitVec 8) (s : State) : Outcome State Fault Refusal :=
  shiftUnits d a n (fun n l => some (l ^^^ n)) s

/-- `vcompact`: lane i takes the unit of the i-th active lane (R194). -/
def execVcompact (d a : BitVec 8) (s : State) : Outcome State Fault Refusal :=
  let act := lanesList s.acting
  moveUnits d a (lanesBelow act.length) (fun i => act[i]?) [] s

/-- `vexpand`: the i-th active lane takes the unit of lane i (R194). -/
def execVexpand (d a : BitVec 8) (s : State) : Outcome State Fault Refusal :=
  let act := lanesList s.acting
  moveUnits d a s.acting (fun l => some (act.idxOf l)) [] s

def execVballot (d a : BitVec 8) (s : State) : Outcome State Fault Refusal :=
  finish do
    let sf ← s.unitFmt
    let w := unitWidth sf
    s.vcheck [(a, w)] none [d] s.acting
    .ok ((s.writeS d (lanesOf ((lanesList s.acting).filter fun l => s.unit a w l != 0))).retire)

/-! ## Ranking (R198) -/

/-- x ranks strictly above y by value: the larger, +0 above −0, a NaN below every number. -/
def ranksAbove (x y : Val) : Bool :=
  if x.isNan then false
  else if y.isNan then true
  else match cmpVal x y with
    | .gt => true
    | .lt => false
    | .eq => x.isZero && !x.neg? && y.neg?

/-- Places a lane before the first that does not rank above it. -/
def insertRanked (val : Nat → Val) (l : Nat) : List Nat → List Nat
  | [] => [l]
  | h :: t => if ranksAbove (val h) (val l) then h :: insertRanked val l t else l :: h :: t

/-- Lanes (ascending) in rank order, best first. -/
def ranked (val : Nat → Val) (lanes : List Nat) : List Nat := lanes.foldr (insertRanked val) []

/-- `vtopk`: lanes 0 to k − 1 of d and d + 1 are written whatever ACTIVE holds (R197). -/
def execVtopk (d a k : BitVec 8) (s : State) : Outcome State Fault Refusal :=
  finish do
    guardRes (decide (1 ≤ k.toNat) && decide (k.toNat ≤ 16) && decide (d.toNat ≤ 222)) s.illegal
    let sf ← s.sf [0, 1, 2]
    guardRes (sf.c == 32) (s.fmtFault 1 (mdSF s.mode))
    s.vcheck [(a, 32)] (some (d, 32)) [] s.acting
    s.needReg (d.toNat + 1)
    s.need [] [d.toNat + 1]
    let order := ranked (fun l => readCode sf (s.vsrc a l).toNat) (lanesList s.acting)
    let code (j : Nat) : Nat := if j < order.length then (s.vsrc a (order.getD j 0)).toNat % 2 ^ sf.w else 0
    let idx (j : Nat) : Nat := if j < order.length then order.getD j 0 else 0xFFFFFFFF
    .ok (((s.vwrite d 32 (lanesBelow k.toNat) code false).vwrite (d + 1) 32 (lanesBelow k.toNat) idx false).retire)

/-! ## Scans and reductions (R196) -/

/-- How a scan handles one element position: the first value, a step, the code of an accumulator, the identity's code. -/
structure ScanOp (α : Type) where
  start : Nat → α
  step : α → Nat → α
  emit : α → Nat
  ident : Nat

/-- The largest or smallest value of a format as a code (R196). -/
def extremeCode (f : Fmt) (neg : Bool) : Nat :=
  if f.kind = 0 then
    (if f.policy = 0 then infCode f false neg else signed f neg (maxCode f))
  else intCode f (if neg then f.minInt else f.maxInt)

/-- add, min, max on floats: every step rounded to DF (R196). -/
def scanFloat (op : Nat) (sf df : Fmt) (md : ModeWord) : ScanOp Val :=
  let rd (x : Val) : Val := readCode df (roundMode df md x)
  { start := readOperand sf
    step := fun acc x =>
      if op = 0 then rd (addVal (mdRM md) acc (readOperand sf x)) else rd (minMaxVal (op == 2) acc (readOperand sf x))
    emit := roundMode df md
    ident := if op = 0 then 0 else extremeCode df (op == 2) }

/-- An integer as a destination holds it once it is written (R164). -/
def held (df : Fmt) (md : ModeWord) (x : Int) : Int := (readCode df (writeInt df (mdIS md) x)).toInt

/-- add, min, max on integers: every partial sum, the first one too, is brought into DF's range before the next lane is
added (R96, R164, R196). -/
def scanInt (op : Nat) (sf df : Fmt) (md : ModeWord) : ScanOp Int :=
  let val (x : Nat) : Int := (readCode sf x).toInt
  { start := fun x => if op = 0 then held df md (val x) else val x
    step := fun acc x =>
      if op = 0 then held df md (acc + val x)
      else if op = 1 then min acc (val x) else max acc (val x)
    emit := writeInt df (mdIS md)
    ident := if op = 0 then 0 else extremeCode df (op == 2) }

/-- and, or, xor on raw codes (R84, R196). -/
def scanBits (op : Nat) (sf : Fmt) : ScanOp Nat :=
  let m (x : Nat) : Nat := x % 2 ^ sf.w
  { start := m
    step := fun acc x => if op = 3 then acc &&& m x else if op = 4 then acc ||| m x else acc ^^^ m x
    emit := id
    ident := if op = 3 then 2 ^ sf.w - 1 else 0 }

/-- The accumulators after each of some elements. -/
def accsFrom {α : Type} (o : ScanOp α) (acc : α) : List Nat → List α
  | [] => []
  | x :: xs => o.step acc x :: accsFrom o (o.step acc x) xs

/-- The codes the active lanes receive: inclusive, exclusive, or the last one everywhere. -/
def scanCodes {α : Type} (o : ScanOp α) (excl red : Bool) : List Nat → List Nat
  | [] => []
  | x :: xs =>
    let incl := (o.start x :: accsFrom o (o.start x) xs).map o.emit
    if red then List.replicate incl.length (incl.getLastD 0)
    else if excl then (o.ident :: incl).take incl.length else incl

/-- The codes of an operation of R196. -/
def scanWith (op : Nat) (sf df : Fmt) (md : ModeWord) (excl red : Bool) (xs : List Nat) : List Nat :=
  if 3 ≤ op then scanCodes (scanBits op sf) excl red xs
  else if sf.kind = 0 then scanCodes (scanFloat op sf df md) excl red xs
  else scanCodes (scanInt op sf df md) excl red xs

/-- `vscan`, and `vred` but for OP 6. -/
def scanUnits (red : Bool) (d a c : BitVec 8) (s : State) : Res := do
  let op := c.toNat % 8
  let sf ← s.sf [0, 1, 2]
  guardRes (!(decide (op < 3) && sf.kind == 0 && mdRM s.mode == 5)) s.illegal
  let df ← if op < 3 then s.df [0, 1, 2] else .ok sf
  s.needWidth (op ≥ 3 || (df.kind == sf.kind && df.c == sf.c))
  s.vcheck [(a, sf.c)] (some (d, sf.c)) [] s.acting
  let act := lanesList s.acting
  if act.isEmpty then .ok (s.vwrite d sf.c 0 fun _ => 0).retire
  else
    let cols := (List.range sf.e).map fun j =>
      scanWith op sf df s.mode (c.getLsbD 3) red (act.map fun l => subElem sf.c (s.unit a sf.c l) j)
    .ok ((s.vwrite d sf.c s.acting fun l => joinElems sf.c (cols.map fun col => col.getD (act.idxOf l) 0)).retire)

/-- `vred` with OP 6: the top-ranked code and its lane (R196, R198). -/
def maxIndex (d a : BitVec 8) (s : State) : Res := do
  guardRes (decide (d.toNat ≤ 222)) s.illegal
  let sf ← s.sf [0, 1, 2]
  guardRes (sf.c == 32) (s.fmtFault 1 (mdSF s.mode))
  s.vcheck [(a, 32)] (some (d, 32)) [] s.acting
  s.needReg (d.toNat + 1)
  s.need [] [d.toNat + 1]
  match ranked (fun l => readCode sf (s.vsrc a l).toNat) (lanesList s.acting) with
  | [] => .ok (s.vwrite d 32 0 fun _ => 0).retire
  | top :: _ =>
    .ok (((s.vwrite (d + 1) 32 s.acting (fun _ => top) false).vwrite d 32 s.acting
      fun _ => (s.vsrc a top).toNat % 2 ^ sf.w).retire)

/-- The control byte is legal (R196). -/
def scanControlOk (red : Bool) (c : BitVec 8) : Bool :=
  c.toNat < 16 && c.toNat % 8 != 7 && (if red then !c.getLsbD 3 else c.toNat % 8 != 6)

def execVscan (d a c : BitVec 8) (s : State) : Outcome State Fault Refusal :=
  finish (if scanControlOk false c then scanUnits false d a c s else .error s.illegal)
def execVred (d a c : BitVec 8) (s : State) : Outcome State Fault Refusal :=
  finish (if !scanControlOk true c then .error s.illegal
    else if c.toNat % 8 = 6 then maxIndex d a s else scanUnits true d a c s)

/-! ## Pattern tables (R199 to R202) -/

/-- The number of a partition of a compute core. -/
def partKey (pkg die core part : Nat) : Nat := coreKey pkg die core * 4 + part

/-- The loaded table t of the issuing group's partition. -/
def State.pattern (s : State) (t : Nat) : Option Pattern :=
  let g := s.grp
  SMap.find s.patterns (partKey g.pkg g.die g.core g.part * 16 + t)

/-- Elimination over GF(2) on the columns from bit k on, `n` of them (R201). -/
def gfInvertible (k : Nat) : Nat → List Nat → Bool
  | 0, _ => true
  | n + 1, rows =>
    match rows.find? fun r => r.testBit k with
    | none => false
    | some p => gfInvertible (k + 1) n ((rows.erase p).map fun r => if r.testBit k then r ^^^ p else r)

/-- Rows 0 to 10 of a pattern record (R200). -/
def recordRows (p : Nat) : List Nat := (List.range 11).map fun r => p / 2 ^ (16 * r) % 2 ^ 16

/-- `xpld`: loads a pattern table (R201). -/
def execXpld (d a b : BitVec 8) (s : State) : Outcome State Fault Refusal :=
  finish do
    s.need [d, a, b]
    let va := s.readS a
    let (l, s1) ← s.scalarAccess va 32 32 .read false
    guardRes (!s1.poisoned l.key 32) (s1.trapAt 11 (granuleVA va) (s1.integrityDetail l))
    let p := s1.bytesAt l.key 32
    let rows := recordRows p
    if p / 2 ^ 192 ≠ 0 || rows.any (fun r => decide (2 ^ 11 ≤ r)) then .ok ((s1.writeS d 2).retire)
    else if !gfInvertible 0 11 rows then .ok ((s1.writeS d 1).retire)
    else
      let g := s1.grp
      let key := partKey g.pkg g.die g.core g.part * 16 + (s1.readS b).toNat % 16
      let x : Pattern := { rows := rows, sig := BitVec.ofNat 16 (p / 2 ^ 176), ctx := g.hart.ctx }
      .ok (({ s1 with patterns := SMap.put s1.patterns key x }.writeS d 0).retire)

/-- The parity of the low 11 bits. -/
def parity11 (x : Nat) : Nat := ((List.range 11).filter fun i => x.testBit i).length % 2

/-- The destination index of source index i under a table (R202). -/
def patternIndex (rows : List Nat) (i : Nat) : Nat :=
  (rows.zipIdx).foldl (fun j r => j + parity11 (r.1 &&& i) * 2 ^ r.2) 0

/-- 2,048 bytes permuted by a table, as numbers with byte 0 lowest (R202). -/
def permuteBytes (rows : List Nat) (x : Nat) : Nat :=
  (List.range 2048).foldl (fun y i => y + x / 2 ^ (8 * i) % 256 * 2 ^ (8 * patternIndex rows i)) 0

/-- `vxpat`: permutes the bytes of eight registers; every lane is written (R202). -/
def execVxpat (d a t : BitVec 8) (s : State) : Outcome State Fault Refusal :=
  finish do
    guardRes (decide (t.toNat < 16) && decide (d.toNat ≤ 216) && decide (a.toNat ≤ 216)) s.illegal
    match s.pattern t.toNat with
    | none => .error s.illegal
    | some p =>
      guardRes (p.ctx == s.ctxOf s.cur) s.illegal
      let src := (List.range 8).map (a.toNat + ·)
      let dst := (List.range 8).map (d.toNat + ·)
      s.needRegs (src ++ dst)
      s.need [] (src ++ dst)
      s.needClean src (BitVec.allOnes 64)
      let g := s.grp
      let x := joinElems 32 (src.flatMap fun r => (List.range 64).map fun l => (g.regs.lane r l).toNat)
      let y := permuteBytes p.rows x
      let regs := (List.range 8).foldl (fun rs r =>
        rs.write (d.toNat + r) (BitVec.allOnes 64) fun l => BitVec.ofNat 32 (y / 2 ^ (32 * (64 * r + l)))) g.regs
      .ok ((s.setGrp { g with regs := regs }).retire)

end Sys2Proof.Machine
end

