-- ==== Sys2Proof/Machine/Claims.lean ====
section
/-! DEFINITION. Register claims: the pool, the budget, `rclaim` to `rquery`, claim deadlock (R180 to R188). -/

namespace Sys2Proof.Machine

open Host (Outcome)

/-- LB: the unsliced beats (R181). -/
def Vregs.beats (r : Vregs) : Nat := (if r.sliced.getLsbD 0 then 0 else 1) + (if r.sliced.getLsbD 1 then 0 else 1)

/-- Beat-registers a group's whole holding costs (R181). -/
def Vregs.holding (r : Vregs) : Nat := r.held * r.beats

/-- Free beat-registers in the pool of a partition (R181, R182): 1,536 less what the groups on it hold. -/
def State.pool (s : State) (pkg die core part : Nat) : Nat :=
  1536 - (s.groups.map fun e =>
    if e.2.pkg = pkg ∧ e.2.die = die ∧ e.2.core = core ∧ e.2.part = part ∧ e.2.life ≠ .saved then e.2.regs.holding
    else 0).sum

/-- The pool of a group's partition. -/
def State.poolOf (s : State) (g : Group) : Nat := s.pool g.pkg g.die g.core g.part

/-- A claim of n granules fits the group's budget and pool (R185). -/
def State.claimFits (s : State) (g : Group) (n : Nat) : Bool :=
  decide (4 * n * g.regs.beats ≤ (s.wg g.wg).left_) && decide (4 * n * g.regs.beats ≤ s.poolOf g)

/-- The claim a slot waits in. -/
def Slot.claim (x : Slot) : Option (Nat × Nat) :=
  match x.block with
  | some (.claim d n) => if x.st = .run then some (d, n) else none
  | _ => none

/-- A slot of a group as R188 sees it: of one that was pre-empted and SAVED as it stood at that. A wait-saved group keeps
its slots with what they wait in (R158). -/
def Group.waiting (g : Group) (k : Nat) : Slot :=
  if g.life == .saved && (g.trap.phase == .save || g.trap.hwsave) then SMap.get g.trap.stood k {} else g.slot k

/-- The slots of a group that wait in `rclaim`. -/
def claimers (gid : Nat) (g : Group) : List (Nat × Nat × Slot × Nat) :=
  [0, 1].filterMap fun k => (g.waiting k).claim.map fun c => (gid, k, g.waiting k, c.2)

/-- A claim that began waiting before cycle `t` could be granted now, on the same core (R185). -/
def State.earlierClaim (s : State) (gid k t : Nat) : Bool :=
  let g := s.group gid
  s.groups.any fun e =>
    e.2.pkg == g.pkg && e.2.die == g.die && e.2.core == g.core && e.2.life != .saved &&
      (claimers e.1 e.2).any fun c =>
        !(c.1 == gid && c.2.1 == k) && decide (c.2.2.1.since < t) && decide (e.2.regs.granules + c.2.2.2 ≤ 48)
          && s.claimFits e.2 c.2.2.2

/-- Registers above the base block from one granule on, as a range of numbers. -/
def granuleRegs (g n : Nat) : List Nat := (List.range (4 * n)).map (32 + 4 * g + ·)

/-- Registers of a list are zero and clean. -/
def Vregs.zero (r : Vregs) (l : List Nat) : Vregs :=
  { r with
    v := r.v.filter fun e => !l.contains e.1
    poison := r.poison.filter fun e => !l.contains e.1
    consumed := r.consumed.filter fun e => !l.contains e.1 }

/-- The budget of a workgroup grows or shrinks. -/
def State.setLeft (s : State) (w left_ : Nat) : State := s.setWg w { s.wg w with left_ := left_ }

/-- `rclaim` (R183). DEDUCED (log 88): the pool is charged at the grant, as R183 and R269 have it, where R270's pools show no
charge. -/
def execRclaim (d n : BitVec 8) (s : State) : Outcome State Fault Refusal :=
  finish do
    s.need [d]
    let g := s.grp
    let k := n.toNat
    guardRes (k != 0 && decide (g.regs.granules + k ≤ 48)) s.illegal
    let x := s.slot s.cur
    let t := if x.claim = some (d.toNat, k) then x.since else s.cycle
    guardRes (s.claimFits g k && !s.earlierClaim (gidOf s.cur) (slotNo s.cur) t) (.wait (.claim d.toNat k) s)
    let s1 := s.setLeft g.wg ((s.wg g.wg).left_ - 4 * k * g.regs.beats)
    let r := { g.regs.zero (granuleRegs g.regs.granules k) with granules := g.regs.granules + k }
    .ok (((s1.setGrp { g with regs := r }).writeS d (BitVec.ofNat 64 r.granules)).retire)

/-- `rgive` (R184). -/
def execRgive (d n : BitVec 8) (s : State) : Outcome State Fault Refusal :=
  finish do
    s.need [d]
    let g := s.grp
    let k := n.toNat
    guardRes (k != 0 && decide (k ≤ g.regs.granules)) s.illegal
    let l := granuleRegs (g.regs.granules - k) k
    s.need [] l
    let s1 := s.setLeft g.wg ((s.wg g.wg).left_ + 4 * k * g.regs.beats)
    let r := { g.regs.zero l with granules := g.regs.granules - k }
    .ok (((s1.setGrp { g with regs := r }).writeS d (BitVec.ofNat 64 r.granules)).retire)

/-- A beat may be sliced: each of its lanes is in EXITED or no work item (R186). -/
def Group.beatDone (g : Group) (b : Nat) : Bool :=
  !g.regs.sliced.getLsbD b && (g.live >>> (32 * b)) &&& 0xFFFFFFFF == 0

/-- `rslice` (R186). -/
def execRslice (s : State) : Outcome State Fault Refusal :=
  let g := s.grp
  let b0 := g.beatDone 0
  let b1 := g.beatDone 1
  let freed := g.regs.held * (b0.toNat + b1.toNat)
  let sliced := g.regs.sliced ||| BitVec.ofNat 2 (b0.toNat + 2 * b1.toNat)
  let s1 := s.setLeft g.wg ((s.wg g.wg).left_ + freed)
  finish (.ok ((s1.setGrp { g with regs := { g.regs with sliced := sliced } }).retire))

/-- `rquery` (R187). -/
def execRquery (d : BitVec 8) (s : State) : Outcome State Fault Refusal :=
  finish do
    s.need [d]
    let g := s.grp
    let v := g.regs.sliced.toNat * 2 ^ 48 + s.poolOf g % 2 ^ 16 * 2 ^ 32 + g.regs.granules * 2 ^ 16
      + (s.wg g.wg).left_ % 2 ^ 16
    .ok ((s.writeS d (BitVec.ofNat 64 v)).retire)

/-- The word of an `rclaim`. -/
def rclaimWord (d n : Nat) : Word := BitVec.ofNat 32 (0xB0 * 2 ^ 24 + d * 2 ^ 16 + n)

/-- CLAIM_GRANT: the claim that slot k of the group waits in is examined; it is granted if it fits and no claim that
began waiting before it fits, and traps if the group could not hold it (R185). -/
def execClaimGrant (gid k : Nat) (s : State) : Outcome State Fault Refusal :=
  match ((s.group gid).slot k).claim with
  | none => .next s
  | some (d, n) =>
    let g := s.group gid
    let settled := decide (48 < g.regs.granules + n) || s.claimFits g n && !s.earlierClaim gid k (g.slot k).since
    if g.life = .saved || s.isStopped (.slot gid k) || g.hart.handler && k = 1 || !settled then .next s
    else execRclaim (BitVec.ofNat 8 d) (BitVec.ofNat 8 n) { s with cur := .slot gid k, word := rclaimWord d n }

/-! ## Claim deadlock (R188) -/

/-- A slot is stuck for R188: in `rclaim`, or in `barwait` for arrivals. -/
def State.claimStuck (s : State) (x : Slot) : Bool :=
  match x.block with
  | some (.claim _ _) => x.st == .run
  | some (.barrier key p) =>
    x.st == .run && !(s.bar key).done p.toNat && (!(s.bar key).armed || decide ((s.bar key).arr < (s.bar key).exparr))
  | _ => false

/-- A slot of a group counts as blocked for R188: FREE, stuck, or in WAIT beside a stuck partner. -/
def State.claimBlocked (s : State) (x y : Slot) : Bool :=
  match x.st with
  | .free => true
  | .run => s.claimStuck x
  | .wait => s.claimStuck y

/-- The groups of a workgroup that are not RELEASED. -/
def State.groupsOf (s : State) (w : Nat) : List (Nat × Group) := s.groups.filter fun e => e.2.wg == w

/-- The pending claims of a workgroup: group, slot, its state, granules. -/
def State.claimsOf (s : State) (w : Nat) : List (Nat × Nat × Slot × Nat) :=
  (s.groupsOf w).flatMap fun e => claimers e.1 e.2

/-- The workgroup is in claim deadlock. -/
def State.claimDeadlock (s : State) (w : Nat) : Bool :=
  let cs := s.claimsOf w
  !cs.isEmpty
    && cs.all (fun c => decide ((s.wg w).left_ < 4 * c.2.2.2 * (s.group c.1).regs.beats))
    && (s.groupsOf w).all fun e =>
      s.claimBlocked (e.2.waiting 0) (e.2.waiting 1) && s.claimBlocked (e.2.waiting 1) (e.2.waiting 0)

/-- A slot has started to block in the cycle before the present one. -/
def Slot.blockedNow (x : Slot) (cycle : Nat) : Bool :=
  x.st != .free && (x.block.isSome || x.st == .wait) && x.since + 1 == cycle

/-- The test of R188, made when a slot of the workgroup starts to block: the workgroup keeps from when the condition has
held. -/
def State.claimTested (s : State) (id : Nat) (w : Workgroup) : Workgroup :=
  if !s.claimDeadlock id then { w with stuckAt := none }
  else if w.stuckAt.isNone && (s.groupsOf id).any (fun e => e.2.slot0.blockedNow s.cycle || e.2.slot1.blockedNow s.cycle) then
    { w with stuckAt := some (s.cycle - 1) }
  else w

/-- The claim that takes the fault: largest n, then lowest f1, then slot 0. -/
def pickClaim : List (Nat × Nat × Slot × Nat) → Option (Nat × Nat × Slot × Nat)
  | [] => none
  | c :: cs => match pickClaim cs with
    | none => some c
    | some e => if c.2.2.2 < e.2.2.2 then some e else some c

/-- The condition has held from a test on for 256 cycles. -/
def State.claimDue (s : State) (w : Nat) : Bool :=
  match (s.wg w).stuckAt with
  | some t => s.claimDeadlock w && decide (t + 256 ≤ s.cycle)
  | none => false

/-- CLAIM_DEADLOCK_FAULT: where the condition has held for 256 cycles, the fault is taken on one `rclaim`. DESIGN CHOICE
(log 92): on one of a group that is not SAVED. -/
def execClaimDeadlockFault (w : Nat) (s : State) : Outcome State Fault Refusal :=
  if s.claimDue w && !((s.wg w).groups.any fun g => s.isStopped (.slot g 0)) then
    match pickClaim ((s.claimsOf w).filter fun c => (s.group c.1).life != .saved) with
    | none => .next s
    | some (gid, k, x, n) =>
      let cost := 4 * n * (s.group gid).regs.beats
      let d := match x.claim with | some c => c.1 | none => 0
      .next ((s.setSlot (.slot gid k) { x with block := none }).takeTrap (.slot gid k)
        { cause := 9, tpc := x.pc, resume := x.pc,
          addr := BitVec.ofNat 64 (cost * 2 ^ 24 + (s.wg w).left_ % 2 ^ 16 * 2 ^ 8 + n),
          word := rclaimWord d n, slot := k, done := x.done })
  else .next s

end Sys2Proof.Machine
end

