-- ==== Sys2Proof/Machine/Distributor.lean ====
section
/-! DEFINITION. The distributor: fitting workgroups on cores, placing launches, gangs, records and formed groups, and the
release of groups (R114 to R119, R126, R127, R144 to R150, R156, R159, R182, R206, R210, R302, R412). -/

namespace Sys2Proof.Machine

open Host (Outcome)

/-! ## What fits on a core -/

/-- What a workgroup needs of a core. -/
structure Need where
  /-- its groups, and the granules each starts with -/
  groups : Nat
  initg : Nat := 0
  /-- bytes of its region -/
  bytes : Nat
  oslots : Nat := 0
  aslots : Nat := 0
  /-- it is placed on reserved cores, by this launch -/
  reserve : Option Nat := none
  /-- it may stand on a follower (R302) -/
  follower : Bool := false
  /-- its priority level (R146) -/
  level : Nat := 0
deriving DecidableEq, Repr

/-- Where a workgroup goes. -/
structure Plan where
  die : Nat
  core : Nat
  base : Nat
  gslots : List Nat
  oslots : List Nat
  aslots : List Nat
deriving DecidableEq, Repr

/-- The groups that occupy a core. -/
def State.groupsOn (s : State) (pkg die core : Nat) : List Group :=
  (s.groups.map Prod.snd).filter fun g => g.pkg == pkg && g.die == die && g.core == core && g.life != .saved

/-- The group slots of a partition that are free. -/
def freeSlots (on : List Group) (part : Nat) : List Nat :=
  (List.range 16).filter fun k => !(on.any fun g => g.part == part && g.gslot == k)

/-- What one group is charged at placement (R182). -/
def groupCharge (initg : Nat) : Nat := 2 * (32 + 4 * initg)

/-- How many of n groups sit on a partition (R116). -/
def onPartition (n part : Nat) : Nat := (n + 3 - part) / 4

/-- A pending claim on a partition fits its budget but not the pool: nothing new is placed there (R185). -/
def State.claimHolds (s : State) (pkg die core part : Nat) : Bool :=
  s.groups.any fun e =>
    e.2.pkg == pkg && e.2.die == die && e.2.core == core && e.2.part == part && e.2.life != .saved
      && (claimers e.1 e.2).any fun c =>
        decide (4 * c.2.2.2 * e.2.regs.beats ≤ (s.wg e.2.wg).left_)
          && decide (s.poolOf e.2 < 4 * c.2.2.2 * e.2.regs.beats)

/-- The parts of a stream's number. -/
def streamPkg (k : Nat) : Nat := k / 2 ^ 15
def streamCtx (k : Nat) : Nat := k / 512 % 64
def streamPrio (k : Nat) : Nat := k % 4

/-- Saved groups that are eligible again and wait for room on a partition, at a level or a higher one: they go ahead of
new work of their level (R158). -/
def State.aheadOn (s : State) (pkg die core part level : Nat) : List Group :=
  (s.groups.map Prod.snd).filter fun g =>
    g.ahead && g.life == .saved && g.pkg == pkg && g.die == die && g.core == core && g.part == part
      && decide (level ≤ streamPrio (s.wg g.wg).stream)

/-- The pools and group slots of a core meet n groups, beside the saved groups that go ahead of them. -/
def State.partitionsFit (s : State) (pkg die core : Nat) (n : Need) : Bool :=
  let on := s.groupsOn pkg die core
  (List.range 4).all fun p =>
    let k := onPartition n.groups p
    let first := s.aheadOn pkg die core p n.level
    k == 0 || (decide (k + first.length ≤ (freeSlots on p).length)
      && decide (k * groupCharge n.initg + (first.map fun g => g.regs.holding).sum ≤ s.pool pkg die core p)
      && !s.claimHolds pkg die core p)

/-- The group slots n groups take: group g the (g / 4)-th free one of partition g mod 4. -/
def State.slotsFor (s : State) (pkg die core n : Nat) : List Nat :=
  let on := s.groupsOn pkg die core
  (List.range n).map fun g => (freeSlots on (g % 4)).getD (g / 4) 0

/-- Units of a core's slice from one on are all FREE. -/
def State.unitsFree (s : State) (pkg die core first n : Nat) : Bool :=
  match s.coreSlice pkg die core 0 with
  | none => false
  | some k => (List.range n).all fun i => (SMap.find s.units ((k - sliceBase) / 1024 + first + i)).isNone

/-- The units that n bytes take. -/
def unitsIn (n : Nat) : Nat := (n + 1023) / 1024

/-- The lowest slice offset at which a region fits, a multiple of 1,024 (R119). -/
def State.regionAt (s : State) (pkg die core bytes : Nat) : Option Nat :=
  ((List.range (1025 - unitsIn bytes)).find? fun u => s.unitsFree pkg die core u (unitsIn bytes)).map (1024 * ·)

/-- The key of a domino. -/
def dominoKey (pkg die n : Nat) : Nat := (pkg * 16 + die) * 64 + n

def State.domino (s : State) (k : Nat) : Domino := SMap.get s.dominoes k {}
def State.setDomino (s : State) (k : Nat) (d : Domino) : State := { s with dominoes := SMap.put s.dominoes k d }

/-- LGBLK and the scale window of a reservation record (R306). -/
def recLgblk (r : Dword) : Nat := bits r 7 5
def recWindow (r : Dword) : Nat := bits r 15 8 / 16

/-- The scale windows that some operand slots own (R306). -/
def windowsOf (l : SMap OSlot) : List Nat :=
  l.filterMap fun e => if e.2.st != .free && recLgblk e.2.record != 0 then some (recWindow e.2.record) else none

/-- The lowest free operand slots and accumulators of a domino, if there are that many (R302). -/
def Domino.freeOslots (d : Domino) (n : Nat) : Option (List Nat) :=
  let l := (List.range 64).filter fun k => (SMap.find d.slots k).isNone
  if n ≤ l.length then some (l.take n) else none
def Domino.freeAslots (d : Domino) (n : Nat) : Option (List Nat) :=
  let l := (List.range 8).filter fun k => (SMap.find d.accs k).isNone
  if n ≤ l.length then some (l.take n) else none

/-- A core is reserved for collectives (R159, R393): the k highest-numbered dominoes of each die. -/
def State.coreReserved (s : State) (pkg core : Nat) : Bool := decide (44 ≤ core / 2 + (s.pkg pkg).reserved)

/-- The reservation rule (R159). -/
def State.reserveFits (s : State) (pkg die core : Nat) (n : Need) : Bool :=
  match n.reserve with
  | none => !s.coreReserved pkg core
  | some id => s.coreReserved pkg core && (s.groupsOn pkg die core).all fun g => (s.wg g.wg).launch == some id

/-- The plan of a workgroup on one core, if it fits. -/
def State.planOn (s : State) (pkg die core : Nat) (n : Need) : Option Plan :=
  let dom := s.domino (dominoKey pkg die (core / 2))
  let slots := decide (0 < n.oslots + n.aslots)
  if !s.reserveFits pkg die core n || (slots && core % 2 == 1 && !n.follower) || !s.partitionsFit pkg die core n then none
  else
    match s.regionAt pkg die core n.bytes, dom.freeOslots n.oslots, dom.freeAslots n.aslots with
    | some b, some o, some a =>
      some { die := die, core := core, base := b, gslots := s.slotsFor pkg die core n.groups, oslots := o, aslots := a }
    | _, _, _ => none

/-- The enabled cores of some dies, in order. -/
def State.coresOf (s : State) (pkg : Nat) (dies : List Nat) : List (Nat × Nat) :=
  dies.flatMap fun d => ((List.range 88).filter fun c => (s.placeEntry pkg d c).getLsbD 7).map fun c => (d, c)

/-- The plan on some core: of those that fit, the one that `pref` picks (log 2). -/
def pickPlan (plans : List (Nat × Nat)) (f : Nat → Nat → Option Plan) (pref : Nat) : Option Plan :=
  if pref = 0 then plans.findSome? fun c => f c.1 c.2
  else
    let l := plans.filterMap fun c => f c.1 c.2
    l[pref % max 1 l.length]?

/-! ## Placing a workgroup -/

/-- Tags the units of a region for a context (R210). -/
def State.tagUnits (s : State) (pkg die core base n : Nat) (t : UnitTag) : State :=
  match s.coreSlice pkg die core 0 with
  | none => s
  | some k =>
    { s with
      units := (List.range n).foldl (fun m i => SMap.put m ((k - sliceBase) / 1024 + base / 1024 + i) t) s.units
      race := s.race.forget (k + base) (1024 * n) }

/-- Makes the units of a region FREE. -/
def State.freeUnits (s : State) (pkg die core base n : Nat) : State :=
  match s.coreSlice pkg die core 0 with
  | none => s
  | some k =>
    let u := (k - sliceBase) / 1024 + base / 1024
    { s with units := s.units.filter fun e => !(decide (u ≤ e.1) && decide (e.1 < u + n)) }

/-- Reserves operand slots and accumulators for a workgroup (R302, R303, R308). -/
def Domino.reserve (d : Domino) (w : Nat) (o a : List Nat) : Domino :=
  { d with
    slots := o.foldl (fun m k => SMap.put m k { wg := w }) d.slots
    accs := a.foldl (fun m k => SMap.put m k { wg := w }) d.accs }

/-- Zero bytes, 32 at a time: the barriers of a region (R240). -/
def State.zeroBars (s : State) (key : Nat) (org : BitVec 16) (n : Nat) : State :=
  (List.range n).foldl (fun s j =>
    { s.putBytes (key + 32 * j) 32 0 org with armers := SMap.erase s.armers (key + 32 * j) }) s

/-- A group before its first instruction, by what R126, R150 and R206 have in common. -/
def freshGroup (pkg ctx wg : Nat) (p : Plan) (i : Nat) (area : Nat) (entry : Dword) (items : Lanes)
    (sregs : List (Nat × Dword)) (cycle : Nat) : Group :=
  let lo : Dword := 0x00E0000000000000 + BitVec.ofNat 64 area
  { pkg := pkg, die := p.die, core := p.core, part := i % 4, gslot := p.gslots.getD i 0, wg := wg, items := items
    hart := { ctx := ctx, sregs := sregs.foldl (fun m e => SMap.put m e.1 e.2) [(60, lo + 1024)] }
    slot0 := { st := .run, pc := codeAddr entry, own := items, mask := items }
    dslo := lo, dshi := lo + 1024, placedAt := cycle }

/-- A workgroup of n groups comes to stand on its core, all of it at once (R144). -/
def State.placeWg (s : State) (pkg ctx : Nat) (n : Need) (p : Plan) (w : Workgroup) (race : Bool)
    (mk : Nat → Nat → Group) : Nat × State :=
  let (id, s) := s.fresh
  let ids := (List.range n.groups).map (s.nextId + ·)
  let s := { s with nextId := s.nextId + n.groups }
  let w := { w with pkg := pkg, die := p.die, core := p.core, ctx := ctx, groups := ids, base := p.base, bytes := n.bytes,
                    oslots := p.oslots, aslots := p.aslots, race := race }
  let s := (s.setWg id w).tagUnits pkg p.die p.core p.base (unitsIn n.bytes) { ctx := ctx, race := race }
  let k := dominoKey pkg p.die (p.core / 2)
  let s := if p.oslots.isEmpty && p.aslots.isEmpty then s
    else s.setDomino k ((s.domino k).reserve id p.oslots p.aslots)
  (id, (ids.zipIdx).foldl (fun s e => s.setGroup e.1 (mk id e.2)) s)

/-! ## Launches (R114 to R116, R144, R148) -/

/-- Extent of field j of the groups this package creates. -/
def Launch.radix (l : Launch) (j : Nat) : Nat :=
  match l.part with
  | some (i, _) => if i = j then 1 else l.extent j
  | none => l.extent j

/-- Value of field j, 2 to 5, in the n-th workgroup of this package. -/
def Launch.fieldOf (l : Launch) (n j : Nat) : Nat :=
  match l.part with
  | some (i, k) => if i = j then k else plain
  | none => plain
where plain : Nat := n / ((List.range (j - 2)).map fun i => l.radix (i + 2)).prod % max 1 (l.radix j)

/-- Workgroups this package places. -/
def Launch.wgCount (l : Launch) : Nat := ((List.range 4).map fun i => l.radix (i + 2)).prod

/-- Workgroups of one gang on this package (R116). -/
def Launch.gangSize (l : Launch) : Nat :=
  if l.gang = 1 then 1
  else if l.gang = l.extent 2 then l.radix 2
  else l.radix 2 * l.radix 3

/-- The gang rank of the n-th workgroup. -/
def Launch.rankOf (l : Launch) (n : Nat) : Nat :=
  if l.gang = 1 then 0
  else if l.gang = l.extent 2 then l.fieldOf n 2
  else l.fieldOf n 2 + l.extent 2 * l.fieldOf n 3

/-- What a workgroup of a launch needs. -/
def Launch.need (l : Launch) (id : Nat) : Need :=
  { groups := l.extent 1, initg := l.initg, bytes := l.slice + 1024 * l.extent 1, oslots := l.oslots, aslots := l.aslots
    reserve := if l.reserve then some id else none, level := l.prio }

/-- The identifier lane 0 of group f1 of the n-th workgroup carries (R115). -/
def Launch.wid0 (l : Launch) (n f1 : Nat) : Dword :=
  let f (j : Nat) := (if j = 1 then f1 else l.fieldOf n j) * 2 ^ l.shift j
  l.word 0x08 ||| BitVec.ofNat 64 (((List.range 5).map fun i => f (i + 1)).sum)

/-- Group f1 of the n-th workgroup of a launch as it starts (R126). -/
def Launch.groupAt (l : Launch) (n : Nat) (p : Plan) (cycle wg f1 : Nat) : Group :=
  let g := freshGroup l.pkg l.ctx wg p f1 (p.base + l.slice + 1024 * f1) (l.word 0) (lanesBelow (l.extent 0))
    [(1, l.args)] cycle
  { g with wid0 := l.wid0 n f1, regs := { granules := l.initg },
           trap := { traph := l.word 0x68, preempth := l.word 0x70 } }

/-- Places the n-th workgroup of a launch where a plan says. -/
def State.placeLaunchWg (s : State) (id : Nat) (stream : Nat) (n : Nat) (p : Plan) : Nat × State :=
  let l := s.launch id
  let need := l.need id
  let charge := need.groups * groupCharge l.initg
  let w : Workgroup :=
    { launch := some id, stream := stream, rank := l.rankOf n, left_ := 2 * l.budget - charge, bars := 32 * l.bars }
  let (wid, s1) := s.placeWg l.pkg l.ctx need p w l.racechk (l.groupAt n p s.cycle)
  let s2 := match s1.coreSlice l.pkg p.die p.core p.base with
    | none => s1
    | some k => s1.zeroBars k (originOf 1 p.die p.core) (min l.bars (l.slice / 32))
  (wid, ((s2.wg wid).groups).foldl (fun s g => s.learnAll (s.groupWhos g) l.know) s2)

/-- The plan of the next workgroup of a launch without a gang. -/
def State.planNext (s : State) (id pref : Nat) : Option Plan :=
  let l := s.launch id
  pickPlan (s.coresOf l.pkg (List.range 8)) (fun d c => s.planOn l.pkg d c (l.need id)) pref

/-- Reserves the pair of gang ranks n and n + 1 on the leader and the follower of one domino (R148, R301). -/
def State.placePair (s : State) (id stream n pref : Nat) : Option State :=
  let l := s.launch id
  let need := l.need id
  let both (d c : Nat) : Option State :=
    if c % 2 = 1 then none
    else match s.planOn l.pkg d c need with
      | none => none
      | some p =>
        let (w1, s1) := s.placeLaunchWg id stream n p
        match s1.planOn l.pkg d (c + 1) { need with follower := true } with
        | none => none
        | some q =>
          let (w2, s2) := s1.placeLaunchWg id stream (n + 1) q
          some ((s2.setWg w1 { s2.wg w1 with partner := some w2 }).setWg w2 { s2.wg w2 with partner := some w1 })
  let cores := s.coresOf l.pkg (List.range 8)
  if pref = 0 then cores.findSome? fun c => both c.1 c.2
  else
    let r := cores.filterMap fun c => both c.1 c.2
    r[pref % max 1 r.length]?

/-- Places up to `fuel` further workgroups (or pairs) of a gang from the n-th on: how many stand, and the state. -/
def State.gangFrom (s : State) (id stream first size pref have_ : Nat) : Nat → Nat × State
  | 0 => (have_, s)
  | fuel + 1 =>
    if size ≤ have_ then (have_, s)
    else if (s.launch id).domino then
      match s.placePair id stream (first + have_) pref with
      | none => (have_, s)
      | some s1 => s1.gangFrom id stream first size pref (have_ + 2) fuel
    else match s.planNext id pref with
      | none => (have_, s)
      | some p => ((s.placeLaunchWg id stream (first + have_) p).2).gangFrom id stream first size pref (have_ + 1) fuel

/-- A reservation as a state: its workgroups as if they stood (R148). -/
def State.shadowOf (s : State) (id stream : Nat) : State :=
  (s.gangFrom id stream (s.launch id).placed ((s.launch id).reserved.length) 0 0 704).2

/-- The gang of a package that is partly reserved. -/
def State.gangHeld (s : State) (pkg : Nat) : Option Nat :=
  (s.launches.find? fun e => e.2.pkg == pkg && !e.2.reserved.isEmpty).map Prod.fst

/-- What other entries see as taken: all that stands, and the reservation. -/
def State.shadow (s : State) (pkg : Nat) : State :=
  match s.gangHeld pkg with
  | none => s
  | some id => s.shadowOf id (streamKey pkg (s.launch id).ctx (s.launch id).queue (s.launch id).prio)

/-- Takes the head entry of a stream that has been placed whole. -/
def State.takeEntry (s : State) (k : Nat) (e : Entry) : State :=
  let x := s.stream k
  { s with streams := SMap.put s.streams k { x with entries := x.entries.erase e } }

/-- After n further workgroups of a launch were placed. -/
def State.launchPlaced (s : State) (k id n : Nat) : State :=
  let l := s.launch id
  let s := s.setLaunch id { l with placed := l.placed + n, reserved := [] }
  if l.wgCount ≤ l.placed + n then s.takeEntry k (.launch id) else s

/-- What an attempt to place an entry comes to. -/
inductive Attempt where
  | placed (s : State)
  /-- it does not fit; the state may hold a longer reservation -/
  | blocked (s : State)

/-- The next gang of a launch: all of it, or a reservation of what fits (R148). -/
def State.tryGang (s : State) (k id pref : Nat) : Attempt :=
  let l := s.launch id
  match s.gangHeld l.pkg with
  | some other => if other = id then go l else .blocked s
  | none => go l
where
  go (l : Launch) : Attempt :=
    let size := l.gangSize
    let (n, s1) := s.gangFrom id k l.placed size pref 0 704
    if size ≤ n then .placed (s1.launchPlaced k id size)
    else .blocked (s.setLaunch id { l with reserved := List.replicate n (0, 0) })

/-! ## Continuation records and formed groups (R150, R206) -/

def contNeed : Need := { groups := 1, bytes := 1024 }

/-- Places a continuation record as one group. -/
def State.tryCont (s : State) (k : Nat) (pkg ctx : Nat) (e : Entry) (code frame join : Dword) (know : SMap Nat)
    (pref : Nat) : Attempt :=
  let sh := s.shadow pkg
  match pickPlan (s.coresOf pkg (List.range 8)) (fun d c => sh.planOn pkg d c { contNeed with level := streamPrio k }) pref with
  | none => .blocked s
  | some p =>
    let mk (wg i : Nat) : Group :=
      freshGroup pkg ctx wg p i p.base code (BitVec.allOnes 64) [(1, frame), (2, join)] s.cycle
    let (w, s1) := s.placeWg pkg ctx contNeed p { stream := k } false mk
    .placed ((((s1.wg w).groups).foldl (fun s g => s.learnAll (s.groupWhos g) know) s1).takeEntry k e)

/-- The home of a byte of a staging area, by its blocks of 256 bytes (R203). -/
def stagedAt (l : List Nat) (off : Nat) : Nat := l.getD (off / 256) 0 + off % 256
def Formed.staged (f : Formed) (off : Nat) : Nat := stagedAt f.stage off

/-- A formed group's registers from its staging area (R206). -/
def State.stagedGroup (s : State) (f : Formed) (g : Group) : Group :=
  let words (j : Nat) : List Word := (List.range 64).map fun i =>
    if i < f.lanes then BitVec.ofNat 32 (s.bytesAt (f.staged (256 * j + 4 * i)) 4) else 0
  let wids : SMap Dword := (List.range 64).map fun i =>
    (i, if i < f.lanes then BitVec.ofNat 64 (s.bytesAt (f.staged (256 * f.ncarry + 8 * i)) 8) else 0)
  { g with
    wid0 := SMap.get wids 0 0, wids := wids, rgkey := BitVec.ofNat 64 f.key
    regs := { v := (List.range f.ncarry).map fun j => (j, words j) } }

/-- Places a formed group on its die and clears its bucket's BUSY bit. -/
def State.tryFormed (s : State) (k : Nat) (pkg ctx id : Nat) (f : Formed) (pref : Nat) : Attempt :=
  let sh := s.shadow pkg
  match pickPlan (s.coresOf pkg [f.die]) (fun d c => sh.planOn pkg d c { contNeed with level := streamPrio k }) pref with
  | none => .blocked s
  | some p =>
    let mk (wg i : Nat) : Group :=
      s.stagedGroup f (freshGroup pkg ctx wg p i p.base f.entry (lanesBelow f.lanes)
        [(1, f.args), (2, BitVec.ofNat 64 f.lanes)] s.cycle)
    let (w, s1) := s.placeWg pkg ctx contNeed p { stream := k } false mk
    let s2 := ((s1.wg w).groups).foldl (fun s g => s.learnAll (s.groupWhos g) f.know) s1
    let s3 := { s2.putBytes f.bucket 1 0 (originOf 1 f.die p.core) with formed := SMap.erase s2.formed id }
    .placed (s3.takeEntry k (.formed id))

/-! ## Examining the streams (R146, R147, R156, R412) -/

/-- Tries to place an entry of a stream. -/
def State.tryEntry (s : State) (k : Nat) (e : Entry) (pref : Nat) : Attempt :=
  let pkg := streamPkg k
  let ctx := streamCtx k
  match e with
  | .launch id =>
    let l := s.launch id
    if l.gang ≠ 1 then s.tryGang k id pref
    else match (s.shadow pkg).planNext id pref with
      | none => .blocked s
      | some p => .placed (((s.placeLaunchWg id k l.placed p).2).launchPlaced k id 1)
  | .cont code frame join know => s.tryCont k pkg ctx e code frame join know pref
  | .formed id =>
    match SMap.find s.formed id with
    | none => .placed (s.takeEntry k e)
    | some f => if f.stage.all (fun k => decide (k < savedBase)) then s.tryFormed k pkg ctx id f pref else .blocked s

/-- A stream is served: its package, its level, its context not suspended (R359). -/
def State.served (s : State) (pkg level k : Nat) : Bool :=
  streamPkg k == pkg && streamPrio k == level
    && !(s.ctx pkg (streamCtx k)).suspending && !(s.ctx pkg (streamCtx k)).suspended

/-- The entry of a PERSIST launch that a stream holds (R156). -/
def State.persistEntry (s : State) (k : Nat) : Option Entry :=
  (s.stream k).entries.find? fun e => match e with
    | .launch id => (s.launch id).persist
    | _ => false

/-- PERSIST workgroups go ahead of every other entry of their level (R156): the state after, and whether one was placed.
DESIGN CHOICE (log 80): whatever the D of their stream. -/
def State.tryPersist (s : State) (pref : Nat) : List Nat → Bool × State
  | [] => (false, s)
  | k :: ks =>
    match s.persistEntry k with
    | none => s.tryPersist pref ks
    | some e => match s.tryEntry k e pref with
      | .placed s1 => (true, s1)
      | .blocked s1 => s1.tryPersist pref ks

/-- The stream goes to the tail of the rotation, its turn over. -/
def State.turnOver (s : State) (k : Nat) : State :=
  { s with
    rotation := s.rotation.erase k ++ [k]
    streams := SMap.put s.streams k { s.stream k with turn := false } }

/-- A stream that holds no entries leaves the rotation with D := min(D, 0). -/
def State.leaveRotation (s : State) (k : Nat) : State :=
  let x := s.stream k
  { s with
    rotation := s.rotation.erase k
    streams := SMap.put s.streams k { x with turn := false, deficit := min x.deficit 0 } }

/-- The quantum of the next turn. -/
def Stream.due (x : Stream) : Nat := x.next.getD x.quantum

/-- n turns of a stream begin, the quantum set for them in force (R147, R387). -/
def Stream.turns (x : Stream) (n : Nat) : Stream :=
  if n = 0 then x else { x with quantum := x.due, next := none, deficit := x.deficit + 64 * n * x.due }

/-- Takes turns along a level's rotation until an entry is placed: the state after, and whether one was (R147). -/
def State.rotate (s : State) (pref : Nat) : List Nat → Bool × State
  | [] => (false, s)
  | k :: ks =>
    let x := s.stream k
    match x.entries with
    | [] => (s.leaveRotation k).rotate pref ks
    | e :: _ =>
      let x := if x.turn then x else { x.turns 1 with turn := true }
      let s := { s with streams := SMap.put s.streams k x }
      if x.deficit ≤ 0 then (s.turnOver k).rotate pref ks
      else match s.tryEntry k e pref with
        | .placed s1 => (true, if (s1.stream k).entries.isEmpty then s1.leaveRotation k else s1)
        | .blocked s1 => (s1.turnOver k).rotate pref ks

/-- n turns more for every stream of a list that holds entries. -/
def State.turns64 (s : State) (n : Nat) (ks : List Nat) : State :=
  ks.foldl (fun s k =>
    let x := s.stream k
    if x.entries.isEmpty then s else { s with streams := SMap.put s.streams k (x.turns n) }) s

/-- The passes over a rotation after which a stream still has D ≤ 0; none where it has D > 0, or Q = 0. -/
def Stream.shortBy (x : Stream) : Option Nat :=
  if x.entries.isEmpty || decide (0 < x.deficit) || x.due = 0 then none else some ((-x.deficit).toNat / (64 * x.due))

/-- Pass after pass along a level's rotation, until an entry is placed or no stream lacks only turns: a stream with D ≤ 0
takes further ones before a lower level is served (R146, R147). Passes in which nothing can be placed are counted
together. -/
def State.passes (s : State) (pkg level pref : Nat) : Nat → Bool × State
  | 0 => (false, s)
  | fuel + 1 =>
    let ks := s.rotation.filter (s.served pkg level)
    let (a, s1) := s.rotate pref ks
    if a then (true, s1)
    else match ks.filterMap fun k => (s1.stream k).shortBy with
      | [] => (false, s1)
      | n :: l => (s1.turns64 (l.foldl min n) ks).passes pkg level pref fuel

/-- Places one entry of a level, if one fits. -/
def State.serveLevel (s : State) (pkg level pref : Nat) : Bool × State :=
  let ks := s.rotation.filter (s.served pkg level)
  let (a, s1) := s.tryPersist pref ks
  if a then (true, s1) else s1.passes pkg level pref (ks.length + 1)

/-- The level of the gang that is partly reserved. -/
def State.heldLevel (s : State) (pkg : Nat) : Option (Nat × Nat) :=
  (s.gangHeld pkg).map fun id => (id, (s.launch id).prio)

/-- Something of a level has an entry that fits beside the reservation or without it (R148). -/
def State.levelFits (s : State) (pkg level : Nat) : Bool := (s.serveLevel pkg level 0).1

/-- Before a higher level is served, a partly reserved gang is completed if the rest of it fits now, else its
reservation is returned (R148). DESIGN CHOICE (log 18): a higher-level entry that would fit nowhere even without the
reservation is not eligible, and the reservation stands. -/
def State.settleGang (s : State) (pkg level pref : Nat) : State :=
  match s.heldLevel pkg with
  | none => s
  | some (id, held) =>
    if level ≤ held then s
    else
      let l := s.launch id
      let k := streamKey pkg l.ctx l.queue l.prio
      let freed := s.setLaunch id { l with reserved := [] }
      if !freed.levelFits pkg level then s
      else match s.tryGang k id pref with
        | .placed s1 => s1
        | .blocked _ => freed

/-- Formed groups that wait outside a full queue enter it as it has room (R146). -/
def State.admitFormed (s : State) (pkg : Nat) : State :=
  s.formed.foldl (fun s e =>
    if e.2.waits && streamPkg e.2.stream == pkg && s.hasRoom pkg (streamCtx e.2.stream) (e.2.stream / 4 % 128) then
      { s.append e.2.stream (.formed e.1) with formed := SMap.put s.formed e.1 { e.2 with waits := false } }
    else s) s

/-- Places what fits of a level: at most one entry for each group slot of the package. -/
def State.placeLevel (s : State) (pkg level pref : Nat) : Nat → State
  | 0 => s
  | n + 1 =>
    let (a, s1) := ((s.admitFormed pkg).settleGang pkg level pref).serveLevel pkg level pref
    if a then s1.placeLevel pkg level pref n else s1

/-! ## Release (R127, R147, R182) -/

/-- Charges a stream for the resident cycles of a group (R147, R156): the cycles ÷ 64, in units of 1/64. -/
def State.charge (s : State) (g : Group) : State :=
  let w := s.wg g.wg
  let k := w.stream
  let cycles := g.resident + (if g.life = .saved then 0 else s.cycle - g.placedAt)
  let persist := match w.launch with | some id => (s.launch id).persist | none => false
  let cycles := if persist then cycles - g.idle else cycles
  match SMap.find s.streams k with
  | none => s
  | some x => { s with streams := SMap.put s.streams k { x with deficit := x.deficit - (cycles : Int) } }

/-- A workgroup whose last group is RELEASED returns its region, slots and accumulators. -/
def State.releaseWg (s : State) (id : Nat) : State :=
  let w := s.wg id
  let s := if w.saved.isSome then s else s.freeUnits w.pkg w.die w.core w.base (unitsIn w.bytes)
  let k := dominoKey w.pkg w.die (w.core / 2)
  let s := if w.oslots.isEmpty && w.aslots.isEmpty then s
    else
      let d := s.domino k
      s.setDomino k { d with
        slots := d.slots.filter fun e => e.2.wg != id
        accs := d.accs.filter fun e => e.2.wg != id }
  let s := match w.partner with
    | none => s
    | some p => s.setWg p { s.wg p with partner := none }
  { s with wgs := SMap.erase s.wgs id }

/-- A launch is over on a package: every group of it is RELEASED. -/
def State.launchOver (s : State) (pkg ctx lseq : Nat) : Bool :=
  !(s.launches.any fun e => e.2.pkg == pkg && e.2.ctx == ctx && e.2.lseq == lseq && decide (0 < e.2.alive))

/-- A WAIT request's launch is over on every package. -/
def State.waitOver (s : State) (w : WaitReq) : Bool := w.launches.all fun x => s.launchOver x.1 w.req.ctx x.2

/-- The WAIT requests that have become due are answered (R400). -/
def State.answerWaits (s : State) : State :=
  s.pkgs.foldl (fun s e =>
    let due := e.2.waits.filter s.waitOver
    if due.isEmpty then s
    else
      let p := s.pkg e.1
      due.foldl (fun s w => s.send e.1 2 (reqReply w.req 0 w.req.ctx w.req.key 0 0 []))
        (s.setPkg e.1 { p with waits := p.waits.filter fun w => !s.waitOver w })) s

/-- A group is RELEASED: its holding returns to budget and pool, its stream is charged. -/
def State.releaseGroup (s : State) (gid : Nat) : State :=
  let g := s.group gid
  let s := s.charge g
  let w := s.wg g.wg
  let s := s.setWg g.wg { w with groups := w.groups.erase gid, left_ := w.left_ + g.regs.holding }
  let s := match w.launch with
    | none => s
    | some id => s.setLaunch id { s.launch id with alive := (s.launch id).alive - 1 }
  let s := { s with groups := SMap.erase s.groups gid }
  (if (s.wg g.wg).groups.isEmpty then s.releaseWg g.wg else s).answerWaits

/-- GROUP_RELEASE: a DRAINING group whose pips are all zero is RELEASED (R30, R127). -/
def execGroupRelease (gid : Nat) (s : State) : Outcome State Fault Refusal :=
  match SMap.find s.groups gid with
  | none => .next s
  | some g => if g.life = .draining && g.hart.pipsZero && g.parked = 0 then .next (s.releaseGroup gid) else .next s

end Sys2Proof.Machine
end

