-- ==== Sys2Proof/WellFormed.lean ====
section
/-! DEFINITION. The limits of operand fields that decoding checks (R35, R36, R40 check 8).
Limits that an entry itself traps on (a count of zero, a format-dependent register limit) are in the meanings. -/

namespace Sys2Proof

/-- A scalar operand code names s0 to s63 (R36). -/
def scalarOk (c : BitVec 8) : Bool := c.toNat < 64

/-- A vector source code (R35): all but 238 and 239. -/
def vsrcOk (c : BitVec 8) : Bool := c.toNat < 238 || 240 ≤ c.toNat

/-- A vector destination code (R35): a register, or 232 (`bp`). -/
def vdstOk (c : BitVec 8) : Bool := c.toNat < 224 || c.toNat == 232

/-- A field that names a vector register and nothing else (R189, R225, R234). -/
def vregOk (c : BitVec 8) : Bool := c.toNat < 224

/-- The fence control byte: bits 7:6 and 3 zero, SCOPE 0 to 5 (R247). -/
def fenceOk (c : BitVec 8) : Bool := c.toNat < 64 && !c.getLsbD 3 && c.toNat % 8 < 6

/-- An immediate below its entry's limit. -/
def below (c : BitVec 8) (n : Nat) : Bool := c.toNat < n

/-- The operand limits of every instruction; an event has none of its own. -/
def Instr.wellFormed : Instr → Bool
  | .nop => true
  | .br _ => true
  | .bz d _ => scalarOk d
  | .bnz d _ => scalarOk d
  | .bltz d _ => scalarOk d
  | .bgez d _ => scalarOk d
  | .call _ => true
  | .jr a => scalarOk a
  | .callr a => scalarOk a
  | .bsplit a _ => scalarOk a
  | .bmerge => true
  | .bany d _ => scalarOk d
  | .ball d _ => scalarOk d
  | .exit => true
  | .waitc n t => below n 12 && below t 64
  | .trap _ => true
  | .sadd d a b => scalarOk d && scalarOk a && scalarOk b
  | .ssub d a b => scalarOk d && scalarOk a && scalarOk b
  | .smul d a b => scalarOk d && scalarOk a && scalarOk b
  | .smulh d a b => scalarOk d && scalarOk a && scalarOk b
  | .smulhn d a b => scalarOk d && scalarOk a && scalarOk b
  | .sdiv d a b => scalarOk d && scalarOk a && scalarOk b
  | .sdivn d a b => scalarOk d && scalarOk a && scalarOk b
  | .srem d a b => scalarOk d && scalarOk a && scalarOk b
  | .sremn d a b => scalarOk d && scalarOk a && scalarOk b
  | .sand d a b => scalarOk d && scalarOk a && scalarOk b
  | .sor d a b => scalarOk d && scalarOk a && scalarOk b
  | .sxor d a b => scalarOk d && scalarOk a && scalarOk b
  | .sshl d a b => scalarOk d && scalarOk a && scalarOk b
  | .sshr d a b => scalarOk d && scalarOk a && scalarOk b
  | .ssar d a b => scalarOk d && scalarOk a && scalarOk b
  | .ssel d a b => scalarOk d && scalarOk a && scalarOk b
  | .sli d _ => scalarOk d
  | .slih d _ => scalarOk d
  | .slit d _ => scalarOk d
  | .saddi d a _ => scalarOk d && scalarOk a
  | .sandi d a _ => scalarOk d && scalarOk a
  | .sshli d a n => scalarOk d && scalarOk a && below n 64
  | .sshri d a n => scalarOk d && scalarOk a && below n 64
  | .ssari d a n => scalarOk d && scalarOk a && below n 64
  | .seq d a b => scalarOk d && scalarOk a && scalarOk b
  | .slt d a b => scalarOk d && scalarOk a && scalarOk b
  | .sltn d a b => scalarOk d && scalarOk a && scalarOk b
  | .smin d a b => scalarOk d && scalarOk a && scalarOk b
  | .smax d a b => scalarOk d && scalarOk a && scalarOk b
  | .sclz d a => scalarOk d && scalarOk a
  | .spopc d a => scalarOk d && scalarOk a
  | .sbfx d a b => scalarOk d && scalarOk a && scalarOk b
  | .sld8 d a _ => scalarOk d && scalarOk a
  | .sld16 d a _ => scalarOk d && scalarOk a
  | .sld32 d a _ => scalarOk d && scalarOk a
  | .sld64 d a _ => scalarOk d && scalarOk a
  | .sst8 d a _ => scalarOk d && scalarOk a
  | .sst16 d a _ => scalarOk d && scalarOk a
  | .sst32 d a _ => scalarOk d && scalarOk a
  | .sst64 d a _ => scalarOk d && scalarOk a
  | .sldx d a b => scalarOk d && scalarOk a && scalarOk b
  | .sstx d a b => scalarOk d && scalarOk a && scalarOk b
  | .srsr d _ => scalarOk d
  | .swsr d _ => scalarOk d
  | .splace d a b => scalarOk d && scalarOk a && scalarOk b
  | .sfadd d a b => scalarOk d && scalarOk a && scalarOk b
  | .sfmul d a b => scalarOk d && scalarOk a && scalarOk b
  | .sffma d a b => scalarOk d && scalarOk a && scalarOk b
  | .vadd d a b => vdstOk d && vsrcOk a && vsrcOk b
  | .vsub d a b => vdstOk d && vsrcOk a && vsrcOk b
  | .vmul d a b => vdstOk d && vsrcOk a && vsrcOk b
  | .vmulh d a b => vdstOk d && vsrcOk a && vsrcOk b
  | .vmad d a b => vdstOk d && vsrcOk a && vsrcOk b
  | .vdiv d a b => vdstOk d && vsrcOk a && vsrcOk b
  | .vrem d a b => vdstOk d && vsrcOk a && vsrcOk b
  | .vmin d a b => vdstOk d && vsrcOk a && vsrcOk b
  | .vmax d a b => vdstOk d && vsrcOk a && vsrcOk b
  | .vand d a b => vdstOk d && vsrcOk a && vsrcOk b
  | .vor d a b => vdstOk d && vsrcOk a && vsrcOk b
  | .vxor d a b => vdstOk d && vsrcOk a && vsrcOk b
  | .vshl d a b => vdstOk d && vsrcOk a && vsrcOk b
  | .vshr d a b => vdstOk d && vsrcOk a && vsrcOk b
  | .vpopc d a => vdstOk d && vsrcOk a
  | .vclz d a => vdstOk d && vsrcOk a
  | .vfadd d a b => vdstOk d && vsrcOk a && vsrcOk b
  | .vfsub d a b => vdstOk d && vsrcOk a && vsrcOk b
  | .vfmul d a b => vdstOk d && vsrcOk a && vsrcOk b
  | .vffma d a b => vdstOk d && vsrcOk a && vsrcOk b
  | .vffms d a b => vdstOk d && vsrcOk a && vsrcOk b
  | .vfdiv d a b => vdstOk d && vsrcOk a && vsrcOk b
  | .vfsqrt d a => vdstOk d && vsrcOk a
  | .vfmin d a b => vdstOk d && vsrcOk a && vsrcOk b
  | .vfmax d a b => vdstOk d && vsrcOk a && vsrcOk b
  | .vfexp2 d a => vdstOk d && vsrcOk a
  | .vflog2 d a => vdstOk d && vsrcOk a
  | .vfrcp d a => vdstOk d && vsrcOk a
  | .vfrsq d a => vdstOk d && vsrcOk a
  | .vfabs d a => vdstOk d && vsrcOk a
  | .vfscale d a b => vdstOk d && vsrcOk a && vsrcOk b
  | .vfdp2 d a b => vdstOk d && vsrcOk a && vsrcOk b
  | .vcmpeq d a b => scalarOk d && vsrcOk a && vsrcOk b
  | .vcmpne d a b => scalarOk d && vsrcOk a && vsrcOk b
  | .vcmplt d a b => scalarOk d && vsrcOk a && vsrcOk b
  | .vcmple d a b => scalarOk d && vsrcOk a && vsrcOk b
  | .vcmpun d a b => scalarOk d && vsrcOk a && vsrcOk b
  | .vsel d a b => vdstOk d && vsrcOk a && vsrcOk b
  | .vcvt d a _ => vdstOk d && vsrcOk a
  | .vmov d a => vdstOk d && vsrcOk a
  | .vbcast d a b => vdstOk d && vsrcOk a && scalarOk b
  | .vli d _ => vdstOk d
  | .vlit d _ => vdstOk d
  | .vget d a b => scalarOk d && vsrcOk a && scalarOk b
  | .vput d a b => vdstOk d && scalarOk a && scalarOk b
  | .vpack d a b => vdstOk d && vsrcOk a && vsrcOk b
  | .vunpkl d a => vdstOk d && vsrcOk a
  | .vunpkh d a => vdstOk d && vsrcOk a
  | .setmode _ => true
  | .modeone _ => true
  | .rdmode d => scalarOk d
  | .wrmode a => scalarOk a
  | .fmtset a b => scalarOk a && scalarOk b
  | .fmtget d a => scalarOk d && scalarOk a
  | .sfsub d a b => scalarOk d && scalarOk a && scalarOk b
  | .sfdiv d a b => scalarOk d && scalarOk a && scalarOk b
  | .sfmin d a b => scalarOk d && scalarOk a && scalarOk b
  | .sfmax d a b => scalarOk d && scalarOk a && scalarOk b
  | .sfcmp d a b => scalarOk d && scalarOk a && scalarOk b
  | .sfcvt d a => scalarOk d && scalarOk a
  | .sfexp2 d a => scalarOk d && scalarOk a
  | .sfsqrt d a => scalarOk d && scalarOk a
  | .sfclass d a => scalarOk d && scalarOk a
  | .vshfl d a b => vdstOk d && vsrcOk a && vsrcOk b
  | .vshup d a n => vdstOk d && vsrcOk a && below n 64
  | .vshdn d a n => vdstOk d && vsrcOk a && below n 64
  | .vxorsh d a n => vdstOk d && vsrcOk a && below n 64
  | .vballot d a => scalarOk d && vsrcOk a
  | .vscan d a c => vdstOk d && vsrcOk a && below c 16
  | .vred d a c => vdstOk d && vsrcOk a && below c 16
  | .vtopk d a _ => vregOk d && vsrcOk a
  | .vxpat d a t => vregOk d && vregOk a && below t 16
  | .xpld d a b => scalarOk d && scalarOk a && scalarOk b
  | .rgdeal d a b => scalarOk d && vsrcOk a && scalarOk b
  | .rgclose d a => scalarOk d && scalarOk a
  | .vcompact d a => vdstOk d && vsrcOk a
  | .vexpand d a => vdstOk d && vsrcOk a
  | .vld d a b => vregOk d && vsrcOk a && scalarOk b
  | .vst d a b => vregOk d && vsrcOk a && scalarOk b
  | .vld2 d a b => vregOk d && vsrcOk a && scalarOk b
  | .vst2 d a b => vregOk d && vsrcOk a && scalarOk b
  | .vlds d a b => vregOk d && scalarOk a && scalarOk b
  | .vsts d a b => vregOk d && scalarOk a && scalarOk b
  | .vldt d a b => vregOk d && vsrcOk a && scalarOk b
  | .vstt d a b => vregOk d && vsrcOk a && scalarOk b
  | .vldq d a b => vregOk d && vsrcOk a && scalarOk b
  | .vstq d a b => vregOk d && vsrcOk a && scalarOk b
  | .vpfx n a b => below n 64 && vsrcOk a && scalarOk b
  | .vatadd d a b => vregOk d && vsrcOk a && scalarOk b
  | .vatmin d a b => vregOk d && vsrcOk a && scalarOk b
  | .vatmax d a b => vregOk d && vsrcOk a && scalarOk b
  | .vatand d a b => vregOk d && vsrcOk a && scalarOk b
  | .vator d a b => vregOk d && vsrcOk a && scalarOk b
  | .vatxor d a b => vregOk d && vsrcOk a && scalarOk b
  | .vatxchg d a b => vregOk d && vsrcOk a && scalarOk b
  | .vatcas d a b => vregOk d && vsrcOk a && scalarOk b
  | .vradd d a b => vregOk d && vsrcOk a && scalarOk b
  | .vrmin d a b => vregOk d && vsrcOk a && scalarOk b
  | .vrmax d a b => vregOk d && vsrcOk a && scalarOk b
  | .barinit d a b => scalarOk d && scalarOk a && scalarOk b
  | .bararr d a b => scalarOk d && scalarOk a && scalarOk b
  | .barwait d a b => scalarOk d && scalarOk a && scalarOk b
  | .fence c => fenceOk c
  | .gfence => true
  | .rclaim d _ => scalarOk d
  | .rgive d _ => scalarOk d
  | .rslice => true
  | .rquery d => scalarOk d
  | .fwpub n => below n 8
  | .fwend _ => true
  | .cpush d a => scalarOk d && scalarOk a
  | .cjoin d a => scalarOk d && scalarOk a
  | .qpush d a b => scalarOk d && scalarOk a && scalarOk b
  | .qpop d a => scalarOk d && scalarOk a
  | .launch d a b => scalarOk d && scalarOk a && scalarOk b
  | .oclaim d a => scalarOk d && scalarOk a
  | .orel a => scalarOk a
  | .ofill d a b => scalarOk d && scalarOk a && scalarOk b
  | .ofillv d a b => scalarOk d && vregOk a && scalarOk b
  | .mma d a b => scalarOk d && scalarOk a && scalarOk b
  | .mmas d a b => scalarOk d && scalarOk a && scalarOk b
  | .mmar d a b => scalarOk d && scalarOk a && scalarOk b
  | .mmaz d a b => scalarOk d && scalarOk a && scalarOk b
  | .oread d a b => vregOk d && scalarOk a && scalarOk b
  | .owrite d a b => vregOk d && scalarOk a && scalarOk b
  | .ostore d a b => scalarOk d && scalarOk a && scalarOk b
  | .mtest _ => true
  | .mfence => true
  | .orec d a b => scalarOk d && scalarOk a && scalarOk b
  | .eappend d a b => scalarOk d && scalarOk a && scalarOk b
  | .eseq d a => scalarOk d && scalarOk a
  | .relay d a b => scalarOk d && scalarOk a && scalarOk b
  | .tdesc d a => scalarOk d && scalarOk a
  | .tquery d a b => scalarOk d && scalarOk a && scalarOk b
  | .tfree d a => scalarOk d && scalarOk a
  | .trig d a b => scalarOk d && scalarOk a && scalarOk b
  | .tbset a b => scalarOk a && scalarOk b
  | .tbclr a b => scalarOk a && scalarOk b
  | .tbread d a => scalarOk d && scalarOk a
  | .evpoll d a => scalarOk d && scalarOk a
  | .evack d a b => scalarOk d && scalarOk a && scalarOk b
  | .tilebeg d a => scalarOk d && scalarOk a
  | .tileend d => scalarOk d
  | .vcput d a b => vregOk d && vsrcOk a && vsrcOk b
  | .vcget d a b => vregOk d && vsrcOk a && vsrcOk b
  | .vcred d a b => vregOk d && vsrcOk a && vsrcOk b
  | .a2aplan d a => scalarOk d && scalarOk a
  | .satadd d a b => scalarOk d && scalarOk a && scalarOk b
  | .satcas d a b => scalarOk d && scalarOk a && scalarOk b
  | .tret => true
  | .pdone => true
  | .brk _ => true
  | .svc _ => true
  | .tmark _ a b => scalarOk a && scalarOk b
  | .wfe _ => true
  | .rippleRound _ _ => true
  | .publishArrival _ => true
  | .distributorExamination _ _ => true
  | .groupRelease _ => true
  | .waitSave _ => true
  | .savedGroupRelaunch _ _ => true
  | .claimGrant _ _ => true
  | .claimDeadlockFault _ => true
  | .faultRecordPost _ => true
  | .faultReplyReplay _ _ => true
  | .faultReplyReject _ _ => true
  | .scalarAccessComplete _ => true
  | .vectorAccessComplete _ => true
  | .atomicRequestComplete _ => true
  | .collectiveComplete _ => true
  | .deferredDataIntegrityFault _ => true
  | .commandStart _ => true
  | .commandComplete _ => true
  | .eventRecordPost _ => true
  | .relayFactoringDone _ => true
  | .relayPassStart _ => true
  | .relayPassComplete _ => true
  | .stampRecordWrite _ => true
  | .fillComplete _ => true
  | .slotReleaseComplete _ _ => true
  | .matrixOperationStart _ => true
  | .raggedFenceRead _ => true
  | .matrixOperationComplete _ => true
  | .selfTestInject _ _ => true
  | .trapEntry _ => true
  | .escalationRecordPost _ => true
  | .escalationReplyResume _ _ => true
  | .escalationReplyEnd _ _ => true
  | .systemCoreTrapEntry _ => true
  | .preemptionRequestTaken _ => true
  | .hardwareSave _ => true
  | .contextSuspend _ _ => true
  | .suspensionComplete _ _ => true
  | .contextResume _ _ => true
  | .addressComparatorFire _ _ => true
  | .registerFileError _ _ _ => true
  | .eccError _ _ => true
  | .translationFlush _ => true
  | .timensWrite _ => true
  | .cqpushWrite _ => true
  | .sevsendWrite _ => true
  | .reqsendWrite _ => true
  | .unitTag _ => true
  | .unitFree _ => true
  | .boardAllot _ => true
  | .boardFree _ => true
  | .streamqWrite _ => true
  | .plentWrite _ => true
  | .routeTableWrite _ _ => true
  | .systemRegisterWrite _ _ => true
  | .maelubStop _ => true
  | .maelubRun _ => true
  | .maelubStep _ => true
  | .maelubStepTimeout _ => true
  | .maelubDump _ => true
  | .maelubRdmem _ => true
  | .maelubWrmem _ => true
  | .maelubRdsr _ => true
  | .maelubWrsr _ => true
  | .maelubWrreg _ => true
  | .maelubStatus _ => true
  | .requestSlotWrite _ _ => true
  | .reqOpen _ => true
  | .reqClose _ => true
  | .reqMap _ => true
  | .reqUnmap _ => true
  | .reqLoad _ => true
  | .reqQueue _ => true
  | .reqLaunch _ => true
  | .reqRead _ => true
  | .reqWrite _ => true
  | .reqFmt _ => true
  | .reqReserve _ => true
  | .reqSuspend _ => true
  | .reqDebug _ => true
  | .reqWait _ => true
  | .reqSlice _ => true
  | .reqBoard _ => true
  | .reqQuantum _ => true
  | .flitReceive _ _ _ => true
  | .remoteAccessTimeout _ => true
  | .linkBringUp _ _ _ => true
  | .planPhaseStart _ => true
  | .planComplete _ => true
  | .wfeTimeout _ => true
  | .traceSample _ => true
  | .powerOn _ _ => true
  | .thermalThrottle _ _ _ => true
  | .thermalPowerOff _ _ => true
  | .powerOff _ => true

end Sys2Proof
end

