-- ==== Sys2Proof/Decode.lean ====
section
/-! DEFINITION. Words to instructions and back, from the encoding tables of the spec (R26, R31, R32, R42 and each entry). -/

namespace Sys2Proof

/-- Why a word is no instruction (R40). -/
inductive DecodeErr where
  /-- bits 31:28 are 0b1111: a header word (R26, R40 check 3) -/
  | header
  /-- an opcode of R42's reserved list (R40 check 6, R44) -/
  | reservedOpcode (op : Nat)
  /-- a field that the entry marks unused is not zero (R40 check 8) -/
  | unusedField
  /-- an operand or immediate outside the entry's limits (R40 check 8) -/
  | operandRange
deriving DecidableEq, Repr

/-- The opcode, bits 31:24 (R31). -/
def opcodeOf (w : Word) : Nat := w.toNat / 2 ^ 24
/-- Field d, bits 23:16. -/
def fD (w : Word) : BitVec 8 := w.extractLsb' 16 8
/-- Field a, bits 15:8. -/
def fA (w : Word) : BitVec 8 := w.extractLsb' 8 8
/-- Field b or imm8, bits 7:0. -/
def fB (w : Word) : BitVec 8 := w.extractLsb' 0 8
/-- imm16, bits 15:0. -/
def f16 (w : Word) : BitVec 16 := w.extractLsb' 0 16
/-- imm24, bits 23:0. -/
def f24 (w : Word) : BitVec 24 := w.extractLsb' 0 24

/-- Reading under the condition that the unused bits are zero (R40 check 8). -/
def unusedZero (z : Bool) (i : Instr) : Except DecodeErr Instr := if z then .ok i else .error .unusedField

/-- Row 0x0 of the opcode map (R42). -/
def decodeRow0 (lo : Nat) (w lit : Word) : Except DecodeErr Instr :=
  match lo with
  | 0 => unusedZero (f24 w = 0) (.nop)
  | 1 => .ok (.br (f24 w))
  | 2 => .ok (.bz (fD w) (f16 w))
  | 3 => .ok (.bnz (fD w) (f16 w))
  | 4 => .ok (.bltz (fD w) (f16 w))
  | 5 => .ok (.bgez (fD w) (f16 w))
  | 6 => .ok (.call (f24 w))
  | 7 => unusedZero (fD w = 0 && fB w = 0) (.jr (fA w))
  | 8 => unusedZero (fD w = 0 && fB w = 0) (.callr (fA w))
  | 9 => unusedZero (fD w = 0 && fB w = 0) (.bsplit (fA w) lit)
  | 10 => unusedZero (f24 w = 0) (.bmerge)
  | 11 => .ok (.bany (fD w) (f16 w))
  | 12 => .ok (.ball (fD w) (f16 w))
  | 13 => unusedZero (f24 w = 0) (.exit)
  | 14 => unusedZero (fA w = 0) (.waitc (fD w) (fB w))
  | _ => .ok (.trap (f24 w))

/-- Row 0x1 of the opcode map (R42). -/
def decodeRow1 (lo : Nat) (w lit : Word) : Except DecodeErr Instr :=
  match lo with
  | 0 => .ok (.sadd (fD w) (fA w) (fB w))
  | 1 => .ok (.ssub (fD w) (fA w) (fB w))
  | 2 => .ok (.smul (fD w) (fA w) (fB w))
  | 3 => .ok (.smulh (fD w) (fA w) (fB w))
  | 4 => .ok (.smulhn (fD w) (fA w) (fB w))
  | 5 => .ok (.sdiv (fD w) (fA w) (fB w))
  | 6 => .ok (.sdivn (fD w) (fA w) (fB w))
  | 7 => .ok (.srem (fD w) (fA w) (fB w))
  | 8 => .ok (.sremn (fD w) (fA w) (fB w))
  | 9 => .ok (.sand (fD w) (fA w) (fB w))
  | 10 => .ok (.sor (fD w) (fA w) (fB w))
  | 11 => .ok (.sxor (fD w) (fA w) (fB w))
  | 12 => .ok (.sshl (fD w) (fA w) (fB w))
  | 13 => .ok (.sshr (fD w) (fA w) (fB w))
  | 14 => .ok (.ssar (fD w) (fA w) (fB w))
  | _ => .ok (.ssel (fD w) (fA w) (fB w))

/-- Row 0x2 of the opcode map (R42). -/
def decodeRow2 (lo : Nat) (w lit : Word) : Except DecodeErr Instr :=
  match lo with
  | 0 => .ok (.sli (fD w) (f16 w))
  | 1 => .ok (.slih (fD w) (f16 w))
  | 2 => unusedZero (fA w = 0 && fB w = 0) (.slit (fD w) lit)
  | 3 => .ok (.saddi (fD w) (fA w) (fB w))
  | 4 => .ok (.sandi (fD w) (fA w) (fB w))
  | 5 => .ok (.sshli (fD w) (fA w) (fB w))
  | 6 => .ok (.sshri (fD w) (fA w) (fB w))
  | 7 => .ok (.ssari (fD w) (fA w) (fB w))
  | 8 => .ok (.seq (fD w) (fA w) (fB w))
  | 9 => .ok (.slt (fD w) (fA w) (fB w))
  | 10 => .ok (.sltn (fD w) (fA w) (fB w))
  | 11 => .ok (.smin (fD w) (fA w) (fB w))
  | 12 => .ok (.smax (fD w) (fA w) (fB w))
  | 13 => unusedZero (fB w = 0) (.sclz (fD w) (fA w))
  | 14 => unusedZero (fB w = 0) (.spopc (fD w) (fA w))
  | _ => .ok (.sbfx (fD w) (fA w) (fB w))

/-- Row 0x3 of the opcode map (R42). -/
def decodeRow3 (lo : Nat) (w lit : Word) : Except DecodeErr Instr :=
  match lo with
  | 0 => .ok (.sld8 (fD w) (fA w) (fB w))
  | 1 => .ok (.sld16 (fD w) (fA w) (fB w))
  | 2 => .ok (.sld32 (fD w) (fA w) (fB w))
  | 3 => .ok (.sld64 (fD w) (fA w) (fB w))
  | 4 => .ok (.sst8 (fD w) (fA w) (fB w))
  | 5 => .ok (.sst16 (fD w) (fA w) (fB w))
  | 6 => .ok (.sst32 (fD w) (fA w) (fB w))
  | 7 => .ok (.sst64 (fD w) (fA w) (fB w))
  | 8 => .ok (.sldx (fD w) (fA w) (fB w))
  | 9 => .ok (.sstx (fD w) (fA w) (fB w))
  | 10 => .ok (.srsr (fD w) (f16 w))
  | 11 => .ok (.swsr (fD w) (f16 w))
  | 12 => .ok (.splace (fD w) (fA w) (fB w))
  | 13 => .ok (.sfadd (fD w) (fA w) (fB w))
  | 14 => .ok (.sfmul (fD w) (fA w) (fB w))
  | _ => .ok (.sffma (fD w) (fA w) (fB w))

/-- Row 0x4 of the opcode map (R42). -/
def decodeRow4 (lo : Nat) (w lit : Word) : Except DecodeErr Instr :=
  match lo with
  | 0 => .ok (.vadd (fD w) (fA w) (fB w))
  | 1 => .ok (.vsub (fD w) (fA w) (fB w))
  | 2 => .ok (.vmul (fD w) (fA w) (fB w))
  | 3 => .ok (.vmulh (fD w) (fA w) (fB w))
  | 4 => .ok (.vmad (fD w) (fA w) (fB w))
  | 5 => .ok (.vdiv (fD w) (fA w) (fB w))
  | 6 => .ok (.vrem (fD w) (fA w) (fB w))
  | 7 => .ok (.vmin (fD w) (fA w) (fB w))
  | 8 => .ok (.vmax (fD w) (fA w) (fB w))
  | 9 => .ok (.vand (fD w) (fA w) (fB w))
  | 10 => .ok (.vor (fD w) (fA w) (fB w))
  | 11 => .ok (.vxor (fD w) (fA w) (fB w))
  | 12 => .ok (.vshl (fD w) (fA w) (fB w))
  | 13 => .ok (.vshr (fD w) (fA w) (fB w))
  | 14 => unusedZero (fB w = 0) (.vpopc (fD w) (fA w))
  | _ => unusedZero (fB w = 0) (.vclz (fD w) (fA w))

/-- Row 0x5 of the opcode map (R42). -/
def decodeRow5 (lo : Nat) (w lit : Word) : Except DecodeErr Instr :=
  match lo with
  | 0 => .ok (.vfadd (fD w) (fA w) (fB w))
  | 1 => .ok (.vfsub (fD w) (fA w) (fB w))
  | 2 => .ok (.vfmul (fD w) (fA w) (fB w))
  | 3 => .ok (.vffma (fD w) (fA w) (fB w))
  | 4 => .ok (.vffms (fD w) (fA w) (fB w))
  | 5 => .ok (.vfdiv (fD w) (fA w) (fB w))
  | 6 => unusedZero (fB w = 0) (.vfsqrt (fD w) (fA w))
  | 7 => .ok (.vfmin (fD w) (fA w) (fB w))
  | 8 => .ok (.vfmax (fD w) (fA w) (fB w))
  | 9 => unusedZero (fB w = 0) (.vfexp2 (fD w) (fA w))
  | 10 => unusedZero (fB w = 0) (.vflog2 (fD w) (fA w))
  | 11 => unusedZero (fB w = 0) (.vfrcp (fD w) (fA w))
  | 12 => unusedZero (fB w = 0) (.vfrsq (fD w) (fA w))
  | 13 => unusedZero (fB w = 0) (.vfabs (fD w) (fA w))
  | 14 => .ok (.vfscale (fD w) (fA w) (fB w))
  | _ => .ok (.vfdp2 (fD w) (fA w) (fB w))

/-- Row 0x6 of the opcode map (R42). -/
def decodeRow6 (lo : Nat) (w lit : Word) : Except DecodeErr Instr :=
  match lo with
  | 0 => .ok (.vcmpeq (fD w) (fA w) (fB w))
  | 1 => .ok (.vcmpne (fD w) (fA w) (fB w))
  | 2 => .ok (.vcmplt (fD w) (fA w) (fB w))
  | 3 => .ok (.vcmple (fD w) (fA w) (fB w))
  | 4 => .ok (.vcmpun (fD w) (fA w) (fB w))
  | 5 => .ok (.vsel (fD w) (fA w) (fB w))
  | 6 => .ok (.vcvt (fD w) (fA w) (fB w))
  | 7 => unusedZero (fB w = 0) (.vmov (fD w) (fA w))
  | 8 => .ok (.vbcast (fD w) (fA w) (fB w))
  | 9 => .ok (.vli (fD w) (f16 w))
  | 10 => unusedZero (fA w = 0 && fB w = 0) (.vlit (fD w) lit)
  | 11 => .ok (.vget (fD w) (fA w) (fB w))
  | 12 => .ok (.vput (fD w) (fA w) (fB w))
  | 13 => .ok (.vpack (fD w) (fA w) (fB w))
  | 14 => unusedZero (fB w = 0) (.vunpkl (fD w) (fA w))
  | _ => unusedZero (fB w = 0) (.vunpkh (fD w) (fA w))

/-- Row 0x7 of the opcode map (R42). -/
def decodeRow7 (lo : Nat) (w lit : Word) : Except DecodeErr Instr :=
  match lo with
  | 0 => .ok (.setmode (f24 w))
  | 1 => .ok (.modeone (f24 w))
  | 2 => unusedZero (fA w = 0 && fB w = 0) (.rdmode (fD w))
  | 3 => unusedZero (fD w = 0 && fB w = 0) (.wrmode (fA w))
  | 4 => unusedZero (fD w = 0) (.fmtset (fA w) (fB w))
  | 5 => unusedZero (fB w = 0) (.fmtget (fD w) (fA w))
  | 6 => .ok (.sfsub (fD w) (fA w) (fB w))
  | 7 => .ok (.sfdiv (fD w) (fA w) (fB w))
  | 8 => .ok (.sfmin (fD w) (fA w) (fB w))
  | 9 => .ok (.sfmax (fD w) (fA w) (fB w))
  | 10 => .ok (.sfcmp (fD w) (fA w) (fB w))
  | 11 => unusedZero (fB w = 0) (.sfcvt (fD w) (fA w))
  | 12 => unusedZero (fB w = 0) (.sfexp2 (fD w) (fA w))
  | 13 => unusedZero (fB w = 0) (.sfsqrt (fD w) (fA w))
  | 14 => unusedZero (fB w = 0) (.sfclass (fD w) (fA w))
  | _ => .error (.reservedOpcode (opcodeOf w))

/-- Row 0x8 of the opcode map (R42). -/
def decodeRow8 (lo : Nat) (w lit : Word) : Except DecodeErr Instr :=
  match lo with
  | 0 => .ok (.vshfl (fD w) (fA w) (fB w))
  | 1 => .ok (.vshup (fD w) (fA w) (fB w))
  | 2 => .ok (.vshdn (fD w) (fA w) (fB w))
  | 3 => .ok (.vxorsh (fD w) (fA w) (fB w))
  | 4 => unusedZero (fB w = 0) (.vballot (fD w) (fA w))
  | 5 => .ok (.vscan (fD w) (fA w) (fB w))
  | 6 => .ok (.vred (fD w) (fA w) (fB w))
  | 7 => .ok (.vtopk (fD w) (fA w) (fB w))
  | 8 => .ok (.vxpat (fD w) (fA w) (fB w))
  | 9 => .ok (.xpld (fD w) (fA w) (fB w))
  | 10 => .ok (.rgdeal (fD w) (fA w) (fB w))
  | 11 => unusedZero (fB w = 0) (.rgclose (fD w) (fA w))
  | 12 => unusedZero (fB w = 0) (.vcompact (fD w) (fA w))
  | 13 => unusedZero (fB w = 0) (.vexpand (fD w) (fA w))
  | _ => .error (.reservedOpcode (opcodeOf w))

/-- Row 0x9 of the opcode map (R42). -/
def decodeRow9 (lo : Nat) (w lit : Word) : Except DecodeErr Instr :=
  match lo with
  | 0 => .ok (.vld (fD w) (fA w) (fB w))
  | 1 => .ok (.vst (fD w) (fA w) (fB w))
  | 2 => .ok (.vld2 (fD w) (fA w) (fB w))
  | 3 => .ok (.vst2 (fD w) (fA w) (fB w))
  | 4 => .ok (.vlds (fD w) (fA w) (fB w))
  | 5 => .ok (.vsts (fD w) (fA w) (fB w))
  | 6 => .ok (.vldt (fD w) (fA w) (fB w))
  | 7 => .ok (.vstt (fD w) (fA w) (fB w))
  | 8 => .ok (.vldq (fD w) (fA w) (fB w))
  | 9 => .ok (.vstq (fD w) (fA w) (fB w))
  | 10 => .ok (.vpfx (fD w) (fA w) (fB w))
  | _ => .error (.reservedOpcode (opcodeOf w))

/-- Row 0xA of the opcode map (R42). -/
def decodeRowA (lo : Nat) (w lit : Word) : Except DecodeErr Instr :=
  match lo with
  | 0 => .ok (.vatadd (fD w) (fA w) (fB w))
  | 1 => .ok (.vatmin (fD w) (fA w) (fB w))
  | 2 => .ok (.vatmax (fD w) (fA w) (fB w))
  | 3 => .ok (.vatand (fD w) (fA w) (fB w))
  | 4 => .ok (.vator (fD w) (fA w) (fB w))
  | 5 => .ok (.vatxor (fD w) (fA w) (fB w))
  | 6 => .ok (.vatxchg (fD w) (fA w) (fB w))
  | 7 => .ok (.vatcas (fD w) (fA w) (fB w))
  | 8 => .ok (.vradd (fD w) (fA w) (fB w))
  | 9 => .ok (.vrmin (fD w) (fA w) (fB w))
  | 10 => .ok (.vrmax (fD w) (fA w) (fB w))
  | 11 => .ok (.barinit (fD w) (fA w) (fB w))
  | 12 => .ok (.bararr (fD w) (fA w) (fB w))
  | 13 => .ok (.barwait (fD w) (fA w) (fB w))
  | 14 => unusedZero (fD w = 0 && fA w = 0) (.fence (fB w))
  | _ => unusedZero (f24 w = 0) (.gfence)

/-- Row 0xB of the opcode map (R42). -/
def decodeRowB (lo : Nat) (w lit : Word) : Except DecodeErr Instr :=
  match lo with
  | 0 => unusedZero (fA w = 0) (.rclaim (fD w) (fB w))
  | 1 => unusedZero (fA w = 0) (.rgive (fD w) (fB w))
  | 2 => unusedZero (f24 w = 0) (.rslice)
  | 3 => unusedZero (fA w = 0 && fB w = 0) (.rquery (fD w))
  | 4 => unusedZero (fD w = 0 && fA w = 0) (.fwpub (fB w))
  | 5 => unusedZero (fD w = 0 && fA w = 0) (.fwend (fB w))
  | 6 => unusedZero (fB w = 0) (.cpush (fD w) (fA w))
  | 7 => unusedZero (fB w = 0) (.cjoin (fD w) (fA w))
  | 8 => .ok (.qpush (fD w) (fA w) (fB w))
  | 9 => unusedZero (fB w = 0) (.qpop (fD w) (fA w))
  | 10 => .ok (.launch (fD w) (fA w) (fB w))
  | _ => .error (.reservedOpcode (opcodeOf w))

/-- Row 0xC of the opcode map (R42). -/
def decodeRowC (lo : Nat) (w lit : Word) : Except DecodeErr Instr :=
  match lo with
  | 0 => unusedZero (fB w = 0) (.oclaim (fD w) (fA w))
  | 1 => unusedZero (fD w = 0 && fB w = 0) (.orel (fA w))
  | 2 => .ok (.ofill (fD w) (fA w) (fB w))
  | 3 => .ok (.ofillv (fD w) (fA w) (fB w))
  | 4 => .ok (.mma (fD w) (fA w) (fB w))
  | 5 => .ok (.mmas (fD w) (fA w) (fB w))
  | 6 => .ok (.mmar (fD w) (fA w) (fB w))
  | 7 => .ok (.mmaz (fD w) (fA w) (fB w))
  | 8 => .ok (.oread (fD w) (fA w) (fB w))
  | 9 => .ok (.owrite (fD w) (fA w) (fB w))
  | 10 => .ok (.ostore (fD w) (fA w) (fB w))
  | 11 => .ok (.mtest (f24 w))
  | 12 => unusedZero (f24 w = 0) (.mfence)
  | 13 => .ok (.orec (fD w) (fA w) (fB w))
  | _ => .error (.reservedOpcode (opcodeOf w))

/-- Row 0xD of the opcode map (R42). -/
def decodeRowD (lo : Nat) (w lit : Word) : Except DecodeErr Instr :=
  match lo with
  | 0 => .ok (.eappend (fD w) (fA w) (fB w))
  | 1 => unusedZero (fB w = 0) (.eseq (fD w) (fA w))
  | 2 => .ok (.relay (fD w) (fA w) (fB w))
  | 3 => unusedZero (fB w = 0) (.tdesc (fD w) (fA w))
  | 4 => .ok (.tquery (fD w) (fA w) (fB w))
  | 5 => unusedZero (fB w = 0) (.tfree (fD w) (fA w))
  | 6 => .ok (.trig (fD w) (fA w) (fB w))
  | 7 => unusedZero (fD w = 0) (.tbset (fA w) (fB w))
  | 8 => unusedZero (fD w = 0) (.tbclr (fA w) (fB w))
  | 9 => unusedZero (fB w = 0) (.tbread (fD w) (fA w))
  | 10 => unusedZero (fB w = 0) (.evpoll (fD w) (fA w))
  | 11 => .ok (.evack (fD w) (fA w) (fB w))
  | 12 => unusedZero (fB w = 0) (.tilebeg (fD w) (fA w))
  | 13 => unusedZero (fA w = 0 && fB w = 0) (.tileend (fD w))
  | _ => .error (.reservedOpcode (opcodeOf w))

/-- Row 0xE of the opcode map (R42). -/
def decodeRowE (lo : Nat) (w lit : Word) : Except DecodeErr Instr :=
  match lo with
  | 0 => .ok (.vcput (fD w) (fA w) (fB w))
  | 1 => .ok (.vcget (fD w) (fA w) (fB w))
  | 2 => .ok (.vcred (fD w) (fA w) (fB w))
  | 3 => unusedZero (fB w = 0) (.a2aplan (fD w) (fA w))
  | 4 => .ok (.satadd (fD w) (fA w) (fB w))
  | 5 => .ok (.satcas (fD w) (fA w) (fB w))
  | 6 => unusedZero (f24 w = 0) (.tret)
  | 7 => unusedZero (f24 w = 0) (.pdone)
  | 8 => .ok (.brk (f24 w))
  | 9 => .ok (.svc (f24 w))
  | 10 => .ok (.tmark (fD w) (fA w) (fB w))
  | 11 => .ok (.wfe (f24 w))
  | _ => .error (.reservedOpcode (opcodeOf w))

/-- The instruction an opcode and its fields name, before the operand limits. -/
def decodeFields (w lit : Word) : Except DecodeErr Instr :=
  match opcodeOf w / 16 with
  | 0 => decodeRow0 (opcodeOf w % 16) w lit
  | 1 => decodeRow1 (opcodeOf w % 16) w lit
  | 2 => decodeRow2 (opcodeOf w % 16) w lit
  | 3 => decodeRow3 (opcodeOf w % 16) w lit
  | 4 => decodeRow4 (opcodeOf w % 16) w lit
  | 5 => decodeRow5 (opcodeOf w % 16) w lit
  | 6 => decodeRow6 (opcodeOf w % 16) w lit
  | 7 => decodeRow7 (opcodeOf w % 16) w lit
  | 8 => decodeRow8 (opcodeOf w % 16) w lit
  | 9 => decodeRow9 (opcodeOf w % 16) w lit
  | 10 => decodeRowA (opcodeOf w % 16) w lit
  | 11 => decodeRowB (opcodeOf w % 16) w lit
  | 12 => decodeRowC (opcodeOf w % 16) w lit
  | 13 => decodeRowD (opcodeOf w % 16) w lit
  | 14 => decodeRowE (opcodeOf w % 16) w lit
  | _ => .error .header

/-- The decoder: total on every word and the word that follows it (the literal of form L, R32; other forms ignore it). -/
def decode (w lit : Word) : Except DecodeErr Instr :=
  match decodeFields w lit with
  | .error e => .error e
  | .ok i => if i.wellFormed then .ok i else .error .operandRange

/-- Opcodes of form L, which take a literal word (R32): `slit`, `vlit`, `bsplit`. -/
def isLOpcode (op : Nat) : Bool := op == 0x09 || op == 0x22 || op == 0x6A

/-- Control-transfer and clause-ending opcodes (R20, R40 check 4, R353): they must stand last in their clause. -/
def endsClause (op : Nat) : Bool :=
  (1 ≤ op && op ≤ 9) || op == 0x0B || op == 0x0C || op == 0x0D || op == 0x0F || op == 0xE9 || op == 0xE6

/-- Opcodes a system-class core executes (R45). -/
def sysOpcode (op : Nat) : Bool :=
  op < 0x40 || (0x70 ≤ op && op ≤ 0x7E) || (0xE4 ≤ op && op ≤ 0xE6) || op == 0xE8 || op == 0xE9 || op == 0xEB

/-- Class A opcodes (R27): counted by SETA. -/
def classA (op : Nat) : Bool :=
  (0x30 ≤ op && op ≤ 0x39) || (0x90 ≤ op && op ≤ 0x9A) || (0xA0 ≤ op && op ≤ 0xAA) || op == 0xB8 || op == 0xE4 || op == 0xE5

/-- Class B opcodes (R27): counted by SETB. -/
def classB (op : Nat) : Bool :=
  (0xC2 ≤ op && op ≤ 0xC7) || op == 0xCA || op == 0xD0 || op == 0xD2 || (0xE0 ≤ op && op ≤ 0xE3)

/-- A header word's fields (R26). -/
structure Header where
  len : Nat
  wait : BitVec 12
  seta : Nat
  setb : Nat
  yield : Bool
deriving DecidableEq, Repr

/-- A word read as a header (R26): none where its bits 31:28 are not 0b1111 (R40 check 1). -/
def headerFields (w : Word) : Option Header :=
  if opcodeOf w / 16 = 15 then
    some { len := opcodeOf w % 16, wait := w.extractLsb' 12 12, seta := (w.extractLsb' 8 4).toNat,
           setb := (w.extractLsb' 4 4).toNat, yield := w.getLsbD 3 }
  else none

/-- The limits of R26 on a header (R40 check 2). -/
def headerLegal (w : Word) (h : Header) : Bool :=
  h.len != 15 && (h.seta < 12 || h.seta == 15) && (h.setb < 12 || h.setb == 15) && w.extractLsb' 0 3 == 0

/-- A header word from its fields (R19, R26). -/
def encodeHeader (h : Header) : Word :=
  15#4 ++ BitVec.ofNat 4 h.len ++ h.wait ++ BitVec.ofNat 4 h.seta ++ BitVec.ofNat 4 h.setb ++ BitVec.ofBool h.yield ++ 0#3

/-- A word of form A or B from its opcode and fields (R31). -/
def wABC (op : BitVec 8) (d a b : BitVec 8) : Word := op ++ d ++ a ++ b
/-- A word of form C. -/
def wC (op : BitVec 8) (d : BitVec 8) (i : BitVec 16) : Word := op ++ d ++ i
/-- A word of form D. -/
def wD (op : BitVec 8) (i : BitVec 24) : Word := op ++ i

/-- The encoder: an instruction's word, and its literal word for form L; an event has none. -/
def encode : Instr → Option (Word × Option Word)
  | .nop => some (wD 0x00 0, none)
  | .br o => some (wD 0x01 o, none)
  | .bz d o => some (wC 0x02 d o, none)
  | .bnz d o => some (wC 0x03 d o, none)
  | .bltz d o => some (wC 0x04 d o, none)
  | .bgez d o => some (wC 0x05 d o, none)
  | .call o => some (wD 0x06 o, none)
  | .jr a => some (wABC 0x07 0 a 0, none)
  | .callr a => some (wABC 0x08 0 a 0, none)
  | .bsplit a x => some (wABC 0x09 0 a 0, some x)
  | .bmerge => some (wD 0x0A 0, none)
  | .bany d o => some (wC 0x0B d o, none)
  | .ball d o => some (wC 0x0C d o, none)
  | .exit => some (wD 0x0D 0, none)
  | .waitc n t => some (wABC 0x0E n 0 t, none)
  | .trap n => some (wD 0x0F n, none)
  | .sadd d a b => some (wABC 0x10 d a b, none)
  | .ssub d a b => some (wABC 0x11 d a b, none)
  | .smul d a b => some (wABC 0x12 d a b, none)
  | .smulh d a b => some (wABC 0x13 d a b, none)
  | .smulhn d a b => some (wABC 0x14 d a b, none)
  | .sdiv d a b => some (wABC 0x15 d a b, none)
  | .sdivn d a b => some (wABC 0x16 d a b, none)
  | .srem d a b => some (wABC 0x17 d a b, none)
  | .sremn d a b => some (wABC 0x18 d a b, none)
  | .sand d a b => some (wABC 0x19 d a b, none)
  | .sor d a b => some (wABC 0x1A d a b, none)
  | .sxor d a b => some (wABC 0x1B d a b, none)
  | .sshl d a b => some (wABC 0x1C d a b, none)
  | .sshr d a b => some (wABC 0x1D d a b, none)
  | .ssar d a b => some (wABC 0x1E d a b, none)
  | .ssel d a b => some (wABC 0x1F d a b, none)
  | .sli d i => some (wC 0x20 d i, none)
  | .slih d i => some (wC 0x21 d i, none)
  | .slit d x => some (wABC 0x22 d 0 0, some x)
  | .saddi d a i => some (wABC 0x23 d a i, none)
  | .sandi d a i => some (wABC 0x24 d a i, none)
  | .sshli d a n => some (wABC 0x25 d a n, none)
  | .sshri d a n => some (wABC 0x26 d a n, none)
  | .ssari d a n => some (wABC 0x27 d a n, none)
  | .seq d a b => some (wABC 0x28 d a b, none)
  | .slt d a b => some (wABC 0x29 d a b, none)
  | .sltn d a b => some (wABC 0x2A d a b, none)
  | .smin d a b => some (wABC 0x2B d a b, none)
  | .smax d a b => some (wABC 0x2C d a b, none)
  | .sclz d a => some (wABC 0x2D d a 0, none)
  | .spopc d a => some (wABC 0x2E d a 0, none)
  | .sbfx d a b => some (wABC 0x2F d a b, none)
  | .sld8 d a i => some (wABC 0x30 d a i, none)
  | .sld16 d a i => some (wABC 0x31 d a i, none)
  | .sld32 d a i => some (wABC 0x32 d a i, none)
  | .sld64 d a i => some (wABC 0x33 d a i, none)
  | .sst8 d a i => some (wABC 0x34 d a i, none)
  | .sst16 d a i => some (wABC 0x35 d a i, none)
  | .sst32 d a i => some (wABC 0x36 d a i, none)
  | .sst64 d a i => some (wABC 0x37 d a i, none)
  | .sldx d a b => some (wABC 0x38 d a b, none)
  | .sstx d a b => some (wABC 0x39 d a b, none)
  | .srsr d n => some (wC 0x3A d n, none)
  | .swsr d n => some (wC 0x3B d n, none)
  | .splace d a b => some (wABC 0x3C d a b, none)
  | .sfadd d a b => some (wABC 0x3D d a b, none)
  | .sfmul d a b => some (wABC 0x3E d a b, none)
  | .sffma d a b => some (wABC 0x3F d a b, none)
  | .vadd d a b => some (wABC 0x40 d a b, none)
  | .vsub d a b => some (wABC 0x41 d a b, none)
  | .vmul d a b => some (wABC 0x42 d a b, none)
  | .vmulh d a b => some (wABC 0x43 d a b, none)
  | .vmad d a b => some (wABC 0x44 d a b, none)
  | .vdiv d a b => some (wABC 0x45 d a b, none)
  | .vrem d a b => some (wABC 0x46 d a b, none)
  | .vmin d a b => some (wABC 0x47 d a b, none)
  | .vmax d a b => some (wABC 0x48 d a b, none)
  | .vand d a b => some (wABC 0x49 d a b, none)
  | .vor d a b => some (wABC 0x4A d a b, none)
  | .vxor d a b => some (wABC 0x4B d a b, none)
  | .vshl d a b => some (wABC 0x4C d a b, none)
  | .vshr d a b => some (wABC 0x4D d a b, none)
  | .vpopc d a => some (wABC 0x4E d a 0, none)
  | .vclz d a => some (wABC 0x4F d a 0, none)
  | .vfadd d a b => some (wABC 0x50 d a b, none)
  | .vfsub d a b => some (wABC 0x51 d a b, none)
  | .vfmul d a b => some (wABC 0x52 d a b, none)
  | .vffma d a b => some (wABC 0x53 d a b, none)
  | .vffms d a b => some (wABC 0x54 d a b, none)
  | .vfdiv d a b => some (wABC 0x55 d a b, none)
  | .vfsqrt d a => some (wABC 0x56 d a 0, none)
  | .vfmin d a b => some (wABC 0x57 d a b, none)
  | .vfmax d a b => some (wABC 0x58 d a b, none)
  | .vfexp2 d a => some (wABC 0x59 d a 0, none)
  | .vflog2 d a => some (wABC 0x5A d a 0, none)
  | .vfrcp d a => some (wABC 0x5B d a 0, none)
  | .vfrsq d a => some (wABC 0x5C d a 0, none)
  | .vfabs d a => some (wABC 0x5D d a 0, none)
  | .vfscale d a b => some (wABC 0x5E d a b, none)
  | .vfdp2 d a b => some (wABC 0x5F d a b, none)
  | .vcmpeq d a b => some (wABC 0x60 d a b, none)
  | .vcmpne d a b => some (wABC 0x61 d a b, none)
  | .vcmplt d a b => some (wABC 0x62 d a b, none)
  | .vcmple d a b => some (wABC 0x63 d a b, none)
  | .vcmpun d a b => some (wABC 0x64 d a b, none)
  | .vsel d a b => some (wABC 0x65 d a b, none)
  | .vcvt d a p => some (wABC 0x66 d a p, none)
  | .vmov d a => some (wABC 0x67 d a 0, none)
  | .vbcast d a b => some (wABC 0x68 d a b, none)
  | .vli d i => some (wC 0x69 d i, none)
  | .vlit d x => some (wABC 0x6A d 0 0, some x)
  | .vget d a b => some (wABC 0x6B d a b, none)
  | .vput d a b => some (wABC 0x6C d a b, none)
  | .vpack d a b => some (wABC 0x6D d a b, none)
  | .vunpkl d a => some (wABC 0x6E d a 0, none)
  | .vunpkh d a => some (wABC 0x6F d a 0, none)
  | .setmode x => some (wD 0x70 x, none)
  | .modeone x => some (wD 0x71 x, none)
  | .rdmode d => some (wABC 0x72 d 0 0, none)
  | .wrmode a => some (wABC 0x73 0 a 0, none)
  | .fmtset a b => some (wABC 0x74 0 a b, none)
  | .fmtget d a => some (wABC 0x75 d a 0, none)
  | .sfsub d a b => some (wABC 0x76 d a b, none)
  | .sfdiv d a b => some (wABC 0x77 d a b, none)
  | .sfmin d a b => some (wABC 0x78 d a b, none)
  | .sfmax d a b => some (wABC 0x79 d a b, none)
  | .sfcmp d a b => some (wABC 0x7A d a b, none)
  | .sfcvt d a => some (wABC 0x7B d a 0, none)
  | .sfexp2 d a => some (wABC 0x7C d a 0, none)
  | .sfsqrt d a => some (wABC 0x7D d a 0, none)
  | .sfclass d a => some (wABC 0x7E d a 0, none)
  | .vshfl d a b => some (wABC 0x80 d a b, none)
  | .vshup d a n => some (wABC 0x81 d a n, none)
  | .vshdn d a n => some (wABC 0x82 d a n, none)
  | .vxorsh d a n => some (wABC 0x83 d a n, none)
  | .vballot d a => some (wABC 0x84 d a 0, none)
  | .vscan d a c => some (wABC 0x85 d a c, none)
  | .vred d a c => some (wABC 0x86 d a c, none)
  | .vtopk d a k => some (wABC 0x87 d a k, none)
  | .vxpat d a t => some (wABC 0x88 d a t, none)
  | .xpld d a b => some (wABC 0x89 d a b, none)
  | .rgdeal d a b => some (wABC 0x8A d a b, none)
  | .rgclose d a => some (wABC 0x8B d a 0, none)
  | .vcompact d a => some (wABC 0x8C d a 0, none)
  | .vexpand d a => some (wABC 0x8D d a 0, none)
  | .vld d a b => some (wABC 0x90 d a b, none)
  | .vst d a b => some (wABC 0x91 d a b, none)
  | .vld2 d a b => some (wABC 0x92 d a b, none)
  | .vst2 d a b => some (wABC 0x93 d a b, none)
  | .vlds d a b => some (wABC 0x94 d a b, none)
  | .vsts d a b => some (wABC 0x95 d a b, none)
  | .vldt d a b => some (wABC 0x96 d a b, none)
  | .vstt d a b => some (wABC 0x97 d a b, none)
  | .vldq d a b => some (wABC 0x98 d a b, none)
  | .vstq d a b => some (wABC 0x99 d a b, none)
  | .vpfx n a b => some (wABC 0x9A n a b, none)
  | .vatadd d a b => some (wABC 0xA0 d a b, none)
  | .vatmin d a b => some (wABC 0xA1 d a b, none)
  | .vatmax d a b => some (wABC 0xA2 d a b, none)
  | .vatand d a b => some (wABC 0xA3 d a b, none)
  | .vator d a b => some (wABC 0xA4 d a b, none)
  | .vatxor d a b => some (wABC 0xA5 d a b, none)
  | .vatxchg d a b => some (wABC 0xA6 d a b, none)
  | .vatcas d a b => some (wABC 0xA7 d a b, none)
  | .vradd d a b => some (wABC 0xA8 d a b, none)
  | .vrmin d a b => some (wABC 0xA9 d a b, none)
  | .vrmax d a b => some (wABC 0xAA d a b, none)
  | .barinit d a b => some (wABC 0xAB d a b, none)
  | .bararr d a b => some (wABC 0xAC d a b, none)
  | .barwait d a b => some (wABC 0xAD d a b, none)
  | .fence c => some (wABC 0xAE 0 0 c, none)
  | .gfence => some (wD 0xAF 0, none)
  | .rclaim d n => some (wABC 0xB0 d 0 n, none)
  | .rgive d n => some (wABC 0xB1 d 0 n, none)
  | .rslice => some (wD 0xB2 0, none)
  | .rquery d => some (wABC 0xB3 d 0 0, none)
  | .fwpub n => some (wABC 0xB4 0 0 n, none)
  | .fwend m => some (wABC 0xB5 0 0 m, none)
  | .cpush d a => some (wABC 0xB6 d a 0, none)
  | .cjoin d a => some (wABC 0xB7 d a 0, none)
  | .qpush d a b => some (wABC 0xB8 d a b, none)
  | .qpop d a => some (wABC 0xB9 d a 0, none)
  | .launch d a b => some (wABC 0xBA d a b, none)
  | .oclaim d a => some (wABC 0xC0 d a 0, none)
  | .orel a => some (wABC 0xC1 0 a 0, none)
  | .ofill d a b => some (wABC 0xC2 d a b, none)
  | .ofillv d a b => some (wABC 0xC3 d a b, none)
  | .mma d a b => some (wABC 0xC4 d a b, none)
  | .mmas d a b => some (wABC 0xC5 d a b, none)
  | .mmar d a b => some (wABC 0xC6 d a b, none)
  | .mmaz d a b => some (wABC 0xC7 d a b, none)
  | .oread d a b => some (wABC 0xC8 d a b, none)
  | .owrite d a b => some (wABC 0xC9 d a b, none)
  | .ostore d a b => some (wABC 0xCA d a b, none)
  | .mtest n => some (wD 0xCB n, none)
  | .mfence => some (wD 0xCC 0, none)
  | .orec d a b => some (wABC 0xCD d a b, none)
  | .eappend d a b => some (wABC 0xD0 d a b, none)
  | .eseq d a => some (wABC 0xD1 d a 0, none)
  | .relay d a b => some (wABC 0xD2 d a b, none)
  | .tdesc d a => some (wABC 0xD3 d a 0, none)
  | .tquery d a b => some (wABC 0xD4 d a b, none)
  | .tfree d a => some (wABC 0xD5 d a 0, none)
  | .trig d a b => some (wABC 0xD6 d a b, none)
  | .tbset a b => some (wABC 0xD7 0 a b, none)
  | .tbclr a b => some (wABC 0xD8 0 a b, none)
  | .tbread d a => some (wABC 0xD9 d a 0, none)
  | .evpoll d a => some (wABC 0xDA d a 0, none)
  | .evack d a b => some (wABC 0xDB d a b, none)
  | .tilebeg d a => some (wABC 0xDC d a 0, none)
  | .tileend d => some (wABC 0xDD d 0 0, none)
  | .vcput d a b => some (wABC 0xE0 d a b, none)
  | .vcget d a b => some (wABC 0xE1 d a b, none)
  | .vcred d a b => some (wABC 0xE2 d a b, none)
  | .a2aplan d a => some (wABC 0xE3 d a 0, none)
  | .satadd d a b => some (wABC 0xE4 d a b, none)
  | .satcas d a b => some (wABC 0xE5 d a b, none)
  | .tret => some (wD 0xE6 0, none)
  | .pdone => some (wD 0xE7 0, none)
  | .brk n => some (wD 0xE8 n, none)
  | .svc n => some (wD 0xE9 n, none)
  | .tmark c a b => some (wABC 0xEA c a b, none)
  | .wfe n => some (wD 0xEB n, none)
  | .rippleRound _ _ => none
  | .publishArrival _ => none
  | .distributorExamination _ _ => none
  | .groupRelease _ => none
  | .waitSave _ => none
  | .savedGroupRelaunch _ _ => none
  | .claimGrant _ _ => none
  | .claimDeadlockFault _ => none
  | .faultRecordPost _ => none
  | .faultReplyReplay _ _ => none
  | .faultReplyReject _ _ => none
  | .scalarAccessComplete _ => none
  | .vectorAccessComplete _ => none
  | .atomicRequestComplete _ => none
  | .collectiveComplete _ => none
  | .deferredDataIntegrityFault _ => none
  | .commandStart _ => none
  | .commandComplete _ => none
  | .eventRecordPost _ => none
  | .relayFactoringDone _ => none
  | .relayPassStart _ => none
  | .relayPassComplete _ => none
  | .stampRecordWrite _ => none
  | .fillComplete _ => none
  | .slotReleaseComplete _ _ => none
  | .matrixOperationStart _ => none
  | .raggedFenceRead _ => none
  | .matrixOperationComplete _ => none
  | .selfTestInject _ _ => none
  | .trapEntry _ => none
  | .escalationRecordPost _ => none
  | .escalationReplyResume _ _ => none
  | .escalationReplyEnd _ _ => none
  | .systemCoreTrapEntry _ => none
  | .preemptionRequestTaken _ => none
  | .hardwareSave _ => none
  | .contextSuspend _ _ => none
  | .suspensionComplete _ _ => none
  | .contextResume _ _ => none
  | .addressComparatorFire _ _ => none
  | .registerFileError _ _ _ => none
  | .eccError _ _ => none
  | .translationFlush _ => none
  | .timensWrite _ => none
  | .cqpushWrite _ => none
  | .sevsendWrite _ => none
  | .reqsendWrite _ => none
  | .unitTag _ => none
  | .unitFree _ => none
  | .boardAllot _ => none
  | .boardFree _ => none
  | .streamqWrite _ => none
  | .plentWrite _ => none
  | .routeTableWrite _ _ => none
  | .systemRegisterWrite _ _ => none
  | .maelubStop _ => none
  | .maelubRun _ => none
  | .maelubStep _ => none
  | .maelubStepTimeout _ => none
  | .maelubDump _ => none
  | .maelubRdmem _ => none
  | .maelubWrmem _ => none
  | .maelubRdsr _ => none
  | .maelubWrsr _ => none
  | .maelubWrreg _ => none
  | .maelubStatus _ => none
  | .requestSlotWrite _ _ => none
  | .reqOpen _ => none
  | .reqClose _ => none
  | .reqMap _ => none
  | .reqUnmap _ => none
  | .reqLoad _ => none
  | .reqQueue _ => none
  | .reqLaunch _ => none
  | .reqRead _ => none
  | .reqWrite _ => none
  | .reqFmt _ => none
  | .reqReserve _ => none
  | .reqSuspend _ => none
  | .reqDebug _ => none
  | .reqWait _ => none
  | .reqSlice _ => none
  | .reqBoard _ => none
  | .reqQuantum _ => none
  | .flitReceive _ _ _ => none
  | .remoteAccessTimeout _ => none
  | .linkBringUp _ _ _ => none
  | .planPhaseStart _ => none
  | .planComplete _ => none
  | .wfeTimeout _ => none
  | .traceSample _ => none
  | .powerOn _ _ => none
  | .thermalThrottle _ _ _ => none
  | .thermalPowerOff _ _ => none
  | .powerOff _ => none

/-- An instruction's bits as the opcode table numbers them: the first word is bits 31:0, the literal word bits 63:32. -/
def decodeTableWord (nbits w : Nat) : Option Instr :=
  let v := if nbits < 64 then w % 2 ^ nbits else w % 2 ^ 64
  match decode (BitVec.ofNat 32 v) (BitVec.ofNat 32 (v / 2 ^ 32)) with
  | .ok i => some i
  | .error _ => none

end Sys2Proof
end

