-- ==== Sys2Proof/Machine/Fetch.lean ====
section
/-! DEFINITION. Fetching words, entering a clause, and the fate of a word before it executes (R25, R26, R29, R40, R41). -/

namespace Sys2Proof.Machine

/-- A word fetched at `va`; a missing page parks the group, anything else is an unresolvable translation (R209, R221). -/
def State.fetchWord (s : State) (va : Dword) : Except Exc (Word × State) :=
  let (x, s1) := s.xlate s.thread va .fetch
  match x with
  | .at l => .ok (BitVec.ofNat 32 (s1.bytesAt l.key 4), s1)
  | .bad => .error (s.trapAt 6 va)
  | .miss c =>
    match s.cur with
    | .sys _ _ _ => .error (s.trapAt 6 va)
    | .slot gid k => .error (.wait .parked (s1.parkReissue gid k va .fetch c))

/-- A clause-form fault where a header was expected (R41): the word found there is the faulting word, the frame's fault
address the place. -/
def State.clauseForm (s : State) (w : Word) : Exc :=
  let x := s.slot s.cur
  .trap { cause := 2, tpc := x.pc, resume := x.pc, addr := x.pc, word := w, slot := slotNo s.cur, done := x.done } s

/-- The WAIT bits of a header name a pip that is not zero (R29). -/
def Hart.waits (h : Hart) (w : BitVec 12) : Bool := (List.range 12).any fun n => w.getLsbD n && h.pip n != 0

/-- The words of a clause after its header, from an address on. -/
def State.clauseWords (s : State) (va : Dword) : Nat → Except Exc (List Word × State)
  | 0 => .ok ([], s)
  | n + 1 => do
    let (w, s1) ← s.fetchWord va
    let (ws, s2) ← s1.clauseWords (va + 4) n
    .ok (w :: ws, s2)

/-- Marks the literal words of a clause (R32): each word with whether it is an instruction. -/
def markLiterals : List Word → List (Word × Bool)
  | [] => []
  | w :: ws =>
    if isLOpcode (opcodeOf w) then
      match ws with
      | [] => [(w, true)]
      | x :: xs => (w, true) :: (x, false) :: markLiterals xs
    else (w, true) :: markLiterals ws

/-- The vector source operand fields of an opcode (R34): d as a source, a, b. -/
def vectorSources (op : Nat) : Bool × Bool × Bool :=
  if op = 0x44 || op = 0x53 || op = 0x54 || op = 0x65 then (false, true, true)
  else if op = 0x4E || op = 0x4F || op = 0x56 || (0x59 ≤ op && op ≤ 0x5D) || op = 0x66 || op = 0x67 || op = 0x68
    || op = 0x6B || op = 0x6E || op = 0x6F then (false, true, false)
  else if op = 0x69 || op = 0x6A || op = 0x6C then (false, false, false)
  else if 0x40 ≤ op && op ≤ 0x6F then (false, true, true)
  else if op = 0x80 then (false, true, true)
  else if 0x81 ≤ op && op ≤ 0x86 || op = 0x8A || op = 0x8C || op = 0x8D then (false, true, false)
  else if op = 0x87 then (false, true, false)
  else if (0x90 ≤ op && op ≤ 0x9A && op ≠ 0x94 && op ≠ 0x95) || (0xA0 ≤ op && op ≤ 0xAA) then (false, true, false)
  else if 0xE0 ≤ op && op ≤ 0xE2 then (false, true, true)
  else (false, false, false)

/-- A field names a forward port (R34). -/
def portCode (c : BitVec 8) : Option Nat := if 224 ≤ c.toNat && c.toNat < 232 then some (c.toNat - 224) else none

/-- The forward ports a word reads. -/
def portsOfWord (w : Word) : List Nat :=
  let (_, a, b) := vectorSources (opcodeOf w)
  (if a then (portCode (fA w)).toList else []) ++ (if b then (portCode (fB w)).toList else [])

/-- The forward ports a clause reads (R139). -/
def portsOfClause (ws : List Word) : List Nat :=
  ((markLiterals ws).flatMap fun e => if e.2 then portsOfWord e.1 else []).dedup

/-- A word allowed in a ripple clause before its `fwpub` run (R139 rule 2). -/
def rippleWord (w : Word) : Bool :=
  let op := opcodeOf w
  op == 0 || (0x40 ≤ op && op < 0x60) || (0x65 ≤ op && op ≤ 0x6F && op != 0x6B)

/-- A word of rows 0x4 to 0x6 holds a bypass code in an operand field (R139 rule 3). The unused bits of a `fwpub` are no
operand field: they are illegal at the word (R40 check 8). -/
def bypassWord (w : Word) : Bool :=
  let op := opcodeOf w
  let isBp (c : BitVec 8) : Bool := decide (232 ≤ c.toNat) && decide (c.toNat ≤ 234)
  let (_, a, b) := vectorSources op
  decide (0x40 ≤ op) && decide (op < 0x70) && (isBp (fD w) || (a && isBp (fA w)) || (b && isBp (fB w)))

/-- The rules of R139 on a clause that reads the ports `ps`. -/
def rippleLegal (ws : List Word) (ps : List Nat) : Bool :=
  let marked := markLiterals ws
  let instrs := marked.filterMap fun e => if e.2 then some e.1 else none
  let body := instrs.takeWhile fun w => opcodeOf w != 0xB4
  let run := instrs.dropWhile fun w => opcodeOf w != 0xB4
  let names := run.map fun w => (fB w).toNat
  run.all (fun w => opcodeOf w == 0xB4) && names.Nodup && ps.all (fun p => names.contains p)
    && body.all rippleWord && !(instrs.any bypassWord)

/-- What the start of a clause comes to. -/
inductive Entry1 where
  /-- the clause is entered; its first word may issue -/
  | entered (s : State)
  /-- a ripple clause, its words and the ports it reads -/
  | ripple (s : State) (ws : List Word) (ps : List Nat)

/-- Entering a clause: R40 checks 1, 2 and 5, and the WAIT test, once (R29). DESIGN CHOICE (log 27): the spec does not say
when a clause's later words are fetched for check 5; all of a group clause's words are fetched here, so a missing page
under a later word parks or faults the slot before an earlier word issues. DESIGN CHOICE (log 28): a system-class core has
no forward ports, and check 5 is not made on one: a word with a port code there fails check 7 at the word. -/
def State.enterClause (s : State) : Except Exc Entry1 := do
  let x := s.slot s.cur
  let (w, s1) ← s.fetchWord x.pc
  match headerFields w with
  | none => .error (s.clauseForm w)
  | some h =>
    if !headerLegal w h then .error (s.clauseForm w)
    else
      let c : Clause := { hdr := x.pc, len := h.len + 1, seta := h.seta, setb := h.setb, yield := h.yield }
      let (ws, s2) ← s1.clauseWords (x.pc + 4) (if isSys s.cur then 0 else c.len)
      let ps := portsOfClause ws
      if !ps.isEmpty && !rippleLegal ws ps then .error (s.clauseForm w)
      else if x.ripple.isNone && (s2.hart s.cur).waits h.wait then .error (.wait .header s2)
      else
        let s3 := s2.setSlot s.cur { x with clause := some c, pc := x.pc + 4, passed := false }
        .ok (if ps.isEmpty then .entered s3 else .ripple s3 ws ps)

/-- Port n is enabled in the launch of the issuing group (R133); a group without a launch has none. -/
def State.portOn (s : State) (n : Nat) : Bool :=
  match s.launchOf (gidOf s.cur) with
  | none => false
  | some id => (s.launch id).portOn n

/-- What a word comes to before it executes. -/
inductive Fate where
  | runs (i : Instr) (s : State)

/-- The word at the slot's pc inside its clause: R40 checks 3, 4 and 6 to 8, in order (R41). -/
def State.wordFate (s : State) (c : Clause) : Except Exc Fate := do
  let pc := (s.slot s.cur).pc
  let (w, s1) ← s.fetchWord pc
  let s1 := { s1 with word := w }
  let op := opcodeOf w
  let last := decide (pc + 4 = c.next)
  if op / 16 = 15 || (endsClause op && op != 0x09 && !last) || (isLOpcode op && last)
      || (op = 0x09 && pc + 8 ≠ c.next) then .error (s1.trapAt 2 0)
  else if isSys s.cur && !sysOpcode op then .error (s1.trapAt 1)
  else
    let (lit, s2) ← if isLOpcode op then s1.fetchWord (pc + 4) else .ok (0, s1)
    match decode w lit with
      | .ok i => if (portsOfWord w).all s1.portOn then .ok (.runs i s2) else .error (s1.trapAt 1)
      | .error _ => .error (s1.trapAt 1)

/-! ## Frames (R352) -/

/-- A slot of a frame that has pending ripple lanes names the header of a ripple clause. -/
def State.rippleHeader (s : State) (img i : Nat) : Except Exc Bool :=
  if frameWord img (i + 5) = 0 then .ok true
  else do
    let pc := frameWord img i
    let (w, s1) ← s.fetchWord pc
    match headerFields w with
    | none => .ok false
    | some h =>
      if !headerLegal w h then .ok false
      else
        let (ws, _) ← s1.clauseWords (pc + 4) (h.len + 1)
        .ok (!(portsOfClause ws).isEmpty && rippleLegal ws (portsOfClause ws))

/-- The frame of a group is valid, its ripple headers included. -/
def State.frameOk (s : State) (img : Nat) : Except Exc Bool := do
  let a ← s.rippleHeader img 10
  let b ← s.rippleHeader img 16
  .ok (frameValid img && a && b)

end Sys2Proof.Machine
end

