-- ==== Sys2Proof/Machine/Ready.lean ====
section
/-! DEFINITION. Which agents may issue, and the address comparators (R157, R219, R347, R348, R355, R370, R374). -/

namespace Sys2Proof.Machine

open Host (Outcome)

/-- A slot waits for an operation that is still in flight and not about to end in a trap (R28, R50). -/
def State.heldByOp (s : State) (x : Slot) : Bool :=
  match x.block with
  | some (.op n) => (match SMap.find s.ops n with | some o => !o.due | none => false)
  | _ => false

/-- A trap that was deferred to this boundary of an agent (R224). -/
def State.lateDue (s : State) (a : Agent) : Bool := (s.dueOp a).isSome

/-- A deferred trap is due in some slot of a group: it is taken before a request (R347). -/
def State.groupDue (s : State) (gid : Nat) : Bool := s.ops.any fun e => e.2.due && sameHart e.2.agent (.slot gid 0)

/-- The other slot's word waits to be issued again after a replay: it goes first (R219). -/
def Group.otherFirst (g : Group) (k : Nat) : Bool := (g.slot (1 - k)).block == some .parked && (g.slot (1 - k)).st == .run

/-- No stop or STEP of a slot's partition keeps it from issuing (R370, R371). -/
def State.debugAllows (s : State) (gid k : Nat) : Bool :=
  let x := s.partSt (s.group gid).partKey
  match x.stop, x.step with
  | some _, _ => false
  | none, some r => r.gid == gid && r.k == k
  | none, none => true

/-- A STEP is in progress on an agent's partition or core (R371). -/
def State.stepping (s : State) (a : Agent) : Bool :=
  match a with
  | .sys p d c => (s.core p d c).step.isSome
  | .slot gid _ => (s.partSt (s.group gid).partKey).step.isSome

/-- A slot starts no new clause while its group has a pre-emption request to take (R355). -/
def Group.startsNone (g : Group) (x : Slot) : Bool :=
  g.trap.request && !g.hart.handler && x.clause.isNone && x.wave.isNone

/-- An agent may issue now: a core that runs; a RUN slot of a group that stands on a partition, is neither parked nor
at a trap, and that nothing of its own holds back. -/
def State.canIssue (s : State) (a : Agent) : Bool :=
  match a with
  | .sys p d c =>
    match SMap.find s.cores (coreKey p d c) with
    | none => false
    | some k => !k.halted && !k.waiting && k.stop.isNone && (s.lateDue a || !s.heldByOp k.slot)
  | .slot gid k =>
    match SMap.find s.groups gid with
    | none => false
    | some g =>
      (g.life == .placed || g.life == .running) && g.parked == 0 && g.trap.pending.isNone && g.trap.escalated.isNone
        && !g.trap.relaunching
        && (g.slot k).st == .run && s.debugAllows gid k
        && (s.lateDue a || (!s.heldByOp (g.slot k) && !g.startsNone (g.slot k) && !g.otherFirst k))

/-- The comparator that matches the next word of a slot inside its clause, with its STOP bit: the lowest (R374). -/
def State.comparator (s : State) (gid k : Nat) : Option (Nat × Bool) :=
  let g := s.group gid
  let x := g.slot k
  let p := s.partSt g.partKey
  if x.clause.isNone || x.passed || bits p.ctx 5 0 ≠ g.hart.ctx then none
  else (List.range 4).findSome? fun i =>
    let v := SMap.get p.cmps i 0
    if bitAt v 63 && bits v 56 2 == bits x.pc 56 2 && bits x.pc 63 57 == 0 then some (i, bitAt v 62) else none

/-! ## Groups that start to issue (R127) -/

/-- The group of an agent has fetched a clause: it leaves PLACED. -/
def State.started (s : State) (a : Agent) : State :=
  match a with
  | .sys _ _ _ => s
  | .slot gid _ =>
    let g := s.group gid
    if g.life = .placed then s.setGroup gid { g with life := .running } else s

/-- The same of a clause that ends otherwise than in its entry: where it could not be fetched, the group stays as it
is. -/
def Exc.started (a : Agent) : Exc → Exc
  | .trap t s => if t.cause = 6 then .trap t s else .trap t (s.started a)
  | .wait b s => if b = .parked then .wait b s else .wait b (s.started a)

/-- A comparator fires: the partition stops before the word, or the group takes a breakpoint trap that names it. -/
def State.fire (s : State) (gid k cmp : Nat) (stop : Bool) : State :=
  let g := s.group gid
  let x := g.slot k
  if stop then s.stopPart g.partKey 1 cmp
  else s.takeTrap (.slot gid k)
    { cause := 14, tpc := x.pc, resume := x.pc, word := s.word, slot := k, done := x.done }

end Sys2Proof.Machine
end

