-- ==== Sys2Proof/Machine/Saves.lean ====
section
/-! DEFINITION. Error records, saving groups and relaunching them (R158, R349, R355 to R359, R361, R362). -/

namespace Sys2Proof.Machine

open Host (Outcome)

/-! ## Positions and waits -/

/-- An operation of class A: a group's own access, other than a collective's (R28, R391). -/
def Op.classA (o : Op) : Bool :=
  match o.kind with
  | .scalar _ _ | .parkedScalar _ _ | .load | .store | .atomic _ _ _ _ | .prefetch => true
  | .collective _ _ _ | .engine => false

/-- A class-A operation of a group is in flight. -/
def State.classAInFlight (s : State) (gid : Nat) : Bool :=
  s.ops.any fun e => sameHart e.2.agent (.slot gid 0) && e.2.classA

/-- A slot stands at a point where a pre-emption request is taken: none of its words is still in flight (R355); a request
that was held is also taken where `tret` or the end of a parking has left it (R347). -/
def State.slotAtPoint (s : State) (x : Slot) : Bool :=
  x.wave.isNone && !s.heldByOp x && (x.st != .run || x.clause.isNone || x.ripple.isSome || x.atReturn ||
    (match x.block with
     | some (.pip _ _) | some (.barrier _ _) | some (.barDone _ _) | some (.queue _) | some (.claim _ _)
     | some (.wfe _) | some (.publish _) | some (.bucket _) => true
     | _ => false))

/-- Both slots stand at such points. -/
def State.atPoint (s : State) (g : Group) : Bool := s.slotAtPoint g.slot0 && s.slotAtPoint g.slot1

/-! ## Saving -/

/-- s0 to s63 of a group, as slot 0 reads them. -/
def Group.scalars (g : Group) : List Dword :=
  (List.range 64).map fun n => if n = 0 then 0 else if n = 63 then g.slot0.mask else SMap.get g.hart.sregs n 0

/-- Writes the scalars of a group into its save record (R349). -/
def State.saveScalars (s : State) (gid : Nat) (r : Dword) : Except HwErr State :=
  s.hwStore (s.groupWho gid 0) (r + 0x1000) (blocks8 8 (s.group gid).scalars)

/-- Writes v8 to the top held register into the save record (R349, R358). -/
def State.saveVectors (s : State) (gid : Nat) (r : Dword) : Except HwErr State :=
  let g := s.group gid
  let n := g.regs.held - 8
  s.hwStore (s.groupWho gid 0) (r + 0x2000)
    (blocks8 (4 * n) ((List.range n).flatMap fun j => pairUp (g.regs.value (8 + j))))

/-- A save is turned away: REASON 3, as a trap of code 16 (R348, R365). -/
def State.escalateSave (s : State) (gid : Nat) (frame : Dword) : State :=
  let g := s.group gid
  (s.setEscalated gid 3 0 frame).traceTrap gid 0 16 (if g.slot0.st = .free then g.slot1.pc else g.slot0.pc) 0

/-- What a slot waits for lies at a home that moves. -/
def Block.moved (old new n : Nat) (b : Block) : Block :=
  let f (k : Nat) : Nat := if old ≤ k ∧ k < old + n then k - old + new else k
  match b with
  | .barrier k p => .barrier (f k) p
  | .barDone k p => .barDone (f k) p
  | .barFault k d => .barFault (f k) d
  | .queue k => .queue (f k)
  | .bucket k => .bucket (f k)
  | b => b

/-- The hardware's knowledge of a region follows it to other homes: waits, armers, formed groups, races. -/
def State.regionMoved (s : State) (old new n : Nat) : State :=
  let f (k : Nat) : Nat := if old ≤ k ∧ k < old + n then k - old + new else k
  let slot (x : Slot) : Slot := { x with block := x.block.map (Block.moved old new n) }
  let all (m : SMap Slot) : SMap Slot := m.map fun e => (e.1, slot e.2)
  { s with
    groups := s.groups.map fun e => (e.1, { e.2 with
      slot0 := slot e.2.slot0, slot1 := slot e.2.slot1
      trap := { e.2.trap with stood := all e.2.trap.stood, parked := all e.2.trap.parked } })
    armers := SMap.moved s.armers old new n
    formed := s.formed.map fun e => (e.1, { e.2 with bucket := f e.2.bucket, stage := e.2.stage.map f })
    race := s.race.moved old new n }

/-- The region of a workgroup stays in place (R158, R240): slots, a partner, an armed object with EXT or EXPBYTES. DESIGN
CHOICE (log 81): or a formed group's bucket or staging area in it. -/
def State.regionBound (s : State) (w : Workgroup) : Bool :=
  !w.oslots.isEmpty || !w.aslots.isEmpty || w.partner.isSome ||
    (match s.coreSlice w.pkg w.die w.core w.base with
     | none => true
     | some k =>
       let within (x : Nat) : Bool := decide (k ≤ x) && decide (x < k + w.bytes)
       (s.armers.any fun e => within e.1 && (let b := s.bar e.1; b.armed && (b.ext || b.expbytes != 0)))
         || s.formed.any fun e => within e.2.bucket || e.2.stage.any within)

/-- The region of a workgroup is saved and its units are freed, its operand slots and accumulators with them where they
are named (R158, R359). -/
def State.saveRegionOf (s : State) (id : Nat) (slots : Bool) : State :=
  let w := s.wg id
  match w.saved, s.coreSlice w.pkg w.die w.core w.base with
  | none, some k =>
    let bytes := (List.range w.bytes).map fun i => Mem.byte s.mem (k + i)
    let grans := (s.grans.filter fun e => decide (k / 64 ≤ e.1) && decide (e.1 < (k + w.bytes) / 64)).map
      fun e => (e.1 - k / 64, e.2)
    let dk := dominoKey w.pkg w.die (w.core / 2)
    let d := s.domino dk
    let w1 := { w with saved := some bytes, savedGrans := grans }
    let s1 := (s.freeUnits w.pkg w.die w.core w.base (unitsIn w.bytes)).regionMoved k (savedKey id) w.bytes
    if slots && !(w.oslots.isEmpty && w.aslots.isEmpty) then
      (s1.setDomino dk { d with
        slots := d.slots.filter fun e => e.2.wg != id
        accs := d.accs.filter fun e => e.2.wg != id }).setWg id { w1 with
        savedSlots := d.slots.filter fun e => e.2.wg == id
        savedAccs := d.accs.filter fun e => e.2.wg == id
        savedScale := d.scale.filter fun e => (windowsOf (d.slots.filter fun x => x.2.wg == id)).contains (e.1 / 4096) }
    else s1.setWg id w1
  | _, _ => s

/-- With every group SAVED, the region is saved with them, unless it stays in place (R158). -/
def State.saveRegion (s : State) (id : Nat) : State :=
  let w := s.wg id
  if s.regionBound w || !(w.groups.all fun g => (s.group g).life == .saved) then s else s.saveRegionOf id false

/-- A group enters SAVED: its slot and registers return to the pool (R127, R182). -/
def State.enterSaved (s : State) (gid : Nat) : State :=
  let g := s.group gid
  (s.setGroup gid { g with life := .saved, resident := g.resident + (s.cycle - g.placedAt) }).saveRegion g.wg

/-- The holder of a save record: the group's, or a free one (R349). -/
def State.withRecord (s : State) (gid : Nat) : Option (Dword × State) :=
  (s.takeRecord gid).map fun r =>
    let g := s.group gid
    (r, s.setGroup gid { g with trap := { g.trap with record := some r } })

/-- WAITSAVE of a context in ns, exceeded by a number of cycles at 1.5 GHz (R4, R158). -/
def State.waitSaveOver (s : State) (pkg ctx cycles : Nat) : Bool :=
  decide (3 * (s.ctxReg pkg ctx 0x21).toNat < 2 * cycles)

/-- A group is due for a wait-save: blocked for longer than WAITSAVE, its class-A operations complete (R158, R357). -/
def State.waitSaveDue (s : State) (gid : Nat) (g : Group) : Bool :=
  (g.life == .placed || g.life == .running) && !g.trap.relaunching && !s.isStopped (.slot gid 0) && g.saveBlocked && g.parked = 0 && g.trap.pending.isNone
    && s.escalationOver gid && !s.classAInFlight gid && s.waitSaveOver g.pkg g.hart.ctx (s.cycle - g.blockedFrom)

/-- WAIT_SAVE: a group blocked for longer than WAITSAVE is saved; its blocking instruction has not retired (R158). -/
def execWaitSave (gid : Nat) (s : State) : Outcome State Fault Refusal :=
  match SMap.find s.groups gid with
  | none => .next s
  | some g =>
    if s.waitSaveDue gid g then
      match s.withRecord gid with
      | none => .next (s.escalateSave gid 0)
      | some (r, s1) =>
        match s1.saveScalars gid r with
        | .ok s2 =>
          let s3 := s2.unescalate gid
          .next ((s3.setGroup gid ((s3.group gid).idled s.cycle)).enterSaved gid)
        | .error .bad => .next (s1.escalateSave gid r)
        | .error (.miss c va) => .next (s1.parkRecord gid 0 va .write c)
    else .next s

/-- A word of a group that waits to be issued again, in a fault buffer entry. -/
def FaultEntry.reissues (e : FaultEntry) (gid : Nat) : Bool :=
  e.gid == some gid && (match e.held with | .reissue _ => true | _ => false)

/-- The hardware's own access to a group's save record, in a fault buffer entry. -/
def FaultEntry.records (e : FaultEntry) (gid : Nat) : Bool := e.gid == some gid && e.held == .record

/-- The handler of a group is abandoned: its parked word, its trap and its escalation with it (R358). -/
def State.abandon (s : State) (gid : Nat) : State :=
  let mine := s.faults.filter fun e => e.reissues gid
  let s1 := (mine.foldl State.uncount (s.dropFaults fun e => e.reissues gid)).unpark gid mine.length
  let g := s1.group gid
  s1.setGroup gid { g with trap := { g.trap with pending := none, escalated := none } }

/-- The state of a group stands in its record: it is SAVED by the hardware, an error record says so (R358). -/
def State.hardwareSaved (s : State) (gid : Nat) (r : Dword) (stood : SMap Slot) : State :=
  let g := (s.group gid).idled s.cycle
  let s1 := s.setGroup gid { g with
    hart := { g.hart with handler := false }
    slot0 := {}, slot1 := {}
    trap := { g.trap with phase := .none, hwsave := true, request := false, escalated := none, stood := stood } }
  (s1.errorRecord g.pkg g.identity r 4).enterSaved gid

/-- What a hardware save writes: the frame, or its word 0x000 where a handler had been entered; the scalars and vectors
(R358). -/
def State.saveStores (s : State) (gid : Nat) (r : Dword) (entered : Bool) : Except HwErr State := do
  let g := s.group gid
  let who := s.groupWho gid 0
  let t : TrapInfo :=
    { cause := 16, tpc := if g.slot0.st = .free then g.slot1.pc else g.slot0.pc, resume := 0,
      done := g.slot0.done ||| g.slot1.done }
  let s1 ← if entered then
      match s.xlate who r .write with
      | (.at l, s1) => .ok (s1.putBytes l.key 8 (frameHead 16 0 false true).toNat (originOf 1 g.die g.core))
      | (.bad, _) => .error .bad
      | (.miss c, _) => .error (.miss c r)
    else s.hwStore who r (blocks8 48 (frameImage g t true))
  let s2 ← s1.saveScalars gid r
  s2.saveVectors gid r

/-- HARDWARE_SAVE (R358): at a request without PREEMPTH, or 300,000 cycles after a pre-emption handler was entered. -/
def State.hardwareSave (s : State) (gid : Nat) : State :=
  let g := s.group gid
  let entered := g.trap.phase = .save
  match s.withRecord gid with
  | none => s.escalateSave gid 0
  | some (r, s0) =>
    match s0.saveStores gid r entered with
    | .error .bad => s0.escalateSave gid r
    | .error (.miss c va) => s0.parkRecord gid 0 va .write c
    | .ok s1 => (if entered then s1.abandon gid else s1).hardwareSaved gid r (if entered then g.trap.stood else [(0, g.slot0), (1, g.slot1)])

/-- A group is due for a hardware save: at a point of R355 with a request and no PREEMPTH, or its handler has run too
long, wherever that stands. -/
def State.hwSaveDue (s : State) (gid : Nat) (g : Group) : Bool :=
  (g.life == .placed || g.life == .running) && !g.trap.relaunching && (s.partSt g.partKey).stop.isNone
    && ((g.trap.request && g.trap.preempth == 0 && !g.hart.handler && s.atPoint g && g.parked == 0
          && g.trap.pending.isNone && s.escalationOver gid && !s.groupDue gid)
      || (g.trap.phase == .save && decide (g.trap.enteredAt + 300000 ≤ s.cycle)
          && !(s.faults.any fun e => e.records gid)
          && (match g.trap.escalated with | some x => x.reason != 3 | none => true)))

def execHardwareSave (gid : Nat) (s : State) : Outcome State Fault Refusal :=
  match SMap.find s.groups gid with
  | none => .next s
  | some g =>
    if s.hwSaveDue gid g && !s.classAInFlight gid && !s.spillBusy gid then .next (s.hardwareSave gid) else .next s

/-- `pdone` (R357): legal in the save phase only. -/
def execPdone (s : State) : Outcome State Fault Refusal :=
  match s.cur with
  | .sys _ _ _ => finish (.error s.illegal)
  | .slot gid _ =>
    finish do
      let g := s.group gid
      guardRes (g.hart.handler && g.trap.phase == .save) s.illegal
      guardRes (!s.classAInFlight gid) (.wait .drain s)
      let r := (g.trap.record).getD 0
      match s.saveScalars gid r with
      | .error .bad => .ok (s.escalateSave gid r)
      | .error (.miss c va) => .error (.wait .parked (s.parkRecord gid (slotNo s.cur) va .write c))
      | .ok s1 =>
        let s2 := s1.count
        let g := s2.group gid
        .ok ((s2.setGroup gid { g with slot0 := {}, slot1 := {} }).enterSaved gid)

/-- Every live lane of a group ends as `exit` ends it; the group drains (R354). -/
def State.endGroup (s : State) (gid : Nat) : State :=
  let s := s.endLanes gid (s.group gid).live
  let g := s.group gid
  ((s.setGroup gid { g with
    life := .draining, slot0 := {}, slot1 := {}, placedAt := if g.life = .saved then s.cycle else g.placedAt
    hart := { g.hart with handler := false }
    trap := { g.trap with
      pending := none, escalated := none, request := false, phase := .none, relaunching := false } }).closeTile gid).2

/-! ## Relaunch (R158, R356, R358, R359) -/

/-- n bytes at a home, or of a saved region. -/
def State.homeBytes (s : State) (key n : Nat) : Nat :=
  if key < savedBase then s.bytesAt key n
  else natOfBytes ((((s.wg ((key - savedBase) / 2 ^ 20)).saved.getD []).drop ((key - savedBase) % 2 ^ 20)).take n)

/-- What a slot waits for has occurred: the phase completed, an item was pushed, a generation was released; or it
waits for nothing that outlives a save. -/
def State.eventOccurred (s : State) (gid k : Nat) : Bool :=
  let g := s.group gid
  let x := g.slot k
  match x.st, x.block with
  | .run, some (.barrier key p) =>
    let b := Bar.ofNat (s.homeBytes key 32)
    b.done p.toNat || (b.armed && b.fault)
  | .run, some (.queue key) => decide (s.homeBytes key 8 < s.homeBytes (key + 8) 8)
  | .run, some (.publish n) =>
    (match s.launchOf gid with
     | none => true
     | some id => (lanesList x.stalled).any fun l => decide ((s.launch id).unreleased n (g.wid l).toNat < 4))
  | .run, _ => true
  | _, _ => false

/-- A SAVED group may be relaunched: its context is not suspended, and it was pre-empted or its event occurred. -/
def State.relaunchable (s : State) (gid : Nat) : Bool :=
  let g := s.group gid
  let c := s.ctx g.pkg g.hart.ctx
  g.life == .saved && !c.suspending && !c.suspended && g.trap.escalated.isNone
    && (g.trap.phase == .save || g.trap.hwsave || s.eventOccurred gid 0 || s.eventOccurred gid 1)

/-- A saved workgroup's region fits on a core: its units are free, the reservation rule holds, and its saved slots' numbers
and scale windows are free on the domino (R158, R159, R306, R359). -/
def State.regionFits (s : State) (w : Workgroup) (core : Nat) : Bool :=
  let reserve := match w.launch with | some id => if (s.launch id).reserve then some id else none | none => none
  let d := s.domino (dominoKey w.pkg w.die (core / 2))
  s.unitsFree w.pkg w.die core (w.base / 1024) (unitsIn w.bytes)
    && s.reserveFits w.pkg w.die core { groups := 0, bytes := w.bytes, reserve := reserve }
    && w.savedSlots.all (fun e => (SMap.find d.slots e.1).isNone) && w.savedAccs.all (fun e => (SMap.find d.accs e.1).isNone)
    && (windowsOf w.savedSlots).all fun n => !(windowsOf d.slots).contains n

/-- The cores a workgroup may stand on at a relaunch: its own while its region stands there, else those on which its
saved region fits; one with slots or a partner keeps its side of the domino, its partner the other (R158, R359). -/
def State.homes (s : State) (w : Workgroup) : List Nat :=
  match w.saved with
  | none => [w.core]
  | some _ =>
    let bound := !w.oslots.isEmpty || !w.aslots.isEmpty || w.partner.isSome
    ((s.coresOf w.pkg [w.die]).map Prod.snd).filter fun c =>
      s.regionFits w c && (!bound || c % 2 == w.core % 2) && (match w.partner with
        | none => true
        | some p => (s.wg p).saved.isNone || s.regionFits (s.wg p) (c + 1 - 2 * (c % 2)))

/-- The core and group slot a saved group may take. -/
def State.relaunchCore (s : State) (gid pref : Nat) : Option (Nat × Nat) :=
  let g := s.group gid
  let sh := s.shadow g.pkg
  let slot (c : Nat) : Option (Nat × Nat) :=
    match (freeSlots (sh.groupsOn g.pkg g.die c) g.part).head? with
    | none => none
    | some k => if g.regs.holding ≤ sh.pool g.pkg g.die c g.part then some (c, k) else none
  let ok := (sh.homes (s.wg g.wg)).filterMap slot
  ok[pref % max 1 ok.length]?

/-- The saved region of a workgroup is restored on a core, its saved slots on that core's domino. -/
def State.restoreRegion (s : State) (id core : Nat) : State :=
  let w := s.wg id
  match w.saved, s.coreSlice w.pkg w.die core w.base with
  | some bytes, some k =>
    let s := s.tagUnits w.pkg w.die core w.base (unitsIn w.bytes) { ctx := w.ctx, race := w.race }
    let s := { s with
      mem := (bytes.zipIdx).foldl (fun m (e : Byte × Nat) => Mem.setByte m (k + e.2) e.1) s.mem
      grans := (List.range (w.bytes / 64)).foldl
        (fun m i => SMap.set m (k / 64 + i) (SMap.get w.savedGrans i {}) {}) s.grans }
    let s := s.regionMoved (savedKey id) k w.bytes
    let dk := dominoKey w.pkg w.die (core / 2)
    let d := s.domino dk
    let s := if w.savedSlots.isEmpty && w.savedAccs.isEmpty then s
      else s.setDomino dk { d with
        slots := w.savedSlots.foldl (fun m e => SMap.put m e.1 e.2) d.slots
        accs := w.savedAccs.foldl (fun m e => SMap.put m e.1 e.2) d.accs
        scale := w.savedScale.foldl (fun m e => SMap.set m e.1 e.2 0)
          (d.scale.filter fun e => !(windowsOf w.savedSlots).contains (e.1 / 4096)) }
    s.setWg id { w with core := core, saved := none, savedGrans := [], savedSlots := [], savedAccs := [], savedScale := [] }
  | _, _ => s

/-- The region of a workgroup and that of its partner come to stand on the two cores of a domino (R359). -/
def State.restoreHome (s : State) (id core : Nat) : State :=
  let s1 := s.restoreRegion id core
  match (s.wg id).partner with
  | none => s1
  | some p => s1.restoreRegion p (core + 1 - 2 * (core % 2))

/-- The pattern tables of a group's context go with it to another partition, into the same indices (R199). -/
def State.carryTables (s : State) (g : Group) (core : Nat) : State :=
  if core = g.core then s
  else
    let old := (coreKey g.pkg g.die g.core * 4 + g.part) * 16
    let new := (coreKey g.pkg g.die core * 4 + g.part) * 16
    { s with patterns := (List.range 16).foldl (fun m i => match SMap.find s.patterns (old + i) with
      | some t => if t.ctx = g.hart.ctx then SMap.put m (new + i) t else m
      | none => m) s.patterns }

/-- v8 onward and the scalars of a group from its save record (R356, R358); a vector register that is not read back starts
at zero. -/
def State.loadSaved (s : State) (gid : Nat) (vectors : Bool) : Except HwErr State := do
  let g := s.group gid
  let r := (g.trap.record).getD 0
  let who := s.groupWho gid 0
  let sc ← s.hwLoadBlocks who (r + 0x1000) 8
  let n := g.regs.held - 8
  let vs ← if vectors then s.hwLoadBlocks who (r + 0x2000) (4 * n) else .ok 0
  let sregs : SMap Dword := (List.range 62).map fun i => (i + 1, dwordOf sc (i + 1))
  let regs := if vectors then (List.range n).foldl (fun (v : Vregs) j => v.load (8 + j) (imageVec vs (256 * j))) g.regs
    else { (List.range g.regs.held).foldl (fun (v : Vregs) j => v.clear j (BitVec.allOnes 64)) g.regs with
      v := [], bp := [], bpHigh := [] }
  .ok ((s.setGroup gid { g with hart := { g.hart with sregs := sregs }, regs := regs }).postLost gid)

/-- The resume phase: the handler is entered again with RESUMED 1 (R356). -/
def State.enterResume (s : State) (gid : Nat) : Except HwErr State := do
  let s1 ← s.loadSaved gid false
  let g := s1.group gid
  let r := (g.trap.record).getD 0
  let old := (SMap.get g.hart.trap 0x40 0) ||| 0x200
  match s1.xlate (s1.groupWho gid 0) r .write with
  | (.at l, s2) =>
    let s3 := s2.putBytes l.key 8 old.toNat (originOf 1 g.die g.core)
    let g := { g with hart := { g.hart with trap := SMap.put g.hart.trap 0x40 old } }
    .ok (s3.setGroup gid { enterHandler g g.trap.preempth with
      trap := { g.trap with phase := .resume, entryDs := SMap.get g.hart.sregs 60 0 } })
  | (.bad, _) => .error .bad
  | (.miss c, _) => .error (.miss c r)

/-- A hardware-saved group resumes from its frame as `tret` does (R358): with its pages there; where software has made the
frame invalid, the group ends, as R354 answers such a frame (log 20). -/
def State.resumeSaved (s : State) (gid : Nat) : Except HwErr State := do
  let g := s.group gid
  let r := (g.trap.record).getD 0
  let img ← s.hwLoadBlocks (s.groupWho gid 0) r 48
  let s1 ← s.loadSaved gid true
  match ({ s with cur := .slot gid 0, word := 0 }).frameOk img with
  | .ok true =>
    let s2 := s1.resumeFrame gid img
    .ok ((s2.clearResumed gid (frameWord img 0)).examined (.slot gid 0) 0 0)
  | .error (.wait _ s2) => .ok { s2 with cur := s.cur, word := s.word }
  | _ => .ok (s.endGroup gid)

/-- A group that stands at its relaunch reads its save record, and goes on; it parks, or escalates, where that cannot be
read (R348). -/
def State.relaunchGo (s : State) (gid : Nat) : State :=
  let g := s.group gid
  match if g.trap.phase = .save then s.enterResume gid else s.resumeSaved gid with
  | .ok s1 =>
    let g1 := s1.group gid
    s1.setGroup gid { g1 with trap := { g1.trap with relaunching := decide (g1.parked ≠ 0) } }
  | .error .bad => s.escalateSave gid ((g.trap.record).getD 0)
  | .error (.miss c va) => s.parkRecord gid 0 va (if c = 2 then .write else .read) c

/-- A SAVED group comes to stand on a core again (R127, R158): a wait-saved one issues its blocking instruction again, and
keeps its place among those that wait (R155). -/
def State.relaunch (s : State) (gid core gslot : Nat) : State :=
  let g0 := s.group gid
  let s := (if ((s.wg g0.wg).saved).isSome then s.restoreHome g0.wg core else s).carryTables g0 core
  let g := s.group gid
  let from_ := g.trap.phase = .save || g.trap.hwsave
  let s := s.setGroup gid { g with
    life := .placed, core := core, gslot := gslot, placedAt := s.cycle, ahead := false
    trap := { g.trap with relaunching := from_ } }
  if from_ then s.relaunchGo gid else s

/-- SAVED_GROUP_RELAUNCH: a SAVED group that may be relaunched is placed where its slot and holding fit (R158, R182); one
that stands at its relaunch tries again. -/
def execSavedGroupRelaunch (gid pref : Nat) (s : State) : Outcome State Fault Refusal :=
  match SMap.find s.groups gid with
  | none => .next s
  | some g =>
    if g.trap.relaunching then
      (if g.parked = 0 && g.trap.escalated.isNone && !s.isStopped (.slot gid 0) then .next (s.relaunchGo gid) else .next s)
    else if s.relaunchable gid then
      match s.relaunchCore gid pref with
      | none => .next s
      | some (c, k) => .next (s.relaunch gid c k)
    else .next s

/-! ## The distributor's examination -/

/-- The saved groups of a level that are eligible again are relaunched, or are marked to go ahead of new work (R158). -/
def State.relaunchLevel (s : State) (pkg level pref : Nat) : State :=
  s.groups.foldl (fun s e =>
    let g := s.group e.1
    if g.pkg == pkg && s.relaunchable e.1 && streamPrio (s.wg g.wg).stream == level then
      match s.relaunchCore e.1 pref with
      | some (c, k) => s.relaunch e.1 c k
      | none => s.setGroup e.1 { g with ahead := true }
    else s) s

/-- One level's examination. -/
def State.examineLevel (s : State) (pkg level pref : Nat) : State :=
  (s.relaunchLevel pkg level pref).placeLevel pkg level pref (704 * 64)

/-- DISTRIBUTOR_EXAMINATION: the distributor examines the heads of the streams, level by level, and places what fits, after
the saved groups of the level that are eligible again (R146, R158, R412); `pref` chooses among the cores on which an
entry fits (log 2). -/
def execDistributorExamination (pkg pref : Nat) (s : State) : Outcome State Fault Refusal :=
  if (s.pkg pkg).on then .next ([3, 2, 1, 0].foldl (fun s level => s.examineLevel pkg level pref) s) else .next s

/-! ## Errors of the stores (R223, R361) -/

/-- REGISTER_FILE_ERROR: an uncorrectable error in an element of a held register sets its poison bit. -/
def execRegisterFileError (gid reg lane : Nat) (s : State) : Outcome State Fault Refusal :=
  match SMap.find s.groups gid with
  | none => .next s
  | some g =>
    if reg < g.regs.held && lane < 64 then
      let r := g.regs
      .next (s.setGroup gid { g with regs := { r with
        poison := SMap.put r.poison reg (SMap.get r.poison reg 0 ||| (1#64 <<< lane))
        consumed := SMap.set r.consumed reg (SMap.get r.consumed reg 0 &&& ~~~ (1#64 <<< lane)) 0 } })
    else .next s

/-- The place of a slice's byte: the logical core whose place-table entry names the physical position (R208, R363); the
position itself where none does. -/
def State.placeOfKey (s : State) (key : Nat) : Nat :=
  let q := key - sliceBase
  let pos := q / 2 ^ 20 % 128
  let core := ((List.range 88).find? fun c =>
    let e := s.placeEntry (q / 2 ^ 30) (q / 2 ^ 27 % 8) c
    e.getLsbD 7 && e.toNat % 128 == pos).getD pos
  q / 2 ^ 27 * 2 ^ 27 + core * 2 ^ 20 + q % 2 ^ 20

/-- WHERE of an ECC record: the physical address bits 48:6, or bit 63 and the place bits 39:6 (R362). -/
def State.eccWhere (s : State) (key : Nat) : Dword :=
  if isSlice key then BitVec.ofNat 64 (2 ^ 63 + s.placeOfKey key / 64 % 2 ^ 34) else BitVec.ofNat 64 (key / 64 % 2 ^ 43)

/-- ECC_ERROR: a correctable error is corrected and counted; an uncorrectable one poisons its granule with KIND 6. -/
def execEccError (key : Nat) (corrected : Bool) (s : State) : Outcome State Fault Refusal :=
  let (p, d) := homeOf key
  let s1 := if corrected then s
    else { s with grans := SMap.put s.grans (key / 64) { origin := originOf 6 0 0xFFF, poisoned := true } }
  .next (s1.errorRecord p (BitVec.ofNat 64 (d * 2 ^ 12)) (s.eccWhere key) (if corrected then 2 else 3))

end Sys2Proof.Machine
end

