-- ==== Sys2Proof/Machine/Tensors.lean ====
section
/-! DEFINITION. Tensors: descriptors, places, the tensor table, handle accesses (R229, R326 to R334, R341). -/

namespace Sys2Proof.Machine

open Host (Outcome)

/-! ## Matrices over GF(2), rows as numbers -/

/-- The parity of a number's bits. -/
def parity (x : Nat) : Nat := ((List.range 64).filter fun i => x.testBit i).length % 2

/-- M·i. -/
def gfApply (rows : List Nat) (i : Nat) : Nat := (rows.zipIdx.map fun e => parity (e.1 &&& i) * 2 ^ e.2).sum

/-- Row r of A·B: the sum of the rows of B that row r of A names. -/
def gfMul (a b : List Nat) : List Nat :=
  a.map fun r => (b.zipIdx).foldl (fun x e => if r.testBit e.2 then x ^^^ e.1 else x) 0

/-- The identity. -/
def gfOne (n : Nat) : List Nat := (List.range n).map fun i => 2 ^ i

/-- Elimination by R338 of T, with the operations that reduce it, in order; none where T is singular. -/
def gfReduce (n : Nat) : Nat → List Nat → List (Nat × Nat) → Option (List Nat × List (Nat × Nat))
  | 0, t, ops => some (t, ops)
  | fuel + 1, t, ops =>
    let c := n - (fuel + 1)
    let pick : Option (List Nat × List (Nat × Nat)) :=
      if (t.getD c 0).testBit c then some (t, ops)
      else match (List.range n).find? fun r => decide (c < r) && (t.getD r 0).testBit c with
        | none => none
        | some r => some (t.set c (t.getD c 0 ^^^ t.getD r 0), ops ++ [(c, r)])
    match pick with
    | none => none
    | some (t, ops) =>
      let (t, ops) := (List.range n).foldl (fun (a : List Nat × List (Nat × Nat)) r =>
        if r ≠ c ∧ (a.1.getD r 0).testBit c then (a.1.set r (a.1.getD r 0 ^^^ a.1.getD c 0), a.2 ++ [(r, c)]) else a)
        (t, ops)
      gfReduce n fuel t ops

/-- The operations of T, none where it is singular. -/
def gfOps (n : Nat) (t : List Nat) : Option (List (Nat × Nat)) := (gfReduce n n t []).map Prod.snd

/-- Operations applied to rows: row t gains row s. -/
def gfRun (ops : List (Nat × Nat)) (m : List Nat) : List Nat :=
  ops.foldl (fun m o => m.set o.1 (m.getD o.1 0 ^^^ m.getD o.2 0)) m

/-- The inverse of a non-singular matrix: the operations that reduce it, applied to the identity. -/
def gfInverse (n : Nat) (m : List Nat) : List Nat := gfRun ((gfOps n m).getD []) (gfOne n)

/-! ## Places (R326 to R330) -/

/-- A map: rows, base, side base, rate code. -/
structure TMap where
  rows : List Nat
  base : Dword
  side : Dword
  rate : Nat
deriving DecidableEq, Repr

namespace Tensor

def n (t : Tensor) : Nat := t.widths.sum
def f (t : Tensor) : Fmt := fmtOf t.entry
/-- The current map. -/
def cur (t : Tensor) : TMap := { rows := t.rows.map BitVec.toNat, base := t.base, side := t.side, rate := t.rate }
/-- P_d. -/
def low (t : Tensor) (d : Nat) : Nat := (t.widths.take d).sum
/-- Coordinate d of an index. -/
def coord (t : Tensor) (i d : Nat) : Nat := i / 2 ^ t.low d % 2 ^ t.widths.getD d 0
/-- An index is a hole (R326). -/
def hole (t : Tensor) (i : Nat) : Bool :=
  (List.range t.widths.length).any fun d => decide (t.extents.getD d 1 ≤ t.coord i d)
/-- w_o (R328). -/
def offBits (t : Tensor) : Nat := t.n - t.wcore - t.wdie - t.wpkg

end Tensor

/-- Where an element lies. -/
structure ElemAt where
  va : Dword
  /-- bytes of its container, block or CB block -/
  n : Nat
  /-- of an element below a byte: first bit and width -/
  bit : Nat := 0
  width : Nat := 0
  /-- its position in its block -/
  pos : Nat := 0
  /-- its side byte -/
  side : Dword := 0
deriving DecidableEq, Repr

/-- The field values of a place, added into the fields of a window address (R328). -/
def Tensor.fields (t : Tensor) (p : Nat) : Dword :=
  let q := p / 2 ^ t.offBits
  BitVec.ofNat 64 (q % 2 ^ t.wcore * 2 ^ 20 + q / 2 ^ t.wcore % 2 ^ t.wdie * 2 ^ 27
    + q / 2 ^ (t.wcore + t.wdie) % 2 ^ t.wpkg * 2 ^ 30)

/-- Where the element of index i lies under a map. -/
def Tensor.at_ (t : Tensor) (m : TMap) (i : Nat) : ElemAt :=
  let p := gfApply m.rows i
  let f := t.f
  let base := m.base + t.fields p
  let u := p % 2 ^ t.offBits
  if m.rate ≠ 0 then
    let r := rateBits m.rate
    { va := base + BitVec.ofNat 64 (u / 16 * (2 * r)), n := 2 * r, pos := u % 16,
      side := m.side + t.fields p + BitVec.ofNat 64 (u / 16) }
  else if f.kind = 3 then
    { va := base + BitVec.ofNat 64 (u / f.blockLen * f.blockBytes), n := f.blockBytes, pos := u % f.blockLen }
  else if f.c < 8 then
    { va := base + BitVec.ofNat 64 (u * f.c / 8), n := 1, bit := u * f.c % 8, width := f.c }
  else { va := base + BitVec.ofNat 64 (u * (f.c / 8)), n := f.c / 8 }

/-- Bytes of one region (R329). -/
def Tensor.regionBytes (t : Tensor) (rate : Nat) : Nat :=
  let f := t.f
  if rate ≠ 0 then 2 ^ (t.offBits - 4) * (2 * rateBits rate)
  else if f.kind = 3 then 2 ^ (t.offBits - f.lgblk) * f.blockBytes
  else (2 ^ t.offBits * f.c + 7) / 8

/-- The alignment a base needs. -/
def Tensor.baseAlign (t : Tensor) (rate : Nat) : Nat :=
  if rate ≠ 0 then 2 * rateBits rate
  else if t.f.kind = 3 then t.f.blockBytes
  else max 1 (t.f.c / 8)

/-- A base of this alignment and region size is placed as R329 asks. -/
def Tensor.baseOk (t : Tensor) (base : Dword) (bytes align : Nat) : Bool :=
  base.toNat / 2 ^ 57 == 0 && !isAlias base && base.toNat % align == 0
    && (if isWindow base then
          decide (bits base 26 20 + 2 ^ t.wcore - 1 ≤ 87) && decide (bits base 29 27 + 2 ^ t.wdie - 1 ≤ 7)
            && decide (bits base 19 0 + bytes ≤ 2 ^ 20)
        else t.wcore == 0 && t.wdie == 0 && t.wpkg == 0)

/-- The map of a tensor is valid (R329). -/
def Tensor.mapOk (t : Tensor) (m : TMap) : Bool :=
  decide (t.wcore + t.wdie + t.wpkg ≤ t.n) && t.baseOk m.base (t.regionBytes m.rate) (t.baseAlign m.rate)
    && (m.rate == 0 || t.baseOk m.side (2 ^ (t.offBits - 4)) 1)

/-- A record equals that of fp32, fp16 or bf16 (R77, R78). -/
def cbFormat (entry : Dword) : Bool :=
  entry == recFp32 || entry == fixedRecords.getD 6 0 || entry == fixedRecords.getD 7 0

/-- Rows that must be unit rows, by place bit, with no other row using their columns. -/
def fixedRows (rows : List Nat) (unit_ : List Nat) : Bool :=
  (unit_.zipIdx).all (fun e => rows.getD e.2 0 == 2 ^ e.1)
    && (rows.drop unit_.length).all fun r => unit_.all fun c => !r.testBit c

/-- R330 for a rate. -/
def Tensor.blocksOk (t : Tensor) (rows : List Nat) (rate : Nat) : Bool :=
  let f := t.f
  if f.kind = 3 then
    rate == 0 && decide (f.lgblk ≤ t.widths.getD 0 0) && fixedRows rows (List.range f.lgblk)
  else if rate = 0 then true
  else
    let b0 := t.widths.getD 0 0
    cbFormat t.entry && decide (2 ≤ t.widths.length) && decide (2 ≤ b0) && decide (2 ≤ t.widths.getD 1 0)
      && t.extents.getD 0 1 % 4 == 0 && t.extents.getD 1 1 % 4 == 0 && fixedRows rows [0, 1, b0, b0 + 1]

/-! ## The table (R331 to R334) -/

/-- The key of an entry of a context's tensor table. -/
def tensorKey (pkg ctx entry : Nat) : Nat := (pkg * 64 + ctx) * 4096 + entry

def State.tensor (s : State) (k : Nat) : Tensor := SMap.get s.tensors k {}
def State.setTensor (s : State) (k : Nat) (t : Tensor) : State := { s with tensors := SMap.put s.tensors k t }

/-- The live tensor of a handle, with its key (R331). -/
def State.liveTensor (s : State) (pkg ctx : Nat) (h : Dword) : Option (Nat × Tensor) :=
  let k := tensorKey pkg ctx (bits h 11 0)
  let t := s.tensor k
  if h.toNat / 2 ^ 32 = 0 && t.live && decide (t.gen ≠ 0) && t.gen == bits h 31 12 then some (k, t) else none

/-- The live tensor of the issuer's handle, else the fault of R229. -/
def State.handle (s : State) (h : Dword) : Except Exc (Nat × Tensor) :=
  match s.liveTensor (s.pkgOf s.cur) (s.ctxOf s.cur) h with
  | some x => .ok x
  | none => .error (s.trapAt 6 h)

/-- A relay of a tensor, by the command that carries it. -/
def State.relayOf (s : State) (cmd : Nat) : Option RelayRun := (SMap.find s.cmds cmd).bind Cmd.relay

/-- A command is running, and not over. -/
def Cmd.live (c : Cmd) : Bool := c.started && !c.posting && decide (c.status < 16)

/-- The relays of a tensor that run: accepted, started, not halted (R340). -/
def State.liveRelays (s : State) (t : Tensor) : List RelayRun :=
  t.relays.filterMap fun c => (SMap.find s.cmds c).bind fun c => if c.live then c.relay else none

/-- A pass of a tensor is running (R341). -/
def State.passRuns (s : State) (t : Tensor) : Bool :=
  (s.liveRelays t).any fun r => r.phase == .run || r.phase == .written

/-- The RATE code a relay leaves, from its NEWRATE (R332, R336). -/
def newRate (old nr : Nat) : Nat := if nr = 0 then old else nr - 1

/-- The map a relay leaves (R336): side bytes move with BASE, or lie directly after the blocks of a new rate. -/
def Tensor.moveMap (t : Tensor) (m : TMap) (rows : List Nat) (newBase : Dword) (rate : Nat) : TMap :=
  let base := if newBase = 0 then m.base else newBase
  { rows := rows, base := base, rate := rate
    side := if rate = 0 || rate = m.rate then m.side + (base - m.base) else base + BitVec.ofNat 64 (t.regionBytes rate) }

/-- The map after every accepted relay. -/
def State.finalMap (s : State) (t : Tensor) : TMap :=
  t.relays.foldl (fun m c => match s.relayOf c with
    | some r => t.moveMap m (r.rows.map BitVec.toNat) r.newBase (newRate m.rate r.newRate)
    | none => m) t.cur

/-- The chain a tensor's relays run in, kept by the hardware (R337). -/
def tensorChain (k : Nat) : Nat := 2 ^ 60 + k

/-- n dwords from an address on, each read as R55 has it. -/
def State.readDwords (s : State) (va : Dword) : Nat → Except Exc (List Dword × State)
  | 0 => .ok ([], s)
  | k + 1 => do
    let (x, _, s1) ← s.scalarRead va 8 8
    let (xs, s2) ← s1.readDwords (va + 8) k
    .ok (BitVec.ofNat 64 x :: xs, s2)

/-- The tensor a descriptor describes, not yet in the table. -/
def describe (h : List Dword) (rows : List Dword) (entry : Dword) : Tensor :=
  let w (i : Nat) := h.getD i 0
  let nd := bits (w 0) 7 5 + 1
  let widths := (List.range nd).map fun d => bits (w 1) (6 * d + 5) (6 * d)
  let ext (d : Nat) : Nat :=
    let p := (widths.take d).sum
    (w 2).toNat / 2 ^ p % 2 ^ widths.getD d 0 + 1
  { live := true, fmt := bits (w 0) 4 0, entry := entry, widths := widths, extents := (List.range nd).map ext
    wcore := bits (w 3) 3 0, wdie := bits (w 3) 7 4, wpkg := bits (w 3) 11 8
    base := w 4, side := w 5, rate := bits (w 0) 10 8, rows := rows }

/-- The status of a descriptor (R332), but for a full table. -/
def descStatus (h : List Dword) (rows : List Dword) (t : Tensor) : Nat :=
  let w (i : Nat) := h.getD i 0
  let all := (List.range 6).map fun d => bits (w 1) (6 * d + 5) (6 * d)
  let n := all.sum
  let nd := bits (w 0) 7 5 + 1
  let bad := decide ((w 0).toNat / 2 ^ 11 ≠ 0) || decide ((w 1).toNat / 2 ^ 36 ≠ 0) || decide ((w 2).toNat / 2 ^ n ≠ 0)
    || decide ((w 3).toNat / 2 ^ 12 ≠ 0) || w 6 != 0 || w 7 != 0 || decide (40 < n) || decide (6 < nd)
    || (all.drop nd).any (· != 0) || rows.any (fun r => decide (r.toNat / 2 ^ n ≠ 0))
  let m := { t.cur with rate := if t.rate = 7 then 0 else t.rate }
  if bad then 1
  else if (gfOps n m.rows).isNone then 2
  else if !t.mapOk m then 3
  else if t.rate = 7 || !t.blocksOk m.rows t.rate then 4
  else 0

/-- GEN + 1, skipping 0 (R331). -/
def nextGen (g : Nat) : Nat := if (g + 1) % 2 ^ 20 = 0 then 1 else (g + 1) % 2 ^ 20

/-- `tdesc` (R332). -/
def execTdesc (d a : BitVec 8) (s : State) : Outcome State Fault Refusal :=
  finish do
    s.need [d, a]
    let va := s.readS a
    guardRes (va.toNat % 64 == 0) (s.trapAt 5 va)
    let (h, s1) ← s.readDwords va 8
    let n := ((List.range 6).map fun i => bits (h.getD 1 0) (6 * i + 5) (6 * i)).sum
    let (rows, s2) ← s1.readDwords (va + 64) n
    let fi := bits (h.getD 0 0) 4 0
    let entry := s.fmtHere fi
    guardRes (bitAt entry 63) (s.fmtFault 0 fi)
    let t := describe h rows entry
    let st := descStatus h rows t
    let pkg := s.pkgOf s.cur
    let ctx := s.ctxOf s.cur
    let free := (List.range 4096).find? fun e => !(s.tensor (tensorKey pkg ctx e)).live
    match st, free with
    | 0, some e =>
      let k := tensorKey pkg ctx e
      let gen := nextGen (s.tensor k).gen
      let s3 := s2.setTensor k { t with gen := gen, die := (s.placeOf s.cur).2.1 }
      .ok ((s3.writeS d (BitVec.ofNat 64 (gen * 2 ^ 12 + e))).retire)
    | st, _ => .ok ((s2.writeS d (BitVec.ofNat 64 (2 ^ 63 + if st = 0 then 5 else st))).retire)

/-- The relay of a tensor whose passes run or are checked. -/
def State.runningRelay (s : State) (t : Tensor) : Option RelayRun :=
  (s.liveRelays t).find? fun r => r.phase == .check || r.phase == .run || r.phase == .written

/-- The state word of R333. -/
def State.tensorWord (s : State) (t : Tensor) : Dword :=
  let (np, dn) := match s.runningRelay t with
    | some r => (r.passes.length, r.done)
    | none => (0, 0)
  BitVec.ofNat 64 ((s.passRuns t).toNat * 2 ^ 54 + t.level * 2 ^ 51 + np % 4096 * 2 ^ 39 + dn % 4096 * 2 ^ 27
    + t.relays.length * 2 ^ 23 + t.rate * 2 ^ 20 + t.n * 2 ^ 8 + t.fmt)

/-- `tquery` (R333). -/
def execTquery (d a b : BitVec 8) (s : State) : Outcome State Fault Refusal :=
  finish do
    s.need [d, a, b]
    let (_, t) ← s.handle (s.readS a)
    let x := (s.readS b).toNat
    let put (v : Dword) : Res := .ok ((s.writeS d v).retire)
    if x = 0 then put (s.tensorWord t)
    else if x = 1 then put t.base
    else if x = 2 then put t.side
    else if 0x40 ≤ x && x < 0x40 + t.n then put (t.rows.getD (x - 0x40) 0)
    else if 0x80 ≤ x && x < 0x80 + t.n then put (BitVec.ofNat 64 ((s.finalMap t).rows.getD (x - 0x80) 0))
    else .error s.illegal

/-- A command has halted and has not been resumed (R277). -/
def Cmd.isHalted (c : Cmd) : Bool := decide (16 ≤ c.status) && !c.started

/-- Handle accesses of a tensor that have not performed: of instructions, or spilled writes of a store (R341). -/
def State.handleBusy (s : State) (k : Nat) : Bool :=
  (s.ops.any fun e => e.2.tensor == some k)
    || s.cmds.any fun e => !e.2.spills.isEmpty && e.2.relay.isNone && e.2.fill.any fun f => f.tensor == k

/-- `tfree` (R334): a halted relay of the tensor is abandoned; a record of one on its way is still posted. -/
def execTfree (d a : BitVec 8) (s : State) : Outcome State Fault Refusal :=
  finish do
    s.need [d, a]
    match s.liveTensor (s.pkgOf s.cur) (s.ctxOf s.cur) (s.readS a) with
    | none => .ok ((s.writeS d 1).retire)
    | some (k, t) =>
      let ended := t.relays.all fun c => match SMap.find s.cmds c with
        | some x => decide (16 ≤ x.status)
        | none => true
      guardRes (ended && !s.handleBusy k) (.wait (.unit k) s)
      let s1 := { s with chains := SMap.erase s.chains (tensorChain k)
                         cmds := s.cmds.filter fun e => e.2.chain != tensorChain k || e.2.posting }
      .ok (((s1.setTensor k { t with live := false, relays := [] }).writeS d 0).retire)

/-! ## Handle accesses (R229, R341) -/

/-- The numbers under which the passes of a tensor's relays, and the accesses through its handle, leave what they know:
a handle access follows the passes completed, a pass follows the handle accesses before it (R265). -/
def tensorMsg (k : Nat) : Nat := 2 ^ 95 + 2 * k
def tensorUse (k : Nat) : Nat := 2 ^ 95 + 2 * k + 1

/-- The accesses of one lane to an element, and where it lies. -/
def Tensor.laneReqs (t : Tensor) (lane i : Nat) (d : Nat) (data : Nat) : List LaneReq :=
  let e := t.at_ t.cur i
  if t.rate ≠ 0 then
    (List.range (e.n / 2)).map fun j => { lane := lane, va := e.va + BitVec.ofNat 64 (2 * j), n := 2, reg := 1000 + j }
  else [{ lane := lane, va := e.va, n := e.n, reg := d, data := data, bit := e.bit, width := e.width }]

/-- `vldt` and `vstt` (R229). -/
def handleAccess (store : Bool) (d a b : BitVec 8) (s : State) : Outcome State Fault Refusal :=
  finish do
    guardRes (b != 0) s.illegal
    s.need [b]
    let h := s.readS b
    let (k, t) ← s.handle h
    let f := t.f
    guardRes (f.kind != 3 && !(store && t.rate != 0)) (s.fmtFault 1 t.fmt)
    let wide := decide (32 < t.n)
    guardRes ((f.c != 64 || d.toNat % 2 == 0) && (!wide || pairOk a)) s.illegal
    let data := elemRegs d f.c
    s.memCheck [a] data store [b]
    let extra := if wide then (regsOf a 64).drop 1 else []
    s.needRegs extra
    s.need [] extra
    s.needClean extra s.memLanes
    guardRes (!s.passRuns t) (.wait (.unit k) s)
    let idx (l : Nat) : Nat := if wide then (s.vsrcPair a l).toNat % 2 ^ 40 else (s.vsrc a l).toNat
    let lanes := lanesList s.memLanes
    match lanes.find? fun l => decide (2 ^ t.n ≤ idx l) with
    | some l => .error (s.trapAt 6 (BitVec.ofNat 64 (idx l)))
    | none =>
      let here := lanes.filter fun l => !t.hole (idx l)
      let holes := lanes.filter fun l => t.hole (idx l)
      let whos := here.map s.laneWho
      let s1 := s.learnAll whos (s.message (tensorMsg k))
      let reqs := here.flatMap fun l => t.laneReqs l (idx l) d.toNat (s.elemOf d.toNat (f.c / 8) l)
      let fills : List (Nat × Nat × Word) :=
        if store then [] else holes.flatMap fun l => data.map fun r => (r, l, (0 : Word))
      let cb : Option CbLoad := if t.rate = 0 || store then none
        else some { d := d.toNat, rate := rateBits t.rate, entry := t.entry
                    pos := here.map fun l => (l, (t.at_ t.cur (idx l)).pos) }
      let o := { s1.opHere s1.setA (if store then .store else .load) with
        pendV := if store then [] else data, fills := fills, cb := cb, tensor := some k }
      let s2 ← s1.vecAccess o (if store then .write else .read) false reqs
      .ok (s2.post (tensorUse k) (s2.knowledge whos))

def execVldt (d a b : BitVec 8) (s : State) : Outcome State Fault Refusal := handleAccess false d a b s
def execVstt (d a b : BitVec 8) (s : State) : Outcome State Fault Refusal := handleAccess true d a b s

end Sys2Proof.Machine
end

