-- ==== Sys2Proof/Machine/Engines.lean ====
section
/-! DEFINITION. The relay engines: their commands, accesses and spill buffers, completion, event records, and the chain
instructions (R271 to R282, R288 to R290, R300). -/

namespace Sys2Proof.Machine

open Host (Outcome)

/-! ## Commands -/

def State.cmd (s : State) (id : Nat) : Cmd := SMap.get s.cmds id { chain := 0, app := { va := 0, ticket := 0 } }
def State.setCmd (s : State) (id : Nat) (c : Cmd) : State := { s with cmds := SMap.put s.cmds id c }

/-- Bytes that some writes touch: elements below a byte that share one count once. -/
def spillBytes (l : List Spill) : Nat :=
  ((l.filter fun w => w.width = 0).map Spill.n).sum
    + ((l.filter fun w => w.width ≠ 0).map fun w => w.va).dedup.length

namespace Cmd

/-- The engine as the agent of a command (R250, R264). -/
def who (c : Cmd) (id : Nat) : Who :=
  { kind := .engine, pkg := c.pkg, die := c.die, core := c.engine, ctx := c.ctx, gid := id, pc := c.app.va }
/-- The origin of what it writes (R222). -/
def origin (c : Cmd) : BitVec 16 := originOf 2 0 c.engine
/-- Word i of the captured command (R273). -/
def word (c : Cmd) (i : Nat) : Dword := c.words.getD i 0
def flags (c : Cmd) : Dword := c.word 1
def kind (c : Cmd) : Nat := bits c.flags 3 0
def acq (c : Cmd) : Bool := bitAt c.flags 7
def acqs (c : Cmd) : Nat := bits c.flags 6 4
def rel (c : Cmd) : Bool := bitAt c.flags 11
def rels (c : Cmd) : Nat := bits c.flags 10 8
def evt (c : Cmd) : Bool := bitAt c.flags 12
def cred (c : Cmd) : Bool := bitAt c.flags 13
def ben (c : Cmd) : Bool := bitAt c.flags 14
def bbit (c : Cmd) : Nat := bits c.flags 23 16
def bcore (c : Cmd) : Nat := bits c.flags 30 24
def tag (c : Cmd) : Nat := bits c.flags 63 48

/-- The barrier it credits: its own BAR, or that of the relay or fill request (R275). -/
def bar (c : Cmd) : Dword :=
  match c.kind with
  | 3 => c.req.getD 2 0
  | 4 | 5 => c.req.getD 3 0
  | _ => c.word 5
/-- It credits a barrier: with CRED, unless a request names none (R311, R336). -/
def credits (c : Cmd) : Bool := c.cred && !(3 ≤ c.kind && c.kind ≤ 5 && c.bar == 0)

end Cmd

/-- A hidden chain: of a tensor, or of a domino; its commands lie in memory of the hardware (R312, R337). -/
def isHidden (chain : Nat) : Bool := decide (2 ^ 60 ≤ chain)
def fillChain (dom : Nat) : Nat := 2 ^ 61 + dom

/-! ## Tile records (R288 to R290) -/

/-- A stage is reached now: the first time, or the last, is kept. -/
def Tile.stamp (t : Tile) (stage : Nat) (last : Bool) (cycle : Nat) : Tile :=
  if !last && (SMap.find t.stages stage).isSome then t else { t with stages := SMap.put t.stages stage cycle }

/-- The same of a record of the state, if it is there still. -/
def State.tileStamp (s : State) (n : Nat) (stage : Nat) (last : Bool) : State :=
  match SMap.find s.tiles n with
  | none => s
  | some t => s.setTile n (t.stamp stage last s.cycle)

/-- A command with this attribution starts: the first copy-out starts here. -/
def State.tileStart (s : State) (x : Option (Nat × Bool)) (since : Nat) : State :=
  match x with
  | some (n, true) =>
    match SMap.find s.tiles n with
    | none => s
    | some t => s.setTile n { t.stamp 6 false s.cycle with outw := t.outw + (s.cycle - since) }
  | _ => s

/-- A command with this attribution moves data: of copy-in, the first is stamped. -/
def State.tileMoves (s : State) (x : Option (Nat × Bool)) : State :=
  match x with
  | some (n, false) => s.tileStamp n 1 false
  | _ => s

/-- A command is complete, or halts: its stage ends, its tile's work no more (R290). -/
def State.tileEnd (s : State) (id : Nat) : State :=
  let c := s.cmd id
  match c.app.tile with
  | none => s
  | some (n, out) =>
    let s1 := s.setCmd id { c with app := { c.app with tile := none } }
    match SMap.find s1.tiles n with
    | none => s1
    | some t => s1.setTile n { t.stamp (if out then 7 else 2) true s.cycle with work := t.work.filter (· != id) }

/-- The open tile of the issuing group and whether work appended now is copy-out (R289). -/
def State.tileHere (s : State) : Option (Nat × Bool) :=
  match s.cur with
  | .sys _ _ _ => none
  | .slot gid _ => (s.group gid).tile.map fun n => (n, (s.tile n).matrix)

/-- Work is attributed to the open tile of the issuing group. -/
def State.tileWork (s : State) (id : Nat) : State :=
  match s.tileHere with
  | none => s
  | some (n, _) => s.setTile n { s.tile n with work := (s.tile n).work ++ [id] }

/-! ## The engine's fault entries (R300) -/

/-- A command's fault on a page has an entry already. -/
def State.pageWaits (s : State) (id : Nat) (va : Dword) : Bool :=
  s.faults.any fun e => e.held == .command id && pageOf e.va == pageOf va

/-- Fewer than 64 spill entries of a command's engine are taken. -/
def State.spillEntryFree (s : State) (c : Cmd) : Bool :=
  decide ((s.faults.filter fun e => e.pkg == c.pkg && e.die == c.die && e.core == 96 + c.engine && e.idx.isSome).length < 64)

/-- A replayable outcome of a command: one entry for each page (R300). -/
def State.engineFault (s : State) (id : Nat) (va : Dword) (k : AccKind) (cause : Nat) : State :=
  if s.pageWaits id va then s
  else
    let c := s.cmd id
    (s.openFault { gid := none, pkg := c.pkg, die := c.die, core := 96 + c.engine, ctx := c.ctx, va := va, kind := k,
                   cause := cause, held := .command id }).setCmd id { c with entries := c.entries + 1 }

/-! ## Engine accesses (R275, R300) -/

/-- Why engine work stops. -/
inductive XErr where
  /-- for now: a reply, or room, is awaited -/
  | wait (s : State)
  /-- the command halts with this STATUS and details -/
  | halt (status : Nat) (det2 det3 : Dword) (s : State)

/-- n bytes from an address on, granule by granule: address, bytes, offset. -/
def pieces (va : Dword) (n : Nat) : List (Dword × Nat × Nat) :=
  let first := 64 - va.toNat % 64
  if n ≤ first then [(va, n, 0)]
  else (va, first, 0) :: (List.range ((n - first + 63) / 64)).map fun i =>
    (va + BitVec.ofNat 64 (first + 64 * i), min 64 (n - first - 64 * i), first + 64 * i)

/-- Reads bytes inside one granule; the origin where it is poisoned. -/
def State.engineReadOne (s : State) (id : Nat) (va : Dword) (n : Nat) :
    Except XErr (Nat × Option (BitVec 16) × State) :=
  let w := (s.cmd id).who id
  match s.xlate w va .read with
  | (.bad, s1) => .error (.halt 18 va 0 s1)
  | (.miss cause, s1) => .error (.wait (s1.engineFault id va .read cause))
  | (.at l, s1) =>
    match s1.raceAccess w l n 0 false with
    | .error x => .error (.halt 20 x.det2 x.det3 s1)
    | .ok s2 =>
      .ok (s2.bytesAt l.key n, if (s2.gran l.key).poisoned then some (s2.gran l.key).origin else none, s2)

/-- Reads n bytes of a source. -/
def State.engineRead (s : State) (id : Nat) (va : Dword) (n : Nat) :
    Except XErr (Nat × Option (BitVec 16) × State) :=
  (pieces va n).foldlM (fun (a : Nat × Option (BitVec 16) × State) p => do
    let (v, bad, s1) ← a.2.2.engineReadOne id p.1 p.2.1
    .ok (a.1 + v * 2 ^ (8 * p.2.2), a.2.1.or bad, s1)) (0, none, s)

/-- The bytes of a write whose element is narrower than a byte, merged (R328). -/
def Spill.merged (w : Spill) (old : Nat) : Nat :=
  if w.width = 0 then w.value
  else old - old / 2 ^ w.bit % 2 ^ w.width * 2 ^ w.bit + w.value % 2 ^ w.width * 2 ^ w.bit

/-- Writes inside one granule at a home: a fresh check, or the poison and origin of the source (R223). -/
def State.landWrite (s : State) (c : Cmd) (l : Loc) (w : Spill) : State :=
  let s1 := s.putBytes l.key w.n (w.merged (s.bytesAt l.key w.n)) c.origin
  match w.poison with
  | none => s1
  | some o => { s1 with grans := SMap.put s1.grans (l.key / 64) { origin := o, poisoned := true } }

/-- The granules in the spill buffer of a command's engine, each by command and address (R300). -/
def State.spilledGranules (s : State) (c : Cmd) : List (Nat × Nat) :=
  ((s.cmds.filter fun e => e.2.pkg == c.pkg && e.2.die == c.die && e.2.engine == c.engine).flatMap fun e =>
    e.2.spills.map fun w => (e.1, w.va.toNat / 64)).dedup

/-- A write inside one granule; a replayable outcome goes to the spill buffer (R300). -/
def State.engineWriteOne (s : State) (id : Nat) (w : Spill) : Except XErr State :=
  let c := s.cmd id
  match s.xlate (c.who id) w.va .write with
  | (.bad, s1) => .error (.halt 18 w.va 0 s1)
  | (.miss cause, s1) =>
    let held := s1.spilledGranules c
    let room := held.contains (id, w.va.toNat / 64) || decide (held.length < 256)
    if !room || !(s1.pageWaits id w.va || s1.spillEntryFree c) then .error (.wait s1)
    else
      let s2 := s1.engineFault id w.va .write cause
      let c2 := s2.cmd id
      .ok (s2.setCmd id { c2 with spills := c2.spills ++ [w] })
  | (.at l, s1) =>
    match s1.raceAccess (c.who id) l w.n 1 false with
    | .error x => .error (.halt 20 x.det2 x.det3 s1)
    | .ok s2 => .ok (s2.landWrite c l w)

/-- Writes n bytes. -/
def State.engineWrite (s : State) (id : Nat) (w : Spill) : Except XErr State :=
  (pieces w.va w.n).foldlM (fun s p => s.engineWriteOne id
    { w with va := p.1, n := p.2.1, value := w.value / 2 ^ (8 * p.2.2) % 2 ^ (8 * p.2.1) }) s

/-- Spilled writes leave the buffer one after the other; one that cannot be made stays in it. -/
def State.unspill (s : State) (id : Nat) : List Spill → Except XErr State
  | [] => .ok s
  | w :: ws =>
    let c := s.cmd id
    match (s.setCmd id { c with spills := c.spills.erase w }).engineWriteOne id w with
    | .ok s1 => s1.unspill id ws
    | .error (.wait s1) => .error (.wait (s1.setCmd id { s1.cmd id with spills := c.spills }))
    | .error (.halt st d2 d3 s1) => .error (.halt st d2 d3 (s1.setCmd id { s1.cmd id with spills := c.spills }))

/-- Spilled granules of a page are written in order, walking translation again (R300). -/
def State.writeBack (s : State) (id : Nat) (page : Nat) : Except XErr State :=
  s.unspill id ((s.cmd id).spills.filter fun w => pageOf w.va == page)

/-! ## COPY and FILL (R274) -/

/-- Moves the next granule of a COPY or FILL. -/
def State.moveGranule (s : State) (id : Nat) : Except XErr State := do
  let c := s.cmd id
  let off := BitVec.ofNat 64 (64 * c.pos)
  let (v, bad, s1) ←
    if c.kind = 1 then s.engineRead id (c.word 2 + off) 64
    else .ok (((List.range 16).map fun i => bits (c.word 2) 31 0 * 2 ^ (32 * i)).sum, none, s)
  let s2 ← s1.engineWrite id { va := c.word 3 + off, n := 64, value := v, poison := bad }
  let s2 := s2.tileMoves c.app.tile
  let c2 := s2.cmd id
  .ok (s2.setCmd id { c2 with
    pos := c2.pos + 1, bytes := 64 * (c2.pos + 1), status := if bad.isSome then 1 else c2.status, awaits := none })

/-- Moves the granules left. -/
def State.moveRest (s : State) (id : Nat) : Nat → Except XErr State
  | 0 => .ok s
  | n + 1 => do
    let s1 ← s.moveGranule id
    s1.moveRest id n

/-! ## The end of a command (R276, R277) -/

/-- Abandons the relay of a command: its tensor keeps its map (R340). -/
def State.abandonRelay (s : State) (id : Nat) : State :=
  match (s.cmd id).relay with
  | none => s
  | some r =>
    let t := s.tensor r.tensor
    s.setTensor r.tensor { t with relays := t.relays.filter (· != id) }

/-- Stores a hardware word of a chain or queue, atomically for other agents; a race it is the second access of stops it
(R263). -/
def State.engineStore (s : State) (w : Who) (l : Loc) (v : Dword) (origin : BitVec 16) : Except Access State :=
  match s.raceAccess w l 8 1 true with
  | .ok s1 => .ok (s1.store8 l.key v origin)
  | .error x => .error x

/-- HEAD after the command at an address: its NEXT, or where that cannot be read what was appended next. -/
def State.nextOf (s : State) (id : Nat) : Dword :=
  let c := s.cmd id
  match s.xlate (c.who id) c.app.va .read with
  | (.at l, _) => s.wordAt l.key 0
  | _ =>
    match ((s.chain c.chain).appended.dropWhile fun a => a.id != id).drop 1 with
    | a :: _ => a.va
    | [] => 0

/-- A chain has passed a command over, or forgotten it with its tensor (R278, R334). -/
def Chain.passed (ch : Chain) (hidden : Bool) (id : Nat) : Bool :=
  if hidden then !ch.queue.contains id else !(ch.appended.any fun a => a.id == id)

/-- A command is over, all its effects performed: the pip that counts it is decremented, and its chain goes on, or
stands halted (R276, R277). -/
def State.finishCommand (s : State) (id : Nat) : State :=
  let c := s.cmd id
  let s1 := match c.app.op with
    | none => s
    | some n => match SMap.find s.ops n with
      | none => s
      | some _ => s.completeOp n
  let s2 := s1.traceEngine false c.pkg c.die c.engine c.ctx 4 c.status c.app.va (BitVec.ofNat 64 c.app.ticket)
  let ch := s2.chain c.chain
  if 16 ≤ c.status && ch.passed (isHidden c.chain) id then
    let s3 := if ch.running = some id then s2.setChain c.chain { ch with running := none } else s2
    { s3 with cmds := SMap.erase s3.cmds id }
  else if 16 ≤ c.status then
    (s2.setChain c.chain { ch with running := none }).setCmd id
      { c with started := false, checked := false, posting := false, spills := [], pos := 0
               app := { c.app with op := none } }
  else
    let s3 := if isHidden c.chain then
        s2.setChain c.chain { ch with running := none, queue := ch.queue.filter (· != id) }
      else
        let rest := (ch.appended.dropWhile fun a => a.id != id).drop 1
        (s2.store8 c.chain (s2.nextOf id) c.origin).setChain c.chain { ch with running := none, appended := rest }
    { s3 with cmds := SMap.erase s3.cmds id }

/-- The event queue object at an address, for the engine of a command: its home, if it is valid (R280). -/
def State.eventQueue (s : State) (id : Nat) (va : Dword) : Option Loc :=
  let c := s.cmd id
  if va.toNat % 64 ≠ 0 || !isWindow va then none
  else match s.xlate (c.who id) va .rmw with
    | (.at l, _) =>
      let w := s.wordAt l.key
      if homeOf l.key = (c.pkg, c.die) && w 4 == 0 && w 5 == 0 && w 6 == 0 && w 7 == 0 && bits (w 3) 63 7 == 0
          && decide (bits (w 3) 4 0 ≤ 16) && (w 2).toNat % 64 == 0 then some l else none
    | _ => none

/-- The chain's EVQ. -/
def State.chainEvq (s : State) (c : Cmd) : Dword := if isHidden c.chain then 0 else s.wordAt c.chain 5

/-- The queue a command's records go to: its own, else its chain's. -/
def State.queueFor (s : State) (c : Cmd) : Dword := if c.word 6 = 0 then s.chainEvq c else c.word 6

/-- The event record of a command (R281). -/
def Cmd.record (c : Cmd) : List Dword :=
  [BitVec.ofNat 64 c.app.ticket, c.app.va,
   BitVec.ofNat 64 (c.tag * 2 ^ 48 + c.status * 2 ^ 40 + c.engine * 2 ^ 36 + c.die * 2 ^ 33 + c.ctx),
   BitVec.ofNat 64 c.bytes, c.det2, c.det3, 0, 0]

/-- A record has been posted or dropped: the command is over. -/
def State.endPost (s : State) (n : Nat) : State :=
  match SMap.find s.posts n with
  | none => s
  | some p => ({ s with posts := SMap.erase s.posts n }).finishCommand p.cmd

/-- STATUS is written into the command in memory (R273). -/
def State.writeStatus (s : State) (id : Nat) : Except Access State :=
  let c := s.cmd id
  if isHidden c.chain then .ok s
  else match s.xlate (c.who id) c.app.va .write with
    | (.at l, s1) =>
      match s1.raceAccess (c.who id) { l with key := l.key + 0x38, addr := l.addr + 0x38 } 1 1 false with
      | .ok s2 => .ok (s2.putBytes (l.key + 0x38) 1 c.status c.origin)
      | .error x => .error x
    | _ => .ok s

/-- A command halts its chain with a STATUS (R277): HEAD stays on it, what it has written stays written; its stage of the
tile ends (R290). A store of STATUS that is the second access of a race is not made, and the STATUS is 20 (R263). -/
def State.markHalted (s : State) (id status : Nat) (det2 det3 : Dword) : State :=
  let s0 := (s.dropFaults fun e => e.held == .command id).tileEnd id
  let c := s0.cmd id
  let s1 := s0.setCmd id { c with
    status := status, det2 := det2, det3 := det3, spills := [], entries := 0, bytes := c.bytes - spillBytes c.spills
    awaits := none }
  let c := s1.cmd id
  let ch := s1.chain c.chain
  let s2 := if isHidden c.chain then s1.setChain c.chain { ch with halted := true }
    else s1.store8 (c.chain + 0x20) (s1.wordAt c.chain 4 ||| 0x100) c.origin
  match s2.writeStatus id with
  | .ok s3 => s3
  | .error x => if status = 20 then s2 else s2.setCmd id { s2.cmd id with status := 20, det2 := x.det2, det3 := x.det3 }

/-- A post that is the second access of a race: its command takes STATUS 20. DESIGN CHOICE (log 36): the record that met
the race is dropped. -/
def State.postRaces (s : State) (n id : Nat) (x : Access) : State :=
  (if (s.cmd id).status < 16 then s.markHalted id 20 x.det2 x.det3 else s).endPost n

/-- The address of the next record of the queue object at a home. -/
def State.tailRecord (s : State) (key : Nat) : Dword :=
  let w := s.wordAt key
  w 2 + BitVec.ofNat 64 (64 * ((w 1).toNat % 2 ^ bits (w 3) 4 0))

/-- Posts a record that is on its way, if it can (R280): it waits for room and for replies. Its bytes and TAIL are written
after the releases of its command (R264). -/
def State.tryPost (s : State) (n : Nat) : State :=
  match SMap.find s.posts n with
  | none => s
  | some p =>
    let c := s.cmd p.cmd
    if c.entries ≠ 0 then s
    else match s.eventQueue p.cmd p.queue with
      | none => s.endPost n
      | some l =>
        let w := s.wordAt l.key
        let cap := 2 ^ bits (w 3) 4 0
        if cap ≤ (w 1 - w 0).toNat then s
        else
          let va := s.tailRecord l.key
          match s.xlate (c.who p.cmd) va .write with
          | (.bad, s1) => s1.endPost n
          | (.miss cause, s1) => s1.engineFault p.cmd va .write cause
          | (.at r, s1) =>
            let res := do
              let s2 ← s1.raceAccess (c.who p.cmd) r 64 1 false
              let s3 := (s2.putBytes r.key 64 (natOfDwords p.words) c.origin).release (c.who p.cmd) 4
              s3.engineStore (c.who p.cmd) { l with key := l.key + 8, addr := l.addr + 8 } (w 1 + 1) c.origin
            match res with
            | .error x => s1.postRaces n p.cmd x
            | .ok s4 =>
              let owner := bits (w 3) 6 5
              let s5 := if owner = 1 || owner = 2 then
                  (s4.post (wakeMsg (coreKey c.pkg c.die (119 + owner)) 4) (s4.knowledge [c.who p.cmd])).wakeCore
                    c.pkg c.die (119 + owner) 4
                else s4
              (s5.traceEngine true c.pkg c.die c.engine c.ctx 5 0 p.queue (p.words.headD 0)).endPost n

/-- A record of a command is posted to a queue; the command waits until it is. -/
def State.postTo (s : State) (id : Nat) (queue : Dword) : State :=
  let (n, s1) := s.fresh
  let c := s1.cmd id
  let s2 := { s1 with posts := SMap.put s1.posts n { cmd := id, queue := queue, words := c.record } }
  (s2.setCmd id { c with posting := true, awaits := none }).tryPost n

/-- A command halts, and its record is posted to its queue or its chain's (R276, R277). -/
def State.haltCommand (s : State) (id status : Nat) (det2 det3 : Dword) : State :=
  let s3 := s.markHalted id status det2 det3
  let c := s3.cmd id
  match s3.eventQueue id (s3.queueFor c), s3.eventQueue id (s3.chainEvq c) with
  | some _, _ => s3.postTo id (s3.queueFor c)
  | none, some _ => if s3.chainEvq c = s3.queueFor c then s3.finishCommand id else s3.postTo id (s3.chainEvq c)
  | none, none => s3.finishCommand id

/-- What is known to those who take a completion effect as ordered after the command (R264). -/
def State.relKnow (s : State) (id : Nat) : SMap Nat :=
  let c := s.cmd id
  if c.rel then s.knowledge [c.who id] else []

/-- Effect 1: COMPL := the ticket. -/
def State.effectCompl (s : State) (id : Nat) : Except Access State :=
  let c := s.cmd id
  if isHidden c.chain then .ok (s.setChain c.chain { s.chain c.chain with compl := c.app.ticket })
  else
    let s1 := if c.rel then s.release (c.who id) c.rels else s
    s1.engineStore (c.who id) (s.homeLoc (c.chain + 0x18)) (BitVec.ofNat 64 c.app.ticket) c.origin

/-- Effect 2: the landed bytes are credited to the barrier as one credit (R241, R243, R245), an atomic step of the engine
(R250). -/
def State.effectCredit (s : State) (id landed : Nat) : Except Access State :=
  let c := s.cmd id
  if !c.credits then .ok s
  else match s.xlate (c.who id) c.bar .rmw with
    | (.at l, s1) =>
      match s1.raceAccess (c.who id) l 32 2 true with
      | .error x => .error x
      | .ok s2 => .ok (s2.credit l.key landed c.app.wg (s2.knowledge [c.who id]) c.origin)
    | _ => .ok s

/-- BBIT's window on BCORE's board is allotted to the command's context (R277). -/
def State.bitAllotted (s : State) (c : Cmd) : Bool :=
  (s.board (coreKey c.pkg c.die c.bcore)).allotted (c.bbit / 64) c.ctx

/-- Effect 3: BBIT is set on BCORE's board. -/
def State.effectBit (s : State) (id : Nat) : State :=
  let c := s.cmd id
  if c.ben && s.bitAllotted c then
    s.setBits (coreKey c.pkg c.die c.bcore) (c.bbit / 64) (1#64 <<< (c.bbit % 64)) (s.relKnow id)
  else s

/-- The completion effects of a command that has moved all its bytes (R276), logged or in its rank (R379). -/
def State.completionEffects (s : State) (id landed : Nat) : State :=
  let c := s.cmd id
  let q := s.queueFor c
  match s.mayComplete c with
  | some false => s
  | none => match c.app.by_ with | some (a, _) => s.diverge a | none => s
  | some true =>
  let s := (s.completed c).tileEnd id
  let c := s.cmd id
  if c.evt && q != 0 && (s.eventQueue id q).isNone then s.haltCommand id 16 0 0
  else
    let status := if c.status = 0 && c.ben && !s.bitAllotted c then 2 else c.status
    let first := do
      let s1 ← (s.setCmd id { c with status := status }).writeStatus id
      s1.effectCompl id
    match first with
    | .error x => s.haltCommand id 20 x.det2 x.det3
    | .ok s1 =>
    match s1.effectCredit id landed with
    | .error x => s1.haltCommand id 20 x.det2 x.det3
    | .ok s2 =>
      let s2 := s2.effectBit id
      if c.evt && q != 0 then s2.postTo id q else s2.finishCommand id

/-! ## Instructions -/

/-- An append that makes no command, as its instruction reports it (R278). -/
def State.appendExc (s : State) : AppendErr → Exc
  | .misaligned va => s.trapAt 5 va
  | .bad va => s.trapAt 6 va
  | .poisoned va det2 => s.trapAt 11 va det2
  | .miss va k cause =>
    match s.cur with
    | .sys _ _ _ => s.trapAt 6 va
    | .slot gid j => .wait .parked (s.parkReissue gid j va k cause)
  | .invalid => s.illegal

/-- The fill of a halted command is in flight no more: it is skipped, or begins again (R308, R313).
DESIGN CHOICE (log 37): the slot of a fill that is skipped or begun again is READY where it was the last. -/
def State.dropFill (s : State) (id : Nat) : State :=
  match (s.cmd id).fill with
  | none => s
  | some f =>
    let d := s.domino f.dom
    match SMap.find d.slots f.slot with
    | none => s
    | some x =>
      let fills := x.fills.filter (· != id)
      let st := if x.st = .filling && x.fills.contains id && fills.isEmpty then .ready else x.st
      s.setDomino f.dom { d with slots := SMap.put d.slots f.slot { x with fills := fills, st := st } }

/-- The issuing agent with its count, where its group's commands are logged (R379). -/
def State.loggerHere (s : State) : Option (Agent × Nat) :=
  match s.cur, s.logOf s.cur with
  | .slot _ _, some _ => some (s.cur, (s.hart s.cur).retired)
  | _, _ => none

/-- What the hardware keeps of an append by the issuing slot to the chain whose descriptor has this address. -/
def State.appendedHere (s : State) (id op : Nat) (desc : Dword) : Appended :=
  { id := id, va := 0, ticket := 0, op := some op, wg := some s.grp.wg, know := s.slotKnowledge
    scopes := s.scopesOf s.thread, tile := s.tileHere, at_ := s.cycle, by_ := s.loggerHere, desc := desc }

/-- A class-B operation of the issuing slot is under way: uncounted, its slot waits for it (R28). -/
def State.classB (s : State) (n : Nat) (pip : Option Nat) : State :=
  if pip.isNone then s.setSlot s.cur { s.slot s.cur with block := some (.op n), since := s.cycle } else s

/-- Resumes a halted chain (R278): `skip` passes the failed command over. -/
def State.resumeChain (s : State) (l : Loc) (skip : Bool) : Dword × State :=
  let key := l.key
  if !s.chainHalted key then (0x8000000000000002, s)
  else
    let org := s.scalarOrigin
    let w4 := s.wordAt key 4 &&& ~~~ 0x100
    let ch := s.chain key
    let failed := s.cmds.find? fun e => e.2.chain == key && decide (16 ≤ e.2.status)
    let s1 := match failed, skip with
      | some (id, c), true =>
        let next := s.nextOf id
        let s1 := (s.store8 (key + 0x18) (BitVec.ofNat 64 c.app.ticket) org).store8 key next org
        let s2 := (s1.abandonRelay id).dropFill id
        -- a record that still waits for its queue is posted first: the command is dropped after it
        let s3 := if c.posting then s2 else { s2 with cmds := SMap.erase s2.cmds id }
        s3.setChain key { ch with appended := (ch.appended.dropWhile fun (x : Appended) => x.id != id).drop 1 }
      | _, _ => s
    let s2 := s1.store8 (key + 0x20) w4 org
    (s2.wordAt key 3, s2)

/-- One access of the issuing thread, among those of an append: the trap of a race that it makes. -/
def State.appendEvent (s : State) (va : Dword) (l : Loc) (off acc : Nat) (atomic : Bool) : Except Exc State :=
  match s.raceAccess s.thread { l with key := l.key + off, addr := l.addr + off } 8 acc atomic with
  | .error x => .error (s.trapAt 7 (va + BitVec.ofNat 64 off) x.det2 x.det3)
  | .ok s1 => .ok s1

/-- The accesses of an append or a resumption that can be made (R250): of the descriptor's words as atomic steps, of the
command's NEXT, SEQ and STATUS as stores. DESIGN CHOICE (log 70): the link from the command before is none. -/
def State.appendEvents (s : State) (c k : Dword) : Except Exc State :=
  match s.chainAt s.thread c with
  | .error _ => .ok s
  | .ok (l, s1) =>
    if !s1.chainValid l.key then .ok s
    else if k.toNat < 2 then do
      let s2 ← s.appendEvent c l 0x20 2 true
      let s3 ← s2.appendEvent c l 0x18 2 true
      s3.appendEvent c l 0 2 true
    else if k.toNat % 64 ≠ 0 then .ok s
    else match s1.appendAt s.thread k .write with
      | .error _ => .ok s
      | .ok (m, _) => do
        let s2 ← s.appendEvent c l 0x20 0 true
        let s3 ← s2.appendEvent c l 0x10 2 true
        let s4 ← s3.appendEvent c l 0x08 2 true
        let s5 ← s4.appendEvent c l 0 2 true
        let s6 ← s5.appendEvent k m 0 1 false
        s6.appendEvent k m 0x38 1 false

/-- `eappend` (R278). -/
def execEappend (d a b : BitVec 8) (s : State) : Outcome State Fault Refusal :=
  finish <| counting s.setB do
    s.need [d, a, b]
    s.needPip s.setB
    let c := s.readS a
    let k := s.readS b
    let s ← s.appendEvents c k
    if 2 ≤ k.toNat then
      guardRes (c.toNat % 64 == 0) (s.trapAt 5 c)
      let (opn, s1) := s.fresh
      let (id, s2) := s1.fresh
      match s2.chainAppend s.thread c k (s.appendedHere id opn (s.homeVa s.cur c)) with
      | .error .invalid => .ok ((s.writeS d 0x8000000000000001).retire)
      | .error e => .error (s.appendExc e)
      | .ok (n, s3) => s.ticketStep (s.homeVa s.cur c) n fun _ => do
        let o := s.opHere s.setB .engine
        let s4 := { s3.tileWork id with ops := SMap.put s3.ops opn o }
        let s5 := match o.pip with | none => s4 | some p => s4.pipUp s.cur p
        .ok (((s5.writeS d n).retire).classB opn o.pip)
    else match s.chainAt s.thread c with
      | .error e => .error (s.appendExc e)
      | .ok (l, s1) =>
        if !s1.chainValid l.key then .ok ((s.writeS d 0x8000000000000001).retire)
        else
          let (v, s2) := s1.resumeChain l (k == 1)
          .ok ((s2.writeS d v).retire)

/-- The home of a chain or queue object of the issuer, with the checks of R278. -/
def State.slotObject (s : State) (va : Dword) (k : AccKind) : Except Exc (Loc × State) := do
  guardRes (va.toNat % 64 == 0) (s.trapAt 5 va)
  guardRes (isAlias va || isWindow va) (s.trapAt 6 va)
  let (l, s1) ← s.scalarAccess va 8 64 k true
  s1.cleanAt l va 64
  .ok (l, s1)

/-- A word of an object of the issuer in a slice, read with the checks of R278: a fault names the object. -/
def State.objectWord (s : State) (va off : Dword) : Except Exc (Loc × State) := do
  guardRes (va.toNat % 64 == 0) (s.trapAt 5 va)
  guardRes ((isAlias va || isWindow va) && decide ((s.xlate s.thread va .read).1 ≠ .bad)) (s.trapAt 6 va)
  let (l, s1) ← s.scalarAccess (va + off) 8 8 .read true
  s1.cleanAt l (va + off) 8
  .ok (l, s1)

/-- `eseq` (R279): COMPL, an acquire at package scope. -/
def execEseq (d a : BitVec 8) (s : State) : Outcome State Fault Refusal :=
  finish do
    s.need [d, a]
    let va := s.readS a
    let (l, s1) ← s.objectWord va 0x18
    .ok (((s1.acquireSlot 4).writeS d (BitVec.ofNat 64 (s1.bytesAt l.key 8))).retire)

/-- The address of record HEAD of the queue object at a home. -/
def State.headRecord (s : State) (key : Nat) : Dword :=
  let w := s.wordAt key
  w 2 + BitVec.ofNat 64 (64 * ((w 0).toNat % 2 ^ bits (w 3) 4 0))

/-- `evpoll` (R282): an acquire at package scope. -/
def execEvpoll (d a : BitVec 8) (s : State) : Outcome State Fault Refusal :=
  finish do
    s.need [d, a]
    let va := s.readS a
    let (l, s1) ← s.objectWord va 8
    let key := l.key - 8
    let w := s1.wordAt key
    let v := if (w 0).toNat < (w 1).toNat then s1.headRecord key else 0
    .ok (((s1.acquireSlot 4).writeS d v).retire)

/-- `evack` (R282): a release at package scope. -/
def execEvack (d a b : BitVec 8) (s : State) : Outcome State Fault Refusal :=
  finish do
    s.need [d, a, b]
    let (l, s1) ← (s.releaseSlot 4).slotObject (s.readS a) .rmw
    let w := s1.wordAt l.key
    if (w 0).toNat < (w 1).toNat && s1.headRecord l.key == s.readS b then
      .ok (((s1.store8 l.key (w 0 + 1) s.scalarOrigin).writeS d 0).retire)
    else .ok ((s1.writeS d 1).retire)

end Sys2Proof.Machine
end

