-- ==== Sys2Proof/Machine/Relays.lean ====
section
/-! DEFINITION. Relays: the request and its checks, factoring into passes, the passes (R335 to R341). -/

namespace Sys2Proof.Machine

open Host (Outcome)

/-! ## The request (R336, R337) -/

/-- Rows packed in word ROWS of a request, where n is at most 4. -/
def packedRows (n : Nat) (w : Dword) : List Dword :=
  (List.range n).map fun j => BitVec.ofNat 64 (bits w (16 * j + 15) (16 * j))

/-- Two ranges of numbers meet. -/
def meets (a na b nb : Nat) : Bool := decide (a < b + nb) && decide (b < a + na)

/-- Two regions of a tensor overlap: of window regions every core, die and package they spread over counts. -/
def Tensor.overlaps (t : Tensor) (a : Dword) (na : Nat) (b : Dword) (nb : Nat) : Bool :=
  if isWindow a != isWindow b then false
  else if !isWindow a then meets a.toNat na b.toNat nb
  else meets (bits a 19 0) na (bits b 19 0) nb && meets (bits a 26 20) (2 ^ t.wcore) (bits b 26 20) (2 ^ t.wcore)
    && meets (bits a 29 27) (2 ^ t.wdie) (bits b 29 27) (2 ^ t.wdie)
    && meets (bits a 39 30) (2 ^ t.wpkg) (bits b 39 30) (2 ^ t.wpkg)

/-- The status of a request (R337). -/
def State.relayStatus (s : State) (t : Tensor) (q rows : List Dword) : Nat :=
  let w (i : Nat) := q.getD i 0
  let n := t.n
  let bad := bitAt (w 3) 3 || bits (w 3) 47 31 != 0 || bitAt (w 3) 15 || bitAt (w 3) 13
    || rows.any (fun r => decide (r.toNat / 2 ^ n ≠ 0)) || (decide (n ≤ 4) && decide ((w 0).toNat / 2 ^ (16 * n) ≠ 0))
  let nr := bits (w 3) 2 0
  let fm := s.finalMap t
  let m := t.moveMap fm (rows.map BitVec.toNat) (w 1) (newRate fm.rate nr)
  if bad then 1
  else if (gfOps n m.rows).isNone then 2
  else if (w 1 != 0 && (!t.mapOk m || t.overlaps m.base (t.regionBytes m.rate) fm.base (t.regionBytes fm.rate)))
      || (w 1 == 0 && m.rate != fm.rate) then 3
  else if !t.blocksOk m.rows m.rate || (nr != 0 && t.f.kind != 0) then 4
  else if 8 ≤ t.relays.length then 5
  else 0

/-- The command's word 0x08 that an accepted request makes (R336): FLAGS, CRED where a barrier is named, and KIND. -/
def requestFlags (flags bar : Dword) (kind : Nat) : Dword :=
  ((flags &&& ~~~ 0xF) ||| BitVec.ofNat 64 kind) ||| (if bar = 0 then 0 else 0x2000)

/-- A command of a hidden chain, in its place there. -/
def State.appendHidden (s : State) (id chain : Nat) (c : Cmd) : State :=
  let ch := s.chain chain
  let n := ch.tickets + 1
  (s.setCmd id { c with chain := chain, app := { c.app with ticket := n } }).setChain chain
    { ch with pkg := c.pkg, die := c.die, engine := c.engine, ctx := c.ctx, queue := ch.queue ++ [id], tickets := n }

/-- Performs an append by the issuing slot to a hidden chain, under its group's log (R379). -/
def State.hiddenStep (s : State) (chain : Nat) (k : Res) : Res :=
  s.ticketStep (Config.hiddenChain chain) (BitVec.ofNat 64 ((s.chain chain).tickets + 1)) fun _ => k

/-- The rows of the request at an address, and the request. -/
def State.relayRequest (s : State) (t : Tensor) (va : Dword) : Except Exc (List Dword × List Dword × State) := do
  guardRes (va.toNat % 32 == 0) (s.trapAt 5 va)
  let (x, _, s1) ← s.scalarRead va 32 32
  let q := (List.range 4).map (dwordOf x)
  if t.n ≤ 4 then .ok (q, packedRows t.n (dwordOf x 0), s1)
  else
    guardRes ((dwordOf x 0).toNat % 8 == 0) (s.trapAt 5 (dwordOf x 0))
    let (rows, s2) ← s1.readDwords (dwordOf x 0) t.n
    .ok (q, rows, s2)

/-- `relay` (R337). -/
def execRelay (d a b : BitVec 8) (s : State) : Outcome State Fault Refusal :=
  finish <| counting s.setB do
    s.need [d, a, b]
    s.needPip s.setB
    let (k, t) ← s.handle (s.readS a)
    let (q, rows, s1) ← s.relayRequest t (s.readS b)
    let st := s1.relayStatus t q rows
    if st ≠ 0 then .ok ((s1.writeS d (BitVec.ofNat 64 st)).retire)
    else
      let (opn, s2) := s1.fresh
      let (id, s3) := s2.fresh
      let pkg := s.pkgOf s.cur
      let c : Cmd := {
        chain := 0, pkg := pkg, die := t.die, engine := k % 16, ctx := s.ctxOf s.cur
        app := s.appendedHere id opn (Config.hiddenChain (tensorChain k))
        words := [0, requestFlags (q.getD 3 0) (q.getD 2 0) 3, s.readS a, 0, s.readS b, q.getD 2 0, 0, 0]
        req := q
        relay := some { tensor := k, gen := t.gen, rows := rows, newBase := q.getD 1 0
                        newRate := bits (q.getD 3 0) 2 0 } }
      let s4 := (s3.appendHidden id (tensorChain k) c).setTensor k { t with relays := t.relays ++ [id] }
      let o := s.opHere s.setB .engine
      let s5 := { s4.tileWork id with ops := SMap.put s4.ops opn o }
      let s6 := match o.pip with | none => s5 | some p => s5.pipUp s.cur p
      s1.hiddenStep (tensorChain k) (.ok (((s6.writeS d 0).retire).classB opn o.pip))

/-! ## Factoring (R335, R338) -/

/-- The level of a place bit. -/
def Tensor.levelOf (t : Tensor) (rate i : Nat) : Nat :=
  if i < t.offBits then
    (if rate = 0 && t.f.kind != 3 && decide (t.f.c < 32) && decide (i < Nat.log2 (32 / t.f.c)) then 0 else 1)
  else if i < t.offBits + t.wcore then 2
  else if i < t.offBits + t.wcore + t.wdie then 3
  else 4

/-- Consecutive operations whose bit lies in one level form one pass. -/
def Tensor.runsOf (t : Tensor) (rate : Nat) : List (Nat × Nat) → List Pass
  | [] => []
  | o :: ops =>
    let l := t.levelOf rate o.1
    match t.runsOf rate ops with
    | [] => [{ level := l, ops := [o] }]
    | p :: ps => if p.level = l then { p with ops := o :: p.ops } :: ps else { level := l, ops := [o] } :: p :: ps

/-- The passes of a relay from the current map of its tensor. -/
def Tensor.passesOf (t : Tensor) (r : RelayRun) : List Pass :=
  let change := gfMul (r.rows.map BitVec.toNat) (gfInverse t.n (t.rows.map BitVec.toNat))
  let rate := newRate t.rate r.newRate
  let runs := t.runsOf rate ((gfOps t.n change).getD []).reverse
  if r.newBase = 0 && rate == t.rate then runs
  else match runs with
    | [] => [{ level := 5, ops := [] }]
    | p :: ps => { p with level := 5 } :: ps

/-- The running command with a relay in a phase. -/
def State.relayIn (s : State) (id : Nat) (ph : RelayPhase) : Option (Cmd × RelayRun) :=
  match SMap.find s.cmds id with
  | none => none
  | some c => match c.relay with
    | none => none
    | some r => if c.live && r.phase == ph then some (c, r) else none

/-- RELAY_FACTORING_DONE: the factors of the relay are formed; it is the first of its tensor's. -/
def execRelayFactoringDone (id : Nat) (s : State) : Outcome State Fault Refusal :=
  match s.relayIn id .factoring with
  | none => .next s
  | some (c, r) =>
    let t := s.tensor r.tensor
    if t.relays.head? = some id then
      .next (s.setCmd id { c with relay := some { r with phase := .check, passes := t.passesOf r } })
    else .next s

/-! ## Passes (R339, R340) -/

/-- The map after a pass. -/
def Tensor.after (t : Tensor) (r : RelayRun) (p : Pass) : TMap :=
  let rows := gfRun p.ops t.cur.rows
  if p.level = 5 then t.moveMap t.cur rows r.newBase (newRate t.rate r.newRate) else { t.cur with rows := rows }

/-- Where each element that is no hole and that moves lies before and after: one whose place stays is not touched
(R344). -/
def Tensor.moves (t : Tensor) (m : TMap) : List (ElemAt × ElemAt) :=
  (((List.range (2 ^ t.n)).filter fun i => !t.hole i).map fun i => (t.at_ t.cur i, t.at_ m i)).filter fun e => e.1 != e.2

/-- Blocks travel whole: of a block format, or compressed at an unchanged rate. -/
def Tensor.whole (t : Tensor) (m : TMap) : Bool := t.f.kind == 3 || (t.rate != 0 && t.rate == m.rate)

/-- What a pass reads: addresses and bytes. -/
def Tensor.passReads (t : Tensor) (m : TMap) : List (Dword × Nat) :=
  ((t.moves m).flatMap fun e =>
    (e.1.va, e.1.n) :: (if t.whole m && t.rate != 0 then [(e.1.side, 1)] else [])).dedup

/-- What a pass writes. -/
def Tensor.passDests (t : Tensor) (m : TMap) : List (Dword × Nat) :=
  ((t.moves m).flatMap fun e =>
    (e.2.va, e.2.n) :: (if m.rate != 0 then [(e.2.side, 1)] else [])).dedup

/-- What was read at each address: value, and the origin where it is poisoned. -/
abbrev ReadMap := SMap (Nat × Option (BitVec 16))
def ReadMap.at_ (m : ReadMap) (va : Dword) : Nat × Option (BitVec 16) := SMap.get m va.toNat (0, none)

/-- The code of one element among what was read. -/
def Tensor.codeOf (t : Tensor) (m : ReadMap) (e : ElemAt) : Nat :=
  let v := (m.at_ e.va).1
  if t.rate ≠ 0 then (cbDecode t.f (rateBits t.rate) v).getD e.pos 0
  else if e.width ≠ 0 then v / 2 ^ e.bit % 2 ^ e.width
  else v

/-- The writes of one compressed block of the new map, its side byte included (R293 to R298). -/
def Tensor.blockWrites (t : Tensor) (m : TMap) (rd : ReadMap) (b : Dword × Dword) : List Spill :=
  let mine := (t.moves m).filter fun e => e.2.va == b.1
  let codes := (List.range 16).map fun p => match mine.find? fun e => e.2.pos == p with
    | some e => t.codeOf rd e.1
    | none => 0
  let bad := mine.findSome? fun e => (rd.at_ e.1.va).2
  let r := rateBits m.rate
  let blk := cbEncode t.f r codes
  [{ va := b.1, n := 2 * r, value := blk, poison := bad },
   { va := b.2, n := 1, value := cbSide t.f codes (cbDecode t.f r blk), poison := bad }]

/-- The writes of a pass. -/
def Tensor.passWrites (t : Tensor) (m : TMap) (rd : ReadMap) : List Spill :=
  let mv := t.moves m
  if t.whole m then
    ((mv.map fun e => (e.1, e.2)).map fun e => ({ e.1 with pos := 0 }, { e.2 with pos := 0 })).dedup.flatMap fun e =>
      { va := e.2.va, n := e.2.n, value := (rd.at_ e.1.va).1, poison := (rd.at_ e.1.va).2 } ::
        (if m.rate = 0 then [] else
          [{ va := e.2.side, n := 1, value := (rd.at_ e.1.side).1, poison := (rd.at_ e.1.side).2 }])
  else if m.rate ≠ 0 then ((mv.map fun e => (e.2.va, e.2.side)).dedup).flatMap (t.blockWrites m rd)
  else mv.map fun e =>
    { va := e.2.va, n := e.2.n, value := t.codeOf rd e.1, poison := (rd.at_ e.1.va).2, bit := e.2.bit, width := e.2.width }

/-- Walks for every page of some bytes: unresolvable halts, a replayable outcome opens an entry (R340). -/
def State.walkPages (s : State) (id : Nat) (k : AccKind) (l : List (Dword × Nat)) : Except XErr State :=
  (l.flatMap fun e => [e.1, e.1 + BitVec.ofNat 64 (e.2 - 1)]).foldlM (fun s va =>
    match s.xlate ((s.cmd id).who id) va k with
    | (.bad, s1) => .error (.halt 18 va 0 s1)
    | (.miss cause, s1) => .ok (s1.engineFault id va k cause)
    | (.at _, s1) => .ok s1) s

/-- The pass a relay is at. -/
def RelayRun.pass (r : RelayRun) : Option Pass := r.passes[r.done]?

/-- A context is neither suspended nor asked to be. -/
def State.ctxRuns (s : State) (pkg ctx : Nat) : Bool := !(s.ctx pkg ctx).suspending && !(s.ctx pkg ctx).suspended

/-- RELAY_PASS_START: CHECK p, and RUN p once every page translates and every handle access translated before has
performed (R340, R341). -/
def execRelayPassStart (id : Nat) (s : State) : Outcome State Fault Refusal :=
  match s.relayIn id .check with
  | none => .next s
  | some (c, r) =>
    match r.pass with
    | none => .next s
    | some p =>
      let t := s.tensor r.tensor
      let m := t.after r p
      if c.entries ≠ 0 || !s.ctxRuns c.pkg c.ctx then .next s
      else
        let res := do
          let s1 ← s.walkPages id .read (t.passReads m)
          s1.walkPages id .write (t.passDests m)
        match res with
        | .error (.halt st d2 d3 s1) => .next (s1.haltCommand id st d2 d3)
        | .error (.wait s1) => .next s1
        | .ok s1 =>
          if (s1.cmd id).entries ≠ 0 then .next s1
          else if s1.handleBusy r.tensor then .next s
          else
            let know := clockJoin (s1.message (tensorMsg r.tensor)) (s1.message (tensorUse r.tensor))
            let s2 := (s1.learnAll [c.who id] know).tileMoves c.app.tile
            .next ((s2.setCmd id { s2.cmd id with relay := some { r with phase := .run }, awaits := none }).setTensor r.tensor
              { t with level := p.level })

/-- Reads everything a pass reads, before it writes anything. -/
def State.readAll (s : State) (id : Nat) (l : List (Dword × Nat)) : Except XErr (ReadMap × State) :=
  l.foldlM (fun (a : ReadMap × State) e => do
    let (v, bad, s1) ← a.2.engineRead id e.1 e.2
    .ok (SMap.put a.1 e.1.toNat (v, bad), s1)) ([], s)

/-- Writes one after the other; what stops it comes with what is left. -/
def State.writeAll (s : State) (id : Nat) : List Spill → Except (XErr × List Spill) State
  | [] => .ok s
  | w :: ws =>
    match s.engineWrite id w with
    | .ok s1 => s1.writeAll id ws
    | .error e => .error (e, w :: ws)

/-- Poisons the granules of destinations not yet written, with origin KIND 6 (R340). -/
def State.poisonDests (s : State) (id : Nat) (l : List (Dword × Nat)) : State :=
  (l.flatMap fun e => pieces e.1 e.2).foldl (fun s p =>
    match s.xlate ((s.cmd id).who id) p.1 .write with
    | (.at l, s1) =>
      { s1 with grans := SMap.put s1.grans (l.key / 64) { origin := originOf 6 0 0xFFF, poisoned := true } }
    | (_, s1) => s1) s

/-- BETWEEN p: the tensor has the pass's map; handle accesses after it are ordered after it (R265, R341). DEDUCED (log 89): a
raw access is not, so that row 5 of R344's table holds for a group that is ordered after pass 1 otherwise. -/
def State.passDone (s : State) (id : Nat) (r : RelayRun) (p : Pass) : State :=
  let t := s.tensor r.tensor
  let m := t.after r p
  let s1 := s.setTensor r.tensor { t with
    rows := m.rows.map (BitVec.ofNat 64), base := m.base, side := m.side, rate := m.rate, level := p.level }
  let c := s1.cmd id
  let s2 := s1.setCmd id { c with relay := some { r with phase := .check, done := r.done + 1 }, awaits := none }
  s2.post (tensorMsg r.tensor) (s2.knowledge [c.who id])

/-- A pass that cannot go on after it has begun: the rest of its destinations are poisoned, the tensor has the pass's
map, and the command halts (R340). -/
def State.passBreaks (s : State) (id : Nat) (r : RelayRun) (p : Pass) (rest : List (Dword × Nat)) (st : Nat)
    (d2 d3 : Dword) : State :=
  ((s.poisonDests id rest).passDone id r p).haltCommand id st d2 d3

/-- A command stops (R277, R340): a relay whose pass has spilled writes left breaks its pass; one that has read and
written nothing of its pass is at CHECK again. -/
def State.stopCommand (s : State) (id : Nat) (st : Nat) (d2 d3 : Dword) : State :=
  let c := s.cmd id
  match c.relay with
  | none => s.haltCommand id st d2 d3
  | some r =>
    match r.phase, r.pass with
    | .written, some p => s.passBreaks id r p (c.spills.map fun w => (w.va, w.n)) st d2 d3
    | .run, some _ => (s.setCmd id { c with relay := some { r with phase := .check } }).haltCommand id st d2 d3
    | _, _ => s.haltCommand id st d2 d3

/-- Nothing of a pass is kept but the entries it has opened. -/
def State.passWaits (s s1 : State) (id : Nat) : State :=
  { s with faults := s1.faults, buffered := s1.buffered, free := s1.free }.setCmd id
    { s.cmd id with entries := (s1.cmd id).entries }

/-- RUN p to its end: every read, then every write. -/
def State.runPass (s : State) (id : Nat) (r : RelayRun) (p : Pass) : State :=
  let c := s.cmd id
  let t := s.tensor r.tensor
  let m := t.after r p
  match s.readAll id (t.passReads m) with
  | .error (.halt st d2 d3 s1) => s1.passBreaks id r p (t.passDests m) st d2 d3
  | .error (.wait s1) => s1
  | .ok (rd, s1) =>
    let ws := t.passWrites m rd
    let c1 := s1.cmd id
    let s1 := s1.setCmd id { c1 with
      bytes := c1.bytes + spillBytes ws
      status := if ws.any (fun w => w.poison.isSome) then 1 else c1.status }
    match s1.writeAll id ws with
    | .error (.halt st d2 d3 s2, rest) =>
      let c2 := s2.cmd id
      let done := spillBytes (ws.take (ws.length - rest.length))
      let undone := (c2.spills ++ rest).map fun w => (w.va, w.n)
      (s2.setCmd id { c2 with bytes := c.bytes + done }).passBreaks id r p undone st d2 d3
    | .error (.wait s2, _) => s.passWaits s2 id
    | .ok s2 =>
      if (s2.cmd id).spills.isEmpty then s2.passDone id r p
      else s2.setCmd id { s2.cmd id with relay := some { r with phase := .written } }

/-- RELAY_PASS_COMPLETE: the running pass has written every element, spilled granules included. -/
def execRelayPassComplete (id : Nat) (s : State) : Outcome State Fault Refusal :=
  match s.relayIn id .run, s.relayIn id .written with
  | some (c, r), _ =>
    (match r.pass with
     | some p => if c.entries = 0 then .next (s.runPass id r p) else .next s
     | none => .next s)
  | none, some (c, r) =>
    (match r.pass with
     | some p => if c.entries = 0 && c.spills.isEmpty then .next (s.passDone id r p) else .next s
     | none => .next s)
  | none, none => .next s

/-- The bytes that hold an element: of a block of kind 3 those its code reaches into (R83), of a CB block all. -/
def Tensor.bytesOf (t : Tensor) (e : ElemAt) : List Dword :=
  if t.rate = 0 && t.f.kind = 3 then
    let w := t.f.mw + 1
    let lo := 8 * (1 + t.f.microBytes) + e.pos * w
    (List.range ((lo + w - 1) / 8 - lo / 8 + 1)).map fun i => e.va + BitVec.ofNat 64 (lo / 8 + i)
  else (List.range e.n).map fun i => e.va + BitVec.ofNat 64 i

/-- The bytes of the current region that hold an element that is no hole (R339). -/
def Tensor.landed (t : Tensor) : Nat :=
  (((List.range (2 ^ t.n)).filter fun i => !t.hole i).flatMap fun i => t.bytesOf (t.at_ t.cur i)).dedup.length

end Sys2Proof.Machine
end

