-- ==== Sys2Proof/Machine/Matrix.lean ====
section
/-! DEFINITION. The domino matrix engine: classes and sums, slots, the matrix operations, accumulators, self-tests
(R92 to R94, R301 to R310, R315 to R321, R323 to R325). -/

namespace Sys2Proof.Machine

open Host (Outcome)

/-! ## Classes (R304) -/

inductive MClass where
  | d | s | h | q | qi | n | ni | t
deriving DecidableEq, Repr

/-- K. -/
def MClass.depth : MClass → Nat
  | .d => 8 | .s => 16 | .h => 32 | .q | .qi => 64 | .n | .ni => 128 | .t => 256

/-- The class of a format entry, if it has one. -/
def classOf (f : Fmt) : Option MClass :=
  let w := f.w
  match f.kind with
  | 0 => if w = 64 then some .d else if 17 ≤ w && w ≤ 32 then some .s else if 9 ≤ w && w ≤ 16 then some .h
         else if w ≤ 8 then some .q else none
  | 2 => if 5 ≤ w && w ≤ 8 then some .qi else if w ≤ 4 then some .ni else none
  | 3 =>
    let c : Option MClass := if f.mw ≤ 2 then some .t else if f.mw ≤ 4 then some .n else if f.mw ≤ 7 then some .q else none
    c.filter fun c => decide (f.blockLen ≤ c.depth) && decide (c.depth / f.blockLen * (1 + f.microBytes) ≤ 32)
  | _ => none

/-- Element bits in a slot row. -/
def elemBits (f : Fmt) : Nat := if f.kind = 3 then 1 + f.mw else if f.kind = 2 then (if f.w ≤ 4 then 4 else 8) else f.c

/-! ## Slots -/

/-- Fields of a reservation record (R306). -/
def recFmt (r : Dword) : Nat := bits r 4 0
def recSig (r : Dword) : BitVec 16 := BitVec.ofNat 16 (bits r 31 16)
def recHalf (r : Dword) : Bool := bitAt r 32
def recKind (r : Dword) : Nat := bits r 34 33
def recMeta (r : Dword) : Nat := bits r 40 35
/-- N of N-of-64. -/
def recN (r : Dword) : Nat := 8 * 2 ^ bits r 42 41
/-- The slot's rows. -/
def recRows (r : Dword) : Nat := if recHalf r then 64 else 128

/-- A record is valid (R306). -/
def recordOk (r : Dword) : Bool :=
  bits r 63 43 == 0 && decide (recKind r ≤ 2) && decide (bits r 42 41 ≤ 2)
    && (recKind r == 1 || (bits r 42 41 == 0 && recMeta r == 0)) && (recLgblk r == 0 || bits r 15 8 % 16 == 0)
    && (recKind r != 2 || recFmt r == 3)

def OSlot.claimed (x : OSlot) : Bool := x.st != .free && x.st != .releasing
def OSlot.row (x : OSlot) (m : Nat) : Nat := SMap.get x.rows m 0

def Domino.slot (d : Domino) (n : Nat) : OSlot := SMap.get d.slots n { wg := 0 }
def Domino.setSlot (d : Domino) (n : Nat) (x : OSlot) : Domino := { d with slots := SMap.put d.slots n x }
def Domino.acc (d : Domino) (n : Nat) : Acc := SMap.get d.accs n { wg := 0 }

/-- The domino of the issuing core, and of a group. -/
def State.dominoHere (s : State) : Nat := let (p, d, c) := s.placeOf s.cur; dominoKey p d (c / 2)

/-- A slot or accumulator reserved for a workgroup is the issuer's or its partner's (R302). -/
def State.ownsSlot (s : State) (wg : Nat) : Bool :=
  let me := s.grp.wg
  wg == me || (s.wg me).partner == some wg

/-- The handle's must-be-zero bits (R305). -/
def handleOk (h : Dword) : Bool := bits h 63 16 == 0 && bits h 14 12 == 0
def handleSlot (h : Dword) : Nat := bits h 5 0

/-- The fault of a slot that is not live (R305). -/
def State.unclaimedSlot (s : State) (h : Nat) : Exc := s.trapAt 4 (BitVec.ofNat 64 (2 ^ 63 + h % 2 ^ 16))

/-- The live slot of a handle (R305). -/
def State.liveSlot (s : State) (h : Dword) : Except Exc OSlot := do
  guardRes (handleOk h) s.illegal
  match SMap.find (s.domino s.dominoHere).slots (handleSlot h) with
  | some x =>
    guardRes (s.ownsSlot x.wg && x.claimed && x.gen == bits h 11 6) (s.unclaimedSlot h.toNat)
    .ok x
  | none => .error (s.unclaimedSlot h.toNat)

/-- A slot named by its number, claimed. -/
def State.claimedSlot (s : State) (n shown : Nat) : Except Exc OSlot :=
  match SMap.find (s.domino s.dominoHere).slots n with
  | some x => if s.ownsSlot x.wg && x.claimed then .ok x else .error (s.unclaimedSlot shown)
  | none => .error (s.unclaimedSlot shown)

/-- The accumulator of a number: of the workgroup's, in reservation order; a number not below ASLOTS faults (R305).
DEDUCED (log 38): so no number names an accumulator of its partner, which R302 would let it name. -/
def State.liveAcc (s : State) (n : Nat) : Except Exc Nat :=
  match ((s.wg s.grp.wg).aslots)[n]? with
  | some k => .ok k
  | none => .error (s.trapAt 4 (BitVec.ofNat 64 (2 ^ 62) ||| BitVec.ofNat 64 n))

/-- `oclaim` (R309). -/
def execOclaim (d a : BitVec 8) (s : State) : Outcome State Fault Refusal :=
  finish do
    s.need [d, a]
    let r := s.readS a
    let dk := s.dominoHere
    let dom := s.domino dk
    let w := s.wg s.grp.wg
    let put (v : Dword) (s : State) : Res := .ok ((s.writeS d v).retire)
    if w.oslots.isEmpty then put 0xFFFFFFFFFFFFFFFF s
    else if !recordOk r then put 0xFFFFFFFFFFFFFFFE s
    else if recLgblk r != 0 && dom.slots.any (fun e =>
        e.2.st != .free && recLgblk e.2.record != 0 && recWindow e.2.record == recWindow r) then put 0xFFFFFFFFFFFFFFFD s
    else match w.oslots.find? fun t => (dom.slot t).st == .free with
      | none => put 0xFFFFFFFFFFFFFFFF s
      | some t =>
        let x := dom.slot t
        let gen := (x.gen + 1) % 64
        put (BitVec.ofNat 64 (gen * 64 + t)) (s.setDomino dk
          (dom.setSlot t { wg := x.wg, st := .empty, gen := gen, record := r }))

/-- A matrix operation names a slot as A, B, B's second or metadata. -/
def MatOp.slots (o : MatOp) : List Nat :=
  if o.which = 1 then [o.a, o.b, o.b2, o.meta_] else if o.which = 4 then [] else [o.a, o.b]

/-- An operation works on one of some accumulators. -/
def MatOp.onAcc (o : MatOp) (accs : List Nat) : Bool :=
  o.which != 4 && (accs.contains o.acc || o.acc2.any accs.contains)

/-- It has read its operands (R308, R320). -/
def MatOp.hasRead (o : MatOp) : Bool := o.started && o.which != 2

/-- A RELEASING slot that may be FREE: its fills are complete, every operation ahead of it has read it (R308). -/
def Domino.mayFree (d : Domino) (n : Nat) : Bool :=
  let x := d.slot n
  x.st == .releasing && x.fills.isEmpty && d.queue.all fun o => o.hasRead || !o.slots.contains n

/-- A slot becomes FREE; the `orel` that waits for it is over. -/
def State.freeSlot (s : State) (dk n : Nat) : State :=
  let d := s.domino dk
  let x := d.slot n
  let s1 := s.setDomino dk (d.setSlot n { wg := x.wg, gen := x.gen })
  match x.relOp with
  | none => s1
  | some o => { s1 with ops := SMap.erase s1.ops o }

/-- SLOT_RELEASE_COMPLETE. -/
def execSlotReleaseComplete (dk n : Nat) (s : State) : Outcome State Fault Refusal :=
  if (s.domino dk).mayFree n then .next (s.freeSlot dk n) else .next s

/-- `orel` (R310): the slot waits until its operand slot is FREE. -/
def execOrel (a : BitVec 8) (s : State) : Outcome State Fault Refusal :=
  finish do
    s.need [a]
    let h := s.readS a
    let x ← s.liveSlot h
    let dk := s.dominoHere
    let d := (s.domino dk).setSlot (handleSlot h) { x with st := .releasing }
    let s1 := s.setDomino dk d
    if d.mayFree (handleSlot h) then .ok ((s1.freeSlot dk (handleSlot h)).retire)
    else
      let (opn, s2) := s1.fresh
      let s3 := { s2 with ops := SMap.put s2.ops opn (s.opHere none .engine) }
      let s4 := s3.setDomino dk (d.setSlot (handleSlot h) { x with st := .releasing, relOp := some opn })
      .ok ((s4.retire).classB opn none)

/-- The state word of `orec` (R310). -/
def OSlot.word (x : OSlot) : Dword :=
  let st := match x.st with | .filling => 1 | .ready => 2 | .releasing => 3 | _ => 0
  BitVec.ofNat 64 (x.stamp.toNat + st * 2 ^ 16 + x.gen % 64 * 2 ^ 18 + x.fills.length % 256 * 2 ^ 24
    + (if x.bad.isEmpty then 0 else 2 ^ 32))

/-- `orec` (R310). -/
def execOrec (d a b : BitVec 8) (s : State) : Outcome State Fault Refusal :=
  finish do
    s.need [d, a, b]
    let x ← s.liveSlot (s.readS a)
    if s.readS b = 0 then .ok ((s.writeS d x.record).retire)
    else if s.readS b = 1 then .ok ((s.writeS d x.word).retire)
    else .error s.illegal

/-! ## Sums (R92 to R94) -/

def fp32 : Fmt := fmtOf recFp32
def fp64 : Fmt := fmtOf recFp64

/-- R92: one rounding per step. -/
def sumFma (acc : Fmt) (md : ModeWord) (c : Nat) (ps : List (Val × Val)) : Nat :=
  ps.foldl (fun c p => roundTo acc (mdRM md) (mdOV md) (fmaVal (mdRM md) p.1 p.2 (readCode acc c))) c

/-- The term t of one chunk of products (R93), F fraction bits kept. DESIGN CHOICE (log 31): where several products are
NaN, t is the first in ascending k, a NaN that a product makes (0 × infinity) counting like one from a source. -/

def chunkTerm (f : Nat) (ov : Bool) (ps : List Val) : Val :=
  if ps.any Val.isNan then (firstNan ps).getD Val.newNan
  else if ps.any (fun p => !p.isFin && !p.neg?) && ps.any (fun p => !p.isFin && p.neg?) then Val.newNan
  else match ps.find? fun p => !p.isFin with
    | some p => p
    | none =>
      match (ps.filter fun p => !p.isZero).map Val.topExp with
      | [] => .fin false 0 0 false
      | y :: ys =>
        let e := ys.foldl max y
        let t : Int := (ps.map fun p => match p with
          | .fin neg m x _ =>
            let sh := x + f - e
            let q : Int := if 0 ≤ sh then ((m * 2 ^ sh.toNat : Nat) : Int) else ((m / 2 ^ (-sh).toNat : Nat) : Int)
            if neg then -q else q
          | _ => 0).sum
        if t = 0 then .fin false 0 0 false
        else readCode fp32 (roundTo fp32 0 ov (.fin (decide (t < 0)) t.natAbs (e - f) false))

/-- R93: the products in chunks of q. -/
def sumChunks (q f : Nat) (ov : Bool) : Nat → Nat → List Val → Nat
  | 0, c, _ => c
  | n + 1, c, ps =>
    sumChunks q f ov n (roundTo fp32 0 ov (addVal 0 (readCode fp32 c) (chunkTerm f ov (ps.take q)))) (ps.drop q)

/-- A 32-bit code as a signed integer. -/
def i32Of (c : Nat) : Int := (BitVec.ofNat 32 c).toInt

/-- R94: exact products added to the i32 element, wrapping or saturating at each. -/
def sumInt (sat : Bool) (c : Nat) (ps : List (Val × Val)) : Nat :=
  let one (c : Int) (p : Val × Val) : Int :=
    let y := c + p.1.toInt * p.2.toInt
    if sat then max (-2 ^ 31) (min (2 ^ 31 - 1) y) else y
  (BitVec.ofInt 32 (ps.foldl one (i32Of c))).toNat

/-- The new value of an accumulator element. -/
def sumOrder (c : MClass) (md : ModeWord) (old : Nat) (ps : List (Val × Val)) : Nat :=
  let n := ps.length
  match c with
  | .d => sumFma fp64 md old ps
  | .s => sumFma fp32 md old ps
  | .h => sumChunks 16 40 (mdOV md) (n / 16) old (ps.map fun p => mulVal p.1 p.2)
  | .q | .n | .t => sumChunks 32 30 (mdOV md) (n / 32) old (ps.map fun p => mulVal p.1 p.2)
  | .qi | .ni => sumInt (mdIS md) old ps

/-- Element k of row m of a slot, under a format entry (R303, R304). -/
def Domino.value (d : Domino) (x : OSlot) (f : Fmt) (m k : Nat) : Val :=
  let b := elemBits f
  let code := x.row m / 2 ^ (b * k) % 2 ^ b
  if f.kind = 3 then
    let at_ := recWindow x.record * 4096 + 32 * m + k / f.blockLen * (1 + f.microBytes)
    let byte (i : Nat) : Nat := (SMap.get d.scale (at_ + i) (0 : Byte)).toNat
    let j := k % f.blockLen / 2
    blockValue f (byte 0) (if f.micro then byte (1 + j / 8) / 2 ^ (j % 8) % 2 else 0) code
  else if f.kind = 0 && 16 < f.w then readCode f code
  else readOperand f code

/-- Dense position k of row m of a sparse A (R319). -/
def Domino.sparseValue (d : Domino) (x meta_ : OSlot) (f : Fmt) (m k : Nat) : Val :=
  let n := recN x.record
  let g := k / 64
  let mask := meta_.row m / 2 ^ (64 * g) % 2 ^ 64
  let j := ((List.range (k % 64)).filter fun i => mask.testBit i).length
  if mask.testBit (k % 64) && decide (j < n) then d.value x f m (n * g + j) else .fin false 0 0 false

/-- The operands along k of one result element. -/
def Domino.products (d : Domino) (o : MatOp) (c : MClass) (m n : Nat) : List (Val × Val) :=
  let fa := fmtOf o.entryA
  let fb := fmtOf o.entryB
  let xa := d.slot o.a
  let xb := d.slot o.b
  if o.which = 1 then
    (List.range (2 * c.depth)).map fun k =>
      (d.sparseValue xa (d.slot o.meta_) fa m k,
       if k < c.depth then d.value xb fb n k else d.value (d.slot o.b2) (fmtOf o.entryB2) n (k - c.depth))
  else (List.range c.depth).map fun k => (d.value xa fa m k, d.value xb fb n k)

/-- The element of an accumulator, or of a pair. -/
def Domino.accElem (d : Domino) (acc : Nat) (acc2 : Option Nat) (i : Nat) : Nat :=
  (SMap.get (d.acc acc).elems i 0).toNat + (match acc2 with
    | none => 0
    | some k => 2 ^ 32 * (SMap.get (d.acc k).elems i 0).toNat)

/-- Rows and columns an operation covers (R317). -/
def MatOp.rows (o : MatOp) : Nat := recRows o.recA
def MatOp.cols (o : MatOp) : Nat := recRows o.recB

/-- An operation with its results over rows below nr, and the poisoned among them (R317, R319, R320). -/
def Domino.compute (d : Domino) (o : MatOp) (nr : Nat) : MatOp :=
  match classOf (fmtOf o.entryA) with
  | none => o
  | some c =>
    let old (i : Nat) : Nat := if o.which = 3 then 0 else d.accElem o.acc o.acc2 i
    let badB := ((d.slot o.b).bad ++ (if o.which = 1 then (d.slot o.b2).bad else [])).any fun n => decide (n < o.cols)
    let badA (m : Nat) : Bool := (d.slot o.a).bad.contains m || (o.which == 1 && (d.slot o.meta_).bad.contains m)
    { o with
      results := (List.range nr).flatMap fun m => (List.range o.cols).map fun n =>
        (128 * m + n, sumOrder c o.md (old (128 * m + n)) (d.products o c m n))
      badRows := (List.range nr).filter fun m => badB || badA m }

/-- All 128 elements of a row. -/
def wholeRow : Nat := 2 ^ 128 - 1

/-- Rows of an accumulator become poisoned, or some elements of them are written clean (R317). -/
def Acc.mark (x : Acc) (rows : List Nat) (cols : Nat) (bad : Bool) : Acc :=
  { x with bad := rows.foldl (fun b m =>
      let old := SMap.get b m 0
      SMap.set b m (if bad then old ||| cols else old - (old &&& cols)) 0) x.bad }

/-- Results written to an accumulator: the low or the high words. -/
def Acc.put (x : Acc) (o : MatOp) (high : Bool) : Acc :=
  let x1 := { x with elems := o.results.foldl (fun e (r : Nat × Nat) =>
    SMap.set e r.1 (BitVec.ofNat 32 (if high then r.2 / 2 ^ 32 else r.2)) 0) x.elems }
  let done := (o.results.map fun r => r.1 / 128).dedup
  let x2 := x1.mark (done.filter fun m => !o.badRows.contains m) wholeRow false
  x2.mark (if o.dead then List.range o.rows else o.badRows) wholeRow true

/-- An operation's results in its accumulators. -/
def Domino.putResults (d : Domino) (o : MatOp) : Domino :=
  let d1 := { d with accs := SMap.put d.accs o.acc ((d.acc o.acc).put o false) }
  match o.acc2 with
  | none => d1
  | some k => { d1 with accs := SMap.put d1.accs k ((d1.acc k).put o true) }

/-! ## Issue (R315, R316) -/

/-- A fill or store of the hardware's chain is done with its slot or accumulator. -/
def State.fillDone (s : State) (cmd : Nat) : Bool :=
  match SMap.find s.cmds cmd with
  | none => true
  | some c => match c.fill with
    | none => true
    | some f => f.landed

/-- Entries of a sequencer's queue (R307). -/
def State.queued (s : State) (dk : Nat) : Nat :=
  (s.domino dk).queue.length + (s.cmds.filter fun e => match e.2.fill with
    | some f => f.dom == dk && !f.landed
    | none => false).length

/-- The cycle at which a fill or store reached the sequencer: one of a software command at its start (R313). -/
def Cmd.reached (c : Cmd) : Nat := if isHidden c.chain then c.app.at_ else c.startedAt

/-- Stores of an accumulator that have not read it and reached the sequencer before a cycle. -/
def State.storesOf (s : State) (dk : Nat) (accs : List Nat) (before : Nat) : List Nat :=
  (s.cmds.filter fun e => match e.2.fill with
    | some f => f.dom == dk && e.2.kind == 5 && !f.landed && (accs.contains f.slot || f.acc2.any accs.contains)
        && decide (e.2.reached < before)
    | none => false).map Prod.fst

/-- What a word of one kind waits for at a domino's sequencer: 0 an `oread` or `owrite`, 1 an `mfence`. -/
def sequencerUnit (dk kind : Nat) : Nat := 2 ^ 41 + kind * 2 ^ 40 + dk

/-- The cycle at which the issuing slot's word, which waits at a domino's sequencer or issues now, reached it (R307). -/
def State.arrived (s : State) (dk kind : Nat) : Nat :=
  let x := s.slot s.cur
  if x.block = some (.unit (sequencerUnit dk kind)) then x.since else s.cycle

/-- A slot has waited at a domino's sequencer with an `oread` or `owrite` since before a cycle. -/
def Slot.waitsAt (x : Slot) (dk before : Nat) : Bool :=
  x.st != .free && x.block == some (.unit (sequencerUnit dk 0)) && decide (x.since < before)

/-- An `oread` or `owrite` that waits reached a domino's sequencer before a cycle: what came later waits for it (R307). -/
def State.wordAhead (s : State) (dk before : Nat) : Bool :=
  s.groups.any fun e => dominoKey e.2.pkg e.2.die (e.2.core / 2) == dk && e.2.life != .saved
    && (e.2.slot0.waitsAt dk before || e.2.slot1.waitsAt dk before)

/-- A format entry of a record, programmed. -/
def State.recEntry (s : State) (r : Dword) : Except Exc Dword :=
  let e := s.fmtHere (recFmt r)
  if bitAt e 63 then .ok e else .error (s.fmtFault 0 (recFmt r))

/-- The stamp of a slot matches its record (R316 check 6). -/
def State.needStamp (s : State) (x : OSlot) (operand slot : Nat) : Except Exc Unit :=
  guardRes (x.stamp == recSig x.record) (s.trapAt 10
    (BitVec.ofNat 64 (x.stamp.toNat * 2 ^ 32 + (recSig x.record).toNat * 2 ^ 16 + operand * 2 ^ 8 + slot)))

/-- A second slot that only `mmas` has. -/
def State.extraSlot (s : State) (sparse : Bool) (n shown : Nat) : Except Exc (Option OSlot) :=
  if sparse then (s.claimedSlot n shown).map some else .ok none

/-- The issue of a matrix operation: the checks of R316 in order, then the queue. -/
def matrixOp (which : Nat) (d a b : BitVec 8) (s : State) : Outcome State Fault Refusal :=
  finish do
    s.need [d, a, b]
    let core := (s.placeOf s.cur).2.2
    guardRes (core % 2 == 0) (s.trapAt 12 (BitVec.ofNat 64 core))
    guardRes (mdRM s.mode != 5) s.illegal
    let sparse := which == 1
    let hd := s.readS d
    let ha := s.readS a
    let hb := s.readS b
    guardRes (handleOk ha && handleOk hb && (if which = 2 then bits hd 63 57 == 0 else bits hd 63 3 == 0)) s.illegal
    let num := bits hd 2 0
    let acc ← s.liveAcc num
    let xa ← s.liveSlot ha
    let xb ← s.liveSlot hb
    let sa := handleSlot ha
    let sb := handleSlot hb
    guardRes (recKind xa.record == (if sparse then 1 else 0) && recKind xb.record == 0 && (!sparse || sb % 2 == 0)) s.illegal
    let xb2 ← s.extraSlot sparse (sb + 1) (hb.toNat + 1)
    let xm ← s.extraSlot sparse (recMeta xa.record) (recMeta xa.record)
    guardRes ((match xb2 with | some x => recKind x.record == 0 | none => true)
      && (match xm with | some x => recKind x.record == 2 | none => true)) s.illegal
    let ea ← s.recEntry xa.record
    let eb ← s.recEntry xb.record
    let eb2 ← match xb2 with | some x => s.recEntry x.record | none => .ok eb
    let reason1 := s.fmtFault 1 (recFmt xa.record)
    let lg (x : OSlot) (e : Dword) : Bool := recLgblk x.record == (if (fmtOf e).kind = 3 then (fmtOf e).lgblk else 0)
    match classOf (fmtOf ea) with
    | none => .error reason1
    | some c =>
      guardRes (classOf (fmtOf eb) == some c && classOf (fmtOf eb2) == some c && lg xa ea && lg xb eb
        && (match xb2 with | some x => lg x eb2 | none => true)
        && (!sparse || (c != .d && c != .s && c != .ni))) reason1
      guardRes (c != .d || num % 2 == 0) s.illegal
      let acc2 ← if c = .d then (s.liveAcc (num + 1)).map some else .ok none
      s.needStamp xa 0 sa
      s.needStamp xb 1 sb
      (match xb2 with | some x => s.needStamp x 3 (sb + 1) | none => .ok ())
      (match xm with | some x => s.needStamp x 2 (recMeta xa.record) | none => .ok ())
      let dk := s.dominoHere
      guardRes (decide (s.queued dk < 32)) (.wait (.unit (2 ^ 40 + dk)) s)
      s.needPip s.setB
      let (opn, s1) := s.fresh
      let (id, s2) := s1.fresh
      let waits := ((if which = 2 then [] else xa.fills) ++ xb.fills ++ ((xb2.map OSlot.fills).getD [])
        ++ ((xm.map OSlot.fills).getD [])).filter fun f => !s.fillDone f
      let o : MatOp := {
        id := id, op := opn, which := which, ctx := s.ctxOf s.cur, acc := acc, acc2 := acc2, a := sa, b := sb
        b2 := sb + 1, meta_ := recMeta xa.record, recA := xa.record, recB := xb.record, entryA := ea, entryB := eb
        entryB2 := eb2, md := s.mode, fence := hd &&& ~~~ 7, fills := waits
        stores := s.storesOf dk (acc :: acc2.toList) (s.cycle + 1)
        ready := if waits.isEmpty then some s.cycle else none, tile := s.grp.tile, at_ := s.cycle }
      let dom := s.domino dk
      let s3 := (s2.setDomino dk { dom with queue := dom.queue ++ [o] }).tileWork (2 ^ 40 + id)
      let s4 := match s.grp.tile with
        | none => s3
        | some n => s3.setTile n { s3.tile n with matrix := true }
      let f := s.opHere s.setB .engine
      let s5 := { s4 with ops := SMap.put s4.ops opn f }
      let s6 := match f.pip with | none => s5 | some p => s5.pipUp s.cur p
      .ok ((s6.retire).classB opn f.pip)

def execMma (d a b : BitVec 8) (s : State) : Outcome State Fault Refusal := matrixOp 0 d a b s
def execMmas (d a b : BitVec 8) (s : State) : Outcome State Fault Refusal := matrixOp 1 d a b s
def execMmar (d a b : BitVec 8) (s : State) : Outcome State Fault Refusal := matrixOp 2 d a b s
def execMmaz (d a b : BitVec 8) (s : State) : Outcome State Fault Refusal := matrixOp 3 d a b s

/-! ## Execution (R317, R318, R320) -/

/-- A self-test is due before the next operation (R324). -/
def Domino.testDue (d : Domino) : Bool := decide (d.tests < d.opseq / 256)

def Domino.setHead (d : Domino) (o : MatOp) : Domino := { d with queue := o :: d.queue.drop 1 }

/-- The package and die of a domino, its leader core. -/
def dominoPlace (dk : Nat) : Nat × Nat × Nat := (dk / 1024, dk / 64 % 16, 2 * (dk % 64))

/-- Who reads a fence word: the leader core, in the operation's context. -/
def fenceWho (dk : Nat) (o : MatOp) : Who :=
  let (p, d, c) := dominoPlace dk
  { kind := .core, pkg := p, die := d, core := c, ctx := o.ctx, pc := o.fence }

/-- A read of a fence word: its low 32 bits; none where a reply is awaited, or where it cannot be read. -/
inductive Fence where
  | word (n : Nat) (s : State)
  | waits (s : State)
  | dead (s : State)

/-- Posts a fault record about a fence. -/
def State.fenceFault (s : State) (dk : Nat) (o : MatOp) (cause : Nat) (held : Parked) : State :=
  let (p, d, c) := dominoPlace dk
  s.openFault { gid := none, pkg := p, die := d, core := c, ctx := o.ctx, va := o.fence, kind := .read, cause := cause,
                held := held }

/-- Reads the fence word (R320): as a group's access is translated. -/
def State.readFence (s : State) (dk : Nat) (o : MatOp) : Fence :=
  match s.xlate { fenceWho dk o with kind := .thread } o.fence .read with
  | (.at l, s1) => .word (s1.bytesAt l.key 4) s1
  | (.miss cause, s1) => .waits (s1.fenceFault dk o cause (.fence dk))
  | (.bad, s1) => .dead (s1.fenceFault dk o 0 .walk)

/-- MATRIX_OPERATION_START: the head of the queue, its fills and all that came before it on its accumulators done, reads its
operands; `mmar` reads NR0. -/
def execMatrixOperationStart (dk : Nat) (s : State) : Outcome State Fault Refusal :=
  let d := s.domino dk
  match d.queue with
  | [] => .next s
  | o :: _ =>
    if o.started || o.which == 4 || d.testDue || o.fenceWaits || !((o.fills ++ o.stores).all s.fillDone)
        || s.wordAhead dk o.at_ then .next s
    else
      let ready := (o.ready).getD s.cycle
      let begin_ (o : MatOp) (s : State) : State :=
        let s1 := s.setDomino dk ((s.domino dk).setHead { o with started := true })
        match o.tile with
        | none => s1
        | some n => match SMap.find s1.tiles n with
          | none => s1
          | some t =>
            let t1 := { t with fillw := t.fillw + (ready - o.at_), arrayw := t.arrayw + (s.cycle - ready) }
            -- the operands of a ragged product are filled at TS, at the earliest
            s1.setTile n ((if o.which = 2 then t1 else t1.stamp 3 false ready).stamp 4 false s.cycle)
      if o.which ≠ 2 then .next (begin_ (d.compute o o.rows) s)
      else if o.dead then .next (begin_ o s)
      else match s.readFence dk o with
        | .word n s1 => .next (begin_ { o with nr0 := min n o.rows } s1)
        | .waits s1 => .next (s1.setDomino dk (d.setHead { o with fenceWaits := true }))
        | .dead s1 => .next (begin_ { o with dead := true } s1)

/-- Fills of a slot that write a row below nr and are not done. -/
def State.fillsBelow (s : State) (x : OSlot) (nr : Nat) : List Nat :=
  x.fills.filter fun f => !s.fillDone f && (match SMap.find s.cmds f with
    | none => false
    | some c => match c.fill.bind FillRun.block with
      | some (_, first) => decide (first < nr)
      | none => decide (bits (c.req.getD 1 0) 14 8 < nr))

/-- RAGGED_FENCE_READ: NR is read at TS, an acquire; the operation then waits for the fills of A below it. -/
def execRaggedFenceRead (dk : Nat) (s : State) : Outcome State Fault Refusal :=
  let d := s.domino dk
  match d.queue with
  | [] => .next s
  | o :: _ =>
    if !o.started || o.which ≠ 2 || o.nr.isSome || o.dead || o.fenceWaits then .next s
    else match s.readFence dk o with
      | .word n s1 =>
        let nr := min n o.rows
        let fills := s.fillsBelow (d.slot o.a) nr
        .next (s1.setDomino dk (d.setHead { o with
          nr := some nr, fills := fills, ts := s.cycle, ready := if fills.isEmpty then some s.cycle else none }))
      | .waits s1 => .next (s1.setDomino dk (d.setHead { o with fenceWaits := true }))
      | .dead s1 => .next (s1.setDomino dk (d.setHead { o with dead := true }))

/-- The contexts that have run on a domino since each sub-array's last pass grow by one. -/
def Domino.noteRun (d : Domino) (ctx : Nat) : Domino :=
  { d with ran := (List.range 16).foldl (fun r u =>
      let l := SMap.get r u []
      if l.contains ctx then r else SMap.put r u (l ++ [ctx])) d.ran }

/-! ## Self-tests (R324, R325) -/

/-- NEXTSEQ of every context of a package. -/
def State.nextSeqs (s : State) (pkg : Nat) : SMap Nat :=
  (s.ctxs.filter fun e => e.1 / 64 == pkg && e.2.stampSeq != 0).map fun e => (e.1 % 64, e.2.stampSeq)

/-- The error record of a failing sub-array (R325). -/
def State.subArrayRecord (s : State) (dk u : Nat) : List Dword :=
  let d := s.domino dk
  let (p, die, _) := dominoPlace dk
  let cs := SMap.get d.ran u []
  let lo (c : Nat) : Nat := SMap.get (SMap.get d.snaps u []) c 0
  let range (i : Nat) : List Dword := match cs[i]? with
    | none => [0, 0]
    | some c => [BitVec.ofNat 64 (c * 2 ^ 58 + 2 ^ 57 + lo c % 2 ^ 57), BitVec.ofNat 64 (s.ctx p c).stampSeq]
  [BitVec.ofNat 64 (SMap.get d.passed u 0), BitVec.ofNat 64 d.opseq,
   BitVec.ofNat 64 ((if 2 < cs.length then 2 ^ 63 else 0) + die % 8 * 2 ^ 60 + dk % 64 * 2 ^ 54 + u * 2 ^ 50 + d.class_ * 2 ^ 48),
   0] ++ range 0 ++ range 1

/-- A test of sub-array u comes out: a pass is noted; a failure fences it and posts its record. -/
def State.testResult (s : State) (dk u : Nat) (failed : Bool) : State :=
  let (p, _, _) := dominoPlace dk
  let s1 := if failed then s.postError p (s.subArrayRecord dk u) else s
  let d := s1.domino dk
  let d1 := { d with class_ := (d.class_ + 1) % 3 }
  s1.setDomino dk (if failed then { d1 with fenced := d1.fenced ||| (1#16 <<< u) }
    else { d1 with passed := SMap.put d1.passed u d1.opseq, snaps := SMap.put d1.snaps u (s.nextSeqs p)
                   ran := SMap.put d1.ran u [] })

/-- The test of an `mtest` at the head of the queue is made (R324): one whose sub-array was fenced meanwhile does nothing. -/
def State.runTest (s : State) (dk : Nat) (o : MatOp) (rest : List MatOp) : State :=
  let s1 := (s.setDomino dk { s.domino dk with queue := rest }).completeOp o.op
  if (s.domino dk).fenced.getLsbD o.a then s1
  else { s1 with free := s1.free + 1 }.testResult dk o.a (Config.testFails s1.free)

/-- MATRIX_OPERATION_COMPLETE: the covered elements are written, the pip is decremented (R318). -/
def execMatrixOperationComplete (dk : Nat) (s : State) : Outcome State Fault Refusal :=
  let d := s.domino dk
  match d.queue with
  | [] => .next s
  | o :: rest =>
    let due := o.started && (o.which != 2 || o.dead || (o.nr.isSome && o.fills.all s.fillDone))
    if o.which = 4 && !d.testDue then .next (s.runTest dk o rest)
    else if !due then .next s
    else
      let o1 := if o.which = 2 && !o.dead then d.compute o ((o.nr).getD 0) else o
      let d1 := (({ d with queue := rest }.putResults o1).noteRun o.ctx)
      let s1 := s.setDomino dk { d1 with opseq := d1.opseq + 1 }
      let s2 := match SMap.find s1.ops o.op with
        | none => s1
        | some _ => s1.completeOp o.op
      match o.tile with
      | none => .next s2
      | some n => match SMap.find s2.tiles n with
        | none => .next s2
        | some t =>
          let filled := (o.ready).getD s.cycle
          let t1 := if o.which = 2 && !o.dead then { t.stamp 3 false filled with fillw := t.fillw + (filled - o.ts) } else t
          .next (s2.setTile n { t1.stamp 5 true s.cycle with work := t1.work.filter (· != 2 ^ 40 + o.id) })

/-! ## Accumulators (R321) -/

/-- The accumulators of a control word and the position of lane L. -/
def State.accWord (s : State) (d a b : BitVec 8) : Except Exc (Nat × Option Nat × Dword) := do
  let w := s.readS b
  let wide := bitAt w 16
  let num := (s.readS a).toNat
  guardRes (bits w 63 17 == 0 && !bitAt w 7 && decide (d.toNat < 224)) s.illegal
  guardRes (!wide || (d.toNat % 2 == 0 && num % 2 == 0)) s.illegal
  let acc ← s.liveAcc num
  let acc2 ← if wide then (s.liveAcc (num + 1)).map some else .ok none
  .ok (acc, acc2, w)

/-- Lane L's row and column; none beyond 127. -/
def accPlace (w : Dword) (l : Nat) : Option (Nat × Nat) :=
  let i := bits w 14 8 + l
  if 127 < i then none else if bitAt w 15 then some (i, bits w 6 0) else some (bits w 6 0, i)

/-- Operations on some accumulators, or a word that waits, reached the sequencer before a cycle and are not complete. -/
def State.accQueued (s : State) (dk : Nat) (accs : List Nat) (before : Nat) : Bool :=
  s.wordAhead dk before || (s.domino dk).queue.any fun o => o.onAcc accs && decide (o.at_ < before)

/-- The poisoned element of the lowest lane, in one of the accumulators: row and column (R321). -/
def Domino.badElem (d : Domino) (accs : List Nat) (w : Dword) (lanes : List Nat) : Option (Nat × Nat) :=
  lanes.findSome? fun l => (accPlace w l).filter fun p => accs.any fun k => SMap.get (d.acc k).bad p.1 0 != 0

/-- `oread` (R321). -/
def execOread (d a b : BitVec 8) (s : State) : Outcome State Fault Refusal :=
  finish do
    s.need ([a, b] ++ s.guardRegs)
    let (acc, acc2, w) ← s.accWord d a b
    let regs := if acc2.isSome then [d.toNat, d.toNat + 1] else [d.toNat]
    s.needRegs regs
    s.need [] regs
    let dk := s.dominoHere
    let accs := acc :: acc2.toList
    guardRes (!s.accQueued dk accs (s.arrived dk 0)) (.wait (.unit (sequencerUnit dk 0)) s)
    let dom := s.domino dk
    let lanes := lanesList s.acting
    match dom.badElem accs w lanes with
    | some (r, c) =>
      .error (s.trapAt 11 (BitVec.ofNat 64 (0xA000000000000000 + (s.readS a).toNat * 2 ^ 16 + r * 2 ^ 8 + c))
        (BitVec.ofNat 64 (0x6FFF * 2 ^ 48)))
    | none =>
      let get (k l : Nat) : Word := match accPlace w l with
        | none => 0
        | some (r, c) => SMap.get (dom.acc k).elems (128 * r + c) 0
      let g := s.grp
      let regs1 := g.regs.write d.toNat s.acting (get acc)
      let regs2 := match acc2 with
        | none => regs1
        | some k => regs1.write (d.toNat + 1) s.acting (get k)
      .ok ((s.setGrp { g with regs := regs2 }).retire)

/-- Writes lane words of a register into an accumulator; a row all of whose elements are written is clean. -/
def Acc.write (x : Acc) (w : Dword) (lanes : List Nat) (f : Nat → Word) : Acc :=
  lanes.foldl (fun x l => match accPlace w l with
    | none => x
    | some (r, c) =>
      ({ x with elems := SMap.set x.elems (128 * r + c) (f l) 0 } : Acc).mark [r] (2 ^ c) false) x

/-- `owrite` (R321). -/
def execOwrite (d a b : BitVec 8) (s : State) : Outcome State Fault Refusal :=
  finish do
    s.need ([a, b] ++ s.guardRegs)
    let (acc, acc2, w) ← s.accWord d a b
    let regs := if acc2.isSome then [d.toNat, d.toNat + 1] else [d.toNat]
    s.needRegs regs
    s.need [] regs
    s.needClean regs s.acting
    let dk := s.dominoHere
    let accs := acc :: acc2.toList
    guardRes (!s.accQueued dk accs (s.arrived dk 0) && (s.storesOf dk accs (s.arrived dk 0)).isEmpty)
      (.wait (.unit (sequencerUnit dk 0)) s)
    let dom := s.domino dk
    let lanes := lanesList s.acting
    let g := s.grp
    let put (dom : Domino) (k r : Nat) : Domino :=
      { dom with accs := SMap.put dom.accs k ((dom.acc k).write w lanes fun l => g.regs.lane r l) }
    let d1 := put dom acc d.toNat
    let d2 := match acc2 with
      | none => d1
      | some k => put d1 k (d.toNat + 1)
    .ok ((s.setDomino dk d2).retire)

/-! ## Fences and `mtest` (R323, R324) -/

/-- `mfence` (R323): what reached the sequencer before it is complete. -/
def execMfence (s : State) : Outcome State Fault Refusal :=
  finish do
    let dk := s.dominoHere
    let d := s.domino dk
    let before := s.arrived dk 1
    let fills := s.cmds.any fun e => match e.2.fill with
      | some f => f.dom == dk && decide (e.2.status < 16) && decide (e.2.reached < before)
      | none => false
    guardRes (!(d.queue.any fun o => decide (o.at_ < before)) && !d.testDue && !fills)
      (.wait (.unit (sequencerUnit dk 1)) s)
    .ok s.retire

/-- `mtest` (R324): the test queues behind the operations before it; the slot waits for its result. -/
def execMtest (n : BitVec 24) (s : State) : Outcome State Fault Refusal :=
  finish do
    let core := (s.placeOf s.cur).2.2
    guardRes (core % 2 == 0) (s.trapAt 12 (BitVec.ofNat 64 core))
    guardRes (decide (n.toNat < 16)) s.illegal
    let dk := s.dominoHere
    let d := s.domino dk
    if d.fenced.getLsbD n.toNat then .ok s.retire
    else
      let (opn, s1) := s.fresh
      let (id, s2) := s1.fresh
      let o : MatOp := {
        id := id, op := opn, which := 4, ctx := s.ctxOf s.cur, acc := 0, a := n.toNat, b := 0, recA := 0, recB := 0
        entryA := 0, entryB := 0, md := 0, at_ := s.cycle }
      let s3 := s2.setDomino dk { d with queue := d.queue ++ [o] }
      let s4 := { s3 with ops := SMap.put s3.ops opn (s.opHere none .engine) }
      .ok ((s4.retire).classB opn none)

/-- The next unfenced sub-array from one on, in ascending order. -/
def Domino.nextSub (d : Domino) : Option Nat :=
  ((List.range 16).map fun i => (d.next + i) % 16).find? fun u => !d.fenced.getLsbD u

/-- SELF_TEST_INJECT: after every 256th operation, between operations, one sub-array is tested. -/
def execSelfTestInject (dk : Nat) (failed : Bool) (s : State) : Outcome State Fault Refusal :=
  let d := s.domino dk
  if !d.testDue || d.queue.any MatOp.started then .next s
  else match d.nextSub with
    | none => .next (s.setDomino dk { d with tests := d.tests + 1 })
    | some u => .next ((s.setDomino dk { d with tests := d.tests + 1, next := (u + 1) % 16 }).testResult dk u failed)

end Sys2Proof.Machine
end

