-- ==== Sys2Proof/Machine/Fills.lean ====
section
/-! DEFINITION. Fills of operand slots and stores of accumulators (R311 to R314, R322). -/

namespace Sys2Proof.Machine

open Host (Outcome)

/-! ## The request (R311) -/

def reqFirst (q : List Dword) : Nat := bits (q.getD 1 0) 14 8
def reqRows (q : List Dword) : Nat := bits (q.getD 1 0) 22 16 + 1
def reqRdim (q : List Dword) : Nat := bits (q.getD 1 0) 26 24
def reqKdim (q : List Dword) : Nat := bits (q.getD 1 0) 30 28
def reqOrigin (q : List Dword) : Nat := bits (q.getD 0 0) 39 0

/-- A reserved bit is set, RDIM = KDIM, or either names no dimension. -/
def requestBad (t : Tensor) (q : List Dword) : Bool :=
  let w (i : Nat) := q.getD i 0
  let nd := t.widths.length
  bits (w 0) 63 40 != 0 || bits (w 1) 63 31 != 0 || bitAt (w 1) 27 || bitAt (w 1) 23 || bitAt (w 1) 15
    || bits (w 1) 7 0 != 0 || bits (w 2) 3 0 != 0 || bits (w 2) 47 31 != 0 || bitAt (w 2) 15
    || reqRdim q == reqKdim q || decide (nd ≤ reqRdim q) || decide (nd ≤ reqKdim q)

/-- The records of i64 and n64 (R78). -/
def isMetaFormat (e : Dword) : Bool := e == fixedRecords.getD 2 0 || e == fixedRecords.getD 3 0

/-- The status of a fill request for a slot with this record (R312). -/
def fillStatus (t : Tensor) (q : List Dword) (record : Dword) : Nat :=
  if requestBad t q then 1
  else if recRows record < reqFirst q + reqRows q then 2
  else if (if recKind record = 2 then !isMetaFormat t.entry else (classOf t.f).isNone) then 3
  else 0

/-- The status of a store request (R322): a block format is not stored to. -/
def storeStatus (t : Tensor) (q : List Dword) : Nat :=
  if requestBad t q then 1
  else if 128 < reqFirst q + reqRows q then 2
  else if t.f.kind = 3 then 3
  else 0

/-- The index of the element r along RDIM and k along KDIM from an origin; none for a hole. -/
def Tensor.shifted (t : Tensor) (q : List Dword) (r k : Nat) : Option Nat :=
  let o := reqOrigin q
  let cs := (List.range t.widths.length).map fun d =>
    t.coord o d + (if d = reqRdim q then r else 0) + (if d = reqKdim q then k else 0)
  if o / 2 ^ t.n ≠ 0 || cs.zipIdx.any fun c => decide (t.extents.getD c.2 1 ≤ c.1) then none
  else some (cs.zipIdx.map fun c => c.1 * 2 ^ t.low c.2).sum

/-! ## Acceptance (R308) -/

/-- Operations that a fill of a slot waits for: those ahead that read it; a ragged product lets fills of its A through
until its fence is read (R320). -/
def Domino.readersAhead (d : Domino) (slot : Nat) : List Nat :=
  (d.queue.filter fun o => o.slots.contains slot && !o.hasRead
    && !(o.which == 2 && o.a == slot && o.b != slot && o.nr.isNone)).map MatOp.id

/-- The sequencer accepts a fill: the slot is FILLING, stamped. -/
def State.acceptFill (s : State) (dk slot : Nat) (stamp : BitVec 16) (id : Nat) : State :=
  let d := s.domino dk
  let x := d.slot slot
  s.setDomino dk (d.setSlot slot { x with st := .filling, stamp := stamp, fills := x.fills ++ [id] })

/-- The stamp of an `ofill` (R312). -/
def fillStamp (fmt : Nat) (q : List Dword) : BitVec 16 :=
  BitVec.ofNat 16 (0x8000 + fmt * 2 ^ 8 + reqRdim q * 2 ^ 4 + reqKdim q * 2)

/-- The command word 0x08 of FLAGS and a KIND. -/
def flagWord (q : List Dword) (kind : Nat) : Dword := (q.getD 2 0 &&& ~~~ 0xF) ||| BitVec.ofNat 64 kind

/-- A fill is copy-in before the tile's first matrix operation, and attributed to no tile after it; a store is copy-out
whether or not there was one (R289). -/
def State.fillTile (s : State) (store : Bool) : Option (Nat × Bool) :=
  if store then s.tileHere.map fun t => (t.1, true) else s.tileHere.filter fun t => !t.2

/-- A command of the issuing slot on its domino's fill chain, counted on SETB (R312). -/
def State.appendFill (s : State) (words req : List Dword) (f : FillRun) (stamp : Option (BitVec 16)) : State :=
  let (opn, s1) := s.fresh
  let (id, s2) := s1.fresh
  let (p, d, _) := dominoPlace f.dom
  let tile := s.fillTile stamp.isNone
  let c : Cmd := { chain := 0, pkg := p, die := d, engine := f.dom % 64 % 16, ctx := s.ctxOf s.cur
                   app := { s.appendedHere id opn (Config.hiddenChain (fillChain f.dom)) with tile := tile }, words := words, req := req, fill := some f }
  let s3 := s2.appendHidden id (fillChain f.dom) c
  let s4 := match stamp with
    | some st => s3.acceptFill f.dom f.slot st id
    | none => s3
  let o := s.opHere s.setB .engine
  let s5 := { (if tile.isSome then s4.tileWork id else s4) with ops := SMap.put s4.ops opn o }
  let s6 := match o.pip with | none => s5 | some p => s5.pipUp s.cur p
  (s6.retire).classB opn o.pip

/-- The request at an address. -/
def State.fillRequest (s : State) (va : Dword) : Except Exc (List Dword × State) := do
  guardRes (va.toNat % 32 == 0) (s.trapAt 5 va)
  let (x, _, s1) ← s.scalarRead va 32 32
  .ok ((List.range 4).map (dwordOf x), s1)

/-- `ofill` (R312). -/
def execOfill (d a b : BitVec 8) (s : State) : Outcome State Fault Refusal :=
  finish <| counting s.setB do
    s.need [d, a, b]
    s.needPip s.setB
    let h := s.readS a
    let x ← s.liveSlot h
    let (q, s1) ← s.fillRequest (s.readS b)
    let th := s.readS d
    let (k, t) ← s1.handle th
    let st := fillStatus t q x.record
    if st ≠ 0 then .ok ((s1.writeS d (BitVec.ofNat 64 st)).retire)
    else
      let dk := s.dominoHere
      guardRes (decide (s.queued dk < 32)) (.wait (.unit (2 ^ 40 + dk)) s)
      let f : FillRun := { dom := dk, slot := handleSlot h, gen := x.gen, tensor := k, tgen := t.gen, fentry := t.entry
                           after := (s.domino dk).readersAhead (handleSlot h) }
      let words := [0, flagWord q 4, th, h, s.readS b, 0, 0, 0]
      s1.hiddenStep (fillChain dk) (.ok ((s1.writeS d 0).appendFill words q f (some (fillStamp t.fmt q))))

/-- Bytes of a class row. -/
def rowBytes (f : Fmt) (c : MClass) : Nat := c.depth * elemBits f / 8

/-- `ofillv` (R314). -/
def execOfillv (d a b : BitVec 8) (s : State) : Outcome State Fault Refusal :=
  finish <| counting s.setB do
    s.need [d, b]
    s.needPip s.setB
    let h := s.readS d
    let x ← s.liveSlot h
    let w := s.readS b
    let first := bits w 10 4
    guardRes (w.toNat / 2 ^ 11 == 0 && decide (a.toNat ≤ 216)) s.illegal
    match s.pattern (bits w 3 0) with
    | none => .error s.illegal
    | some p =>
      guardRes (p.ctx == s.ctxOf s.cur) s.illegal
      let src := (List.range 8).map (a.toNat + ·)
      s.needRegs src
      s.need [] src
      let e ← s.recEntry x.record
      let ok := (fmtOf e).kind != 3 && (match classOf (fmtOf e) with
        | some c => rowBytes (fmtOf e) c == 64
        | none => false)
      guardRes ok (s.fmtFault 1 (recFmt x.record))
      guardRes (decide (first + 32 ≤ recRows x.record)) s.illegal
      s.needClean src (BitVec.allOnes 64)
      let dk := s.dominoHere
      guardRes (decide (s.queued dk < 32)) (.wait (.unit (2 ^ 40 + dk)) s)
      let g := s.grp
      let y := permuteBytes p.rows (joinElems 32 (src.flatMap fun r => (List.range 64).map fun l => (g.regs.lane r l).toNat))
      let f : FillRun := { dom := dk, slot := handleSlot h, gen := x.gen, fentry := e, block := some (y, first)
                           after := (s.domino dk).readersAhead (handleSlot h) }
      s.hiddenStep (fillChain dk) (.ok (s.appendFill [0, 4, 0, h, 0, 0, 0, 0] [] f (some p.sig)))

/-- `ostore` (R322). -/
def execOstore (d a b : BitVec 8) (s : State) : Outcome State Fault Refusal :=
  finish <| counting s.setB do
    s.need [d, a, b]
    s.needPip s.setB
    let w := s.readS a
    let wide := bitAt w 3
    let num := bits w 2 0
    guardRes (w.toNat / 16 == 0 && (!wide || num % 2 == 0)) s.illegal
    s.needRound
    let acc ← s.liveAcc num
    let acc2 ← if wide then (s.liveAcc (num + 1)).map some else .ok none
    let entry := s.fmtHere (mdSF s.mode)
    guardRes (bitAt entry 63) (s.fmtFault 0 (mdSF s.mode))
    guardRes (if wide then entry == recFp64 else entry == recFp32 || entry == recI32) (s.fmtFault 1 (mdSF s.mode))
    let (q, s1) ← s.fillRequest (s.readS b)
    let th := s.readS d
    let (k, t) ← s1.handle th
    let st := storeStatus t q
    if st ≠ 0 then .ok ((s1.writeS d (BitVec.ofNat 64 st)).retire)
    else
      let dk := s.dominoHere
      guardRes (decide (s.queued dk < 32)) (.wait (.unit (2 ^ 40 + dk)) s)
      let accs := acc :: acc2.toList
      let f : FillRun := {
        dom := dk, slot := acc, acc2 := acc2, tensor := k, tgen := t.gen, fentry := t.entry, entry := entry, md := s.mode
        after := ((s.domino dk).queue.filter fun o => o.onAcc accs).map MatOp.id }
      s1.hiddenStep (fillChain dk) (.ok ((s1.writeS d 0).appendFill [0, flagWord q 5, th, w, s.readS b, 0, 0, 0] q f none))

/-! ## The data of a fill (R311, R312) -/

/-- What a fill puts into one row: its bits, its scale bytes by offset in the row's 32, whether it is poisoned. -/
structure FillRow where
  data : Nat
  scales : List (Nat × Nat) := []
  bad : Bool := false
deriving DecidableEq, Repr

/-- The exact value of an element among what was read; a hole is +0. -/
def Tensor.valueOf (t : Tensor) (rd : ReadMap) : Option ElemAt → Val
  | none => .fin false 0 0 false
  | some e =>
    if t.f.kind = 3 then blockElem t.f (rd.at_ e.va).1 e.pos else readCode t.f (t.codeOf rd e)

/-- A slot block coincides with a stored block of the tensor: that block (R312). -/
def sameBlock (rd : ReadMap) (es : List (Option ElemAt)) : Option Nat :=
  match es.head? with
  | some (some e) =>
    if es.zipIdx.all (fun x => match x.1 with
        | some y => y.va == e.va && y.pos == x.2
        | none => false) then some (rd.at_ e.va).1 else none
  | _ => none

/-- Element codes and scale bytes of one slot block of a block format. -/
def Tensor.slotBlock (t : Tensor) (rd : ReadMap) (es : List (Option ElemAt)) : List Nat × List Nat :=
  let f := t.f
  let blk := match sameBlock rd es with
    | some b => b
    | none =>
      let (e, mus, codes) := formBlock f 0 (es.map (t.valueOf rd))
      packBlock f e mus codes
  ((List.range f.blockLen).map fun j => blk / 2 ^ (8 * (1 + f.microBytes) + j * (f.mw + 1)) % 2 ^ (f.mw + 1),
   (List.range (1 + f.microBytes)).map fun i => blk / 2 ^ (8 * i) % 256)

/-- Chunks of n of a list. -/
def chunksOf {α : Type} (n : Nat) : Nat → List α → List (List α)
  | 0, _ => []
  | k + 1, l => l.take n :: chunksOf n k (l.drop n)

/-- Codes packed from bit 0. -/
def packCodes (b : Nat) (l : List Nat) : Nat := (l.zipIdx.map fun c => c.1 % 2 ^ b * 2 ^ (b * c.2)).sum

/-- One row of a fill. -/
def Tensor.fillRow (t : Tensor) (rd : ReadMap) (record : Dword) (es : List (Option ElemAt)) : FillRow :=
  let bad := es.any fun e => match e with
    | some e => (rd.at_ e.va).2.isSome
    | none => false
  if recKind record = 2 then
    { data := packCodes 64 (es.map fun e => match e with | some e => t.codeOf rd e | none => 0), bad := bad }
  else if t.f.kind = 3 then
    let bs := (chunksOf t.f.blockLen (es.length / t.f.blockLen) es).map (t.slotBlock rd)
    let sc := 1 + t.f.microBytes
    { data := packCodes (elemBits t.f) (bs.flatMap Prod.fst)
      scales := bs.zipIdx.flatMap fun b => b.1.2.zipIdx.map fun x => (b.2 * sc + x.2, x.1), bad := bad }
  else
    { data := packCodes (elemBits t.f) (es.map fun e => match e with | some e => t.codeOf rd e | none => 0), bad := bad }

/-- Elements in a row of a fill. -/
def Tensor.fillWidth (t : Tensor) (record : Dword) : Nat :=
  if recKind record = 2 then 12 else ((classOf t.f).map MClass.depth).getD 0

/-- The elements of row r of a fill. -/
def Tensor.rowElems (t : Tensor) (q : List Dword) (record : Dword) (r : Nat) : List (Option ElemAt) :=
  (List.range (t.fillWidth record)).map fun k => (t.shifted q r k).map fun i => t.at_ t.cur i

/-- Rows land in a slot, their scales in its window. -/
def Domino.landRows (d : Domino) (slot : Nat) (rows : List (Nat × FillRow)) : Domino :=
  let x := d.slot slot
  let base := recWindow x.record * 4096
  let x1 := rows.foldl (fun (x : OSlot) r =>
    { x with
      rows := SMap.set x.rows r.1 r.2.data 0
      bad := if r.2.bad then (if x.bad.contains r.1 then x.bad else x.bad ++ [r.1]) else x.bad.filter (· != r.1) }) x
  let scale := if recLgblk x.record = 0 then d.scale else rows.foldl (fun sc r =>
    r.2.scales.foldl (fun sc b => SMap.set sc (base + 32 * r.1 + b.1) (BitVec.ofNat 8 b.2) 0) sc) d.scale
  { d.setSlot slot x1 with scale := scale }

/-- A fill in flight is done with its slot: READY after the last; operations that waited for it are ready (R308). -/
def State.fillEnds (s : State) (id : Nat) (f : FillRun) (bytes : Nat) (bad : Bool) : State :=
  let c := s.cmd id
  let s1 := s.setCmd id { c with
    fill := some { f with landed := true }, bytes := bytes, status := if bad then 1 else c.status, awaits := none }
  let d := s1.domino f.dom
  let x := d.slot f.slot
  let fills := x.fills.filter (· != id)
  let st := if x.st = .filling && fills.isEmpty then .ready else x.st
  let queue := d.queue.map fun o =>
    if o.ready.isNone && o.fills.all s1.fillDone then { o with ready := some s.cycle } else o
  s1.setDomino f.dom { d.setSlot f.slot { x with fills := fills, st := st } with queue := queue }

/-- Every operation a fill or store waits for has read the slot, or left the queue. -/
def State.aheadDone (s : State) (f : FillRun) : Bool :=
  f.after.all fun i => !((s.domino f.dom).queue.any fun o => o.id == i && !o.hasRead)

/-- The tensor a fill or store names still lives. -/
def State.fillTensor (s : State) (f : FillRun) : Option Tensor :=
  let t := s.tensor f.tensor
  if t.live && t.gen == f.tgen then some t else none

/-- A fill or store works through a handle: after every pass of the tensor that is complete (R265, R341). -/
def State.handleTurn (s : State) (id : Nat) (f : FillRun) : State :=
  s.learnAll [(s.cmd id).who id] (s.message (tensorMsg f.tensor))

/-- What it did happens before every later pass (R265). -/
def State.handleUsed (s : State) (id : Nat) (f : FillRun) : State :=
  s.post (tensorUse f.tensor) (s.knowledge [(s.cmd id).who id])

/-- Carries out a fill. -/
def State.runFill (s : State) (id : Nat) (c : Cmd) (f : FillRun) : State :=
  let x := (s.domino f.dom).slot f.slot
  match f.block with
  | some (y, first) =>
    let rows := (List.range 32).map fun r => (first + r, ({ data := y / 2 ^ (512 * r) % 2 ^ 512 } : FillRow))
    let s1 := s.tileMoves c.app.tile
    (s1.setDomino f.dom ((s1.domino f.dom).landRows f.slot rows)).fillEnds id f 2048 false
  | none =>
    match s.fillTensor f with
    | none => s.haltCommand id 21 0 4
    | some t =>
      if s.passRuns t then s
      else
        let es := (List.range (reqRows c.req)).map fun r => t.rowElems c.req x.record r
        let reads := ((es.flatMap fun l => l.filterMap fun e => e).map fun e => (e.va, e.n)).dedup
        match (s.handleTurn id f).readAll id reads with
        | .error (.halt st d2 d3 s1) => s1.haltCommand id st d2 d3
        | .error (.wait s1) => s1
        | .ok (rd, s1) =>
          let rows := es.zipIdx.map fun e => (reqFirst c.req + e.2, t.fillRow rd x.record e.1)
          let n := if recKind x.record = 2 then 96 else (t.fillWidth x.record * elemBits t.f) / 8
          let s1 := (s1.tileMoves c.app.tile).handleUsed id f
          (s1.setDomino f.dom ((s1.domino f.dom).landRows f.slot rows)).fillEnds id f (n * rows.length)
            (rows.any fun r => r.2.bad)

/-- FILL_COMPLETE: a fill's data is in its slot. -/
def execFillComplete (id : Nat) (s : State) : Outcome State Fault Refusal :=
  match SMap.find s.cmds id with
  | none => .next s
  | some c => match c.fill with
    | none => .next s
    | some f =>
      if c.live && c.kind == 4 && !f.landed && c.entries == 0 && s.aheadDone f then .next (s.runFill id c f) else .next s

/-! ## The data of a store (R322) -/

/-- The elements of a store: where each lies, its code, converted under the captured mode, and the origin of its poison. -/
def State.storeElems (s : State) (t : Tensor) (c : Cmd) (f : FillRun) : List (ElemAt × Nat × Option (BitVec 16)) :=
  let d := s.domino f.dom
  let sf := fmtOf f.entry
  (List.range (reqRows c.req)).flatMap fun r =>
    let row := reqFirst c.req + r
    let bad := (f.slot :: f.acc2.toList).any fun k => SMap.get (d.acc k).bad row 0 != 0
    (List.range 128).filterMap fun col => (t.shifted c.req r col).map fun i =>
      (t.at_ t.cur i, convert sf t.f f.md (d.accElem f.slot f.acc2 (128 * row + col)),
        if bad then some (originOf 6 0 0xFFF) else none)

/-- The writes of a store into one compressed block: its codes are decoded, those stored replaced, and it is encoded
again with its side byte. DESIGN CHOICE (log 39). -/
def State.cbStore (s : State) (id : Nat) (t : Tensor) (es : List (ElemAt × Nat × Option (BitVec 16))) (e : ElemAt) :
    Except XErr (List Spill × State) := do
  let (v, bad, s1) ← s.engineRead id e.va e.n
  let mine := es.filter fun x => x.1.va == e.va
  let r := rateBits t.rate
  let codes := (cbDecode t.f r v).zipIdx.map fun c => match mine.find? fun x => x.1.pos == c.2 with
    | some x => x.2.1
    | none => c.1
  let bad := bad.or (mine.findSome? fun x => x.2.2)
  let blk := cbEncode t.f r codes
  .ok ([{ va := e.va, n := e.n, value := blk, poison := bad },
        { va := e.side, n := 1, value := cbSide t.f codes (cbDecode t.f r blk), poison := bad }], s1)

/-- The writes of a store. -/
def State.storeWrites (s : State) (id : Nat) (t : Tensor) (c : Cmd) (f : FillRun) : Except XErr (List Spill × State) :=
  let es := s.storeElems t c f
  if t.rate = 0 then
    .ok (es.map fun x => { va := x.1.va, n := x.1.n, value := x.2.1, bit := x.1.bit, width := x.1.width, poison := x.2.2 }, s)
  else
    ((es.map fun x => { x.1 with pos := 0 }).dedup).foldlM (fun (a : List Spill × State) e => do
      let (ws, s1) ← a.2.cbStore id t es e
      .ok (a.1 ++ ws, s1)) ([], s)

/-- Carries out a store once every operation on its accumulator that came before it is complete. -/
def State.runStore (s : State) (id : Nat) (c : Cmd) (f : FillRun) : State :=
  let pending := s.wordAhead f.dom c.reached || f.after.any fun i => (s.domino f.dom).queue.any fun o => o.id == i
  match s.fillTensor f with
  | none => s.haltCommand id 21 0 4
  | some t =>
    if pending || s.passRuns t then s
    else
      let s0 := s.handleTurn id f
      match s0.storeWrites id t c f with
      | .error (.halt st d2 d3 s1) => s1.haltCommand id st d2 d3
      | .error (.wait s1) => s.passWaits s1 id
      | .ok (ws, s0) =>
      match s0.writeAll id ws with
      | .error (.halt st d2 d3 s1, rest) =>
        (s1.setCmd id { s1.cmd id with bytes := spillBytes (ws.take (ws.length - rest.length)) }).haltCommand id st d2 d3
      | .error (.wait s1, _) => s.passWaits s1 id
      | .ok s1 =>
        let s1 := s1.handleUsed id f
        let c1 := s1.cmd id
        s1.setCmd id { c1 with
          fill := some { f with landed := true }
          bytes := spillBytes ws
          awaits := none
          status := if ws.any (fun w => w.poison.isSome) then 1 else c1.status }

end Sys2Proof.Machine
end

