-- ==== Sys2Proof/Machine/Commands.lean ====
section
/-! DEFINITION. The start and the end of engine commands, and the posting of event records (R271 to R277, R280, R313). -/

namespace Sys2Proof.Machine

open Host (Outcome)

/-! ## Starting (R275) -/

/-- Chains whose command an engine runs now: at most 8 (R271). -/
def State.engineLoad (s : State) (c : Chain) : Nat :=
  (s.chains.filter fun e => e.2.pkg == c.pkg && e.2.die == c.die && e.2.engine == c.engine && e.2.running.isSome).length

/-- An engine's read of its command's own bytes: it alone follows what the append carries, with ACQ or without (R264). -/
def State.captureAccess (s : State) (id : Nat) (l : Loc) : Except Access State :=
  let c := s.cmd id
  let w := c.who id
  match (s.learnAll [w] c.app.know).raceAccess w l 64 0 false with
  | .error x => .error x
  | .ok s1 =>
    if !s1.race.active then .ok s1
    else
      let own := clockJoin (s.race.clock w.key) [(w.key, SMap.get (s1.race.clock w.key) w.key 0)]
      .ok { s1 with race := { s1.race with clocks := SMap.put s1.race.clocks w.key own } }

/-- The trace record of a command's start (R376). DESIGN CHOICE (log 95): it is written once its KIND is known, and with
KIND 0 where the capture itself halts. -/
def State.engStart (s : State) (id : Nat) : State :=
  let c := s.cmd id
  s.traceEngine false c.pkg c.die c.engine c.ctx 3 c.kind c.app.va (BitVec.ofNat 64 c.app.ticket)

/-- The engine captures the 64 bytes of a command (R275). -/
def State.capture (s : State) (id : Nat) : Except XErr State :=
  let c := s.cmd id
  if !c.words.isEmpty then .ok s
  else match s.xlate (c.who id) c.app.va .read with
    | (.bad, s1) => .error (.halt 18 c.app.va 0 (s1.engStart id))
    | (.miss cause, s1) => .error (.wait (s1.engineFault id c.app.va .read cause))
    | (.at l, s1) =>
      match s1.captureAccess id l with
      | .error x => .error (.halt 20 x.det2 x.det3 (s1.engStart id))
      | .ok s2 => .ok ((s2.setCmd id { c with words := (List.range 8).map (s2.wordAt l.key) }).engStart id)

/-- What ACQ orders before the command's first read (R264). -/
def State.cmdAcquire (s : State) (id : Nat) : State :=
  let c := s.cmd id
  if c.acq && (c.app.scopes.isEmpty || covers c.acqs c.app.scopes (s.scopesOf (c.who id)))
  then s.learnAll [c.who id] c.app.know else s

/-- The limits of R274 and the reserved bits of R273. -/
def Cmd.fieldsOk (c : Cmd) : Bool :=
  bits c.flags 47 31 == 0 && !bitAt c.flags 15 && decide (c.rels ≤ 5) && decide (c.acqs ≤ 5) && decide (c.bcore ≤ 87) &&
    (match c.kind with
     | 0 => c.word 2 == 0 && c.word 3 == 0 && c.word 4 == 0
     | 1 => (c.word 4).toNat % 64 == 0
     | 2 => (c.word 2).toNat / 2 ^ 32 == 0 && (c.word 4).toNat % 64 == 0
     | 3 => c.word 3 == 0
     | 4 | 5 => (c.word 3).toNat / 2 ^ 22 == 0
     | _ => false)

/-- The first address of a command that is not aligned (R274, R277). -/
def Cmd.misaligned (c : Cmd) : Option Dword :=
  match c.kind with
  | 1 => if (c.word 2).toNat % 64 ≠ 0 then some (c.word 2) else if (c.word 3).toNat % 64 ≠ 0 then some (c.word 3) else none
  | 2 => if (c.word 3).toNat % 64 ≠ 0 then some (c.word 3) else none
  | 3 | 4 | 5 => if !isHidden c.chain && (c.word 4).toNat % 32 ≠ 0 then some (c.word 4) else none
  | _ => none

/-- The check of the barrier a command credits (R275). -/
def State.checkBar (s : State) (id : Nat) : Except XErr Unit :=
  let c := s.cmd id
  if !c.credits then .ok ()
  else if c.bar.toNat % 32 ≠ 0 then .error (.halt 17 c.bar 0 s)
  else if !isWindow c.bar then .error (.halt 18 c.bar 0 s)
  else match s.xlate (c.who id) c.bar .rmw with
    | (.at _, _) => .ok ()
    | _ => .error (.halt 18 c.bar 0 s)

/-- The 32 bytes of a request that a command names. -/
def State.readRequest (s : State) (id : Nat) : Except XErr State := do
  let c := s.cmd id
  if isHidden c.chain then .ok s
  else
    let (x, _, s1) ← s.engineRead id (c.word 4) 32
    .ok (s1.setCmd id { s1.cmd id with req := (List.range 4).map (dwordOf x) })

/-- n dwords that an engine reads. -/
def State.engineDwords (s : State) (id : Nat) (va : Dword) : Nat → Except XErr (List Dword × State)
  | 0 => .ok ([], s)
  | k + 1 => do
    let (x, _, s1) ← s.engineRead id va 8
    let (xs, s2) ← s1.engineDwords id (va + 8) k
    .ok (BitVec.ofNat 64 x :: xs, s2)

/-- A RELAY command that software appended makes the checks of R337 now; a relay that is accepted already goes on. -/
def State.startRelay (s : State) (id : Nat) : Except XErr State := do
  let c := s.cmd id
  match s.liveTensor c.pkg c.ctx (c.word 2) with
  | none => .error (.halt 21 0 6 s)
  | some (k, t) =>
    match c.relay with
    | some r =>
      if r.tensor ≠ k || r.gen ≠ t.gen then .error (.halt 21 0 6 s)
      else
        let ph := if r.phase = .accepted || r.phase = .factoring then .factoring else .check
        .ok (s.setCmd id { c with relay := some { r with phase := ph } })
    | none =>
      let q := c.req
      if 4 < t.n && (q.getD 0 0).toNat % 8 ≠ 0 then .error (.halt 17 (q.getD 0 0) 0 s)
      else
        let (rows, s1) ← if t.n ≤ 4 then .ok (packedRows t.n (q.getD 0 0), s) else s.engineDwords id (q.getD 0 0) t.n
        let st := s1.relayStatus t q rows
        if st ≠ 0 then .error (.halt 21 0 (BitVec.ofNat 64 st) s1)
        else
          let r : RelayRun := { tensor := k, gen := t.gen, rows := rows, newBase := q.getD 1 0
                                newRate := bits (q.getD 3 0) 2 0, phase := .factoring }
          .ok ((s1.setCmd id { s1.cmd id with relay := some r }).setTensor k { t with relays := t.relays ++ [id] })

/-- A slot or accumulator is reserved for a workgroup of a context, or its partner's (R313). -/
def State.reservedIn (s : State) (ctx wg : Nat) : Bool := (SMap.find s.wgs wg).any fun w => w.ctx == ctx

/-- A command of software enters its domino's queue at its start, and waits where that is full (R307). -/
def State.queueRoom (s : State) (dk : Nat) : Except XErr Unit :=
  if s.queued dk < 32 then .ok () else .error (.wait s)

/-- An OFILL that software appended is checked and accepted now (R313). -/
def State.startFill (s : State) (id : Nat) : Except XErr State := do
  let c := s.cmd id
  if c.fill.isSome then .ok s
  else
    let dk := dominoKey c.pkg c.die (bits (c.word 3) 21 16)
    let h := (c.word 3) &&& 0xFFFF
    let d := s.domino dk
    let x := d.slot (handleSlot h)
    let live := (SMap.find d.slots (handleSlot h)).isSome && handleOk h && s.reservedIn c.ctx x.wg && x.claimed
      && x.gen == bits h 11 6
    match s.liveTensor c.pkg c.ctx (c.word 2) with
    | none => .error (.halt 21 0 4 s)
    | some (k, t) =>
      let st := if !live then 4 else fillStatus t c.req x.record
      if st ≠ 0 then .error (.halt 21 0 (BitVec.ofNat 64 st) s)
      else
        s.queueRoom dk
        let f : FillRun := { dom := dk, slot := handleSlot h, gen := x.gen, tensor := k, tgen := t.gen, fentry := t.entry
                             after := d.readersAhead (handleSlot h) }
        .ok ((s.setCmd id { c with fill := some f }).acceptFill dk (handleSlot h) (fillStamp t.fmt c.req) id)

/-- An OSTORE that software appended is checked and accepted now (R313, R322): it names an accumulator of the domino,
read as fp32, or a pair as fp64, under the mode of reset (log 14). -/
def State.startStore (s : State) (id : Nat) : Except XErr State := do
  let c := s.cmd id
  if c.fill.isSome then .ok s
  else
    let dk := dominoKey c.pkg c.die (bits (c.word 3) 21 16)
    let wide := bitAt (c.word 3) 3
    let n := bits (c.word 3) 2 0
    let accs := if wide then [n, n + 1] else [n]
    let live := bits (c.word 3) 15 4 == 0 && (!wide || n % 2 == 0)
      && accs.all fun k => (SMap.find (s.domino dk).accs k).any fun a => s.reservedIn c.ctx a.wg
    match s.liveTensor c.pkg c.ctx (c.word 2) with
    | none => .error (.halt 21 0 4 s)
    | some (k, t) =>
      let st := if !live then 4 else storeStatus t c.req
      if st ≠ 0 then .error (.halt 21 0 (BitVec.ofNat 64 st) s)
      else
        s.queueRoom dk
        let f : FillRun := {
          dom := dk, slot := n, acc2 := if wide then some (n + 1) else none, tensor := k, tgen := t.gen, fentry := t.entry
          entry := if wide then recFp64 else recFp32, md := 0xA5
          after := ((s.domino dk).queue.filter fun o => o.onAcc accs).map MatOp.id }
        .ok (s.setCmd id { c with fill := some f })

/-- The start of a command: capture, checks, the acceptance of its request. -/
def State.startWork (s : State) (id : Nat) : Except XErr State := do
  let s1 ← s.capture id
  let s2 := s1.cmdAcquire id
  let c := s2.cmd id
  if !c.fieldsOk then .error (.halt 16 0 0 s2)
  else match c.misaligned with
    | some va => .error (.halt 17 va 0 s2)
    | none =>
      let s3 ← if 3 ≤ c.kind then s2.readRequest id else .ok s2
      s3.checkBar id
      let s4 ← match c.kind with
        | 3 => s3.startRelay id
        | 4 => s3.startFill id
        | 5 => s3.startStore id
        | _ => .ok s3
      .ok (s4.setCmd id { s4.cmd id with checked := true, awaits := none })

/-- The outcome of engine work on the machine. -/
def State.settle (s : State) (id : Nat) : Except XErr State → State
  | .ok s1 => s1
  | .error (.wait s1) => s1
  | .error (.halt st d2 d3 s1) => if (SMap.find s.cmds id).isSome then s1.haltCommand id st d2 d3 else s1

/-- The command at the HEAD of a chain, made anew or taken up again where it halted. -/
def State.nextCommand (s : State) (key : Nat) (ch : Chain) : Option (Nat × State) :=
  if isHidden key then
    if ch.halted then none else ch.queue.head?.map fun id => (id, s)
  else
    let head := s.wordAt key 0
    if head = 0 || s.chainHalted key || !s.chainValid key then none
    else match s.cmds.find? fun e => e.2.chain == key && e.2.isHalted with
      | some (id, c) =>
        -- a retry begins from the start: a fill is checked and accepted anew (R278, R313)
        let s1 := s.dropFill id
        some (id, s1.setCmd id { c with words := [], status := 0, det2 := 0, det3 := 0, bytes := 0, fill := none
                                        app := { c.app with va := head } })
      | none =>
        let app := (ch.appended.find? fun a => a.va == head).getD { va := head, ticket := (s.wordAt key 3).toNat + 1 }
        let (id, s1) := if app.id = 0 then s.fresh else (app.id, s)
        some (id, s1.setCmd id { chain := key, pkg := ch.pkg, die := ch.die, engine := s.chainEngine key, ctx := ch.ctx
                                 app := { app with id := id } })

/-- The number of a chain's engine. -/
def Chain.engineKey (c : Chain) : Nat := (c.pkg * 16 + c.die) * 16 + c.engine

/-- A chain has a command ready. -/
def State.chainReady (s : State) (key : Nat) (c : Chain) : Bool :=
  c.running.isNone && s.ctxRuns c.pkg c.ctx && (s.nextCommand key c).isSome

/-- The ready chain of an engine that is next in rotation: the first after the chain served last (R271). -/
def State.nextChain (s : State) (engine : Nat) : Option Nat :=
  let ready := (s.chains.filter fun e => e.2.engineKey == engine && s.chainReady e.1 e.2).map Prod.fst
  let last := SMap.get s.engineLast engine 0
  (ready.find? fun k => decide (last < k)).or ready.head?

/-- COMMAND_START: an engine takes up the ready command of the chain that is next in rotation, or goes on with a start that
waited for a reply. -/
def execCommandStart (key : Nat) (s : State) : Outcome State Fault Refusal :=
  match SMap.find s.chains key with
  | none => .next s
  | some ch =>
    match ch.running with
    | some id =>
      let c := s.cmd id
      if c.live && !c.checked && c.entries == 0 then .next (s.settle id (s.startWork id)) else .next s
    | none =>
      if !s.ctxRuns ch.pkg ch.ctx || 8 ≤ s.engineLoad ch || s.nextChain ch.engineKey ≠ some key then .next s
      else match s.nextCommand key ch with
        | none => .next s
        | some (id, s0) =>
          let s1 := { s0 with engineLast := SMap.put s0.engineLast ch.engineKey key }
          let c := s1.cmd id
          let s2 := (s1.setCmd id { c with started := true, startedAt := s.cycle, awaits := none }).setChain key
            { ch with running := some id }
          let s3 := s2.tileStart c.app.tile c.app.at_
          let s4 := if c.words.isEmpty then s3 else s3.engStart id
          .next (s4.settle id (s4.startWork id))

/-! ## Completing (R276) -/

/-- The end of a COPY or FILL: the granules left are moved; with every one at its home the effects follow. -/
def State.endMove (s : State) (id : Nat) (c : Cmd) : State :=
  match s.moveRest id ((c.word 4).toNat / 64 - c.pos) with
  | .error e => s.settle id (.error e)
  | .ok s1 =>
    let c1 := s1.cmd id
    if c1.spills.isEmpty && c1.entries == 0 then s1.completionEffects id (c.word 4).toNat else s1

/-- The end of a relay: its last pass is done (R340). -/
def State.endRelay (s : State) (id : Nat) (r : RelayRun) : State :=
  if r.phase = .check && r.done = r.passes.length then
    let t := s.tensor r.tensor
    let landed := if r.passes.isEmpty then 0 else t.landed
    (s.abandonRelay id).completionEffects id landed
  else s

/-- The end of a store. -/
def State.endStore (s : State) (id : Nat) (c : Cmd) (f : FillRun) : State :=
  let s1 := if f.landed then s else s.runStore id c f
  match SMap.find s1.cmds id with
  | none => s1
  | some c1 =>
    let landed := match c1.fill with | some f1 => f1.landed | none => false
    if c1.live && landed && c1.spills.isEmpty && c1.entries == 0 then s1.completionEffects id c1.bytes else s1

/-- COMMAND_COMPLETE: the command's last write lands and its completion effects are performed in order. -/
def execCommandComplete (id : Nat) (s : State) : Outcome State Fault Refusal :=
  match SMap.find s.cmds id with
  | none => .next s
  | some c =>
    if !(c.live && c.checked) then .next s
    else match c.kind, c.relay, c.fill with
      | 0, _, _ => .next (s.completionEffects id 0)
      | 1, _, _ | 2, _, _ => .next (s.endMove id c)
      | 3, some r, _ => .next (s.endRelay id r)
      | 4, _, some f => .next (if f.landed then s.completionEffects id c.bytes else s)
      | 5, _, some f => .next (s.endStore id c f)
      | _, _, _ => .next s

/-- EVENT_RECORD_POST: a record that waited is posted to its queue, or dropped (R280). -/
def execEventRecordPost (n : Nat) (s : State) : Outcome State Fault Refusal := .next (s.tryPost n)

end Sys2Proof.Machine
end

