-- ==== Sys2Proof/Machine/Traps.lean ====
section
/-! DEFINITION. Trap entry as an event, `tret`, escalation and its replies, pre-emption requests (R347 to R355, R364). -/

namespace Sys2Proof.Machine

open Host (Outcome)

/-! ## Returning (R352) -/

/-- The frame image of the issuing group's record; a missing page parks the group. -/
def State.frameHere (s : State) (gid : Nat) : Except Exc Nat :=
  let r := ((s.group gid).trap.record).getD 0
  match s.hwLoadBlocks (s.groupWho gid 0) r 48 with
  | .ok v => .ok v
  | .error .bad => .error (s.trapAt 6 r)
  | .error (.miss c va) => .error (.wait .parked (s.parkReissue gid (slotNo s.cur) va .read c))

/-- `tret` in a group. -/
def State.returnGroup (s : State) (gid : Nat) : Res := do
  let g := s.group gid
  guardRes (g.hart.handler && g.slot1.st == .free && g.trap.phase != .save) s.illegal
  let img ← s.frameHere gid
  let ok ← s.frameOk img
  guardRes ok s.illegal
  guardRes (!s.groupAccessInFlight) (.wait .drain s)
  let pc := (s.slot s.cur).pc
  let s1 := s.count.resumeFrame gid img
  .ok ((s1.clearResumed gid (frameWord img 0)).examined s.cur pc s.word)

/-- `tret` on a system-class core: back to TRAPPC, with the pending mode of TRAPMODE. -/
def State.returnCore (s : State) (p d c : Nat) : Res := do
  let k := s.core p d c
  guardRes k.hart.handler s.illegal
  guardRes (!s.accessInFlight) (.wait .drain s)
  let pc := codeAddr (SMap.get k.hart.trap 0x41 0)
  let m := SMap.get k.hart.trap 0x48 0
  let s1 := s.count
  let k := s1.core p d c
  .ok (s1.setCore p d c { k with
    hart := { k.hart with handler := false }
    slot := { k.slot with
      pc := pc
      clause := k.trapClause.filter fun c => decide (c.hdr < pc) && decide (pc < c.next)
      pmode := if bitAt m 24 then some (m.setWidth 24) else none
      passed := true } })

/-- `tret`. -/
def execTret (s : State) : Outcome State Fault Refusal :=
  match s.cur with
  | .sys p d c => finish (s.returnCore p d c)
  | .slot gid _ => finish (s.returnGroup gid)

/-! ## Trap entries and requests as events -/

/-- SYSTEM_CORE_TRAP_ENTRY: a system-class core takes a trap that waits for its next boundary (R224, R364). -/
def execSystemCoreTrapEntry (ag : Agent) (s : State) : Outcome State Fault Refusal :=
  match ag with
  | .slot _ _ => .next s
  | .sys p d c =>
    match s.dueOp ag with
    | none => .next s
    | some (n, o) =>
      if s.isStopped ag then .next s
      else .next (if (s.core p d c).halted then s.dropOp n o else s.takeDue n o)

/-- PREEMPTION_REQUEST_TAKEN (R355): the pre-emption handler is entered; without one the hardware saves (R358). -/
def execPreemptionRequestTaken (gid : Nat) (s : State) : Outcome State Fault Refusal :=
  match SMap.find s.groups gid with
  | none => .next s
  | some g =>
    if g.trap.request && !g.trap.relaunching && !s.isStopped (.slot gid 0) && (g.life == .placed || g.life == .running) && !g.hart.handler && g.parked = 0
        && g.trap.pending.isNone && g.trap.escalated.isNone && g.trap.preempth != 0 && s.atPoint g
        && !s.groupDue gid then
      let t : TrapInfo :=
        { cause := 16, tpc := if g.slot0.st = .free then g.slot1.pc else g.slot0.pc, resume := 0,
          done := g.slot0.done ||| g.slot1.done }
      .next (s.takeTrap (.slot gid 0) t)
    else .next s

/-! ## Escalation (R354) -/

/-- The first group of a package whose escalation has no record yet. -/
def State.unposted (s : State) (pkg : Nat) : Option (Nat × Group × Escalation) :=
  s.groups.findSome? fun e => match e.2.trap.escalated with
    | some x => if e.2.pkg = pkg && x.seq.isNone then some (e.1, e.2, x) else none
    | none => none

/-- The cause an escalation record shows: the frame's, or where none was written that of the trap that waits. -/
def escCause (g : Group) (x : Escalation) : Nat :=
  if x.reason = 3 then (match g.trap.pending with | some t => t.cause | none => 16)
  else bits (SMap.get g.hart.trap 0x40 0) 7 0

/-- The first context of a package whose suspension lacks room with no record of it yet (R365). -/
def State.shortContext (s : State) (pkg : Nat) : Option Nat :=
  (List.range 64).find? fun c => (s.ctx pkg c).short == some none

/-- A record goes to the escalation ring of a package while that has room, with its SEQ (R354); none where it waits. -/
def State.postEscalation (s : State) (pkg : Nat) (words : List Dword) : Option State :=
  let p := s.pkg pkg
  if 128 ≤ (p.reg 0x52 - p.reg 0x51).toNat then none
  else (s.postAt pkg (p.reg 0x50 + BitVec.ofNat 64 (32 * ((p.reg 0x52).toNat % 128))) 32
      (words ++ [BitVec.ofNat 64 p.escSeq])).map fun s1 =>
    s1.setPkg pkg { (s1.pkg pkg).setReg 0x52 (p.reg 0x52 + 1) with escSeq := p.escSeq + 1 }

/-- ESCALATION_RECORD_POST: one record is posted: of a group, or of a suspension that lacks room and has no group to stand
for it, which names the context alone. -/
def execEscalationRecordPost (pkg : Nat) (s : State) : Outcome State Fault Refusal :=
  let seq := (s.pkg pkg).escSeq
  match s.unposted pkg with
  | none =>
    match s.shortContext pkg with
    | none => .next s
    | some c =>
      match s.postEscalation pkg [0, BitVec.ofNat 64 c, BitVec.ofNat 64 (3 * 2 ^ 16 + 16)] with
      | none => .next s
      | some s1 => .next ((s1.setCtx pkg c { s1.ctx pkg c with short := some (some seq) }).wakeSys pkg 1)
  | some (gid, g, x) =>
    match s.postEscalation pkg
        [x.frame, g.identity, BitVec.ofNat 64 (x.reason * 2 ^ 16 + x.second % 256 * 2 ^ 8 + escCause g x)] with
    | none => .next s
    | some s1 =>
      .next ((s1.setGroup gid { g with trap := { g.trap with escalated := some { x with seq := some seq } } }).wakeSys pkg 1)

/-- The escalated group that a reply names. -/
def State.escalatedBy (s : State) (pkg : Nat) (v : Dword) : Option (Nat × Group × Escalation) :=
  s.groups.findSome? fun e => match e.2.trap.escalated with
    | some x =>
      if e.2.pkg = pkg && e.2.identity.toNat == bits v 27 0 && x.seq.isSome && (x.seq.getD 0) % 65536 == bits v 47 32
      then some (e.1, e.2, x) else none
    | none => none

/-- A group that the service lets resume reads its frame as `tret` does: it waits for the accesses its handler issued and
for missing pages; an invalid frame, or one that cannot be read, ends the group (R354). -/
def State.escResume (s : State) (gid : Nat) : State :=
  let s1 := { s with cur := .slot gid 0, word := 0 }
  let r := ((s.group gid).trap.record).getD 0
  if s1.groupAccessInFlight then s
  else match s1.hwLoadBlocks (s1.groupWho gid 0) r 48 with
    | .error .bad => s1.endGroup gid
    | .error (.miss c va) => s1.parkRecord gid 0 va .read c
    | .ok img =>
      match s1.frameOk img with
      | .ok true =>
        let s2 := (s1.unescalate gid).resumeFrame gid img
        (s2.clearResumed gid (frameWord img 0)).examined (.slot gid 0) (frameWord img 1) 0
      | .error (.wait _ s2) => s2
      | _ => s1.endGroup gid

/-- ACTION 0: REASON 3 makes the group take its trap entry, or its save, again; else it resumes from its frame. A group of
a stopped partition does so once it runs (R370). -/
def State.replyResume (s : State) (gid : Nat) (x : Escalation) : State :=
  let stopped := s.isStopped (.slot gid 0)
  if x.reason = 3 then
    let s1 := s.unescalate gid
    if stopped then s1 else s1.trapEntry gid
  else
    let g := s.group gid
    let s1 := s.setGroup gid { g with trap := { g.trap with escalated := some { x with resuming := true } } }
    if stopped then s1 else s1.escResume gid

/-- TRAP_ENTRY: a trap that had to wait, for its save record or its pages, or for a pending write to a spilled register,
is taken; or a resumption that had to wait goes on (R348, R351, R354). -/
def execTrapEntry (gid : Nat) (s : State) : Outcome State Fault Refusal :=
  match SMap.find s.groups gid with
  | none => .next s
  | some g =>
    if g.parked ≠ 0 || s.isStopped (.slot gid 0) then .next s
    else if (match g.trap.escalated with | some x => x.resuming | none => false) then
      .next { s.escResume gid with cur := s.cur, word := s.word }
    else if g.trap.pending.isSome && s.escalationOver gid then .next ((s.unescalate gid).trapEntry gid)
    else .next s

/-- ESCALATION_REPLY_RESUME: a write to ESCREPLY with ACTION 0; one that names no escalated group is ignored. -/
def execEscalationReplyResume (pkg : Nat) (v : Dword) (s : State) : Outcome State Fault Refusal :=
  match s.escalatedBy pkg v with
  | none => .next s
  | some (gid, _, x) => if bits v 49 48 = 0 then .next { s.replyResume gid x with cur := s.cur, word := s.word } else .next s

/-- ESCALATION_REPLY_END: a write to ESCREPLY with ACTION 1. -/
def execEscalationReplyEnd (pkg : Nat) (v : Dword) (s : State) : Outcome State Fault Refusal :=
  match s.escalatedBy pkg v with
  | none => .next s
  | some (gid, _, _) => if bits v 49 48 = 1 then .next (s.endGroup gid) else .next s

end Sys2Proof.Machine
end

