-- ==== Sys2Proof/Machine/Faults.lean ====
section
/-! DEFINITION. Fault records and their replies (R219 to R221, R300, R320). -/

namespace Sys2Proof.Machine

open Host (Outcome)

/-! ## Posting (R220) -/

def AccKind.code : AccKind → Nat
  | .read => 0 | .write => 1 | .rmw => 2 | .fetch => 3

/-- The fault record of an entry. -/
def FaultEntry.record (e : FaultEntry) (seq : Nat) : List Dword :=
  [e.va, BitVec.ofNat 64 (e.cause * 2 ^ 30 + e.kind.code * 2 ^ 28 + (e.idx.getD 0) * 2 ^ 22 + e.core % 128 * 2 ^ 15
    + e.die % 8 * 2 ^ 12 + e.ctx % 64), BitVec.ofNat 64 seq, 0]

/-- The first entry of a package that has no record yet, with its place. -/
def State.toPost (s : State) (pkg : Nat) : Option (FaultEntry × Nat) :=
  (s.faults.zipIdx).find? fun e => e.1.pkg == pkg && e.1.idx.isSome && e.1.seq.isNone

/-- FAULT_RECORD_POST: an entry posts its record while the ring has room; the system cores wake. -/
def execFaultRecordPost (pkg : Nat) (s : State) : Outcome State Fault Refusal :=
  match s.toPost pkg with
  | none => .next s
  | some (e, i) =>
    let p := s.pkg pkg
    if 128 ≤ (p.reg 0x104 - p.reg 0x103).toNat then .next s
    else match s.postAt pkg (p.reg 0x102 + BitVec.ofNat 64 (32 * ((p.reg 0x104).toNat % 128))) 32 (e.record p.faultSeq) with
      | none => .next s
      | some s1 =>
        let p1 := s1.pkg pkg
        let s2 := s1.setPkg pkg { p1.setReg 0x104 (p.reg 0x104 + 1) with faultSeq := p.faultSeq + 1 }
        .next ({ s2 with faults := s2.faults.set i { e with seq := some p.faultSeq } }.wakeSys pkg 0)

/-! ## Replies (R221) -/

/-- The entry that a reply names: none where it is free, or the TAG differs. -/
def State.entryOf (s : State) (pkg : Nat) (v : Dword) : Option FaultEntry :=
  s.faults.find? fun e => e.pkg == pkg && e.die == bits v 2 0 && e.core == bits v 9 3 && e.idx == some (bits v 15 10)
    && (match e.seq with | some q => q % 65536 == bits v 47 32 | none => false)

/-- The kind of access an operation's parked lanes make. -/
def Op.access (o : Op) : AccKind :=
  match o.kind with
  | .store => .write
  | .atomic _ _ _ _ => .rmw
  | .parkedScalar _ .store => .write
  | .parkedScalar _ (.atomic _ _ _) => .rmw
  | .collective which _ _ => peerAccess which
  | _ => .read

/-- The lanes of an atomic whose pages have come: those of a replay wait for their rank, the others are applied, and
recorded where their steps are logged (R379). -/
def State.atomicParked (s : State) (o : Op) (here : List LaneReq) : Except (LaneReq × Access × Op × State) (Op × State) :=
  let (ranked, plain) := here.partition fun r => r.order.isSome
  let o := { o with reqs := o.reqs ++ ranked }
  let found := plain.map fun r => (r, s.bytesAt r.key r.n)
  match s.atomicAll o plain with
  | .error e => .error e
  | .ok (o1, s1) => match s1.logOf o.agent with
    | some l => .ok (o1, if l.replay then s1 else s1.recordLanes o l found)
    | none => .ok (o1, s1)

/-- Parked accesses perform: on a race, the one that met it. -/
def State.performParked (s : State) (o : Op) (here : List (LaneReq × Loc)) :
    Except (LaneReq × Access × Op × State) (Op × State) :=
  match o.kind, here with
  | .atomic _ _ _ _, _ => s.atomicParked o (placed here)
  | .collective _ _ _, _ => (s.performPeers o here).map fun x => (x.1.noted here, x.2)
  | .parkedScalar d act, (r, l) :: _ =>
    (match s.performScalar o d act r l with
     | .error x => .error (r, x, o, s)
     | .ok x => .ok x)
  | _, _ => (s.performAll o here).map fun x => (x.1.noted here, x.2)

/-- What the lanes of a handle access have done is known to the passes after it (R265). -/
def State.tensorUsed (s : State) (o : Op) (here : List (LaneReq × Loc)) : State :=
  match o.tensor with
  | none => s
  | some k => s.post (tensorUse k) (s.knowledge (here.map fun x => s.opWho o x.1.lane))

/-- An operation whose located accesses have performed: poison met by a store, an atomic or a collective traps precisely
(R224). -/
def State.performed (s : State) (n : Nat) (o : Op) (k : State → State) : State :=
  match o.keeps && o.reqs.isEmpty && o.entries == 0, o.bad with
  | true, some (_, addr, det2) => s.endOp n o 11 addr det2 0 []
  | _, _ => k { s with ops := SMap.put s.ops n o }

/-- The lanes of an entry walk again (R221): those that still fail open new entries, those of another package are sent
there. With the last entry resolved the group stays parked until the operation completes (R219). -/
def State.replayLanes (s : State) (gid n : Nat) (reqs : List LaneReq) : State :=
  match SMap.find s.ops n with
  | none => s.unpark gid 1
  | some o =>
    let o := { o with entries := o.entries - 1 }
    match s.locate o o.access reqs with
    | .error va => (s.unpark gid 1).endOp n o 6 va 0 0 reqs
    | .ok (here, missed, s1) =>
      let (away, near) := here.partition fun x => s.away o.agent x.2 && !o.isAtomic
      match s1.performParked o near with
      | .error (r, x, o1, s2) =>
        (s2.unpark gid 1).endOp n o1 7 r.va x.det2 x.det3
          (((near.map Prod.fst).dropWhile fun y => !(y == r)) ++ (missed.map Prod.fst ++ away.map Prod.fst))
      | .ok (o1, s2) =>
        let o1 := s2.sendAway o1 away
        let s3 := (s2.tensorUsed o1 near).onLinks n o1 (placed away)
        if !missed.isEmpty then (s3.openEntries n o1 o1.access (byPage missed)).unpark gid 1
        else if o1.entries ≠ 0 then { s3 with ops := SMap.put s3.ops n o1 }.unpark gid 1
        else s3.performed n { o1 with holds := true } id

/-- The accesses of an operation that were sent to another package perform there, and it completes once it has no other
(R389). -/
def State.performAway (s : State) (n : Nat) (o : Op) : State :=
  let o1 := { o with reqs := [] }
  let reqs := o.reqs.map fun r => (r, r.loc)
  match s.performParked o1 reqs with
  | .error (r, x, o2, s1) => s1.endOp n o2 7 r.va x.det2 x.det3 (o.reqs.dropWhile fun y => !(y == r))
  | .ok (o2, s1) => (s1.tensorUsed o2 reqs).performed n o2 fun s => s.completeOp n

/-- An operation in flight goes on: accesses that were sent away perform, else it completes. -/
def State.opGoesOn (s : State) (n : Nat) (o : Op) : State :=
  if o.reqs.isEmpty then s.completeOp n else s.performAway n o

/-- SCALAR_ACCESS_COMPLETE: a scalar operation counted on a pip completes (R67). An operation of another kind, or no
operation, leaves the state as it is. -/
def execScalarAccessComplete (op : Nat) (s : State) : Outcome State Fault Refusal :=
  match SMap.find s.ops op with
  | some o => match o.kind with
    | .scalar _ _ | .parkedScalar _ _ => .next (s.opGoesOn op o)
    | _ => .next s
  | none => .next s

/-- VECTOR_ACCESS_COMPLETE: a vector load, store or prefetch completes (R227, R230). -/
def execVectorAccessComplete (op : Nat) (s : State) : Outcome State Fault Refusal :=
  match SMap.find s.ops op with
  | some o => match o.kind with
    | .load | .store | .prefetch => .next (s.opGoesOn op o)
    | _ => .next s
  | none => .next s

/-- COLLECTIVE_COMPLETE: a collective all of whose lanes are applied or returned completes. -/
def execCollectiveComplete (op : Nat) (s : State) : Outcome State Fault Refusal :=
  match SMap.find s.ops op with
  | some o => match o.kind with
    | .collective _ _ _ => .next (s.opGoesOn op o)
    | _ => .next s
  | none => .next s

/-- A walk without an access is made again. -/
def State.replayWalk (s : State) (e : FaultEntry) : State :=
  let w : Who := { kind := .thread, pkg := e.pkg, die := e.die, core := e.core, ctx := e.ctx, gid := e.gid.getD 0 }
  match s.xlate w e.va e.kind with
  | (.miss c, s1) => s1.openFault { e with cause := c, idx := none, seq := none }
  | (_, s1) => s1

/-- A command's spilled granules of the entry's page are written; its command goes on. -/
def State.replayCommand (s : State) (id : Nat) (va : Dword) : State :=
  match SMap.find s.cmds id with
  | none => s
  | some c =>
    let s1 := s.setCmd id { c with entries := c.entries - 1 }
    if c.posting then s1
    else match s1.writeBack id (pageOf va) with
      | .ok s2 => s2
      | .error (.wait s2) => s2
      | .error (.halt st d2 d3 s2) => s2.stopCommand id st d2 d3

/-- A reply about a fence word. -/
def State.fenceReply (s : State) (dk : Nat) (dead : Bool) : State :=
  let d := s.domino dk
  match d.queue with
  | [] => s
  | o :: _ => s.setDomino dk (d.setHead { o with fenceWaits := false, dead := o.dead || dead })

/-- FAULT_REPLY_REPLAY: FLTREPLY with ACTION 0; a reply that names no posted entry is ignored. -/
def execFaultReplyReplay (pkg : Nat) (v : Dword) (s : State) : Outcome State Fault Refusal :=
  match s.entryOf pkg v with
  | none => .next s
  | some e =>
    if bitAt v 16 then .next s
    else
      let s1 := s.dropFaults (· == e)
      match e.held with
      | .lanes n reqs => .next (s1.replayLanes (e.gid.getD 0) n reqs)
      | .reissue _ | .record => .next ((s1.uncount e).unpark (e.gid.getD 0) 1)
      | .walk => .next (s1.replayWalk e)
      | .command id => .next (s1.replayCommand id e.va)
      | .fence dk => .next (s1.fenceReply dk false)
      | .ring q => .next (s1.ringReply q false)

/-- A group's resumption by the service stands at its frame (R354). -/
def Group.resuming (g : Group) : Bool := match g.trap.escalated with | some x => x.resuming | none => false

/-- A rejected word of a group is a precise trap (R221); a ripple header that a resumption reads ends the group (R354, R358). -/
def State.rejectWord (s : State) (gid slot : Nat) (va : Dword) (word : Word) : State :=
  let s1 := s.unpark gid 1
  let g := s1.group gid
  let x := g.slot slot
  if g.resuming || g.trap.relaunching then s1.endGroup gid
  else s1.takeTrap (.slot gid slot)
      { cause := 6, tpc := x.pc, resume := x.pc, addr := va, word := word, slot := slot, done := x.done }

/-- A rejected access of the hardware to a group's save record: escalation (R348), or the end of a resumption by the
service (R354). -/
def State.rejectRecord (s : State) (gid : Nat) : State :=
  let s1 := s.unpark gid 1
  let g := s1.group gid
  if g.resuming then s1.endGroup gid
  else if g.trap.pending.isSome then s1.escalate gid 3 0 ((s1.takeRecord gid).getD 0)
  else s1.escalateSave gid ((g.trap.record).getD 0)

/-- A rejected access of a command: it halts with STATUS 19; a record it was to post is dropped (R277, R280). -/
def State.rejectCommand (s : State) (id : Nat) (va : Dword) : State :=
  match SMap.find s.cmds id with
  | none => s
  | some c =>
    let s1 := s.setCmd id { c with entries := c.entries - 1 }
    if c.posting then
      match s1.posts.find? fun p => p.2.cmd == id with
      | some (n, _) => s1.endPost n
      | none => s1
    else s1.stopCommand id 19 va 0

/-- FAULT_REPLY_REJECT: FLTREPLY with ACTION 1. -/
def execFaultReplyReject (pkg : Nat) (v : Dword) (s : State) : Outcome State Fault Refusal :=
  match s.entryOf pkg v with
  | none => .next s
  | some e =>
    if !bitAt v 16 then .next s
    else
      let gid := e.gid.getD 0
      match e.held with
      | .lanes n _ =>
        (match SMap.find s.ops n with
         | none => .next ((s.dropFaults (· == e)).unpark gid 1)
         | some o => .next (s.endOp n o 6 e.va 0 0 []))
      | .reissue word => .next (((s.dropFaults (· == e)).uncount e).rejectWord gid e.slot e.va word)
      | .record => .next ((s.dropFaults (· == e)).rejectRecord gid)
      | .walk => .next (s.dropFaults (· == e))
      | .command id => .next ((s.dropFaults (· == e)).rejectCommand id e.va)
      | .fence dk => .next ((s.dropFaults (· == e)).fenceReply dk true)
      | .ring q => .next ((s.dropFaults (· == e)).ringReply q true)

end Sys2Proof.Machine
end

