-- ==== Sys2Proof/Machine/Suspend.lean ====
section
/-! DEFINITION. The suspension of a context and its return (R284, R359, R365). -/

namespace Sys2Proof.Machine

open Host (Outcome)

/-- Groups of a context on a package that are neither SAVED nor RELEASED. -/
def State.groupsLive (s : State) (pkg ctx : Nat) : Nat :=
  (s.groups.filter fun e => e.2.pkg == pkg && e.2.hart.ctx == ctx && e.2.life != .saved).length

/-- Sends a request to every group of a context, or takes it back. -/
def State.requestAll (s : State) (pkg ctx : Nat) (v : Bool) : State :=
  { s with groups := s.groups.map fun e =>
      if e.2.pkg = pkg ∧ e.2.hart.ctx = ctx ∧ e.2.life ≠ .saved ∧ e.2.life ≠ .draining
      then (e.1, { e.2 with trap := { e.2.trap with request := v } }) else e }

/-- CONTEXT_SUSPEND: no new work of the context is placed, and every group of it receives the request. -/
def execContextSuspend (pkg ctx : Nat) (s : State) : Outcome State Fault Refusal :=
  let c := s.ctx pkg ctx
  if c.suspended || c.suspending then .next s
  else .next ((s.setCtx pkg ctx { c with suspending := true }).requestAll pkg ctx true)

/-- A command of a context runs and does not stand at a pass boundary of a relay (R340, R359). -/
def Cmd.busyFor (c : Cmd) (pkg ctx : Nat) : Bool :=
  c.pkg == pkg && c.ctx == ctx && c.started &&
    (match c.relay with
     | none => true
     | some r => r.phase == .run || r.phase == .written)

/-- Matrix work of a context is queued on a domino of a package. -/
def State.matrixBusy (s : State) (pkg ctx : Nat) : Bool :=
  s.dominoes.any fun e => e.1 / 1024 == pkg && e.2.queue.any fun m => m.ctx == ctx

/-- Every group of a context is SAVED or RELEASED, and the engines and sequencers hold no work of it. -/
def State.quiet (s : State) (pkg ctx : Nat) : Bool :=
  s.groupsLive pkg ctx == 0 && !(s.cmds.any fun e => e.2.busyFor pkg ctx) && !s.matrixBusy pkg ctx

/-- Format entries 16 to 31 go to the context save area, where the hardware state of the context fits into it too (R105,
R365): the state with them, or none. DESIGN CHOICE (log 77): an area that is absent (CTXSAVE = 0) or cannot be accessed is
a lack of room. -/
def State.saveFormats (s : State) (pkg ctx : Nat) : Option State :=
  let area := s.ctxReg pkg ctx 0x57
  let who := serviceWho pkg
  let records := (List.range 16).map fun i => s.fmtRecord pkg ctx (16 + i)
  if area = 0 then none
  else match s.hwLoad who (area + 0x90) 8 with
    | .error _ => none
    | .ok (size, _) =>
      if size < (Config.stateBytes (ctxKey pkg ctx) s.nextId).toNat then none
      else match s.hwStore who area (blocks8 2 records) with
        | .ok s1 => some s1
        | .error _ => none

/-- And they come back from it. DESIGN CHOICE (log 77): where the area cannot be read the table stays as it stands. -/
def State.loadFormats (s : State) (pkg ctx : Nat) : State :=
  match s.hwLoadBlocks (serviceWho pkg) (s.ctxReg pkg ctx 0x57) 2 with
  | .error _ => s
  | .ok v =>
    let c := s.ctx pkg ctx
    s.setCtx pkg ctx { c with fmts := (List.range 16).foldl (fun m i => SMap.set m (16 + i) (dwordOf v i) 0) c.fmts }

/-- The lowest trigger slot for a saved trigger: its own if that is free. -/
def Board.freeSlot (b : Board) (t : Nat) : Option Nat := (t :: List.range 32).find? fun i => (SMap.find b.triggers i).isNone

/-- A window that was taken from a suspended context comes back to it: its bits, its triggers in free slots. What finds
no slot stays saved. -/
def Board.join (b : Board) (win ctx : Nat) (saved : Board) : Board × Board :=
  let b1 := { b with
    owners := SMap.put b.owners win ctx
    bits := SMap.set b.bits win (b.window win ||| saved.window win) 0 }
  saved.triggers.foldl (fun (x : Board × Board) e =>
    match x.1.freeSlot e.1 with
    | none => (x.1, { x.2 with triggers := SMap.put x.2.triggers e.1 e.2 })
    | some t => ({ x.1 with triggers := SMap.put x.1.triggers t e.2 }, x.2)) (b1, {})

/-- The saved window of this number, 4 × core key + window, comes back. -/
def State.rejoin (s : State) (pkg ctx n : Nat) (saved : Board) : State :=
  let (b, rest) := (s.board (n / 4)).join (n % 4) ctx saved
  let c := s.ctx pkg ctx
  let s1 := s.setCtx pkg ctx { c with
    boards := if rest.triggers.isEmpty then SMap.erase c.boards n else SMap.put c.boards n rest }
  (s1.setBoard (n / 4) b).firingTest (n / 4)

/-- What was saved of a context's windows returns to the boards where no other context holds the window by now; the firing
test follows (R286, R359). The windows it has kept stand as they are (R284). -/
def State.restoreBoards (s : State) (pkg ctx : Nat) : State :=
  (s.ctx pkg ctx).boards.foldl (fun s e =>
    let owner := SMap.find (s.board (e.1 / 4)).owners (e.1 % 4)
    if owner.isSome && owner != some ctx then s else s.rejoin pkg ctx e.1 e.2) s

/-- The state of a context is saved: the regions of its workgroups with their slots (R359). Its boards and triggers stay
with their cores while the allotment lasts (R284). -/
def State.saveContext (s : State) (pkg ctx : Nat) : State :=
  s.wgs.foldl (fun s e => if e.2.pkg = pkg ∧ e.2.ctx = ctx then s.saveRegionOf e.1 true else s) s

/-- The first group of a context on a package: it stands for a suspension that lacks room (R365). -/
def State.firstGroup (s : State) (pkg ctx : Nat) : Option (Nat × Group) :=
  s.groups.find? fun e => e.2.pkg == pkg && e.2.hart.ctx == ctx

/-- An escalation that waited for room, of a group or of the context, is over. -/
def State.roomFound (s : State) (pkg ctx : Nat) : State :=
  let s1 := s.setCtx pkg ctx { s.ctx pkg ctx with short := none }
  match s.firstGroup pkg ctx with
  | none => s1
  | some (gid, _) => s1.unescalate gid

/-- A suspension that lacks room waits, and an escalation record says so: of its first group where that can stand for it,
else of the context. -/
def State.lacksRoom (s : State) (pkg ctx : Nat) : State :=
  let c := s.ctx pkg ctx
  let own := if c.short.isSome then s else s.setCtx pkg ctx { c with short := some none }
  match s.firstGroup pkg ctx with
  | none => own
  | some (gid, g) =>
    match g.trap.escalated with
    | none => s.setEscalated gid 3 0 0
    | some x => if x.reason = 3 ∧ x.frame = 0 then s else own

/-- SUSPENSION_COMPLETE: with the context quiet its state is saved, and the suspension is complete (R359). -/
def execSuspensionComplete (pkg ctx : Nat) (s : State) : Outcome State Fault Refusal :=
  let c := s.ctx pkg ctx
  if c.suspending && s.quiet pkg ctx then
    match s.saveFormats pkg ctx with
    | none => .next (s.lacksRoom pkg ctx)
    | some s1 =>
      let s2 := (s1.roomFound pkg ctx).saveContext pkg ctx
      .next (s2.setCtx pkg ctx { s2.ctx pkg ctx with suspending := false, suspended := true })
  else .next s

/-- CONTEXT_RESUME: what was saved is restored, the context's work is placed again, its groups are relaunched. -/
def execContextResume (pkg ctx : Nat) (s : State) : Outcome State Fault Refusal :=
  let s1 := if (s.ctx pkg ctx).suspended then (s.loadFormats pkg ctx).restoreBoards pkg ctx else s
  .next ((s1.setCtx pkg ctx { s1.ctx pkg ctx with suspending := false, suspended := false, short := none }).requestAll pkg ctx
    false)

end Sys2Proof.Machine
end

