-- ==== Sys2Proof/Machine/Registers.lean ====
section
/-! DEFINITION. Special registers: reading, writing, and what a write to a system register does (R52, R53, R68, R217,
R218, R346, R359, R363, R367, R386, R387, R390). -/

namespace Sys2Proof.Machine

open Host (Outcome)

/-- The state of an outcome that is a next state. -/
def stateOf (s : State) : Outcome State Fault Refusal → State
  | .next t => t
  | _ => s

/-! ## Which registers there are -/

/-- Registers of the special range that every agent reads (R52). -/
def srCommon (n : Nat) : Bool := decide (n ≤ 7) || (0x10 ≤ n && n ≤ 0x12) || (0x20 ≤ n && n ≤ 0x24)

/-- Trap registers (R346). -/
def srTrap (n : Nat) : Bool := (0x40 ≤ n && n ≤ 0x49) || (0x50 ≤ n && n ≤ 0x5A)

/-- System registers (R217, R367, R386, R387). -/
def srSystem (n : Nat) : Bool :=
  (0x100 ≤ n && n ≤ 0x106) || (0x140 ≤ n && n ≤ 0x14B) || (0x150 ≤ n && n ≤ 0x15F) || (0x180 ≤ n && n ≤ 0x18C)
    || (0x190 ≤ n && n ≤ 0x195)

/-- A register the issuer may read (R53). -/
def srReadable (sys : Bool) (n : Nat) : Bool := srCommon n || (if sys then srTrap n || srSystem n else 0x40 ≤ n && n ≤ 0x47)

/-- A register the issuer may write: groups write none (R53). -/
def srWritable (sys : Bool) (n : Nat) : Bool :=
  sys && (n == 0x12 || n == 0x21 || n == 0x23 || (srTrap n && !([0x42, 0x43, 0x52, 0x56].contains n))
    || (srSystem n && !([0x104, 0x184, 0x189, 0x18A].contains n)))

/-! ## Selections -/

/-- A register that a system-class core has of its own. -/
def State.ownReg (s : State) (n : Nat) : Dword :=
  match s.cur with
  | .sys p d c => SMap.get (s.core p d c).srs n 0
  | .slot _ _ => 0
def State.setOwnReg (s : State) (n : Nat) (v : Dword) : State :=
  match s.cur with
  | .sys p d c => let k := s.core p d c; s.setCore p d c { k with srs := SMap.put k.srs n v }
  | .slot _ _ => s

/-- The context that CTXSEL selects; in a group its own. -/
def State.selCtx (s : State) : Nat := if isSys s.cur then bits (s.ownReg 0x100) 5 0 else s.ctxOf s.cur

/-- The package of the issuing core. -/
def State.selPkg (s : State) : Nat := s.pkgOf s.cur

/-- The partition that DBGSEL selects. -/
def State.selPart (s : State) : Nat :=
  let v := s.ownReg 0x140
  coreKey s.selPkg (bits v 2 0) (bits v 9 3) * 4 + bits v 11 10

/-- The die and logical core of UNITSEL or BOARDSEL, the first unit and the count. -/
def unitDie (v : Dword) : Nat := bits v 2 0
def unitCore (v : Dword) : Nat := bits v 9 3
def unitFirst (v : Dword) : Nat := bits v 19 10
def unitCount (v : Dword) : Nat := bits v 29 20 + 1

/-- A UNITSEL value is acceptable (R387). -/
def unitSelOk (v : Dword) : Bool :=
  v.toNat / 2 ^ 30 == 0 && decide (unitCore v < 88) && decide (unitFirst v + unitCount v ≤ 1024)

/-- A BOARDSEL value is acceptable. -/
def boardSelOk (v : Dword) : Bool := v.toNat / 2 ^ 12 == 0 && decide (unitCore v < 88)

/-- The stream of a STREAMSEL value. -/
def streamOfSel (pkg : Nat) (v : Dword) : Nat :=
  streamKey pkg (bits v 5 0) (64 * bits v 6 6 + bits v 12 7) (bits v 14 13)

/-! ## Reading -/

/-- The key of a unit of a logical core's slice in the tag map. -/
def State.unitKey (s : State) (pkg die core unit : Nat) : Option Nat :=
  (s.coreSlice pkg die core (1024 * unit)).map fun k => (k - sliceBase) / 1024

/-- A tag as UNITTAG reads it. -/
def tagWord : Option UnitTag → Dword
  | none => 0x100
  | some t => BitVec.ofNat 64 (t.ctx + t.race.toNat * 2 ^ 9)

/-- LINKSTAT of a port (R386). -/
def Link.word (l : Link) : Dword :=
  BitVec.ofNat 64 (l.st % 4 + l.cb.toNat * 4 + l.neighbour % 1024 * 16 + l.retries % 2 ^ 32 * 2 ^ 32)

/-- Groups of a context as PREEMPT reads them (R346). -/
def State.preemptWord (s : State) (pkg ctx : Nat) : Dword :=
  BitVec.ofNat 64 (s.groupsLive pkg ctx % 2 ^ 32 + (s.ctx pkg ctx).suspending.toNat * 2 ^ 63)

/-- A register of row 0x0000 to 0x0024 (R52). -/
def State.srCommonValue (s : State) (n : Nat) : Dword :=
  let (p, d, c) := s.placeOf s.cur
  let g := s.grp
  let group (v : Dword) : Dword := if isSys s.cur then 0 else v
  match n with
  | 0x00 => BitVec.ofNat 64 c
  | 0x01 => BitVec.ofNat 64 d
  | 0x02 => match (s.pkg p).domain with | none => 0 | some d => BitVec.ofNat 64 (p % 1024 + d % 2048 * 1024)
  | 0x03 => group (BitVec.ofNat 64 g.part)
  | 0x04 => group (BitVec.ofNat 64 g.gslot)
  | 0x05 => group (BitVec.ofNat 64 (bits (g.wid 0) 31 0))
  | 0x06 => group (BitVec.ofNat 64 (bits (g.wid 0) 63 32))
  | 0x07 => group (match s.launchOf (gidOf s.cur) with
      | some id => BitVec.ofNat 64 (bits ((s.launch id).word 0x10) 41 0)
      | none => 0)
  | 0x10 => BitVec.ofNat 64 (s.cyclesOf p)
  | 0x11 => BitVec.ofNat 64 (s.hart s.cur).retired
  | 0x12 => s.timens p
  | 0x20 => group (BitVec.ofNat 64 ((s.wg g.wg).left_ / 2))
  | 0x21 => s.ctxReg p s.selCtx 0x21
  | 0x22 => group g.rgkey
  | 0x23 => s.ctxReg p s.selCtx 0x23
  | _ => (s.hart s.cur).wakev

/-- A trap register (R346). -/
def State.srTrapValue (s : State) (n : Nat) : Dword :=
  let p := s.selPkg
  if n ≤ 0x49 then
    if isSys s.cur && (n == 0x42 || n == 0x43) then 0 else SMap.get (s.hart s.cur).trap n 0
  else match n with
    | 0x53 => 0
    | 0x57 => s.ctxReg p s.selCtx 0x57
    | 0x58 => s.preemptWord p (bits ((s.pkg p).reg 0x58) 5 0)
    | 0x59 => s.ownReg 0x59
    | 0x5A => let v := s.ownReg 0x59; (s.placeEntry p (bits v 9 7) (bits v 6 0)).setWidth 64
    | n => (s.pkg p).reg n

/-- A register of translation, debug or devices. -/
def State.srSystemValue (s : State) (n : Nat) : Dword :=
  let p := s.selPkg
  match n with
  | 0x101 => (s.ctx p s.selCtx).root
  | 0x105 | 0x106 | 0x181 | 0x18C => 0
  | 0x141 => (s.partSt s.selPart).ctx
  | 0x142 | 0x143 | 0x144 | 0x145 => SMap.get (s.partSt s.selPart).cmps (n - 0x142) 0
  | 0x146 =>
    let d := s.dieSt p (bits (s.ownReg 0x140) 2 0)
    (s.partSt s.selPart).trc ||| BitVec.ofNat 64 (d.eng.toNat * 2 ^ 16 + d.evt.toNat * 2 ^ 17)
  | 0x186 => SMap.get (s.pkg p).routes (2 * bits (s.ownReg 0x185) 9 0) 0
  | 0x187 => SMap.get (s.pkg p).routes (2 * bits (s.ownReg 0x185) 9 0 + 1) 0
  | 0x189 => (SMap.get (s.pkg p).links (bits (s.ownReg 0x188) 6 0) {}).word
  | 0x191 =>
    let v := s.ownReg 0x190
    tagWord ((s.unitKey p (unitDie v) (unitCore v) (unitFirst v)).bind fun k => SMap.find s.units k)
  | 0x193 =>
    let v := s.ownReg 0x192
    match SMap.find (s.board (coreKey p (unitDie v) (unitCore v))).owners (bits v 11 10) with
    | some c => BitVec.ofNat 64 c
    | none => 0x100
  | 0x195 => BitVec.ofNat 64 (s.stream (streamOfSel p (s.ownReg 0x194))).quantum
  | n =>
    if [0x100, 0x140, 0x148, 0x149, 0x180, 0x185, 0x188, 0x190, 0x192, 0x194].contains n then s.ownReg n
    else if n == 0x147 || n == 0x14A || n == 0x14B || (0x150 ≤ n && n ≤ 0x15F) then s.ctxReg p s.selCtx n
    else (s.pkg p).reg n

/-- SR[n] as the issuer reads it; none where it is illegal (R53). -/
def State.srValue (s : State) (n : Nat) : Option Dword :=
  if !srReadable (isSys s.cur) n then none
  else if srCommon n then some (s.srCommonValue n)
  else if srTrap n then some (s.srTrapValue n)
  else some (s.srSystemValue n)

/-- A read that is an input for replay (R378, R379). -/
def srInput (sys : Bool) (n : Nat) : Bool :=
  n == 0x10 || n == 0x12 || (sys && [0x104, 0x52, 0x56, 0x184, 0x189, 0x18A].contains n)

/-- A read that acquires what the hardware wrote before it advanced the register (R254). -/
def srAcquires (n : Nat) : Bool := [0x104, 0x52, 0x56, 0x184, 0x189, 0x18A].contains n

/-- `srsr` (R68). -/
def execSrsr (d : BitVec 8) (n : BitVec 16) (s : State) : Outcome State Fault Refusal :=
  finish do
    s.need [d]
    match s.srValue n.toNat with
    | none => .error s.illegal
    | some v =>
      let (v, s1) ← if srInput (isSys s.cur) n.toNat then s.input 0 (n.setWidth 64) v else .ok (v, s)
      let s2 := if isSys s.cur && srAcquires n.toNat then s1.acquire s1.thread 4 else s1
      .ok ((s2.writeS d v).retire)

/-! ## Translation (R217, R218) -/

/-- Discards buffered translations of a context on a package: all, or those that cover an address (R218). -/
def State.flush (s : State) (pkg ctx : Nat) (all : Bool) (va : Nat) : State :=
  { s with buffered := s.buffered.filter fun e =>
      !(e.1 / 2 ^ 41 == pkg * 64 + ctx
        && (all || (e.1 % 2 ^ 41 * 2 ^ 16) / 2 ^ levelShift e.2.level == va / 2 ^ levelShift e.2.level)) }

/-- An access of a context on a package has been translated and not performed: one that was sent to another package, or an
atomic of a replay that waits for its rank. -/
def State.translatedWaits (s : State) (pkg ctx : Nat) : Bool :=
  s.ops.any fun e => s.pkgOf e.2.agent == pkg && s.ctxOf e.2.agent == ctx && !e.2.unapplied.isEmpty

/-- XLFLUSH := v; what was translated before is performed first (R218). -/
def State.writeFlush (s : State) (v : Dword) : Res :=
  if bits v 63 57 ≠ 0 || bits v 15 7 ≠ 0 then .error s.illegal
  else if s.translatedWaits s.selPkg (bits v 5 0) then .error (.wait .drain s)
  else .ok (s.flush s.selPkg (bits v 5 0) (bitAt v 6) (v.toNat / 2 ^ 16 * 2 ^ 16))

/-! ## Time (R52, R390) -/

/-- TIMENS := v, on the time reference: in every package of the domain; elsewhere it is discarded. -/
def State.writeTimens (s : State) (v : Dword) : State :=
  if s.selPkg = 0 then { s with pkgs := s.pkgs.map fun e => (e.1, { e.2 with timeT := v, timeAt := s.cycle }) } else s

/-! ## Devices (R386) -/

/-- CQPUSH := the address of a record: pushed for the context that CTXSEL selects, as `cpush` does (R151). -/
def State.writeCqpush (s : State) (va : Dword) : Res := do
  let (r, _, s1) ← s.scalarRead va 32 32
  let p := s.selPkg
  let c := s.selCtx
  let st := s1.pushStatus p c (dwordOf r 3)
  let s2 := if st = 0 then s1.pushRecord p c r s1.slotKnowledge else s1
  .ok (s2.setOwnReg 0x180 (BitVec.ofNat 64 st))

/-- A core that SEVSEND names wakes; a control core that waits for its first wake starts (R51, R403). -/
def State.sevOne (s : State) (pkg die core : Nat) : State :=
  match SMap.find s.cores (coreKey pkg die core) with
  | none => s
  | some k =>
    let s1 := s.post (wakeMsg (coreKey pkg die core) 5) (s.knowledge [s.thread])
    if k.waiting then s1.setCore pkg die core { k with waiting := false }
    else s1.wakeCore pkg die core 5

/-- SEVSEND := v. -/
def State.writeSevsend (s : State) (v : Dword) : Res :=
  if bits v 63 32 ≠ 0 then .error s.illegal
  else
    let p := s.selPkg
    .ok ((lanesList v).foldl (fun s i =>
      if i < 16 then s.sevOne p 8 i else s.sevOne p ((i - 16) / 2) (120 + (i - 16) % 2)) s)

/-- Bytes at a virtual address as the hardware of a package reads them for a port, their granules verified (R222): or the
trap, an unresolvable translation at `at_` or a data-integrity fault. -/
def State.readBytes (s : State) (w : Who) (at_ va : Dword) : Nat → Except Exc (List Byte)
  | 0 => .ok []
  | n + 1 =>
    match s.xlate w va .read with
    | (.at l, s1) =>
      if (s.gran l.key).poisoned then .error (s.trapAt 11 (granuleVA va) (s.integrityDetail l))
      else (s1.readBytes w at_ (va + 1) n).map fun bs => Mem.byte s.mem l.key :: bs
    | _ => .error (s.trapAt 6 at_)

/-- REQSEND := the address of a message in the service context: it leaves, header and LEN bytes (R399). -/
def State.writeReqsend (s : State) (va : Dword) : Res := do
  let p := s.selPkg
  let h ← s.readBytes (serviceWho p) va va 64
  let body ← s.readBytes (serviceWho p) va (va + 64) (natOfBytes ((h.drop 0x18).take 8))
  .ok { s with sent := { pkg := p, kind := 1, bytes := h ++ body } :: s.sent }

/-! ## Units, boards, streams (R387) -/

/-- A unit of a region that a placed or saved workgroup holds (R119). -/
def State.unitHeld (s : State) (pkg die core unit : Nat) : Bool :=
  s.wgs.any fun e => e.2.pkg == pkg && e.2.die == die && e.2.core == core && e.2.saved.isNone
    && decide (e.2.base ≤ 1024 * unit + 1023) && decide (1024 * unit < e.2.base + e.2.bytes)

/-- Writes zeros over a unit, with fresh checks of KIND 1, unit 0xFFF. -/
def State.zeroUnit (s : State) (key : Nat) : State :=
  (List.range 16).foldl (fun s i => s.putBytes (sliceBase + 1024 * key + 64 * i) 64 0 (originOf 1 0 0xFFF)) s

/-- Tags or frees one unit. -/
def State.setUnit (s : State) (key : Nat) (t : Option UnitTag) (zero : Bool) : State :=
  let s1 := if zero then s.zeroUnit key else s
  match t with
  | some t => { s1 with units := SMap.put s1.units key t, race := s1.race.forget (sliceBase + 1024 * key) 1024 }
  | none => { s1 with units := SMap.erase s1.units key }

/-- Applies a tag to the units of a selection; none where a unit is held, or tagged for another context. -/
def State.tagSelected (s : State) (pkg : Nat) (sel : Dword) (t : Option UnitTag) (zero : Bool) : Option State :=
  let us := (List.range (unitCount sel)).map (unitFirst sel + ·)
  let keys := us.filterMap fun u => s.unitKey pkg (unitDie sel) (unitCore sel) u
  let other (k : Nat) : Bool := match t, SMap.find s.units k with
    | some x, some y => x.ctx != y.ctx
    | _, _ => false
  if keys.length ≠ us.length || us.any (s.unitHeld pkg (unitDie sel) (unitCore sel)) || keys.any other then none
  else some (keys.foldl (fun s k => s.setUnit k t zero) s)

/-- UNITTAG := v. -/
def State.writeUnittag (s : State) (v : Dword) : Res :=
  let free := bitAt v 8
  if bits v 63 11 ≠ 0 || bits v 7 6 ≠ 0 || (free && (bits v 5 0 != 0 || bitAt v 9)) then .error s.illegal
  else
    let t : Option UnitTag := if free then none else some { ctx := bits v 5 0, race := bitAt v 9 }
    match s.tagSelected s.selPkg (s.ownReg 0x190) t (bitAt v 10) with
    | none => .error s.illegal
    | some s1 => .ok s1

/-- A window is taken from a suspended context, which keeps what it held there until it is resumed (R284, R359). -/
def State.saveWindow (s : State) (pkg key win ctx : Nat) : State :=
  let b := s.board key
  let held : Board := { bits := SMap.set [] win (SMap.get b.bits win 0) 0
                        triggers := b.triggers.filter fun e => e.2.win == win && e.2.ctx == ctx }
  let c := s.ctx pkg ctx
  s.setCtx pkg ctx { c with boards := SMap.put c.boards (4 * key + win) held }

/-- A window's allotment changes: its bits are cleared, triggers armed on it are freed. None where it may not: it is
allotted, and its context not suspended. -/
def State.allotWindow (s : State) (pkg : Nat) (sel : Dword) (ctx : Option Nat) : Option State :=
  let key := coreKey pkg (unitDie sel) (unitCore sel)
  let win := bits sel 11 10
  let b := s.board key
  let old := SMap.find b.owners win
  if old = ctx then some s
  else if (match old with | none => false | some c => !(s.ctx pkg c).suspended) then none
  else
    let s := match old with | some c => s.saveWindow pkg key win c | none => s
    some (s.setBoard key { b with
      owners := match ctx with | some c => SMap.put b.owners win c | none => SMap.erase b.owners win
      bits := SMap.erase b.bits win
      triggers := b.triggers.filter fun e => e.2.win != win })

/-- BOARDALLOT := v. -/
def State.writeBoardallot (s : State) (v : Dword) : Res :=
  let free := bitAt v 8
  if bits v 63 9 ≠ 0 || bits v 7 6 ≠ 0 || (free && bits v 5 0 != 0) then .error s.illegal
  else match s.allotWindow s.selPkg (s.ownReg 0x192) (if free then none else some (bits v 5 0)) with
    | none => .error s.illegal
    | some s1 => .ok s1

/-- The quantum of a stream from its next turn on. -/
def State.setQuantum (s : State) (k v : Nat) : State :=
  { s with streams := SMap.put s.streams k { s.stream k with next := some (if v = 0 then 2 ^ 20 else v) } }

/-- STREAMQ := v. -/
def State.writeStreamq (s : State) (v : Dword) : Res :=
  if 2 ^ 40 < v.toNat then .error s.illegal else .ok (s.setQuantum (streamOfSel s.selPkg (s.ownReg 0x194)) v.toNat)

/-! ## Place table, route table (R363, R386) -/

/-- PLENT := v: the entry PLSEL selects, in every core of the package. DESIGN CHOICE (log 25): a position of 96 to 127, which
no die has, is accepted, and the core then has a slice of its own there. -/
def State.writePlent (s : State) (v : Dword) : State :=
  let p := s.selPkg
  let sel := s.ownReg 0x59
  let k := s.pkg p
  s.setPkg p { k with places := SMap.put k.places (bits sel 9 7 * 128 + bits sel 6 0) (v.setWidth 8) }

/-- RTENT0 or RTENT1 := v. -/
def State.writeRoute (s : State) (n : Nat) (v : Dword) : Res :=
  if n = 0x187 && (bits v 63 16 ≠ 0 || bits v 14 12 ≠ 0) then .error s.illegal
  else
    let p := s.selPkg
    let k := s.pkg p
    .ok (s.setPkg p { k with routes := SMap.put k.routes (2 * bits (s.ownReg 0x185) 9 0 + (n - 0x186)) v })

/-! ## Replies and suspension (R221, R354, R359) -/

/-- FLTREPLY := v. -/
def State.writeFltreply (s : State) (v : Dword) : Res :=
  if bits v 63 48 ≠ 0 || bits v 31 17 ≠ 0 then .error s.illegal
  else
    let p := s.selPkg
    .ok { stateOf s (if bitAt v 16 then execFaultReplyReject p v s else execFaultReplyReplay p v s) with cur := s.cur }

/-- ESCREPLY := v. -/
def State.writeEscreply (s : State) (v : Dword) : Res :=
  if bits v 63 50 ≠ 0 || bits v 31 28 ≠ 0 then .error s.illegal
  else
    let p := s.selPkg
    .ok { stateOf s (if bits v 49 48 = 1 then execEscalationReplyEnd p v s else execEscalationReplyResume p v s) with
      cur := s.cur, word := s.word }

/-- PREEMPT := v. -/
def State.writePreempt (s : State) (v : Dword) : Res :=
  if bits v 63 8 ≠ 0 || bitAt v 6 then .error s.illegal
  else
    let p := s.selPkg
    let c := bits v 5 0
    let s1 := s.setPkg p ((s.pkg p).setReg 0x58 (BitVec.ofNat 64 c))
    .ok (stateOf s1 (if bitAt v 7 then execContextResume p c s1 else execContextSuspend p c s1))

/-! ## Debug (R367) -/

/-- DBGTRC := v. -/
def State.writeDbgtrc (s : State) (v : Dword) : Res :=
  let k := bits v 12 8
  if bits v 63 18 ≠ 0 || bits v 15 13 ≠ 0 || bits v 7 3 ≠ 0 || (k ≠ 0 && !(8 ≤ k && k ≤ 24)) then .error s.illegal
  else
    let x := s.partSt s.selPart
    let die := bits (s.ownReg 0x140) 2 0
    .ok ((s.setPart s.selPart { x with trc := BitVec.ofNat 64 (bits v 15 0), sperAt := s.cycle, sampled := s.cycle }).setDie
      s.selPkg die { eng := bitAt v 16, evt := bitAt v 17, part := s.selPart })

/-- A logged range is acceptable: reserved bits zero, its base aligned to its size. DESIGN CHOICE (log 26): a size outside
16 to 56 is illegal where the range is enabled, and taken where it is not, as the reset value has it. -/
def rangeOk (v : Dword) : Bool :=
  bits v 63 57 == 0 && bits v 14 6 == 0 && v.toNat / 2 ^ 16 * 2 ^ 16 % 2 ^ bits v 5 0 == 0
    && (!bitAt v 15 || (16 ≤ bits v 5 0 && bits v 5 0 ≤ 56))

/-- A register of R367. -/
def State.writeDebug (s : State) (n : Nat) (v : Dword) : Res :=
  let part := s.partSt s.selPart
  let ok (c : Bool) (t : State) : Res := if c then .ok t else .error s.illegal
  let ctx (t : State) (n : Nat) : State := t.setCtxReg s.selPkg s.selCtx n v
  match n with
  | 0x140 => ok (bits v 63 12 == 0) (s.setOwnReg 0x140 v)
  | 0x141 => ok (bits v 63 9 == 0 && bits v 7 6 == 0) (s.setPart s.selPart { part with ctx := v })
  | 0x146 => s.writeDbgtrc v
  | 0x147 => ok (bits v 5 0 == 0) (ctx s n)
  | 0x148 => ok (bits v 5 0 == 0)
      (match s.setOwnReg n v with
       | t => match t.cur with | .sys p d c => t.setCore p d c { t.core p d c with rlPos := 0 } | .slot _ _ => t)
  | 0x149 => ok (decide (v.toNat < 3)) (s.setOwnReg n v)
  | 0x14A => ok (bits v 5 0 == 0)
      (let c := s.ctx s.selPkg s.selCtx
       ctx (s.setCtx s.selPkg s.selCtx { c with rlTaken := [], ranks := [], dieRanks := [] }) n)
  | 0x14B => ok (decide (v.toNat < 3)) (ctx s n)
  | n =>
    if 0x150 ≤ n then ok (rangeOk v) (ctx s n)
    else ok (bits v 61 57 == 0 && bits v 1 0 == 0) (s.setPart s.selPart { part with cmps := SMap.put part.cmps (n - 0x142) v })

/-! ## Writing -/

/-- A trap register or one of its neighbours (R346). -/
def State.writeTrapReg (s : State) (n : Nat) (v : Dword) : Res :=
  let p := s.selPkg
  match n with
  | 0x53 => s.writeEscreply v
  | 0x57 => .ok (s.setCtxReg p s.selCtx n v)
  | 0x58 => s.writePreempt v
  | 0x59 => .ok (s.setOwnReg n (BitVec.ofNat 64 (bits v 9 0)))
  | 0x5A => .ok (s.writePlent v)
  | n =>
    if n ≤ 0x49 then
      let h := s.hart s.cur
      let v := match n with
        | 0x40 => BitVec.ofNat 64 (bits v 7 0)
        | 0x47 => BitVec.ofNat 64 (bits v 31 0)
        | 0x48 => BitVec.ofNat 64 (bits v 24 0)
        | _ => v
      .ok (s.setHart s.cur { h with trap := SMap.put h.trap n v })
    else .ok (s.setPkg p ((s.pkg p).setReg n v))

/-- A register of translation or devices. -/
def State.writeSystemReg (s : State) (n : Nat) (v : Dword) : Res :=
  let p := s.selPkg
  let ok (c : Bool) (t : State) : Res := if c then .ok t else .error s.illegal
  let pkg : State := s.setPkg p ((s.pkg p).setReg n v)
  match n with
  | 0x100 => ok (bits v 63 6 == 0) (s.setOwnReg n v)
  | 0x101 => ok (bits v 63 49 == 0 && bits v 7 5 == 0 && decide (bits v 4 0 ≤ 21))
      (s.setCtx p s.selCtx { s.ctx p s.selCtx with root := v, direct := false })
  | 0x102 => ok (bits v 11 0 == 0) pkg
  | 0x105 => s.writeFltreply v
  | 0x106 => s.writeFlush v
  | 0x180 => s.writeCqpush v
  | 0x181 => s.writeSevsend v
  | 0x182 => ok (bits v 19 0 == 0) pkg
  | 0x185 => ok (bits v 63 10 == 0) (s.setOwnReg n v)
  | 0x186 | 0x187 => s.writeRoute n v
  | 0x188 => ok (decide (v.toNat < 72)) (s.setOwnReg n v)
  | 0x18B => ok (v == 0 || (600 ≤ v.toNat && v.toNat ≤ 2400)) pkg
  | 0x18C => s.writeReqsend v
  | 0x190 => ok (unitSelOk v) (s.setOwnReg n v)
  | 0x191 => s.writeUnittag v
  | 0x192 => ok (boardSelOk v) (s.setOwnReg n v)
  | 0x193 => s.writeBoardallot v
  | 0x194 => ok (bits v 63 15 == 0) (s.setOwnReg n v)
  | 0x195 => s.writeStreamq v
  | n => if 0x140 ≤ n && n ≤ 0x15F then s.writeDebug n v else .ok pkg

/-- SR[n] := v by the issuer (R53, R68). -/
def State.srWrite (s : State) (n : Nat) (v : Dword) : Res :=
  if !srWritable (isSys s.cur) n then .error s.illegal
  else if n = 0x12 then .ok (s.writeTimens v)
  else if n < 0x40 then .ok (s.setCtxReg s.selPkg s.selCtx n v)
  else if srTrap n then s.writeTrapReg n v
  else s.writeSystemReg n v

/-- A write that is a release: it waits for every earlier access of the core (R254). -/
def srReleases (n : Nat) : Bool :=
  [0x103, 0x105, 0x51, 0x53, 0x55, 0x183, 0x18C, 0x180, 0x181, 0x106, 0x58].contains n

/-- `swsr` (R68). -/
def execSwsr (d : BitVec 8) (n : BitVec 16) (s : State) : Outcome State Fault Refusal :=
  finish do
    s.need [d]
    if isSys s.cur && srReleases n.toNat then
      guardRes (!s.accessInFlight) (.wait .drain s)
      let s1 ← (s.release s.thread 4).srWrite n.toNat (s.readS d)
      .ok s1.retire
    else
      let s1 ← s.srWrite n.toNat (s.readS d)
      .ok s1.retire

/-! ## The writes as events: what a `swsr` of the present core does; one that is illegal does nothing. -/

def regEvent (s : State) (n : Nat) (v : Dword) : Outcome State Fault Refusal :=
  match s.srWrite n v with
  | .ok s1 => .next s1
  | .error _ => .next s

/-- TRANSLATION_FLUSH: XLFLUSH is written. -/
def execTranslationFlush (v : Dword) (s : State) : Outcome State Fault Refusal := regEvent s 0x106 v
/-- TIMENS_WRITE. -/
def execTimensWrite (v : Dword) (s : State) : Outcome State Fault Refusal := regEvent s 0x12 v
/-- CQPUSH_WRITE. -/
def execCqpushWrite (v : Dword) (s : State) : Outcome State Fault Refusal := regEvent s 0x180 v
/-- SEVSEND_WRITE. -/
def execSevsendWrite (v : Dword) (s : State) : Outcome State Fault Refusal := regEvent s 0x181 v
/-- REQSEND_WRITE. -/
def execReqsendWrite (v : Dword) (s : State) : Outcome State Fault Refusal := regEvent s 0x18C v
/-- UNIT_TAG: UNITTAG with FREE 0. -/
def execUnitTag (v : Dword) (s : State) : Outcome State Fault Refusal :=
  if bitAt v 8 then .next s else regEvent s 0x191 v
/-- UNIT_FREE: UNITTAG with FREE 1. -/
def execUnitFree (v : Dword) (s : State) : Outcome State Fault Refusal :=
  if bitAt v 8 then regEvent s 0x191 v else .next s
/-- BOARD_ALLOT: BOARDALLOT with FREE 0. -/
def execBoardAllot (v : Dword) (s : State) : Outcome State Fault Refusal :=
  if bitAt v 8 then .next s else regEvent s 0x193 v
/-- BOARD_FREE: BOARDALLOT with FREE 1. -/
def execBoardFree (v : Dword) (s : State) : Outcome State Fault Refusal :=
  if bitAt v 8 then regEvent s 0x193 v else .next s
/-- STREAMQ_WRITE. -/
def execStreamqWrite (v : Dword) (s : State) : Outcome State Fault Refusal := regEvent s 0x195 v
/-- PLENT_WRITE. -/
def execPlentWrite (v : Dword) (s : State) : Outcome State Fault Refusal := regEvent s 0x5A v
/-- ROUTE_TABLE_WRITE: RTENT0 or RTENT1. -/
def execRouteTableWrite (num : Nat) (v : Dword) (s : State) : Outcome State Fault Refusal :=
  if num = 0x186 || num = 0x187 then regEvent s num v else .next s
/-- SYSTEM_REGISTER_WRITE: any other register. -/
def execSystemRegisterWrite (num : Nat) (v : Dword) (s : State) : Outcome State Fault Refusal :=
  if [0x12, 0x5A, 0x106, 0x180, 0x181, 0x186, 0x187, 0x18C, 0x191, 0x193, 0x195].contains num then .next s
  else regEvent s num v

end Sys2Proof.Machine
end

