-- ==== Sys2Proof/Machine/Devices.lean ====
section
/-! DEFINITION. Waiting and marks, boot, power, links and the phase planner (R385, R388 to R390, R394 to R397, R403,
R404). -/

namespace Sys2Proof.Machine

open Host (Outcome)

/-! ## `wfe`, `tmark` (R396, R397) -/

/-- `wfe`: waits for a pending wake, or for the timeout; in a core's replay, for its entry (R378). -/
def execWfe (n : BitVec 24) (s : State) : Outcome State Fault Refusal :=
  finish do
    let x := s.slot s.cur
    let until_ := match x.block with
      | some (.wfe u) => u
      | _ => if n = 0 then 0 else s.cycle + 1024 * n.toNat
    let due := until_ ≠ 0 && decide (until_ ≤ s.cycle)
    let h := s.hart s.cur
    let wake := if h.wake = 0 && due then 0x40 else h.wake
    let replay := isSys s.cur && (match s.logOf s.cur with | some l => l.replay | none => false)
    guardRes (wake != 0 || replay) (.wait (.wfe until_) s)
    let (v, s1) ← if isSys s.cur then s.input 2 0 (wake.setWidth 64) else .ok (wake.setWidth 64, s)
    let s2 := match s.cur with
      | .sys p d c =>
        let told := (lanesList (wake.setWidth 64)).foldl
          (fun x bit => clockJoin x (s1.message (wakeMsg (coreKey p d c) bit))) []
        (s1.learnAll [s1.thread] told).acquire s1.thread 4
      | .slot _ _ => s1
    .ok ((s2.setHart s.cur { s2.hart s.cur with wake := 0, wakev := v }).retire)

/-- WFE_TIMEOUT: an agent's `wfe` has waited out its time: bit 6. -/
def execWfeTimeout (ag : Agent) (s : State) : Outcome State Fault Refusal :=
  match (s.slot ag).block with
  | some (.wfe u) =>
    if u ≠ 0 && decide (u ≤ s.cycle) && (s.hart ag).wake == 0 then .next (s.setHart ag ((s.hart ag).wakeBit 6)) else .next s
  | _ => .next s

/-- `tmark` (R397). -/
def execTmark (c a b : BitVec 8) (s : State) : Outcome State Fault Refusal :=
  finish do
    s.need [a, b]
    match s.cur with
    | .sys _ _ _ => .error s.illegal
    | .slot gid k =>
      let g := s.group gid
      let p := s.partSt g.partKey
      let s1 := if bitAt p.trc 2 && bits p.ctx 5 0 == g.hart.ctx
        then s.traceSlot gid k 2 c.toNat (s.readS a) (s.readS b) else s
      .ok s1.retire

/-! ## Boot (R403, R51) -/

/-- Copies n bytes of the image, from granule i on, to CD0's DRAM from physical address 0, with origin KIND 5. -/
def State.copyImage (s : State) (pkg off len : Nat) : State :=
  (List.range ((len + 63) / 64)).foldl (fun s i =>
    let n := min 64 (len - 64 * i)
    s.putBytes (pkg * 2 ^ 39 + 64 * i) n
      (natOfBytes ((List.range n).map fun j => Config.flash pkg (off + 4096 + 64 * i + j))) (originOf 5 0 0xFFF)) s

/-- A system-class core at power-on (R51): its entry; a control core waits for its first wake; under the replay strap it
stands stopped (R381). -/
def bootCore (entry : Nat) (waiting strap : Bool) : SysCore :=
  { slot := { st := .run, pc := codeAddr (BitVec.ofNat 64 entry), own := 1, mask := 1 }, waiting := waiting
    stop := if strap then some { code := 0 } else none }

/-- All system-class cores of a package start: 16 on the service die, two on each compute die. -/
def State.startCores (s : State) (pkg entry ctl : Nat) (strap : Bool) : State :=
  let s1 := (List.range 16).foldl (fun s c => s.setCore pkg 8 c (bootCore entry false strap)) s
  (List.range 16).foldl (fun s i => s.setCore pkg (i / 2) (120 + i % 2) (bootCore ctl true strap)) s1

/-! ## Power (R5, R404) -/

/-- What the race detection holds for a package goes with it: its memory, its cores' clocks, the messages at its homes. -/
def Race.wiped (r : Race) (pkg : Nat) : Race :=
  let home (k : Nat) : Bool := (homeOf k).1 != pkg
  let agent (k : Nat) : Bool := !(k % 4 == 1 && k / 4 / 2048 == pkg)
  let msg (k : Nat) : Bool :=
    if 2 ^ 100 ≤ k then home ((k - 2 ^ 100) / 2 ^ 32)
    else if 2 ^ 95 ≤ k then (k - 2 ^ 95) / 2 / 4096 / 64 != pkg
    else if 2 ^ 92 ≤ k then (k - 2 ^ 92) / 16 / 2048 != pkg
    else (k - 2 ^ 90) / 256 / 2048 != pkg
  { r with
    clocks := r.clocks.filter fun e => agent e.1
    rels := r.rels.filter fun e => agent e.1
    reads := r.reads.filter fun e => agent e.1
    writes := r.writes.filter fun e => home e.1
    past := r.past.filter fun e => home e.1
    hist := r.hist.filter fun e => home e.1
    sc := r.sc.filter fun x => (x.scopes[4]?).getD none != some pkg
    msgs := r.msgs.filter fun e => msg e.1 }

/-- A package loses power: all of its state is gone (R5). -/
def State.wipe (s : State) (pkg : Nat) : State :=
  let home (k : Nat) : Bool := (homeOf k).1 != pkg
  let streamAt (k : Nat) : Bool := k / 4 / 128 / 64 != pkg
  { s with
    mem := s.mem.filter fun e => home e.1
    grans := s.grans.filter fun e => home (64 * e.1)
    units := s.units.filter fun e => e.1 / 2 ^ 20 != pkg
    buffered := s.buffered.filter fun e => e.1 / 2 ^ 41 / 64 != pkg
    pkgs := SMap.put s.pkgs pkg {}
    ctxs := s.ctxs.filter fun e => e.1 / 64 != pkg
    cores := s.cores.filter fun e => e.1 / 2048 != pkg
    groups := s.groups.filter fun e => e.2.pkg != pkg
    wgs := s.wgs.filter fun e => e.2.pkg != pkg
    launches := s.launches.filter fun e => e.2.pkg != pkg
    formed := s.formed.filter fun e => streamAt e.2.stream
    patterns := s.patterns.filter fun e => e.1 / 64 / 2048 != pkg
    armers := s.armers.filter fun e => home e.1
    boards := s.boards.filter fun e => e.1 / 2048 != pkg
    chains := s.chains.filter fun e => e.2.pkg != pkg
    engineLast := s.engineLast.filter fun e => e.1 / 256 != pkg
    cmds := s.cmds.filter fun e => e.2.pkg != pkg
    posts := s.posts.filter fun e => match SMap.find s.cmds e.2.cmd with | some c => c.pkg != pkg | none => false
    tensors := s.tensors.filter fun e => e.1 / 4096 / 64 != pkg
    tiles := s.tiles.filter fun e => e.2.pkg != pkg
    dominoes := s.dominoes.filter fun e => e.1 / 1024 != pkg
    streams := s.streams.filter fun e => streamAt e.1
    rotation := s.rotation.filter streamAt
    ops := s.ops.filter fun e => s.pkgOf e.2.agent != pkg
    faults := s.faults.filter fun e => e.pkg != pkg
    parts := s.parts.filter fun e => e.1 / 4 / 2048 != pkg
    dies := s.dies.filter fun e => e.1 / 16 != pkg
    rings := s.rings.filter fun e => e.1 / 2048 != pkg
    lost := s.lost.filter fun e => e.1 / 4 / 2048 != pkg
    plan := s.plan.filter fun p => p.pkg != pkg
    race := s.race.wiped pkg }

/-- POWER_ON: the boot ROM verifies and copies an image and starts the cores; where no copy passes none starts.
Nothing is left of what was there before (R5). -/
def execPowerOn (pkg : Nat) (strap : Bool) (s : State) : Outcome State Fault Refusal :=
  match SMap.find s.pkgs pkg with
  | none => .next s
  | some p =>
    if p.on then .next s
    else
      let s0 := s.wipe pkg
      let s1 := s0.setPkg pkg { on := true, onAt := s.cycle, timeAt := s.cycle, booted := (bootCopy pkg).isSome
                                peers := Config.peers pkg, debugPeers := Config.debugPeers pkg }
      match bootCopy pkg with
      | none => .next s1
      | some off =>
        let len := flashWord pkg (off + 8)
        let image : SMap Nat := (List.range ((len + 65535) / 65536)).map fun i => (i, 0)
        let s2 := (s1.copyImage pkg off len).setPkg pkg { s1.pkg pkg with pages := image }
        let s3 := s2.setCtx pkg 0 { opened := true, direct := true, members := [pkg] }
        .next (s3.startCores pkg (flashWord pkg (off + 16)) (flashWord pkg (off + 24)) strap)

/-- POWER_OFF. -/
def execPowerOff (pkg : Nat) (s : State) : Outcome State Fault Refusal :=
  match SMap.find s.pkgs pkg with
  | none => .next s
  | some p => if p.on then .next (s.wipe pkg) else .next s

/-- PWRSTAT: package power in W, hottest junction in 1/8 °C, throttling active (R386). -/
def pwrstat (temp power : Nat) (throttle : Bool) : Dword :=
  BitVec.ofNat 64 (power % 2 ^ 16 + temp % 2 ^ 12 * 2 ^ 16 + throttle.toNat * 2 ^ 31)

/-- The power limit in W (R386). -/
def Pkg.limit (p : Pkg) : Nat := if p.reg 0x18B = 0 then 2400 else (p.reg 0x18B).toNat

/-- THERMAL_THROTTLE: the package's sensors read a junction of temp / 8 °C and a power; above 105 °C or the limit,
partitions insert idle cycles, which PWRSTAT shows (R404). -/
def execThermalThrottle (pkg temp power : Nat) (s : State) : Outcome State Fault Refusal :=
  match SMap.find s.pkgs pkg with
  | none => .next s
  | some p =>
    if p.on then .next (s.setPkg pkg (p.setReg 0x18A (pwrstat temp power (decide (8 * 105 < temp) || decide (p.limit < power)))))
    else .next s

/-- THERMAL_POWER_OFF: above 115 °C the package powers off (R404). -/
def execThermalPowerOff (pkg temp : Nat) (s : State) : Outcome State Fault Refusal :=
  match SMap.find s.pkgs pkg with
  | none => .next s
  | some p => if p.on && decide (8 * 115 < temp) then .next (s.wipe pkg) else .next s

/-! ## Links (R385, R388 to R390) -/

/-- The ports of a package that are connected, trained. -/
def trainedLinks (pkg : Nat) : SMap Link :=
  (List.range 72).filterMap fun i => (Config.link pkg i).map fun x => (i, { st := 2, cb := x.2, neighbour := x.1 })

/-- Every package of the domain of the time reference, the package of index 0, takes its TIMENS (R390). -/
def State.alignTime (s : State) : State :=
  let r := s.pkg 0
  if !r.on || r.domain.isNone then s
  else { s with pkgs := s.pkgs.map fun (e : Nat × Pkg) =>
    if e.2.on && e.2.domain == r.domain then (e.1, { e.2 with timeT := r.timeT, timeAt := r.timeAt }) else e }

/-- LINK_BRING_UP: the service trains a package's links, assigns its domain number and its index, and aligns the domain's
time (R385, R390). The model names a package by its index. -/
def execLinkBringUp (pkg idx dom : Nat) (s : State) : Outcome State Fault Refusal :=
  match SMap.find s.pkgs pkg with
  | none => .next s
  | some p =>
    if p.on && idx == pkg && decide (idx < 1024) && decide (dom < 2048) then
      .next ((s.setPkg pkg { p with links := trainedLinks pkg, domain := some dom }).alignTime.wakeSys pkg 8)
    else .next s

/-- FLIT_RECEIVE: a port that is up receives 256 bytes and checks their LCRC (R388, R389). The flit next in order is
taken; one that fails is asked for again, and after 16 failures in a row the port goes down. A flit out of order is
dropped. The transactions that flits carry are the model's remote accesses (log 16). -/
def execFlitReceive (pkg port : Nat) (flit : List Byte) (s : State) : Outcome State Fault Refusal :=
  let p := s.pkg pkg
  match SMap.find p.links port with
  | none => .next s
  | some l =>
    if !p.on || l.st ≠ 2 || flit.length ≠ 256 then .next s
    else if natOfBytes (flit.drop 0xF8) = (crc32c (flit.take 0xF8)).toNat then
      let f := flitOf flit
      if f.kind = 2 then .next (s.resend pkg port f)
      else if f.seq = l.rx then .next (s.acceptFlit pkg port f)
      else .next s
    else
      let l1 := { l with retries := l.retries + 1, fails := l.fails + 1 }
      if 16 ≤ l1.fails then .next ((s.portDown pkg port l1).wakeSys pkg 8)
      else .next ((s.setLink pkg port l1).nak pkg port)

/-- A request of an operation waits at another package. -/
def State.remoteReq (s : State) (o : Op) (r : LaneReq) : Bool := s.away o.agent r.loc

/-- The tensor of a fill or store whose turn has come, with what it accesses: elements of the tensor (R311, R322). -/
def State.fillPlaces (s : State) (c : Cmd) (f : FillRun) : List Dword :=
  match s.fillTensor f with
  | none => []
  | some t =>
    if f.landed || s.passRuns t || !s.aheadDone f then []
    else
      let cols := if c.kind = 4 then t.fillWidth ((s.domino f.dom).slot f.slot).record else 128
      (List.range (reqRows c.req)).flatMap fun r => (List.range cols).filterMap fun k =>
        (t.shifted c.req r k).map fun i => (t.at_ t.cur i).va

/-- Where the bytes lie that a command has still to read or write: the command itself and its request; of a COPY or FILL
the granule it has come to; of work on a tensor the elements; what it has spilled; the record it posts. -/
def State.cmdPlaces (s : State) (id : Nat) (c : Cmd) : List Dword :=
  let at_ (va : Dword) : Dword := va + BitVec.ofNat 64 (64 * c.pos)
  let own := if isHidden c.chain then [] else [c.app.va]
  if c.posting then
    ((s.posts.find? fun p => p.2.cmd == id).bind fun p => s.eventQueue id p.2.queue).toList.map fun l => s.tailRecord l.key
  else if !c.checked then
    let rows := match s.liveTensor c.pkg c.ctx (c.word 2) with
      | some (_, t) => (List.range (if c.kind = 3 && 4 < t.n then t.n else 0)).map fun i =>
          c.req.getD 0 0 + BitVec.ofNat 64 (8 * i)
      | none => []
    own ++ if c.kind < 3 || isHidden c.chain then [] else c.word 4 :: rows
  else
    own ++ c.spills.map Spill.va ++ match c.kind, c.relay, c.fill with
      | 1, _, _ => [at_ (c.word 2), at_ (c.word 3)]
      | 2, _, _ => [at_ (c.word 3)]
      | _, some r, _ =>
        (match r.phase, r.pass with
         | .run, some p =>
           let t := s.tensor r.tensor
           (t.passReads (t.after r p) ++ t.passDests (t.after r p)).map Prod.fst
         | _, _ => [])
      | _, none, some f => s.fillPlaces c f
      | _, none, none => []

/-- The first of them that lies in another package. -/
def State.cmdRemote (s : State) (id : Nat) (c : Cmd) : Option Dword :=
  (s.cmdPlaces id c).find? fun va => match s.xlate (c.who id) va .read with
    | (.at l, _) => (homeOf l.key).1 != c.pkg
    | _ => false

/-- A command's access to another package is awaited from now on; or it has been for 1 ms, and the command halts with
STATUS 18, or drops the record that it posts (R277, R280, R389). -/
def State.commandTimeout (s : State) (id : Nat) (c : Cmd) : State :=
  match s.cmdRemote id c, c.awaits with
  | none, _ => s
  | some _, none => if c.live || c.posting then s.setCmd id { c with awaits := some s.cycle } else s
  | some va, some since =>
    if s.cycle < since + 1500000 then s
    else if c.posting then
      (match s.posts.find? fun p => p.2.cmd == id with
       | some (n, _) => s.endPost n
       | none => s)
    else if c.live then s.stopCommand id 18 va 0
    else s

/-- REMOTE_ACCESS_TIMEOUT: an access is unanswered for 1 ms: the instruction of the operation of this number ends in an
unresolvable translation at its lowest lane, or the command of this number, or that the operation counts, halts with
STATUS 18 (R277, R389). A command's access is awaited from the step that finds it so. -/
def execRemoteAccessTimeout (op : Nat) (s : State) : Outcome State Fault Refusal :=
  match SMap.find s.ops op, SMap.find s.cmds op with
  | none, none => .next s
  | none, some c => .next (s.commandTimeout op c)
  | some o, _ =>
    match o.kind with
    | .engine =>
      match s.cmds.find? fun e => e.2.app.op == some op with
      | some (id, c) => .next (s.commandTimeout id c)
      | none => .next s
    | _ =>
      match o.reqs.find? (s.remoteReq o) with
      | some r => if o.sent + 1500000 ≤ s.cycle then .next (s.endOp op o 6 r.va 0 0 []) else .next s
      | none => .next s

/-! ## The phase planner (R394, R395) -/

/-- Elements of n bytes read one by one at a virtual address (R55). -/
def State.readRun (s : State) (n : Nat) (va : Dword) : Nat → Except Exc (List Nat × State)
  | 0 => .ok ([], s)
  | k + 1 => do
    let (x, _, s1) ← s.scalarRead va n n
    let (xs, s2) ← s1.readRun n (va + BitVec.ofNat 64 n) k
    .ok (x :: xs, s2)

/-- Every field of a plan request is in range and every reserved bit zero. -/
def planOk (w : Nat → Dword) : Bool :=
  let n := bits (w 0) 6 0
  let ports := bits (w 0) 14 8
  bits (w 0) 63 15 == 0 && bitAt (w 0) 7 == false && decide (2 ≤ n) && decide (n ≤ 64) && decide (1 ≤ ports) && decide (ports ≤ 72)
    && bits (w 1) 63 19 == 0 && bitAt (w 1) 7 == false && decide (bits (w 1) 6 0 < 88)
    && decide (bits (w 1) 15 10 + n - 2 ≤ 63) && w 3 == 0 && w 7 == 0

/-- D_q in ns (R395). -/
def phaseTime (n ports : Nat) (t : List Nat) (q : Nat) : Nat :=
  let most := (List.range n).foldl (fun m i => max m (t.getD (n * i + (i + q) % n) 0)) 0
  (most + 150 * ports - 1) / (150 * ports)

/-- start_q and D_q of the phases from q on. -/
def phasesFrom (n ports : Nat) (t : List Nat) (start : Nat) : Nat → Nat → List (Nat × Nat)
  | _, 0 => []
  | q, k + 1 => let d := phaseTime n ports t q; (start, d) :: phasesFrom n ports t (start + d + 2000) (q + 1) k

/-- Stores a dword where it translates in a context. -/
def State.tryStore (s : State) (w : Who) (va v : Dword) : State :=
  match s.xlate w va .write with
  | (.at l, s1) => s1.putBytes l.key 8 v.toNat (originOf 2 0 0xFFF)
  | _ => s

/-- The schedule records of a plan: start, then duration (R394). -/
def State.writeSchedule (s : State) (w : Who) (p : PhasePlan) : State :=
  (p.phases.zipIdx).foldl (fun s x =>
    let va := p.sched + BitVec.ofNat 64 (16 * x.2)
    (s.tryStore w va (BitVec.ofNat 64 x.1.1)).tryStore w (va + 8) (BitVec.ofNat 64 x.1.2)) s

/-- The planner as it stores into memory of a context. -/
def planWho (pkg ctx : Nat) : Who := ringWho (coreKey pkg 8 0) ctx

/-- The control flit with the port map of phase q of a plan, for a package or a switch (R395). -/
def PhasePlan.mapFlit (p : PhasePlan) (q target : Nat) : Flit :=
  let (start, d) := p.phases.getD (q - 1) (0, 0)
  { kind := 3
    txb := BitVec.ofNat 64 (p.pkg % 1024 + target % 1024 * 2 ^ 10 + 3 * 2 ^ 20 + p.ctx * 2 ^ 22 + 4 * 2 ^ 28)
    grans := (List.range 3).map (Config.portMap p.parts p.ports q start d) }

/-- The ports of a package at the domain's circuit switches. -/
def Pkg.switchPorts (p : Pkg) : List Nat := (p.links.filter fun e => e.2.st == 2 && e.2.neighbour == 0x3FF).map Prod.fst

/-- The planner sends each phase's port map to the participants and to the circuit switches. -/
def State.sendMaps (s : State) (p : PhasePlan) : State :=
  (List.range p.phases.length).foldl (fun s i =>
    let s1 := (p.parts.filter (· != p.pkg)).foldl (fun s q => s.route p.pkg q i (p.mapFlit (i + 1) q)) s
    (s1.pkg p.pkg).switchPorts.foldl (fun s port => s.emit p.pkg port (p.mapFlit (i + 1) 0x3FF)) s1) s

/-- In phase q, ports of each participant i are a circuit to participant (i + q) mod N: the lowest-numbered at the switches
(log 96). -/
def State.setCircuits (s : State) (p : PhasePlan) (q : Nat) : State :=
  let (start, d) := p.phases.getD (q - 1) (0, 0)
  (p.parts.zipIdx).foldl (fun s x =>
    let k := s.pkg x.1
    if !k.on then s
    else s.setPkg x.1 { k with
      circuit := some (p.parts.getD ((x.2 + q) % p.parts.length) 0, k.switchPorts.take p.ports, start + d) }) s

/-- `a2aplan` (R394). -/
def execA2aplan (d a : BitVec 8) (s : State) : Outcome State Fault Refusal :=
  finish <| counting s.setB do
    s.need [d, a]
    s.needPip s.setB
    let (r, _, s1) ← s.scalarRead (s.readS a) 64 64
    let w := dwordOf r
    let status (t : State) (n : Nat) : Res := .ok ((t.writeS d (BitVec.ofNat 64 n)).retire)
    if !planOk w then status s1 1
    else
      let n := bits (w 0) 6 0
      let ports := bits (w 0) 14 8
      let (parts, s2) ← s1.readRun 2 (w 4) n
      let pkg := s.pkgOf s.cur
      if !parts.Nodup || parts.any (fun p => decide (1024 ≤ p)) then status s2 1
      else if parts.headD 0 ≠ pkg || !parts.all (s.listed pkg) then status s2 2
      else if s.plan.isSome then status s2 3
      else
        let (t, s3) ← s2.readRun 8 (w 5) (n * n)
        let now := (s.timens pkg).toNat
        let start := if w 2 = 0 then now + 20000 else (w 2).toNat
        if start < now then status s3 4
        else
          let (op, s4) := s3.fresh
          let o := s.opHere s.setB .engine
          let p : PhasePlan :=
            { pkg := pkg, ctx := s.ctxOf s.cur, op := op, parts := parts, ports := ports
              phases := phasesFrom n ports t start 1 (n - 1), sched := w 6, die := bits (w 1) 18 16, core := bits (w 1) 6 0
              win := bits (w 1) 9 8, bbase := bits (w 1) 15 10 }
          let s5 := { (s4.writeSchedule (planWho pkg p.ctx) p).sendMaps p with ops := SMap.put s4.ops op o, plan := some p }
          let s6 := match o.pip with | none => s5 | some k => s5.pipUp s.cur k
          .ok (((s6.writeS d 0).retire).classB op o.pip)

/-- Sets a phase's board bit on one participant, where the window is allotted to the plan's context. -/
def State.phaseBit (s : State) (p : PhasePlan) (part : Nat) : State :=
  let key := coreKey part p.die p.core
  if (s.board key).allotted p.win p.ctx then s.setBits key p.win (1#64 <<< (p.bbase + p.started)) []
  else { s with plan := s.plan.map fun x => { x with unset := true } }

/-- PLAN_PHASE_START: at start_q the circuits are configured, and every participant sets its board bit. -/
def execPlanPhaseStart (pkg : Nat) (s : State) : Outcome State Fault Refusal :=
  match s.plan with
  | none => .next s
  | some p =>
    match p.phases[p.started]? with
    | none => .next s
    | some (start, _) =>
      if p.pkg = pkg && decide (start ≤ (s.timens pkg).toNat) then
        let s1 := p.parts.foldl (fun s q => s.phaseBit p q) (s.setCircuits p (p.started + 1))
        .next { s1 with plan := s1.plan.map fun x => { x with started := x.started + 1 } }
      else .next s

/-- PLAN_COMPLETE: the last phase ends; a window that was not allotted shows as status 2 in the schedule's first word. -/
def execPlanComplete (pkg : Nat) (s : State) : Outcome State Fault Refusal :=
  match s.plan with
  | none => .next s
  | some p =>
    match p.phases.getLast? with
    | none => .next s
    | some (start, d) =>
      if p.pkg = pkg && p.started == p.phases.length && decide (start + d ≤ (s.timens pkg).toNat) then
        let s1 := if p.unset then
            (match s.xlate (planWho p.pkg p.ctx) (p.sched + 7) .write with
             | (.at l, t) => t.putBytes l.key 1 2 (originOf 2 0 0xFFF)
             | _ => s)
          else s
        .next ({ s1 with plan := none }.completeOp p.op)
      else .next s

end Sys2Proof.Machine
end

