-- ==== Sys2Proof/Machine/Forward.lean ====
section
/-! DEFINITION. `fwpub`, `fwend` and the arrival of publishes (R134 to R138, R141, R412). -/

namespace Sys2Proof.Machine

open Host (Outcome)

/-- Lane L publishes a value on port n, or has ended it; none where it holds four generations not yet released (R136,
R141). -/
def Launch.publish (l : Launch) (n wid : Nat) (v : Word) : Option Launch :=
  let x := l.item n wid
  if x.ended then some l
  else if 4 ≤ l.unreleased n wid then none
  else
    let g := x.pubs + 1
    let l1 := l.setItem n wid { x with pubs := g, last := v, held := x.held ++ [(g, v)] }
    some ((l1.releaseItem n wid).releaseItem n (predOf wid (l1.portK n)))

/-- Publishes by some lanes: the lanes done, and the launch after. -/
def Launch.publishAll (l : Launch) (g : Group) (n : Nat) : List Nat → Lanes × Launch
  | [] => (0, l)
  | lane :: rest =>
    match l.publish n (g.wid lane).toNat (g.regs.lane (l.portReg n) lane) with
    | none => l.publishAll g n rest
    | some l1 => let (m, l2) := l1.publishAll g n rest; (m ||| (1#64 <<< lane), l2)

/-- A port of the issuing group's launch, if enabled. -/
def State.enabledPort (s : State) (n : Nat) : Except Exc (Nat × Launch) :=
  match s.launchOf (gidOf s.cur) with
  | none => .error s.illegal
  | some id => if n < 8 && (s.launch id).portOn n then .ok (id, s.launch id) else .error s.illegal

/-- `fwpub` (R136); lanes that have published are kept in DONEMASK while the others wait (R355). -/
def execFwpub (n : BitVec 8) (s : State) : Outcome State Fault Refusal :=
  finish do
    let (id, l) ← s.enabledPort n.toNat
    let reg := l.portReg n.toNat
    s.needReg reg
    s.need s.guardRegs [reg]
    s.needClean [reg] s.acting
    let g := s.grp
    let (m, l1) := l.publishAll g n.toNat (lanesList s.acting)
    let wid (lane : Nat) : Nat := (g.wid lane).toNat
    -- a publish after the end is void, and carries nothing
    let live := (lanesList m).filter fun lane => !(l.item n.toNat (wid lane)).ended
    let s1 := live.foldl (fun s lane =>
      s.publishRels (s.laneWho lane) (pubKey id n.toNat (wid lane) (l1.item n.toNat (wid lane)).pubs)) (s.setLaunch id l1)
    if s.acting &&& ~~~ m = 0 then .ok s1.retire
    else .error (.wait (.publish n.toNat) (s1.setSlot s.cur { s1.slot s.cur with
      done := (s1.slot s.cur).done ||| m, stalled := s.acting &&& ~~~ m }))

/-- `fwend` (R137). -/
def execFwend (m : BitVec 8) (s : State) : Outcome State Fault Refusal :=
  finish do
    let ns := (List.range 8).filter m.getLsbD
    s.need s.guardRegs
    match s.launchOf (gidOf s.cur) with
    | none => guardRes ns.isEmpty s.illegal
    | some id => guardRes (ns.all (s.launch id).portOn) s.illegal
    .ok ((s.endPorts (gidOf s.cur) s.acting ns).retire)

/-- The number of an item of a launch for PUBLISH_ARRIVAL: port + 8 × identifier + 2^67 × launch. -/
def arrivalKey (launch n wid : Nat) : Nat := launch * 2 ^ 67 + itemKey n wid

/-- PUBLISH_ARRIVAL: the next generation of an item's port reaches the forwarding buffer of its reader's group (R141,
R143, R412). -/
def execPublishArrival (n : Nat) (s : State) : Outcome State Fault Refusal :=
  match SMap.find s.launches (n / 2 ^ 67) with
  | none => .next s
  | some l =>
    match SMap.find l.items (n % 2 ^ 67) with
    | none => .next s
    | some x =>
      if x.arrived < x.pubs then
        .next (s.setLaunch (n / 2 ^ 67) { l with items := SMap.put l.items (n % 2 ^ 67) { x with arrived := x.arrived + 1 } })
      else .next s

end Sys2Proof.Machine
end

