-- ==== Sys2Proof/Machine/Ripple.lean ====
section
/-! DEFINITION. Ripple clauses: rounds and waves (R139, R140). -/

namespace Sys2Proof.Machine

open Host (Outcome)

/-! ## The plan of a round -/

/-- The lane of the group that carries an identifier, if it is in a set. -/
def Group.laneOf (g : Group) (wid : Nat) (m : Lanes) : Option Nat :=
  (List.range 64).find? fun l => m.getLsbD l && (g.wid l).toNat == wid

/-- What a lane's reads wait for: the members of P that precede it, and whether every other read is decided. -/
def State.rippleNeeds (s : State) (ps : List Nat) (p : Lanes) (lane : Nat) : List Nat × Bool :=
  let g := s.grp
  match s.launchOf (gidOf s.cur) with
  | none => ([], true)
  | some id =>
    let l := s.launch id
    ps.foldl (fun a n =>
      if !l.portOn n then a
      else match g.laneOf (predOf (g.wid lane).toNat (l.portK n)) p with
        | some q => (q :: a.1, a.2)
        | none => (a.1, a.2 && (l.portRead n (g.wid lane).toNat g.hasWid).isSome)) ([], true)

/-- One ascending pass over P: each lane of R with its wave (predecessors lie in lower lanes, k ≥ 1). -/
def State.rippleRounds (s : State) (ps : List Nat) (p : Lanes) : List (Nat × Nat) :=
  (lanesList p).foldl (fun r lane =>
    let (qs, ok) := s.rippleNeeds ps p lane
    let ws := qs.map fun q => (r.find? fun e => e.1 == q).map Prod.snd
    if ok && ws.all Option.isSome then r ++ [(lane, ws.foldl (fun a w => max a (w.getD 0 + 1)) 0)] else r) []

/-- The waves of a round, in order. -/
def State.wavesOf (s : State) (ps : List Nat) (p : Lanes) : List Lanes :=
  let r := s.rippleRounds ps p
  let top := r.foldl (fun a e => max a (e.2 + 1)) 0
  (List.range top).map fun w => lanesOf ((r.filter fun e => e.2 == w).map Prod.fst)

/-- Every read that a lane makes in the clause is decided (R135). -/
def State.laneDecided (s : State) (ps : List Nat) (lane : Nat) : Bool := (s.rippleNeeds ps 0 lane).2

/-- The next wave of a round: of each wave in turn the lanes whose reads are decided. By the end of the wave before it all
of them are, but for lanes that a trap or a stop between the waves has changed (R140). -/
def State.nextWave (s : State) (ps : List Nat) : List Lanes → Option (Lanes × List Lanes)
  | [] => none
  | w :: ws =>
    let r := lanesOf ((lanesList w).filter (s.laneDecided ps))
    if r = 0 then s.nextWave ps ws else some (r, ws)

/-! ## Running waves -/

/-- The words a ripple clause may hold (R139). -/
def rippleExec (i : Instr) (s : State) : Outcome State Fault Refusal :=
  match i with
  | .nop => execNop s
  | .vadd d a b => execVadd d a b s
  | .vsub d a b => execVsub d a b s
  | .vmul d a b => execVmul d a b s
  | .vmulh d a b => execVmulh d a b s
  | .vmad d a b => execVmad d a b s
  | .vdiv d a b => execVdiv d a b s
  | .vrem d a b => execVrem d a b s
  | .vmin d a b => execVmin d a b s
  | .vmax d a b => execVmax d a b s
  | .vand d a b => execVand d a b s
  | .vor d a b => execVor d a b s
  | .vxor d a b => execVxor d a b s
  | .vshl d a b => execVshl d a b s
  | .vshr d a b => execVshr d a b s
  | .vpopc d a => execVpopc d a s
  | .vclz d a => execVclz d a s
  | .vfadd d a b => execVfadd d a b s
  | .vfsub d a b => execVfsub d a b s
  | .vfmul d a b => execVfmul d a b s
  | .vffma d a b => execVffma d a b s
  | .vffms d a b => execVffms d a b s
  | .vfdiv d a b => execVfdiv d a b s
  | .vfsqrt d a => execVfsqrt d a s
  | .vfmin d a b => execVfmin d a b s
  | .vfmax d a b => execVfmax d a b s
  | .vfexp2 d a => execVfexp2 d a s
  | .vflog2 d a => execVflog2 d a s
  | .vfrcp d a => execVfrcp d a s
  | .vfrsq d a => execVfrsq d a s
  | .vfabs d a => execVfabs d a s
  | .vfscale d a b => execVfscale d a b s
  | .vfdp2 d a b => execVfdp2 d a b s
  | .vsel d a b => execVsel d a b s
  | .vcvt d a p => execVcvt d a p s
  | .vmov d a => execVmov d a s
  | .vbcast d a b => execVbcast d a b s
  | .vli d x => execVli d x s
  | .vlit d x => execVlit d x s
  | .vput d a b => execVput d a b s
  | .vpack d a b => execVpack d a b s
  | .vunpkl d a => execVunpkl d a s
  | .vunpkh d a => execVunpkh d a s
  | .fwpub n => execFwpub n s
  | _ => finish (.error s.illegal)

/-- The end of a wave: its lanes leave P; with P empty the slot leaves the clause (R140). -/
def State.waveEnd (s : State) (hdr : Dword) : State :=
  let x := s.slot s.cur
  let p := ((x.ripple).getD 0) &&& ~~~ ((x.wave).getD 0)
  if p = 0 then s.setSlot s.cur { x with ripple := none, wave := none, waves := [], waveMode := none }
  else s.setSlot s.cur { x with ripple := some p, wave := none, pc := hdr, pmode := x.waveMode, yielded := false }

/-- A wave meets a trap: it enters where the wave began, TRAPPC naming the word (R140, R352). DESIGN CHOICE (log 90): of a
wave whose earlier words others have seen, one that stalled in a `fwpub`, that a missing page or a stop interrupted, the
hardware keeps the position beside the frame, which shows the clause's header. -/
def State.waveTrap (s : State) (hdr : Dword) (start : Option State) (t : TrapInfo) : State :=
  match start with
  | some s0 =>
    let g := s0.grp
    (s0.setGrp { g with
      regs := { g.regs with consumed := s.grp.regs.consumed }
      trap := { g.trap with pending := none } }).takeTrap s.cur { t with resume := hdr }
  | none =>
    let g := s.grp
    (s.setGrp { g with trap := { g.trap with pending := some { t with resume := hdr } } }).trapEntry (gidOf s.cur)

/-- What becomes of a wave at a word that does not complete: an interlock sends the slot back to where the wave began; a
stalled `fwpub` keeps it where it stands, what it has published with it (R136, R141). -/
def State.waveBlock (s : State) (start : Option State) (b : Block) : State :=
  match start, b with
  | none, _ | _, .parked | _, .publish _ => s.blockSlot b
  | some s0, _ => s0.blockSlot b

/-- The comparator that fires on a word of a wave (R374): none where an interlock holds the word back. -/
def State.waveFires (s : State) (o : Outcome State Fault Refusal) : Option (Nat × Bool) :=
  match o with
  | .next t => match (t.slot s.cur).block with
    | some (.op _) => none
    | _ => s.comparator (gidOf s.cur) (slotNo s.cur)
  | _ => none

/-- A comparator fires in a wave, before the word: the partition stops there, or the breakpoint trap enters where the wave
began. -/
def State.waveFire (s : State) (hdr : Dword) (start : Option State) (f : Nat × Bool) : State :=
  if f.2 then s.fire (gidOf s.cur) (slotNo s.cur) f.1 true
  else s.waveTrap hdr start
    { cause := 14, tpc := (s.slot s.cur).pc, resume := hdr, word := s.word, slot := slotNo s.cur }

/-- Runs the words of the wave that the issuing slot is in, from its pc on. -/
def State.waveWords (s : State) (c : Clause) (start : Option State) : Nat → Outcome State Fault Refusal
  | 0 => .next s
  | fuel + 1 =>
    let x := s.slot s.cur
    match s.wordFate c with
    | .error (.trap t s1) =>
      (match if t.cause = 6 then none else s1.comparator (gidOf s.cur) (slotNo s.cur) with
       | some f => .next (s1.waveFire c.hdr start f)
       | none => .next (s.waveTrap c.hdr start t))
    | .error (.wait b s1) => .next (s1.waveBlock start b)
    | .ok (.runs i s1) =>
      match s1.waveFires (rippleExec i s1) with
      | some f => .next (s1.waveFire c.hdr start f)
      | none =>
        match rippleExec i s1 with
        | .next s2 =>
          let y := s2.slot s2.cur
          (match s2.grp.trap.pending with
           | some t => .next (s2.waveTrap c.hdr start t)
           | none =>
             if y.pc = x.pc && y.clause.isSome then .next (s2.waveBlock start (y.block.getD .ripple))
             else if y.clause.isNone then .next (s2.waveEnd c.hdr)
             else if s2.stepping s2.cur then .next s2
             else s2.waveWords c start fuel)
        | o => o

/-- A slot at the header of a ripple clause that reads the ports `ps`: it forms its pending set on
arrival, then runs the next wave of its round, or of a new round; one wave a step, so that traps and requests enter
between waves (R140). -/
def State.rippleAt (s : State) (ps : List Nat) : Outcome State Fault Refusal :=
  let x := s.slot s.cur
  match x.clause with
  | none => .next s
  | some c =>
    let p := (x.ripple).getD s.active
    if p = 0 then
      .next (s.setSlot s.cur { x with pc := c.next, clause := none, ripple := none, pmode := none, yielded := c.yield })
    else
      let s1 := s.setSlot s.cur { x with ripple := some p, pc := c.hdr, clause := none }
      match (s1.nextWave ps x.waves).or (s1.nextWave ps (s1.wavesOf ps p)) with
      | none => .next ((s1.setSlot s.cur { s1.slot s.cur with waves := [] }).blockSlot .ripple)
      | some (w, rest) =>
        let y := s1.slot s.cur
        let s2 := s1.setSlot s.cur { y with waves := rest, block := none }
        (s2.setSlot s.cur { s2.slot s.cur with
          wave := some w, pc := c.hdr + 4, clause := some c, waveMode := y.pmode }).waveWords c (some s2) (c.len + 1)

/-- The issuing slot goes on with its ripple clause: inside a wave that a stop interrupted, or with the next wave. -/
def State.rippleGo (s : State) : Outcome State Fault Refusal :=
  let x := s.slot s.cur
  match x.wave, x.clause with
  | some _, some c =>
    match s.clauseWords (c.hdr + 4) c.len with
    | .error e => finish (.error e)
    | .ok (_, s1) => (s1.started s.cur).waveWords c none (c.len + 1)
  | _, _ =>
    match s.enterClause with
    | .error e => finish (.error (e.started s.cur))
    | .ok (.entered s1) => .next (s1.started s.cur)
    | .ok (.ripple s1 _ ps) => (s1.started s.cur).rippleAt ps

/-- RIPPLE_ROUND: slot k of a group with a pending set runs the next wave, of a new round for the lanes that have become
available where none is left of the last (R140). -/
def execRippleRound (gid k : Nat) (s : State) : Outcome State Fault Refusal :=
  if ((s.group gid).slot k).ripple.isNone || !s.canIssue (.slot gid k) then .next s
  else ({ s with cur := .slot gid k, word := 0 }).rippleGo

end Sys2Proof.Machine
end

