-- ==== Sys2Proof/Machine/Debug.lean ====
section
/-! DEFINITION. Debug: `brk`, address comparators, samples, and the Maelub port (R353, R368 to R375). -/

namespace Sys2Proof.Machine

open Host (Outcome)

/-! ## Breakpoints (R353, R374) -/

/-- `brk`: under BRKSTOP a group of the watched context stops its partition, its pc at the word after; else a breakpoint
trap. -/
def execBrk (_n : BitVec 24) (s : State) : Outcome State Fault Refusal :=
  match s.cur with
  | .sys _ _ _ => deliberate 14 ((s.slot s.cur).pc + 4) s
  | .slot gid _ =>
    let k := (s.group gid).partKey
    let c := (s.partSt k).ctx
    if bitAt c 8 && bits c 5 0 == (s.group gid).hart.ctx then
      if s.accessInFlight then finish (.error (.wait .drain s)) else .next (s.retire.stopPart k 2 0)
    else deliberate 14 ((s.slot s.cur).pc + 4) s

/-- Nothing can hold back the next word of a group: none of its registers has a write pending, no pip is full (R28, R50). -/
def State.nothingHolds (s : State) (gid : Nat) : Bool :=
  !(s.ops.any fun e => sameHart e.2.agent (.slot gid 0) && !(e.2.pendS.isEmpty && e.2.pendV.isEmpty))
    && (s.group gid).hart.pips.all fun e => decide (e.2 < 63)

/-- ADDRESS_COMPARATOR_FIRE: slot k of a group is about to issue a word that a comparator matches, and that it can fetch.
Inside a wave the comparator fires as the wave runs. -/
def execAddressComparatorFire (gid k : Nat) (s : State) : Outcome State Fault Refusal :=
  let x := (s.group gid).slot k
  if !s.canIssue (.slot gid k) || x.wave.isSome || !s.nothingHolds gid then .next s
  else match s.comparator gid k, ({ s with cur := .slot gid k }).fetchWord x.pc with
    | some (i, stop), .ok (w, s1) => .next { { s1 with word := w }.fire gid k i stop with cur := s.cur, word := s.word }
    | _, _ => .next s

/-! ## Stall reasons and ranks (R157, R375) -/

/-- The reason a slot does not issue, by the first that applies; 12 where nothing of its own holds it. The model gives no
time to the vector pipes, and never answers 11 (log 7). -/
def State.stallReason (s : State) (gid k : Nat) : Nat :=
  let g := s.group gid
  let x := g.slot k
  let own := match x.block with
    | some (.op _) => 1
    | some .header => 2
    | some (.pip _ _) => 3
    | some (.barrier _ _) => 5
    | some (.queue _) => 6
    | some (.claim _ _) => 7
    | some (.publish _) | some .ripple => 8
    | some .parked => 10
    | some (.unit n) => if 1000 ≤ n && n < 1012 then 4 else if 2 ^ 40 ≤ n && n < 2 ^ 41 then 13 else 15
    | some (.barDone _ _) | some (.barFault _ _) | none => 12
    | some _ => 15
  if own ≤ 8 then own
  else if x.st = .wait then 9
  else if g.parked ≠ 0 then 10
  else if own ≠ 12 && own ≠ 15 then own
  else if own = 12 && s.debugAllows gid k && g.trap.pending.isNone && g.trap.escalated.isNone then 12
  else if g.hart.handler then 14
  else 15

/-- The rank of R157 of a slot, the preferred first: rules 1 to 6 as numbers. -/
def State.rank (s : State) (gid k : Nat) : List Nat :=
  let g := s.group gid
  let x := g.slot k
  let pre := g.trap.phase != .none
  let age := s.cycle - max x.lastIssue x.idleAt
  let low := (List.range 64).find? fun l => x.own.getLsbD l
  let key := match low with | some l => (g.wid l).toNat | none => 2 ^ 64
  [if g.hart.handler && !pre then 0 else 1,
   if g.hart.handler && pre then 0 else 1,
   if 4096 ≤ age then 2 ^ 64 - age else 2 ^ 64,
   if x.clause.isSome || x.ripple.isSome then 0 else 1,
   if x.yielded then 2 ^ 65 else key,
   g.gslot * 2 + k]

/-- One list of numbers stands before another. -/
def rankLess : List Nat → List Nat → Bool
  | a :: as, b :: bs => decide (a < b) || (a == b && rankLess as bs)
  | _, _ => false

/-- Inserts an agent into a list in rank order. -/
def insertByRank (x : Nat × Nat × List Nat) : List (Nat × Nat × List Nat) → List (Nat × Nat × List Nat)
  | [] => [x]
  | y :: l => if rankLess x.2.2 y.2.2 then x :: y :: l else y :: insertByRank x l

/-- The slots of a partition that are not FREE, in the order of R157. -/
def State.ranked (s : State) (part : Nat) : List (Nat × Nat) :=
  let all := (s.groupsAt part).flatMap fun e => [0, 1].filterMap fun k =>
    if (e.2.slot k).st = .free then none else some (e.1, k, s.rank e.1 k)
  (all.foldr insertByRank []).map fun x => (x.1, x.2.1)

/-! ## Samples (R375) -/

/-- The sample of a partition for a cycle that is over: the slot of the watched context that issued in it, else the first
by R157; none where no slot of that context is there. -/
def State.sampleOf (s : State) (part cycle : Nat) : Option RingRec :=
  let slots := (s.ranked part).filter fun e => (s.group e.1).hart.ctx == bits (s.partSt part).ctx 5 0
  let issued (e : Nat × Nat) : Bool := ((s.group e.1).slot e.2).lastIssue == cycle
  let named (e : Nat × Nat) (why : Nat) : RingRec :=
    let g := s.group e.1
    s.partRecord part g.gslot e.2 g.hart.ctx 1 why (g.slot e.2).pc g.wid0 cycle
  match slots.find? issued, slots with
  | some e, _ => some (named e 0)
  | none, e :: _ => some (named e (s.stallReason e.1 e.2))
  | none, [] => none

/-- The cycles up to `last` in which a sample of a partition is due and that it has not been looked at for. -/
def PartSt.due (x : PartSt) (last : Nat) : List Nat :=
  let p := 2 ^ bits x.trc 12 8
  let from_ := (x.sampled - x.sperAt) / p
  (List.range ((last - x.sperAt) / p - from_)).map fun i => x.sperAt + p * (from_ + i + 1)

/-- A partition takes the samples that are due in the cycles before the present one, unless it is stopped. -/
def State.sampled (s : State) (part : Nat) (x : PartSt) : PartSt :=
  if bits x.trc 12 8 = 0 then x
  else { x with
    sampled := s.cycle - 1
    samples := if x.stop.isSome then x.samples else x.samples ++ (x.due (s.cycle - 1)).filterMap (s.sampleOf part) }

/-- TRACE_SAMPLE: the oldest sample that a partition has taken is written to its ring. -/
def execTraceSample (part : Nat) (s : State) : Outcome State Fault Refusal :=
  let x := s.partSt part
  match x.samples with
  | [] => .next s
  | r :: rest => .next ((s.setPart part { x with samples := rest }).record r)

/-! ## Messages (R369) -/

end Sys2Proof.Machine

namespace Sys2Proof

open Machine

/-- OP. -/
def MaelubMsg.op (m : MaelubMsg) : Nat := bits m.w0 31 24
def MaelubMsg.isSys (m : MaelubMsg) : Bool := bitAt m.w1 17
def MaelubMsg.die (m : MaelubMsg) : Nat := bits m.w1 2 0
def MaelubMsg.core (m : MaelubMsg) : Nat := bits m.w1 9 3
def MaelubMsg.part (m : MaelubMsg) : Nat := bits m.w1 11 10
def MaelubMsg.gslot (m : MaelubMsg) : Nat := bits m.w1 15 12
def MaelubMsg.pslot (m : MaelubMsg) : Nat := bits m.w1 16 16

/-- A message is well formed: MAGIC, VERSION, reserved bits, the payload's length. -/
def MaelubMsg.ok (m : MaelubMsg) : Bool :=
  bits m.w0 15 0 == 0x4D4C && bits m.w0 23 16 == 1 && bits m.w1 31 18 == 0 && bits m.w1 63 32 == m.payload.length

/-- The agent that a message with SYS set names: a core of the service die, or a control core of DIE (log 17). -/
def MaelubMsg.sysAgent (m : MaelubMsg) : Agent :=
  if m.core < 16 then .sys m.pkg 8 m.core else .sys m.pkg m.die m.core

/-- A message fits into what carried it (R368). -/
def MaelubMsg.fits (m : MaelubMsg) : Bool := decide (bits m.w1 63 32 ≤ m.payload.length)

/-- n bytes of the payload at an offset, as a number. -/
def MaelubMsg.num (m : MaelubMsg) (off n : Nat) : Nat := natOfBytes ((m.payload.drop off).take n)

end Sys2Proof

namespace Sys2Proof.Machine

open Host (Outcome)

/-- What serving a message comes to: a status, what follows it, and the state; `none` where the reply comes later. -/
abbrev Served := Option (Nat × List Byte) × State

/-- A reply that changes nothing. -/
def refuse (s : State) (status : Nat) : Served := (some (status, []), s)

/-- The partition a message names, where the core is there. -/
def State.maelubPart (s : State) (m : MaelubMsg) : Option Nat :=
  if (s.coreSlice m.pkg m.die m.core 0).isSome then some (coreKey m.pkg m.die m.core * 4 + m.part) else none

/-- The group in the group slot that a message names. -/
def State.maelubGroup (s : State) (m : MaelubMsg) (part : Nat) : Option (Nat × Group) :=
  (s.groupsAt part).find? fun e => e.2.gslot == m.gslot

/-- The system-class core a message names, where it has started. -/
def State.maelubCore (s : State) (m : MaelubMsg) : Option SysCore :=
  match m.sysAgent with
  | .sys p d c => SMap.find s.cores (coreKey p d c)
  | .slot _ _ => none

/-- A STEP runs on a package: it is being served (R369). -/
def State.stepRuns (s : State) (pkg : Nat) : Bool :=
  s.parts.any (fun e => e.1 / 4 / 2048 == pkg && e.2.step.isSome)
    || s.cores.any (fun e => e.1 / 2048 == pkg && e.2.step.isSome)

/-! ## STOP, RUN, STEP (R370, R371) -/

/-- STOP. -/
def State.serveStop (s : State) (m : MaelubMsg) : Served :=
  if m.isSys then
    match s.maelubCore m with
    | none => refuse s 2
    | some k =>
      if k.stop.isSome then refuse s 3
      else
        let s1 := s.stopAgent m.sysAgent 0 0
        match s1.stopOf m.sysAgent with
        | some x => (some (0, s1.stopHeader x []), s1)
        | none => refuse s 3
  else match s.maelubPart m with
    | none => refuse s 2
    | some part =>
      if (s.partSt part).stop.isSome then refuse s 3
      else
        let s1 := s.stopPart part 0 0
        match (s1.partSt part).stop with
        | some x => (some (0, s1.stopHeader x ((s1.groupsAt part).map fun e => e.2.gslot)), s1)
        | none => refuse s 3

/-- A cycle count of a slot moved on by the cycles stopped since it (R370). -/
def shifted (now stopAt c : Nat) : Nat := c + (now - max stopAt c)

/-- A slot of a partition that goes on: stopped cycles count for nothing, and no comparator fires on its first word. -/
def Slot.resumed (x : Slot) (now stopAt : Nat) : Slot :=
  { x with since := shifted now stopAt x.since, lastIssue := shifted now stopAt x.lastIssue,
           idleAt := shifted now stopAt x.idleAt, passed := true }

/-- What has arrived of a held operation is written: of an atomic, the old codes of the requests that have completed, else
all of it. -/
def State.applyHeld (s : State) (n : Nat) : State :=
  match SMap.find s.ops n with
  | none => s
  | some o =>
    match o.kind with
    | .atomic _ _ _ _ =>
      (if o.ends.isSome then s
       else s.landOld { o with fills := o.fills.filter fun f => !o.reqs.any fun r => r.lane == f.2.1 }).completeOp n
    | _ => s.completeOp n

/-- The held operations complete, in the order their writes arrived. -/
def State.applyHold (s : State) (x : Stop) : State := x.hold.foldl State.applyHeld s

/-- The hold queue of a partition that stays stopped is applied; an operation that ends in a trap stays in it. -/
def State.flushHold (s : State) (part : Nat) (x : Stop) : State :=
  let traps (n : Nat) : Bool := match SMap.find s.ops n with
    | some o => o.ends.isSome || o.bad.isSome
    | none => false
  let s1 := (s.setPart part { s.partSt part with stop := none }).applyHold { x with hold := x.hold.filter fun n => !traps n }
  s1.setPart part { s1.partSt part with stop := some { x with hold := x.hold.filter traps } }

/-- A stopped partition goes on, for good or for a STEP. -/
def State.resumePart (s : State) (part : Nat) (x : Stop) (step : Option StepRun) : State :=
  let s1 := s.setPart part { s.partSt part with stop := none, step := step }
  let s2 := (s1.groupsAt part).foldl (fun s e =>
    let g := s.group e.1
    s.setGroup e.1 { g with slot0 := g.slot0.resumed s.cycle x.at_, slot1 := g.slot1.resumed s.cycle x.at_ }) s1
  let here (w : Workgroup) : Bool := w.groups.any fun g => (s2.group g).partKey == part
  { s2 with wgs := s2.wgs.map fun (e : Nat × Workgroup) =>
      if here e.2 then (e.1, { e.2 with stuckAt := e.2.stuckAt.map (shifted s.cycle x.at_) }) else e }.applyHold x

/-- A stopped core goes on. -/
def State.resumeCore (s : State) (a : Agent) (x : Stop) (step : Option StepRun) : State :=
  match a with
  | .slot _ _ => s
  | .sys p d c =>
    let k := s.core p d c
    (s.setCore p d c { k with stop := none, step := step, slot := k.slot.resumed s.cycle x.at_ }).applyHold x

/-- RUN. -/
def State.serveRun (s : State) (m : MaelubMsg) : Served :=
  if m.isSys then
    match s.maelubCore m with
    | none => refuse s 2
    | some k =>
      match k.stop with
      | none => refuse s 5
      | some x => (some (0, []), s.resumeCore m.sysAgent x none)
  else match s.maelubPart m with
    | none => refuse s 2
    | some part =>
      match (s.partSt part).stop with
      | none => refuse s 5
      | some x => (some (0, []), s.resumePart part x none)

/-- STEP: the slot may issue one instruction; the reply follows when the target stops again. -/
def State.serveStep (s : State) (m : MaelubMsg) (req : Option Req) : Served :=
  if m.isSys then
    match s.maelubCore m with
    | none => refuse s 2
    | some k =>
      match k.stop with
      | none => refuse s 5
      | some x =>
        if k.halted || k.waiting then refuse s 3
        else (none, s.resumeCore m.sysAgent x (some { at_ := s.cycle, msg := m, req := req }))
  else match s.maelubPart m with
    | none => refuse s 2
    | some part =>
      match (s.partSt part).stop, s.maelubGroup m part with
      | none, _ => refuse s 5
      | some _, none => refuse s 2
      | some x, some (gid, g) =>
        if (g.slot m.pslot).st = .free then refuse (s.flushHold part x) 3
        else (none, s.resumePart part x (some { gid := gid, k := m.pslot, at_ := s.cycle, msg := m, req := req }))

/-- The agent of a STEP in progress that has had 2^20 cycles. -/
def State.stepOverdue (s : State) (pkg : Nat) : Option Agent :=
  let late (r : Option StepRun) : Option StepRun := r.filter fun r => decide (r.at_ + 2 ^ 20 ≤ s.cycle)
  match s.parts.findSome? fun e => if e.1 / 4 / 2048 = pkg then late e.2.step else none with
  | some r => some (.slot r.gid r.k)
  | none => s.cores.findSome? fun e =>
      if e.1 / 2048 = pkg then (late e.2.step).map fun _ => .sys pkg (e.1 / 128 % 16) (e.1 % 128) else none

/-- MAELUB_STEP_TIMEOUT: the partition, or core, of a STEP that could not issue stops again, with STOPCODE 5. -/
def execMaelubStepTimeout (pkg : Nat) (s : State) : Outcome State Fault Refusal :=
  match s.stepOverdue pkg with
  | some a => .next (s.stopAgent a 5 0)
  | none => .next s

/-! ## DUMP (R372, R373) -/

/-- LIFE of a dump. -/
def Life.code : Life → Nat
  | .placed => 0 | .running => 1 | .draining => 2 | .saved => 3

/-- UNIT of a pending-write entry. -/
def Op.unit (o : Op) : Nat :=
  if o.entries ≠ 0 then 8
  else match o.kind with
    | .atomic _ _ _ _ => 4
    | .collective _ _ _ => 3
    | .engine => 6
    | _ => if o.far then 3 else 2

/-- The pending-write entries of an operation: one per register and beat. -/
def State.pendEntries (s : State) (n : Nat) (o : Op) (held : Bool) : List Dword :=
  let entry (reg beat : Nat) (scalar : Bool) : List Dword :=
    [o.pc, BitVec.ofNat 64 (o.unit * 2 ^ 44 + held.toNat * 2 ^ 43 + scalar.toNat * 2 ^ 42 + beat * 2 ^ 40 + reg % 256 * 2 ^ 32
      + min (s.cycle - o.at_) (2 ^ 32 - 1))]
  if n = 0 then [] else
  (o.pendS.flatMap fun r => entry r 2 true) ++ (o.pendV.flatMap fun r => entry r 0 false ++ entry r 1 false)

/-- The six words of a slot, its stall reason in bits 31:28 of the state word. -/
def State.dumpSlot (s : State) (gid k : Nat) : List Dword :=
  let x := (s.group gid).slot k
  [x.pc, x.own, x.mask, x.mp, slotWord x + BitVec.ofNat 64 (s.stallReason gid k * 2 ^ 28), (x.ripple).getD 0]

/-- The group dump record of a group of a stopped partition. -/
def State.dumpRecord (s : State) (gid : Nat) (x : Stop) : List Dword :=
  let g := s.group gid
  let pend := (s.ops.filter fun e => sameHart e.2.agent (.slot gid 0)).flatMap fun e =>
    s.pendEntries e.1 e.2 (x.hold.contains e.1)
  let n := pend.length / 2
  let head := BitVec.ofNat 64 (g.gslot % 16 + g.life.code * 2 ^ 12 + (decide (g.parked ≠ 0)).toNat * 2 ^ 14
    + g.hart.handler.toNat * 2 ^ 15 + g.regs.sliced.toNat * 2 ^ 16 + g.regs.granules % 64 * 2 ^ 18 + n % 256 * 2 ^ 24
    + (0x590 + 16 * n + 256 * g.regs.held) * 2 ^ 32)
  [head, g.wid0, g.exited, g.hart.md.setWidth 64, BitVec.ofNat 64 (pipWord g.hart (List.range 10)),
   BitVec.ofNat 64 (pipWord g.hart [10, 11])] ++ s.dumpSlot gid 0 ++ s.dumpSlot gid 1 ++ g.scalars
  ++ ((List.range 3).flatMap fun e => pairUp (g.regs.bypass e)) ++ pend
  ++ (List.range g.regs.held).flatMap fun j => pairUp (g.regs.value j)

/-- DUMP. -/
def State.serveDump (s : State) (m : MaelubMsg) : Served :=
  match if m.isSys then none else s.maelubPart m with
  | none => refuse s 2
  | some part =>
    match (s.partSt part).stop, s.maelubGroup m part with
    | none, _ => refuse s 5
    | some _, none => refuse s 2
    | some x, some (gid, _) => (some (0, bytesOf (s.dumpRecord gid x)), s)

/-! ## Memory (R369) -/

/-- The debug hardware as it reaches memory: of a context, or of none. -/
def debugWho (pkg ctx : Nat) : Who := { kind := if ctx = 0xFFFF then .core else .engine, pkg := pkg, die := 8, core := 0, ctx := ctx }

/-- Where a byte at an address of a message lies: physical or by window under CTX 0xFFFF, else as the context has it. -/
def State.debugXlate (s : State) (pkg ctx : Nat) (va : Dword) (k : AccKind) : Option (Nat × State) :=
  let w := debugWho pkg ctx
  if ctx = 0xFFFF then
    if isWindow va then
      match s.placeXlate w (va.toNat % 2 ^ 40) k with
      | .at l => some (l.key, s)
      | _ => none
    else if va.toNat < 2 ^ 49 && s.listed pkg (va.toNat / 2 ^ 39) then some (va.toNat, s) else none
  else if 64 ≤ ctx then none
  else match s.xlate w va k with
    | (.at l, s1) => some (l.key, s1)
    | _ => none

/-- The homes of n bytes from an address on. -/
def State.debugKeys (s : State) (pkg ctx : Nat) (k : AccKind) : Nat → Dword → Option (List Nat × State)
  | 0, _ => some ([], s)
  | n + 1, va => do
    let (x, s1) ← s.debugXlate pkg ctx va k
    let (xs, s2) ← s1.debugKeys pkg ctx k n (va + 1)
    some (x :: xs, s2)

/-- RDMEM. -/
def State.serveRdmem (s : State) (m : MaelubMsg) : Served :=
  let n := m.num 10 2
  if m.payload.length ≠ 12 || n = 0 || 1024 < n then refuse s 1
  else match s.debugKeys m.pkg (m.num 8 2) .read n (BitVec.ofNat 64 (m.num 0 8)) with
    | none => refuse s 4
    | some (ks, s1) =>
      let status := if ks.any fun k => (s1.gran k).poisoned then 4 else 0
      (some (status, ks.map fun k => Mem.byte s1.mem k), s1)

/-- Bytes are written at their homes in order, a whole granule of them as one (R223). -/
def State.putRun (s : State) (org : BitVec 16) : List (Nat × Byte) → Nat → State
  | [], _ | _, 0 => s
  | e :: l, fuel + 1 =>
    let block := (e :: l).take 64
    if e.1 % 64 = 0 && block.map Prod.fst == (List.range 64).map (e.1 + ·) then
      (s.putBytes e.1 64 (natOfBytes (block.map Prod.snd)) org).putRun org ((e :: l).drop 64) fuel
    else (s.putBytes e.1 1 e.2.toNat org).putRun org l fuel

/-- WRMEM: nothing is written unless every byte's address translates. -/
def State.serveWrmem (s : State) (m : MaelubMsg) : Served :=
  let n := m.num 10 2
  if m.payload.length ≠ 12 + n || n = 0 || 1024 < n then refuse s 1
  else match s.debugKeys m.pkg (m.num 8 2) .write n (BitVec.ofNat 64 (m.num 0 8)) with
    | none => refuse s 4
    | some (ks, s1) =>
      (some (0, []), s1.putRun (originOf 2 0 0xFFF) (ks.zip (m.payload.drop 12)) n)

/-! ## Registers (R369, R371) -/

/-- RDSR: as `srsr` of the core. -/
def State.serveRdsr (s : State) (m : MaelubMsg) : Served :=
  if m.payload.length ≠ 2 then refuse s 1
  else if !m.isSys || (s.maelubCore m).isNone then refuse s 2
  else match ({ s with cur := m.sysAgent }).srValue (m.num 0 2) with
    | none => refuse s 1
    | some v => (some (0, bytesOfNat 8 v.toNat), s)

/-- WRSR: as `swsr` of the core. -/
def State.serveWrsr (s : State) (m : MaelubMsg) : Served :=
  if m.payload.length ≠ 10 then refuse s 1
  else if !m.isSys || (s.maelubCore m).isNone then refuse s 2
  else match ({ s with cur := m.sysAgent }).srWrite (m.num 0 2) (BitVec.ofNat 64 (m.num 2 8)) with
    | .error _ => refuse s 1
    | .ok s1 => (some (0, []), { s1 with cur := s.cur })

/-- The lanes in which an operation may still write its vector registers. -/
def Op.writesLane (o : Op) (lane : Nat) : Bool :=
  match o.kind with
  | .load | .atomic _ _ _ _ | .collective _ _ _ =>
    o.cb.isSome || o.reqs.any (fun r => r.lane == lane) || o.fills.any (fun f => f.2.1 == lane) || o.entries != 0
  | _ => true

/-- A register of an agent has a write pending, in the lane. -/
def State.writePending (s : State) (a : Agent) (scalar : Bool) (reg lane : Nat) : Bool :=
  s.ops.any fun e => sameHart e.2.agent a
    && (if scalar then e.2.pendS.contains reg else e.2.pendV.contains reg && e.2.writesLane lane)

/-- A register of a stopped agent is written: class 0 vector, 1 scalar, 2 `md`. -/
def State.writeStopped (s : State) (a : Agent) (cls reg lane : Nat) (v : Dword) : Served :=
  let done (t : State) : Served := (some (0, []), { t with cur := s.cur })
  let t : State := { s with cur := a }
  match cls, a with
  | 0, .slot gid _ =>
    let g := s.group gid
    if g.regs.held ≤ reg || 64 ≤ lane then refuse s 1
    else if s.writePending a false reg lane || g.regs.sliced.getLsbD (lane / 32) then refuse s 3
    else done ((t.setGroup gid { g with regs := g.regs.setLane reg lane (v.setWidth 32) }).postLost gid)
  | 1, _ =>
    if 64 ≤ reg then refuse s 1
    else if s.writePending a true reg 0 then refuse s 3 else done (t.writeS (BitVec.ofNat 8 reg) v)
  | 2, _ =>
    let md : ModeWord := v.setWidth 24
    if modeOk md then done (t.setHart a { t.hart a with md := md }) else refuse s 1
  | _, _ => refuse s 1

/-- WRREG. -/
def State.serveWrreg (s : State) (m : MaelubMsg) : Served :=
  let go (a : Agent) : Served :=
    s.writeStopped a (m.num 0 1) (m.num 1 1) (m.num 2 1) (BitVec.ofNat 64 (m.num 3 8))
  if m.payload.length ≠ 11 then refuse s 1
  else if m.isSys then
    match s.maelubCore m with
    | none => refuse s 2
    | some k => if k.stop.isNone then refuse s 5 else go m.sysAgent
  else match s.maelubPart m with
    | none => refuse s 2
    | some part =>
      match (s.partSt part).stop, s.maelubGroup m part with
      | none, _ => refuse s 5
      | some _, none => refuse s 2
      | some _, some (gid, _) => go (.slot gid m.pslot)

/-! ## STATUS (R369) -/

/-- The state byte of a system-class core. -/
def State.sysStatus (s : State) (pkg die core : Nat) : Nat :=
  match SMap.find s.cores (coreKey pkg die core) with
  | none => 2
  | some k =>
    match k.stop with
    | some x => if x.code = 4 then 4 else 1
    | none => if k.halted then 2 else 0

/-- The state byte of a logical core. -/
def State.coreStatus (s : State) (pkg die core : Nat) : Nat :=
  let key := coreKey pkg die core
  let stops := (List.range 4).filterMap fun p => (s.partSt (key * 4 + p)).stop
  if (s.coreSlice pkg die core 0).isNone then 2
  else if stops.any (fun x => x.code == 4) then 4
  else if !stops.isEmpty then 1
  else if s.groups.any (fun e => e.2.resides && coreKey e.2.pkg e.2.die e.2.core == key && e.2.trap.escalated.isSome) then 3
  else 0

/-- STATUS: each die's logical cores 0 to 87 and control cores, then the service die's. -/
def State.serveStatus (s : State) (m : MaelubMsg) : Served :=
  let byte (n : Nat) : Byte := BitVec.ofNat 8 n
  let dies := (List.range 8).flatMap fun d =>
    ((List.range 88).map fun c => byte (s.coreStatus m.pkg d c)) ++ [byte (s.sysStatus m.pkg d 120), byte (s.sysStatus m.pkg d 121)]
  (some (0, dies ++ (List.range 16).map fun c => byte (s.sysStatus m.pkg 8 c)), s)

/-! ## Serving -/

/-- Serves one message. -/
def State.serve (s : State) (m : MaelubMsg) (req : Option Req) : Served :=
  let plain (x : Served) : Served := if m.payload.isEmpty then x else refuse s 1
  if !m.ok then refuse s 1
  else match m.op with
    | 1 => plain (s.serveStop m)
    | 2 => plain (s.serveRun m)
    | 3 => plain (s.serveStep m req)
    | 4 => plain (s.serveDump m)
    | 5 => s.serveRdmem m
    | 6 => s.serveWrmem m
    | 7 => s.serveRdsr m
    | 8 => s.serveWrsr m
    | 9 => s.serveWrreg m
    | 10 => plain (s.serveStatus m)
    | _ => refuse s 1

/-- A package has power, and no STEP is being served. -/
def State.maelubReady (s : State) (pkg : Nat) : Bool :=
  (match SMap.find s.pkgs pkg with | some p => p.on | none => false) && !s.stepRuns pkg

/-- Serves a message of an operation that arrives at the management port; one from a source that is no debug peer, or
that does not fit, is discarded (R368). -/
def State.maelub (s : State) (m : MaelubMsg) (op : Nat) : Outcome State Fault Refusal :=
  if m.op ≠ op || !s.maelubReady m.pkg || !m.fits || !(s.pkg m.pkg).debugPeers.contains m.src then .next s
  else match s.serve m none with
    | (none, s1) => .next s1
    | (some (status, payload), s1) => .next (s1.sendMaelub m none status payload)

/-- MAELUB_STOP. -/
def execMaelubStop (m : MaelubMsg) (s : State) : Outcome State Fault Refusal := s.maelub m 1
/-- MAELUB_RUN. -/
def execMaelubRun (m : MaelubMsg) (s : State) : Outcome State Fault Refusal := s.maelub m 2
/-- MAELUB_STEP. -/
def execMaelubStep (m : MaelubMsg) (s : State) : Outcome State Fault Refusal := s.maelub m 3
/-- MAELUB_DUMP. -/
def execMaelubDump (m : MaelubMsg) (s : State) : Outcome State Fault Refusal := s.maelub m 4
/-- MAELUB_RDMEM. -/
def execMaelubRdmem (m : MaelubMsg) (s : State) : Outcome State Fault Refusal := s.maelub m 5
/-- MAELUB_WRMEM. -/
def execMaelubWrmem (m : MaelubMsg) (s : State) : Outcome State Fault Refusal := s.maelub m 6
/-- MAELUB_RDSR. -/
def execMaelubRdsr (m : MaelubMsg) (s : State) : Outcome State Fault Refusal := s.maelub m 7
/-- MAELUB_WRSR. -/
def execMaelubWrsr (m : MaelubMsg) (s : State) : Outcome State Fault Refusal := s.maelub m 8
/-- MAELUB_WRREG. -/
def execMaelubWrreg (m : MaelubMsg) (s : State) : Outcome State Fault Refusal := s.maelub m 9
/-- MAELUB_STATUS; the port answers a message of an unknown OP here too. -/
def execMaelubStatus (m : MaelubMsg) (s : State) : Outcome State Fault Refusal :=
  if m.op = 0 || 10 < m.op then s.maelub m m.op else s.maelub m 10

end Sys2Proof.Machine
end

