-- ==== Sys2Proof/Machine/Regroup.lean ====
section
/-! DEFINITION. The regroup unit: dealing lanes into buckets and forming groups (R203 to R206). -/

namespace Sys2Proof.Machine

open Host (Outcome)

/-- The fields of a regroup descriptor (R203). -/
structure RegroupSet where
  word : Nat → Dword

namespace RegroupSet

def entry (r : RegroupSet) : Dword := r.word 0
def ncarry (r : RegroupSet) : Nat := bits (r.word 3) 4 0
def lgb (r : RegroupSet) : Nat := bits (r.word 3) 10 8
def queue (r : RegroupSet) : Nat := bits (r.word 3) 21 16
def prio (r : RegroupSet) : Nat := bits (r.word 3) 23 22
def buckets (r : RegroupSet) : Dword := r.word 4
def args (r : RegroupSet) : Dword := r.word 5
/-- CARRY byte j. -/
def carry (r : RegroupSet) (j : Nat) : Nat := bits (r.word (1 + j / 8)) (8 * (j % 8) + 7) (8 * (j % 8))
/-- The registers carried. -/
def carried (r : RegroupSet) : List Nat := (List.range r.ncarry).map r.carry
/-- The number of buckets. -/
def count (r : RegroupSet) : Nat := 2 ^ r.lgb

/-- What R203 asks of the descriptor by itself; LGB is 0 to 6. -/
def fieldsOk (r : RegroupSet) : Bool :=
  r.word 7 == 0 && bits (r.word 3) 63 24 == 0 && bits (r.word 3) 15 11 == 0 && bits (r.word 3) 7 5 == 0
    && decide (r.lgb ≤ 6) && decide (r.ncarry ≤ 16) && r.carried.all (fun c => decide (c ≤ 223))
    && (List.range 16).all (fun j => decide (j < r.ncarry) || r.carry j == 0)
    && bits r.entry 1 0 == 0 && bits r.buckets 3 0 == 0

end RegroupSet

/-- An address in slice memory of the issuing core's die (R203). -/
def State.inDie (s : State) (va : Dword) : Bool :=
  let (p, d, _) := s.placeOf s.cur
  isAlias va || (isWindow va && va.toNat % 2 ^ 40 / 2 ^ 27 == p * 8 + d)

/-- An access to the set's memory: in the die's slices, else unresolvable (R203). -/
def State.dieAccess (s : State) (va : Dword) (n align : Nat) (k : AccKind) : Except Exc (Loc × State) :=
  if va.toNat % align ≠ 0 then .error (s.trapAt 5 va)
  else if !s.inDie va then .error (s.trapAt 6 va)
  else s.scalarAccess va n align k (k == .rmw)

/-- The descriptor at an address, its checks made (R204, R205). -/
def State.regroupSet (s : State) (va : Dword) : Except Exc (RegroupSet × Loc × State) := do
  let (l, s1) ← s.dieAccess va 64 64 .read
  s1.cleanAt l va 64
  let x := s1.bytesAt l.key 64
  let r : RegroupSet := { word := dwordOf x }
  let pkg := s.pkgOf s.cur
  let ctx := s.ctxOf s.cur
  guardRes (r.fieldsOk && s.queueOpen pkg ctx (64 + r.queue) && s.prioOk pkg ctx (64 + r.queue) r.prio) (s1.trapAt 1 va)
  .ok (r, l, s1)

/-- COUNT and BUSY of a bucket entry's first word. -/
def bucketCount (w : Dword) : Nat := bits w 6 0
def bucketBusy (w : Dword) : Bool := bitAt w 7

/-- Forms a group from a bucket (R206): FORMED counts up, the group queues, or waits while its queue is full. -/
def State.formGroup (s : State) (r : RegroupSet) (desc bucket : Nat) (stage : List Nat) (q lanes : Nat) : State :=
  let (p, die, _) := s.placeOf s.cur
  let ctx := s.ctxOf s.cur
  let (id, s) := s.fresh
  let s := s.putBytes (desc + 0x30) 8 (s.bytesAt (desc + 0x30) 8 + 1) s.scalarOrigin
  let k := streamKey p ctx (64 + r.queue) r.prio
  let room := s.hasRoom p ctx (64 + r.queue)
  let f : Formed :=
    { entry := r.entry, args := r.args, die := die, key := q, lanes := lanes, ncarry := r.ncarry, bucket := bucket,
      stage := stage, stream := k, waits := !room, know := s.message bucket }
  let s := { s with formed := SMap.put s.formed id f, race := { s.race with msgs := SMap.erase s.race.msgs bucket } }
  if room then s.append k (.formed id) else s

/-- The homes of n blocks of 256 bytes from an address on, each in a unit of the context in the die's slices (R203, R210). -/
def State.stageBlocks (s : State) (va : Dword) : Nat → Except Exc (List Nat × State)
  | 0 => .ok ([], s)
  | n + 1 =>
    if !s.inDie va then .error (s.trapAt 6 va)
    else match s.xlate s.thread va .write with
      | (.at l, s1) => do
        let (ks, s2) ← s1.stageBlocks (va + 256) n
        .ok (l.key :: ks, s2)
      | _ => .error (s.trapAt 6 va)

/-- The staging area at STAGE: aligned, all of it in the die's slices. DESIGN CHOICE (log 35): its accesses are the unit's:
the step on the bucket orders them, and they are no event of R250. -/
def State.stageArea (s : State) (r : RegroupSet) (st : Dword) : Except Exc (List Nat × State) := do
  guardRes (decide (st.toNat % 256 = 0)) (s.trapAt 5 st)
  s.stageBlocks st (r.ncarry + 2)

/-- The lane words of the carried registers, as `rgdeal` reads them at its issue. -/
def State.carriedWords (s : State) (r : RegroupSet) : List (List Word) := r.carried.map s.grp.regs.value

/-- The staging writes of one lane at bucket position i (R204). -/
def State.stageLane (s : State) (r : RegroupSet) (words : List (List Word)) (stage : List Nat) (lane i : Nat) : State :=
  let s := (words.zipIdx).foldl (fun s c =>
    s.putBytes (stagedAt stage (256 * c.2 + 4 * i)) 4 (c.1.getD lane 0).toNat s.scalarOrigin) s
  s.putBytes (stagedAt stage (256 * r.ncarry + 8 * i)) 8 (s.grp.wid lane).toNat s.scalarOrigin

/-- The descriptor that an instruction has read. -/
def Deal.set (x : Deal) : RegroupSet := { word := dwordOf x.desc }

/-- An exception after some lanes were dealt: a trap records them, a wait keeps them, and what the instruction has read
(R50, R204). -/
def Exc.withDone (x : Deal) (dealt : Lanes) : Exc → Exc
  | .trap t s => .trap { t with done := t.done ||| dealt } s
  | .wait b s => .wait b (s.setSlot s.cur { s.slot s.cur with done := (s.slot s.cur).done ||| dealt, deal := some x })

/-- Deals one lane, or says why it cannot. -/
def State.dealLane (s : State) (x : Deal) (lane : Nat) : Res :=
  let r := x.set
  let q := x.keys.getD lane 0
  let ea := r.buckets + BitVec.ofNat 64 (16 * q)
  s.atomicStep ea 0 fun s => do
  let (e, s1) ← s.dieAccess ea 16 16 .rmw
  s1.cleanAt e ea 16
  let w : Dword := BitVec.ofNat 64 (s1.bytesAt e.key 8)
  guardRes (!bucketBusy w) (.wait (.bucket e.key) s)
  let st : Dword := BitVec.ofNat 64 (s1.bytesAt (e.key + 8) 8)
  let (m, s2) ← s1.stageArea r st
  let i := bucketCount w % 64
  let s3 := (s2.stageLane r x.words m lane i).post e.key s2.slotKnowledge
  if i = 63 then
    .ok ((s3.putBytes e.key 1 0x80 s3.scalarOrigin).formGroup r x.home e.key m q 64)
  else .ok (s3.putBytes e.key 1 (i + 1) s3.scalarOrigin)

/-- Deals lanes in ascending order; what was dealt before an exception stays dealt. -/
def State.dealAll (s : State) (x : Deal) (dealt : Lanes) : List Nat → Res
  | [] => .ok s
  | lane :: rest =>
    match s.dealLane x lane with
    | .ok s' => s'.dealAll x (dealt ||| (1#64 <<< lane)) rest
    | .error e => .error (e.withDone x dealt)

/-- What `rgdeal` reads at its issue, its checks made (R204). -/
def State.dealRead (s : State) (d a b : BitVec 8) : Except Exc (Deal × State) := do
  s.vcheck [(a, 32)] none [d, b] s.acting
  let (r, desc, s1) ← s.regroupSet (s.readS b)
  s1.needRegs r.carried
  s1.need [] r.carried
  s1.needClean r.carried s.acting
  let keys := (List.range 64).map fun l => (s.vsrc a l).toNat
  .ok ({ desc := s1.bytesAt desc.key 64, home := desc.key, active := s.active
         left_ := lanesOf ((lanesList s.acting).filter fun l => decide (r.count ≤ keys.getD l 0))
         keys := keys, words := s1.carriedWords r }, s1)

/-- `rgdeal` (R204): lanes whose key names no bucket stay; the others are dealt and end. One that has waited goes on with
what it read at its issue. DESIGN CHOICE (log 13): one that a trap or a pre-emption interrupts reads it again. -/
def execRgdeal (d a b : BitVec 8) (s : State) : Outcome State Fault Refusal :=
  let pc := (s.slot s.cur).pc
  finish do
    let (x, s1) ← match (s.slot s.cur).deal with
      | some x => .ok (x, s)
      | none => s.dealRead d a b
    let gone := x.active &&& ~~~ x.left_
    let s2 ← s1.dealAll x 0 (lanesList (gone &&& ~~~ (s.slot s.cur).done))
    let s3 := ((s2.writeS d x.left_).retire).endLanes (gidOf s.cur) gone
    if gone ≠ 0 && (s3.slot s.cur).own == 0 then
      .ok ((s3.setSlot s.cur {}).examined s.cur pc s.word)
    else .ok s3

/-- Closes bucket q (R205): 1 where a group was formed from it. -/
def State.closeOne (s : State) (x : Deal) (q : Nat) : Except Exc (Nat × State) :=
  let r := x.set
  let ea := r.buckets + BitVec.ofNat 64 (16 * q)
  do
  let (e, s1) ← s.dieAccess ea 16 16 .rmw
  s1.cleanAt e ea 16
  let w : Dword := BitVec.ofNat 64 (s1.bytesAt e.key 8)
  guardRes (!bucketBusy w) (.wait (.bucket e.key) s)
  let c := bucketCount w
  if c = 0 then .ok (0, s1)
  else
    let (m, s2) ← s1.stageArea r (BitVec.ofNat 64 (s1.bytesAt (e.key + 8) 8))
    let s3 ← s2.atomicStep ea 0 fun s2 =>
      .ok ((s2.putBytes e.key 1 0x80 s2.scalarOrigin).formGroup r x.home e.key m q c)
    .ok (1, s3)

/-- An exception of an `rgclose` that has closed q buckets and formed n groups: it keeps that, and while it waits what it
has read (R50, R205). -/
def Exc.closing (x : Deal) (q n : Nat) : Exc → Exc
  | .trap t s => .trap t (s.setSlot s.cur { s.slot s.cur with closed := (q, n) })
  | .wait b s => .wait b (s.setSlot s.cur { s.slot s.cur with closed := (q, n), deal := some x })

/-- Closes the buckets from q on, each once and in order, n groups formed before; a busy one is waited for (R205). -/
def State.closeFrom (s : State) (x : Deal) : Nat → Nat → Nat → Except Exc (Nat × State)
  | _, n, 0 => .ok (n, s)
  | q, n, fuel + 1 =>
    match s.closeOne x q with
    | .error e => .error (e.closing x q n)
    | .ok (m, s1) => s1.closeFrom x (q + 1) (n + m) fuel

/-- What `rgclose` reads at its issue, its checks made (R205). -/
def State.closeRead (s : State) (d a : BitVec 8) : Except Exc (Deal × State) := do
  s.need [d, a]
  let (r, desc, s1) ← s.regroupSet (s.readS a)
  s1.needRegs r.carried
  .ok ({ desc := s1.bytesAt desc.key 64, home := desc.key }, s1)

/-- `rgclose` (R205). DESIGN CHOICE (log 13): one that a trap or a pre-emption interrupts keeps the buckets it has closed
and the groups it has counted, and reads its descriptor again. -/
def execRgclose (d a : BitVec 8) (s : State) : Outcome State Fault Refusal :=
  finish do
    let (x, s1) ← match (s.slot s.cur).deal with
      | some x => .ok (x, s)
      | none => s.closeRead d a
    let (q, n) := (s.slot s.cur).closed
    let (m, s2) ← s1.closeFrom x q n (x.set.count - q)
    .ok ((s2.writeS d (BitVec.ofNat 64 m)).retire)

end Sys2Proof.Machine
end

