-- ==== Sys2Proof/Machine/Requests.lean ====
section
/-! DEFINITION. The request protocol: the ports' part and what the resident service does for each request (R399 to
R402). -/

namespace Sys2Proof.Machine

open Host (Outcome)

/-! ## Port arrivals (R222, R378, R402) -/

/-- A core, or the launches, of a context of a package replay: live arrivals are discarded. -/
def State.underReplay (s : State) (pkg ctx : Nat) : Bool :=
  bits (s.ctxReg pkg ctx 0x14B) 1 0 == 2
    || s.cores.any fun e => e.1 / 2048 == pkg && e.2.hart.ctx == ctx && bits (SMap.get e.2.srs 0x149 0) 1 0 == 2

/-- A core of a context of a package records its inputs. -/
def State.recording (s : State) (pkg ctx : Nat) : Bool :=
  s.cores.any fun e => e.1 / 2048 == pkg && e.2.hart.ctx == ctx && bits (SMap.get e.2.srs 0x149 0) 1 0 == 1

/-- A port as it reaches memory of a context. -/
def portWho (pkg ctx : Nat) : Who := ringWho (coreKey pkg 8 0) ctx

/-- A list of bytes in the pieces that lie in one granule each, with their addresses. -/
def portPieces (va : Dword) (l : List Byte) : Nat → List (Dword × List Byte)
  | 0 => []
  | fuel + 1 =>
    if l.isEmpty then []
    else
      let n := 64 - va.toNat % 64
      (va, l.take n) :: portPieces (va + BitVec.ofNat 64 n) (l.drop n) fuel

/-- Translates pieces for writing; none where one does not translate. -/
def State.placePieces (s : State) (w : Who) : List (Dword × List Byte) → Option (List (Nat × List Byte) × State)
  | [] => some ([], s)
  | (va, l) :: rest =>
    match s.xlate w va .write with
    | (.at x, s1) => (s1.placePieces w rest).map fun r => ((x.key, l) :: r.1, r.2)
    | _ => none

/-- Writes bytes at an address of a context, whole or not at all. -/
def State.writeWhole (s : State) (w : Who) (va : Dword) (l : List Byte) (origin : BitVec 16) : Option State :=
  (s.placePieces w (portPieces va l (l.length / 64 + 2))).map fun r =>
    r.1.foldl (fun s e => s.putBytes e.1 e.2.length (natOfBytes e.2) origin) r.2

/-- A byte of a range is in a logged range of a context. -/
def State.loggedPart (s : State) (pkg ctx : Nat) (va : Dword) (n : Nat) : Bool :=
  (List.range n).any fun i => s.logged pkg ctx (va + BitVec.ofNat 64 i)

/-- An arrival at a port lands in a context, unless it is under replay; with a byte in a logged range it is kept for the
log. -/
def State.portArrival (s : State) (pkg ctx port : Nat) (va : Dword) (l : List Byte) : Option State :=
  if s.underReplay pkg ctx then some s
  else (s.writeWhole (portWho pkg ctx) va l (originOf 3 0 port)).map fun s1 =>
    if s1.loggedPart pkg ctx va l.length && s1.recording pkg ctx then
      let c := s1.ctx pkg ctx
      s1.setCtx pkg ctx { c with arrivals := c.arrivals ++ [(va, l)] }
    else s1

/-- Reads n bytes at an address of a context as a port or the service does; none where an address does not translate
or a granule is poisoned. -/
def State.portRead (s : State) (w : Who) (va : Dword) : Nat → Option (List Byte × State)
  | 0 => some ([], s)
  | n + 1 =>
    match s.xlate w va .read with
    | (.at l, s1) =>
      if (s1.gran l.key).poisoned then none
      else (s1.portRead w (va + 1) n).map fun r => (Mem.byte s1.mem l.key :: r.1, r.2)
    | _ => none

/-- The request ring has a free slot. -/
def Pkg.ringRoom (p : Pkg) : Bool := decide ((p.reg 0x184 - p.reg 0x183).toNat < 256)

/-- Writes a request into the ring (R402); under replay it is discarded (R378). None where the slot does not translate. -/
def State.ringRequest (s : State) (pkg port : Nat) (bytes : List Byte) : Option State :=
  let p := s.pkg pkg
  let va := p.reg 0x182 + BitVec.ofNat 64 (4096 * ((p.reg 0x184).toNat % 256))
  if s.underReplay pkg 0 then some s
  else (s.portArrival pkg 0 port va (bytes.take 4096)).map fun s1 =>
    (s1.setPkg pkg ((s1.pkg pkg).setReg 0x184 (p.reg 0x184 + 1))).wakeSys pkg 3

/-- A message arrives at one of the 8 ports (R3) from a peer that the service image lists (R399). -/
def Pkg.admits (p : Pkg) (src port : Nat) : Bool := p.peers.contains src && decide (port < 8)

/-- REQUEST_SLOT_WRITE: a request arrives from a peer at a port and waits its turn; while a slot is free the oldest that
waits is written. READ and WRITE are not written; a message of another peer, or with a wrong MAGIC, is discarded (R399).
With no bytes, nothing arrives. -/
def execRequestSlotWrite (x : Arrival) (bytes : List Byte) (s : State) : Outcome State Fault Refusal :=
  match SMap.find s.pkgs x.pkg with
  | none => .next s
  | some p =>
    let w := natOfBytes (bytes.take 8)
    let op := w / 2 ^ 24 % 256
    let real := 64 ≤ bytes.length && w % 2 ^ 16 == 0x5152 && op != 8 && op != 9 && p.admits x.src x.port
    if !p.on then .next s
    else
      let q := p.waitingReqs ++ if real then [(x.port, bytes)] else []
      if p.ringRoom then
        match q with
        | [] => .next s
        | r :: rest => .next (((s.setPkg x.pkg { p with waitingReqs := rest }).ringRequest x.pkg r.1 r.2).getD
            (s.setPkg x.pkg { p with waitingReqs := q }))
      else .next (s.setPkg x.pkg { p with waitingReqs := q })

/-! ## Replies -/

/-- What serving a request comes to. -/
structure Reply where
  status : Nat := 0
  arg0 : Dword := 0
  arg1 : Dword := 0
  payload : List Byte := []
  state : State

/-- A reply with a status that changes nothing. -/
def State.deny (s : State) (status : Nat) : Reply := { status := status, state := s }

/-- A request is served: the next of its flow has its turn (R399). -/
def State.tookTurn (s : State) (r : Req) : State :=
  match r.flow with
  | none => s
  | some (f, n) => let p := s.pkg r.pkg; s.setPkg r.pkg { p with flows := SMap.set p.flows f (n + 1) 0 }

/-- The reply leaves. -/
def Reply.out (x : Reply) (r : Req) : Outcome State Fault Refusal :=
  .next ((x.state.tookTurn r).send r.pkg 2 (reqReply r x.status r.ctx r.key x.arg0 x.arg1 x.payload))

/-- The turn of a request has come: those that arrived before it on its ROD flow are served; on a RUD flow any order does
(R399). -/
def Pkg.turn (p : Pkg) (r : Req) : Bool :=
  match r.flow with | none => true | some (f, n) => SMap.get p.flows f 0 == n

/-- The service of a package runs, and the request comes from a peer that it serves, at a port, in its turn, with the MAGIC
of a request (R399). -/
def State.serving (s : State) (r : Req) : Bool :=
  r.magic == 0x5152 &&
    match SMap.find s.pkgs r.pkg with | some p => p.on && p.booted && p.admits r.src r.port && p.turn r | none => false

/-- The header is a request's: VERSION 1, reserved bits zero (R399). -/
def wellFormedReq (r : Req) : Bool := r.version == 1 && r.reserved == 0

/-- A request carries the key of an open context other than the service's own. -/
def State.keyed (s : State) (r : Req) : Bool :=
  let c := s.ctx r.pkg r.ctx
  decide (r.ctx < 64) && r.ctx != 0 && c.opened && c.key == r.key

/-- A request of an operation is served: with a malformed header STATUS 1, without the key of its context STATUS 3. -/
def State.request (s : State) (r : Req) (op : Nat) (f : Reply) : Outcome State Fault Refusal :=
  if r.op.toNat ≠ op || !s.serving r then .next s
  else if !(wellFormedReq r) then (s.deny 1).out r
  else if s.keyed r then f.out r else (s.deny 3).out r

/-- The packages of a request's context that have power. -/
def State.reqMembers (s : State) (r : Req) : List Nat := (s.ctx r.pkg r.ctx).members.filter s.powered

/-! ## Package lists (R401) -/

/-- The list in a field: none where it is malformed. -/
def packageList (v : Dword) (payload : List Byte) : Option (List Nat) :=
  if bitAt v 63 then
    let n := bits v 47 32
    let off := bits v 31 0
    if bits v 62 48 ≠ 0 || n = 0 || 1024 < n || off % 2 ≠ 0 || payload.length < off + 2 * n then none
    else
      let l := (List.range n).map fun i => natOfBytes ((payload.drop (off + 2 * i)).take 2)
      if l.Nodup && l.all (fun p => decide (p < 1024)) then some l else none
  else
    let first := bits v 9 0
    let count := bits v 25 16
    if bits v 62 26 ≠ 0 || bits v 15 10 ≠ 0 || 1023 < first + count then none
    else some ((List.range (count + 1)).map (first + ·))

/-- Every package of a list has a route, and power. -/
def State.reachable (s : State) (pkg : Nat) (l : List Nat) : Bool := l.all fun p => s.listed pkg p && s.powered p

/-! ## DRAM that the service gives out -/

/-- The pages of a die. -/
def dieFirst (pkg die : Nat) : Nat := pkg * 2 ^ 23 + die * 2 ^ 20

/-- The first n pages not given out among `fuel` pages from one on, going round within a die of 2^20 pages. -/
def takePages (used : SMap Nat) (base at_ : Nat) : Nat → Nat → List Nat
  | _, 0 => []
  | 0, _ => []
  | n + 1, fuel + 1 =>
    let p := base + at_ % 2 ^ 20
    if (SMap.find used p).isSome then takePages used base (at_ + 1) (n + 1) fuel
    else p :: takePages used base (at_ + 1) n fuel

/-- How a package that a context is not open on marks the pages it serves it with: by the context's first package. -/
def foreignOwner (c : Ctx) (ctx : Nat) : Nat := (c.members.headD 0 + 1) * 64 + ctx

/-- Gives n pages of a die of a package to a context; none where the die lacks them. -/
def State.givePages (s : State) (pkg die ctx n : Nat) : Option (List Nat × State) :=
  let p := s.pkg pkg
  let l := takePages p.pages (dieFirst pkg die) (Config.freePage s.free) n (2 ^ 20)
  if l.length = n then
    some (l, ({ s with free := s.free + 1 }).setPkg pkg { p with pages := l.foldl (fun m x => SMap.put m x ctx) p.pages })
  else none

/-- Zeros over n bytes at a key: a page for tables. -/
def State.zeroRange (s : State) (key n : Nat) : State :=
  { s with
    mem := s.mem.filter fun e => decide (e.1 < key) || decide (key + n ≤ e.1)
    grans := s.grans.filter fun e => decide (e.1 < key / 64) || decide ((key + n) / 64 ≤ e.1) }

/-- A zeroed page for page tables of a context, as its address. -/
def State.giveTable (s : State) (pkg ctx : Nat) : Option (Nat × State) :=
  (s.givePages pkg (Config.freeDie s.free % 8) ctx 1).bind fun r =>
    r.1.head?.map fun p => (p * 2 ^ 16, r.2.zeroRange (p * 2 ^ 16) (2 ^ 16))

/-! ## Page tables (R214, R215) -/

/-- RS of the service's root tables: 2^21 entries in 256 pages, aligned to their size. -/
def rootSize : Nat := 21

/-- A zeroed root table for a context, as its address. -/
def State.giveRoot (s : State) (pkg ctx : Nat) : Option (Nat × State) :=
  let p := s.pkg pkg
  let base := dieFirst pkg (Config.freeDie s.free % 8)
  let free (i : Nat) : Bool := (List.range 256).all fun j => (SMap.find p.pages (base + 256 * i + j)).isNone
  (((List.range 4096).map fun i => (Config.freePage s.free + i) % 4096).find? free).map fun i =>
    let first := base + 256 * i
    let pages := (List.range 256).foldl (fun m j => SMap.put m (first + j) ctx) p.pages
    (first * 2 ^ 16, (({ s with free := s.free + 1 }).setPkg pkg { p with pages := pages }).zeroRange (first * 2 ^ 16) (2 ^ 24))

/-- Writes an entry of a page table. -/
def State.putEntry (s : State) (key : Nat) (e : Nat) : State := s.putBytes key 8 e (originOf 1 8 0)

/-- The place of an entry. -/
def entryPlace (table va level : Nat) : Nat := table + 8 * (va / 2 ^ levelShift level % 2 ^ levelBits rootSize level)

/-- The root table of a context of a package. -/
def State.rootOf (s : State) (pkg ctx : Nat) : Nat := (s.ctx pkg ctx).root.toNat / 256 * 256

/-- The table of level 3 that covers an address, made where it is missing. -/
def State.leafTable (s : State) (pkg ctx table va : Nat) : Nat → Option (Nat × State)
  | 0 => some (table, s)
  | n + 1 =>
    let k := entryPlace table va (2 - n)
    let e := s.bytesAt k 8
    if e % 2 = 1 then s.leafTable pkg ctx (e / 256 * 256) va n
    else (s.giveTable pkg ctx).bind fun r => (r.2.putEntry k (r.1 + 1)).leafTable pkg ctx r.1 va n

/-- Maps one page of a context of a package. -/
def State.mapPage (s : State) (pkg ctx va page flags : Nat) : Option State :=
  (s.leafTable pkg ctx (s.rootOf pkg ctx) va 3).map fun r => r.2.putEntry (entryPlace r.1 va 3) (page * 2 ^ 16 + flags + 3)

/-- Maps pages in order from an address on. -/
def State.mapPages (s : State) (pkg ctx va flags : Nat) : List Nat → Option State
  | [] => some s
  | p :: ps => (s.mapPage pkg ctx va p flags).bind fun s1 => s1.mapPages pkg ctx (va + 2 ^ 16) flags ps

/-- The place of the entry that maps a page of a context, where the tables reach it. -/
def State.leafPlace (s : State) (table va : Nat) : Nat → Option Nat
  | 0 => some (entryPlace table va 3)
  | n + 1 =>
    let e := s.bytesAt (entryPlace table va (2 - n)) 8
    if e % 2 = 1 then s.leafPlace (e / 256 * 256) va n else none

/-- Removes the mapping of one page of a context; its DRAM may be given out again. -/
def State.unmapPage (s : State) (pkg ctx va : Nat) : State :=
  match s.leafPlace (s.rootOf pkg ctx) va 3 with
  | none => s
  | some k =>
    let e := s.bytesAt k 8
    if e % 2 = 1 then
      let page := e % 2 ^ 49 / 2 ^ 16
      let p := s.pkg (page / 2 ^ 23)
      (s.setPkg (page / 2 ^ 23) { p with pages := SMap.erase p.pages page }).putEntry k 0
    else s

/-- Discards the buffered translations of a context on a package that cover a part of a range (R218). -/
def State.flushRange (s : State) (pkg ctx va len : Nat) : State :=
  { s with buffered := s.buffered.filter fun e =>
      let size := 2 ^ levelShift e.2.level
      let base := e.1 % 2 ^ 41 * 2 ^ 16 / size * size
      !(e.1 / 2 ^ 41 == pkg * 64 + ctx && decide (base < va + len) && decide (va < base + size)) }

/-- Every package of a list, in order; none where one lacks something. -/
def State.onAll (s : State) (f : State → Nat → Option State) : List Nat → Option State
  | [] => some s
  | p :: ps => (f s p).bind fun s1 => s1.onAll f ps

/-! ## OPEN, CLOSE -/

/-- Opens a context on one package, with an empty root table. -/
def State.openOn (s : State) (ctx : Nat) (key : BitVec 58) (members : List Nat) (pkg : Nat) : Option State :=
  (s.giveRoot pkg ctx).map fun r =>
    r.2.setCtx pkg ctx { opened := true, key := key, members := members, root := BitVec.ofNat 64 (r.1 + rootSize) }

/-- OPEN: the status, and the context opened with its key. -/
def State.serveOpen (s : State) (r : Req) : Nat × Nat × BitVec 58 × State :=
  match packageList r.arg0 r.payload with
  | none => (1, r.ctx, r.key, s)
  | some l =>
    let c := (List.range 64).find? fun c => c != 0 && l.all fun p => !(s.ctx p c).opened
    let key := Config.contextKey s.free
    match if s.reachable r.pkg l then c else none with
    | none => (4, r.ctx, r.key, s)
    | some c =>
      match ({ s with free := s.free + 1 }).onAll (fun s p => s.openOn c key l p) l with
      | none => (4, r.ctx, r.key, s)
      | some s1 => (0, c, key, s1)

/-- REQ_OPEN: the reply carries CTX and KEY; the service answers a request of an unknown OP here too, with STATUS 2. -/
def execReqOpen (r : Req) (s : State) : Outcome State Fault Refusal :=
  if !s.serving r then .next s
  else if 1 < r.op.toNat && r.op.toNat ≤ 0x11 then .next s
  else if !(wellFormedReq r) then (s.deny 1).out r
  else if r.op.toNat ≠ 1 then (s.deny 2).out r
  else
    let (status, ctx, key, s1) := s.serveOpen r
    .next ((s1.tookTurn r).send r.pkg 2 (reqReply r status ctx key 0 0 []))

/-- What a package holds for a context is gone. -/
def State.endContext (s : State) (pkg ctx : Nat) : State :=
  let mine (p c : Nat) : Bool := p == pkg && c == ctx
  let key := pkg * 64 + ctx
  let ofWg (w : Nat) : Bool := match SMap.find s.wgs w with | some x => mine x.pkg x.ctx | none => false
  let ofGroup (g : Nat) : Bool := match SMap.find s.groups g with | some x => mine x.pkg x.hart.ctx | none => false
  let ofAgent (a : Agent) : Bool := match a with | .slot g _ => ofGroup g | .sys _ _ _ => false
  let p := s.pkg pkg
  let s1 := s.setPkg pkg { p with
    pages := p.pages.filter fun e => e.2 != ctx
    waits := p.waits.filter fun w => w.req.ctx != ctx
    numbers := p.numbers.filter fun e => e.1 / 2 ^ 64 != ctx }
  ({ s1 with
    ctxs := SMap.erase s1.ctxs key
    units := s1.units.filter fun e => !(e.1 / 2 ^ 20 == pkg && e.2.ctx == ctx)
    buffered := s1.buffered.filter fun e => e.1 / 2 ^ 41 != key
    groups := s1.groups.filter fun e => !mine e.2.pkg e.2.hart.ctx
    wgs := s1.wgs.filter fun e => !mine e.2.pkg e.2.ctx
    launches := s1.launches.filter fun e => !mine e.2.pkg e.2.ctx
    formed := s1.formed.filter fun e => e.2.stream / 512 != key
    patterns := s1.patterns.filter fun e => !(e.1 / 64 / 2048 == pkg && e.2.ctx == ctx)
    boards := s1.boards.map fun (e : Nat × Board) => if e.1 / 2048 != pkg then e else (e.1, { e.2 with
      owners := e.2.owners.filter fun o => o.2 != ctx
      bits := e.2.bits.filter fun b => SMap.find e.2.owners b.1 != some ctx
      triggers := e.2.triggers.filter fun t => t.2.ctx != ctx
      failed := e.2.failed.filter fun f => f.2 != ctx })
    chains := s1.chains.filter fun e => !mine e.2.pkg e.2.ctx
    cmds := s1.cmds.filter fun e => !mine e.2.pkg e.2.ctx
    posts := s1.posts.filter fun e => match SMap.find s1.cmds e.2.cmd with | some c => !mine c.pkg c.ctx | none => false
    tensors := s1.tensors.filter fun e => e.1 / 4096 != key
    tiles := s1.tiles.filter fun e => !mine e.2.pkg e.2.ctx
    dominoes := s1.dominoes.map fun (e : Nat × Domino) => if e.1 / 1024 != pkg then e else (e.1, { e.2 with
      slots := e.2.slots.filter fun x => !ofWg x.2.wg
      accs := e.2.accs.filter fun x => !ofWg x.2.wg
      queue := e.2.queue.filter fun m => m.ctx != ctx })
    streams := s1.streams.filter fun e => e.1 / 512 != key
    rotation := s1.rotation.filter fun k => k / 512 != key
    ops := s1.ops.filter fun e => !ofAgent e.2.agent
    faults := s1.faults.filter fun e => !mine e.pkg e.ctx }).answerWaits

/-- REQ_CLOSE: ends the context on its packages. -/
def execReqClose (r : Req) (s : State) : Outcome State Fault Refusal :=
  let s1 := (s.reqMembers r).foldl (fun s p => s.endContext p r.ctx) s
  let foreign := foreignOwner (s.ctx r.pkg r.ctx) r.ctx
  s.request r 2 { state := { s1 with pkgs := s1.pkgs.map fun (e : Nat × Pkg) =>
    (e.1, { e.2 with pages := e.2.pages.filter fun x => x.2 != foreign }) } }

/-! ## MAP, UNMAP, LOAD -/

/-- The range of a request is whole pages below 2^57. -/
def reqRangeOk (r : Req) : Bool :=
  r.addr.toNat % 2 ^ 16 == 0 && r.len.toNat % 2 ^ 16 == 0 && r.len != 0 && decide (r.addr.toNat + r.len.toNat ≤ 2 ^ 57)

/-- Flushes the range of a request on every package of its context. -/
def State.flushAll (s : State) (r : Req) : State :=
  (s.reqMembers r).foldl (fun s p => s.flushRange p r.ctx r.addr.toNat r.len.toNat) s

/-- MAP: from any package of the domain. -/
def State.serveMap (s : State) (r : Req) : Reply :=
  let home := r.arg1.toNat
  if !reqRangeOk r || r.arg0 &&& ~~~ 0x5C ≠ 0 || r.arg2.toNat / 16 ≠ 0 then s.deny 1
  else if !s.reachable r.pkg [home] then s.deny 4
  else
    let die := if bitAt r.arg2 3 then bits r.arg2 2 0 else Config.freeDie s.free % 8
    let s1 := if bitAt r.arg2 3 then s else { s with free := s.free + 1 }
    let all := (s1.givePages home die (if (s.reqMembers r).contains home then r.ctx else foreignOwner (s.ctx r.pkg r.ctx) r.ctx) (r.len.toNat / 2 ^ 16)).bind fun x =>
      x.2.onAll (fun s p => s.mapPages p r.ctx r.addr.toNat r.arg0.toNat x.1) (s.reqMembers r)
    match all with
    | none => s.deny 4
    | some s2 => { state := s2.flushAll r }

/-- REQ_MAP. -/
def execReqMap (r : Req) (s : State) : Outcome State Fault Refusal := s.request r 3 (s.serveMap r)

/-- UNMAP. -/
def State.serveUnmap (s : State) (r : Req) : Reply :=
  if !reqRangeOk r then s.deny 1
  else
    let pages := (List.range (r.len.toNat / 2 ^ 16)).map fun i => r.addr.toNat + 2 ^ 16 * i
    let s1 := (s.reqMembers r).foldl (fun s p => pages.foldl (fun s va => s.unmapPage p r.ctx va) s) s
    { state := s1.flushAll r }

/-- REQ_UNMAP. -/
def execReqUnmap (r : Req) (s : State) : Outcome State Fault Refusal := s.request r 4 (s.serveUnmap r)

/-- Writes the sections of an image on one package. -/
def State.placeSections (s : State) (pkg ctx : Nat) : List (Dword × List Byte) → Option State
  | [] => some s
  | (va, l) :: rest => (s.writeWhole (portWho pkg ctx) va l (originOf 1 8 0)).bind fun s1 => s1.placeSections pkg ctx rest

/-- LOAD. -/
def State.serveLoad (s : State) (r : Req) : Reply :=
  match s.portRead (portWho r.pkg r.ctx) r.addr r.len.toNat with
  | none => s.deny 6
  | some (image, s1) =>
    match Config.loadImage image with
    | none => s.deny 1
    | some (sections, launches) =>
      match s1.onAll (fun s p => s.placeSections p r.ctx sections) (s.reqMembers r) with
      | none => s.deny 6
      | some s2 => { payload := bytesOf launches, state := s2 }

/-- REQ_LOAD. -/
def execReqLoad (r : Req) (s : State) : Outcome State Fault Refusal := s.request r 5 (s.serveLoad r)

/-! ## QUEUE, LAUNCH, WAIT, QUANTUM -/

/-- Opens a queue of a context on a package. -/
def State.openQueue (s : State) (pkg ctx q : Nat) (x : Queue) : State :=
  let c := s.ctx pkg ctx
  s.setCtx pkg ctx { c with queues := SMap.put c.queues q x }

/-- QUEUE. -/
def State.serveQueue (s : State) (r : Req) : Reply :=
  if r.arg0 &&& ~~~ 0x13F ≠ 0 || r.arg1.toNat / 16 ≠ 0 || 65536 < r.arg2.toNat then s.deny 1
  else
    let x : Queue := { cap := if r.arg2 = 0 then 1024 else r.arg2.toNat, prios := r.arg1.setWidth 4 }
    let q := bits r.arg0 5 0 + 64 * bits r.arg0 8 8
    { state := (s.reqMembers r).foldl (fun s p => s.openQueue p r.ctx q x) s }

/-- REQ_QUEUE. -/
def execReqQueue (r : Req) (s : State) : Outcome State Fault Refusal := s.request r 6 (s.serveQueue r)

/-- The launches of a request: package k of the list creates the groups with f_j = k. -/
def launchesOf (l : Launch) (j : Nat) (pkgs : List Nat) : List Launch :=
  (pkgs.zipIdx).map fun e => { l with pkg := e.1, part := some (j, e.2) }

/-- Enqueues the launches of a request: the first holds the items of all. -/
def State.enqueueAll (s : State) (ls : List Launch) : State :=
  let first := s.nextId
  (ls.zipIdx).foldl (fun s e => s.enqueue { e.1 with root := if e.2 = 0 then none else some first }) s

/-- The key of a launch number of a context. -/
def numberKey (ctx n : Nat) : Nat := ctx * 2 ^ 64 + n

/-- The header of a request, and its port defaults. -/
def State.readHeader (s : State) (r : Req) : Option (Launch × State) :=
  let w := portWho r.pkg r.ctx
  if r.addr.toNat % 128 ≠ 0 then none
  else (s.portRead w r.addr 128).bind fun x =>
    let l := mkLaunch r.pkg r.ctx (natOfBytes x.1) (List.replicate 8 0) r.arg0 []
    if l.word 0x60 = 0 || !(List.range 8).any l.portOn then some (l, x.2)
    else if (l.word 0x60).toNat % 4 ≠ 0 then none
    else (x.2.portRead w (l.word 0x60) 32).map fun y =>
      ({ l with defaults := (List.range 8).map fun i => BitVec.ofNat 32 (natOfBytes ((y.1.drop (4 * i)).take 4)) }, y.2)

/-- LAUNCH: nothing is queued unless every package accepts. -/
def State.serveLaunch (s : State) (r : Req) : Reply :=
  let j := r.arg2.toNat
  match packageList r.arg1 r.payload with
  | none => s.deny 1
  | some pkgs =>
    if !(3 ≤ j && j ≤ 5) then s.deny 1
    else if !s.reachable r.pkg pkgs then s.deny 4
    else match s.readHeader r with
      | none => s.deny 6
      | some (l, s1) =>
        if l.extent j ≠ pkgs.length then s.deny 1
        else
          let ls := launchesOf l j pkgs
          match (ls.zipIdx).find? fun e => s1.headerStatus e.1 != 0 with
          | some (x, k) =>
            { status := 5, arg0 := BitVec.ofNat 64 (s1.headerStatus x), arg1 := BitVec.ofNat 64 k, state := s }
          | none =>
            let taken := pkgs.map fun p => (p, (s1.ctx p r.ctx).lseq + 1)
            let n := (taken.headD (0, 0)).2
            let s2 := s1.enqueueAll ls
            let p := s2.pkg r.pkg
            { arg0 := BitVec.ofNat 64 n
              state := s2.setPkg r.pkg { p with numbers := SMap.put p.numbers (numberKey r.ctx n) taken } }

/-- REQ_LAUNCH. -/
def execReqLaunch (r : Req) (s : State) : Outcome State Fault Refusal := s.request r 7 (s.serveLaunch r)

/-- REQ_WAIT: the reply follows once every group of the launch is RELEASED on every package it listed. -/
def execReqWait (r : Req) (s : State) : Outcome State Fault Refusal :=
  let p := s.pkg r.pkg
  match SMap.find p.numbers (numberKey r.ctx r.arg0.toNat) with
  | none => s.request r 14 (s.deny 1)
  | some l =>
    let w : WaitReq := { req := r, launches := l }
    let known := s.serving r && wellFormedReq r && r.op == 14 && s.keyed r
    if known && !s.waitOver w then .next ((s.setPkg r.pkg { p with waits := p.waits ++ [w] }).tookTurn r)
    else s.request r 14 { state := s }

/-- QUANTUM. -/
def State.serveQuantum (s : State) (r : Req) : Reply :=
  if bits r.arg0 63 15 ≠ 0 || 2 ^ 40 < r.arg1.toNat then s.deny 1
  else
    let q := 64 * bits r.arg0 6 6 + bits r.arg0 12 7
    { state := (s.reqMembers r).foldl
        (fun s p => s.setQuantum (streamKey p r.ctx q (bits r.arg0 14 13)) r.arg1.toNat) s }

/-- REQ_QUANTUM. -/
def execReqQuantum (r : Req) (s : State) : Outcome State Fault Refusal := s.request r 17 (s.serveQuantum r)

/-! ## READ, WRITE, FMT -/

/-- READ. -/
def State.serveRead (s : State) (r : Req) : Reply :=
  match s.portRead (portWho r.pkg r.ctx) r.addr r.len.toNat with
  | none => s.deny 6
  | some (l, s1) => { payload := l, state := s1 }

/-- REQ_READ: served by the port. -/
def execReqRead (r : Req) (s : State) : Outcome State Fault Refusal := s.request r 8 (s.serveRead r)

/-- WRITE. -/
def State.serveWrite (s : State) (r : Req) : Reply :=
  if r.len.toNat ≠ r.payload.length then s.deny 1
  else match s.portArrival r.pkg r.ctx r.port r.addr r.payload with
    | none => s.deny 6
    | some s1 => { state := s1 }

/-- REQ_WRITE: served by the port; the payload lands with origin KIND 3. -/
def execReqWrite (r : Req) (s : State) : Outcome State Fault Refusal := s.request r 9 (s.serveWrite r)

/-- FMT: an index below 16, or a record that R76 rejects, is refused with the detail word of R77. -/
def State.serveFmt (s : State) (r : Req) : Reply :=
  let k := r.arg0.toNat
  let check := if r.arg1 = 0 then 0 else checkRecord r.arg1
  if 32 ≤ k then s.deny 1
  else if k < 16 || check ≠ 0 then
    { status := 5, arg0 := fmtDetail (if k < 16 then 0 else check) 2 k, state := s }
  else
    { state := (s.reqMembers r).foldl (fun s p =>
        let c := s.ctx p r.ctx
        s.setCtx p r.ctx { c with fmts := SMap.set c.fmts k r.arg1 0 }) s }

/-- REQ_FMT. -/
def execReqFmt (r : Req) (s : State) : Outcome State Fault Refusal := s.request r 10 (s.serveFmt r)

/-! ## RESERVE, SUSPEND, DEBUG -/

/-- RESERVE: the k highest-numbered dominoes of each die (R393). -/
def State.serveReserve (s : State) (r : Req) : Reply :=
  if 44 < r.arg0.toNat then s.deny 1
  else { state := s.setPkg r.pkg { s.pkg r.pkg with reserved := r.arg0.toNat } }

/-- REQ_RESERVE. -/
def execReqReserve (r : Req) (s : State) : Outcome State Fault Refusal := s.request r 11 (s.serveReserve r)

/-- SUSPEND: PREEMPT with RESUME = ARG0 on every package (R359). -/
def State.serveSuspend (s : State) (r : Req) : Reply :=
  if 1 < r.arg0.toNat then s.deny 1
  else { state := (s.reqMembers r).foldl (fun s p =>
      stateOf s (if r.arg0 = 1 then execContextResume p r.ctx s else execContextSuspend p r.ctx s)) s }

/-- REQ_SUSPEND. -/
def execReqSuspend (r : Req) (s : State) : Outcome State Fault Refusal := s.request r 12 (s.serveSuspend r)

/-- The Maelub message in a request. -/
def maelubOf (r : Req) : MaelubMsg :=
  { pkg := r.pkg, w0 := BitVec.ofNat 64 (natOfBytes (r.payload.take 8)),
    w1 := BitVec.ofNat 64 (natOfBytes ((r.payload.drop 8).take 8)), payload := r.payload.drop 16 }

/-- REQ_DEBUG: carries a Maelub message and returns its reply; it waits while a STEP is served. DESIGN CHOICE (log 65): a
message that does not fit is discarded (R368), and its request malformed. -/
def execReqDebug (r : Req) (s : State) : Outcome State Fault Refusal :=
  let m := maelubOf r
  if r.payload.length < 16 || !m.fits then s.request r 13 (s.deny 1)
  else if wellFormedReq r && s.keyed r then
    if r.op != 13 || !s.serving r || !s.maelubReady r.pkg then .next s
    else match s.serve m (some r) with
      | (none, s1) => .next (s1.tookTurn r)
      | (some (status, payload), s1) => s.request r 13 { payload := maelubReply m status payload, state := s1 }
  else s.request r 13 (s.deny 3)

/-! ## SLICE, BOARD -/

/-- The window address of a unit. -/
def windowOf (pkg die core unit : Nat) : Dword :=
  BitVec.ofNat 64 (0xF000 * 2 ^ 40 + pkg * 2 ^ 30 + die * 2 ^ 27 + core * 2 ^ 20 + 1024 * unit)

/-- SLICE: tags and zeroes units on package ARG1. -/
def State.serveSlice (s : State) (r : Req) : Reply :=
  let p := r.arg1.toNat
  let v := r.arg0
  if !unitSelOk v || r.arg2.toNat / 2 ≠ 0 || !(s.reqMembers r).contains p then s.deny 1
  else match s.tagSelected p v (some { ctx := r.ctx, race := bitAt r.arg2 0 }) true with
    | none => s.deny 4
    | some s1 => { arg0 := windowOf p (unitDie v) (unitCore v) (unitFirst v), state := s1 }

/-- REQ_SLICE. -/
def execReqSlice (r : Req) (s : State) : Outcome State Fault Refusal := s.request r 15 (s.serveSlice r)

/-- BOARD: allots a window on package ARG1. -/
def State.serveBoard (s : State) (r : Req) : Reply :=
  let p := r.arg1.toNat
  let v := r.arg0
  let owner := SMap.find (s.board (coreKey p (unitDie v) (unitCore v))).owners (bits v 11 10)
  if !boardSelOk v || !(s.reqMembers r).contains p then s.deny 1
  else if owner.isSome && owner != some r.ctx then s.deny 4
  else match s.allotWindow p v (some r.ctx) with
    | none => s.deny 4
    | some s1 => { state := s1 }

/-- REQ_BOARD. -/
def execReqBoard (r : Req) (s : State) : Outcome State Fault Refusal := s.request r 16 (s.serveBoard r)

end Sys2Proof.Machine
end

