-- ==== Sys2Proof/Machine/ScalarFloat.lean ====
section
/-! DEFINITION. Modes, format entries and scalar floating point (R98 to R112). -/

namespace Sys2Proof.Machine

open Host (Outcome)

/-! ## Modes (R98 to R100) -/

/-- md := x for a value `md` accepts (R37, R98). -/
def State.setMd (s : State) (m : ModeWord) : State := s.setHart s.cur { s.hart s.cur with md := m }

def execSetmode (x : BitVec 24) (s : State) : Outcome State Fault Refusal :=
  finish do
    guardRes (modeOk x) s.illegal
    .ok (s.setMd x).retire

/-- `modeone`: it uses up a pending mode, then sets its own (R99). -/
def execModeone (x : BitVec 24) (s : State) : Outcome State Fault Refusal :=
  finish do
    guardRes (modeOk x) s.illegal
    let s1 := s.retire
    .ok (s1.setSlot s.cur { s1.slot s.cur with pmode := some x })

def execRdmode (d : BitVec 8) (s : State) : Outcome State Fault Refusal :=
  finish (scalarOp d [] (fun s => s.mode.setWidth 64) s)

def execWrmode (a : BitVec 8) (s : State) : Outcome State Fault Refusal :=
  finish do
    s.need [a]
    let m : ModeWord := (s.readS a).setWidth 24
    guardRes (modeOk m) s.illegal
    .ok (s.setMd m).retire

/-! ## Format entries (R101 to R104) -/

/-- Writes entry k of the issuing context's table on the issuing package (R101, R105). -/
def State.setFmt (s : State) (k : Nat) (x : Dword) : State :=
  let p := s.pkgOf s.cur
  let c := s.ctxOf s.cur
  let y := s.ctx p c
  s.setCtx p c { y with fmts := SMap.set y.fmts k x 0 }

/-- `fmtset` (R101). Matrix operations capture their entries as they issue, so the wait of R104 is over at once. -/
def execFmtset (a b : BitVec 8) (s : State) : Outcome State Fault Refusal :=
  finish do
    s.need [a, b]
    let k := bits (s.readS a) 4 0
    let x := s.readS b
    guardRes (16 ≤ k) (s.fmtFault 2 k 0)
    guardRes (x == 0 || checkRecord x == 0) (s.fmtFault 2 k (checkRecord x))
    .ok (s.setFmt k x).retire

def execFmtget (d a : BitVec 8) (s : State) : Outcome State Fault Refusal :=
  finish (scalarOp d [a] (fun s => s.fmtHere (bits (s.readS a) 4 0)) s)

/-! ## Scalar floating point (R106 to R112) -/

/-- An entry that is the fp32 or the fp64 record (R77 reason 3, R106). DESIGN CHOICE (log 33): for an entry of kind 1, 2 or
3 both reason 1 and reason 3 of R77 apply; the fault gives 3. -/

def State.scalarFmt (s : State) (k : Nat) : Except Exc Fmt :=
  let r := s.fmtHere k
  if r = recFp32 || r = recFp64 then .ok (fmtOf r)
  else if bitAt r 63 then .error (s.fmtFault 3 k) else .error (s.fmtFault 0 k)

/-- The value of scalar register n under a format (R106). -/
def State.sval (s : State) (f : Fmt) (n : BitVec 8) : Val := readOperand f ((s.readS n).toNat % 2 ^ f.w)

/-- An arithmetic instruction: RM = 5 illegal, SF and DF fp32 or fp64, the result rounded once. -/
def sfArith (d : BitVec 8) (srcs : List (BitVec 8)) (f : Fmt → ModeWord → List Val → Nat) (s : State) :
    Outcome State Fault Refusal :=
  finish do
    s.need (d :: srcs)
    s.needRound
    let sf ← s.scalarFmt (mdSF s.mode)
    let df ← s.scalarFmt (mdDF s.mode)
    .ok ((s.writeS d (BitVec.ofNat 64 (f df s.mode (srcs.map (s.sval sf))))).retire)

def sfRound (srcs : List (BitVec 8)) (op : Nat → List Val → Val) (d : BitVec 8) (s : State) :
    Outcome State Fault Refusal :=
  sfArith d srcs (fun df md l => roundMode df md (op (mdRM md) l)) s

def execSfadd (d a b : BitVec 8) (s : State) : Outcome State Fault Refusal :=
  sfRound [a, b] (fun rm l => addVal rm (argVal l 0) (argVal l 1)) d s
def execSfsub (d a b : BitVec 8) (s : State) : Outcome State Fault Refusal :=
  sfRound [a, b] (fun rm l => subVal rm (argVal l 0) (argVal l 1)) d s
def execSfmul (d a b : BitVec 8) (s : State) : Outcome State Fault Refusal :=
  sfRound [a, b] (fun _ l => mulVal (argVal l 0) (argVal l 1)) d s
def execSffma (d a b : BitVec 8) (s : State) : Outcome State Fault Refusal :=
  sfRound [a, b, d] (fun rm l => fmaVal rm (argVal l 0) (argVal l 1) (argVal l 2)) d s
def execSfdiv (d a b : BitVec 8) (s : State) : Outcome State Fault Refusal :=
  sfRound [a, b] (fun _ l => divVal (argVal l 0) (argVal l 1)) d s
def execSfmin (d a b : BitVec 8) (s : State) : Outcome State Fault Refusal :=
  sfRound [a, b] (fun _ l => minMaxVal false (argVal l 0) (argVal l 1)) d s
def execSfmax (d a b : BitVec 8) (s : State) : Outcome State Fault Refusal :=
  sfRound [a, b] (fun _ l => minMaxVal true (argVal l 0) (argVal l 1)) d s
def execSfsqrt (d a : BitVec 8) (s : State) : Outcome State Fault Refusal :=
  sfRound [a] (fun _ l => sqrtVal (argVal l 0)) d s
def execSfexp2 (d a : BitVec 8) (s : State) : Outcome State Fault Refusal :=
  sfArith d [a] (fun df md l => elemFun df md (exp2Val (argVal l 0))) s

/-- The relation code of R109. -/
def relationCode (x y : Val) : Dword :=
  if x.isNan || y.isNan then 8
  else match cmpVal x y with
    | .eq => 1
    | .lt => 2
    | .gt => 4

def execSfcmp (d a b : BitVec 8) (s : State) : Outcome State Fault Refusal :=
  finish do
    s.need [d, a, b]
    let sf ← s.scalarFmt (mdSF s.mode)
    .ok ((s.writeS d (relationCode (s.sval sf a) (s.sval sf b))).retire)

/-- The class of a code of an `ieee` format (R110). -/
def classBit (f : Fmt) (c : Nat) : Nat :=
  let neg := decide (c / 2 ^ (f.fw + f.ew) % 2 = 1)
  match readFloat f c with
  | .nan _ _ _ => if c / 2 ^ (f.fw - 1) % 2 = 1 then 9 else 8
  | .inf n => if n then 0 else 7
  | .fin _ m _ _ =>
    if m = 0 then (if neg then 3 else 4)
    else if isSubnormal f c then (if neg then 2 else 5) else (if neg then 1 else 6)

def execSfclass (d a : BitVec 8) (s : State) : Outcome State Fault Refusal :=
  finish do
    s.need [d, a]
    let sf ← s.scalarFmt (mdSF s.mode)
    .ok ((s.writeS d (1#64 <<< classBit sf ((s.readS a).toNat % 2 ^ sf.w))).retire)

/-- `sfcvt`: any entries of kinds 0 to 2; a signed integer result is sign-extended from bit W−1 (R111). -/
def execSfcvt (d a : BitVec 8) (s : State) : Outcome State Fault Refusal :=
  finish do
    s.need [d, a]
    let sf ← s.sf [0, 1, 2]
    let df ← s.df [0, 1, 2]
    let c := convert sf df s.mode ((s.readS a).toNat % 2 ^ sf.c)
    .ok ((s.writeS d (BitVec.ofNat 64 (if df.kind = 1 then extendCode df 64 c else c))).retire)

end Sys2Proof.Machine
end

