-- ==== Sys2Proof/Machine/Dispatch.lean ====
section
/-! DEFINITION. The dispatch: one arm for every row of the opcode table, each a direct call of its meaning. -/

namespace Sys2Proof.Machine

open Host (Outcome)

/-- The meaning of an instruction or event in a state. -/
def exec (i : Instr) (s : State) : Host.Outcome State Fault Refusal :=
  match i with
  | .nop => Sys2Proof.Machine.execNop s
  | .br o => Sys2Proof.Machine.execBr o s
  | .bz d o => Sys2Proof.Machine.execBz d o s
  | .bnz d o => Sys2Proof.Machine.execBnz d o s
  | .bltz d o => Sys2Proof.Machine.execBltz d o s
  | .bgez d o => Sys2Proof.Machine.execBgez d o s
  | .call o => Sys2Proof.Machine.execCall o s
  | .jr a => Sys2Proof.Machine.execJr a s
  | .callr a => Sys2Proof.Machine.execCallr a s
  | .bsplit a x => Sys2Proof.Machine.execBsplit a x s
  | .bmerge => Sys2Proof.Machine.execBmerge s
  | .bany d o => Sys2Proof.Machine.execBany d o s
  | .ball d o => Sys2Proof.Machine.execBall d o s
  | .exit => Sys2Proof.Machine.execExit s
  | .waitc n t => Sys2Proof.Machine.execWaitc n t s
  | .trap n => Sys2Proof.Machine.execTrap n s
  | .sadd d a b => Sys2Proof.Machine.execSadd d a b s
  | .ssub d a b => Sys2Proof.Machine.execSsub d a b s
  | .smul d a b => Sys2Proof.Machine.execSmul d a b s
  | .smulh d a b => Sys2Proof.Machine.execSmulh d a b s
  | .smulhn d a b => Sys2Proof.Machine.execSmulhn d a b s
  | .sdiv d a b => Sys2Proof.Machine.execSdiv d a b s
  | .sdivn d a b => Sys2Proof.Machine.execSdivn d a b s
  | .srem d a b => Sys2Proof.Machine.execSrem d a b s
  | .sremn d a b => Sys2Proof.Machine.execSremn d a b s
  | .sand d a b => Sys2Proof.Machine.execSand d a b s
  | .sor d a b => Sys2Proof.Machine.execSor d a b s
  | .sxor d a b => Sys2Proof.Machine.execSxor d a b s
  | .sshl d a b => Sys2Proof.Machine.execSshl d a b s
  | .sshr d a b => Sys2Proof.Machine.execSshr d a b s
  | .ssar d a b => Sys2Proof.Machine.execSsar d a b s
  | .ssel d a b => Sys2Proof.Machine.execSsel d a b s
  | .sli d imm => Sys2Proof.Machine.execSli d imm s
  | .slih d imm => Sys2Proof.Machine.execSlih d imm s
  | .slit d x => Sys2Proof.Machine.execSlit d x s
  | .saddi d a imm => Sys2Proof.Machine.execSaddi d a imm s
  | .sandi d a imm => Sys2Proof.Machine.execSandi d a imm s
  | .sshli d a n => Sys2Proof.Machine.execSshli d a n s
  | .sshri d a n => Sys2Proof.Machine.execSshri d a n s
  | .ssari d a n => Sys2Proof.Machine.execSsari d a n s
  | .seq d a b => Sys2Proof.Machine.execSeq d a b s
  | .slt d a b => Sys2Proof.Machine.execSlt d a b s
  | .sltn d a b => Sys2Proof.Machine.execSltn d a b s
  | .smin d a b => Sys2Proof.Machine.execSmin d a b s
  | .smax d a b => Sys2Proof.Machine.execSmax d a b s
  | .sclz d a => Sys2Proof.Machine.execSclz d a s
  | .spopc d a => Sys2Proof.Machine.execSpopc d a s
  | .sbfx d a b => Sys2Proof.Machine.execSbfx d a b s
  | .sld8 d a imm => Sys2Proof.Machine.execSld8 d a imm s
  | .sld16 d a imm => Sys2Proof.Machine.execSld16 d a imm s
  | .sld32 d a imm => Sys2Proof.Machine.execSld32 d a imm s
  | .sld64 d a imm => Sys2Proof.Machine.execSld64 d a imm s
  | .sst8 d a imm => Sys2Proof.Machine.execSst8 d a imm s
  | .sst16 d a imm => Sys2Proof.Machine.execSst16 d a imm s
  | .sst32 d a imm => Sys2Proof.Machine.execSst32 d a imm s
  | .sst64 d a imm => Sys2Proof.Machine.execSst64 d a imm s
  | .sldx d a b => Sys2Proof.Machine.execSldx d a b s
  | .sstx d a b => Sys2Proof.Machine.execSstx d a b s
  | .srsr d n => Sys2Proof.Machine.execSrsr d n s
  | .swsr d n => Sys2Proof.Machine.execSwsr d n s
  | .splace d a b => Sys2Proof.Machine.execSplace d a b s
  | .sfadd d a b => Sys2Proof.Machine.execSfadd d a b s
  | .sfmul d a b => Sys2Proof.Machine.execSfmul d a b s
  | .sffma d a b => Sys2Proof.Machine.execSffma d a b s
  | .vadd d a b => Sys2Proof.Machine.execVadd d a b s
  | .vsub d a b => Sys2Proof.Machine.execVsub d a b s
  | .vmul d a b => Sys2Proof.Machine.execVmul d a b s
  | .vmulh d a b => Sys2Proof.Machine.execVmulh d a b s
  | .vmad d a b => Sys2Proof.Machine.execVmad d a b s
  | .vdiv d a b => Sys2Proof.Machine.execVdiv d a b s
  | .vrem d a b => Sys2Proof.Machine.execVrem d a b s
  | .vmin d a b => Sys2Proof.Machine.execVmin d a b s
  | .vmax d a b => Sys2Proof.Machine.execVmax d a b s
  | .vand d a b => Sys2Proof.Machine.execVand d a b s
  | .vor d a b => Sys2Proof.Machine.execVor d a b s
  | .vxor d a b => Sys2Proof.Machine.execVxor d a b s
  | .vshl d a b => Sys2Proof.Machine.execVshl d a b s
  | .vshr d a b => Sys2Proof.Machine.execVshr d a b s
  | .vpopc d a => Sys2Proof.Machine.execVpopc d a s
  | .vclz d a => Sys2Proof.Machine.execVclz d a s
  | .vfadd d a b => Sys2Proof.Machine.execVfadd d a b s
  | .vfsub d a b => Sys2Proof.Machine.execVfsub d a b s
  | .vfmul d a b => Sys2Proof.Machine.execVfmul d a b s
  | .vffma d a b => Sys2Proof.Machine.execVffma d a b s
  | .vffms d a b => Sys2Proof.Machine.execVffms d a b s
  | .vfdiv d a b => Sys2Proof.Machine.execVfdiv d a b s
  | .vfsqrt d a => Sys2Proof.Machine.execVfsqrt d a s
  | .vfmin d a b => Sys2Proof.Machine.execVfmin d a b s
  | .vfmax d a b => Sys2Proof.Machine.execVfmax d a b s
  | .vfexp2 d a => Sys2Proof.Machine.execVfexp2 d a s
  | .vflog2 d a => Sys2Proof.Machine.execVflog2 d a s
  | .vfrcp d a => Sys2Proof.Machine.execVfrcp d a s
  | .vfrsq d a => Sys2Proof.Machine.execVfrsq d a s
  | .vfabs d a => Sys2Proof.Machine.execVfabs d a s
  | .vfscale d a b => Sys2Proof.Machine.execVfscale d a b s
  | .vfdp2 d a b => Sys2Proof.Machine.execVfdp2 d a b s
  | .vcmpeq d a b => Sys2Proof.Machine.execVcmpeq d a b s
  | .vcmpne d a b => Sys2Proof.Machine.execVcmpne d a b s
  | .vcmplt d a b => Sys2Proof.Machine.execVcmplt d a b s
  | .vcmple d a b => Sys2Proof.Machine.execVcmple d a b s
  | .vcmpun d a b => Sys2Proof.Machine.execVcmpun d a b s
  | .vsel d a b => Sys2Proof.Machine.execVsel d a b s
  | .vcvt d a p => Sys2Proof.Machine.execVcvt d a p s
  | .vmov d a => Sys2Proof.Machine.execVmov d a s
  | .vbcast d a b => Sys2Proof.Machine.execVbcast d a b s
  | .vli d imm => Sys2Proof.Machine.execVli d imm s
  | .vlit d x => Sys2Proof.Machine.execVlit d x s
  | .vget d a b => Sys2Proof.Machine.execVget d a b s
  | .vput d a b => Sys2Proof.Machine.execVput d a b s
  | .vpack d a b => Sys2Proof.Machine.execVpack d a b s
  | .vunpkl d a => Sys2Proof.Machine.execVunpkl d a s
  | .vunpkh d a => Sys2Proof.Machine.execVunpkh d a s
  | .setmode x => Sys2Proof.Machine.execSetmode x s
  | .modeone x => Sys2Proof.Machine.execModeone x s
  | .rdmode d => Sys2Proof.Machine.execRdmode d s
  | .wrmode a => Sys2Proof.Machine.execWrmode a s
  | .fmtset a b => Sys2Proof.Machine.execFmtset a b s
  | .fmtget d a => Sys2Proof.Machine.execFmtget d a s
  | .sfsub d a b => Sys2Proof.Machine.execSfsub d a b s
  | .sfdiv d a b => Sys2Proof.Machine.execSfdiv d a b s
  | .sfmin d a b => Sys2Proof.Machine.execSfmin d a b s
  | .sfmax d a b => Sys2Proof.Machine.execSfmax d a b s
  | .sfcmp d a b => Sys2Proof.Machine.execSfcmp d a b s
  | .sfcvt d a => Sys2Proof.Machine.execSfcvt d a s
  | .sfexp2 d a => Sys2Proof.Machine.execSfexp2 d a s
  | .sfsqrt d a => Sys2Proof.Machine.execSfsqrt d a s
  | .sfclass d a => Sys2Proof.Machine.execSfclass d a s
  | .vshfl d a b => Sys2Proof.Machine.execVshfl d a b s
  | .vshup d a n => Sys2Proof.Machine.execVshup d a n s
  | .vshdn d a n => Sys2Proof.Machine.execVshdn d a n s
  | .vxorsh d a n => Sys2Proof.Machine.execVxorsh d a n s
  | .vballot d a => Sys2Proof.Machine.execVballot d a s
  | .vscan d a c => Sys2Proof.Machine.execVscan d a c s
  | .vred d a c => Sys2Proof.Machine.execVred d a c s
  | .vtopk d a k => Sys2Proof.Machine.execVtopk d a k s
  | .vxpat d a t => Sys2Proof.Machine.execVxpat d a t s
  | .xpld d a b => Sys2Proof.Machine.execXpld d a b s
  | .rgdeal d a b => Sys2Proof.Machine.execRgdeal d a b s
  | .rgclose d a => Sys2Proof.Machine.execRgclose d a s
  | .vcompact d a => Sys2Proof.Machine.execVcompact d a s
  | .vexpand d a => Sys2Proof.Machine.execVexpand d a s
  | .vld d a b => Sys2Proof.Machine.execVld d a b s
  | .vst d a b => Sys2Proof.Machine.execVst d a b s
  | .vld2 d a b => Sys2Proof.Machine.execVld2 d a b s
  | .vst2 d a b => Sys2Proof.Machine.execVst2 d a b s
  | .vlds d a b => Sys2Proof.Machine.execVlds d a b s
  | .vsts d a b => Sys2Proof.Machine.execVsts d a b s
  | .vldt d a b => Sys2Proof.Machine.execVldt d a b s
  | .vstt d a b => Sys2Proof.Machine.execVstt d a b s
  | .vldq d a b => Sys2Proof.Machine.execVldq d a b s
  | .vstq d a b => Sys2Proof.Machine.execVstq d a b s
  | .vpfx n a b => Sys2Proof.Machine.execVpfx n a b s
  | .vatadd d a b => Sys2Proof.Machine.execVatadd d a b s
  | .vatmin d a b => Sys2Proof.Machine.execVatmin d a b s
  | .vatmax d a b => Sys2Proof.Machine.execVatmax d a b s
  | .vatand d a b => Sys2Proof.Machine.execVatand d a b s
  | .vator d a b => Sys2Proof.Machine.execVator d a b s
  | .vatxor d a b => Sys2Proof.Machine.execVatxor d a b s
  | .vatxchg d a b => Sys2Proof.Machine.execVatxchg d a b s
  | .vatcas d a b => Sys2Proof.Machine.execVatcas d a b s
  | .vradd d a b => Sys2Proof.Machine.execVradd d a b s
  | .vrmin d a b => Sys2Proof.Machine.execVrmin d a b s
  | .vrmax d a b => Sys2Proof.Machine.execVrmax d a b s
  | .barinit d a b => Sys2Proof.Machine.execBarinit d a b s
  | .bararr d a b => Sys2Proof.Machine.execBararr d a b s
  | .barwait d a b => Sys2Proof.Machine.execBarwait d a b s
  | .fence c => Sys2Proof.Machine.execFence c s
  | .gfence => Sys2Proof.Machine.execGfence s
  | .rclaim d n => Sys2Proof.Machine.execRclaim d n s
  | .rgive d n => Sys2Proof.Machine.execRgive d n s
  | .rslice => Sys2Proof.Machine.execRslice s
  | .rquery d => Sys2Proof.Machine.execRquery d s
  | .fwpub n => Sys2Proof.Machine.execFwpub n s
  | .fwend m => Sys2Proof.Machine.execFwend m s
  | .cpush d a => Sys2Proof.Machine.execCpush d a s
  | .cjoin d a => Sys2Proof.Machine.execCjoin d a s
  | .qpush d a b => Sys2Proof.Machine.execQpush d a b s
  | .qpop d a => Sys2Proof.Machine.execQpop d a s
  | .launch d a b => Sys2Proof.Machine.execLaunch d a b s
  | .oclaim d a => Sys2Proof.Machine.execOclaim d a s
  | .orel a => Sys2Proof.Machine.execOrel a s
  | .ofill d a b => Sys2Proof.Machine.execOfill d a b s
  | .ofillv d a b => Sys2Proof.Machine.execOfillv d a b s
  | .mma d a b => Sys2Proof.Machine.execMma d a b s
  | .mmas d a b => Sys2Proof.Machine.execMmas d a b s
  | .mmar d a b => Sys2Proof.Machine.execMmar d a b s
  | .mmaz d a b => Sys2Proof.Machine.execMmaz d a b s
  | .oread d a b => Sys2Proof.Machine.execOread d a b s
  | .owrite d a b => Sys2Proof.Machine.execOwrite d a b s
  | .ostore d a b => Sys2Proof.Machine.execOstore d a b s
  | .mtest n => Sys2Proof.Machine.execMtest n s
  | .mfence => Sys2Proof.Machine.execMfence s
  | .orec d a b => Sys2Proof.Machine.execOrec d a b s
  | .eappend d a b => Sys2Proof.Machine.execEappend d a b s
  | .eseq d a => Sys2Proof.Machine.execEseq d a s
  | .relay d a b => Sys2Proof.Machine.execRelay d a b s
  | .tdesc d a => Sys2Proof.Machine.execTdesc d a s
  | .tquery d a b => Sys2Proof.Machine.execTquery d a b s
  | .tfree d a => Sys2Proof.Machine.execTfree d a s
  | .trig d a b => Sys2Proof.Machine.execTrig d a b s
  | .tbset a b => Sys2Proof.Machine.execTbset a b s
  | .tbclr a b => Sys2Proof.Machine.execTbclr a b s
  | .tbread d a => Sys2Proof.Machine.execTbread d a s
  | .evpoll d a => Sys2Proof.Machine.execEvpoll d a s
  | .evack d a b => Sys2Proof.Machine.execEvack d a b s
  | .tilebeg d a => Sys2Proof.Machine.execTilebeg d a s
  | .tileend d => Sys2Proof.Machine.execTileend d s
  | .vcput d a b => Sys2Proof.Machine.execVcput d a b s
  | .vcget d a b => Sys2Proof.Machine.execVcget d a b s
  | .vcred d a b => Sys2Proof.Machine.execVcred d a b s
  | .a2aplan d a => Sys2Proof.Machine.execA2aplan d a s
  | .satadd d a b => Sys2Proof.Machine.execSatadd d a b s
  | .satcas d a b => Sys2Proof.Machine.execSatcas d a b s
  | .tret => Sys2Proof.Machine.execTret s
  | .pdone => Sys2Proof.Machine.execPdone s
  | .brk n => Sys2Proof.Machine.execBrk n s
  | .svc n => Sys2Proof.Machine.execSvc n s
  | .tmark c a b => Sys2Proof.Machine.execTmark c a b s
  | .wfe n => Sys2Proof.Machine.execWfe n s
  | .rippleRound gid k => Sys2Proof.Machine.execRippleRound gid k s
  | .publishArrival n => Sys2Proof.Machine.execPublishArrival n s
  | .distributorExamination pkg pref => Sys2Proof.Machine.execDistributorExamination pkg pref s
  | .groupRelease gid => Sys2Proof.Machine.execGroupRelease gid s
  | .waitSave gid => Sys2Proof.Machine.execWaitSave gid s
  | .savedGroupRelaunch gid pref => Sys2Proof.Machine.execSavedGroupRelaunch gid pref s
  | .claimGrant gid k => Sys2Proof.Machine.execClaimGrant gid k s
  | .claimDeadlockFault wg => Sys2Proof.Machine.execClaimDeadlockFault wg s
  | .faultRecordPost pkg => Sys2Proof.Machine.execFaultRecordPost pkg s
  | .faultReplyReplay pkg v => Sys2Proof.Machine.execFaultReplyReplay pkg v s
  | .faultReplyReject pkg v => Sys2Proof.Machine.execFaultReplyReject pkg v s
  | .scalarAccessComplete op => Sys2Proof.Machine.execScalarAccessComplete op s
  | .vectorAccessComplete op => Sys2Proof.Machine.execVectorAccessComplete op s
  | .atomicRequestComplete op => Sys2Proof.Machine.execAtomicRequestComplete op s
  | .collectiveComplete op => Sys2Proof.Machine.execCollectiveComplete op s
  | .deferredDataIntegrityFault ag => Sys2Proof.Machine.execDeferredDataIntegrityFault ag s
  | .commandStart chain => Sys2Proof.Machine.execCommandStart chain s
  | .commandComplete cmd => Sys2Proof.Machine.execCommandComplete cmd s
  | .eventRecordPost n => Sys2Proof.Machine.execEventRecordPost n s
  | .relayFactoringDone cmd => Sys2Proof.Machine.execRelayFactoringDone cmd s
  | .relayPassStart cmd => Sys2Proof.Machine.execRelayPassStart cmd s
  | .relayPassComplete cmd => Sys2Proof.Machine.execRelayPassComplete cmd s
  | .stampRecordWrite n => Sys2Proof.Machine.execStampRecordWrite n s
  | .fillComplete cmd => Sys2Proof.Machine.execFillComplete cmd s
  | .slotReleaseComplete dom slot => Sys2Proof.Machine.execSlotReleaseComplete dom slot s
  | .matrixOperationStart dom => Sys2Proof.Machine.execMatrixOperationStart dom s
  | .raggedFenceRead dom => Sys2Proof.Machine.execRaggedFenceRead dom s
  | .matrixOperationComplete dom => Sys2Proof.Machine.execMatrixOperationComplete dom s
  | .selfTestInject dom failed => Sys2Proof.Machine.execSelfTestInject dom failed s
  | .trapEntry gid => Sys2Proof.Machine.execTrapEntry gid s
  | .escalationRecordPost pkg => Sys2Proof.Machine.execEscalationRecordPost pkg s
  | .escalationReplyResume pkg v => Sys2Proof.Machine.execEscalationReplyResume pkg v s
  | .escalationReplyEnd pkg v => Sys2Proof.Machine.execEscalationReplyEnd pkg v s
  | .systemCoreTrapEntry ag => Sys2Proof.Machine.execSystemCoreTrapEntry ag s
  | .preemptionRequestTaken gid => Sys2Proof.Machine.execPreemptionRequestTaken gid s
  | .hardwareSave gid => Sys2Proof.Machine.execHardwareSave gid s
  | .contextSuspend pkg ctx => Sys2Proof.Machine.execContextSuspend pkg ctx s
  | .suspensionComplete pkg ctx => Sys2Proof.Machine.execSuspensionComplete pkg ctx s
  | .contextResume pkg ctx => Sys2Proof.Machine.execContextResume pkg ctx s
  | .addressComparatorFire gid k => Sys2Proof.Machine.execAddressComparatorFire gid k s
  | .registerFileError gid reg lane => Sys2Proof.Machine.execRegisterFileError gid reg lane s
  | .eccError key corrected => Sys2Proof.Machine.execEccError key corrected s
  | .translationFlush v => Sys2Proof.Machine.execTranslationFlush v s
  | .timensWrite v => Sys2Proof.Machine.execTimensWrite v s
  | .cqpushWrite v => Sys2Proof.Machine.execCqpushWrite v s
  | .sevsendWrite v => Sys2Proof.Machine.execSevsendWrite v s
  | .reqsendWrite v => Sys2Proof.Machine.execReqsendWrite v s
  | .unitTag v => Sys2Proof.Machine.execUnitTag v s
  | .unitFree v => Sys2Proof.Machine.execUnitFree v s
  | .boardAllot v => Sys2Proof.Machine.execBoardAllot v s
  | .boardFree v => Sys2Proof.Machine.execBoardFree v s
  | .streamqWrite v => Sys2Proof.Machine.execStreamqWrite v s
  | .plentWrite v => Sys2Proof.Machine.execPlentWrite v s
  | .routeTableWrite num v => Sys2Proof.Machine.execRouteTableWrite num v s
  | .systemRegisterWrite num v => Sys2Proof.Machine.execSystemRegisterWrite num v s
  | .maelubStop m => Sys2Proof.Machine.execMaelubStop m s
  | .maelubRun m => Sys2Proof.Machine.execMaelubRun m s
  | .maelubStep m => Sys2Proof.Machine.execMaelubStep m s
  | .maelubStepTimeout pkg => Sys2Proof.Machine.execMaelubStepTimeout pkg s
  | .maelubDump m => Sys2Proof.Machine.execMaelubDump m s
  | .maelubRdmem m => Sys2Proof.Machine.execMaelubRdmem m s
  | .maelubWrmem m => Sys2Proof.Machine.execMaelubWrmem m s
  | .maelubRdsr m => Sys2Proof.Machine.execMaelubRdsr m s
  | .maelubWrsr m => Sys2Proof.Machine.execMaelubWrsr m s
  | .maelubWrreg m => Sys2Proof.Machine.execMaelubWrreg m s
  | .maelubStatus m => Sys2Proof.Machine.execMaelubStatus m s
  | .requestSlotWrite x bytes => Sys2Proof.Machine.execRequestSlotWrite x bytes s
  | .reqOpen r => Sys2Proof.Machine.execReqOpen r s
  | .reqClose r => Sys2Proof.Machine.execReqClose r s
  | .reqMap r => Sys2Proof.Machine.execReqMap r s
  | .reqUnmap r => Sys2Proof.Machine.execReqUnmap r s
  | .reqLoad r => Sys2Proof.Machine.execReqLoad r s
  | .reqQueue r => Sys2Proof.Machine.execReqQueue r s
  | .reqLaunch r => Sys2Proof.Machine.execReqLaunch r s
  | .reqRead r => Sys2Proof.Machine.execReqRead r s
  | .reqWrite r => Sys2Proof.Machine.execReqWrite r s
  | .reqFmt r => Sys2Proof.Machine.execReqFmt r s
  | .reqReserve r => Sys2Proof.Machine.execReqReserve r s
  | .reqSuspend r => Sys2Proof.Machine.execReqSuspend r s
  | .reqDebug r => Sys2Proof.Machine.execReqDebug r s
  | .reqWait r => Sys2Proof.Machine.execReqWait r s
  | .reqSlice r => Sys2Proof.Machine.execReqSlice r s
  | .reqBoard r => Sys2Proof.Machine.execReqBoard r s
  | .reqQuantum r => Sys2Proof.Machine.execReqQuantum r s
  | .flitReceive pkg port flit => Sys2Proof.Machine.execFlitReceive pkg port flit s
  | .remoteAccessTimeout op => Sys2Proof.Machine.execRemoteAccessTimeout op s
  | .linkBringUp pkg idx dom => Sys2Proof.Machine.execLinkBringUp pkg idx dom s
  | .planPhaseStart pkg => Sys2Proof.Machine.execPlanPhaseStart pkg s
  | .planComplete pkg => Sys2Proof.Machine.execPlanComplete pkg s
  | .wfeTimeout ag => Sys2Proof.Machine.execWfeTimeout ag s
  | .traceSample part => Sys2Proof.Machine.execTraceSample part s
  | .powerOn pkg strap => Sys2Proof.Machine.execPowerOn pkg strap s
  | .thermalThrottle pkg temp power => Sys2Proof.Machine.execThermalThrottle pkg temp power s
  | .thermalPowerOff pkg temp => Sys2Proof.Machine.execThermalPowerOff pkg temp s
  | .powerOff pkg => Sys2Proof.Machine.execPowerOff pkg s

end Sys2Proof.Machine
end

