-- ==== Sys2Proof/Machine/Issue.lean ====
section
/-! DEFINITION. The issue of one word by one agent: the traps that are due, the clause, the word, its fate, and what
follows the instruction. -/

namespace Sys2Proof.Machine

open Host (Outcome)

/-- What is checked after an instruction has issued: the rows of R121, register elements overwritten unread (R361). -/
def afterIssue (a : Agent) (pc : Dword) (word : Word) : Outcome State Fault Refusal → Outcome State Fault Refusal
  | .next s => .next ((s.examined a pc word).postLost (gidOf a))
  | o => o

/-- An agent has issued an instruction between two states: one more is counted, or it has trapped. -/
def hasIssued (a : Agent) (s t : State) : Bool :=
  (s.hart a).retired != (t.hart a).retired || (s.hart a).handler != (t.hart a).handler
    || (match a with
        | .slot gid _ => (t.group gid).trap.pending.isSome || (t.group gid).trap.escalated.isSome
        | .sys p d c => (t.core p d c).halted)

/-- A STEP ends with the instruction: STOPCODE 3 (R371). -/
def stepEnd (a : Agent) (s : State) : Outcome State Fault Refusal → Outcome State Fault Refusal
  | .next t => .next (if s.stepping a && t.stepping a && hasIssued a s t then t.stopAgent a 3 0 else t)
  | o => o

/-- The comparator that matches the next word of the issuing slot (R374). -/
def State.comparatorHere (s : State) : Option (Nat × Bool) :=
  match s.cur with
  | .sys _ _ _ => none
  | .slot gid k => s.comparator gid k

/-- A word of an agent that was tried has not issued: an interlock holds it, or a pip at 63 (R28, R50). -/
def heldBack (a : Agent) (s : State) : Outcome State Fault Refusal → Bool
  | .next t => !hasIssued a s t && (match (t.slot a).block with
    | some (.op _) => true
    | some (.unit n) => decide (1000 ≤ n) && decide (n < 1012)
    | _ => false)
  | _ => false

/-- What a word comes to where a comparator may match it: one that fires does so in the word's stead, once nothing holds
the word back (R374). -/
def State.compared (s : State) (o : Outcome State Fault Refusal) : Outcome State Fault Refusal :=
  match s.comparatorHere with
  | some (i, stop) => if heldBack s.cur s o then o else .next (s.fire (gidOf s.cur) (slotNo s.cur) i stop)
  | none => o

/-- The next word of the issuing slot inside its clause (R40 checks 3 to 9). -/
def State.issueWord (s : State) (c : Clause) : Outcome State Fault Refusal :=
  match s.wordFate c with
  | .error (.wait b s1) => finish (.error (.wait b s1))
  | .error (.trap t s1) => if t.cause = 6 then finish (.error (.trap t s1)) else s1.compared (finish (.error (.trap t s1)))
  | .ok (.runs i s1) => s1.compared (afterIssue s.cur (s.slot s.cur).pc s1.word (exec i s1))

/-- The issuing slot stands before a clause: it enters it, and issues its first word, or runs its waves. -/
def State.issueClause (s : State) : Outcome State Fault Refusal :=
  match s.enterClause with
  | .error e => finish (.error (e.started s.cur))
  | .ok (.entered s1) =>
    match (s1.slot s.cur).clause with
    | some c => ((s1.started s.cur).traceIssue s.cur c.hdr).issueWord c
    | none => .next s1
  | .ok (.ripple s1 _ ps) =>
    let pc := (s.slot s.cur).pc
    afterIssue s.cur pc 0 (((s1.started s.cur).traceIssue s.cur pc).rippleAt ps)

/-- One issue by an agent that may issue: a deferred trap first; else it goes on in its ripple clause or its clause, or
enters the next one. -/
def State.issueAs (s : State) (a : Agent) : Outcome State Fault Refusal :=
  let s := { s with cur := a, word := 0 }
  if s.lateDue a then
    match a with
    | .sys _ _ _ => execSystemCoreTrapEntry a s
    | .slot _ _ => execDeferredDataIntegrityFault a s
  else
    let x := s.slot a
    if x.ripple.isSome || x.wave.isSome then afterIssue a x.pc 0 s.rippleGo
    else match x.clause with
      | some c => (s.started a).issueWord c
      | none => s.issueClause

/-- One issue by an agent; by one that may not issue, nothing. -/
def State.issue (s : State) (a : Agent) : Outcome State Fault Refusal :=
  if s.canIssue a then stepEnd a s (s.issueAs a) else .next s

end Sys2Proof.Machine
end

