-- ==== Sys2Proof/Machine/Schedule.lean ====
section
/-! DEFINITION. Where the outside makes no choice: the machine's own choice of who issues, or of the event that happens
(R157, R412; log 2). -/

namespace Sys2Proof.Machine

open Host (Outcome)

/-- A row of the opcode table that is an event: no word encodes it. -/
def isEvent : Instr → Bool
  | .rippleRound _ _ => true
  | .publishArrival _ => true
  | .distributorExamination _ _ => true
  | .groupRelease _ => true
  | .waitSave _ => true
  | .savedGroupRelaunch _ _ => true
  | .claimGrant _ _ => true
  | .claimDeadlockFault _ => true
  | .faultRecordPost _ => true
  | .faultReplyReplay _ _ => true
  | .faultReplyReject _ _ => true
  | .scalarAccessComplete _ => true
  | .vectorAccessComplete _ => true
  | .atomicRequestComplete _ => true
  | .collectiveComplete _ => true
  | .deferredDataIntegrityFault _ => true
  | .commandStart _ => true
  | .commandComplete _ => true
  | .eventRecordPost _ => true
  | .relayFactoringDone _ => true
  | .relayPassStart _ => true
  | .relayPassComplete _ => true
  | .stampRecordWrite _ => true
  | .fillComplete _ => true
  | .slotReleaseComplete _ _ => true
  | .matrixOperationStart _ => true
  | .raggedFenceRead _ => true
  | .matrixOperationComplete _ => true
  | .selfTestInject _ _ => true
  | .trapEntry _ => true
  | .escalationRecordPost _ => true
  | .escalationReplyResume _ _ => true
  | .escalationReplyEnd _ _ => true
  | .systemCoreTrapEntry _ => true
  | .preemptionRequestTaken _ => true
  | .hardwareSave _ => true
  | .contextSuspend _ _ => true
  | .suspensionComplete _ _ => true
  | .contextResume _ _ => true
  | .addressComparatorFire _ _ => true
  | .registerFileError _ _ _ => true
  | .eccError _ _ => true
  | .translationFlush _ => true
  | .timensWrite _ => true
  | .cqpushWrite _ => true
  | .sevsendWrite _ => true
  | .reqsendWrite _ => true
  | .unitTag _ => true
  | .unitFree _ => true
  | .boardAllot _ => true
  | .boardFree _ => true
  | .streamqWrite _ => true
  | .plentWrite _ => true
  | .routeTableWrite _ _ => true
  | .systemRegisterWrite _ _ => true
  | .maelubStop _ => true
  | .maelubRun _ => true
  | .maelubStep _ => true
  | .maelubStepTimeout _ => true
  | .maelubDump _ => true
  | .maelubRdmem _ => true
  | .maelubWrmem _ => true
  | .maelubRdsr _ => true
  | .maelubWrsr _ => true
  | .maelubWrreg _ => true
  | .maelubStatus _ => true
  | .requestSlotWrite _ _ => true
  | .reqOpen _ => true
  | .reqClose _ => true
  | .reqMap _ => true
  | .reqUnmap _ => true
  | .reqLoad _ => true
  | .reqQueue _ => true
  | .reqLaunch _ => true
  | .reqRead _ => true
  | .reqWrite _ => true
  | .reqFmt _ => true
  | .reqReserve _ => true
  | .reqSuspend _ => true
  | .reqDebug _ => true
  | .reqWait _ => true
  | .reqSlice _ => true
  | .reqBoard _ => true
  | .reqQuantum _ => true
  | .flitReceive _ _ _ => true
  | .remoteAccessTimeout _ => true
  | .linkBringUp _ _ _ => true
  | .planPhaseStart _ => true
  | .planComplete _ => true
  | .wfeTimeout _ => true
  | .traceSample _ => true
  | .powerOn _ _ => true
  | .thermalThrottle _ _ _ => true
  | .thermalPowerOff _ _ => true
  | .powerOff _ => true
  | _ => false

/-! ## Issue -/

/-- What an agent's issue comes to, where it does more than wait on for what it waits for already: an issue, or a block
of its own (with which an access may start; the wait counts from there, R158), or some lanes more of the instruction. -/
def State.tryIssue (s : State) (a : Agent) : Option (Outcome State Fault Refusal) :=
  if !s.canIssue a then none
  else match s.issue a with
    | .next t =>
      (match (t.slot a).block with
       | none | some .parked => some (.next t)
       | some b =>
         if (s.slot a).block = some b && (s.slot a).done == (t.slot a).done && (s.slot a).closed == (t.slot a).closed
         then none else some (.next t))
    | o => some o

/-- A list turned by n. -/
def turned {α : Type} (n : Nat) (l : List α) : List α :=
  let k := n % max 1 l.length
  l.drop k ++ l.take k

/-- Agents in the order in which the machine lets them try: partitions and cores in turn, slots by R157. -/
def State.agents (s : State) : List Agent :=
  let parts := ((s.groups.filter fun e => e.2.resides).map fun e => e.2.partKey).eraseDups
  let cores := s.cores.map fun e => [Agent.sys (e.1 / 2048) (e.1 / 128 % 16) (e.1 % 128)]
  (turned (s.cycle / 2) (cores ++ parts.map fun p => (s.ranked p).map fun x => Agent.slot x.1 x.2)).flatten

/-- The slot that its partition issues from in an agent's stead: the first ready one by R157; a core issues for itself. -/
def State.chosen (s : State) (a : Agent) : Agent :=
  match a with
  | .sys _ _ _ => a
  | .slot gid _ =>
    let l := (s.ranked (s.group gid).partKey).map fun x => Agent.slot x.1 x.2
    match l with
    | [_] => a
    | _ => (l.find? fun b => (s.tryIssue b).isSome).getD a

/-- A slot is not ready: it may not issue, or would only wait on (R157). -/
def State.unready (s : State) (gid k : Nat) : Bool :=
  !s.canIssue (.slot gid k) || (((s.group gid).slot k).block.isSome && (s.tryIssue (.slot gid k)).isNone)

/-- What the hardware notes at the end of a cycle: the cycles for which a slot has been ready count from here where it is
not, on a partition that goes on (R157, R370); the tests for claim deadlock (R188); the samples that are due (R375). -/
def State.marked (s : State) : State :=
  { s with
    groups := s.groups.map fun e =>
      let mark (k : Nat) (x : Slot) : Slot :=
        if x.st != .free && s.unready e.1 k && !s.isStopped (.slot e.1 k) then { x with idleAt := s.cycle } else x
      (e.1, { e.2 with slot0 := mark 0 e.2.slot0, slot1 := mark 1 e.2.slot1 })
    wgs := s.wgs.map fun e => (e.1, s.claimTested e.1 e.2)
    parts := s.parts.map fun e => (e.1, s.sampled e.1 e.2) }

/-! ## Events -/

/-- An event is taken where it changes the state. -/
def State.tryEvent (s : State) (f : State → Outcome State Fault Refusal) : Option (Outcome State Fault Refusal) :=
  match f s with
  | .next t => if t = s then none else some (.next t)
  | o => some o

/-- Events of a group. -/
def groupEvents (gid : Nat) : List (State → Outcome State Fault Refusal) :=
  [execTrapEntry gid, execPreemptionRequestTaken gid, execHardwareSave gid, execWaitSave gid, execGroupRelease gid,
   execClaimGrant gid 0, execClaimGrant gid 1, execSavedGroupRelaunch gid 0, execWfeTimeout (.slot gid 0),
   execWfeTimeout (.slot gid 1)]

/-- Events of an operation in flight. -/
def opEvents (n : Nat) (o : Op) : List (State → Outcome State Fault Refusal) :=
  [execScalarAccessComplete n, execVectorAccessComplete n, execAtomicRequestComplete n, execCollectiveComplete n,
   if isSys o.agent then execSystemCoreTrapEntry o.agent else execDeferredDataIntegrityFault o.agent]

/-- Events of a package. -/
def pkgEvents (pkg : Nat) : List (State → Outcome State Fault Refusal) :=
  [execFaultRecordPost pkg, execEscalationRecordPost pkg, execRequestSlotWrite { pkg := pkg } [], execPlanPhaseStart pkg,
   execPlanComplete pkg, execMaelubStepTimeout pkg]

/-- Events of a command. -/
def cmdEvents (n : Nat) : List (State → Outcome State Fault Refusal) :=
  [execCommandComplete n, execRelayFactoringDone n, execRelayPassStart n, execRelayPassComplete n, execFillComplete n]

/-- Events of a domino. -/
def dominoEvents (dk : Nat) (d : Domino) : List (State → Outcome State Fault Refusal) :=
  [execMatrixOperationStart dk, execRaggedFenceRead dk, execMatrixOperationComplete dk]
    ++ d.slots.map fun e => execSlotReleaseComplete dk e.1

/-- The events that what the state holds may give rise to; the outside alone chooses errors, tests, messages, power. -/
def State.events (s : State) : List (State → Outcome State Fault Refusal) :=
  s.groups.flatMap (fun e => groupEvents e.1) ++ s.ops.flatMap (fun e => opEvents e.1 e.2)
    ++ s.chains.map (fun e => execCommandStart e.1) ++ s.cmds.flatMap (fun e => cmdEvents e.1)
    ++ s.posts.map (fun e => execEventRecordPost e.1) ++ s.tiles.map (fun e => execStampRecordWrite e.1)
    ++ s.dominoes.flatMap (fun e => dominoEvents e.1 e.2)
    ++ s.launches.flatMap (fun e => e.2.items.map fun x => execPublishArrival (e.1 * 2 ^ 67 + x.1))
    ++ s.wgs.map (fun e => execClaimDeadlockFault e.1)
    ++ s.ctxs.map (fun e => execSuspensionComplete (e.1 / 64) (e.1 % 64))
    ++ s.cores.map (fun e => execWfeTimeout (.sys (e.1 / 2048) (e.1 / 128 % 16) (e.1 % 128)))
    ++ s.parts.map (fun e => execTraceSample e.1)
    ++ s.pkgs.flatMap fun e => pkgEvents e.1

/-- An examination by the distributor, every 64 cycles (R412). -/
def State.tryDistribute (s : State) : Option (Outcome State Fault Refusal) :=
  if s.cycle % 64 = 0 then s.pkgs.findSome? fun e => s.tryEvent (execDistributorExamination e.1 0) else none

/-! ## The machine's own step -/

/-- The first package that has no power. -/
def State.unpowered (s : State) : Option Nat :=
  if s.pkgs.any fun e => e.2.on then none else s.pkgs.head?.map Prod.fst

/-- What happens where the outside makes no choice: power-on first; then issue and events by turns; else nothing. -/
def State.ownStep (s : State) : Outcome State Fault Refusal :=
  match s.unpowered with
  | some p => execPowerOn p false s
  | none =>
    let issue (_ : Unit) := s.agents.findSome? s.tryIssue
    let event (_ : Unit) := s.events.findSome? s.tryEvent
    let first := if s.cycle % 2 = 0 then (issue ()).or (event ()) else (event ()).or (issue ())
    match s.tryDistribute with
    | some o => o
    | none => first.getD (.next s)

end Sys2Proof.Machine
end

