-- ==== Sys2Proof/Machine/Step.lean ====
section
/-! DEFINITION. One step of the machine: the outside's next choice, or the machine's own, and one cycle of the clock. -/

namespace Sys2Proof.Machine

/-- What a turn does: a partition or core issues, a slot of the partition by R157; an event happens, an instruction is
none; time passes. -/
def State.take (s : State) : Turn → Host.Outcome State Fault Refusal
  | .issue a => s.issue (s.chosen a)
  | .event i => if isEvent i then exec i s else .next s
  | .elapse n => .next { s with cycle := s.cycle + (n - 1) }

/-- A step takes one cycle, whatever it does (log 7). -/
def tick : Host.Outcome State Fault Refusal → Host.Outcome State Fault Refusal
  | .next s => .next { s with cycle := s.cycle + 1 }.marked
  | o => o

/-- One step: the head of the outside's choices, else the machine's own choice. -/
def step (s : State) : Host.Outcome State Fault Refusal :=
  match s.turns with
  | t :: rest => tick ({ s with turns := rest }.take t)
  | [] => tick s.ownStep

/-- The address at which `withFetchWord` places its clause. -/
def fetchBase : Nat := 0x2000000

/-- A group whose next word is the given instruction, on a core with a slice, its turn next (log 9). Bits above `nbits`
are zero. -/
def State.withFetchWord (s : State) (nbits w : Nat) : State :=
  let v := w % 2 ^ nbits
  let gid := s.nextId
  let word := v % 2 ^ 32
  let long := isLOpcode (word / 2 ^ 24)
  let header := if long then 0xF1000FF0 else 0xF0000FF0
  let mem := Mem.write (Mem.write s.mem fetchBase 4 header) (fetchBase + 4) 8 v
  let g : Group :=
    { wg := gid + 1, life := .running, items := BitVec.allOnes 64, hart := { ctx := 1, sregs := [(60, 0x00E0000000000400)] }
      slot0 := { st := .run, pc := BitVec.ofNat 64 fetchBase, own := BitVec.allOnes 64, mask := BitVec.allOnes 64 }
      dslo := 0x00E0000000000000, dshi := 0x00E0000000000400 }
  let p := s.pkg 0
  (({ s with mem := mem, nextId := gid + 2, turns := .issue (.slot gid 0) :: s.turns }.setGroup gid g).setCtx 0 1
    { s.ctx 0 1 with direct := true }).setPkg 0 { p with places := SMap.put p.places 0 128 }

end Sys2Proof.Machine
end

