-- ==== Sys2Proof/Certificates/Slice0/Obligations.lean ====
section
/-! DEFINITION. The statements for the provers. The parts of a statement stand under `Sys2Proof.Stated`; a statement of
several parts is their conjunction, at the end of the file. -/

namespace Sys2Proof.Stated

open Host (Outcome)
open Sys2Proof.Machine

/-- What a meaning answers. -/
abbrev Answer := Outcome State Fault Refusal

/-- No write is pending to the registers an instruction names (R50). -/
def Ready (s : State) (ss : List (BitVec 8)) (vs : List Nat := []) : Prop := s.need ss vs = .ok ()

/-- The instruction of `n` words writes v to s[d] and is retired. -/
def puts (s : State) (d : BitVec 8) (v : Dword) (n : Nat := 1) : Answer := .next ((s.writeS d v).retire n)

/-- The precise trap of the issuing word: cause, fault address and detail words, the rest of the state as it was. -/
def traps (s : State) (cause : Nat) (addr : Dword := 0) (det2 : Dword := 0) (det3 : Dword := 0) : Answer :=
  .next (s.takeTrap s.cur
    { cause := cause, tpc := (s.slot s.cur).pc, resume := (s.slot s.cur).pc, addr := addr, det2 := det2, det3 := det3,
      word := s.word, slot := slotNo s.cur, done := (s.slot s.cur).done, name := s.instName })

/-- The field that `sbfx` takes, bit by bit (R65). -/
def fieldBit (x y : Dword) (j : Nat) : Bool :=
  let w := bits y 13 8 + 1
  if j < w then x.getLsbD (bits y 5 0 + j) else y.getLsbD 16 && x.getLsbD (bits y 5 0 + (w - 1))

end Sys2Proof.Stated

open Sys2Proof Sys2Proof.Machine Sys2Proof.Stated

/-- R62: row 0x1 but division. -/
def Obligations.ScalarArithmetic : Prop :=
  ∀ (d a b : BitVec 8) (s : State), Ready s [d, a, b] →
    let x := s.readS a
    let y := s.readS b
    exec (.sadd d a b) s = puts s d (x + y)
    ∧ exec (.ssub d a b) s = puts s d (x - y)
    ∧ exec (.smul d a b) s = puts s d (x * y)
    ∧ exec (.smulh d a b) s = puts s d ((x.signExtend 128 * y.signExtend 128).extractLsb' 64 64)
    ∧ exec (.smulhn d a b) s = puts s d ((x.setWidth 128 * y.setWidth 128).extractLsb' 64 64)
    ∧ exec (.sand d a b) s = puts s d (x &&& y)
    ∧ exec (.sor d a b) s = puts s d (x ||| y)
    ∧ exec (.sxor d a b) s = puts s d (x ^^^ y)
    ∧ exec (.sshl d a b) s = puts s d (x <<< (y.toNat % 64))
    ∧ exec (.sshr d a b) s = puts s d (x >>> (y.toNat % 64))
    ∧ exec (.ssar d a b) s = puts s d (x.sshiftRight (y.toNat % 64))
    ∧ exec (.ssel d a b) s = puts s d (if s.readS d ≠ 0 then x else y)

/-- R63, with R62: division, for every pair of operands. -/
def Obligations.Division : Prop :=
  ∀ (d a b : BitVec 8) (s : State), Ready s [d, a, b] →
    let x := s.readS a
    let y := s.readS b
    let least : Dword := 0x8000000000000000
    (y = 0 → exec (.sdiv d a b) s = puts s d 0xFFFFFFFFFFFFFFFF ∧ exec (.sdivn d a b) s = puts s d 0xFFFFFFFFFFFFFFFF
      ∧ exec (.srem d a b) s = puts s d x ∧ exec (.sremn d a b) s = puts s d x)
    ∧ (x = least → y = -1 → exec (.sdiv d a b) s = puts s d least ∧ exec (.srem d a b) s = puts s d 0)
    ∧ (y ≠ 0 → ¬ (x = least ∧ y = -1) → ∃ q r : Dword,
        exec (.sdiv d a b) s = puts s d q ∧ exec (.srem d a b) s = puts s d r
        ∧ q.toInt = x.toInt.tdiv y.toInt ∧ r.toInt = x.toInt - y.toInt * q.toInt)
    ∧ (y ≠ 0 → ∃ q r : Dword, exec (.sdivn d a b) s = puts s d q ∧ exec (.sremn d a b) s = puts s d r
        ∧ q.toNat = x.toNat / y.toNat ∧ r.toNat = x.toNat - y.toNat * q.toNat)

/-- R64, R65, R69: row 0x2 and `splace`. -/
def Sys2Proof.Stated.RowTwo : Prop :=
  ∀ (d a b n : BitVec 8) (i : BitVec 16) (w : BitVec 32) (s : State), Ready s [d, a, b] → n.toNat < 64 →
    let x := s.readS a
    let y := s.readS b
    exec (.sli d i) s = puts s d (i.signExtend 64)
    ∧ exec (.slih d i) s = puts s d (s.readS d <<< 16 ||| i.setWidth 64)
    ∧ exec (.slit d w) s = puts s d (w.setWidth 64) 2
    ∧ exec (.saddi d a b) s = puts s d (x + b.signExtend 64)
    ∧ exec (.sandi d a b) s = puts s d (x &&& b.signExtend 64)
    ∧ exec (.sshli d a n) s = puts s d (x <<< n.toNat)
    ∧ exec (.sshri d a n) s = puts s d (x >>> n.toNat)
    ∧ exec (.ssari d a n) s = puts s d (x.sshiftRight n.toNat)
    ∧ exec (.seq d a b) s = puts s d (if x = y then 1 else 0)
    ∧ exec (.slt d a b) s = puts s d (if x.toInt < y.toInt then 1 else 0)
    ∧ exec (.sltn d a b) s = puts s d (if x.toNat < y.toNat then 1 else 0)
    ∧ exec (.smin d a b) s = puts s d (if x.toInt ≤ y.toInt then x else y)
    ∧ exec (.smax d a b) s = puts s d (if x.toInt ≤ y.toInt then y else x)
    ∧ (∃ k : Nat, exec (.sclz d a) s = puts s d (BitVec.ofNat 64 k) ∧ k ≤ 64 ∧ x.toNat < 2 ^ (64 - k)
        ∧ (k < 64 → 2 ^ (63 - k) ≤ x.toNat))
    ∧ exec (.spopc d a) s = puts s d (BitVec.ofNat 64 ((List.range 64).countP fun j => x.getLsbD j))
    ∧ (∃ v : Dword, exec (.sbfx d a b) s = puts s d v ∧ ∀ j < 64, v.getLsbD j = fieldBit x y j)
    ∧ exec (.splace d a b) s = puts s d (0x00F0000000000000#64 ||| (x &&& 0x3FF) <<< 30 ||| (x >>> 10 &&& 7) <<< 27
        ||| (x >>> 13 &&& 0x7F) <<< 20 ||| (y &&& 0xFFFFF))

/-- R64: a shift immediate of 64 to 255. -/
def Sys2Proof.Stated.ShiftImmediateTraps : Prop :=
  ∀ (d a n : BitVec 8) (s : State), 64 ≤ n.toNat →
    exec (.sshli d a n) s = traps s 1 ∧ exec (.sshri d a n) s = traps s 1 ∧ exec (.ssari d a n) s = traps s 1

namespace Sys2Proof.Stated

/-- Everything but the scalar side and the slot of agent `a` is as it was: memory, carry checks, every other agent and
unit of the machine. -/
def Elsewhere (s t : State) (a : Agent) : Prop :=
  t = { s with cores := t.cores, groups := t.groups }
  ∧ match a with
    | .sys p d c =>
      t.groups = s.groups ∧ (∀ j, j ≠ coreKey p d c → SMap.find t.cores j = SMap.find s.cores j)
      ∧ t.core p d c = { s.core p d c with hart := t.hart a, slot := t.slot a }
    | .slot g k =>
      t.cores = s.cores ∧ (∀ j, j ≠ g → SMap.find t.groups j = SMap.find s.groups j)
      ∧ t.group g = ({ s.group g with hart := t.hart a }).setSlot k (t.slot a)

/-- Control goes to `pc`, with nothing else done. -/
def goes (s : State) (pc : Dword) : Answer := .next (s.jump pc)

/-- The slot issues nothing for now, for this reason; the instruction issues again. -/
def waits (s : State) (b : Block) : Answer := .next (s.blockSlot b)

/-- The issuing agent is a system-class core. -/
def OnCore (s : State) : Prop := isSys s.cur = true

end Sys2Proof.Stated

/-- R47 to R50: what writing one scalar register and moving on does, and that it does nothing else. -/
def Sys2Proof.Stated.ResultStands : Prop :=
  ∀ (s : State) (d : BitVec 8) (v : Dword) (n : Nat), ∃ t, puts s d v n = .next t
    ∧ Elsewhere s t s.cur
    ∧ t.readS d = (if d = 0 then 0
        else if d = 63 then (if isSys s.cur then (s.slot s.cur).mask else v &&& (s.slot s.cur).own) else v)
    ∧ (∀ r, r ≠ d → t.readS r = s.readS r)
    ∧ t.hart s.cur = { s.hart s.cur with sregs := (t.hart s.cur).sregs, retired := (s.hart s.cur).retired + 1 }
    ∧ (t.slot s.cur).pc = (s.slot s.cur).pc + 4 * BitVec.ofNat 64 n
    ∧ t.slot s.cur = { s.slot s.cur with
        pc := (t.slot s.cur).pc, mask := (t.slot s.cur).mask, clause := (t.slot s.cur).clause,
        yielded := (t.slot s.cur).yielded, pmode := none, done := 0, block := none, passed := false,
        lastIssue := s.cycle, atReturn := false, named := none, deal := none, closed := (0, 0) }

/-- What a transfer of control does, and that it does nothing else. -/
def Sys2Proof.Stated.TransferStands : Prop :=
  ∀ (s : State) (pc : Dword), ∃ t, goes s pc = .next t
    ∧ Elsewhere s t s.cur
    ∧ t.hart s.cur = { s.hart s.cur with retired := (s.hart s.cur).retired + 1 }
    ∧ t.slot s.cur = { s.slot s.cur with
        pc := pc, clause := none, yielded := (t.slot s.cur).yielded, pmode := none, done := 0, block := none,
        passed := false, lastIssue := s.cycle, atReturn := false, named := none, deal := none, closed := (0, 0) }

/-- R50: an instruction that names a register with a write pending issues nothing, and keeps its place. -/
def Sys2Proof.Stated.RegisterInterlock : Prop :=
  ∀ (d a b : BitVec 8) (s : State) (n : Nat), s.pendingOn [d.toNat, a.toNat, b.toNat] [] = some n →
    (∀ f ∈ ([.sadd, .ssub, .smul, .smulh, .smulhn, .sdiv, .sdivn, .srem, .sremn, .sand, .sor, .sxor, .sshl, .sshr, .ssar,
        .ssel, .seq, .slt, .sltn, .smin, .smax, .sbfx, .splace] : List (BitVec 8 → BitVec 8 → BitVec 8 → Instr)),
      exec (f d a b) s = waits s (.op n))
    ∧ ∃ t, waits s (.op n) = .next t ∧ Elsewhere s t s.cur ∧ t.hart s.cur = s.hart s.cur
      ∧ t.slot s.cur = { s.slot s.cur with block := some (.op n), since := (t.slot s.cur).since }

/-- R58, R60: the branches, `nop` and `waitc`. -/
def Sys2Proof.Stated.BranchTargets : Prop :=
  ∀ (d a n k : BitVec 8) (o : BitVec 16) (f : BitVec 24) (s : State) (c : Clause), (s.slot s.cur).clause = some c →
    Ready s [d, a, 62] →
    let next := c.hdr + 4 * BitVec.ofNat 64 (c.len + 1)
    let near := c.hdr + 4 * o.signExtend 64
    let far := c.hdr + 4 * f.signExtend 64
    let x := s.readS d
    exec .nop s = .next s.retire
    ∧ exec (.br f) s = goes s far
    ∧ exec (.bz d o) s = goes s (if x = 0 then near else next)
    ∧ exec (.bnz d o) s = goes s (if x ≠ 0 then near else next)
    ∧ exec (.bltz d o) s = goes s (if x.toInt < 0 then near else next)
    ∧ exec (.bgez d o) s = goes s (if 0 ≤ x.toInt then near else next)
    ∧ exec (.call f) s = goes (s.writeS 62 next) far
    ∧ (s.readS a &&& 3 = 0 → exec (.jr a) s = goes s (s.readS a))
    ∧ (s.readS a &&& 3 = 0 → exec (.callr a) s = goes (s.writeS 62 next) (s.readS a))
    ∧ (n.toNat < 12 → k.toNat < 64 →
        exec (.waitc n k) s = if (s.hart s.cur).pip n.toNat ≤ k.toNat then .next s.retire
          else waits s (.pip n.toNat k.toNat))

/-- R59: a target of `jr` or `callr` with bits 1:0 not zero is a misalignment fault, and nothing has changed. -/
def Sys2Proof.Stated.MisalignedTargets : Prop :=
  ∀ (a : BitVec 8) (s : State), Ready s [a, 62] → s.readS a &&& 3 ≠ 0 →
    exec (.jr a) s = traps s 5 (s.readS a) ∧ exec (.callr a) s = traps s 5 (s.readS a)

/-- R61: the instructions on lanes, on a system-class core. -/
def Sys2Proof.Stated.LaneControlOnCores : Prop :=
  ∀ (d : BitVec 8) (o : BitVec 16) (x : BitVec 32) (s : State) (p q r : Nat) (c : Clause),
    s.cur = .sys p q r → (s.slot s.cur).clause = some c → (s.slot s.cur).mask = 1 → (s.slot s.cur).wave = none →
    Ready s [d, 60] →
    let next := c.hdr + 4 * BitVec.ofNat 64 (c.len + 1)
    let near := c.hdr + 4 * o.signExtend 64
    exec (.bsplit d x) s = goes s (if (s.readS d).getLsbD 0 then c.hdr + 4 * (x.extractLsb' 16 16).signExtend 64 else next)
    ∧ exec .bmerge s = .next s.retire
    ∧ exec (.bany d o) s = goes s (if (s.readS d).getLsbD 0 then near else next)
    ∧ exec (.ball d o) s = goes s (if (s.readS d).getLsbD 0 then near else next)
    ∧ exec .exit s = (if (s.hart s.cur).pipsZero
        then .next (s.count.setCore p q r { s.count.core p q r with halted := true }) else waits s .drain)

/-- R124, R125: `bany`, `ball`, and `exit` where lanes are left, in a group. -/
def Sys2Proof.Stated.LaneControlInGroups : Prop :=
  ∀ (d : BitVec 8) (o : BitVec 16) (s : State) (g k : Nat) (c : Clause),
    s.cur = .slot g k → (s.slot s.cur).clause = some c → s.need (d :: s.guardRegs) = .ok () →
    let next := c.hdr + 4 * BitVec.ofNat 64 (c.len + 1)
    let near := c.hdr + 4 * o.signExtend 64
    let acts (l : Nat) : Prop := s.active.getLsbD l = true
    let own := (s.slot s.cur).own
    ((∃ l < 64, acts l ∧ (s.readS d).getLsbD l = true) → exec (.bany d o) s = goes s near)
    ∧ ((∀ l < 64, acts l → (s.readS d).getLsbD l = false) → exec (.bany d o) s = goes s next)
    ∧ ((∀ l < 64, acts l → (s.readS d).getLsbD l = true) → exec (.ball d o) s = goes s near)
    ∧ ((∃ l < 64, acts l ∧ (s.readS d).getLsbD l = false) → exec (.ball d o) s = goes s next)
    ∧ (s.need s.guardRegs = .ok () → (∃ l < 64, own.getLsbD l = true ∧ ¬ acts l) →
        exec .exit s = .next ((s.jump next).endLanes g s.active))

/-- What a port of a lane's item is after the lane has ended (R137, R138): ended where it is enabled, as it was elsewhere. -/
def Sys2Proof.Stated.PortsEnd (s t : State) (g : Nat) (lanes : Lanes) : Prop :=
  ∀ id, s.launchOf g = some id → ∀ n < 8, ∀ wid,
    (((t.launch id).item n wid).ended = true ↔ ((s.launch id).item n wid).ended = true
      ∨ ((s.launch id).portOn n = true ∧ ∃ l < 64, lanes.getLsbD l = true ∧ ((s.group g).wid l).toNat = wid))

/-- R125, R121, R138: what the end of lanes does; and `exit` of a slot's last lanes beside a slot that runs, or of the
group's last lanes, with the divergence area empty. -/
def Sys2Proof.Stated.LaneEnds : Prop :=
  (∀ (s : State) (g : Nat) (lanes : Lanes), ∃ t, s.endLanes g lanes = t
    ∧ t.mem = s.mem ∧ t.grans = s.grans ∧ t.cores = s.cores ∧ (t.group g).exited = (s.group g).exited ||| lanes
    ∧ (∀ k < 2, (t.group g).slot k = { (s.group g).slot k with
        own := ((s.group g).slot k).own &&& ~~~ lanes, mask := ((s.group g).slot k).mask &&& ~~~ lanes })
    ∧ (t.group g).hart = (s.group g).hart ∧ (t.group g).life = (s.group g).life ∧ PortsEnd s t g lanes)
  ∧ ∀ (s : State) (g : Nat) (k : Fin 2), s.cur = .slot g k.val → s.need s.guardRegs = .ok () →
      s.active ≠ 0 → (s.slot s.cur).own &&& ~~~ s.active = 0 → (s.group g).ds = (s.group g).dshi →
      let y := (s.group g).slot (1 - k.val)
      (y.st = .run → ∃ t, exec .exit s = .next t ∧ (t.group g).slot k.val = {} ∧ (t.group g).life = (s.group g).life
        ∧ ((t.group g).slot (1 - k.val)).st = .run
        ∧ (t.group g).exited = (s.group g).exited ||| s.active ∧ t.mem = s.mem ∧ PortsEnd s t g s.active)
      ∧ (y.st = .free → (s.group g).life = .running → (s.group g).tile = none → ∃ t, exec .exit s = .next t
        ∧ (t.group g).slot k.val = {} ∧ ((t.group g).slot (1 - k.val)).st = .free ∧ (t.group g).life = .draining
        ∧ (t.group g).exited = (s.group g).exited ||| s.active ∧ t.mem = s.mem ∧ PortsEnd s t g s.active)

/-- The group's area has an entry that can be read (R119 to R121): the entry e, of a kind that is not reserved, and the
state its reading leaves. -/
def Sys2Proof.Stated.TopIs (s : State) (g j : Nat) (e : DivEntry) (t : State) : Prop :=
  (s.group g).hart.handler = false ∧ (s.group g).life ≠ .saved ∧ (s.group g).ds ≠ (s.group g).dshi ∧ s.topEntry g j = .ok (e, t)

/-- R121: the top entry as it stands in memory, and what makes it unreadable. A poisoned or racing entry is the model's
choice (log 22). -/
def Sys2Proof.Stated.TopEntries : Prop :=
  ∀ (s : State) (g j : Nat) (l : Loc), s.areaLoc g (s.group g).ds = some l →
    let w (i : Nat) : Dword := BitVec.ofNat 64 (s.bytesAt (l.key + 8 * i) 8)
    let ds := (s.group g).ds
    let intact := (s.group g).dslo.toNat ≤ ds.toNat ∧ ds.toNat < (s.group g).dshi.toNat ∧ ds.toNat % 64 = 0
    (¬ intact → s.topEntry g j = .error (13, ds, 0, 0))
    ∧ (intact → match s.groupAccess (s.areaWho g j) l 64 0 with
        | .error x => s.topEntry g j = .error (7, ds, x.det2, x.det3)
        | .ok t =>
          (s.poisoned l.key 64 = true → s.topEntry g j = .error (11, ds, s.integrityDetail l, 0))
          ∧ (s.poisoned l.key 64 = false → 2 ≤ (w 3).toNat % 4 → s.topEntry g j = .error (13, ds, 0, 0))
          ∧ (s.poisoned l.key 64 = false → (w 3).toNat % 4 < 2 →
              s.topEntry g j = .ok ({ pc := w 0, own := w 1, mask := w 2, mpKind := w 3, pmode := w 4 }, t)))

/-- R121, R123: the rows of the slot table, in their order, and what follows row 5 or a damaged area. With both slots FREE
row 1 pops into slot 0 (log 23); row 5's fault address is 0 (log 24). -/
def Sys2Proof.Stated.SlotRows : Prop :=
  ∀ (s t : State) (g j : Nat) (e : DivEntry),
    let G := s.group g
    let out := ~~~ G.exited
    let free := G.slot0.st = .free ∨ G.slot1.st = .free
    -- row 1
    (∀ k, k = (if G.slot0.st = .free then 0 else 1) → TopIs s g j e t → t.group g = G → free → e.kind = 0 →
        ∃ u, s.examineOnce g j = .next u ∧ (u.group g).ds = G.ds + 64 ∧ u.mem = t.mem
          ∧ (u.group g).slot (1 - k) = G.slot (1 - k)
          ∧ (e.own &&& out = 0 → (u.group g).slot k = {})
          ∧ (e.own &&& out ≠ 0 → SMap.get G.trap.parked G.ds.toNat {} = {} → (u.group g).slot k =
              { st := .run, pc := e.pc &&& ~~~ 3, own := e.own &&& out, mask := e.mask &&& out, mp := e.mp, pmode := e.pm }))
    -- row 2: one slot waits and the other is FREE, or both wait at one point; the first to wait goes on
    ∧ (∀ k < 2, TopIs s g j e t → t.group g = G → e.kind = 1 → (G.slot k).st = .wait → e.pc = (G.slot k).mp →
        ((G.slot (1 - k)).st = .free ∨ ((G.slot (1 - k)).st = .wait ∧ G.slot0.mp = G.slot1.mp ∧ k = 1 - G.lastWaiter)) →
        ∃ u, s.examineOnce g j = .next u ∧ (u.group g).ds = G.ds + 64 ∧ u.mem = t.mem ∧ (u.group g).slot (1 - k) = {}
          ∧ ((u.group g).slot k).st = .run ∧ ((u.group g).slot k).pc = (G.slot k).pc + 4
          ∧ ((u.group g).slot k).own = e.own &&& out ∧ ((u.group g).slot k).mask = e.mask &&& out
          ∧ ((u.group g).slot k).mp = e.mp)
    -- row 3: a JOIN entry with both slots FREE is discarded
    ∧ (TopIs s g j e t → t.group g = G → e.kind = 1 → G.slot0.st = .free → G.slot1.st = .free →
        ∃ u, s.examineOnce g j = .next u ∧ (u.group g).ds = G.ds + 64 ∧ u.mem = t.mem
          ∧ (u.group g).slot0 = G.slot0 ∧ (u.group g).slot1 = G.slot1)
    -- row 4
    ∧ (G.ds = G.dshi → G.slot0.st = .free → G.slot1.st = .free → G.life = .running → G.tile = none →
        ∃ u, s.examineOnce g j = .next u ∧ u.mem = s.mem ∧ u.group g = { G with life := .draining })
    -- row 5: a slot waits beside a FREE one and nothing is on the area, or a JOIN entry for another point
    ∧ (∀ k < 2, G.life ≠ .saved → G.hart.handler = false → (G.slot k).st = .wait → (G.slot (1 - k)).st = .free →
        (G.ds = G.dshi ∨ (TopIs s g j e t ∧ e.kind = 1 ∧ e.pc ≠ (G.slot k).mp)) → s.examineOnce g j = .stuck k)
    ∧ (G.life ≠ .saved → G.hart.handler = false → G.slot0.st = .wait → G.slot1.st = .wait → G.slot0.mp ≠ G.slot1.mp →
        s.examineOnce g j = .stuck G.lastWaiter)
    -- what follows
    ∧ (∀ k tpc w, s.examineOnce g j = .stuck k → s.examined (.slot g j) tpc w =
        (s.unmerge g k).takeTrap (.slot g k) { cause := 13, tpc := (G.slot k).pc, resume := (G.slot k).pc, word := 0x0A000000, slot := k })
    ∧ (∀ f tpc w, s.examineOnce g j = .damaged f → s.examined (.slot g j) tpc w = s.takeTrap (.slot g j)
        { cause := f.1, tpc := tpc, resume := (G.slot j).pc, addr := f.2.1, det2 := f.2.2.1, det3 := f.2.2.2, word := w, slot := j })
    ∧ (∀ (u : State) tpc w, s.examineOnce g j = .nothing → s.examined (.slot g j) tpc w = s
        ∧ (u.examineOnce g j = .next s → u.examined (.slot g j) tpc w = s))
/-- R122, R120, R119: `bsplit` in a group: no lane, every lane, or some lanes take the target; then the JOIN entry is on
the area, or the race it meets is the fault, which is the model's choice (log 22). A busy other slot is parked first. -/
def Sys2Proof.Stated.SplitsOf : Prop :=
  ∀ (a : BitVec 8) (x : BitVec 32) (s : State) (g : Nat) (k : Fin 2) (c : Clause),
    s.cur = .slot g k.val → (s.slot s.cur).clause = some c → s.need ([a, 60] ++ s.guardRegs) = .ok () →
    let next := c.hdr + 4 * BitVec.ofNat 64 (c.len + 1)
    let target := c.hdr + 4 * (x.extractLsb' 16 16).signExtend 64
    let merge := c.hdr + 4 * (x.extractLsb' 0 16).signExtend 64
    let me := s.slot s.cur
    let taken := s.active &&& s.readS a
    let ds := (s.group g).ds
    (taken = 0 → exec (.bsplit a x) s = goes s next)
    ∧ (taken ≠ 0 → me.own &&& ~~~ taken = 0 → exec (.bsplit a x) s = goes s target)
    ∧ (taken ≠ 0 → me.own &&& ~~~ taken ≠ 0 → ((s.group g).slot (1 - k.val)).st = .free →
        (s.group g).dslo.toNat + 64 ≤ ds.toNat → ds.toNat ≤ (s.group g).dshi.toNat → ds.toNat % 64 = 0 →
        s.otherBusy g k.val = none → ∀ l, s.areaLoc g (ds - 64) = some l →
        match s.groupAccess (s.areaWho g k.val) l 64 1 with
        | .error race => exec (.bsplit a x) s = traps s 7 (ds - 64) race.det2 race.det3
        | .ok _ => ∃ t, exec (.bsplit a x) s = .next t
          ∧ (t.group g).ds = ds - 64
          ∧ (t.slot s.cur).pc = next ∧ (t.slot s.cur).own = me.own &&& ~~~ taken
          ∧ (t.slot s.cur).mask = me.mask &&& ~~~ taken ∧ (t.slot s.cur).mp = merge
          ∧ (t.group g).slot (1 - k.val) = { st := .run, pc := target, own := taken, mask := taken, mp := merge }
          ∧ (∀ j < 8, t.bytesAt (l.key + 8 * j) 8 =
              ([merge, me.own, me.mask, (me.mp &&& ~~~ 3) + 1, 0, 0, 0, 0].getD j (0 : Dword)).toNat)
          ∧ ∀ key, key < l.key ∨ l.key + 64 ≤ key → Mem.byte t.mem key = Mem.byte s.mem key)

/-- R122, R120: `bsplit` in a group whose other slot Y is not FREE: Y is parked, then the JOIN entry pushed, and Y's place
goes to the lanes that take the target. -/
def Sys2Proof.Stated.SplitBesideSlot : Prop :=
  ∀ (a : BitVec 8) (x : BitVec 32) (s : State) (g : Nat) (k : Fin 2) (c : Clause) (l m : Loc),
    s.cur = .slot g k.val → (s.slot s.cur).clause = some c → s.need ([a, 60] ++ s.guardRegs) = .ok () →
    let next := c.hdr + 4 * BitVec.ofNat 64 (c.len + 1)
    let target := c.hdr + 4 * (x.extractLsb' 16 16).signExtend 64
    let merge := c.hdr + 4 * (x.extractLsb' 0 16).signExtend 64
    let me := s.slot s.cur
    let taken := s.active &&& s.readS a
    let ds := (s.group g).ds
    let Y := (s.group g).slot (1 - k.val)
    taken ≠ 0 → me.own &&& ~~~ taken ≠ 0 → Y.st ≠ .free →
    (s.group g).dslo.toNat + 128 ≤ ds.toNat → ds.toNat ≤ (s.group g).dshi.toNat → ds.toNat % 64 = 0 →
    s.areaLoc g (ds - 64) = some l → s.areaLoc g (ds - 128) = some m → m.key + 64 = l.key →
    (∀ n, s.otherBusy g k.val = some n → exec (.bsplit a x) s = waits s (.op n))
    ∧ (s.otherBusy g k.val = none →
        (∀ race, s.groupAccess (s.areaWho g k.val) l 64 1 = .error race →
          exec (.bsplit a x) s = traps s 7 (ds - 64) race.det2 race.det3)
        ∧ (s.race.active = false → s.checkedAccess (s.areaWho g k.val) l = false →
            s.checkedAccess (s.areaWho g k.val) m = false → ∃ t, exec (.bsplit a x) s = .next t
              ∧ (t.group g).ds = ds - 128
              ∧ (t.slot s.cur).pc = next ∧ (t.slot s.cur).own = me.own &&& ~~~ taken
              ∧ (t.slot s.cur).mask = me.mask &&& ~~~ taken ∧ (t.slot s.cur).mp = merge
              ∧ (t.group g).slot (1 - k.val) = { st := .run, pc := target, own := taken, mask := taken, mp := merge }
              ∧ SMap.get (t.group g).trap.parked (ds - 64).toNat {} = Y
              ∧ (∀ j < 8, t.bytesAt (l.key + 8 * j) 8 = ([Y.framed.pc, Y.framed.own, Y.framed.mask, Y.framed.mp &&& ~~~ 3,
                  (match Y.framed.pmode with | none => 0 | some p => 0x1000000 ||| p.setWidth 64), 0, 0, 0].getD j (0 : Dword)).toNat)
              ∧ (∀ j < 8, t.bytesAt (m.key + 8 * j) 8 =
                  ([merge, me.own, me.mask, (me.mp &&& ~~~ 3) + 1, 0, 0, 0, 0].getD j (0 : Dword)).toNat)
              ∧ ∀ key, key < m.key ∨ l.key + 64 ≤ key → Mem.byte t.mem key = Mem.byte s.mem key))

/-- R122: a split for which the area has no room is a divergence-stack fault, and nothing has changed. -/
def Sys2Proof.Stated.SplitWithoutRoom : Prop :=
  ∀ (a : BitVec 8) (x : BitVec 32) (s : State) (g k : Nat),
    s.cur = .slot g k → s.need ([a, 60] ++ s.guardRegs) = .ok () →
    let me := s.slot s.cur
    let taken := s.active &&& s.readS a
    let ds := (s.group g).ds
    let need := if ((s.group g).slot (1 - k)).st = .free then 64 else 128
    taken ≠ 0 → me.own &&& ~~~ taken ≠ 0 →
    (ds.toNat < (s.group g).dslo.toNat + need ∨ (s.group g).dshi.toNat < ds.toNat ∨ ds.toNat % 64 ≠ 0) →
    exec (.bsplit a x) s = traps s 13 ds

/-- R123: `bmerge` in a group, at its merge point while the other slot runs, and elsewhere. -/
def Sys2Proof.Stated.Merges : Prop :=
  ∀ (s : State) (g : Nat) (k : Fin 2), s.cur = .slot g k.val →
    ((s.slot s.cur).mp ≠ (s.slot s.cur).hdr → exec .bmerge s = .next s.retire)
    ∧ ((s.slot s.cur).mp = (s.slot s.cur).hdr → ((s.group g).slot (1 - k.val)).st = .run →
        exec .bmerge s = .next (s.count.setSlot s.cur
          { s.count.slot s.cur with st := .wait, since := s.cycle, waveMode := (s.slot s.cur).pmode }))

/-- R345, R353: the deliberate traps, once the slot's accesses are complete; until then they wait. -/
def Obligations.DeliberateTraps : Prop :=
  ∀ (n : BitVec 24) (s : State),
    (s.accessInFlight = true → exec (.trap n) s = waits s .drain ∧ exec (.svc n) s = waits s .drain
      ∧ exec (.brk n) s = waits s .drain) ∧ (s.accessInFlight = false →
    let x := s.slot s.cur
    let entry (cause : Nat) (resume : Dword) : Answer := .next (s.takeTrap s.cur
      { cause := cause, tpc := x.pc, resume := resume, addr := if isSys s.cur then x.pc else 0, word := s.word,
        slot := slotNo s.cur, done := x.done })
    (∀ c, x.clause = some c → exec (.trap n) s = entry 15 (c.hdr + 4 * BitVec.ofNat 64 (c.len + 1))
      ∧ exec (.svc n) s = entry 17 (c.hdr + 4 * BitVec.ofNat 64 (c.len + 1)))
    ∧ (isSys s.cur = true → exec (.brk n) s = entry 14 (x.pc + 4))
    ∧ (∀ g k, s.cur = .slot g k →
        let w := (s.partSt (s.group g).partKey).ctx
        exec (.brk n) s = if w.getLsbD 8 = true ∧ w.toNat % 64 = (s.group g).hart.ctx
          then .next (s.retire.stopPart (s.group g).partKey 2 0) else entry 14 (x.pc + 4)))

namespace Sys2Proof.Stated

/-- The access of `n` bytes at `va` meets none of the faults of R55: it lands at `l`, the state then being `t`. -/
def Lands (s : State) (va : Dword) (n : Nat) (k : AccKind) (l : Loc) (t : State) : Prop :=
  s.scalarAccess va n n k false = .ok (l, t)

/-- The address operands of a scalar load or store of `n` bytes (R66). -/
def offsetAddress (s : State) (a i : BitVec 8) (n : Nat) : Dword := s.readS a + i.signExtend 64 * BitVec.ofNat 64 n

/-- Byte j of a value, least significant first (R6). -/
def byteOf (v : Dword) (j : Nat) : Byte := v.extractLsb' (8 * j) 8

/-- What a scalar access may change beside its own agent and memory: the buffered translations, the race detector's
records, the operations in flight. -/
def AccessFrame (s t : State) : Prop :=
  t = { s with
    cores := t.cores, groups := t.groups, mem := t.mem, grans := t.grans, buffered := t.buffered,
    free := t.free, race := t.race, ops := t.ops, nextId := t.nextId }

/-- The operation that a counted scalar load puts into flight: s[d] := v when it completes, counted by pip `p`; with the
poison it has met, if any. -/
def counted (t : State) (p : Nat) (d : BitVec 8) (v : Dword) (l : Loc) (bad : Option (Nat × Dword × Dword)) : Answer :=
  .next ((t.launchOp { t.opHere (some p) (.scalar d.toNat v) with
    pendS := if d = 0 then [] else [d.toNat], far := t.thread.far l.key, bad := bad }).retire)

/-- A scalar load or store (R66): its bytes, its kind of access, its address, the registers it names. -/
def ScalarForm (s : State) (f : BitVec 8 → BitVec 8 → BitVec 8 → Instr) (n : Nat) (k : AccKind) (d a b : BitVec 8)
    (va : Dword) (names : List (BitVec 8)) : Prop :=
  (f, n, k) ∈ ([(.sld8, 1, .read), (.sld16, 2, .read), (.sld32, 4, .read), (.sld64, 8, .read), (.sst8, 1, .write),
      (.sst16, 2, .write), (.sst32, 4, .write), (.sst64, 8, .write)]
      : List ((BitVec 8 → BitVec 8 → BitVec 8 → Instr) × Nat × AccKind)) ∧ va = offsetAddress s a b n ∧ names = [d, a]
  ∨ (f, n, k) ∈ ([(.sldx, 8, .read), (.sstx, 8, .write)]
      : List ((BitVec 8 → BitVec 8 → BitVec 8 → Instr) × Nat × AccKind)) ∧ va = s.readS a + s.readS b ∧ names = [d, a, b]

/-- Where a scalar operation that is performed late stands for the detection of races. -/
def lateWho (s : State) (o : Op) : Who := if isSys o.agent then s.opWho o 0 else { s.opWho o 0 with kind := .thread }

/-! ## Page tables (R214, R215) -/

/-- The bits of an address below the index of level j of a walk, and that index. -/
def walkShift (j : Nat) : Nat := [36, 30, 21, 16].getD j 0
def walkIndex (root : Dword) (va j : Nat) : Nat := va / 2 ^ walkShift j % 2 ^ [root.toNat % 32, 6, 9, 5].getD j 0

/-- ADDR of an entry, or of CTXROOT. -/
def tableAddr (e : Dword) : Nat := (e.extractLsb' 8 41).toNat * 256

/-- The entry that a walk reads at level j. -/
def walkEntry (s : State) (root : Dword) (va : Nat) : Nat → Dword
  | 0 => BitVec.ofNat 64 (s.bytesAt (tableAddr root + 8 * walkIndex root va 0) 8)
  | j + 1 => BitVec.ofNat 64 (s.bytesAt (tableAddr (walkEntry s root va j) + 8 * walkIndex root va (j + 1)) 8)

/-- No reserved bit of an entry is set. -/
def NoReserved (e : Dword) : Prop := e.extractLsb' 49 15 = 0 ∧ e.getLsbD 7 = false ∧ e.getLsbD 5 = false

/-- An entry leads to the next level. -/
def LeadsOn (e : Dword) : Prop := e.getLsbD 0 = true ∧ NoReserved e ∧ e.getLsbD 1 = false

/-- What a leaf does not permit: the cause of R220. -/
def refusedBy (e : Dword) (k : AccKind) : Option Nat :=
  if (k = .read ∨ k = .rmw) ∧ e.getLsbD 2 = false then some 1
  else if (k = .write ∨ k = .rmw) ∧ e.getLsbD 3 = false then some 2
  else if k = .fetch ∧ e.getLsbD 4 = false then some 3 else none

end Sys2Proof.Stated

/-- R66, R67, R6, R224: scalar loads from their own package, that are no logged input: landed at once under SETA 15, else
counted; of a poisoned granule a precise trap, or the fault that its completion makes due. -/
def Sys2Proof.Stated.ScalarLoads : Prop :=
  ∀ (f : BitVec 8 → BitVec 8 → BitVec 8 → Instr) (n : Nat) (d a b : BitVec 8) (s t : State) (l : Loc) (va : Dword)
    (names : List (BitVec 8)), ScalarForm s f n .read d a b va names →
    Ready s names → s.needPip s.setA = .ok () → Lands s va n .read l t → s.away s.cur l = false →
    (isSys s.cur && t.logged (s.pkgOf s.cur) (s.ctxOf s.cur) va) = false →
    ∃ v : Dword,
      (∀ j < 8, byteOf v j = if j < n then Mem.byte s.mem (l.key + j) else 0)
      ∧ (t.poisoned l.key n = false →
          (s.setA = none → exec (f d a b) s = puts t d v)
          ∧ (∀ p, s.setA = some p → exec (f d a b) s = counted t p d v l none))
      ∧ (t.poisoned l.key n = true →
          (s.setA = none → exec (f d a b) s = traps t 11 (va &&& ~~~ 63) (t.integrityDetail l))
          ∧ (∀ p, s.setA = some p →
              exec (f d a b) s = counted t p d v l (some (0, va &&& ~~~ 63, t.integrityDetail l))))
      ∧ AccessFrame s t ∧ t.mem = s.mem ∧ t.grans = s.grans ∧ t.cores = s.cores ∧ t.groups = s.groups

/-- R66, R6, R223: scalar stores to their own package write their bytes and no other, in the one order of the machine. -/
def Sys2Proof.Stated.ScalarStores : Prop :=
  ∀ (f : BitVec 8 → BitVec 8 → BitVec 8 → Instr) (n : Nat) (d a b : BitVec 8) (s t : State) (l : Loc) (va : Dword)
    (names : List (BitVec 8)), ScalarForm s f n .write d a b va names →
    Ready s names → s.needPip s.setA = .ok () → Lands s va n .write l t → s.scalarAway va n .write = none →
    ∃ u, exec (f d a b) s = .next u ∧ AccessFrame s u
      ∧ (∀ j < n, Mem.byte u.mem (l.key + j) = byteOf (s.readS d) j)
      ∧ (∀ key, key < l.key ∨ l.key + n ≤ key → Mem.byte u.mem key = Mem.byte s.mem key)
      ∧ (∀ r, u.readS r = s.readS r)
      ∧ (u.slot s.cur).pc = (s.slot s.cur).pc + 4

/-- R66, R388: a scalar load or store whose home lies in another package: it is in flight, with its one access not yet
performed; uncounted, its slot waits for it. -/
def Sys2Proof.Stated.ScalarsSentAway : Prop :=
  ∀ (f : BitVec 8 → BitVec 8 → BitVec 8 → Instr) (n : Nat) (k : AccKind) (d a b : BitVec 8) (s u : State) (l : Loc)
    (va : Dword) (names : List (BitVec 8)), ScalarForm s f n k d a b va names →
    Ready s names → s.needPip s.setA = .ok () → s.scalarAway va n k = some (l, u) →
    ∃ t o, exec (f d a b) s = .next t ∧ SMap.find t.ops s.nextId = some o
      ∧ o.agent = s.cur ∧ o.pip = s.setA ∧ o.entries = 0 ∧ o.bad = none
      ∧ o.kind = .parkedScalar (if k = .read then d.toNat else 0) (if k = .read then .load else .store)
      ∧ o.pendS = (if k = .read ∧ d ≠ 0 then [d.toNat] else [])
      ∧ (∃ r, o.reqs = [r] ∧ r.key = l.key ∧ r.n = n ∧ r.data = (if k = .read then 0 else (s.readS d).toNat))
      ∧ t.mem = s.mem ∧ t.grans = s.grans ∧ (∀ r, t.readS r = s.readS r)
      ∧ (∀ q, s.setA = some q → (t.hart s.cur).pip q = (s.hart s.cur).pip q + 1)
      ∧ (s.setA = none → (t.slot s.cur).block = some (.op s.nextId))
      ∧ (t.slot s.cur).pc = (s.slot s.cur).pc + 4

/-- R55: the checks of a scalar access in their order, on every load and store. -/
def Sys2Proof.Stated.ScalarAccessFaults : Prop :=
  ∀ (f : BitVec 8 → BitVec 8 → BitVec 8 → Instr) (n : Nat) (kind : AccKind) (d a b : BitVec 8) (s : State) (va : Dword)
    (names : List (BitVec 8)), ScalarForm s f n kind d a b va names → Ready s names → s.needPip s.setA = .ok () →
    let x := s.xlate s.thread va kind
    (va.toNat % n ≠ 0 → exec (f d a b) s = traps s 5 va)
    ∧ (va.toNat % n = 0 → x.1 = .bad → exec (f d a b) s = traps s 6 va)
    ∧ (∀ c g k, va.toNat % n = 0 → x.1 = .miss c → s.cur = .slot g k →
        ∃ t, exec (f d a b) s = .next t
          ∧ (t.group g).parked = (s.group g).parked + 1
          ∧ (∃ e, t.faults = s.faults ++ [e] ∧ e.gid = some g ∧ e.slot = k ∧ e.va = va ∧ e.kind = kind ∧ e.cause = c)
          ∧ (∀ q, s.setA = some q → (t.hart s.cur).pip q = (s.hart s.cur).pip q + 1)
          ∧ (s.setA = none → (t.slot s.cur).block = some (.op s.nextId))
          ∧ t.mem = s.mem ∧ (∀ r, t.readS r = s.readS r) ∧ (t.slot s.cur).pc = (s.slot s.cur).pc + 4)
    ∧ (∀ l e, va.toNat % n = 0 → x.1 = .at l → s.scalarAway va n kind = none →
        x.2.raceAccess s.thread l n (if kind = .read then 0 else 1) false = .error e →
        exec (f d a b) s = traps s 7 va e.det2 e.det3)

/-- R54, R209: what has no translation; the boot mapping; a core sees a missing page as an unresolvable address. -/
def Sys2Proof.Stated.AddressRanges : Prop :=
  ∀ (s : State) (w : Who) (va : Dword) (k : AccKind),
    let window := va.toNat / 2 ^ 40 = 0xF000
    let alias_ := va.toNat / 2 ^ 20 = 0xE00000000
    (2 ^ 57 ≤ va.toNat → (s.xlate w va k).1 = .bad)
    ∧ (window ∨ alias_ → k = .fetch → (s.xlate w va k).1 = .bad)
    ∧ (alias_ → w.kind = .core ∨ w.kind = .engine → (s.xlate w va k).1 = .bad)
    ∧ (va.toNat < 2 ^ 57 → ¬ window → ¬ alias_ → (s.ctx w.pkg w.ctx).direct = true → va.toNat < 2 ^ 36 →
        s.xlate w va k = (.at { key := w.pkg * 2 ^ 39 + va.toNat, addr := w.pkg * 2 ^ 39 + va.toNat }, s))
    ∧ (¬ window → ¬ alias_ → w.kind = .core → (s.xlate w va k).1 =
        match (s.xlate { w with kind := .engine } va k).1 with
        | .miss _ => .bad
        | x => x)
    ∧ (w.kind = .core → ∀ c, (s.xlate w va k).1 ≠ .miss c)

/-- R208 to R210, R386: where an address of the window or the local alias lands: at its core's slice, where the core is
enabled, its package reached, its unit the agent's own. A package that reaches itself whatever its route entry holds is the
model's choice (log 86). -/
def Sys2Proof.Stated.WindowPlaces : Prop :=
  (∀ (s : State) (a b : Nat), s.listed a b = true ↔ b = a ∨
    ((s.pkg b).on = true ∧ (SMap.get (s.pkg a).routes (2 * b + 1) 0).getLsbD 15 = true
      ∧ ∃ i < 72, (SMap.get (s.pkg a).links i {}).st = 2
        ∧ (if i < 64 then (SMap.get (s.pkg a).routes (2 * b) 0).getLsbD i
            else (SMap.get (s.pkg a).routes (2 * b + 1) 0).getLsbD (i - 64)) = true))
  ∧ ∀ (s : State) (w : Who) (va : Dword) (k : AccKind) (place : Nat), k ≠ .fetch →
    (va.toNat / 2 ^ 40 = 0xF000 ∧ place = va.toNat % 2 ^ 40
      ∨ va.toNat / 2 ^ 20 = 0xE00000000 ∧ (w.kind = .thread ∨ w.kind = .lane)
        ∧ place = w.pkg * 2 ^ 30 + w.die * 2 ^ 27 + w.core * 2 ^ 20 + va.toNat % 2 ^ 20) →
    let p := place / 2 ^ 30
    let core := place / 2 ^ 20 % 128
    let e := SMap.get (s.pkg p).places (place / 2 ^ 27 % 8 * 128 + core) 0
    let key := 2 ^ 49 + p * 2 ^ 30 + place / 2 ^ 27 % 8 * 2 ^ 27 + e.toNat % 128 * 2 ^ 20 + place % 2 ^ 20
    let tag := SMap.find s.units ((key - 2 ^ 49) / 1024)
    let there := s.listed w.pkg p = true ∧ core < 88 ∧ e.getLsbD 7 = true
    (¬ there → s.xlate w va k = (.bad, s))
    ∧ (there → w.kind = .core →
        s.xlate w va k = (.at { key := key, addr := place, race := (tag.map UnitTag.race).getD false }, s))
    ∧ (there → w.kind ≠ .core → ∀ u, tag = some u → u.ctx = w.ctx →
        s.xlate w va k = (.at { key := key, addr := place, race := u.race }, s))
    ∧ (there → w.kind ≠ .core → tag = none ∨ (∃ u, tag = some u ∧ u.ctx ≠ w.ctx) → s.xlate w va k = (.bad, s))

/-- R214 to R216, R213: the walk of the page tables, level by level, where no translation of the page is buffered: missing,
unresolvable, a permission that the leaf lacks, or the physical address. -/
def Sys2Proof.Stated.PageWalks : Prop :=
  ∀ (s : State) (w : Who) (va : Dword) (k : AccKind), w.kind ≠ .core → va.toNat < 2 ^ 57 →
    va.toNat / 2 ^ 40 ≠ 0xF000 → va.toNat / 2 ^ 20 ≠ 0xE00000000 → (s.ctx w.pkg w.ctx).direct = false →
    SMap.find s.buffered (bufKey w.pkg w.ctx va.toNat) = none →
    let root := (s.ctx w.pkg w.ctx).root
    let e := walkEntry s root va.toNat
    let x := (s.xlate w va k).1
    (va.toNat / 2 ^ (36 + root.toNat % 32) ≠ 0 → x = .bad)
    ∧ (va.toNat / 2 ^ (36 + root.toNat % 32) = 0 → ∀ j < 4, (∀ i < j, LeadsOn (e i)) →
        ((e j).getLsbD 0 = false → x = .miss 0)
        ∧ ((e j).getLsbD 0 = true → ¬ NoReserved (e j) → x = .bad)
        ∧ (j = 3 → LeadsOn (e j) → x = .bad)
        ∧ ((e j).getLsbD 0 = true → NoReserved (e j) → (e j).getLsbD 1 = true →
            let p := tableAddr (e j) + va.toNat % 2 ^ walkShift j
            (tableAddr (e j) % 2 ^ walkShift j ≠ 0 → x = .bad)
            ∧ (tableAddr (e j) % 2 ^ walkShift j = 0 →
                (∀ c, refusedBy (e j) k = some c → x = .miss c)
                ∧ (refusedBy (e j) k = none → x = if s.listed w.pkg (p / 2 ^ 39) = true
                    then .at { key := p, addr := p, race := (e j).getLsbD 6 } else .bad))))

/-- R28, R67, R224: a counted scalar operation completes: its register is written and its pip counts down; of poisoned
data, it stays counted and its fault waits for its slot's boundary. -/
def Sys2Proof.Stated.ScalarCompletes : Prop :=
  ∀ (n d : Nat) (v : Dword) (o : Op) (s : State), SMap.find s.ops n = some o → o.kind = .scalar d v → o.entries = 0 →
    o.reqs = [] → o.due = false → o.ends = none → s.stopOf o.agent = none →
    (o.bad = none → (s.group (gidOf o.agent)).regs.lost = [] →
        exec (.scalarAccessComplete n) s = .next ((s.dropOp n o).writeSFor o.agent d v))
    ∧ (∀ p, o.bad ≠ none → o.pip = some p → ∃ t, exec (.scalarAccessComplete n) s = .next t
        ∧ t = { s with ops := t.ops, groups := t.groups } ∧ (o.holds = false → t.groups = s.groups)
        ∧ SMap.find t.ops n = some { o with due := true, holds := false }
        ∧ ∀ m, m ≠ n → SMap.find t.ops m = SMap.find s.ops m)
    ∧ SMap.find (s.dropOp n o).ops n = none
    ∧ (∀ p, o.pip = some p → ((s.dropOp n o).hart o.agent).pip p = (s.hart o.agent).pip p - 1)

/-- R66, R67, R389: a scalar access that was sent to another package performs there as it completes, on what memory then
holds. -/
def Sys2Proof.Stated.AwayScalarsComplete : Prop :=
  ∀ (n d : Nat) (r : LaneReq) (o : Op) (s u : State), SMap.find s.ops n = some o → o.reqs = [r] → o.entries = 0 →
    o.due = false → o.ends = none → o.bad = none → o.tensor = none → s.stopOf o.agent = none →
    (s.group (gidOf o.agent)).regs.lost = [] →
    (o.kind = .parkedScalar d .load → s.raceAccess (lateWho s o) r.loc r.n 0 false = .ok u → u.poisoned r.key r.n = false →
        exec (.scalarAccessComplete n) s =
          .next ((u.dropOp n o).writeSFor o.agent d (BitVec.ofNat 64 (s.bytesAt r.key r.n))))
    ∧ (o.kind = .parkedScalar d .store → s.raceAccess (lateWho s o) r.loc r.n 1 false = .ok u →
        u.poisoned r.key r.n = false → ∃ t, exec (.scalarAccessComplete n) s = .next t ∧ SMap.find t.ops n = none
          ∧ t.bytesAt r.key r.n = r.data % 256 ^ r.n
          ∧ ∀ key, key < r.key ∨ r.key + r.n ≤ key → Mem.byte t.mem key = Mem.byte s.mem key)

/-- R224, R28, R52: the fault of a counted load is taken at its slot's boundary, the recorded PC being the slot's next
word; the trap retires the load: it is counted on its pip, and among the retired, no more. In a handler it is a trap in
handler mode, which is the model's choice where the slot is FREE (log 91). -/
def Sys2Proof.Stated.DeferredFaults : Prop :=
  ∀ (a : Agent) (n b : Nat) (addr det2 : Dword) (o : Op) (s : State), s.dueOp a = some (n, o) →
    o.bad = some (b, addr, det2) → s.takesDue a = true →
    let u := s.dropOp n o
    exec (.deferredDataIntegrityFault a) s = .next
      (if isSys a = false ∧ (s.slot a).st = .free ∧ (s.hart a).handler = false then u
       else (u.setHart a { u.hart a with retired := (u.hart a).retired - 1 }).takeTrap a
        { cause := 11, tpc := o.pc, resume := (s.slot a).pc, addr := addr, det2 := det2, word := o.word,
          slot := slotNo a, done := (s.slot a).done, name := ((s.slot a).named).getD 0 })

namespace Sys2Proof.Stated

/-- The mode the issuing slot's next instruction reads (R99): the pending mode, else `md`. -/
def modeOf (s : State) : ModeWord := match (s.slot s.cur).pmode with | some m => m | none => (s.hart s.cur).md

/-- A value that `md` takes (R37): bits 23:22 zero, RM (bits 12:10) at most 5. -/
def ModeLegal (m : ModeWord) : Prop := m.extractLsb' 22 2 = 0 ∧ (m.extractLsb' 10 3).toNat ≤ 5

/-- The RM of a mode, its OV and IS (R37). -/
def rmOf (m : ModeWord) : Nat := (m.extractLsb' 10 3).toNat
def ovOf (m : ModeWord) : Bool := m.getLsbD 13
def isOf (m : ModeWord) : Bool := m.getLsbD 14

/-- The record of the mode's SF (bits 4:0) and DF (bits 9:5) in the issuing context's table. -/
def sfRecord (s : State) : Dword := s.fmtHere ((modeOf s).extractLsb' 0 5).toNat
def dfRecord (s : State) : Dword := s.fmtHere ((modeOf s).extractLsb' 5 5).toNat

/-- fp32 or fp64, the formats of scalar floating point (R106). -/
def FloatRecord (r : Dword) : Prop := r = 0x8C2E0FE000000000 ∨ r = 0x8DE87FE000000000

/-- The value of scalar register n as fp32 (its low 32 bits) or fp64 (R106). -/
def floatOf (s : State) (r : Dword) (n : BitVec 8) : Val :=
  readFloat (fmtOf r) ((s.readS n).toNat % (if r = 0x8C2E0FE000000000 then 2 ^ 32 else 2 ^ 64))

/-- The exact number of a finite value. -/
def number : Val → ℚ
  | .fin neg m e _ => (if neg then -1 else 1) * (m : ℚ) * (2 : ℚ) ^ e
  | _ => 0

/-- Where a value that is no NaN lies: below, among or above the numbers. -/
def side : Val → ℤ
  | .inf neg => if neg then -1 else 1
  | _ => 0

/-- x < y for values that are no NaN. -/
def below (x y : Val) : Prop := side x < side y ∨ (side x = 0 ∧ side y = 0 ∧ number x < number y)

/-- A finite value with nothing below its last digit. -/
def Exact (v : Val) : Prop := ∃ n m e, v = .fin n m e false

/-- R85: which of the candidates c and c + 1 is chosen in direction rm for a magnitude that lies `lo` above the one and `hi`
below the other. -/
def chosen (rm : Nat) (neg : Bool) (c : Nat) (lo hi : ℚ) : Nat :=
  match rm with
  | 0 => if lo < hi ∨ (lo = hi ∧ c % 2 = 0) then c else c + 1
  | 1 => c
  | 2 => if neg then c + 1 else c
  | 3 => if neg then c else c + 1
  | 4 => if lo < hi then c else c + 1
  | _ => if c % 2 = 0 then c + 1 else c

/-- R86: the magnitude code that an overflow writes. -/
def overflowMag (F : Fmt) (rm : Nat) (ov neg : Bool) : Nat :=
  if ov = false ∧ (rm = 0 ∨ rm = 4 ∨ (rm = 2 ∧ neg = true) ∨ (rm = 3 ∧ neg = false)) ∧ F.policy ≠ 2 then
    (if F.policy = 0 then (2 ^ F.ew - 1) * 2 ^ F.fw else 2 ^ (F.ew + F.fw) - 1)
  else maxCode F

end Sys2Proof.Stated

/-- R37, R98 to R100: the mode register and the pending mode. -/
def Sys2Proof.Stated.ModeWords : Prop :=
  ∀ (d a : BitVec 8) (x : BitVec 24) (s : State), Ready s [d, a] →
    let m : ModeWord := (s.readS a).extractLsb' 0 24
    let withMd (v : ModeWord) : State := s.setHart s.cur { s.hart s.cur with md := v }
    (ModeLegal x → exec (.setmode x) s = .next (withMd x).retire)
    ∧ (ModeLegal x → ∃ t, exec (.modeone x) s = .next t ∧ t = s.retire.setSlot s.cur { s.retire.slot s.cur with pmode := some x }
        ∧ modeOf t = x ∧ t.hart s.cur = { s.hart s.cur with retired := (s.hart s.cur).retired + 1 })
    ∧ exec (.rdmode d) s = puts s d ((modeOf s).setWidth 64)
    ∧ (ModeLegal m → exec (.wrmode a) s = .next (withMd m).retire)
    ∧ (¬ ModeLegal x → exec (.setmode x) s = traps s 1 ∧ exec (.modeone x) s = traps s 1)
    ∧ (¬ ModeLegal m → exec (.wrmode a) s = traps s 1)

/-- R99, R346, R364: a retired instruction uses the pending mode up; one that traps on a system-class core records it. -/
def Sys2Proof.Stated.PendingMode : Prop :=
  ∀ (s : State) (n : Nat) (x : BitVec 24),
    modeOf (s.retire n) = (s.hart s.cur).md
    ∧ (∀ p q r m, s.cur = .sys p q r → (s.slot s.cur).pmode = some m → (s.hart s.cur).handler = false →
        SMap.get (s.hart s.cur).trap 0x49 0 ≠ 0 → ¬ ModeLegal x →
        ∃ t, exec (.setmode x) s = .next t
          ∧ SMap.get (t.hart s.cur).trap 0x48 0 = BitVec.ofNat 64 (2 ^ 24 + m.toNat)
          ∧ (t.hart s.cur).md = (s.hart s.cur).md ∧ (t.slot s.cur).pmode = none)

/-- R101, R102: writing and reading a format entry. -/
def Sys2Proof.Stated.FormatEntries : Prop :=
  ∀ (d a b : BitVec 8) (s : State), Ready s [d, a, b] →
    let k := (s.readS a).toNat % 32
    let x := s.readS b
    (16 ≤ k → x = 0 ∨ checkRecord x = 0 →
      ∃ t, exec (.fmtset a b) s = .next t ∧ t = (s.setFmt k x).retire
        ∧ t.fmtRecord (s.pkgOf s.cur) (s.ctxOf s.cur) k = x
        ∧ (∀ j, j ≠ k → t.fmtRecord (s.pkgOf s.cur) (s.ctxOf s.cur) j = s.fmtRecord (s.pkgOf s.cur) (s.ctxOf s.cur) j))
    ∧ (k < 16 → exec (.fmtset a b) s = traps s 3 (BitVec.ofNat 64 (2 * 32 + k)))
    ∧ (16 ≤ k → x ≠ 0 → checkRecord x ≠ 0 →
        exec (.fmtset a b) s = traps s 3 (BitVec.ofNat 64 (checkRecord x * 256 + 2 * 32 + k)))
    ∧ exec (.fmtget d a) s = puts s d (s.fmtHere k)

/-- R106 to R108, R112: the scalar floating-point instructions that round. -/
def Sys2Proof.Stated.ScalarFloats : Prop :=
  ∀ (d a b : BitVec 8) (s : State), Ready s [d, a, b] → FloatRecord (sfRecord s) → FloatRecord (dfRecord s) →
    rmOf (modeOf s) ≠ 5 →
    let x := floatOf s (sfRecord s) a
    let y := floatOf s (sfRecord s) b
    let z := floatOf s (sfRecord s) d
    let rm := rmOf (modeOf s)
    let rounded (v : Val) : Answer := puts s d (BitVec.ofNat 64 (roundTo (fmtOf (dfRecord s)) rm (ovOf (modeOf s)) v))
    exec (.sfadd d a b) s = rounded (addVal rm x y)
    ∧ exec (.sfsub d a b) s = rounded (addVal rm x y.negate)
    ∧ exec (.sfmul d a b) s = rounded (mulVal x y)
    ∧ exec (.sffma d a b) s = rounded (fmaVal rm x y z)
    ∧ exec (.sfdiv d a b) s = rounded (divVal x y)
    ∧ exec (.sfmin d a b) s = rounded (minMaxVal false x y)
    ∧ exec (.sfmax d a b) s = rounded (minMaxVal true x y)
    ∧ exec (.sfsqrt d a) s = rounded (sqrtVal x)
    ∧ exec (.sfexp2 d a) s = (if (exp2Val x).2 then rounded (exp2Val x).1
        else puts s d (BitVec.ofNat 64 (roundNearest (fmtOf (dfRecord s)) rm (ovOf (modeOf s)) (exp2Val x).1)))

/-- R38, R77, R106: RM = 5, and entries other than fp32 and fp64, in scalar floating point. REASON 3 for an entry of kind 1 to
3, to which REASON 1 applies too, is the model's choice (log 33). -/
def Sys2Proof.Stated.ScalarFloatFaults : Prop :=
  ∀ (d a b : BitVec 8) (s : State), Ready s [d, a, b] →
    ∀ f ∈ ([.sfadd, .sfsub, .sfmul, .sfdiv, .sfmin, .sfmax, .sffma] : List (BitVec 8 → BitVec 8 → BitVec 8 → Instr)),
      let k := ((modeOf s).extractLsb' 0 5).toNat
      (rmOf (modeOf s) = 5 → exec (f d a b) s = traps s 1)
      ∧ (rmOf (modeOf s) ≠ 5 → ¬ FloatRecord (sfRecord s) →
          exec (f d a b) s = traps s 3 (BitVec.ofNat 64 ((if (sfRecord s).getLsbD 63 then 3 else 0) * 32 + k)))

/-- R109: the relation code of `sfcmp`. -/
def Sys2Proof.Stated.ScalarCompare : Prop :=
  ∀ (d a b : BitVec 8) (s : State), Ready s [d, a, b] → FloatRecord (sfRecord s) →
    let x := floatOf s (sfRecord s) a
    let y := floatOf s (sfRecord s) b
    ∃ v : Dword, exec (.sfcmp d a b) s = puts s d v
      ∧ (v = 1 ∨ v = 2 ∨ v = 4 ∨ v = 8)
      ∧ (v = 8 ↔ x.isNan = true ∨ y.isNan = true)
      ∧ (v = 2 ↔ x.isNan = false ∧ y.isNan = false ∧ below x y)
      ∧ (v = 4 ↔ x.isNan = false ∧ y.isNan = false ∧ below y x)
      ∧ (v = 1 ↔ x.isNan = false ∧ y.isNan = false ∧ ¬ below x y ∧ ¬ below y x)

/-- R110: the class that `sfclass` finds, by the exponent and fraction fields of the code. -/
def Sys2Proof.Stated.ScalarClass : Prop :=
  ∀ (d a : BitVec 8) (s : State), Ready s [d, a] → FloatRecord (sfRecord s) →
    let single : Bool := sfRecord s = 0x8C2E0FE000000000
    let fw := if single then 23 else 52
    let ew := if single then 8 else 11
    let c := (s.readS a).toNat
    let frac := c % 2 ^ fw
    let e := c / 2 ^ fw % 2 ^ ew
    let neg : Bool := c / 2 ^ (fw + ew) % 2 = 1
    let top := 2 ^ ew - 1
    exec (.sfclass d a) s = puts s d (1#64 <<<
      (if e = top ∧ frac ≠ 0 then (if 2 ^ (fw - 1) ≤ frac then 9 else 8)
       else if e = top then (if neg then 0 else 7)
       else if e ≠ 0 then (if neg then 1 else 6)
       else if frac ≠ 0 then (if neg then 2 else 5)
       else if neg then 3 else 4))

/-- R89, R111: `sfcvt` between formats of kinds 0 to 2. -/
def Sys2Proof.Stated.ScalarConversion : Prop :=
  ∀ (d a : BitVec 8) (s : State) (F G : Fmt), Ready s [d, a] →
    (sfRecord s).getLsbD 63 = true → F = fmtOf (sfRecord s) → F.kind ≤ 2 →
    (dfRecord s).getLsbD 63 = true → G = fmtOf (dfRecord s) → G.kind ≤ 2 →
    let x := readForCvt F G ((s.readS a).toNat % 2 ^ F.c)
    let c := convertTo G (modeOf s) x
    exec (.sfcvt d a) s = puts s d (BitVec.ofNat 64
      (if G.kind = 1 ∧ G.sign = true ∧ 2 ^ (G.w - 1) ≤ c % 2 ^ G.w then c % 2 ^ G.w + 2 ^ 64 - 2 ^ G.w
       else if G.kind = 1 then c % 2 ^ G.w else c))

/-- R81, R107: sums and products of finite values are exact; a quotient is cut below its 64th bit. -/
def Sys2Proof.Stated.ExactArithmetic : Prop :=
  ∀ (rm : Nat) (x y z : Val), Exact x → Exact y → Exact z →
    (Exact (addVal rm x y) ∧ number (addVal rm x y) = number x + number y)
    ∧ (Exact (mulVal x y) ∧ number (mulVal x y) = number x * number y)
    ∧ (Exact (fmaVal rm x y z) ∧ number (fmaVal rm x y z) = number x * number y + number z)
    ∧ (number y ≠ 0 → |number (divVal x y)| ≤ |number x / number y|
        ∧ |number x / number y| - |number (divVal x y)| ≤ |number x / number y| / 2 ^ 64)
    ∧ (0 < number x → 0 ≤ number (sqrtVal x) ∧ number (sqrtVal x) ^ 2 ≤ number x)

/-- R85 to R87, R81, R91: what the rounding of a value to a float format of FW ≥ 1 writes: the exact value, or the chosen one
of the two codes beside it; what lies below the smallest normal of a narrow format; overflow; zeros, infinities, NaNs. -/
def Sys2Proof.Stated.Rounding : Prop :=
  ∀ (r : Dword) (F : Fmt), F = fmtOf r → checkRecord r = 0 → F.kind = 0 → 1 ≤ F.fw → ∀ rm ≤ 5, ∀ (ov neg : Bool),
    let val (c : Nat) : ℚ := number (readFloat { F with policy := 2 } c)
    let code (c : Nat) : Nat := if neg = false then c else if F.sign = true then 2 ^ (F.ew + F.fw) + c else 0
    let out (v : Val) : Nat := roundTo F rm ov v
    let M := maxCode F
    let ulp : ℚ := 2 ^ (((M / 2 ^ F.fw : Nat) : ℤ) - F.bias - F.fw)
    let least := val (2 ^ F.fw)
    let near : ℚ := least - 2 ^ (-F.bias - (F.fw : ℤ))
    (∀ (m : Nat) (e : ℤ), 0 < m → (neg = true → F.sign = true) →
      let x : ℚ := (m : ℚ) * 2 ^ e
      (∀ c ≤ M, 2 ^ F.fw ≤ c ∨ 16 < F.w → x = val c → out (.fin neg m e false) = code c)
      ∧ (∀ c < M, 2 ^ F.fw ≤ c ∨ 16 < F.w → val c < x → x < val (c + 1) →
          out (.fin neg m e false) = code (chosen rm neg c (x - val c) (val (c + 1) - x)))
      ∧ (F.w ≤ 16 → (x ≤ near → out (.fin neg m e false) = code 0)
          ∧ (near < x → x < least → out (.fin neg m e false) = code
              (if chosen rm neg (2 ^ F.fw - 1) (x - near) (least - x) = 2 ^ F.fw then 2 ^ F.fw else 0)))
      ∧ (val M < x → x < val M + ulp → chosen rm neg M (x - val M) (val M + ulp - x) = M →
          out (.fin neg m e false) = code M)
      ∧ (val M < x → val M + ulp ≤ x ∨ chosen rm neg M (x - val M) (val M + ulp - x) = M + 1 →
          out (.fin neg m e false) = code (overflowMag F rm ov neg))
      ∧ (2 ^ (F.fw + 1) ≤ m → out (.fin neg m e true) = out (.fin neg (4 * m + 1) (e - 2) false)))
    ∧ (∀ e, out (.fin neg 0 e false) = code 0)
    ∧ (F.sign = false → neg = true → ∀ m e more, out (.fin neg m e more) = 0)
    ∧ out (.inf neg) = code (if F.policy = 0 then (2 ^ F.ew - 1) * 2 ^ F.fw
        else if F.policy = 1 ∧ ov = false then 2 ^ (F.ew + F.fw) - 1 else M)
    ∧ (∀ p w, p < 2 ^ w → w ≤ 51 → out (.nan neg p w) =
        if F.policy = 2 then 0
        else (if neg = true ∧ F.sign = true then 2 ^ (F.ew + F.fw) else 0) + (if F.policy = 1 then 2 ^ (F.ew + F.fw) - 1
          else (2 ^ F.ew - 1) * 2 ^ F.fw + 2 ^ (F.fw - 1) + p * 2 ^ (F.fw - 1) / 2 ^ w))

/-- R112, R171: to nearest wherever DF has both bracketing values, by RM where one of them does not exist. -/
def Sys2Proof.Stated.NearestRounding : Prop :=
  ∀ (r : Dword) (F : Fmt), F = fmtOf r → checkRecord r = 0 → F.kind = 0 → ∀ rm ≤ 4, ∀ (ov neg : Bool) (m : Nat) (e : ℤ),
    0 < m →
    let x : ℚ := (m : ℚ) * 2 ^ e
    let top := number (readFloat { F with policy := 2 } (maxCode F))
    let tiny : ℚ := 2 ^ (1 - F.bias - (F.fw : ℤ))
    (tiny ≤ x → x ≤ top → roundNearest F rm ov (.fin neg m e false) = roundTo F 0 ov (.fin neg m e false))
    ∧ (x < tiny ∨ top < x → roundNearest F rm ov (.fin neg m e false) = roundTo F rm ov (.fin neg m e false))

/-- R112, R171: the element functions, of special inputs, where they are exact, and how near their value lies elsewhere. -/
def Sys2Proof.Stated.ElementFunctions : Prop :=
  (∀ n p w, exp2Val (.nan n p w) = (.nan n p w, true) ∧ log2Val (.nan n p w) = (.nan n p w, true)
      ∧ rcpVal (.nan n p w) = .nan n p w ∧ rsqVal (.nan n p w) = .nan n p w)
  ∧ exp2Val (.inf true) = (.fin false 0 0 false, true) ∧ exp2Val (.inf false) = (.inf false, true)
  ∧ log2Val (.inf false) = (.inf false, true) ∧ (log2Val (.inf true)).1.isNan = true
  ∧ rsqVal (.inf false) = .fin false 0 0 false ∧ (rsqVal (.inf true)).isNan = true
  ∧ (∀ neg, rcpVal (.inf neg) = .fin neg 0 0 false
      ∧ ∀ e, exp2Val (.fin neg 0 e false) = (.fin false 1 0 false, true) ∧ log2Val (.fin neg 0 e false) = (.inf true, true)
        ∧ rcpVal (.fin neg 0 e false) = .inf neg ∧ rsqVal (.fin neg 0 e false) = .inf neg)
  ∧ ∀ (neg : Bool) (m : Nat) (e : ℤ), 0 < m →
    let x : Val := .fin neg m e false
    (∀ i : ℤ, number x = i → |number x| < 2 ^ 15 → exp2Val x = (.fin false 1 i false, true))
    ∧ ((∀ i : ℤ, number x ≠ i) → |number x| < 2 ^ 15 → ∃ k j, exp2Val x = (.fin false k j true, false)
        ∧ |(2 : ℝ) ^ ((number x : ℚ) : ℝ) - (k : ℝ) * (2 : ℝ) ^ (j : ℤ)| ≤ (k : ℝ) * (2 : ℝ) ^ (j : ℤ) / 2 ^ 24)
    ∧ (2 ^ 15 ≤ |number x| → exp2Val x = (.fin false 1 (if neg then -(2 ^ 14) else 2 ^ 14) true, false))
    ∧ (neg = true → (log2Val x).1.isNan = true ∧ (rsqVal x).isNan = true)
    ∧ (∀ i : ℤ, number x = (2 : ℚ) ^ i → log2Val x = (valOfInt i, true))
    ∧ (neg = false → (∀ i : ℤ, number x ≠ (2 : ℚ) ^ i) → (log2Val x).2 = false
        ∧ |Real.logb 2 ((number x : ℚ) : ℝ) - ((number (log2Val x).1 : ℚ) : ℝ)| ≤ 1 / 2 ^ 250)
    ∧ (0 ≤ number (rcpVal x) * number x ∧ number (rcpVal x) * number x ≤ 1 ∧ 1 ≤ number (rcpVal x) * number x * (1 + 1 / 2 ^ 60))
    ∧ (neg = false → 0 ≤ number (rsqVal x) ∧ number (rsqVal x) ^ 2 * number x ≤ 1
        ∧ 1 ≤ number (rsqVal x) ^ 2 * number x * (1 + 1 / 2 ^ 60))
    ∧ (neg = false → number x ≤ number (sqrtVal x) ^ 2 * (1 + 1 / 2 ^ 60))

namespace Sys2Proof.Stated

/-- The special registers that the spec assigns (R52, R346, R217, R367, R386, R387). -/
def Assigned (n : Nat) : Prop :=
  n ≤ 0x7 ∨ (0x10 ≤ n ∧ n ≤ 0x12) ∨ (0x20 ≤ n ∧ n ≤ 0x24) ∨ (0x40 ≤ n ∧ n ≤ 0x49) ∨ (0x50 ≤ n ∧ n ≤ 0x5A)
  ∨ (0x100 ≤ n ∧ n ≤ 0x106) ∨ (0x140 ≤ n ∧ n ≤ 0x14B) ∨ (0x150 ≤ n ∧ n ≤ 0x15F) ∨ (0x180 ≤ n ∧ n ≤ 0x18C)
  ∨ (0x190 ≤ n ∧ n ≤ 0x195)

/-- Those that are read-only to a system-class core. -/
def readOnly : List Nat :=
  [0x0, 0x1, 0x2, 0x3, 0x4, 0x5, 0x6, 0x7, 0x10, 0x11, 0x20, 0x22, 0x24, 0x42, 0x43, 0x52, 0x56, 0x104, 0x184, 0x189, 0x18A]

/-- Registers that hold what was written, on the writing core's package or in the context that CTXSEL selects, and the
values they take: every one of these reads back. -/
def Holds (n : Nat) (v : Dword) : Prop :=
  n ∈ [0x21, 0x23, 0x41, 0x44, 0x45, 0x46, 0x49, 0x50, 0x51, 0x54, 0x55, 0x57, 0x103, 0x183]
  ∨ (n = 0x40 ∧ v.toNat < 2 ^ 8) ∨ (n = 0x47 ∧ v.toNat < 2 ^ 32) ∨ (n = 0x48 ∧ v.toNat < 2 ^ 25)
  ∨ (n = 0x59 ∧ v.toNat < 2 ^ 10)
  ∨ (n = 0x101 ∧ v.toNat < 2 ^ 49 ∧ v.toNat / 32 % 8 = 0 ∧ v.toNat % 32 ≤ 21)
  ∨ (n = 0x102 ∧ v.toNat % 2 ^ 12 = 0) ∨ (n = 0x182 ∧ v.toNat % 2 ^ 20 = 0)
  ∨ (n = 0x100 ∧ v.toNat < 2 ^ 6) ∨ (n = 0x185 ∧ v.toNat < 2 ^ 10) ∨ (n = 0x188 ∧ v.toNat < 72)
  ∨ (n = 0x18B ∧ (v = 0 ∨ (600 ≤ v.toNat ∧ v.toNat ≤ 2400))) ∨ (n = 0x194 ∧ v.toNat < 2 ^ 15)

/-- The registers whose `swsr` is a release, and so waits for the core's earlier accesses (R254). -/
def releasing : List Nat := [0x103, 0x105, 0x51, 0x53, 0x55, 0x183, 0x18C, 0x180, 0x181, 0x106, 0x58]

end Sys2Proof.Stated

/-- R53, R346: the cases in which `srsr` and `swsr` trap and change nothing. -/
def Obligations.IllegalRegisters : Prop :=
  ∀ (d : BitVec 8) (n : BitVec 16) (s : State), Ready s [d] →
    (¬ Assigned n.toNat → exec (.srsr d n) s = traps s 1 ∧ exec (.swsr d n) s = traps s 1)
    ∧ (isSys s.cur = true → n.toNat ∈ readOnly → exec (.swsr d n) s = traps s 1)
    ∧ (isSys s.cur = false → exec (.swsr d n) s = traps s 1)
    ∧ (isSys s.cur = false → (0x48 ≤ n.toNat ∧ n.toNat ≤ 0x5A) ∨ (0x100 ≤ n.toNat ∧ n.toNat < 0x200) →
        exec (.srsr d n) s = traps s 1)

/-- R52: what the identity and counter registers read, where no replay log supplies or records them. -/
def Sys2Proof.Stated.RegisterReads : Prop :=
  ∀ (d : BitVec 8) (s : State), Ready s [d] → s.logOf s.cur = none →
    let reads (n : BitVec 16) (v : Dword) : Prop := exec (.srsr d n) s = puts s d v
    (∀ p q r, s.cur = .sys p q r →
      reads 0x0 (BitVec.ofNat 64 r) ∧ reads 0x1 (BitVec.ofNat 64 q) ∧ reads 0x3 0 ∧ reads 0x4 0 ∧ reads 0x5 0
      ∧ reads 0x6 0 ∧ reads 0x7 0 ∧ reads 0x20 0 ∧ reads 0x22 0)
    ∧ (∀ g k, s.cur = .slot g k →
      let x := s.group g
      reads 0x0 (BitVec.ofNat 64 x.core) ∧ reads 0x1 (BitVec.ofNat 64 x.die) ∧ reads 0x3 (BitVec.ofNat 64 x.part)
      ∧ reads 0x4 (BitVec.ofNat 64 x.gslot) ∧ reads 0x5 (BitVec.ofNat 64 ((x.wid 0).toNat % 2 ^ 32))
      ∧ reads 0x6 (BitVec.ofNat 64 ((x.wid 0).toNat / 2 ^ 32)) ∧ reads 0x22 x.rgkey
      ∧ reads 0x20 (BitVec.ofNat 64 ((s.wg x.wg).left_ / 2))
      ∧ ∀ n : BitVec 16, 0x40 ≤ n.toNat → n.toNat ≤ 0x47 → reads n (SMap.get x.hart.trap n.toNat 0))
    ∧ (∀ p, p = s.pkgOf s.cur →
      reads 0x2 (match (s.pkg p).domain with | none => 0 | some n => BitVec.ofNat 64 (p % 1024 + n % 2048 * 1024))
      ∧ reads 0x10 (BitVec.ofNat 64 (s.cycle - (s.pkg p).onAt))
      ∧ reads 0x11 (BitVec.ofNat 64 (s.hart s.cur).retired)
      ∧ reads 0x12 ((s.pkg p).timeT + BitVec.ofNat 64 (2 * (s.cycle - (s.pkg p).timeAt) / 3)))

/-- R52, R346, R217, R386, R387, R254: a write that a register takes is what the register then reads; the instruction does
nothing to memory or to any agent but its own core; one that is a release waits for the core's earlier accesses. -/
def Sys2Proof.Stated.RegisterWrites : Prop :=
  ∀ (d : BitVec 8) (n : BitVec 16) (s : State) (p q r : Nat), s.cur = .sys p q r → Ready s [d] →
    Holds n.toNat (s.readS d) →
    (n.toNat ∈ releasing → s.accessInFlight = true → exec (.swsr d n) s = waits s .drain)
    ∧ ((n.toNat ∈ releasing → s.accessInFlight = false) →
      ∃ t, exec (.swsr d n) s = .next t ∧ t.srValue n.toNat = some (s.readS d)
        ∧ t.mem = s.mem ∧ t.groups = s.groups ∧ t.ops = s.ops
        ∧ (∀ j, j ≠ coreKey p q r → SMap.find t.cores j = SMap.find s.cores j)
        ∧ (∀ a, t.readS a = s.readS a))

/-- R218: XLFLUSH discards what the named context has buffered on the package: all of it, or what covers an address; while
an access that was translated before has yet to be performed, nothing. -/
def Sys2Proof.Stated.TranslationFlush : Prop :=
  ∀ (v : Dword) (s : State) (p q r : Nat), s.cur = .sys p q r → v.toNat / 2 ^ 57 = 0 → v.toNat / 2 ^ 7 % 2 ^ 9 = 0 →
    (s.translatedWaits p (v.toNat % 64) = true → exec (.translationFlush v) s = .next s)
    ∧ (s.translatedWaits p (v.toNat % 64) = false →
      ∃ t, exec (.translationFlush v) s = .next t ∧ t = { s with buffered := t.buffered }
      ∧ ∀ e, e ∈ t.buffered ↔ e ∈ s.buffered ∧
          ¬ (e.1 / 2 ^ 41 = p * 64 + v.toNat % 64
            ∧ (v.getLsbD 6 = true
              ∨ (e.1 % 2 ^ 41 * 2 ^ 16) / 2 ^ levelShift e.2.level = v.toNat / 2 ^ 16 * 2 ^ 16 / 2 ^ levelShift e.2.level)))

/-- R52, R390: a write to TIMENS on the time reference sets every package of the domain; elsewhere it is discarded. -/
def Sys2Proof.Stated.TimeWrites : Prop :=
  ∀ (v : Dword) (s : State) (p q r : Nat), s.cur = .sys p q r →
    (p = 0 → ∃ t, exec (.timensWrite v) s = .next t ∧ t = { s with pkgs := t.pkgs }
      ∧ ∀ j x, SMap.find s.pkgs j = some x →
        SMap.find t.pkgs j = some { x with timeT := v, timeAt := s.cycle } ∧ t.timens j = v)
    ∧ (p ≠ 0 → exec (.timensWrite v) s = .next s)

/-- R363, R386, R387, R52: the other writes that select what they write, as the service core at (p, q, r) makes them. That
PLENT takes every position and drops the bits above is the model's choice (log 25), as is that both tables are written
whatever contexts run (log 60). A quantum takes effect at the stream's next turn. -/
def Sys2Proof.Stated.SelectedWrites : Prop :=
  ∀ (v : Dword) (s : State) (p q r : Nat), s.cur = .sys p q r →
    let reg (n : Nat) : Dword := SMap.get (s.core p q r).srs n 0
    -- PLENT: the place-table entry that PLSEL selects
    (let die := (reg 0x59).toNat / 2 ^ 7 % 8
     let core := (reg 0x59).toNat % 2 ^ 7
     ∃ t, exec (.plentWrite v) s = .next t ∧ t.placeEntry p die core = v.setWidth 8
       ∧ ∀ die' core', die' * 128 + core' ≠ die * 128 + core → t.placeEntry p die' core' = s.placeEntry p die' core')
    -- RTENT0, RTENT1: the route of the package that RTSEL selects
    ∧ (let k := 2 * ((reg 0x185).toNat % 2 ^ 10)
       (∃ t, exec (.routeTableWrite 0x186 v) s = .next t ∧ SMap.get (t.pkg p).routes k 0 = v)
       ∧ (v.toNat / 2 ^ 16 = 0 → v.toNat / 2 ^ 12 % 8 = 0 →
          ∃ t, exec (.routeTableWrite 0x187 v) s = .next t ∧ SMap.get (t.pkg p).routes (k + 1) 0 = v))
    -- STREAMQ: the quantum of the stream that STREAMSEL selects
    ∧ (v.toNat ≤ 2 ^ 40 → ∃ t, exec (.streamqWrite v) s = .next t
        ∧ (t.stream (streamOfSel p (reg 0x194))).next = some (if v = 0 then 2 ^ 20 else v.toNat)
        ∧ (t.stream (streamOfSel p (reg 0x194))).quantum = (s.stream (streamOfSel p (reg 0x194))).quantum
        ∧ t.srSystemValue 0x195 = s.srSystemValue 0x195)
    -- a register that is written through no selection
    ∧ (∀ n, Holds n v → ∃ t, exec (.systemRegisterWrite n v) s = .next t ∧ t.srValue n = some v)

/-- R387, R210, R284, R359: tagging and freeing one unit of a slice, and a board window's allotment; what a suspended
context held in a window that is taken from it is kept. -/
def Sys2Proof.Stated.UnitAndBoardTags : Prop :=
  ∀ (v : Dword) (s : State) (p q r key : Nat), s.cur = .sys p q r →
    let usel := SMap.get (s.core p q r).srs 0x190 0
    let bsel := SMap.get (s.core p q r).srs 0x192 0
    let core := coreKey p (bsel.toNat % 8) (bsel.toNat / 8 % 128)
    let win := bsel.toNat / 2 ^ 10 % 4
    let old := SMap.find (s.board core).owners win
    let keeps (t : State) (c : Nat) : Prop := ∃ b, SMap.find (t.ctx p c).boards (4 * core + win) = some b
      ∧ SMap.get b.bits win 0 = SMap.get (s.board core).bits win 0
      ∧ b.triggers = (s.board core).triggers.filter fun e => e.2.win == win && e.2.ctx == c
    (usel.toNat / 2 ^ 20 % 2 ^ 10 = 0 →
      s.unitKey p (usel.toNat % 8) (usel.toNat / 8 % 128) (usel.toNat / 2 ^ 10 % 2 ^ 10) = some key →
      s.unitHeld p (usel.toNat % 8) (usel.toNat / 8 % 128) (usel.toNat / 2 ^ 10 % 2 ^ 10) = false →
      (∀ c : Nat, c < 64 → (∀ y, SMap.find s.units key = some y → y.ctx = c) → v = BitVec.ofNat 64 c →
        ∃ t, exec (.unitTag v) s = .next t
          ∧ t = { s with units := SMap.put s.units key { ctx := c, race := false }, race := t.race })
      ∧ (v = 0x100 → exec (.unitFree v) s = .next { s with units := SMap.erase s.units key }))
    ∧ (∀ c : Nat, c < 64 → v = BitVec.ofNat 64 c → old = none →
        ∃ t, exec (.boardAllot v) s = .next t ∧ SMap.find (t.board core).owners win = some c
          ∧ SMap.get (t.board core).bits win 0 = 0)
    ∧ (∀ c, v = 0x100 → old = some c → (s.ctx p c).suspended = true →
        ∃ t, exec (.boardFree v) s = .next t ∧ SMap.find (t.board core).owners win = none ∧ keeps t c)
    ∧ (∀ c d : Nat, c < 64 → v = BitVec.ofNat 64 c → old = some d → d ≠ c → (s.ctx p d).suspended = true →
        ∃ t, exec (.boardAllot v) s = .next t ∧ SMap.find (t.board core).owners win = some c
          ∧ SMap.get (t.board core).bits win 0 = 0 ∧ keeps t d)

/-- R403, R51, R254: SEVSEND starts the control cores and wakes the system cores that it names; what the writer has done
goes with the wake. -/
def Sys2Proof.Stated.SevSends : Prop :=
  ∀ (i : Nat) (s : State) (p q r : Nat) (k : SysCore), i < 32 → s.cur = .sys p q r →
    let die := if i < 16 then 8 else (i - 16) / 2
    let core := if i < 16 then i else 120 + (i - 16) % 2
    SMap.find s.cores (coreKey p die core) = some k →
    let u := s.post (wakeMsg (coreKey p die core) 5) (s.knowledge [s.thread])
    exec (.sevsendWrite (1#64 <<< i)) s = .next (if k.waiting then u.setCore p die core { k with waiting := false }
      else u.wakeCore p die core 5)

/-- R399: REQSEND sends the message at an address of the service context: its 64-byte header and LEN bytes, where they
translate and no granule of them is poisoned. -/
def Sys2Proof.Stated.MessagesSent : Prop :=
  ∀ (v : Dword) (s : State) (p q r : Nat) (head body : List Byte), s.cur = .sys p q r →
    s.readBytes (serviceWho p) v v 64 = .ok head →
    s.readBytes (serviceWho p) v (v + 64) (natOfBytes ((head.drop 24).take 8)) = .ok body →
    exec (.reqsendWrite v) s = .next { s with sent := { pkg := p, kind := 1, bytes := head ++ body } :: s.sent }

namespace Sys2Proof.Stated

/-- Elements of width w in a lane word or pair (R160). -/
def elements (w : Nat) : Nat := if w = 64 then 1 else 32 / w

/-- The code of sub-element j that operand `c` gives in a lane, elements w bits apart (R35, R160). -/
def code (s : State) (c : BitVec 8) (w lane j : Nat) : Nat := subElem w (s.unit c w lane) j

/-- The operands of a vector instruction pass the checks of R162: sources and destination all w wide. -/
def Vready (s : State) (d : BitVec 8) (srcs : List (BitVec 8)) (w : Nat) : Prop :=
  s.vcheck (srcs.map fun c => (c, w)) (some (d, w)) [] s.acting = .ok ()

/-- The instruction writes d: lane by lane, element j of lane L gets `op L j` in w bits; VectorResultStands says what
else `vdone` does. -/
def Elementwise (i : Instr) (s : State) (d : BitVec 8) (srcs : List (BitVec 8)) (w : Nat) (op : Nat → Nat → Nat) : Prop :=
  ∃ f, exec i s = .next (s.vdone d w srcs f) ∧
    ∀ lane, lane < 64 → ∀ j, j < elements w → subElem w (f lane) j = op lane j % 2 ^ w

end Sys2Proof.Stated

/-- R35, R160, R161, R186, R189: what writing units of width w into lanes of a vector destination does: those lanes
outside sliced beats, the bypass where it is pushed, and nothing else. That a push of `vput`, or of a `vcvt` into a block, is
zero outside ACTIVE too is the model's choice (log 84). -/
def Sys2Proof.Stated.VectorResultStands : Prop :=
  ∀ (s : State) (g : Nat) (k : Fin 2) (d : BitVec 8) (w n : Nat) (lanes noted : Lanes) (srcs : List (BitVec 8))
    (f : Nat → Nat) (push : Bool),
    s.cur = .slot g k.val →
    let t := ((s.vwrite d w lanes f push).notePorts srcs noted).retire n
    let r := (s.group g).regs
    let r' := (t.group g).regs
    let written (l : Nat) : Prop := lanes.getLsbD l = true ∧ r.sliced.getLsbD (l / 32) = false
    (d.toNat < 224 →
      (∀ l, l < 64 → written l → (r'.reg d.toNat).getD l 0 = BitVec.ofNat 32 (f l))
      ∧ (w = 64 → ∀ l, l < 64 → written l → (r'.reg (d.toNat + 1)).getD l 0 = BitVec.ofNat 32 (f l / 2 ^ 32))
      ∧ (∀ q l, l < 64 → ¬ (written l ∧ (q = d.toNat ∨ w = 64 ∧ q = d.toNat + 1)) →
          (r'.reg q).getD l 0 = (r.reg q).getD l 0)
      ∧ (push = true → r'.bypass 0 = r'.value d.toNat ∧ r'.bypass 1 = r.bypass 0 ∧ r'.bypass 2 = r.bypass 1)
      ∧ (push = false → r'.bp = r.bp))
    ∧ (d = 232 → r'.v = r.v ∧ r'.bypass 1 = r.bypass 0 ∧ r'.bypass 2 = r.bypass 1
      ∧ ∀ l, l < 64 → (r'.bypass 0).getD l 0
          = if lanes.getLsbD l ∧ s.acting.getLsbD l then BitVec.ofNat 32 (f l) else 0)
    ∧ (∀ q l, r'.lane q l = if r.sliced.getLsbD (l / 32) then 0 else (r'.reg q).getD l 0)
    ∧ t = { s with groups := t.groups, launches := t.launches, race := t.race }
    ∧ (∀ j, j ≠ g → SMap.find t.groups j = SMap.find s.groups j)
    ∧ (t.group g).hart = { (s.group g).hart with retired := (s.group g).hart.retired + 1 }
    ∧ (t.slot s.cur).pc = (s.slot s.cur).pc + 4 * BitVec.ofNat 64 n
    ∧ (t.group g).slot (1 - k.val) = (s.group g).slot (1 - k.val)
    ∧ s.vdone d w srcs f n = ((s.vwrite d w s.acting f).notePorts srcs s.acting).retire n

/-- R163 to R166: the integer instructions of row 0x4 on values. -/
def Sys2Proof.Stated.IntegerRows : Prop :=
  ∀ (d a b : BitVec 8) (s : State) (F G : Fmt), s.sf [1, 2] = .ok F → s.df [1, 2] = .ok G → F.c = G.c →
    let x (l j : Nat) : Int := (readCode F (code s a F.c l j)).toInt
    let y (l j : Nat) : Int := (readCode F (code s b F.c l j)).toInt
    let z (l j : Nat) : Int := (readCode F (code s d F.c l j)).toInt
    let int (v : Int) : Nat := writeInt G (isOf (modeOf s)) v
    (Vready s d [a, b] F.c →
      Elementwise (.vadd d a b) s d [a, b] F.c (fun l j => int (x l j + y l j))
      ∧ Elementwise (.vsub d a b) s d [a, b] F.c (fun l j => int (x l j - y l j))
      ∧ Elementwise (.vmul d a b) s d [a, b] F.c (fun l j => int (x l j * y l j))
      ∧ Elementwise (.vmin d a b) s d [a, b] F.c (fun l j => int (min (x l j) (y l j)))
      ∧ Elementwise (.vmax d a b) s d [a, b] F.c (fun l j => int (max (x l j) (y l j)))
      ∧ Elementwise (.vdiv d a b) s d [a, b] F.c (fun l j =>
          if y l j = 0 then 2 ^ G.w - 1 else int ((x l j).tdiv (y l j)))
      ∧ Elementwise (.vrem d a b) s d [a, b] F.c (fun l j =>
          int (if y l j = 0 then x l j else x l j - y l j * (x l j).tdiv (y l j))))
    ∧ (Vready s d [a, b, d] F.c → Elementwise (.vmad d a b) s d [a, b, d] F.c (fun l j => int (x l j * y l j + z l j)))
    ∧ (F.kind = 1 → G.kind = 1 → F.w = G.w → Vready s d [a, b] F.c →
        Elementwise (.vmulh d a b) s d [a, b] F.c (fun l j => (x l j * y l j / 2 ^ F.w % 2 ^ F.w).toNat))

/-- R164, R76: writing an integer: wrapped or saturated, it is what the destination then reads. -/
def Sys2Proof.Stated.IntegerWriting : Prop :=
  ∀ (r : Dword) (y : Int), checkRecord r = 0 → (fmtOf r).kind = 1 ∨ (fmtOf r).kind = 2 →
    let G := fmtOf r
    let lo : Int := if G.kind = 2 then -(2 ^ G.fw - 1) else if G.sign then -2 ^ (G.w - 1) else 0
    let hi : Int := if G.kind = 2 then 2 ^ G.fw - 1 else if G.sign then 2 ^ (G.w - 1) - 1 else 2 ^ G.w - 1
    (∀ sat, writeInt G sat y < 2 ^ G.w)
    ∧ (readCode G (writeInt G true y)).toInt = max lo (min hi y)
    ∧ (G.kind = 2 → writeInt G false y = writeInt G true y)
    ∧ (G.kind = 1 → (2 ^ G.w : Int) ∣ (readCode G (writeInt G false y)).toInt - y
        ∧ lo ≤ (readCode G (writeInt G false y)).toInt ∧ (readCode G (writeInt G false y)).toInt ≤ hi)

/-- R163, R165: the bitwise instructions, the shifts and the counts, on W-bit codes. -/
def Sys2Proof.Stated.VectorBits : Prop :=
  ∀ (d a b : BitVec 8) (s : State) (F : Fmt),
    let x (l j : Nat) : Nat := code s a F.c l j % 2 ^ F.w
    let y (l j : Nat) : Nat := code s b F.c l j % 2 ^ F.w
    (s.sf [0, 1, 2] = .ok F → Vready s d [a, b] F.c →
      Elementwise (.vand d a b) s d [a, b] F.c (fun l j => x l j &&& y l j)
      ∧ Elementwise (.vor d a b) s d [a, b] F.c (fun l j => x l j ||| y l j)
      ∧ Elementwise (.vxor d a b) s d [a, b] F.c (fun l j => x l j ^^^ y l j))
    ∧ (s.sf [0, 1, 2] = .ok F → Vready s d [a] F.c →
      Elementwise (.vpopc d a) s d [a] F.c (fun l j => (List.range F.w).countP fun i => (x l j).testBit i)
      ∧ Elementwise (.vclz d a) s d [a] F.c (fun l j => if x l j = 0 then F.w else F.w - 1 - (x l j).log2))
    ∧ (s.sf [1] = .ok F → Vready s d [a, b] F.c →
      Elementwise (.vshl d a b) s d [a, b] F.c (fun l j => x l j * 2 ^ (y l j % 64) % 2 ^ F.w)
      ∧ Elementwise (.vshr d a b) s d [a, b] F.c (fun l j =>
          ((if F.sign = true ∧ 2 ^ (F.w - 1) ≤ x l j then (x l j : Int) - 2 ^ F.w else (x l j : Int))
            / 2 ^ (y l j % 64) % 2 ^ F.w).toNat))

/-- R163, R167, R170, R171: row 0x5 but `vfdp2`. An exact log2 midway between two values of DF takes the even one: log 82. -/
def Sys2Proof.Stated.FloatRows : Prop :=
  ∀ (d a b : BitVec 8) (s : State) (F G : Fmt), s.sf [0] = .ok F → s.df [0] = .ok G → F.c = G.c → rmOf (modeOf s) ≠ 5 →
    let rm := rmOf (modeOf s)
    let ov := ovOf (modeOf s)
    let x (l j : Nat) : Val := readOperand F (code s a F.c l j)
    let y (l j : Nat) : Val := readOperand F (code s b F.c l j)
    let z (l j : Nat) : Val := readOperand F (code s d F.c l j)
    let rounded (v : Val) : Nat := roundTo G rm ov v
    let nearest (v : Val) : Nat := roundNearest G rm ov v
    (Vready s d [a, b] F.c →
      Elementwise (.vfadd d a b) s d [a, b] F.c (fun l j => rounded (addVal rm (x l j) (y l j)))
      ∧ Elementwise (.vfsub d a b) s d [a, b] F.c (fun l j => rounded (addVal rm (x l j) (y l j).negate))
      ∧ Elementwise (.vfmul d a b) s d [a, b] F.c (fun l j => rounded (mulVal (x l j) (y l j)))
      ∧ Elementwise (.vfdiv d a b) s d [a, b] F.c (fun l j => rounded (divVal (x l j) (y l j)))
      ∧ Elementwise (.vfmin d a b) s d [a, b] F.c (fun l j => rounded (minMaxVal false (x l j) (y l j)))
      ∧ Elementwise (.vfmax d a b) s d [a, b] F.c (fun l j => rounded (minMaxVal true (x l j) (y l j)))
      ∧ Elementwise (.vfscale d a b) s d [a, b] F.c (fun l j =>
          let n : Int := (code s b F.c l j : Int) - if 2 ^ (F.c - 1) ≤ code s b F.c l j then 2 ^ F.c else 0
          rounded (scaleVal (x l j) n)))
    ∧ (Vready s d [a, b, d] F.c →
      Elementwise (.vffma d a b) s d [a, b, d] F.c (fun l j => rounded (fmaVal rm (x l j) (y l j) (z l j)))
      ∧ Elementwise (.vffms d a b) s d [a, b, d] F.c (fun l j => rounded (fmsVal rm (x l j) (y l j) (z l j))))
    ∧ (Vready s d [a] F.c →
      Elementwise (.vfsqrt d a) s d [a] F.c (fun l j => rounded (sqrtVal (x l j)))
      ∧ Elementwise (.vfabs d a) s d [a] F.c (fun l j => rounded (absVal (x l j)))
      ∧ Elementwise (.vfexp2 d a) s d [a] F.c (fun l j =>
          if (exp2Val (x l j)).2 then rounded (exp2Val (x l j)).1 else nearest (exp2Val (x l j)).1)
      ∧ Elementwise (.vflog2 d a) s d [a] F.c (fun l j => nearest (log2Val (x l j)).1)
      ∧ Elementwise (.vfrcp d a) s d [a] F.c (fun l j => nearest (rcpVal (x l j)))
      ∧ Elementwise (.vfrsq d a) s d [a] F.c (fun l j => nearest (rsqVal (x l j))))

/-- R169: the widening two-term dot product. -/
def Sys2Proof.Stated.VectorDotProducts : Prop :=
  ∀ (d a b : BitVec 8) (s : State) (F G : Fmt), s.sf [0] = .ok F → s.df [0] = .ok G → F.c ≤ 16 → G.c = 2 * F.c →
    rmOf (modeOf s) ≠ 5 →
    s.vcheck [(a, F.c), (b, F.c), (d, G.c)] (some (d, G.c)) [] s.acting = .ok () →
    let rm := rmOf (modeOf s)
    let x (l j : Nat) : Val := readOperand F (code s a F.c l j)
    let y (l j : Nat) : Val := readOperand F (code s b F.c l j)
    let z (l j : Nat) : Val := readOperand G (code s d G.c l j)
    Elementwise (.vfdp2 d a b) s d [a, b] G.c (fun l j => roundTo G rm (ovOf (modeOf s))
      (match firstNan [x l (2 * j), y l (2 * j), x l (2 * j + 1), y l (2 * j + 1), z l j] with
       | some v => v
       | none =>
         match firstNan [mulVal (x l (2 * j)) (y l (2 * j)), mulVal (x l (2 * j + 1)) (y l (2 * j + 1))] with
         | some v => v
         | none => addVal rm (addVal rm (mulVal (x l (2 * j)) (y l (2 * j))) (mulVal (x l (2 * j + 1)) (y l (2 * j + 1))))
             (z l j)))

/-- R172: the compares: one bit for each acting lane whose sub-elements all stand in the relation. -/
def Sys2Proof.Stated.VectorCompares : Prop :=
  ∀ (d a b : BitVec 8) (s : State) (F : Fmt), s.sf [0, 1, 2] = .ok F →
    s.vcheck [(a, F.c), (b, F.c)] none [d] s.acting = .ok () →
    let x (l j : Nat) : Val := readOperand F (code s a F.c l j)
    let y (l j : Nat) : Val := readOperand F (code s b F.c l j)
    let unordered (l j : Nat) : Prop := (x l j).isNan = true ∨ (y l j).isNan = true
    let less (l j : Nat) : Prop := ¬ unordered l j ∧ below (x l j) (y l j)
    let equal (l j : Nat) : Prop := ¬ unordered l j ∧ ¬ below (x l j) (y l j) ∧ ¬ below (y l j) (x l j)
    let mask (i : Instr) (rel : Nat → Nat → Prop) : Prop :=
      ∃ m : Dword, exec i s = .next (((s.writeS d m).notePorts [a, b] s.acting).retire)
        ∧ ∀ l, l < 64 → (m.getLsbD l = true ↔ s.acting.getLsbD l = true ∧ ∀ j, j < elements F.c → rel l j)
    mask (.vcmpeq d a b) equal
    ∧ mask (.vcmpne d a b) (fun l j => ¬ equal l j)
    ∧ mask (.vcmplt d a b) less
    ∧ mask (.vcmple d a b) (fun l j => less l j ∨ equal l j)
    ∧ mask (.vcmpun d a b) unordered

/-- R173 to R175: select, move, broadcast, immediates, and single lanes. -/
def Sys2Proof.Stated.MovesAndSelects : Prop :=
  ∀ (d a b : BitVec 8) (i : BitVec 16) (x : BitVec 32) (s : State) (F : Fmt), s.sf [0, 1, 2] = .ok F →
    let n := (s.readS b).toNat % 64
    (Vready s d [d, a, b] F.c → Elementwise (.vsel d a b) s d [d, a, b] F.c (fun l j =>
      if code s d F.c l j ≠ 0 then code s a F.c l j else code s b F.c l j))
    ∧ (Vready s d [a] F.c → exec (.vmov d a) s = .next (s.vdone d F.c [a] fun l => s.unit a F.c l))
    ∧ (s.vcheck [(a, F.c)] (some (d, F.c)) [b] (1#64 <<< n) = .ok () →
        exec (.vbcast d a b) s = if s.portDecided a n then
          .next (((s.vwrite d F.c s.acting fun _ => s.unit a F.c n).notePorts [a] (1#64 <<< n)).retire)
          else waits s .ripple)
    ∧ (s.vcheck [(a, F.c)] none [d, b] (1#64 <<< n) = .ok () →
        exec (.vget d a b) s = .next (((s.writeS d (BitVec.ofNat 64 (s.unit a F.c n))).notePorts [a] (1#64 <<< n)).retire))
    ∧ (s.vcheck [] (some (d, F.c)) [a, b] 0 = .ok () →
        exec (.vput d a b) s = .next ((s.vwrite d F.c (1#64 <<< n) fun _ => (s.readS a).toNat).retire))
    ∧ (∀ G : Fmt, s.df [0, 1, 2] = .ok G → s.vcheck [] (some (d, G.c)) [] 0 = .ok () →
        (G.c ≤ 16 → Elementwise (.vli d i) s d [] G.c (fun _ _ => i.toNat))
        ∧ (16 < G.c → exec (.vli d i) s = .next (s.vdone d G.c [] fun _ => (i.signExtend 64).toNat))
        ∧ exec (.vlit d x) s = .next (s.vdone d G.c [] (fun _ => if G.c = 64 then x.toNat * 2 ^ 32 else x.toNat) 2))

/-- R89, R176: `vcvt` between formats of kinds 0 to 2, its three cases. -/
def Sys2Proof.Stated.PlainConversions : Prop :=
  ∀ (d a p : BitVec 8) (s : State) (F G : Fmt), s.sf [0, 1, 2] = .ok F → s.df [0, 1, 2] = .ok G →
    let part := p.toNat
    let cvt (l j : Nat) : Nat := convertTo G (modeOf s) (readForCvt F G (code s a F.c l j))
    (F.e = G.e → part = 0 → s.vcheck [(a, F.c)] (some (d, G.c)) [] s.acting = .ok () →
      Elementwise (.vcvt d a p) s d [a] G.c cvt)
    ∧ (G.e < F.e → part < F.e / G.e → s.vcheck [(a, F.c)] (some (d, G.c)) [] s.acting = .ok () →
      Elementwise (.vcvt d a p) s d [a] G.c (fun l j => cvt l (part * G.e + j)))
    ∧ (F.e < G.e → part < G.e / F.e → s.vcheck [(a, F.c), (d, G.c)] (some (d, G.c)) [] s.acting = .ok () →
      Elementwise (.vcvt d a p) s d [a] G.c (fun l j =>
        if part * F.e ≤ j ∧ j < part * F.e + F.e then cvt l (j - part * F.e) else code s d G.c l j))

/-- R178: packing and unpacking codes. -/
def Sys2Proof.Stated.VectorPacking : Prop :=
  ∀ (d a b : BitVec 8) (s : State) (F G : Fmt), s.sf [0, 1, 2] = .ok F → s.df [0, 1, 2] = .ok G →
    let extended (c : Nat) : Nat :=
      if F.kind = 1 ∧ F.sign = true ∧ 2 ^ (F.w - 1) ≤ c % 2 ^ F.w then c % 2 ^ F.w + 2 ^ G.c - 2 ^ F.w else c % 2 ^ F.w
    (G.c ≤ 16 → F.c = 2 * G.c → s.vcheck [(a, F.c), (b, F.c)] (some (d, G.c)) [] s.acting = .ok () →
      Elementwise (.vpack d a b) s d [a, b] G.c (fun l j =>
        if j < G.e / 2 then code s a F.c l j else code s b F.c l (j - G.e / 2)))
    ∧ (F.c ≤ 16 → G.c = 2 * F.c → s.vcheck [(a, F.c)] (some (d, G.c)) [] s.acting = .ok () →
      Elementwise (.vunpkl d a) s d [a] G.c (fun l j => extended (code s a F.c l j))
      ∧ Elementwise (.vunpkh d a) s d [a] G.c (fun l j => extended (code s a F.c l (j + F.e / 2))))

/-- R90, R177: `vcvt` into and out of a block format. -/
def Sys2Proof.Stated.VectorBlockConversions : Prop :=
  ∀ (d a : BitVec 8) (s : State) (F G : Fmt),
    let rm := rmOf (modeOf s)
    let stream (xs : Nat) (l : Nat) : Nat := xs / 2 ^ (32 * l) % 2 ^ 32
    let values : List Val := (List.range 64).map fun l =>
      if s.acting.getLsbD l then readOperand F (s.vsrc a l).toNat else .fin false 0 0 false
    let single (G : Fmt) : Prop := G.c = 32 ∨ dfRecord s = 0x8DE87FE000000000 ∨ dfRecord s = 0x987E000000000000
    (s.sf [0, 1, 2] = .ok F → s.df [3] = .ok G → F.c = 32 →
      s.vcheck [(a, 32)] (some (d, 32)) [] s.acting = .ok () →
      exec (.vcvt d a 0) s = .next
        (((s.vwrite d 32 (if s.acting = 0 then 0 else BitVec.allOnes 64)
          (stream (blockStream G rm values))).notePorts [a] s.acting).retire))
    ∧ (s.sf [3] = .ok F → s.df [0, 1, 2] = .ok G → single G →
      s.vcheck [(a, 32)] (some (d, G.c)) [] (blockWords F s.acting) = .ok () →
      exec (.vcvt d a 0) s = .next (s.vdone d G.c [a] fun l =>
        let bytes := joinElems 32 ((List.range 64).map fun l => (s.vsrc a l).toNat)
        let size := 8 * F.blockBytes
        convertTo G (modeOf s) (blockElem F (bytes / 2 ^ (size * (l / F.blockLen)) % 2 ^ size) (l % F.blockLen))))
    ∧ (s.sf [3] = .ok F → s.df [0, 1, 2] = .ok G → ¬ single G →
      exec (.vcvt d a 0) s = traps s 3 (BitVec.ofNat 64 (32 + ((modeOf s).extractLsb' 5 5).toNat)))

namespace Sys2Proof.Stated

/-- The bits of a lane unit under a format (R191). -/
def unitBits (F : Fmt) : Nat := if F.c = 64 then 64 else 32

/-- Nothing the group holds is poisoned. -/
def Unpoisoned (s : State) : Prop := s.grp.regs.poison = []

/-- The instruction writes `op L` into the lanes L of a set, as units of width w; VectorResultStands says what else
such a write does. -/
def Laned (i : Instr) (s : State) (d : BitVec 8) (w : Nat) (lanes : Lanes) (op : Nat → Nat) : Prop :=
  ∃ f, exec i s = .next ((s.vwrite d w lanes f).retire) ∧ ∀ l, l < 64 → lanes.getLsbD l = true → f l = op l

/-- The acting lanes below a lane. -/
def rank (s : State) (l : Nat) : Nat := (List.range l).countP fun i => s.acting.getLsbD i

/-- Element x ranks strictly above y (R198): the larger number, +0 above −0, any number above a NaN. -/
def Above (x y : Val) : Prop :=
  x.isNan = false ∧ (y.isNan = true ∨ below y x ∨ (x.isZero = true ∧ y.isZero = true ∧ x.neg? = false ∧ y.neg? = true))

/-- Lane l comes before lane m in the ranking of R198: above it, or level with it and the lower lane. -/
def Before (val : Nat → Val) (l m : Nat) : Prop := Above (val l) (val m) ∨ (¬ Above (val m) (val l) ∧ l < m)

/-- The code after step i of a scan over codes (R196): the first code's value, then i steps. -/
def afterSteps {α : Type} (o : ScanOp α) (xs : List Nat) (i : Nat) : Nat :=
  match xs with
  | [] => 0
  | x :: rest => o.emit ((rest.take i).foldl o.step (o.start x))

/-- The code after step i of operation `op` under formats F and G. -/
def scanned (op : Nat) (F G : Fmt) (md : ModeWord) (xs : List Nat) (i : Nat) : Nat :=
  if 3 ≤ op then afterSteps (scanBits op F) xs i
  else if F.kind = 0 then afterSteps (scanFloat op F G md) xs i else afterSteps (scanInt op F G md) xs i

/-- The identity's code of an operation (R196). -/
def identityOf (op : Nat) (F G : Fmt) : Nat :=
  if op = 3 then 2 ^ F.w - 1
  else if op = 1 then extremeCode G false
  else if op = 2 then extremeCode G true
  else 0

/-- Byte i of the block of eight registers from `base` on (R202). -/
def blockByte (r : Vregs) (base i : Nat) : Nat :=
  (r.lane (base + i / 256) (i / 4 % 64)).toNat / 2 ^ (8 * (i % 4)) % 256

/-- The index to which a pattern table takes a byte (R202): bit k is the parity of row k AND i. -/
def destination (rows : List Nat) (i : Nat) : Nat := patternIndex rows i

end Sys2Proof.Stated

/-- R191, R193, R194: shuffles, shifts and compaction of lane units. -/
def Sys2Proof.Stated.CrossLaneMoves : Prop :=
  ∀ (d a b n : BitVec 8) (s : State) (F : Fmt), s.sf [0, 1, 2, 3] = .ok F → Unpoisoned s → n.toNat < 64 →
    let w := unitBits F
    let unit (l : Nat) : Nat := s.unit a w l
    (s.vcheck [(a, w), (b, 32)] (some (d, w)) [] 0 = .ok () →
      Laned (.vshfl d a b) s d w s.acting (fun l => unit ((s.vsrc b l).toNat % 64)))
    ∧ (s.vcheck [(a, w)] (some (d, w)) [] 0 = .ok () →
      Laned (.vshup d a n) s d w s.acting (fun l => if l < n.toNat then 0 else unit (l - n.toNat))
      ∧ Laned (.vshdn d a n) s d w s.acting (fun l => if 63 < l + n.toNat then 0 else unit (l + n.toNat))
      ∧ Laned (.vxorsh d a n) s d w s.acting (fun l => unit (l ^^^ n.toNat))
      ∧ Laned (.vexpand d a) s d w s.acting (fun l => unit (rank s l))
      ∧ ∃ f, exec (.vcompact d a) s = .next ((s.vwrite d w (lanesBelow (rank s 64)) f).retire)
          ∧ ∀ l, l < 64 → s.acting.getLsbD l = true → f (rank s l) = unit l)

/-- R195: `vballot` and its encoding. -/
def Obligations.Ballots : Prop :=
  decodeTableWord 32 0x84070300 = some (.vballot 7 3)
  ∧ ∀ (d a : BitVec 8) (s : State) (F : Fmt), s.sf [0, 1, 2, 3] = .ok F →
    s.vcheck [(a, unitBits F)] none [d] s.acting = .ok () →
    ∃ m : Dword, exec (.vballot d a) s = puts s d m
      ∧ ∀ l, l < 64 → (m.getLsbD l = true ↔ s.acting.getLsbD l = true ∧ s.unit a (unitBits F) l ≠ 0)

/-- R196: scans and reductions over the acting lanes in ascending order. -/
def Sys2Proof.Stated.Scans : Prop :=
  ∀ (d a c : BitVec 8) (s : State) (F G : Fmt) (op : Nat), s.sf [0, 1, 2] = .ok F →
    (op < 3 → s.df [0, 1, 2] = .ok G ∧ F.kind = G.kind ∧ F.c = G.c ∧ (F.kind = 0 → rmOf (modeOf s) ≠ 5)) → op < 6 →
    Vready s d [a] F.c →
    let xs (j : Nat) : List Nat := (lanesList s.acting).map fun l => code s a F.c l j
    let gives (i : Instr) (v : Nat → Nat → Nat) : Prop :=
      ∃ f, exec i s = .next ((s.vwrite d F.c s.acting f).retire)
        ∧ ∀ l, l < 64 → s.acting.getLsbD l = true → ∀ j, j < F.e → subElem F.c (f l) j = v l j % 2 ^ F.c
    (c.toNat = op → gives (.vscan d a c) (fun l j => scanned op F G (modeOf s) (xs j) (rank s l)))
    ∧ (c.toNat = 8 + op → gives (.vscan d a c) (fun l j =>
        if rank s l = 0 then identityOf op F G else scanned op F G (modeOf s) (xs j) (rank s l - 1)))
    ∧ (c.toNat = op → gives (.vred d a c) (fun _ j => scanned op F G (modeOf s) (xs j) (rank s 64 - 1)))

/-- R196 to R198: the top-ranked lane of `vred` with OP 6, and `vtopk`. -/
def Sys2Proof.Stated.Rankings : Prop :=
  ∀ (d a k : BitVec 8) (s : State) (F : Fmt), s.sf [0, 1, 2] = .ok F → F.c = 32 → d.toNat ≤ 222 →
    s.vcheck [(a, 32)] (some (d, 32)) [] s.acting = .ok () → s.needReg (d.toNat + 1) = .ok () →
    s.need [] [d.toNat + 1] = .ok () →
    let acts (l : Nat) : Prop := l < 64 ∧ s.acting.getLsbD l = true
    let val (l : Nat) : Val := readCode F (s.vsrc a l).toNat
    (s.acting ≠ 0 → ∃ top, acts top ∧ (∀ l, acts l → l ≠ top → Before val top l)
      ∧ exec (.vred d a 6) s = .next (((s.vwrite (d + 1) 32 s.acting (fun _ => top) false).vwrite d 32 s.acting
          fun _ => (s.vsrc a top).toNat % 2 ^ F.w).retire))
    ∧ (s.acting = 0 → exec (.vred d a 6) s = .next ((s.vwrite d 32 0 fun _ => 0).retire))
    ∧ (1 ≤ k.toNat → k.toNat ≤ 16 → ∃ order : List Nat, order.Nodup ∧ (∀ l, l ∈ order ↔ acts l) ∧ order.Pairwise (Before val)
      ∧ ∃ f g, exec (.vtopk d a k) s = .next (((s.vwrite d 32 (lanesBelow k.toNat) f false).vwrite (d + 1) 32
            (lanesBelow k.toNat) g false).retire)
          ∧ ∀ j, j < k.toNat →
            (j < order.length → f j = (s.vsrc a (order.getD j 0)).toNat % 2 ^ F.w ∧ g j = order.getD j 0)
            ∧ (order.length ≤ j → f j = 0 ∧ g j = 0xFFFFFFFF))

/-- R200 to R202: loading a pattern table, and permuting eight registers by it. -/
def Sys2Proof.Stated.Patterns : Prop :=
  ∀ (d a b t : BitVec 8) (s : State) (g k : Nat), s.cur = .slot g k → s.need [d, a, b] = .ok () →
    let place := partKey (s.group g).pkg (s.group g).die (s.group g).core (s.group g).part * 16
    (∀ l u, s.scalarAccess (s.readS a) 32 32 .read false = .ok (l, u) → u.poisoned l.key 32 = false →
      let p := u.bytesAt l.key 32
      let rows : List Nat := (List.range 11).map fun r => p / 2 ^ (16 * r) % 2 ^ 16
      ((p / 2 ^ 192 ≠ 0 ∨ ∃ r ∈ rows, 2 ^ 11 ≤ r) → exec (.xpld d a b) s = puts u d 2)
      ∧ (p / 2 ^ 192 = 0 → (∀ r ∈ rows, r < 2 ^ 11) → gfInvertible 0 11 rows = false → exec (.xpld d a b) s = puts u d 1)
      ∧ (p / 2 ^ 192 = 0 → (∀ r ∈ rows, r < 2 ^ 11) → gfInvertible 0 11 rows = true →
          let table : Pattern := { rows := rows, sig := BitVec.ofNat 16 (p / 2 ^ 176), ctx := (s.group g).hart.ctx }
          exec (.xpld d a b) s
            = puts { u with patterns := SMap.put u.patterns (place + (s.readS b).toNat % 16) table } d 0))
    ∧ (∀ p, t.toNat < 16 → d.toNat ≤ 216 → a.toNat ≤ 216 → SMap.find s.patterns (place + t.toNat) = some p →
      p.ctx = (s.group g).hart.ctx → (s.group g).regs.sliced = 0 → Unpoisoned s →
      s.needRegs ((List.range 8).map (a.toNat + ·) ++ (List.range 8).map (d.toNat + ·)) = .ok () →
      s.need [] ((List.range 8).map (a.toNat + ·) ++ (List.range 8).map (d.toNat + ·)) = .ok () →
      p.rows.length = 11 →
      (∀ i j, i < 2048 → j < 2048 → destination p.rows i = destination p.rows j → i = j) →
      ∃ r : Vregs, exec (.vxpat d a t) s = .next ((s.setGroup g { s.group g with regs := r }).retire)
        ∧ (∀ i, i < 2048 → blockByte r d.toNat (destination p.rows i) = blockByte (s.group g).regs a.toNat i)
        ∧ (∀ q, q < d.toNat ∨ d.toNat + 8 ≤ q → r.reg q = (s.group g).regs.reg q)
        ∧ r.bp = (s.group g).regs.bp)

/-- R196, R164, R85, R108: the steps of a scan. Integer sums: each partial sum is written to DF before the next lane is
added. -/
def Sys2Proof.Stated.ScanSteps : Prop :=
  (∀ (r q : Dword) (F G : Fmt) (md : ModeWord) (xs : List Nat) (i : Nat), F = fmtOf r → G = fmtOf q → checkRecord r = 0 →
    checkRecord q = 0 → F.kind = 1 ∨ F.kind = 2 → G.kind = 1 ∨ G.kind = 2 → i < xs.length →
    let val (j : Nat) : Int := (readCode F (xs.getD j 0)).toInt
    let put (y : Int) : Nat := writeInt G (isOf md) y
    let at_ (op k : Nat) : Nat := afterSteps (scanInt op F G md) xs k
    (∀ op < 3, at_ op 0 = put (val 0))
    ∧ (i + 1 < xs.length → at_ 0 (i + 1) = put ((readCode G (at_ 0 i)).toInt + val (i + 1)))
    ∧ (∃ m, at_ 1 i = put m ∧ (∀ j ≤ i, m ≤ val j) ∧ ∃ j ≤ i, m = val j)
    ∧ (∃ m, at_ 2 i = put m ∧ (∀ j ≤ i, val j ≤ m) ∧ ∃ j ≤ i, m = val j))
  ∧ (∀ (F : Fmt) (xs : List Nat) (i : Nat), i + 1 < xs.length →
    let x (j : Nat) : Nat := xs.getD j 0 % 2 ^ F.w
    let at_ (op k : Nat) : Nat := afterSteps (scanBits op F) xs k
    (∀ op ∈ [3, 4, 5], at_ op 0 = x 0) ∧ at_ 3 (i + 1) = at_ 3 i &&& x (i + 1) ∧ at_ 4 (i + 1) = at_ 4 i ||| x (i + 1)
    ∧ at_ 5 (i + 1) = at_ 5 i ^^^ x (i + 1))
  ∧ ∀ (F G : Fmt) (md : ModeWord) (acc : Val) (x : Nat),
    let put (v : Val) : Nat := roundTo G (rmOf md) (ovOf md) v
    (∀ op < 3, (scanFloat op F G md).start x = readOperand F x ∧ (scanFloat op F G md).emit acc = put acc)
    ∧ (scanFloat 0 F G md).step acc x = readCode G (put (addVal (rmOf md) acc (readOperand F x)))
    ∧ (scanFloat 1 F G md).step acc x = readCode G (put (minMaxVal false acc (readOperand F x)))
    ∧ (scanFloat 2 F G md).step acc x = readCode G (put (minMaxVal true acc (readOperand F x)))

namespace Sys2Proof.Stated

/-- The entry of bucket q stands at e, in the die's slices, neither race-checked nor poisoned (R203). -/
def EntryAt (s : State) (x : Deal) (e : Loc) (q : Nat) : Prop :=
  let ea := x.set.buckets + BitVec.ofNat 64 (16 * q)
  ea.toNat % 16 = 0 ∧ s.inDie ea = true ∧ s.xlate s.thread ea .rmw = (.at e, s) ∧ s.checkedAccess s.thread e = false
  ∧ s.poisoned e.key 16 = false

/-- BUSY of a bucket's entry. -/
def busyAt (s : State) (e : Loc) : Prop := s.bytesAt e.key 8 / 2 ^ 7 % 2 = 1

/-- The blocks of a bucket's staging area (R203). -/
def StagedAt (s : State) (x : Deal) (e : Loc) (m : List Nat) : Prop :=
  s.stageArea x.set (BitVec.ofNat 64 (s.bytesAt (e.key + 8) 8)) = .ok (m, s)

/-- Bucket q can be dealt to. -/
def Open (s : State) (x : Deal) (e : Loc) (m : List Nat) (q : Nat) : Prop :=
  EntryAt s x e q ∧ ¬ busyAt s e ∧ StagedAt s x e m

/-- COUNT of a bucket's entry. -/
def countAt (s : State) (e : Loc) : Nat := s.bytesAt e.key 8 % 2 ^ 7

/-- Two places of memory lie apart. -/
def Apart (a n b k : Nat) : Prop := a + n ≤ b ∨ b + k ≤ a

/-- What a set's memory is made of lies apart: entry, blocks of the staging area, descriptor. -/
def BucketApart (home : Nat) (e : Loc) (m : List Nat) : Prop :=
  m.Pairwise (fun a b => Apart a 256 b 256) ∧ Apart e.key 16 home 64 ∧ ∀ b ∈ m, Apart b 256 e.key 16 ∧ Apart b 256 home 64

/-- A byte offset in a staging area (R203). -/
def stagedKey (m : List Nat) (off : Nat) : Nat := m.getD (off / 256) 0 + off % 256

/-- The group that is formed of n lanes of bucket q (R206): FORMED counts up, and the group stands in its stream or, while
its queue is full, waits outside. -/
def Forms (s t : State) (x : Deal) (e : Loc) (m : List Nat) (q n : Nat) : Prop :=
  let r := x.set
  let (p, die, _) := s.placeOf s.cur
  let ctx := s.ctxOf s.cur
  let room := s.hasRoom p ctx (64 + r.queue)
  t.bytesAt e.key 1 = 0x80 ∧ t.bytesAt (x.home + 0x30) 8 = (s.bytesAt (x.home + 0x30) 8 + 1) % 2 ^ 64
  ∧ (∃ f, SMap.find t.formed s.nextId = some f ∧ f.entry = r.entry ∧ f.args = r.args ∧ f.die = die ∧ f.key = q ∧ f.lanes = n
      ∧ f.ncarry = r.ncarry ∧ f.bucket = e.key ∧ f.stage = m ∧ f.waits = !room
      ∧ f.stream = streamKey p ctx (64 + r.queue) r.prio)
  ∧ (t.stream (streamKey p ctx (64 + r.queue) r.prio)).entries =
      (s.stream (streamKey p ctx (64 + r.queue) r.prio)).entries ++ if room then [.formed s.nextId] else []

end Sys2Proof.Stated

/-- R203, R204, R206: dealing one lane: its words and identifier at the next position of the staging area, COUNT up by one;
with the 64th lane the bucket is BUSY, its COUNT zero, and a group formed. A BUSY bucket is waited for. -/
def Sys2Proof.Stated.LaneDealt : Prop :=
  ∀ (s : State) (x : Deal) (lane : Nat) (e : Loc) (m : List Nat), s.race.active = false → s.logOf s.cur = none → lane < 64 →
    let q := x.keys.getD lane 0
    let n := countAt s e
    let nc := x.set.ncarry
    (Open s x e m q → BucketApart x.home e m → x.words.length = nc → n < 64 → ∃ t, s.dealLane x lane = .ok t
      ∧ (∀ j < nc, t.bytesAt (stagedKey m (256 * j + 4 * n)) 4 = ((x.words.getD j []).getD lane 0).toNat)
      ∧ t.bytesAt (stagedKey m (256 * nc + 8 * n)) 8 = (s.grp.wid lane).toNat
      ∧ (n < 63 → t.bytesAt e.key 1 = n + 1 ∧ t.formed = s.formed ∧ t.streams = s.streams)
      ∧ (n = 63 → Forms s t x e m q 64)
      ∧ t.cores = s.cores ∧ t.groups = s.groups
      ∧ ∀ key, key ≠ e.key → (∀ b ∈ m, key < b ∨ b + 256 ≤ key) → (n = 63 → key < x.home + 0x30 ∨ x.home + 0x38 ≤ key) →
          Mem.byte t.mem key = Mem.byte s.mem key)
    ∧ (EntryAt s x e q → busyAt s e → s.dealLane x lane = .error (.wait (.bucket e.key) s))

/-- R205, R206: closing one bucket: of one that holds lanes a group is formed, an empty one stays as it is; a BUSY one is
waited for. -/
def Sys2Proof.Stated.BucketClosed : Prop :=
  ∀ (s : State) (x : Deal) (q : Nat) (e : Loc) (m : List Nat), s.race.active = false → s.logOf s.cur = none →
    EntryAt s x e q →
    (busyAt s e → s.closeOne x q = .error (.wait (.bucket e.key) s))
    ∧ (¬ busyAt s e → countAt s e = 0 → s.closeOne x q = .ok (0, s))
    ∧ (Open s x e m q → BucketApart x.home e m → countAt s e ≠ 0 → ∃ t, s.closeOne x q = .ok (1, t) ∧ Forms s t x e m q (countAt s e)
      ∧ t.cores = s.cores ∧ t.groups = s.groups
      ∧ ∀ key, key ≠ e.key → (key < x.home + 0x30 ∨ x.home + 0x38 ≤ key) → Mem.byte t.mem key = Mem.byte s.mem key)

/-- R203 to R206, R50: `rgdeal` deals the lanes whose key names a bucket, in ascending order, with what it read at its issue,
and ends them; `rgclose` closes each bucket in order, from the one it has come to, and counts the groups formed. -/
def Sys2Proof.Stated.RegroupInstructions : Prop :=
  ∀ (d a b : BitVec 8) (s s1 s2 : State) (g k : Nat) (x : Deal), s.cur = .slot g k →
    let key (l : Nat) : Nat := (s.vsrc a l).toNat
    -- what is read at the issue
    (∀ (r : RegroupSet) (desc : Loc), s.vcheck [(a, 32)] none [d, b] s.acting = .ok () →
      s.regroupSet (s.readS b) = .ok (r, desc, s1) → s1.needRegs r.carried = .ok () → s1.need [] r.carried = .ok () →
      s1.needClean r.carried s.acting = .ok () → s.dealRead d a b = .ok (x, s1) →
        x.home = desc.key ∧ x.desc = s1.bytesAt desc.key 64 ∧ x.active = s.active
        ∧ (∀ l < 64, x.keys.getD l 0 = key l ∧ (x.left_.getLsbD l = true ↔ s.acting.getLsbD l = true ∧ 2 ^ r.lgb ≤ key l))
        ∧ x.words = r.carried.map s1.grp.regs.value)
    ∧ ((s.slot s.cur).deal = some x ∧ s1 = s ∨ (s.slot s.cur).deal = none ∧ s.dealRead d a b = .ok (x, s1) →
        let gone := x.active &&& ~~~ x.left_
        s1.dealAll x 0 (lanesList (gone &&& ~~~ (s.slot s.cur).done)) = .ok s2 →
        let t := ((s2.writeS d x.left_).retire).endLanes g gone
        exec (.rgdeal d a b) s = .next
          (if gone ≠ 0 ∧ (t.slot s.cur).own = 0 then (t.setSlot s.cur {}).examined s.cur (s.slot s.cur).pc s.word else t))
    ∧ (∀ lane rest dealt, s.dealAll x dealt [] = .ok s
        ∧ (s.dealLane x lane = .ok s1 → s.dealAll x dealt (lane :: rest) = s1.dealAll x (dealt ||| (1#64 <<< lane)) rest)
        ∧ ∀ n u, s.dealLane x lane = .error (.wait (.bucket n) u) → u.cur = s.cur →
          s.dealAll x dealt (lane :: rest) = .error (.wait (.bucket n) (u.setSlot s.cur { u.slot s.cur with
            done := (u.slot s.cur).done ||| dealt, deal := some x })))
    ∧ ((s.slot s.cur).deal = some x ∧ s1 = s ∨ (s.slot s.cur).deal = none ∧ s.closeRead d a = .ok (x, s1) →
        ∀ m, s1.closeFrom x (s.slot s.cur).closed.1 (s.slot s.cur).closed.2 (2 ^ x.set.lgb - (s.slot s.cur).closed.1)
            = .ok (m, s2) → exec (.rgclose d a) s = puts s2 d (BitVec.ofNat 64 m))
    ∧ (∀ q n fuel m, s.closeFrom x q n 0 = .ok (n, s)
        ∧ (s.closeOne x q = .ok (m, s1) → s.closeFrom x q n (fuel + 1) = s1.closeFrom x (q + 1) (n + m) fuel))

/-- R203 to R206: `rgdeal` completes where every bucket that a lane names can be dealt to and has room for its lanes; each
entry then counts them. -/
def Sys2Proof.Stated.DealCompletes : Prop :=
  ∀ (d a b : BitVec 8) (s : State) (g k : Nat) (x : Deal) (e : Nat → Loc) (m : Nat → List Nat), s.cur = .slot g k →
    (s.slot s.cur).deal = none → s.dealRead d a b = .ok (x, s) → s.race.active = false → s.logOf s.cur = none →
    let gone := x.active &&& ~~~ x.left_
    let deals (l : Nat) : Bool := (gone &&& ~~~ (s.slot s.cur).done).getLsbD l
    let lanes (q : Nat) : Nat := (List.range 64).countP fun l => deals l && x.keys.getD l 0 == q
    (∀ q, lanes q ≠ 0 → Open s x (e q) (m q) q ∧ BucketApart x.home (e q) (m q) ∧ countAt s (e q) + lanes q ≤ 64) →
    (∀ q p, q ≠ p → lanes q ≠ 0 → lanes p ≠ 0 → Apart (e q).key 16 (e p).key 16 ∧ ∀ c ∈ m q, Apart c 256 (e p).key 16) →
    ∃ t, exec (.rgdeal d a b) s = .next t
      ∧ ((s.slot s.cur).own &&& ~~~ gone ≠ 0 → (∀ q, lanes q ≠ 0 → t.bytesAt (e q).key 1 =
            if countAt s (e q) + lanes q = 64 then 0x80 else countAt s (e q) + lanes q)
          ∧ (t.group g).exited = (s.group g).exited ||| gone ∧ (t.slot s.cur).own = (s.slot s.cur).own &&& ~~~ gone
          ∧ (d ≠ 0 → d ≠ 63 → t.readS d = x.left_))

/-- R205, R206: `rgclose` completes where every bucket can be closed; s[d] is then the number of those that held lanes. -/
def Sys2Proof.Stated.CloseCompletes : Prop :=
  ∀ (d a : BitVec 8) (s : State) (x : Deal) (e : Nat → Loc) (m : Nat → List Nat),
    (s.slot s.cur).deal = none → (s.slot s.cur).closed = (0, 0) → s.closeRead d a = .ok (x, s) → s.race.active = false →
    s.logOf s.cur = none → let n := 2 ^ x.set.lgb
    (∀ q < n, EntryAt s x (e q) q ∧ ¬ busyAt s (e q) ∧ Apart (e q).key 16 x.home 64
      ∧ (countAt s (e q) ≠ 0 → StagedAt s x (e q) (m q))) →
    (∀ q < n, ∀ p < n, q ≠ p → Apart (e q).key 16 (e p).key 16) →
    ∃ t, exec (.rgclose d a) s = .next t
      ∧ (∀ q < n, t.bytesAt (e q).key 1 = if countAt s (e q) = 0 then s.bytesAt (e q).key 1 else 0x80)
      ∧ (d ≠ 0 → d ≠ 63 → t.readS d = BitVec.ofNat 64 ((List.range n).countP fun q => countAt s (e q) != 0))

namespace Sys2Proof.Stated

/-- No replay log watches the issuing agent. -/
def Unlogged (s : State) : Prop := s.logOf s.cur = none

/-- The base selector `b` in register 0 is the local alias (R225). -/
def baseValue (s : State) (b : BitVec 8) : Dword := if b = 0 then 0x00E0000000000000 else s.readS b

/-- The accesses of the row-0x9 forms of R225 to R228, but for handles: load and store of one shape, the data registers,
the lane words, the scalar operands, whether the base is the local alias, and one access for each acting lane and part,
in lane order. -/
def VectorForm (s : State) (d a b : BitVec 8) (load store : Instr) (data : List Nat) (vs ss : List (BitVec 8))
    (loc : Bool) (reqs : List LaneReq) : Prop :=
  let own : List (BitVec 8) := if b = 0 then [] else [b]
  let A (l : Nat) : Dword := baseValue s b + (s.vsrc a l).setWidth 64
  (∃ F : Fmt, s.sf [0, 1, 2] = .ok F ∧ 8 ≤ F.c
    ∧ ((load = .vld d a b ∧ store = .vst d a b ∧ (F.c = 64 → d.toNat % 2 = 0) ∧ vs = [a] ∧ ss = own ∧ loc = (b == 0)
        ∧ data = (if F.c = 64 then [d.toNat, d.toNat + 1] else [d.toNat])
        ∧ reqs = s.requests A (F.c / 8) [(0, d.toNat)])
      ∨ (load = .vlds d a b ∧ store = .vsts d a b ∧ (F.c = 64 → d.toNat % 2 = 0) ∧ vs = [] ∧ loc = false
        ∧ ss = (if a = 0 then [] else [a]) ++ [b]
        ∧ data = (if F.c = 64 then [d.toNat, d.toNat + 1] else [d.toNat])
        ∧ reqs = s.requests (fun l => baseValue s a + BitVec.ofNat 64 l * s.readS b) (F.c / 8) [(0, d.toNat)])
      ∨ (load = .vld2 d a b ∧ store = .vst2 d a b ∧ F.c ≤ 32 ∧ d.toNat ≤ 222 ∧ vs = [a] ∧ ss = own ∧ loc = (b == 0)
        ∧ data = [d.toNat, d.toNat + 1]
        ∧ reqs = s.requests A (F.c / 8) [(0, d.toNat), (F.c / 8, d.toNat + 1)])))
  ∨ (load = .vldq d a b ∧ store = .vstq d a b ∧ d.toNat % 4 = 0 ∧ d.toNat ≤ 220 ∧ vs = [a] ∧ ss = own ∧ loc = (b == 0)
    ∧ data = [d.toNat, d.toNat + 1, d.toNat + 2, d.toNat + 3]
    ∧ reqs = s.requests A 16 [(0, d.toNat)])

/-- The accesses of an operation all translate, to the issuer's own package, and none meets a race: where they land, in their
order; `t` and `o1` are the state and the operation after them. -/
def Performs (s : State) (o : Op) (k : AccKind) (loc : Bool) (reqs : List LaneReq) (here : List (LaneReq × Loc))
    (o1 : Op) (t : State) : Prop :=
  s.laneChecks o k loc reqs = .ok () ∧ (∀ x ∈ here, s.away s.cur x.2 = false)
  ∧ ∃ u, s.locate o k reqs = .ok (here, [], u) ∧ u.performAll o here = .ok (o1, t)

/-- The words that an access takes, from its first register on. -/
def words (r : LaneReq) : Nat := if r.width ≠ 0 then 1 else max 1 (r.n / 4)

/-- Word i of a lane's access, of the bytes read (R6, R328). -/
def wordOf (r : LaneReq) (v i : Nat) : Word :=
  if r.width ≠ 0 then BitVec.ofNat 32 (v / 2 ^ r.bit % 2 ^ r.width) else BitVec.ofNat 32 (v / 2 ^ (32 * i))

/-- Every word that an access of `here` names holds its bytes in memory; every other vector word is as it was. -/
def Filled (s u : State) (here : List (LaneReq × Loc)) : Prop :=
  (∀ x ∈ here, ∀ i, i < words x.1 →
      (u.grp.regs.reg (x.1.reg + i)).getD x.1.lane 0 = wordOf x.1 (Mem.read s.mem x.2.key x.1.n) i)
  ∧ (∀ q l, l < 64 → (∀ x ∈ here, ¬ (x.1.lane = l ∧ x.1.reg ≤ q ∧ q < x.1.reg + words x.1)) →
      (u.grp.regs.reg q).getD l 0 = (s.grp.regs.reg q).getD l 0)

/-- Memory after the accesses of a store, lane by lane: each writes its bytes, an element below a byte its bits. -/
def storedBy (m : SMap Byte) (here : List (LaneReq × Loc)) : SMap Byte :=
  here.foldl (fun m x => Mem.write m x.2.key x.1.n (x.1.merged (Mem.read m x.2.key x.1.n))) m

/-- A store's bytes are its lanes' bytes, and no other byte changes. -/
def Stored (s u : State) (here : List (LaneReq × Loc)) : Prop :=
  u.mem = storedBy s.mem here
  ∧ ∀ key, (∀ x ∈ here, key < x.2.key ∨ x.2.key + x.1.n ≤ key) → Mem.byte u.mem key = Mem.byte s.mem key

/-- The operation that a counted vector word leaves in flight. -/
def InFlight (u : State) (p : Nat) (kind : OpKind) (pend : List Nat) : Prop :=
  ∃ n o, SMap.find u.ops n = some o ∧ o.kind = kind ∧ o.pip = some p ∧ o.pendV = pend ∧ o.agent = u.cur ∧ o.reqs = []
    ∧ o.entries = 0

end Sys2Proof.Stated

/-- R225 to R228: `vld`, `vlds`, `vld2` and `vldq` of sound data. -/
def Sys2Proof.Stated.VectorLoads : Prop :=
  ∀ (d a b : BitVec 8) (load store : Instr) (data : List Nat) (vs ss : List (BitVec 8)) (loc : Bool)
    (reqs : List LaneReq) (here : List (LaneReq × Loc)) (o : Op) (s t : State) (g k : Nat),
    s.cur = .slot g k → VectorForm s d a b load store data vs ss loc reqs → s.memCheck vs data false ss = .ok () →
    Performs s { s.opHere s.setA .load with pendV := data } .read loc reqs here o t →
    (∀ x ∈ here, t.poisoned x.2.key x.1.n = false) →
    ∃ u, exec load s = .next u ∧ here.map Prod.fst = reqs ∧ AccessFrame s u ∧ u.mem = s.mem ∧ u.grans = s.grans
      ∧ (u.slot s.cur).pc = (s.slot s.cur).pc + 4 ∧ (∀ r, u.readS r = s.readS r)
      ∧ (s.setA = none → Filled s u here ∧ u.ops = s.ops)
      ∧ (∀ p, s.setA = some p → (u.group g).regs = (s.group g).regs ∧ InFlight u p .load data)

/-- R225 to R228, R223: `vst`, `vsts`, `vst2` and `vstq`: the lanes' stores in lane order. -/
def Sys2Proof.Stated.VectorStores : Prop :=
  ∀ (d a b : BitVec 8) (load store : Instr) (data : List Nat) (vs ss : List (BitVec 8)) (loc : Bool)
    (reqs : List LaneReq) (here : List (LaneReq × Loc)) (o : Op) (s t : State) (g k : Nat),
    s.cur = .slot g k → VectorForm s d a b load store data vs ss loc reqs → s.memCheck vs data true ss = .ok () →
    Performs s (s.opHere s.setA .store) .write loc reqs here o t →
    ∃ u, exec store s = .next u ∧ here.map Prod.fst = reqs ∧ AccessFrame s u ∧ Stored s u here
      ∧ (u.group g).regs = (s.group g).regs
      ∧ (u.slot s.cur).pc = (s.slot s.cur).pc + 4 ∧ (∀ r, u.readS r = s.readS r)
      ∧ (s.setA = none → u.ops = s.ops) ∧ (∀ p, s.setA = some p → InFlight u p .store [])

/-- R212, R225 to R228, R388, R389: a vector load or store some of whose lanes go to another package: what goes there is in
flight and performs, in its order, as the operation completes; the other lanes perform at the issue. -/
def Sys2Proof.Stated.VectorsSentAway : Prop :=
  (∀ (d a b : BitVec 8) (load store : Instr) (data : List Nat) (vs ss : List (BitVec 8)) (loc isStore : Bool)
    (reqs : List LaneReq) (here : List (LaneReq × Loc)) (o1 : Op) (s u t : State) (g k : Nat),
    s.cur = .slot g k → VectorForm s d a b load store data vs ss loc reqs → s.memCheck vs data isStore ss = .ok () →
    let o : Op := { s.opHere s.setA (if isStore then .store else .load) with pendV := if isStore then [] else data }
    let kind : AccKind := if isStore then .write else .read
    let near := here.filter fun x => !s.away s.cur x.2
    let away := here.filter fun x => s.away s.cur x.2
    s.laneChecks o kind loc reqs = .ok () → s.locate o kind reqs = .ok (here, [], u) → away ≠ [] →
    u.performAll o near = .ok (o1, t) →
    ∃ v n o', exec (if isStore then store else load) s = .next v ∧ SMap.find v.ops n = some o' ∧ o'.agent = s.cur
      ∧ o'.kind = o.kind ∧ o'.pip = s.setA ∧ o'.entries = 0
      ∧ (o'.reqs.map fun r => (r.lane, r.key, r.n, r.data)) = (away.map fun x => (x.1.lane, x.2.key, x.1.n, x.1.data))
      ∧ (if isStore then Stored s v near else v.mem = s.mem) ∧ (v.group g).regs = (s.group g).regs
      ∧ (s.setA = none → (v.slot s.cur).block = some (.op n)) ∧ (v.slot s.cur).pc = (s.slot s.cur).pc + 4)
  ∧ ∀ (n : Nat) (o o2 : Op) (s t : State) (g k : Nat), SMap.find s.ops n = some o → o.agent = .slot g k →
    o.kind = .load ∨ o.kind = .store → o.reqs ≠ [] → o.entries = 0 → o.cb = none → o.tensor = none → o.due = false →
    o.ends = none → s.stopOf o.agent = none → (s.group g).regs.poison = [] → (s.group g).regs.lost = [] →
    let sent := o.reqs.map fun r => (r, r.loc)
    s.performAll { o with reqs := [] } sent = .ok (o2, t) → o2.bad = none →
    ∃ u, exec (.vectorAccessComplete n) s = .next u ∧ SMap.find u.ops n = none
      ∧ (∀ p, o.pip = some p → (u.group g).hart.pip p = (s.group g).hart.pip p - 1)
      ∧ (o.kind = .store → Stored s u sent ∧ (u.group g).regs = (s.group g).regs)
      ∧ (o.kind = .load → u.mem = s.mem ∧ ((o2.fills.map fun f => (f.1, f.2.1)).Nodup → ∀ f ∈ o2.fills, f.2.1 < 64 →
          (s.group g).regs.sliced.getLsbD (f.2.1 / 32) = false → ((u.group g).regs.reg f.1).getD f.2.1 0 = f.2.2))

/-- R226, R219, R230: a misaligned lane, a lane outside the address space, and lanes whose pages are missing; and the
prefetch, which moves no data. -/
def Sys2Proof.Stated.VectorAccessFaults : Prop :=
  ∀ (d a b : BitVec 8) (load store : Instr) (data : List Nat) (vs ss : List (BitVec 8)) (loc : Bool)
    (reqs : List LaneReq) (s : State) (g k : Nat),
    s.cur = .slot g k → VectorForm s d a b load store data vs ss loc reqs →
    ∀ isStore : Bool, s.memCheck vs data isStore ss = .ok () →
      let i := if isStore then store else load
      let o : Op := { s.opHere s.setA (if isStore then .store else .load) with pendV := if isStore then [] else data }
      (∀ r before after, reqs = before ++ r :: after → (∀ x ∈ before, x.va.toNat % x.n = 0) → r.va.toNat % r.n ≠ 0 →
        exec i s = traps s 5 r.va)
      ∧ (∀ r before after, (∀ x ∈ reqs, x.va.toNat % x.n = 0) → reqs = before ++ r :: after → loc = false →
          (∀ x ∈ before, x.va.toNat < 2 ^ 57 ∧ isAlias x.va = false ∧ isWindow x.va = false) → 2 ^ 57 ≤ r.va.toNat →
          exec i s = traps s 6 r.va)
      ∧ (∀ missed t, isStore = false → s.laneChecks o .read loc reqs = .ok () →
          s.locate o .read reqs = .ok ([], missed, t) → missed ≠ [] →
          let pages := (missed.map fun x => x.1.va.toNat / 2 ^ 16).dedup.length
          ∃ u n o', exec i s = .next u ∧ SMap.find u.ops n = some o' ∧ o'.entries = pages ∧ u.mem = s.mem
            ∧ u.faults.length = s.faults.length + pages ∧ (u.group g).parked = (s.group g).parked + pages
            ∧ (u.group g).regs = (s.group g).regs
            ∧ (u.slot s.cur).pc = (s.slot s.cur).pc + 4
            ∧ (s.setA = none → (u.slot s.cur).block = some (.op n)))
      ∧ (∀ n : BitVec 8, n.toNat < 64 → s.memCheck [a] [] false (if b = 0 then [] else [b]) = .ok () →
          ∃ u, exec (.vpfx n a b) s = .next u ∧ u.mem = s.mem ∧ u.grans = s.grans ∧ u.race = s.race
            ∧ (u.group g).regs = (s.group g).regs ∧ (u.group g).parked = (s.group g).parked
            ∧ (u.slot s.cur).pc = (s.slot s.cur).pc + 4)

/-- R229, R328, R341: `vldt` and `vstt` through a handle: of a plain tensor of elements, and loads of a CB tensor. -/
def Obligations.HandleAccesses : Prop :=
  ∀ (d a b : BitVec 8) (s : State) (g k key : Nat) (t : Tensor) (here : List (LaneReq × Loc)) (o : Op) (t1 : State),
    s.cur = .slot g k → b ≠ 0 → s.liveTensor (s.pkgOf s.cur) (s.ctxOf s.cur) (s.readS b) = some (key, t) →
    let F := fmtOf t.entry
    let n := t.widths.sum
    let idx (l : Nat) : Nat := if 32 < n then (s.vsrcPair a l).toNat % 2 ^ 40 else (s.vsrc a l).toNat
    let more := if 32 < n ∧ a.toNat < 224 then [a.toNat + 1] else []
    let data := if F.c = 64 then [d.toNat, d.toNat + 1] else [d.toNat]
    F.kind ≠ 3 → (F.c = 64 → d.toNat % 2 = 0) → (32 < n → pairOk a = true) → s.need [b] = .ok () →
    s.needRegs more = .ok () → s.need [] more = .ok () → s.needClean more s.memLanes = .ok () → s.passRuns t = false →
    let lanes := lanesList s.memLanes
    (∀ l ∈ lanes, idx l < 2 ^ n) →
    let items := lanes.filter fun l => !t.hole (idx l)
    let place (l : Nat) : ElemAt := t.at_ t.cur (idx l)
    let plain : List LaneReq := items.map fun l =>
      { lane := l, va := (place l).va, n := (place l).n, reg := d.toNat, data := s.elemOf d.toNat (F.c / 8) l,
        bit := (place l).bit, width := (place l).width }
    let pieces : List LaneReq := items.flatMap fun l => (List.range ((place l).n / 2)).map fun j =>
      { lane := l, va := (place l).va + BitVec.ofNat 64 (2 * j), n := 2, reg := 1000 + j }
    let s1 := s.learnAll (items.map s.laneWho) (s.message (tensorMsg key))
    let zeros : List (Nat × Nat × Word) :=
      (lanes.filter fun l => t.hole (idx l)).flatMap fun l => data.map fun r => (r, l, (0 : Word))
    let loads : Op := { s1.opHere s1.setA .load with pendV := data, fills := zeros, tensor := some key }
    let cb : CbLoad :=
      { d := d.toNat, rate := rateBits t.rate, entry := t.entry, pos := items.map fun l => (l, (place l).pos) }
    let holesRead (u : State) : Prop :=
      ∀ l ∈ lanes, t.hole (idx l) = true → ∀ q ∈ data, (u.grp.regs.reg q).getD l 0 = 0
    (t.rate = 0 → s.memCheck [a] data false [b] = .ok () → Performs s1 loads .read false plain here o t1 →
      (∀ x ∈ here, t1.poisoned x.2.key x.1.n = false) →
      ∃ u, exec (.vldt d a b) s = .next u ∧ AccessFrame s u ∧ u.mem = s.mem
        ∧ (s.setA = none → holesRead u ∧ ∀ x ∈ here, ∀ i, i < words x.1 →
            (u.grp.regs.reg (d.toNat + i)).getD x.1.lane 0 = wordOf x.1 (Mem.read s.mem x.2.key x.1.n) i)
        ∧ (∀ p, s.setA = some p → InFlight u p .load data ∧ (u.group g).regs = (s.group g).regs))
    ∧ (t.rate ≠ 0 → s.memCheck [a] data false [b] = .ok () →
      Performs s1 { loads with cb := some cb } .read false pieces here o t1 →
      (∀ x ∈ here, t1.poisoned x.2.key x.1.n = false) → s.setA = none →
      ∃ u, exec (.vldt d a b) s = .next u ∧ AccessFrame s u ∧ u.mem = s.mem ∧ holesRead u
        ∧ ∀ l ∈ items, (u.grp.regs.reg d.toNat).getD l 0 = BitVec.ofNat 32 ((cbDecode F (rateBits t.rate)
            ((here.filter fun x => x.1.lane == l).map fun x =>
              Mem.read s.mem x.2.key 2 * 2 ^ (16 * (x.1.reg - 1000))).sum).getD (place l).pos 0))
    ∧ (t.rate = 0 → s.memCheck [a] data true [b] = .ok () →
      Performs s1 { s1.opHere s1.setA .store with tensor := some key } .write false plain here o t1 →
      ∃ u, exec (.vstt d a b) s = .next u ∧ AccessFrame s u ∧ Stored s u here ∧ (u.group g).regs = (s.group g).regs
        ∧ ∀ p, s.setA = some p → InFlight u p .store [])
    ∧ (t.rate ≠ 0 → exec (.vstt d a b) s = traps s 3 (BitVec.ofNat 64 (1 * 32 + t.fmt)))

/-- R227, R219: a vector load, store or prefetch with all its data completes: what was read is written in one step, and
its pip counts down; of registers with no poisoned element, whose overwriting would be logged. -/
def Sys2Proof.Stated.VectorCompletes : Prop :=
  ∀ (n : Nat) (o : Op) (i : Instr) (s : State) (g k : Nat), SMap.find s.ops n = some o → o.agent = .slot g k →
    (i = .vectorAccessComplete n ∧ (o.kind = .load ∨ o.kind = .store ∨ o.kind = .prefetch))
      ∨ (i = .collectiveComplete n ∧ ∃ w e md, o.kind = .collective w e md) →
    o.entries = 0 → o.reqs = [] → o.cb = none → o.bad = none → o.due = false → o.ends = none → s.stopOf o.agent = none →
    (s.group g).regs.poison = [] → (s.group g).regs.lost = [] →
    ∃ u, exec i s = .next u
      ∧ u = { s with ops := SMap.erase s.ops n, groups := u.groups }
      ∧ (∀ j, j ≠ g → SMap.find u.groups j = SMap.find s.groups j)
      ∧ (∀ p, o.pip = some p → (u.group g).hart.pip p = (s.group g).hart.pip p - 1)
      ∧ (o.kind = .store ∨ o.kind = .prefetch → (u.group g).regs = (s.group g).regs)
      ∧ (o.kind ≠ .store → o.kind ≠ .prefetch → (o.fills.map fun f => (f.1, f.2.1)).Nodup → ∀ f ∈ o.fills, f.2.1 < 64 →
          (s.group g).regs.sliced.getLsbD (f.2.1 / 32) = false →
          ((u.group g).regs.reg f.1).getD f.2.1 0 = f.2.2)

namespace Sys2Proof.Stated

/-- The code an atomic leaves at its home (R233): m is the code found, x the lane's operand, c its compare code. -/
def newCode (op : AtOp) (F : Fmt) (md : ModeWord) (m x c : Nat) : Nat :=
  let w := 2 ^ F.w
  let int (k : Nat) : Int := (readCode F k).toInt
  let val (k : Nat) : Val := readOperand F k
  let rounded (v : Val) : Nat := roundTo F (rmOf md) (ovOf md) v
  match op with
  | .add => if F.kind = 0 then rounded (addVal (rmOf md) (val m) (val x)) else writeInt F (isOf md) (int m + int x)
  | .min => if F.kind = 0 then rounded (minMaxVal false (val m) (val x)) else writeInt F (isOf md) (min (int m) (int x))
  | .max => if F.kind = 0 then rounded (minMaxVal true (val m) (val x)) else writeInt F (isOf md) (max (int m) (int x))
  | .and => (m &&& x) % w
  | .or => (m ||| x) % w
  | .xor => (m ^^^ x) % w
  | .xchg => x % w
  | .cas => (if m % w = c % w then x else m) % w

/-- Memory after the lanes of an atomic have been applied at their homes, in order. -/
def appliedBy (op : AtOp) (F : Fmt) (md : ModeWord) (m : SMap Byte) (here : List (LaneReq × Loc)) : SMap Byte :=
  here.foldl (fun m x => Mem.write m x.2.key x.1.n (newCode op F md (Mem.read m x.2.key x.1.n) x.1.data x.1.cmp)) m

/-- The vector atomics: instruction, operation, whether old codes are returned (R234). -/
def atomics : List ((BitVec 8 → BitVec 8 → BitVec 8 → Instr) × AtOp × Bool) :=
  [(.vatadd, .add, true), (.vatmin, .min, true), (.vatmax, .max, true), (.vatand, .and, true), (.vator, .or, true),
   (.vatxor, .xor, true), (.vatxchg, .xchg, true), (.vatcas, .cas, true), (.vradd, .add, false), (.vrmin, .min, false),
   (.vrmax, .max, false)]

end Sys2Proof.Stated

/-- R232 to R237, R84: the vector atomics: applied at their homes in lane order; under SETA 15 with their old codes at
once, else in flight until every request has completed. -/
def Sys2Proof.Stated.VectorAtomics : Prop :=
  ∀ (d a b : BitVec 8) (s t : State) (g k : Nat) (F : Fmt) (f : BitVec 8 → BitVec 8 → BitVec 8 → Instr) (op : AtOp)
    (old : Bool) (here : List (LaneReq × Loc)),
    s.cur = .slot g k → Unlogged s → (f, op, old) ∈ atomics → s.sf [0, 1, 2] = .ok F → 8 ≤ F.c →
    (op = .add → F.kind = 0 → rmOf (modeOf s) ≠ 5) → (F.c = 64 → d.toNat % 2 = 0) →
    (op = .cas → d.toNat ≤ if F.c = 64 then 220 else 222) →
    let wide := if F.c = 64 then 2 else 1
    let regsFrom (r : Nat) : List Nat := if F.c = 64 then [r, r + 1] else [r]
    let data := if op = .cas then regsFrom d.toNat ++ regsFrom (d.toNat + wide) else regsFrom d.toNat
    let n := F.c / 8
    let value (r l : Nat) : Nat := s.elemOf r n l % 2 ^ F.c
    let reqs : List LaneReq := (lanesList s.memLanes).map fun l =>
      { lane := l, va := baseValue s b + (s.vsrc a l).setWidth 64, n := n, reg := d.toNat
        data := if op = .cas then value (d.toNat + wide) l else value d.toNat l
        cmp := if op = .cas then value d.toNat l else 0 }
    let o : Op := { s.opHere s.setA (.atomic op (sfRecord s) (modeOf s) old) with
      pendV := if old then regsFrom d.toNat else [] }
    s.memCheck [a] data true (if b = 0 then [] else [b]) = .ok () →
    s.laneChecks o .rmw (b == 0) reqs = .ok () → s.locate o .rmw reqs = .ok (here, [], t) →
    ∀ o1 t1, t.atomicAll o (placed here) = .ok (o1, t1) → o1.bad = none →
      ((∃ x ∈ here, s.away s.cur x.2 = true) → ∃ u m, exec (f d a b) s = .next u
        ∧ u.mem = appliedBy op F (modeOf s) s.mem here ∧ (u.group g).regs = (s.group g).regs
        ∧ SMap.find u.ops m = some { o1 with reqs := placed here }
        ∧ (s.setA = none → (u.slot s.cur).block = some (.op m)) ∧ (u.slot s.cur).pc = (s.slot s.cur).pc + 4)
      ∧ ((∀ x ∈ here, s.away s.cur x.2 = false) →
      ∃ u, exec (f d a b) s = .next u ∧ AccessFrame s u ∧ u.mem = appliedBy op F (modeOf s) s.mem here
        ∧ (∀ key, (∀ x ∈ here, key < x.2.key ∨ x.2.key + x.1.n ≤ key) → Mem.byte u.mem key = Mem.byte s.mem key)
        ∧ (u.slot s.cur).pc = (s.slot s.cur).pc + 4 ∧ (∀ r, u.readS r = s.readS r)
        ∧ (s.setA = none → old = false → (u.group g).regs = (s.group g).regs)
        ∧ (s.setA = none → old = true → ∀ before x after, here = before ++ x :: after → ∀ i, i < words x.1 →
            (u.grp.regs.reg (d.toNat + i)).getD x.1.lane 0
              = wordOf x.1 (Mem.read (appliedBy op F (modeOf s) s.mem before) x.2.key n) i)
        ∧ (∀ p, s.setA = some p → (u.group g).regs = (s.group g).regs
            ∧ ∃ m, SMap.find u.ops m = some { o1 with reqs := placed here }))

/-- R235: an atomic in flight: the oldest home to which requests are left completes them: their lanes' old codes are
written; with the last, the pip counts down. -/
def Sys2Proof.Stated.AtomicCompletes : Prop :=
  ∀ (n : Nat) (o : Op) (s : State) (g k : Nat) (op : AtOp) (entry : Dword) (md : ModeWord) (old : Bool) (r : LaneReq)
    (rest : List LaneReq),
    SMap.find s.ops n = some o → o.agent = .slot g k → o.kind = .atomic op entry md old → o.reqs = r :: rest →
    (∀ x ∈ o.reqs, x.order = none) → (s.group g).regs.poison = [] → (s.group g).regs.lost = [] →
    (o.fills.map fun f => (f.1, f.2.1)).Nodup → s.stopOf o.agent = none →
    let now := (o.reqs.filter fun x => x.key == r.key).map LaneReq.lane
    let later := o.reqs.filter fun x => x.key != r.key
    (later = [] → o.entries = 0 ∧ o.bad = none ∧ o.due = false ∧ o.ends = none) →
    ∃ u, exec (.atomicRequestComplete n) s = .next u ∧ u.mem = s.mem
      ∧ (∀ f ∈ o.fills, f.2.1 ∈ now → f.2.1 < 64 → (s.group g).regs.sliced.getLsbD (f.2.1 / 32) = false →
          ((u.group g).regs.reg f.1).getD f.2.1 0 = f.2.2)
      ∧ (later ≠ [] → SMap.find u.ops n = some { o with reqs := later }
          ∧ ∀ q l, (∀ f ∈ o.fills, f.1 = q → f.2.1 = l → l ∉ now) →
            ((u.group g).regs.reg q).getD l 0 = ((s.group g).regs.reg q).getD l 0)
      ∧ (later = [] →
          SMap.find u.ops n = none ∧ (∀ p, o.pip = some p → (u.group g).hart.pip p = (s.group g).hart.pip p - 1))

/-- R238, R233: the scalar atomics. -/
def Sys2Proof.Stated.ScalarAtomics : Prop :=
  ∀ (d a b : BitVec 8) (s t : State) (F : Fmt) (l : Loc), Unlogged s → s.sf [0, 1, 2] = .ok F → 8 ≤ F.c →
    Ready s [d, a, b] → s.needPip s.setA = .ok () →
    (isSys s.cur = true → s.accessInFlight = false) →
    let s0 := if isSys s.cur then s.releaseSlot 5 else s
    let n := F.c / 8
    s0.scalarAccess (s.readS a) n n .rmw true = .ok (l, t) → t.poisoned l.key n = false → s.away s.cur l = false →
    let m := Mem.read s.mem l.key n
    let x := (s.readS b).toNat % 2 ^ F.c
    let found : Dword := if F.kind = 1 ∧ F.sign = true then BitVec.ofInt 64 (readCode F m).toInt else BitVec.ofNat 64 m
    ∀ (i : Instr) (new : Nat),
      (i = .satadd d a b ∧ (F.kind = 0 → rmOf (modeOf s) ≠ 5) ∧ new = newCode .add F (modeOf s) m x 0
        ∨ i = .satcas d a b ∧ new = newCode .cas F (modeOf s) m x ((s.readS d).toNat % 2 ^ F.c)) →
      ∃ u, exec i s = .next u ∧ AccessFrame s u ∧ u.mem = Mem.write s.mem l.key n new
        ∧ (u.slot s.cur).pc = (s.slot s.cur).pc + 4
        ∧ (s.setA = none → d ≠ 0 → d ≠ 63 → u.readS d = found)
        ∧ (s.setA = none → ∀ r, r ≠ d → u.readS r = s.readS r)
        ∧ (∀ p, s.setA = some p → (∀ r, u.readS r = s.readS r)
            ∧ ∃ q o, SMap.find u.ops q = some o ∧ o.kind = .scalar d.toNat found ∧ o.pip = some p)

/-- R238, R388, R389: a scalar atomic whose home lies in another package is in flight, and is one step there as it
completes. -/
def Sys2Proof.Stated.ScalarAtomicsSentAway : Prop :=
  (∀ (d a b : BitVec 8) (s t : State) (F : Fmt) (l : Loc), Unlogged s → s.sf [0, 1, 2] = .ok F → 8 ≤ F.c →
    Ready s [d, a, b] → s.needPip s.setA = .ok () → (isSys s.cur = true → s.accessInFlight = false) →
    s.scalarAway (s.readS a) (F.c / 8) .rmw = some (l, t) →
    ∀ (i : Instr) (op : AtOp), (i = .satadd d a b ∧ (F.kind = 0 → rmOf (modeOf s) ≠ 5) ∧ op = .add
        ∨ i = .satcas d a b ∧ op = .cas) →
      ∃ u o r, exec i s = .next u ∧ SMap.find u.ops s.nextId = some o ∧ o.agent = s.cur ∧ o.pip = s.setA ∧ o.entries = 0
        ∧ o.kind = .parkedScalar d.toNat (.atomic op (sfRecord s) (modeOf s)) ∧ o.reqs = [r] ∧ r.key = l.key
        ∧ r.n = F.c / 8 ∧ r.data = (s.readS b).toNat % 2 ^ F.c ∧ r.cmp = (s.readS d).toNat % 2 ^ F.c
        ∧ u.mem = s.mem ∧ (∀ q, u.readS q = s.readS q)
        ∧ (s.setA = none → (u.slot s.cur).block = some (.op s.nextId)) ∧ (u.slot s.cur).pc = (s.slot s.cur).pc + 4)
  ∧ ∀ (n d : Nat) (r : LaneReq) (o : Op) (s u : State) (op : AtOp) (entry : Dword) (md : ModeWord),
    SMap.find s.ops n = some o → o.kind = .parkedScalar d (.atomic op entry md) → o.reqs = [r] → o.entries = 0 →
    o.due = false → o.ends = none → o.bad = none → o.tensor = none → s.stopOf o.agent = none →
    (s.group (gidOf o.agent)).regs.lost = [] → s.raceAccess (lateWho s o) r.loc r.n 2 true = .ok u →
    u.poisoned r.key r.n = false →
    let F := fmtOf entry
    let m := Mem.read s.mem r.key r.n
    ∃ t, exec (.scalarAccessComplete n) s = .next t ∧ SMap.find t.ops n = none
      ∧ t.mem = Mem.write s.mem r.key r.n (newCode op F md m r.data r.cmp)
      ∧ (0 < d → d < 63 → SMap.get (t.hart o.agent).sregs d 0 =
          if F.kind = 1 ∧ F.sign = true then BitVec.ofInt 64 (readCode F m).toInt else BitVec.ofNat 64 m)

namespace Sys2Proof.Stated

/-- The completion test of R241: the object after it. -/
def tested (b : Bar) : Bar :=
  if b.armed = true ∧ b.fault = false ∧ b.arr = b.exparr ∧ b.landed = b.expbytes then
    { b with phase := (b.phase + 1) % 2 ^ 32, arr := 0, landed := 0 }
  else b

/-- A barrier object is written back after its completion test: the test's object stands in its 32 bytes, no other byte
changes, and every slot that waits on it is told; a phase that completes on an object bound to a board then sets its
bit. -/
def Committed (t v : State) (key : Nat) (b : Bar) : Prop :=
  ∃ w, w = { t with mem := w.mem, grans := w.grans, race := w.race, groups := (t.barTell key (tested b)).groups }
    ∧ w.bar key = tested b
    ∧ (∀ j, j < key ∨ key + 32 ≤ j → Mem.byte w.mem j = Mem.byte t.mem j)
    ∧ (if tested b ≠ b ∧ b.ben = true then
        ∃ know, v = w.setBits (coreKey ((key - 2 ^ 49) / 2 ^ 30) ((key - 2 ^ 49) / 2 ^ 27 % 8) b.bcore) (b.bbit / 64)
          (1#64 <<< (b.bbit % 64)) know
      else v = w)

/-- The clock knowledge apart, t is s. -/
def SameButRace (s t : State) : Prop := t = { s with race := t.race }

end Sys2Proof.Stated

/-- R241 to R244, R246: the barrier instructions at an object that the address checks accept, and the bytes that land. The
model's choices: ARR + 1 modulo 2^16 (log 69), a waiter that keeps its phase or fault (log 45), the board bit set whatever
context its window is allotted to (log 87). -/
def Sys2Proof.Stated.Barriers : Prop :=
  ∀ (d a b : BitVec 8) (s t : State) (key : Nat), Unlogged s → Ready s [d, a, b] →
    s.barAccess (s.readS a) = .ok (key, t) →
    let x := t.bar key
    let y := s.readS b
    let bind := s.readS d
    let p := bits y 31 0
    let told (v : Nat) : Dword := BitVec.ofNat 64 ((if x.armed then x.exparr else 0) * 2 ^ 24 + v)
    let bound := bind.toNat / 2 ^ 32 = 0 ∧ bits bind 15 0 = 0 ∧ bits bind 30 24 < 88
    let busy := x.armed = true ∧ x.fault = false ∧ (x.arr ≠ 0 ∨ x.landed ≠ 0)
    -- barinit
    (y = 0 → exec (.barinit d a b) s = puts t d 1)
    ∧ (y ≠ 0 → ¬ bound → exec (.barinit d a b) s = puts t d 2)
    ∧ (y ≠ 0 → bound → busy → exec (.barinit d a b) s = puts t d 3)
    ∧ (y ≠ 0 → bound → ¬ busy →
        let arr := if x.armed then 0 else x.arr
        let landed := if x.armed then 0 else x.landed
        let excess := y.toNat / 2 ^ 16 < landed
        let z : Bar :=
          { phase := x.phase, exparr := y.toNat % 2 ^ 16, arr := arr, expbytes := y.toNat / 2 ^ 16, landed := landed,
            armed := true, fault := decide excess, ext := false, bbit := bits bind 23 16, bcore := bits bind 30 24,
            ben := bind.getLsbD 31 }
        ∃ v, exec (.barinit d a b) s = puts v d 0 ∧ Committed { t with armers := SMap.put t.armers key t.grp.wg } v key z)
    -- bararr
    ∧ (let believed := y.toNat % 2 ^ 16
       let refused (r : Nat) : Prop := exec (.bararr d a b) s = traps s 8 (told (believed * 2 ^ 8 + r)) (s.readS a)
       (x.armed = false → refused 2)
       ∧ (x.armed = true → x.fault = true → refused 4)
       ∧ (x.armed = true → x.fault = false → believed ≠ x.exparr → refused 1)
       ∧ (x.armed = true → x.fault = false → believed = x.exparr → x.arr = x.exparr → refused 3)
       ∧ (x.armed = true → x.fault = false → believed = x.exparr → x.arr ≠ x.exparr →
           ∃ v, exec (.bararr d a b) s = puts v d (BitVec.ofNat 64 x.phase)
             ∧ Committed t v key { x with arr := (x.arr + 1) % 2 ^ 16, ext := x.ext || SMap.find t.armers key != some t.grp.wg }))
    -- barwait: the completion test, then a wait that its home has ended, else the object as it stands
    ∧ (let y := tested x
       let After (v : State) : Prop := if y = x then v = t else Committed t v key x
       let block := (s.slot s.cur).block
       let ahead := (y.phase + 2 ^ 32 - p) % 2 ^ 32
       let past := 1 ≤ ahead ∧ ahead ≤ 2 ^ 31
       (∀ ph, block = some (.barDone key ph) →
          ∃ v0 v, exec (.barwait d a b) s = puts v d ph ∧ After v0 ∧ SameButRace v0 v)
       ∧ (∀ det, block = some (.barFault key det) →
          ∃ v, exec (.barwait d a b) s = traps v 8 det (s.readS a) ∧ After v)
       ∧ ((∀ ph, block ≠ some (.barDone key ph)) → (∀ det, block ≠ some (.barFault key det)) →
          (∀ w, block = some (.barrier key w) → w = BitVec.ofNat 64 p) →
          (past → ∃ v0 v, exec (.barwait d a b) s = puts v d (BitVec.ofNat 64 y.phase) ∧ After v0 ∧ SameButRace v0 v)
          ∧ (¬ past → y.armed = true → y.fault = true →
              ∃ v, exec (.barwait d a b) s = traps v 8 (told 4) (s.readS a) ∧ After v)
          ∧ (¬ past → ¬ (y.armed = true ∧ y.fault = true) →
              ∃ v, exec (.barwait d a b) s = waits v (.barrier key (BitVec.ofNat 64 p))
                ∧ if y = x then v = s else Committed t v key x)))
    -- landed bytes
    ∧ (∀ n lander know origin,
       let z : Bar := { x with landed := min (x.landed + n) (2 ^ 48 - 1),
                               ext := x.ext || (x.armed && (lander.isNone || SMap.find t.armers key != lander)) }
       let excess := x.armed = true ∧ (x.fault = true ∨ x.expbytes < x.landed + n)
       (excess → (t.credit key n lander know origin).bar key = { z with fault := true })
       ∧ (¬ excess → Committed t (t.credit key n lander know origin) key z))

/-- R247, R248, R255: `fence` and `gfence`: they wait for what is in flight, and change nothing but what happens before
what; a release for each of the slot's threads and lanes is the model's choice (log 44). -/
def Sys2Proof.Stated.Fences : Prop :=
  ∀ (c : BitVec 8) (s : State),
    let kind := c.toNat / 16
    let scope := c.toNat % 8
    let legal := c.toNat < 64 ∧ c.getLsbD 3 = false ∧ scope < 6
    let busy := if kind = 0 then s.readInFlight else s.accessInFlight
    (¬ legal → exec (.fence c) s = traps s 1)
    ∧ (legal → busy = true → exec (.fence c) s = waits s .drain)
    ∧ (legal → busy = false → ∃ t, exec (.fence c) s = .next t.retire ∧ SameButRace s t
        ∧ (s.race.active = false → t = s)
        ∧ (s.race.active = true → kind ≠ 0 → ∀ w ∈ s.slotWhos, ∃ r ∈ SMap.get t.race.rels w.key [],
            r.scope = scope ∧ r.scopes = s.scopesOf w))
    ∧ (s.groupAccessInFlight = true → exec .gfence s = waits s .drain)
    ∧ (s.groupAccessInFlight = false → ∃ t, exec .gfence s = .next t.retire ∧ SameButRace s t)

/-- R181 to R187: the register claims. -/
def Sys2Proof.Stated.RegisterClaims : Prop :=
  ∀ (d n : BitVec 8) (s : State) (g k : Nat), s.cur = .slot g k → Ready s [d] →
    let x := s.group g
    let r := x.regs
    let beats := (if r.sliced.getLsbD 0 then 0 else 1) + (if r.sliced.getLsbD 1 then 0 else 1)
    let cost := 4 * n.toNat * beats
    let left (v : Nat) : State := s.setWg x.wg { s.wg x.wg with left_ := v }
    let pool := s.pool x.pkg x.die x.core x.part
    let since := if (s.slot s.cur).claim = some (d.toNat, n.toNat) then (s.slot s.cur).since else s.cycle
    let legal := n ≠ 0 ∧ r.granules + n.toNat ≤ 48
    -- rclaim
    (¬ legal → exec (.rclaim d n) s = traps s 1)
    ∧ (legal → cost ≤ (s.wg x.wg).left_ → cost ≤ pool → s.earlierClaim g k since = false →
        ∃ r', exec (.rclaim d n) s
            = puts ((left ((s.wg x.wg).left_ - cost)).setGroup g { x with regs := r' }) d (BitVec.ofNat 64 (r.granules + n.toNat))
          ∧ r'.granules = r.granules + n.toNat ∧ r'.sliced = r.sliced ∧ r'.bp = r.bp
          ∧ ∀ q l, l < 64 → (r'.reg q).getD l 0
              = if 32 + 4 * r.granules ≤ q ∧ q < 32 + 4 * r'.granules then 0 else (r.reg q).getD l 0)
    ∧ (legal → ((s.wg x.wg).left_ < cost ∨ pool < cost ∨ s.earlierClaim g k since = true) →
        exec (.rclaim d n) s = waits s (.claim d.toNat n.toNat))
    -- rgive
    ∧ (n = 0 ∨ r.granules < n.toNat → exec (.rgive d n) s = traps s 1)
    ∧ (n ≠ 0 → n.toNat ≤ r.granules →
        s.need [] ((List.range (4 * n.toNat)).map (32 + 4 * (r.granules - n.toNat) + ·)) = .ok () →
        ∃ r', exec (.rgive d n) s
            = puts ((left ((s.wg x.wg).left_ + cost)).setGroup g { x with regs := r' }) d (BitVec.ofNat 64 (r.granules - n.toNat))
          ∧ r'.granules = r.granules - n.toNat ∧ r'.sliced = r.sliced ∧ r'.bp = r.bp
          ∧ ∀ q, q < 32 + 4 * r'.granules → r'.reg q = r.reg q)
    -- rslice
    ∧ (let dead (b : Nat) : Prop := r.sliced.getLsbD b = false ∧ ∀ l, l / 32 = b → x.live.getLsbD l = false
       ∃ r' v, exec .rslice s = .next (((left v).setGroup g { x with regs := r' }).retire)
         ∧ r' = { r with sliced := r'.sliced }
         ∧ (∀ b, b < 2 → (r'.sliced.getLsbD b = true ↔ r.sliced.getLsbD b = true ∨ dead b))
         ∧ v = (s.wg x.wg).left_
             + (32 + 4 * r.granules) * (List.range 2).countP fun b => r'.sliced.getLsbD b && !r.sliced.getLsbD b)
    -- rquery
    ∧ (pool < 2 ^ 16 → (s.wg x.wg).left_ < 2 ^ 16 → r.granules ≤ 48 → ∃ v : Dword, exec (.rquery d) s = puts s d v
        ∧ bits v 15 0 = (s.wg x.wg).left_ ∧ bits v 31 16 = r.granules ∧ bits v 47 32 = pool
        ∧ bits v 49 48 = r.sliced.toNat ∧ bits v 63 50 = 0)

/-- R185, R188: a claim that waits is granted, as if it issued then; of a workgroup in claim deadlock for 256 cycles from a
test on, made when a slot of it started to block, the first of its largest claims takes the fault. That it is one of a group
that is not SAVED is the model's choice (log 92). -/
def Sys2Proof.Stated.ClaimEvents : Prop :=
  ∀ (s : State) (g k d n w : Nat),
    (((s.group g).slot k).claim = some (d, n) → d < 256 → n < 256 → n ≠ 0 → (s.group g).life ≠ .saved →
        s.isStopped (.slot g k) = false → (s.group g).hart.handler = false → (s.group g).regs.granules + n ≤ 48 →
        s.claimFits (s.group g) n = true → s.earlierClaim g k ((s.group g).slot k).since = false →
        let u : State := { s with cur := .slot g k, word := BitVec.ofNat 32 (0xB0000000 + d * 2 ^ 16 + n) }
        Ready u [BitVec.ofNat 8 d] →
        ∃ t, exec (.claimGrant g k) s = .next t ∧ exec (.rclaim (BitVec.ofNat 8 d) (BitVec.ofNat 8 n)) u = .next t
          ∧ (t.group g).regs.granules = (s.group g).regs.granules + n ∧ ((t.group g).slot k).block = none)
    -- the test, made when a slot starts to block
    ∧ (let x := s.wg w
       let starts := ∃ e ∈ s.groupsOf w, e.2.slot0.blockedNow s.cycle = true ∨ e.2.slot1.blockedNow s.cycle = true
       (s.claimDeadlock w = false → s.claimTested w x = { x with stuckAt := none })
       ∧ (s.claimDeadlock w = true → x.stuckAt = none → starts → s.claimTested w x = { x with stuckAt := some (s.cycle - 1) })
       ∧ (s.claimDeadlock w = true → x.stuckAt ≠ none ∨ ¬ starts → s.claimTested w x = x))
    -- the fault
    ∧ (∀ held, (s.wg w).stuckAt = some held → held + 256 ≤ s.cycle → s.claimDeadlock w = true →
        (s.wg w).groups.any (fun g => s.isStopped (.slot g 0)) = false →
        (∃ e ∈ s.claimsOf w, (s.group e.1).life ≠ .saved) →
        ∃ gid j x m c before after,
          (s.claimsOf w).filter (fun e => (s.group e.1).life != .saved) = before ++ (gid, j, x, m) :: after
          ∧ (∀ e ∈ before, e.2.2.2 < m) ∧ (∀ e ∈ after, e.2.2.2 ≤ m) ∧ x.claim = some (c, m)
          ∧ exec (.claimDeadlockFault w) s = .next ((s.setSlot (.slot gid j) { x with block := none }).takeTrap (.slot gid j)
            { cause := 9, tpc := x.pc, resume := x.pc,
              addr := BitVec.ofNat 64 (4 * m * (s.group gid).regs.beats * 2 ^ 24 + (s.wg w).left_ % 2 ^ 16 * 2 ^ 8 + m),
              word := BitVec.ofNat 32 (0xB0000000 + c * 2 ^ 16 + m), slot := j, done := x.done }))
    ∧ ((∀ held, (s.wg w).stuckAt = some held → s.cycle < held + 256) ∨ s.claimDeadlock w = false →
        exec (.claimDeadlockFault w) s = .next s)

/-- R136, R137, R141: publishing on a port, where room is left and where a fifth generation waits, ending ports, and the
arrival of a publish. -/
def Sys2Proof.Stated.ForwardPorts : Prop :=
  ∀ (n : BitVec 8) (s : State) (g k id : Nat), s.cur = .slot g k → s.launchOf g = some id →
    let l := s.launch id
    let wid (i : Nat) : Nat := ((s.group g).wid i).toNat
    let acts (i : Nat) : Prop := i < 64 ∧ s.acting.getLsbD i = true
    (∀ i j, acts i → acts j → wid i = wid j → i = j) →
    let reg := l.portReg n.toNat
    (n.toNat < 8 → l.portOn n.toNat = true → s.needReg reg = .ok () → s.need s.guardRegs [reg] = .ok () →
      s.needClean [reg] s.acting = .ok () →
      (∀ i, acts i → (l.item n.toNat (wid i)).ended = true ∨ l.unreleased n.toNat (wid i) < 4) →
      ∃ (l' : Launch) (t : State), exec (.fwpub n) s = .next t.retire ∧ t = { s.setLaunch id l' with race := t.race }
        ∧ (∀ i, acts i → (l.item n.toNat (wid i)).ended = false →
            (l'.item n.toNat (wid i)).pubs = (l.item n.toNat (wid i)).pubs + 1
            ∧ (l'.item n.toNat (wid i)).last = (s.group g).regs.lane reg i)
        ∧ (∀ m i, (l'.item m i).ended = (l.item m i).ended)
        ∧ (∀ i, (∀ j, acts j → wid j ≠ i) → (l'.item n.toNat i).pubs = (l.item n.toNat i).pubs))
    -- a fifth generation: the lanes that hold four wait, the others have published
    ∧ (n.toNat < 8 → l.portOn n.toNat = true → s.needReg reg = .ok () → s.need s.guardRegs [reg] = .ok () →
      s.needClean [reg] s.acting = .ok () →
      (∃ i, acts i ∧ (l.item n.toNat (wid i)).ended = false ∧ 4 ≤ l.unreleased n.toNat (wid i)) →
      let room (i : Nat) : Prop := (l.item n.toNat (wid i)).ended = true ∨ l.unreleased n.toNat (wid i) < 4
      ∃ (l' : Launch) (m : Lanes) (t : State),
        t = { s.setLaunch id l' with race := t.race }
        ∧ (∀ i, i < 64 → m.getLsbD i = true → acts i) ∧ (∀ i, acts i → room i → m.getLsbD i = true)
        ∧ exec (.fwpub n) s = (if s.acting &&& ~~~ m = 0 then .next t.retire
            else waits (t.setSlot s.cur { t.slot s.cur with
              done := (t.slot s.cur).done ||| m, stalled := s.acting &&& ~~~ m }) (.publish n.toNat))
        ∧ (∀ i, acts i → (l'.item n.toNat (wid i)).pubs = (l.item n.toNat (wid i)).pubs
            + (if m.getLsbD i = true ∧ (l.item n.toNat (wid i)).ended = false then 1 else 0)))
    ∧ (8 ≤ n.toNat ∨ l.portOn n.toNat = false → exec (.fwpub n) s = traps s 1)
    ∧ (s.need s.guardRegs = .ok () → (∃ p, p < 8 ∧ n.getLsbD p = true ∧ l.portOn p = false) →
        exec (.fwend n) s = traps s 1)
    ∧ (s.need s.guardRegs = .ok () → (∀ p, p < 8 → n.getLsbD p = true → l.portOn p = true) →
        ∃ l', exec (.fwend n) s = .next ((s.setLaunch id l').retire)
          ∧ (∀ p i, p < 8 → n.getLsbD p = true → acts i → (l'.item p (wid i)).ended = true)
          ∧ (∀ p i, (l'.item p i).pubs = (l.item p i).pubs ∧ (l'.item p i).last = (l.item p i).last))
    ∧ (∀ m x, m < 2 ^ 67 → SMap.find s.launches id = some l → SMap.find l.items m = some x → x.arrived < x.pubs →
        exec (.publishArrival (id * 2 ^ 67 + m)) s
          = .next (s.setLaunch id { l with items := SMap.put l.items m { x with arrived := x.arrived + 1 } }))

namespace Sys2Proof.Stated

/-- The next wave of a list: the first in which the read of some lane is decided, for those of its lanes. -/
def Picks (s : State) (ps : List Nat) (ws : List Lanes) (w : Lanes) (rest : List Lanes) : Prop :=
  ∃ before m, ws = before ++ m :: rest
    ∧ (∀ x ∈ before, ∀ l < 64, x.getLsbD l = true → s.laneDecided ps l = false)
    ∧ w ≠ 0 ∧ ∀ l < 64, w.getLsbD l = true ↔ m.getLsbD l = true ∧ s.laneDecided ps l = true

/-- The words a ripple clause may hold, by opcode (R139): `nop`, rows 0x4 and 0x5, row 0x6 but the compares and `vget`,
and `fwpub`. -/
def RippleOpcode (op : Nat) : Prop :=
  op = 0 ∨ 0x40 ≤ op ∧ op < 0x60 ∨ 0x65 ≤ op ∧ op < 0x70 ∧ op ≠ 0x6B ∨ op = 0xB4

/-- One word of a wave completes, and the slot is after it. -/
def WaveWord (c : Clause) (s t : State) : Prop :=
  ∃ i s1 w, s.wordFate c = .ok (.runs i s1) ∧ encode i = some w ∧ RippleOpcode (w.1.toNat / 2 ^ 24)
    ∧ s1.comparator (gidOf s1.cur) (slotNo s1.cur) = none
    ∧ exec i s1 = .next t ∧ t.grp.trap.pending = none ∧ (t.slot t.cur).pc ≠ (s.slot s.cur).pc

/-- The words of a wave complete one after the other, n of them, to the clause's end. -/
def WaveRuns (c : Clause) : Nat → State → State → Prop
  | 0, _, _ => False
  | n + 1, s, t => ∃ u, WaveWord c s u ∧
      (if (u.slot u.cur).clause = none then n = 0 ∧ u = t
       else u.stepping u.cur = false ∧ WaveRuns c n u t)

/-- The slot after a wave: its lanes have left P; it stands at the header again, the pending mode as it was at the wave's
start, or with P empty has left the clause. -/
def WaveEnded (hdr : Dword) (s t : State) : Prop :=
  let x := s.slot s.cur
  let p := x.ripple.getD 0 &&& ~~~ (x.wave.getD 0)
  t = s.setSlot s.cur (if p = 0 then { x with ripple := none, wave := none, waves := [], waveMode := none }
    else { x with ripple := some p, wave := none, pc := hdr, pmode := x.waveMode, yielded := false })

end Sys2Proof.Stated

/-- R139, R140, R141: a slot with a pending set P runs one wave a step: of what is left of its round, else of a new round,
the first wave in which the reads of a lane are decided, from the first word after the header; where no lane of P can run it
waits at the header. One wave a step is the model's form of a round (log 43). -/
def Sys2Proof.Stated.RippleRounds : Prop :=
  ∀ (s u v : State) (g k : Nat) (ws : List Word) (ps : List Nat) (c : Clause) (p : Lanes),
    s.canIssue (.slot g k) = true → ((s.group g).slot k).ripple = some p → ((s.group g).slot k).wave = none →
    ({ s with cur := .slot g k, word := 0 } : State).enterClause = .ok (.ripple u ws ps) → v = u.started (.slot g k) →
    v.cur = .slot g k → (v.slot v.cur).clause = some c → (v.slot v.cur).ripple = some p → p ≠ 0 →
    let x := v.slot v.cur
    let atHeader : State := v.setSlot v.cur { x with pc := c.hdr, clause := none }
    let new := atHeader.wavesOf ps p
    let none_ (ws : List Lanes) : Prop := ∀ m ∈ ws, ∀ l < 64, m.getLsbD l = true → atHeader.laneDecided ps l = false
    let runs (w : Lanes) (rest : List Lanes) : Prop :=
      let begun : State := atHeader.setSlot v.cur { atHeader.slot v.cur with waves := rest, block := none }
      exec (.rippleRound g k) s = (begun.setSlot v.cur
        { begun.slot v.cur with wave := some w, pc := c.hdr + 4, clause := some c, waveMode := x.pmode }).waveWords c
          (some begun) (c.len + 1)
    (none_ x.waves → none_ new → exec (.rippleRound g k) s
        = waits (atHeader.setSlot v.cur { atHeader.slot v.cur with waves := [] }) .ripple)
    ∧ (∀ w rest, Picks atHeader ps x.waves w rest → runs w rest)
    ∧ (none_ x.waves → ∀ w rest, Picks atHeader ps new w rest → runs w rest)

/-- R140: the waves of a round: a lane of P is in one iff each of its reads is decided, or its predecessor is a lane of P
that is in a wave; it is then in wave 0, or in the one after the last of its predecessors'. -/
def Sys2Proof.Stated.RippleWaves : Prop :=
  ∀ (s : State) (ps : List Nat) (p : Lanes) (id : Nat), s.launchOf (gidOf s.cur) = some id →
    let L := s.launch id
    let g := s.grp
    let pred (n l : Nat) : Option Nat := g.laneOf (predOf (g.wid l).toNat (L.portK n)) p
    (∀ n ∈ ps, L.portOn n = true → ∀ l < 64, ∀ q, pred n l = some q → q < l) →
    let ws := s.wavesOf ps p
    let inWave (i l : Nat) : Prop := (ws.getD i 0).getLsbD l = true
    (∀ i j l, inWave i l → inWave j l → i = j)
    ∧ (∀ i l, inWave i l → p.getLsbD l = true)
    ∧ (∀ l < 64, p.getLsbD l = true →
        ((∃ i, inWave i l) ↔ ∀ n ∈ ps, L.portOn n = true →
          match pred n l with
          | some q => ∃ i, inWave i q
          | none => (L.portRead n (g.wid l).toNat g.hasWid).isSome = true))
    ∧ (∀ i l, inWave i l →
        (∀ n ∈ ps, L.portOn n = true → ∀ q, pred n l = some q → ∃ j, inWave j q ∧ j < i)
        ∧ (i ≠ 0 → ∃ n ∈ ps, L.portOn n = true ∧ ∃ q, pred n l = some q ∧ inWave (i - 1) q))

/-- R139, R140, R136, R352: what becomes of a wave at one of its words: a word that a ripple clause may not hold traps, an
interlock sends the slot back to where the wave began, a stalled `fwpub` and a missing page keep it where it stands, and a
trap of a wave enters where the wave began, the header being the word to return to. What a wave that others have seen in
part keeps is the model's choice (log 90). -/
def Sys2Proof.Stated.WaveFates : Prop :=
  ∀ (s : State) (c : Clause) (start : State) (n : Nat),
    (∀ i w s1, encode i = some w → (RippleOpcode (w.1.toNat / 2 ^ 24) → rippleExec i s1 = exec i s1)
      ∧ (¬ RippleOpcode (w.1.toNat / 2 ^ 24) → rippleExec i s1 = traps s1 1))
    ∧ (∀ b s1, s.wordFate c = .error (.wait b s1) → b ≠ .parked → (∀ m, b ≠ .publish m) →
        s.waveWords c (some start) (n + 1) = waits start b ∧ s.waveWords c none (n + 1) = waits s1 b)
    ∧ (∀ i s1 t, s.wordFate c = .ok (.runs i s1) → s1.comparator (gidOf s1.cur) (slotNo s1.cur) = none →
        rippleExec i s1 = .next t → t.grp.trap.pending = none → (t.slot t.cur).pc = (s.slot s.cur).pc →
        (t.slot t.cur).clause ≠ none →
        (∀ m, (t.slot t.cur).block = some (.publish m) → s.waveWords c (some start) (n + 1) = waits t (.publish m))
        ∧ ((t.slot t.cur).block = some .parked → s.waveWords c (some start) (n + 1) = waits t .parked)
        ∧ (∀ m, (t.slot t.cur).block = some (.op m) → s.waveWords c (some start) (n + 1) = waits start (.op m)))
    ∧ (∀ i s1 t x, s.wordFate c = .ok (.runs i s1) → s1.comparator (gidOf s1.cur) (slotNo s1.cur) = none →
        rippleExec i s1 = .next t → t.grp.trap.pending = some x →
        s.waveWords c (some start) (n + 1) = .next ((start.setGrp { start.grp with
            regs := { start.grp.regs with consumed := t.grp.regs.consumed },
            trap := { start.grp.trap with pending := none } }).takeTrap t.cur { x with resume := c.hdr }))

/-- R140: a wave whose words complete is carried out: begun at the header, or gone on with where a full port or a stop had
interrupted it. -/
def Sys2Proof.Stated.RippleCompletes : Prop :=
  ∀ (s u t : State) (g k n : Nat) (ws : List Word) (ps : List Nat) (c : Clause) (p w : Lanes) (rest : List Lanes),
    s.canIssue (.slot g k) = true → ((s.group g).slot k).ripple = some p → n ≤ c.len + 1 →
    let here : State := { s with cur := .slot g k, word := 0 }
    -- at the header
    (((s.group g).slot k).wave = none → here.enterClause = .ok (.ripple u ws ps) →
      let v := u.started (.slot g k)
      let x := v.slot (.slot g k)
      v.cur = .slot g k → x.clause = some c → x.ripple = some p → p ≠ 0 →
      let atHeader : State := v.setSlot v.cur { x with pc := c.hdr, clause := none }
      let begun : State := atHeader.setSlot v.cur { atHeader.slot v.cur with waves := rest, block := none }
      Picks atHeader ps x.waves w rest
        ∨ (∀ m ∈ x.waves, ∀ l < 64, m.getLsbD l = true → atHeader.laneDecided ps l = false)
          ∧ Picks atHeader ps (atHeader.wavesOf ps p) w rest →
      WaveRuns c n (begun.setSlot v.cur
        { begun.slot v.cur with wave := some w, pc := c.hdr + 4, clause := some c, waveMode := x.pmode }) t →
      ∃ e, exec (.rippleRound g k) s = .next e ∧ WaveEnded c.hdr t e)
    -- inside a wave
    ∧ (((s.group g).slot k).wave = some w → ((s.group g).slot k).clause = some c →
      here.clauseWords (c.hdr + 4) c.len = .ok (ws, u) →
      WaveRuns c n (u.started (.slot g k)) t → ∃ e, exec (.rippleRound g k) s = .next e ∧ WaveEnded c.hdr t e)

/-- R146, R149, R151, R152: continuation records, pushed, and appended by the last of a join. -/
def Sys2Proof.Stated.Continuations : Prop :=
  ∀ (d a : BitVec 8) (v : Dword) (s t : State) (l : Loc), Unlogged s → Ready s [d, a] →
    let pkg := s.pkgOf s.cur
    let ctx := s.ctxOf s.cur
    let word (x i : Nat) : Dword := BitVec.ofNat 64 (x / 2 ^ (64 * i))
    let queue (x : Nat) : Nat := 64 + bits (word x 3) 7 2
    let status (t : State) (ctx x : Nat) : Nat :=
      if SMap.find (t.ctx pkg ctx).queues (queue x) = none then 2
      else if t.prioOk pkg ctx (queue x) (bits (word x 3) 1 0) = false then 3
      else if (word x 3).toNat / 2 ^ 8 ≠ 0 then 4
      else if t.hasRoom pkg ctx (queue x) = false then 1 else 0
    let Pushed (t u : State) (ctx x : Nat) : Prop := ∃ know,
      u = t.append (streamKey pkg ctx (queue x) (bits (word x 3) 1 0)) (.cont (word x 0) (word x 1) (word x 2) know)
    (∀ x, s.scalarRead (s.readS a) 32 32 = .ok (x, l, t) →
      (status t ctx x ≠ 0 → exec (.cpush d a) s = puts t d (BitVec.ofNat 64 (status t ctx x)))
      ∧ (status t ctx x = 0 → ∃ u, exec (.cpush d a) s = puts u d 0 ∧ Pushed t u ctx x))
    ∧ ((s.releaseSlot 4).objectStep (s.readS a) = .ok (l, t) →
      let n : Dword := BitVec.ofNat 64 (Mem.read t.mem l.key 8) - 1
      let x := Mem.read t.mem (l.key + 0x20) 32
      let st := status t ctx x
      let stored (n : Nat) (u : State) : Prop := u = { t with mem := Mem.write t.mem l.key 8 n, grans := u.grans, race := u.race }
      (n ≠ 0 → ∃ u, exec (.cjoin d a) s = puts u d n ∧ stored n.toNat u)
      ∧ (n = 0 → st = 0 → ∃ u w, exec (.cjoin d a) s = puts w d 0 ∧ stored 0 u ∧ Pushed u w ctx x)
      ∧ (n = 0 → st ≠ 0 → ∃ u, exec (.cjoin d a) s = puts u d (BitVec.ofNat 64 (2 ^ 63 + st)) ∧ stored 1 u))
    ∧ (∀ p q r x u, s.cur = .sys p q r → v.toNat % 32 = 0 → s.scalarRead v 32 32 = .ok (x, l, u) →
      let sel := (SMap.get (s.core p q r).srs 0x100 0).toNat % 64
      let st := status u sel x
      ∃ w, exec (.cqpushWrite v) s = .next w ∧ SMap.get (w.core p q r).srs 0x180 0 = BitVec.ofNat 64 st
        ∧ w.mem = s.mem ∧ (st ≠ 0 → w.streams = s.streams)
        ∧ (st = 0 → ∃ u', Pushed u u' sel x ∧ w.streams = u'.streams))

namespace Sys2Proof.Stated

/-- A counted operation whose effect at memory is done: its status lands when its pip counts down. -/
def countedDone (t : State) (p : Nat) (d : BitVec 8) (v : Dword) : Answer :=
  .next ((t.launchOp { t.opHere (some p) (.scalar d.toNat v) with pendS := if d = 0 then [] else [d.toNat] }).retire)

/-- A launch header fails check n of R129. -/
def FailsCheck (s : State) (l : Launch) (n : Nat) : Prop :=
  let at_ (o hi lo : Nat) : Nat := bits (l.word o) hi lo
  let w (j : Nat) : Nat := at_ 0x10 (7 * j + 6) (7 * j)
  let extents := [at_ 0x18 5 0 + 1, at_ 0x18 9 6 + 1, at_ 0x18 13 10 + 1, (l.word 0x20).toNat + 1, (l.word 0x28).toNat + 1,
    (l.word 0x30).toNat + 1]
  let e (j : Nat) : Nat := extents.getD j 0
  let initg := at_ 0x40 5 0
  let budget := at_ 0x40 13 6
  let gang := at_ 0x48 9 0
  let queue := SMap.find (s.ctx l.pkg l.ctx).queues (at_ 0x48 16 11)
  let binding (j : Nat) (hi lo : Nat) : Nat := at_ (0x50 + j / 4 * 8) (j % 4 * 16 + hi) (j % 4 * 16 + lo)
  match n with
  | 1 => (l.word 0).toNat % 4 ≠ 0 ∨ 2 ^ 57 ≤ (l.word 0).toNat
  | 2 => 6 < w 0 ∨ 4 < w 1 ∨ 4 < w 2 ∨ 64 < w 0 + w 1 + w 2 + w 3 + w 4 + w 5
      ∨ (l.word 8).toNat % 2 ^ (w 0 + w 1 + w 2 + w 3 + w 4 + w 5) ≠ 0
  | 3 => ∃ j, j < 6 ∧ 2 ^ w j < e j
  | 4 => 48 < initg ∨ budget < 32 + 4 * initg ∨ 224 < budget ∨ budget % 4 ≠ 0 ∨ 64 < at_ 0x40 35 29 ∨ 8 < at_ 0x40 39 36
      ∨ 64 < at_ 0x40 46 40 ∨ 2 ^ 20 < 64 * at_ 0x40 28 14 + 1024 * e 1
  | 5 => gang < 1 ∨ 704 < gang ∨ ¬ (gang = 1 ∨ gang = e 2 ∨ gang = e 2 * e 3)
      ∨ at_ 0x48 10 10 = 1 ∧ gang % 2 ≠ 0
  | 6 => ∃ j, j < 8 ∧ (binding j 14 14 = 1
      ∨ binding j 15 15 = 1 ∧ (binding j 13 8 < 1 ∨ 31 + 4 * initg < binding j 7 0))
  | 7 => queue = none ∨ (∃ q, queue = some q ∧ q.prios.getLsbD (at_ 0x48 18 17) = false)
      ∨ at_ 0x48 19 19 = 1 ∧ s.persistHeld l.pkg l.ctx (at_ 0x48 16 11) = true
  | 8 => l.word 0x78 ≠ 0 ∨ at_ 0x48 63 23 ≠ 0 ∨ at_ 0x40 63 47 ≠ 0 ∨ at_ 0x18 63 14 ≠ 0 ∨ at_ 0x10 63 42 ≠ 0
  | 9 => s.hasRoom l.pkg l.ctx (at_ 0x48 16 11) = false
  | _ => False

end Sys2Proof.Stated

/-- R129, with R128 and R156: the checks of a launch header, in order: the first that fails gives the status. -/
def Sys2Proof.Stated.HeaderChecks : Prop :=
  ∀ (s : State) (l : Launch) (n : Nat), 1 ≤ n →
    (s.headerStatus l = n ↔ FailsCheck s l n ∧ ∀ m, m < n → ¬ FailsCheck s l m)
    ∧ (s.headerStatus l = 0 ↔ ∀ m, ¬ FailsCheck s l m)

/-- R153 to R156: work queues. -/
def Sys2Proof.Stated.WorkQueues : Prop :=
  ∀ (d a b : BitVec 8) (s t : State) (l : Loc), Unlogged s → Ready s [d, a, b] →
    let q := t.workQueue l.key
    let head := q.head.toNat
    let tail := q.tail.toNat
    let item (n : Nat) : Dword := q.base + BitVec.ofNat 64 (8 * (n % 2 ^ q.lgcap))
    ((s.releaseSlot 4).objectStep (s.readS a) = .ok (l, t) → s.needPip s.setA = .ok () → q.base.toNat % 8 = 0 →
      (2 ^ q.lgcap ≤ (q.tail - q.head).toNat →
        (s.setA = none → exec (.qpush d a b) s = puts t d 1)
        ∧ (∀ p, s.setA = some p → exec (.qpush d a b) s = countedDone t p d 1))
      ∧ (∀ i u, (q.tail - q.head).toNat < 2 ^ q.lgcap → t.scalarAccess (item tail) 8 8 .write true = .ok (i, u) →
        ∃ w, w = { u with mem := Mem.write (Mem.write u.mem i.key 8 (s.readS b).toNat) (l.key + 8) 8 (q.tail + 1).toNat,
                          grans := w.grans }
          ∧ (s.setA = none → exec (.qpush d a b) s = puts w d 0)
          ∧ (∀ p, s.setA = some p → exec (.qpush d a b) s = countedDone w p d 0)))
    ∧ (s.objectStep (s.readS a) = .ok (l, t) → q.base.toNat % 8 = 0 →
      (tail ≤ head ∨ t.earlierPops l.key = true → exec (.qpop d a) s = waits s (.queue l.key))
      ∧ (∀ i u, head < tail → t.earlierPops l.key = false → t.scalarAccess (item head) 8 8 .read true = .ok (i, u) →
          u.poisoned i.key 8 = false →
          ∃ w, exec (.qpop d a) s = puts w d (BitVec.ofNat 64 (Mem.read u.mem i.key 8))
            ∧ w = { u with mem := Mem.write u.mem l.key 8 (q.head + 1).toNat, grans := w.grans, race := w.race, groups := w.groups }
            ∧ ∀ j, w.group j = { u.group j with idle := (w.group j).idle }))

/-- R129 to R131, R146, R400: `launch`: the first check that a header fails, or the launch at the end of its stream. -/
def Sys2Proof.Stated.Launches : Prop :=
  ∀ (d a b : BitVec 8) (s t : State) (l : Loc) (h : Nat), Unlogged s → Ready s [d, a, b] →
    s.scalarRead (s.readS a) 128 128 = .ok (h, l, t) →
    let pkg := s.pkgOf s.cur
    let ctx := s.ctxOf s.cur
    let word (i : Nat) : Dword := BitVec.ofNat 64 (h / 2 ^ (64 * i))
    let L : Launch := { pkg := pkg, ctx := ctx, header := (List.range 16).map word, args := if b = 0 then word 7 else s.readS b,
                        know := t.slotKnowledge }
    let ports := (List.range 8).any L.portOn
    ∀ (defaults : List Word) (u : State),
      ((word 12 = 0 ∨ ports = false) ∧ u = t ∧ defaults = List.replicate 8 0
        ∨ word 12 ≠ 0 ∧ ports = true ∧ t.readDefaults (word 12) 8 = .ok (defaults, u)) →
      (u.headerStatus L ≠ 0 → exec (.launch d a b) s = puts u d (BitVec.ofNat 64 (u.headerStatus L)))
      ∧ (u.headerStatus L = 0 → ∃ w id groups, exec (.launch d a b) s = puts w d 0
          ∧ SMap.find w.launches id
            = some { L with defaults := defaults, alive := groups, lseq := (u.ctx pkg ctx).lseq + 1 }
          ∧ (w.stream (streamKey pkg ctx L.queue L.prio)).entries
            = (u.stream (streamKey pkg ctx L.queue L.prio)).entries ++ [.launch id]
          ∧ w.mem = u.mem ∧ w.groups = u.groups ∧ w.cores = u.cores
          ∧ groups = ((List.range 5).map fun j => L.extent (j + 1)).prod)

namespace Sys2Proof.Stated

/-- A reservation record that `oclaim` takes (R306). -/
def ValidRecord (r : Dword) : Prop :=
  bits r 63 43 = 0 ∧ bits r 34 33 ≤ 2 ∧ bits r 42 41 ≤ 2 ∧ (bits r 34 33 = 1 ∨ (bits r 42 41 = 0 ∧ bits r 40 35 = 0))
  ∧ (bits r 7 5 = 0 ∨ bits r 15 8 % 16 = 0) ∧ (bits r 34 33 = 2 → bits r 4 0 = 3)

/-- The domino of the issuing core. -/
def myDomino (s : State) : Domino := s.domino s.dominoHere

/-- Only the issuing core's domino changes. -/
def DominoOnly (s u : State) : Prop :=
  u = { s with dominoes := u.dominoes }
  ∧ ∀ k, k ≠ s.dominoHere → SMap.find u.dominoes k = SMap.find s.dominoes k

/-- The checks of R316, but for the queue's room: `which` is 0 `mma`, 1 `mmas`, 2 `mmar`, 3 `mmaz`. -/
def MatrixReady (s : State) (which : Nat) (d a b : BitVec 8) (acc : Nat) (acc2 : Option Nat) (xa xb : OSlot)
    (xb2 xm : Option OSlot) (ea eb eb2 : Dword) (c : MClass) : Prop :=
  let hd := s.readS d
  let num := bits hd 2 0
  let lg (x : OSlot) (e : Dword) : Prop :=
    recLgblk x.record = if (fmtOf e).kind = 3 then (fmtOf e).lgblk else 0
  let stamped (x : OSlot) : Prop := x.stamp = recSig x.record
  (s.placeOf s.cur).2.2 % 2 = 0 ∧ rmOf (modeOf s) ≠ 5
  ∧ (if which = 2 then bits hd 63 57 = 0 else bits hd 63 3 = 0)
  ∧ s.liveAcc num = .ok acc ∧ s.liveSlot (s.readS a) = .ok xa ∧ s.liveSlot (s.readS b) = .ok xb
  ∧ recKind xa.record = (if which = 1 then 1 else 0) ∧ recKind xb.record = 0
  ∧ s.recEntry xa.record = .ok ea ∧ s.recEntry xb.record = .ok eb
  ∧ classOf (fmtOf ea) = some c ∧ classOf (fmtOf eb) = some c ∧ lg xa ea ∧ lg xb eb ∧ stamped xa ∧ stamped xb
  ∧ (if c = .d then num % 2 = 0 ∧ ∃ k, acc2 = some k ∧ s.liveAcc (num + 1) = .ok k else acc2 = none)
  ∧ (if which = 1 then
      handleSlot (s.readS b) % 2 = 0 ∧ c ≠ .d ∧ c ≠ .s ∧ c ≠ .ni ∧ ∃ y m, xb2 = some y ∧ xm = some m
        ∧ s.claimedSlot (handleSlot (s.readS b) + 1) ((s.readS b).toNat + 1) = .ok y
        ∧ s.claimedSlot (recMeta xa.record) (recMeta xa.record) = .ok m
        ∧ recKind y.record = 0 ∧ recKind m.record = 2 ∧ s.recEntry y.record = .ok eb2 ∧ classOf (fmtOf eb2) = some c
        ∧ lg y eb2 ∧ stamped y ∧ stamped m
    else xb2 = none ∧ xm = none ∧ eb2 = eb)

/-- An operation in flight of the engine completes as soon as it is done: nothing of it is parked or poisoned, its agent
is not stopped, and no overwritten poison waits to be logged. -/
def Completes (s : State) (op : Op) : Prop :=
  op.kind = .engine ∧ op.bad = none ∧ op.entries = 0 ∧ op.reqs = [] ∧ op.due = false ∧ op.ends = none
  ∧ s.stopOf op.agent = none
  ∧ (s.group (gidOf op.agent)).regs.lost = []

/-- Results cover rows below `nr` and the operation's columns, each the sum of R92 to R94 over the element that was. -/
def Computed (D : Domino) (o o' : MatOp) (c : MClass) (nr : Nat) : Prop :=
  ∀ i v, (i, v) ∈ o'.results ↔ ∃ m n, m < nr ∧ n < recRows o.recB ∧ i = 128 * m + n
    ∧ v = sumOrder c o.md (if o.which = 3 then 0 else D.accElem o.acc o.acc2 i) (D.products o c m n)

end Sys2Proof.Stated

/-- R306, R308 to R310: `oclaim`, `orec` and `orel`. -/
def Sys2Proof.Stated.OperandSlots : Prop :=
  ∀ (d a b : BitVec 8) (s : State), Ready s [d, a, b] →
    let D := myDomino s
    let w := s.wg s.grp.wg
    let r := s.readS a
    let claim (v : Dword) : Prop := exec (.oclaim d a) s = puts s d v
    let conflict := recLgblk r ≠ 0 ∧ ∃ k x, (k, x) ∈ D.slots ∧ x.st ≠ .free ∧ recLgblk x.record ≠ 0 ∧
      recWindow x.record = recWindow r
    let free (t : Nat) : Prop := (D.slot t).st = .free
    (w.oslots = [] → claim 0xFFFFFFFFFFFFFFFF)
    ∧ (w.oslots ≠ [] → ¬ ValidRecord r → claim 0xFFFFFFFFFFFFFFFE)
    ∧ (w.oslots ≠ [] → ValidRecord r → conflict → claim 0xFFFFFFFFFFFFFFFD)
    ∧ (w.oslots ≠ [] → ValidRecord r → ¬ conflict → (∀ t ∈ w.oslots, ¬ free t) → claim 0xFFFFFFFFFFFFFFFF)
    ∧ (∀ before t after, w.oslots = before ++ t :: after → ValidRecord r → ¬ conflict → (∀ x ∈ before, ¬ free x) → free t →
        let gen := ((D.slot t).gen + 1) % 64
        ∃ u, exec (.oclaim d a) s = puts u d (BitVec.ofNat 64 (gen * 64 + t)) ∧ DominoOnly s u
          ∧ (myDomino u).slot t = { wg := (D.slot t).wg, st := .empty, gen := gen, record := r }
          ∧ ∀ k, k ≠ t → (myDomino u).slot k = D.slot k)
    ∧ (∀ x, s.liveSlot (s.readS a) = .ok x →
        (s.readS b = 0 → exec (.orec d a b) s = puts s d x.record)
        ∧ (s.readS b = 1 → ∃ v : Dword, exec (.orec d a b) s = puts s d v ∧ bits v 15 0 = x.stamp.toNat
            ∧ bits v 17 16 = (match x.st with | .filling => 1 | .ready => 2 | .releasing => 3 | _ => 0)
            ∧ bits v 23 18 = x.gen % 64 ∧ bits v 31 24 = x.fills.length % 256
            ∧ (v.getLsbD 32 = true ↔ x.bad ≠ []))
        ∧ (2 ≤ (s.readS b).toNat → exec (.orec d a b) s = traps s 1)
        ∧ (let n := handleSlot r
           let quiet := x.fills = [] ∧ ∀ o ∈ D.queue, n ∈ o.slots → o.started = true ∧ o.which ≠ 2
           (quiet → ∃ u, exec (.orel a) s = .next u.retire ∧ (myDomino u).slot n = { wg := x.wg, gen := x.gen }
              ∧ (∀ k, k ≠ n → (myDomino u).slot k = D.slot k) ∧ u.groups = s.groups ∧ u.mem = s.mem)
           ∧ (¬ quiet → ∃ u q, exec (.orel a) s = .next u ∧ (u.slot s.cur).block = some (.op q)
              ∧ (u.slot s.cur).pc = (s.slot s.cur).pc + 4
              ∧ (u.domino s.dominoHere).slot n = { x with st := .releasing, relOp := some q })))
    ∧ (handleOk (s.readS a) = false → exec (.orec d a b) s = traps s 1 ∧ exec (.orel a) s = traps s 1)

/-- R315, R316, R318: the matrix operations that pass every check enter their sequencer's queue. -/
def Sys2Proof.Stated.MatrixIssue : Prop :=
  ∀ (d a b : BitVec 8) (s : State) (g k : Nat) (i : Instr) (which acc : Nat) (acc2 : Option Nat) (xa xb : OSlot)
    (xb2 xm : Option OSlot) (ea eb eb2 : Dword) (c : MClass),
    s.cur = .slot g k → Ready s [d, a, b] →
    (i, which) ∈ [(Instr.mma d a b, 0), (.mmas d a b, 1), (.mmar d a b, 2), (.mmaz d a b, 3)] →
    let ready := MatrixReady s which d a b acc acc2 xa xb xb2 xm ea eb eb2 c
    (ready → s.queued s.dominoHere < 32 → s.needPip s.setB = .ok () →
      ∃ u o op, exec i s = .next u
        ∧ (u.domino s.dominoHere).queue = (myDomino s).queue ++ [o]
        ∧ o.which = which ∧ o.acc = acc ∧ o.acc2 = acc2 ∧ o.a = handleSlot (s.readS a) ∧ o.b = handleSlot (s.readS b)
        ∧ o.b2 = o.b + 1 ∧ o.meta_ = recMeta xa.record ∧ o.recA = xa.record ∧ o.recB = xb.record
        ∧ o.entryA = ea ∧ o.entryB = eb ∧ o.entryB2 = eb2 ∧ o.md = modeOf s ∧ o.ctx = s.ctxOf s.cur
        ∧ o.fence = s.readS d &&& ~~~ 7 ∧ o.started = false ∧ o.results = []
        ∧ SMap.find u.ops o.op = some op ∧ op.kind = .engine ∧ op.pip = s.setB
        ∧ u.mem = s.mem ∧ (∀ r, u.readS r = s.readS r) ∧ (u.group g).regs = (s.group g).regs
        ∧ (u.slot s.cur).pc = (s.slot s.cur).pc + 4
        ∧ (s.setB = none → (u.slot s.cur).block = some (.op o.op))
        ∧ (∀ p, s.setB = some p → (u.hart s.cur).pip p = (s.hart s.cur).pip p + 1))
    ∧ (ready → 32 ≤ s.queued s.dominoHere → exec i s = waits s (.unit (2 ^ 40 + s.dominoHere)))
    ∧ ((s.placeOf s.cur).2.2 % 2 = 1 → exec i s = traps s 12 (BitVec.ofNat 64 (s.placeOf s.cur).2.2))

/-- R317, R319, R320, R308: the head of a sequencer's queue reads its operands when it starts, a ragged product its
fence twice, and its results stand in the accumulators when it completes. -/
def Sys2Proof.Stated.MatrixExecution : Prop :=
  ∀ (dk : Nat) (s : State) (o : MatOp) (rest : List MatOp) (c : MClass),
    let D := s.domino dk
    D.queue = o :: rest → classOf (fmtOf o.entryA) = some c → o.which ≠ 4 →
    (o.started = false → D.testDue = false → o.fenceWaits = false → (o.fills ++ o.stores).all s.fillDone = true →
      s.wordAhead dk o.at_ = false →
      (o.which ≠ 2 → ∃ u o', exec (.matrixOperationStart dk) s = .next u ∧ (u.domino dk).queue = o' :: rest
        ∧ o'.started = true ∧ Computed D o o' c (recRows o.recA) ∧ (u.domino dk).accs = D.accs ∧ u.mem = s.mem)
      ∧ (∀ n t, o.which = 2 → o.dead = false → s.readFence dk o = .word n t →
          ∃ u, exec (.matrixOperationStart dk) s = .next u ∧ u.mem = s.mem
            ∧ (u.domino dk).queue = { o with started := true, nr0 := min n (recRows o.recA) } :: rest))
    ∧ (o.started = true → o.which = 2 → o.nr = none → o.dead = false → o.fenceWaits = false →
        ∀ n t, s.readFence dk o = .word n t →
          ∃ u o', exec (.raggedFenceRead dk) s = .next u ∧ (u.domino dk).queue = o' :: rest
            ∧ o' = { o with nr := some (min n (recRows o.recA)), fills := o'.fills, ts := o'.ts, ready := o'.ready }
            ∧ u.mem = s.mem)
    ∧ (∀ o' nr, o.started = true → o.dead = false → o.acc2 ≠ some o.acc →
        (o.which ≠ 2 ∧ o' = o ∨ o.which = 2 ∧ o.fills.all s.fillDone = true ∧ o.nr = some nr ∧ o' = D.compute o nr) →
        (∀ op, SMap.find s.ops o.op = some op → Completes s op) →
        ∃ u, exec (.matrixOperationComplete dk) s = .next u ∧ u.mem = s.mem
          ∧ (u.domino dk).queue = rest ∧ (u.domino dk).opseq = D.opseq + 1 ∧ (u.domino dk).slots = D.slots
          ∧ (o.which = 2 → Computed D o o' c nr)
          ∧ ((o'.results.map Prod.fst).Nodup → ∀ i v, (i, v) ∈ o'.results →
              SMap.get ((u.domino dk).acc o.acc).elems i 0 = BitVec.ofNat 32 v
              ∧ ∀ k, o.acc2 = some k → SMap.get ((u.domino dk).acc k).elems i 0 = BitVec.ofNat 32 (v / 2 ^ 32))
          ∧ (∀ i, (∀ v, (i, v) ∉ o'.results) →
              SMap.get ((u.domino dk).acc o.acc).elems i 0 = SMap.get (D.acc o.acc).elems i 0)
          ∧ (∀ k, k ≠ o.acc → o.acc2 ≠ some k → (u.domino dk).acc k = D.acc k)
          ∧ SMap.find u.ops o.op = none)

/-- R92, R94: the accumulations: one rounding for each product of the wide classes; of the integer classes a sum of exact
products, modulo 2^32 where it wraps and within 32 bits where it saturates. -/
def Sys2Proof.Stated.MatrixSums : Prop :=
  ∀ (md : ModeWord) (old : Nat) (ps : List (Val × Val)) (p : Val × Val),
    let terms : List Int := ps.map fun p => p.1.toInt * p.2.toInt
    let fp64 : Fmt := fmtOf 0x8DE87FE000000000
    let fp32 : Fmt := fmtOf 0x8C2E0FE000000000
    (∀ c ∈ [MClass.d, .s, .qi, .ni], sumOrder c md old [] = if c = .qi ∨ c = .ni then old % 2 ^ 32 else old)
    ∧ sumOrder .d md old (ps ++ [p]) = roundTo fp64 (rmOf md) (ovOf md)
        (fmaVal (rmOf md) p.1 p.2 (readCode fp64 (sumOrder .d md old ps)))
    ∧ sumOrder .s md old (ps ++ [p]) = roundTo fp32 (rmOf md) (ovOf md)
        (fmaVal (rmOf md) p.1 p.2 (readCode fp32 (sumOrder .s md old ps)))
    ∧ (isOf md = false → ∀ c ∈ [MClass.qi, .ni], sumOrder c md old ps < 2 ^ 32
        ∧ (2 ^ 32 : Int) ∣ (sumOrder c md old ps : Int) - ((old : Int) + terms.sum))
    ∧ (isOf md = true → ∀ c ∈ [MClass.qi, .ni], ∀ x : Int, (BitVec.ofNat 32 (sumOrder c md old ps)).toInt = x →
        (BitVec.ofNat 32 (sumOrder c md old (ps ++ [p]))).toInt = max (-2 ^ 31) (min (2 ^ 31 - 1) (x + p.1.toInt * p.2.toInt)))

/-- R307, R321: reading and writing an accumulator, or a pair, by lanes along a row or a column. That a word which waits for
the sequencer is tried again is the model's choice (log 57). -/
def Sys2Proof.Stated.Accumulators : Prop :=
  ∀ (d a b : BitVec 8) (s : State) (g k acc : Nat) (acc2 : Option Nat),
    s.cur = .slot g k → s.need ([a, b] ++ s.guardRegs) = .ok () →
    let w := s.readS b
    let num := (s.readS a).toNat
    let wide := w.getLsbD 16
    let dk := s.dominoHere
    let D := myDomino s
    let regs := if wide then [d.toNat, d.toNat + 1] else [d.toNat]
    let place (l : Nat) : Option Nat :=
      let i := bits w 14 8 + l
      if 127 < i then none else some (if w.getLsbD 15 then 128 * i + bits w 6 0 else 128 * bits w 6 0 + i)
    let elem (D : Domino) (k i : Nat) : Word := SMap.get (D.acc k).elems i 0
    bits w 63 17 = 0 → w.getLsbD 7 = false → d.toNat < 224 → (wide = true → d.toNat % 2 = 0 ∧ num % 2 = 0) →
    s.liveAcc num = .ok acc → (if wide then ∃ k, acc2 = some k ∧ k ≠ acc ∧ s.liveAcc (num + 1) = .ok k else acc2 = none) →
    s.needRegs regs = .ok () → s.need [] regs = .ok () →
    let accs := acc :: acc2.toList
    (s.accQueued dk accs (s.arrived dk 0) = true →
      exec (.oread d a b) s = waits s (.unit (sequencerUnit dk 0))
      ∧ (s.needClean regs s.acting = .ok () → exec (.owrite d a b) s = waits s (.unit (sequencerUnit dk 0))))
    ∧ (s.accQueued dk accs (s.arrived dk 0) = false → D.badElem accs w (lanesList s.acting) = none →
      ∃ r', exec (.oread d a b) s = .next ((s.setGroup g { s.group g with regs := r' }).retire)
        ∧ (∀ l, l < 64 → s.acting.getLsbD l = true → (s.group g).regs.sliced.getLsbD (l / 32) = false →
            (r'.reg d.toNat).getD l 0 = ((place l).map (elem D acc)).getD 0
            ∧ ∀ k, acc2 = some k → (r'.reg (d.toNat + 1)).getD l 0 = ((place l).map (elem D k)).getD 0)
        ∧ (∀ q l, l < 64 → (q ∉ regs ∨ s.acting.getLsbD l = false) →
            (r'.reg q).getD l 0 = ((s.group g).regs.reg q).getD l 0)
        ∧ r'.bp = (s.group g).regs.bp)
    ∧ (s.accQueued dk accs (s.arrived dk 0) = false → s.storesOf dk accs (s.arrived dk 0) = [] →
      s.needClean regs s.acting = .ok () →
      ∃ u, exec (.owrite d a b) s = .next u.retire ∧ DominoOnly s u
        ∧ (∀ l i, l < 64 → s.acting.getLsbD l = true → place l = some i →
            elem (myDomino u) acc i = (s.group g).regs.lane d.toNat l
            ∧ ∀ k, acc2 = some k → elem (myDomino u) k i = (s.group g).regs.lane (d.toNat + 1) l)
        ∧ (∀ k i, (∀ l, l < 64 → s.acting.getLsbD l = true → place l ≠ some i) → elem (myDomino u) k i = elem D k i)
        ∧ (myDomino u).slots = D.slots ∧ (myDomino u).queue = D.queue)

/-- R308, R323 to R325: `mfence` waits for what reached the sequencer before it, a self-test that is due among it (the
model's choice, log 57); `mtest` queues a test, made at the head of
the queue; the self-tests; the release of a slot. -/
def Sys2Proof.Stated.DominoUpkeep : Prop :=
  ∀ (n : BitVec 24) (s : State) (dk t : Nat) (failed : Bool),
    let D := myDomino s
    let before := s.arrived s.dominoHere 1
    let ahead := (∃ o ∈ D.queue, o.at_ < before) ∨ D.testDue = true
      ∨ ∃ i c f, (i, c) ∈ s.cmds ∧ c.fill = some f ∧ f.dom = s.dominoHere ∧ c.status < 16 ∧ c.reached < before
    let E := s.domino dk
    (¬ ahead → exec .mfence s = .next s.retire)
    ∧ (ahead → exec .mfence s = waits s (.unit (sequencerUnit s.dominoHere 1)))
    ∧ ((s.placeOf s.cur).2.2 % 2 = 1 → exec (.mtest n) s = traps s 12 (BitVec.ofNat 64 (s.placeOf s.cur).2.2))
    ∧ ((s.placeOf s.cur).2.2 % 2 = 0 → 16 ≤ n.toNat → exec (.mtest n) s = traps s 1)
    ∧ ((s.placeOf s.cur).2.2 % 2 = 0 → n.toNat < 16 →
        (D.fenced.getLsbD n.toNat = true → exec (.mtest n) s = .next s.retire)
        ∧ (D.fenced.getLsbD n.toNat = false → ∃ u o, exec (.mtest n) s = .next u
            ∧ (u.domino s.dominoHere).queue = D.queue ++ [o] ∧ o.which = 4 ∧ o.a = n.toNat ∧ u.mem = s.mem
            ∧ (u.slot s.cur).block = some (.op o.op) ∧ (u.slot s.cur).pc = (s.slot s.cur).pc + 4))
    ∧ (∀ o rest, E.queue = o :: rest → o.which = 4 → E.testDue = false → E.fenced.getLsbD o.a = false →
        (∀ op, SMap.find s.ops o.op = some op → Completes s op) →
        ∃ u, exec (.matrixOperationComplete dk) s = .next u ∧ (u.domino dk).queue = rest ∧ SMap.find u.ops o.op = none
          ∧ (∀ i, i < 16 → ((u.domino dk).fenced.getLsbD i = true ↔
              E.fenced.getLsbD i = true ∨ (i = o.a ∧ Config.testFails s.free = true)))
          ∧ (u.domino dk).class_ = (E.class_ + 1) % 3)
    ∧ (E.testDue = true → (∀ o ∈ E.queue, o.started = false) → ∀ i j, i < 16 →
        (∀ m, m < i → E.fenced.getLsbD ((E.next + m) % 16) = true) → j = (E.next + i) % 16 → E.fenced.getLsbD j = false →
        ∃ u, exec (.selfTestInject dk failed) s = .next u ∧ (u.domino dk).tests = E.tests + 1
          ∧ (u.domino dk).next = (j + 1) % 16 ∧ (u.domino dk).queue = E.queue
          ∧ (∀ i, i < 16 → ((u.domino dk).fenced.getLsbD i = true ↔ E.fenced.getLsbD i = true ∨ (i = j ∧ failed = true))))
    ∧ ((E.slot t).st = .releasing → (E.slot t).fills = [] →
        (∀ o ∈ E.queue, t ∈ o.slots → o.started = true ∧ o.which ≠ 2) →
        ∃ u, exec (.slotReleaseComplete dk t) s = .next u
          ∧ (u.domino dk).slot t = { wg := (E.slot t).wg, gen := (E.slot t).gen }
          ∧ (∀ k, k ≠ t → (u.domino dk).slot k = E.slot k) ∧ u.mem = s.mem
          ∧ ∀ q, (E.slot t).relOp = some q → SMap.find u.ops q = none)

namespace Sys2Proof.Stated

/-- A fill or store enters its domino's hidden chain: command, operation in flight, program counter; the issuing agent's
registers but d, and memory, are as they were. -/
def Appends (s u : State) (id : Nat) (c : Cmd) (f : FillRun) : Prop :=
  SMap.find u.cmds id = some c ∧ c.fill = some f ∧ c.chain = 2 ^ 61 + s.dominoHere ∧ c.status = 0 ∧ c.started = false
  ∧ (u.chain c.chain).queue = (s.chain c.chain).queue ++ [id]
  ∧ f.dom = s.dominoHere ∧ f.landed = false ∧ u.mem = s.mem
  ∧ (u.slot s.cur).pc = (s.slot s.cur).pc + 4
  ∧ ∃ q op, c.app.op = some q ∧ SMap.find u.ops q = some op ∧ op.kind = .engine ∧ op.pip = s.setB
    ∧ (s.setB = none → (u.slot s.cur).block = some (.op q))

end Sys2Proof.Stated

/-- R311 to R314, R322: `ofill`, `ofillv` and `ostore`. -/
def Sys2Proof.Stated.FillRequests : Prop :=
  ∀ (d a b : BitVec 8) (s t : State) (g k : Nat), s.cur = .slot g k → Unlogged s → Ready s [d, a, b] →
    s.needPip s.setB = .ok () →
    let dk := s.dominoHere
    let room := s.queued dk < 32
    let filling (u : State) (x : OSlot) (n : Nat) (stamp : BitVec 16) (id : Nat) : Prop :=
      (u.domino dk).slot n = { x with st := .filling, stamp := stamp, fills := x.fills ++ [id] }
    (∀ x q key T, s.liveSlot (s.readS a) = .ok x → s.fillRequest (s.readS b) = .ok (q, t) →
      t.handle (s.readS d) = .ok (key, T) →
      let st := fillStatus T q x.record
      (st ≠ 0 → exec (.ofill d a b) s = puts t d (BitVec.ofNat 64 st))
      ∧ (requestBad T q = true → st = 1)
      ∧ (requestBad T q = false → recRows x.record < bits (q.getD 1 0) 14 8 + bits (q.getD 1 0) 22 16 + 1 → st = 2)
      ∧ (st = 0 → room → ∃ u id c f, exec (.ofill d a b) s = .next u
          ∧ Appends s u id c f ∧ c.req = q ∧ c.kind = 4 ∧ f.slot = handleSlot (s.readS a) ∧ f.gen = x.gen ∧ f.tensor = key
          ∧ f.block = none ∧ (d ≠ 63 → u.readS d = 0) ∧ (∀ r, r ≠ d → u.readS r = s.readS r)
          ∧ filling u x f.slot (BitVec.ofNat 16 (2 ^ 15 + T.fmt * 2 ^ 8 + bits (q.getD 1 0) 26 24 * 2 ^ 4
              + bits (q.getD 1 0) 30 28 * 2)) id))
    ∧ (∀ x p e C, s.liveSlot (s.readS d) = .ok x → (s.readS b).toNat < 2 ^ 11 → a.toNat ≤ 216 →
      s.pattern ((s.readS b).toNat % 16) = some p → p.ctx = s.ctxOf s.cur →
      s.needRegs ((List.range 8).map (a.toNat + ·)) = .ok () → s.need [] ((List.range 8).map (a.toNat + ·)) = .ok () →
      s.needClean ((List.range 8).map (a.toNat + ·)) (BitVec.allOnes 64) = .ok () → s.recEntry x.record = .ok e →
      (fmtOf e).kind ≠ 3 → classOf (fmtOf e) = some C → C.depth * elemBits (fmtOf e) = 512 →
      (s.readS b).toNat / 16 + 32 ≤ recRows x.record → room →
      ∃ u id c f y, exec (.ofillv d a b) s = .next u ∧ Appends s u id c f ∧ c.kind = 4 ∧ f.slot = handleSlot (s.readS d)
        ∧ f.block = some (y, (s.readS b).toNat / 16) ∧ filling u x f.slot p.sig id ∧ (∀ r, u.readS r = s.readS r)
        ∧ (p.rows.length = 11 → (∀ i j, i < 2048 → j < 2048 → destination p.rows i = destination p.rows j → i = j) →
            ∀ i, i < 2048 → y / 2 ^ (8 * destination p.rows i) % 256 = blockByte (s.group g).regs a.toNat i))
    ∧ (∀ acc acc2 q key T,
      let w := s.readS a
      let wide := w.getLsbD 3
      w.toNat < 16 → (wide = true → w.toNat % 2 = 0) → s.liveAcc (w.toNat % 8) = .ok acc →
      (if wide then ∃ k, acc2 = some k ∧ s.liveAcc (w.toNat % 8 + 1) = .ok k else acc2 = none) →
      (rmOf (modeOf s) = 5 → exec (.ostore d a b) s = traps s 1)
      ∧ (rmOf (modeOf s) ≠ 5 → (if wide then sfRecord s = 0x8DE87FE000000000 else sfRecord s = 0x8C2E0FE000000000 ∨ sfRecord s = 0x983E000000000000) →
      s.fillRequest (s.readS b) = .ok (q, t) → t.handle (s.readS d) = .ok (key, T) →
      let st := storeStatus T q
      (st ≠ 0 → exec (.ostore d a b) s = puts t d (BitVec.ofNat 64 st))
      ∧ (requestBad T q = false → 128 < bits (q.getD 1 0) 14 8 + bits (q.getD 1 0) 22 16 + 1 → st = 2)
      ∧ (st = 0 → room → ∃ u id c f, exec (.ostore d a b) s = .next u ∧ Appends s u id c f ∧ c.req = q ∧ c.kind = 5
          ∧ f.slot = acc ∧ f.acc2 = acc2 ∧ f.tensor = key ∧ f.entry = sfRecord s ∧ f.md = modeOf s
          ∧ (d ≠ 63 → u.readS d = 0))))

/-- R308, R311, R312, R314: a fill's data comes into its slot. -/
def Sys2Proof.Stated.FillCompletion : Prop :=
  ∀ (id : Nat) (c : Cmd) (f : FillRun) (s : State), SMap.find s.cmds id = some c → c.fill = some f → c.live = true →
    c.kind = 4 → f.landed = false → c.entries = 0 → s.aheadDone f = true →
    let x := (s.domino f.dom).slot f.slot
    let after (u : State) (first n : Nat) (data : Nat → Nat) : Prop :=
      let x' := (u.domino f.dom).slot f.slot
      (∀ r, r < n → x'.row (first + r) = data r)
      ∧ (∀ r, r < first ∨ first + n ≤ r → x'.row r = x.row r)
      ∧ x'.fills = x.fills.filter (fun i => i != id)
      ∧ x'.st = (if x.st = .filling ∧ x'.fills = [] then .ready else x.st)
      ∧ (∀ k, k ≠ f.slot → (u.domino f.dom).slot k = (s.domino f.dom).slot k)
      ∧ u.mem = s.mem ∧ ∃ c', SMap.find u.cmds id = some c' ∧ c'.fill = some { f with landed := true }
    (∀ y first, f.block = some (y, first) →
      ∃ u, exec (.fillComplete id) s = .next u ∧ after u first 32 (fun r => y / 2 ^ (512 * r) % 2 ^ 512))
    ∧ (∀ T rd t, f.block = none → s.fillTensor f = some T → s.passRuns T = false →
      let first := bits (c.req.getD 1 0) 14 8
      let n := bits (c.req.getD 1 0) 22 16 + 1
      let elems (r : Nat) : List (Option ElemAt) := T.rowElems c.req x.record r
      (s.handleTurn id f).readAll id ((((List.range n).map elems).flatMap fun l => l.filterMap fun e => e).map fun e => (e.va, e.n)).dedup
        = .ok (rd, t) →
      ∃ u data, exec (.fillComplete id) s = .next u ∧ after u first n data
        ∧ (T.f.kind ≠ 3 → recKind x.record ≠ 2 → ∀ r k, r < n → k < T.fillWidth x.record → ∀ w, w = elemBits T.f →
            data r / 2 ^ (w * k) % 2 ^ w
              = (match (elems r).getD k none with | some e => T.codeOf rd e | none => 0) % 2 ^ w))

/-- R284 to R287: the boards: setting, clearing and reading bits, arming and disarming triggers, the firing test. -/
def Sys2Proof.Stated.Boards : Prop :=
  ∀ (d a b : BitVec 8) (s t : State), Ready s [d, a, b] →
    let here := s.coreHere
    let ctx := s.ctxOf s.cur
    let B := s.board here
    let w := s.readS a
    let know := s.groupKnowledge (gidOf s.cur)
    (s.groupAccessInFlight = false → ∀ key, s.targetCore w = some key →
      (SMap.find (s.board key).owners (bits w 21 20) ≠ some ctx → exec (.tbset a b) s = traps s 6 w)
      ∧ (SMap.find (s.board key).owners (bits w 21 20) = some ctx →
        exec (.tbset a b) s = .next ((s.setBits key (bits w 21 20) (s.readS b) know).retire)
        ∧ ((s.board key).triggers = [] →
            ((s.setBits key (bits w 21 20) (s.readS b) know).board key).window (bits w 21 20)
              = (s.board key).window (bits w 21 20) ||| s.readS b
            ∧ (s.setBits key (bits w 21 20) (s.readS b) know).mem = s.mem)))
    ∧ (s.groupAccessInFlight = false → s.targetCore w = none → exec (.tbset a b) s = traps s 6 w)
    ∧ (SMap.find B.owners (w.toNat % 4) = some ctx → ∃ u : State, exec (.tbclr a b) s = .next u.retire
        ∧ u = { s with boards := u.boards } ∧ (u.board here).window (w.toNat % 4) = B.window (w.toNat % 4) &&& ~~~ s.readS b
        ∧ (∀ n, n ≠ w.toNat % 4 → (u.board here).window n = B.window n) ∧ (u.board here).triggers = B.triggers)
    ∧ (SMap.find B.owners (w.toNat % 4) ≠ some ctx → exec (.tbclr a b) s = traps s 6 w
        ∧ (w.toNat < 4 → exec (.tbread d a) s = traps s 6 w))
    ∧ (w.toNat < 4 → SMap.find B.owners w.toNat = some ctx → exec (.tbread d a) s = puts s d (B.window w.toNat))
    ∧ (w = 4 → ∃ m : Dword, exec (.tbread d a) s = puts s d m
        ∧ ∀ n, n < 64 → (m.getLsbD n = true ↔ ∃ x, (n, x) ∈ B.triggers ∧ x.ctx = ctx))
    ∧ (w = 5 → ∃ m : Dword, ∃ u, exec (.tbread d a) s = puts u d m
        ∧ (∀ n, n < 64 → (m.getLsbD n = true ↔ (n, ctx) ∈ B.failed))
        ∧ (u.board here).failed = B.failed.filter (fun e => e.2 != ctx) ∧ u = { s with boards := u.boards })
    ∧ (6 ≤ w.toNat → exec (.tbread d a) s = traps s 1)
    ∧ (s.readS b = 1 → ∀ x, SMap.find B.triggers (w.toNat % 32) = some x →
        (x.ctx = ctx → ∃ u, exec (.trig d a b) s = puts u d 0 ∧ u = { s with boards := u.boards }
          ∧ SMap.find (u.board here).triggers (w.toNat % 32) = none)
        ∧ (x.ctx ≠ ctx → exec (.trig d a b) s = puts s d 1))
    ∧ (s.readS b = 1 → SMap.find B.triggers (w.toNat % 32) = none → exec (.trig d a b) s = puts s d 1)
    ∧ (2 ≤ (s.readS b).toNat → exec (.trig d a b) s = traps s 1)
    ∧ (∀ x l, s.readS b = 0 → s.scalarRead w 32 32 = .ok (x, l, t) →
        let word (i : Nat) : Dword := BitVec.ofNat 64 (x / 2 ^ (64 * i))
        let sound := (word 3).toNat < 8 ∧ word 2 ≠ 0
        (¬ sound → exec (.trig d a b) s = puts t d 0x8000000000000002)
        ∧ (sound → SMap.find (t.board here).owners (bits (word 3) 1 0) ≠ some ctx → exec (.trig d a b) s = traps t 6 w)
        ∧ (sound → SMap.find (t.board here).owners (bits (word 3) 1 0) = some ctx →
          ((∀ n, n < 32 → SMap.find (t.board here).triggers n ≠ none) →
            exec (.trig d a b) s = puts t d 0x8000000000000001)
          ∧ (∀ n, n < 32 → (∀ m, m < n → SMap.find (t.board here).triggers m ≠ none) →
              SMap.find (t.board here).triggers n = none →
              ∃ u : State, exec (.trig d a b) s = .next (((u.writeS d (BitVec.ofNat 64 n)).firingTest here).retire)
                ∧ u = { t with boards := u.boards }
                ∧ SMap.find (u.board here).triggers n = some { record := (List.range 4).map word, ctx := ctx })))
    ∧ (∀ key n x, SMap.find (s.board key).triggers n = some x →
        let mask := x.record.getD 2 0
        let win := bits (x.record.getD 3 0) 1 0
        ((s.board key).window win &&& mask ≠ mask → s.fireSlot key n = s)
        ∧ ((s.board key).window win &&& mask = mask → SMap.find ((s.fireSlot key n).board key).triggers n = none
            ∧ ((x.record.getD 3 0).getLsbD 2 = true →
                ((s.fireSlot key n).board key).window win = (s.board key).window win &&& ~~~ mask)))

/-- R288 to R291: tile records: opened, closed, and written when all of their work is complete, those of a context in the
order in which they became so. -/
def Sys2Proof.Stated.TileRecords : Prop :=
  ∀ (d a : BitVec 8) (s : State) (g k : Nat), s.cur = .slot g k → Ready s [d, a] →
    let G := s.group g
    (∀ n, G.tile = some n → exec (.tilebeg d a) s = puts s d 1)
    ∧ (G.tile = none → s.pendingTiles G.pkg G.die G.core < 64 → ∃ u n, exec (.tilebeg d a) s = puts u d 0
        ∧ (u.group g).tile = some n ∧ (u.tile n).t0 = s.cycle ∧ (u.tile n).tile = (s.readS a).setWidth 32
        ∧ (u.tile n).seq = none ∧ (u.tile n).work = [] ∧ u = { s with groups := u.groups, tiles := u.tiles, nextId := u.nextId })
    ∧ (G.tile = none → 64 ≤ s.pendingTiles G.pkg G.die G.core → ∃ n, exec (.tilebeg d a) s = waits s (.unit n))
    ∧ (G.tile = none → exec (.tileend d) s = puts s d 0xFFFFFFFFFFFFFFFF)
    ∧ (∀ n, G.tile = some n →
        let T := s.tile n
        let seq := (s.ctx T.pkg T.ctx).stampSeq
        ∃ u, exec (.tileend d) s = puts u d (BitVec.ofNat 64 seq) ∧ (u.group g).tile = none
          ∧ u.tile n = { T with seq := some seq, closedAt := s.cycle } ∧ (u.ctx T.pkg T.ctx).stampSeq = seq + 1)
    ∧ (∀ n T, SMap.find s.tiles n = some T → T.seq ≠ none → T.work = [] →
        (∀ j U, (j, U) ∈ s.tiles → U.pkg = T.pkg → U.ctx = T.ctx → U.seq ≠ none → U.work = [] →
          U.completeAt < T.completeAt ∨ (U.completeAt = T.completeAt ∧ j < n) → False) →
        exec (.stampRecordWrite n) s = .next (({ s with tiles := SMap.erase s.tiles n } : State).record
          { pkg := T.pkg, ctx := T.ctx, stamp := true, writer := coreKey T.pkg T.die T.core * 4,
            words := T.record (s.pkg T.pkg).onAt }))

namespace Sys2Proof.Stated

/-- A base is placed as R329 asks, for a region of so many bytes. -/
def Placed (t : Tensor) (base : Dword) (bytes align : Nat) : Prop :=
  base.toNat < 2 ^ 57 ∧ isAlias base = false ∧ base.toNat % align = 0
  ∧ (isWindow base = false → t.wcore = 0 ∧ t.wdie = 0 ∧ t.wpkg = 0)
  ∧ (isWindow base = true → bits base 26 20 + 2 ^ t.wcore - 1 ≤ 87 ∧ bits base 29 27 + 2 ^ t.wdie - 1 ≤ 7
      ∧ bits base 19 0 + bytes ≤ 2 ^ 20)

/-- A map of a tensor is valid (R329). -/
def ValidMap (t : Tensor) (m : TMap) : Prop :=
  let w := t.n - t.wcore - t.wdie - t.wpkg
  let blockBits := 2 * rateBits m.rate
  t.wcore + t.wdie + t.wpkg ≤ t.n
  ∧ (m.rate = 0 → t.f.kind = 3 → Placed t m.base (2 ^ (w - t.f.lgblk) * t.f.blockBytes) t.f.blockBytes)
  ∧ (m.rate = 0 → t.f.kind ≠ 3 → Placed t m.base ((2 ^ w * t.f.c + 7) / 8) (max 1 (t.f.c / 8)))
  ∧ (m.rate ≠ 0 → Placed t m.base (2 ^ (w - 4) * blockBits) blockBits ∧ Placed t m.side (2 ^ (w - 4)) 1)

/-- Row j is the unit row of a column, and of the other rows none has that column. -/
def UnitRows (rows columns : List Nat) : Prop :=
  (∀ j < columns.length, rows.getD j 0 = 2 ^ columns.getD j 0)
  ∧ ∀ i, columns.length ≤ i → i < rows.length → ∀ c ∈ columns, (rows.getD i 0).testBit c = false

/-- Blocks move whole (R330). -/
def WholeBlocks (t : Tensor) (rows : List Nat) (rate : Nat) : Prop :=
  let b (d : Nat) : Nat := t.widths.getD d 0
  (t.f.kind = 3 → rate = 0 ∧ t.f.lgblk ≤ b 0 ∧ UnitRows rows (List.range t.f.lgblk))
  ∧ (t.f.kind ≠ 3 → rate ≠ 0 → cbFormat t.entry = true ∧ 2 ≤ t.widths.length ∧ 2 ≤ b 0 ∧ 2 ≤ b 1
      ∧ t.extents.getD 0 1 % 4 = 0 ∧ t.extents.getD 1 1 % 4 = 0 ∧ UnitRows rows [0, 1, b 0, b 0 + 1])

/-- A descriptor, or a bit of its rows, is not as R327 has it. -/
def BadDescriptor (h rows : List Dword) : Prop :=
  let w (i : Nat) : Dword := h.getD i 0
  let width (d : Nat) : Nat := bits (w 1) (6 * d + 5) (6 * d)
  let n := width 0 + width 1 + width 2 + width 3 + width 4 + width 5
  let nd := bits (w 0) 7 5 + 1
  2 ^ 11 ≤ (w 0).toNat ∨ 2 ^ 36 ≤ (w 1).toNat ∨ 2 ^ n ≤ (w 2).toNat ∨ 2 ^ 12 ≤ (w 3).toNat ∨ w 6 ≠ 0 ∨ w 7 ≠ 0
  ∨ 40 < n ∨ 6 < nd ∨ (∃ d, nd ≤ d ∧ d < 6 ∧ width d ≠ 0) ∨ ∃ r ∈ rows, 2 ^ n ≤ r.toNat

end Sys2Proof.Stated

/-- R329, R330, R332: the checks of a tensor descriptor, in order: the first that fails gives the status. -/
def Sys2Proof.Stated.DescriptorChecks : Prop :=
  ∀ (h rows : List Dword) (T : Tensor), T.rows = rows →
    let m : TMap := { T.cur with rate := if T.rate = 7 then 0 else T.rate }
    let fails (n : Nat) : Prop := match n with
      | 1 => BadDescriptor h rows
      | 2 => gfOps ((List.range 6).map fun d => bits (h.getD 1 0) (6 * d + 5) (6 * d)).sum (rows.map BitVec.toNat) = none
      | 3 => ¬ ValidMap T m
      | 4 => T.rate = 7 ∨ ¬ WholeBlocks T (rows.map BitVec.toNat) T.rate
      | _ => False
    (∀ n, 1 ≤ n → (descStatus h rows T = n ↔ fails n ∧ ∀ j, j < n → ¬ fails j))
    ∧ (descStatus h rows T = 0 ↔ ∀ j, ¬ fails j)
    -- what the elimination of L makes of it: the identity
    ∧ (∀ n l ops, gfOps n l = some ops → l.length = n → (∀ x ∈ l, x < 2 ^ n) → gfRun ops l = gfOne n)

/-- R327, R331 to R334: `tdesc`, `tquery` and `tfree`. -/
def Sys2Proof.Stated.DescriptorRequests : Prop :=
  ∀ (d a b : BitVec 8) (s t u : State) (h rows : List Dword), Ready s [d, a, b] →
    let pkg := s.pkgOf s.cur
    let ctx := s.ctxOf s.cur
    let va := s.readS a
    let n := ((List.range 6).map fun i => bits (h.getD 1 0) (6 * i + 5) (6 * i)).sum
    let entry := s.fmtHere (bits (h.getD 0 0) 4 0)
    let free (s : State) (e : Nat) : Prop := (s.tensor (tensorKey pkg ctx e)).live = false
    (va.toNat % 64 = 0 → s.readDwords va 8 = .ok (h, t) → t.readDwords (va + 64) n = .ok (rows, u) → entry.getLsbD 63 = true →
      let T := describe h rows entry
      let st := descStatus h rows T
      (st ≠ 0 → exec (.tdesc d a) s = puts u d (BitVec.ofNat 64 (2 ^ 63 + st)))
      ∧ (st = 0 → (∀ e, e < 4096 → ¬ free s e) → exec (.tdesc d a) s = puts u d 0x8000000000000005)
      ∧ (∀ e, st = 0 → e < 4096 → free s e → (∀ j, j < e → ¬ free s j) →
          let key := tensorKey pkg ctx e
          let g := (s.tensor key).gen + 1
          let gen := if g % 2 ^ 20 = 0 then 1 else g % 2 ^ 20
          ∃ v, exec (.tdesc d a) s = puts v d (BitVec.ofNat 64 (gen * 2 ^ 12 + e)) ∧ v = { u with tensors := v.tensors }
            ∧ v.tensor key = { T with gen := gen, die := (s.placeOf s.cur).2.1 }
            ∧ ∀ j, j ≠ key → v.tensor j = s.tensor j))
    ∧ (va.toNat % 64 ≠ 0 → exec (.tdesc d a) s = traps s 5 va)
    ∧ (∀ key T, s.liveTensor pkg ctx va = some (key, T) →
      let x := (s.readS b).toNat
      (x = 0 → ∃ v : Dword, exec (.tquery d a b) s = puts s d v
        ∧ (T.n < 64 → T.fmt < 32 → T.rate < 8 → T.relays.length < 16 → T.level < 8 →
            bits v 7 0 = T.fmt ∧ bits v 19 8 = T.n ∧ bits v 22 20 = T.rate ∧ bits v 26 23 = T.relays.length
            ∧ bits v 53 51 = T.level ∧ (v.getLsbD 54 = true ↔ s.passRuns T = true)))
      ∧ (x = 1 → exec (.tquery d a b) s = puts s d T.base) ∧ (x = 2 → exec (.tquery d a b) s = puts s d T.side)
      ∧ (0x40 ≤ x → x < 0x40 + T.n → exec (.tquery d a b) s = puts s d (T.rows.getD (x - 0x40) 0))
      ∧ (0x80 ≤ x → x < 0x80 + T.n → T.relays = [] → T.n ≤ 40 →
          exec (.tquery d a b) s = puts s d (T.rows.getD (x - 0x80) 0))
      ∧ ((∀ c ∈ T.relays, ∀ y, SMap.find s.cmds c = some y → 16 ≤ y.status) → s.handleBusy key = false →
          ∃ v, exec (.tfree d a) s = puts v d 0 ∧ v.tensor key = { T with live := false, relays := [] }
            ∧ (∀ j, j ≠ key → v.tensor j = s.tensor j)
            ∧ v = { s with tensors := v.tensors, chains := v.chains, cmds := v.cmds }))
    ∧ (s.liveTensor pkg ctx va = none → exec (.tquery d a b) s = traps s 6 va ∧ exec (.tfree d a) s = puts s d 1)

namespace Sys2Proof.Stated

/-- Nothing that engines do on this die is traced (R376). -/
def Untraced (s : State) (pkg die : Nat) : Prop := (s.dieSt pkg die).eng = false ∧ (s.dieSt pkg die).evt = false

/-- The operation that counts a command, if it is in flight, has nothing left but to end. -/
def OpReady (s : State) (c : Cmd) : Prop :=
  ∀ q o, c.app.op = some q → SMap.find s.ops q = some o →
    Completes s o

/-- Memory apart, what a command of a software chain does to its chain when it is over: it is gone, its chain runs
nothing, its operation has ended. -/
def CommandGone (u : State) (id : Nat) (c : Cmd) : Prop :=
  SMap.find u.cmds id = none ∧ (u.chain c.chain).running = none
  ∧ ∀ q, c.app.op = some q → SMap.find u.ops q = none

end Sys2Proof.Stated

/-- R250, R272, R278, R279, R282: the chain and event-queue instructions. That the link from the command before is no event
of R250 is the model's choice (log 70). -/
def Obligations.Chains : Prop :=
  ∀ (d a b : BitVec 8) (s r t : State) (l : Loc), Unlogged s → Ready s [d, a, b] →
    let c := s.readS a
    let k := s.readS b
    let s0 : State := { r with nextId := r.nextId + 2 }
    let app : Appended := r.appendedHere (r.nextId + 1) r.nextId (r.homeVa r.cur c)
    -- an access of it that is the second of a race
    (∀ x u, s.needPip s.setB = .ok () → s.appendEvents c k = .error (.trap x u) →
      x.cause = 7 ∧ exec (.eappend d a b) s = .next (u.takeTrap u.cur x))
    -- an append
    ∧ (2 ≤ k.toNat → s.needPip s.setB = .ok () → c.toNat % 64 = 0 → s.appendEvents c k = .ok r →
      (∀ n, s0.chainAppend r.thread c k app = .ok (n, t) → ∃ u o, exec (.eappend d a b) s = .next u
        ∧ (d ≠ 0 → d ≠ 63 → u.readS d = n) ∧ u.mem = t.mem ∧ SMap.find u.ops r.nextId = some o ∧ o.kind = .engine
        ∧ o.pip = s.setB ∧ (u.slot s.cur).pc = (s.slot s.cur).pc + 4
        ∧ (s.setB = none → (u.slot s.cur).block = some (.op r.nextId)))
      ∧ (s0.chainAppend r.thread c k app = .error .invalid → exec (.eappend d a b) s = puts r d 0x8000000000000001)
      ∧ (∀ va, s0.chainAppend r.thread c k app = .error (.bad va) → exec (.eappend d a b) s = traps r 6 va)
      ∧ (∀ va, s0.chainAppend r.thread c k app = .error (.misaligned va) → exec (.eappend d a b) s = traps r 5 va)
      -- to a chain that is empty
      ∧ (∀ m u, s0.chainAt r.thread c = .ok (l, t) → t.chainValid l.key = true → t.wordAt l.key 0 = 0 →
          t.wordAt l.key 1 = 0 → t.chainHalted l.key = false → (t.chain l.key).running = none → k.toNat % 64 = 0 →
          t.appendAt r.thread k .write = .ok (m, u) → (m.key + 64 ≤ l.key ∨ l.key + 64 ≤ m.key) →
          let n := s.wordAt l.key 2 + 1
          ∃ v, s0.chainAppend r.thread c k app = .ok (n, v)
            ∧ v.wordAt l.key 0 = k ∧ v.wordAt l.key 1 = k ∧ v.wordAt l.key 2 = n
            ∧ v.wordAt m.key 0 = 0 ∧ (v.wordAt m.key 7).toNat = n.toNat % 2 ^ 48 * 2 ^ 16
            ∧ (v.chain l.key).appended = [{ app with va := k, ticket := n.toNat, at_ := s.cycle }]
            ∧ ∀ j, (j < l.key ∨ l.key + 64 ≤ j) → (j < m.key ∨ m.key + 64 ≤ j) → Mem.byte v.mem j = Mem.byte s.mem j))
    -- a resumption
    ∧ (k.toNat < 2 → s.needPip s.setB = .ok () → s.appendEvents c k = .ok r → r.chainAt r.thread c = .ok (l, t) →
      (t.chainValid l.key = false → exec (.eappend d a b) s = puts r d 0x8000000000000001)
      ∧ (t.chainValid l.key = true → t.chainHalted l.key = false → exec (.eappend d a b) s = puts t d 0x8000000000000002)
      ∧ (t.chainValid l.key = true → t.chainHalted l.key = true → k = 0 →
          ∃ u, exec (.eappend d a b) s = puts u d (s.wordAt l.key 3) ∧ u.chainHalted l.key = false
            ∧ (∀ i, i < 8 → i ≠ 4 → u.wordAt l.key i = s.wordAt l.key i)
            ∧ (∀ j, j < l.key + 0x20 ∨ l.key + 0x28 ≤ j → Mem.byte u.mem j = Mem.byte s.mem j)))
    -- COMPL, and the event queue
    ∧ (s.objectWord c 0x18 = .ok (l, t) → ∃ u, exec (.eseq d a) s = puts u d (BitVec.ofNat 64 (Mem.read s.mem l.key 8))
        ∧ SameButRace t u)
    ∧ (s.objectWord c 8 = .ok (l, t) →
        let w := s.wordAt (l.key - 8)
        ∃ u, SameButRace t u ∧ exec (.evpoll d a) s = puts u d (if (w 0).toNat < (w 1).toNat
          then w 2 + BitVec.ofNat 64 (64 * ((w 0).toNat % 2 ^ bits (w 3) 4 0)) else 0))
    ∧ ((s.releaseSlot 4).slotObject c .rmw = .ok (l, t) →
        let w := s.wordAt l.key
        let first := w 2 + BitVec.ofNat 64 (64 * ((w 0).toNat % 2 ^ bits (w 3) 4 0))
        ((w 0).toNat < (w 1).toNat → k = first → ∃ u, exec (.evack d a b) s = puts u d 0
          ∧ u = { t with mem := Mem.write t.mem l.key 8 ((w 0) + 1).toNat, grans := u.grans })
        ∧ (¬ ((w 0).toNat < (w 1).toNat ∧ k = first) → exec (.evack d a b) s = puts t d 1))

/-- R273, R275: a command starts: its words are captured. -/
def Sys2Proof.Stated.CommandStarts : Prop :=
  ∀ (key id : Nat) (ch : Chain) (app : Appended) (s t v : State) (l : Loc),
    SMap.find s.chains key = some ch → ch.running = none → key < 2 ^ 60 → s.ctxRuns ch.pkg ch.ctx = true →
    s.engineLoad ch < 8 → s.nextChain ch.engineKey = some key → s.chainValid key = true → s.chainHalted key = false → s.wordAt key 0 ≠ 0 →
    (∀ i c, (i, c) ∈ s.cmds → c.chain = key → c.isHalted = false) →
    ch.appended.find? (fun a => a.va == s.wordAt key 0) = some app → app.id = id → id ≠ 0 → app.tile = none →
    let engine := bits (s.wordAt key 4) 3 0
    let words := (List.range 8).map (s.wordAt l.key)
    let c : Cmd := { chain := key, pkg := ch.pkg, die := ch.die, engine := engine, ctx := ch.ctx, app := app, words := words,
                     started := true, checked := true, startedAt := s.cycle }
    Untraced s ch.pkg ch.die → s.xlate (c.who id) app.va .read = (.at l, t) →
    (t.learnAll [c.who id] app.know).raceAccess (c.who id) l 64 0 false = .ok v → c.kind ≤ 2 → c.fieldsOk = true → c.misaligned = none → c.cred = false →
    ∃ u, exec (.commandStart key) s = .next u ∧ (u.chain key).running = some id ∧ u.mem = s.mem
      ∧ SMap.find u.cmds id = some c

/-- R274: one granule of a COPY (kind 1) or a FILL (kind 2). That the bytes move without a step of another agent between them
is the model's choice (log 54). -/
def Sys2Proof.Stated.GranuleMoves : Prop :=
  ∀ (id : Nat) (c : Cmd) (s t u v w : State) (src dst : Loc), SMap.find s.cmds id = some c →
    let off := BitVec.ofNat 64 (64 * c.pos)
    let from_ := c.word 2 + off
    let to_ := c.word 3 + off
    to_.toNat % 64 = 0 → v.xlate (c.who id) to_ .write = (.at dst, w) → w.raceAccess (c.who id) dst 64 1 false = .ok u →
    (c.kind = 2 → v = s →
      ∃ z, s.moveGranule id = .ok z ∧ z.cmd id = { c with pos := c.pos + 1, bytes := 64 * (c.pos + 1), awaits := none }
        ∧ (∀ i, i < 16 → Mem.read z.mem (dst.key + 4 * i) 4 = (c.word 2).toNat % 2 ^ 32)
        ∧ ∀ j, j < dst.key ∨ dst.key + 64 ≤ j → Mem.byte z.mem j = Mem.byte s.mem j)
    ∧ (c.kind = 1 → from_.toNat % 64 = 0 → s.xlate (c.who id) from_ .read = (.at src, t) → t.raceAccess (c.who id) src 64 0 false = .ok v →
        (s.gran src.key).poisoned = false →
        ∃ z, s.moveGranule id = .ok z ∧ z.cmd id = { c with pos := c.pos + 1, bytes := 64 * (c.pos + 1), awaits := none }
          ∧ (∀ i, i < 64 → Mem.byte z.mem (dst.key + i) = Mem.byte s.mem (src.key + i))
          ∧ ∀ j, j < dst.key ∨ dst.key + 64 ≤ j → Mem.byte z.mem j = Mem.byte s.mem j)

/-- R263, R276, R280, R281: the end of a command: the completion effects follow its last byte, its status, its ticket in COMPL
and HEAD at the next; and the posting of an event record. The model's choices: STATUS is written before the effects, and an EVT
without a queue posts nothing (log 55). -/
def Sys2Proof.Stated.CommandEnds : Prop :=
  ∀ (id n : Nat) (c : Cmd) (s t : State) (l : Loc), SMap.find s.cmds id = some c →
    let s₀ := s.tileEnd id
    let s₁ := s₀.setCmd id (s₀.cmd id)
    (c.live = true → c.checked = true →
      let ends (t : State) (landed : Nat) : Prop := exec (.commandComplete id) s = .next (t.completionEffects id landed)
      (c.kind = 0 → ends s 0)
      ∧ (c.kind = 1 ∨ c.kind = 2 → s.moveRest id ((c.word 4).toNat / 64 - c.pos) = .ok t → (t.cmd id).spills = [] →
          (t.cmd id).entries = 0 → ends t (c.word 4).toNat)
      ∧ (∀ r, c.kind = 3 → c.relay = some r → r.phase = .check → r.done = r.passes.length →
          ends (s.abandonRelay id) (if r.passes = [] then 0 else (s.tensor r.tensor).landed))
      ∧ (∀ f, c.kind = 4 → c.fill = some f → f.landed = true → ends s c.bytes)
      ∧ (∀ f, c.kind = 5 → c.fill = some f → f.landed = true → c.spills = [] → c.entries = 0 → ends s c.bytes))
    ∧ (∀ landed t' t'' t₁ v, c.app.by_ = none → c.chain < 2 ^ 60 → c.status < 16 →
      c.evt = false ∨ (c.word 6 = 0 ∧ s.wordAt c.chain 5 = 0) → c.cred = false → c.ben = false →
      Untraced s c.pkg c.die → OpReady s c → isWindow c.app.va = true →
      s.xlate (c.who id) c.app.va .write = (.at l, t') → s.xlate (c.who id) c.app.va .read = (.at l, t'') →
      (l.key + 64 ≤ c.chain ∨ c.chain + 64 ≤ l.key) →
      s₁.writeStatus id = .ok t₁ → t₁.effectCompl id = .ok v →
      let u := s.completionEffects id landed
      CommandGone u id c ∧ Mem.read u.mem (l.key + 0x38) 1 = c.status ∧ u.wordAt c.chain 3 = BitVec.ofNat 64 c.app.ticket
        ∧ u.wordAt c.chain 0 = s.wordAt l.key 0
        ∧ ∀ j, (j < c.chain ∨ c.chain + 64 ≤ j) → j ≠ l.key + 0x38 → Mem.byte u.mem j = Mem.byte s.mem j)
    -- one of its stores, or its credit, is the second access of a race
    ∧ (∀ landed x, c.app.by_ = none → c.evt = false → c.ben = false →
      (s₁.writeStatus id = .error x ∨ ∃ t₁, s₁.writeStatus id = .ok t₁ ∧ t₁.effectCompl id = .error x) →
      s.completionEffects id landed = s₀.haltCommand id 20 x.det2 x.det3)
    ∧ (∀ landed x t₁ t₂, c.app.by_ = none → c.evt = false → c.ben = false →
      s₁.writeStatus id = .ok t₁ → t₁.effectCompl id = .ok t₂ → t₂.effectCredit id landed = .error x →
      s.completionEffects id landed = t₂.haltCommand id 20 x.det2 x.det3)
    -- a command that halts its chain, with no queue to report to
    ∧ (∀ (status : Nat) (d2 d3 : Dword) t' v, 16 ≤ status → status < 256 → c.chain < 2 ^ 60 → c.word 6 = 0 → s.wordAt c.chain 5 = 0 →
      Untraced s c.pkg c.die → OpReady s c → isWindow c.app.va = true → s.xlate (c.who id) c.app.va .write = (.at l, t') →
      (l.key + 64 ≤ c.chain ∨ c.chain + 64 ≤ l.key) → (∃ a ∈ (s.chain c.chain).appended, a.id = id) →
      t'.raceAccess (c.who id) { l with key := l.key + 0x38, addr := l.addr + 0x38 } 1 1 false = .ok v →
      let u := s.haltCommand id status d2 d3
      u.chainHalted c.chain = true ∧ (u.chain c.chain).running = none ∧ Mem.read u.mem (l.key + 0x38) 1 = status
      ∧ (∀ i, i < 8 → i ≠ 4 → u.wordAt c.chain i = s.wordAt c.chain i)
      ∧ (u.cmd id).status = status ∧ (u.cmd id).det2 = d2 ∧ (u.cmd id).det3 = d3
      ∧ (∀ q, c.app.op = some q → SMap.find u.ops q = none)
      ∧ ∀ j, (j < c.chain + 0x20 ∨ c.chain + 0x28 ≤ j) → j ≠ l.key + 0x38 → Mem.byte u.mem j = Mem.byte s.mem j)
    ∧ (∀ p, SMap.find s.posts n = some p → p.cmd = id → c.entries = 0 →
      (s.eventQueue id p.queue = none → exec (.eventRecordPost n) s = .next (s.endPost n))
      ∧ (s.eventQueue id p.queue = some l →
        let w := s.wordAt l.key
        let cap := 2 ^ bits (w 3) 4 0
        let va := w 2 + BitVec.ofNat 64 (64 * ((w 1).toNat % cap))
        (cap ≤ (w 1 - w 0).toNat → exec (.eventRecordPost n) s = .next s)
        ∧ (∀ r z y v, (w 1 - w 0).toNat < cap → s.xlate (c.who id) va .write = (.at r, z) → p.words.length = 8 →
            Untraced s c.pkg c.die → OpReady s c → c.chain < 2 ^ 60 →
            (r.key + 64 ≤ l.key ∨ l.key + 64 ≤ r.key) → (r.key + 64 ≤ c.chain ∨ c.chain + 64 ≤ r.key) →
            (l.key + 64 ≤ c.chain ∨ c.chain + 64 ≤ l.key) →
            z.raceAccess (c.who id) r 64 1 false = .ok y →
            ((y.putBytes r.key 64 (natOfDwords p.words) c.origin).release (c.who id) 4).engineStore (c.who id)
              { l with key := l.key + 8, addr := l.addr + 8 } (w 1 + 1) c.origin = .ok v →
            ∃ u, exec (.eventRecordPost n) s = .next u ∧ SMap.find u.posts n = none
              ∧ (∀ i, i < 8 → u.wordAt r.key i = p.words.getD i 0) ∧ u.wordAt l.key 1 = w 1 + 1
              ∧ (c.status < 16 → CommandGone u id c))))

namespace Sys2Proof.Stated

/-- Two regions of a tensor have bytes in common, counting of window regions every core, die and package they spread over. -/
def Overlap (t : Tensor) (a : Dword) (na : Nat) (b : Dword) (nb : Nat) : Prop :=
  let common (x m y n : Nat) : Prop := x < y + n ∧ y < x + m
  isWindow a = isWindow b
  ∧ (isWindow a = false → common a.toNat na b.toNat nb)
  ∧ (isWindow a = true → common (bits a 19 0) na (bits b 19 0) nb
      ∧ common (bits a 26 20) (2 ^ t.wcore) (bits b 26 20) (2 ^ t.wcore)
      ∧ common (bits a 29 27) (2 ^ t.wdie) (bits b 29 27) (2 ^ t.wdie)
      ∧ common (bits a 39 30) (2 ^ t.wpkg) (bits b 39 30) (2 ^ t.wpkg))

end Sys2Proof.Stated

/-- R329, R330, R336, R337: the checks of a relay request, in order: the first that fails gives the status. `fm` is the map
after every relay accepted before, `m` the map that the request leaves. -/
def Sys2Proof.Stated.RequestChecks : Prop :=
  ∀ (s : State) (T : Tensor) (q rows : List Dword),
    let w (i : Nat) : Dword := q.getD i 0
    let nr := bits (w 3) 2 0
    let fm := s.finalMap T
    let rate := if nr = 0 then fm.rate else nr - 1
    let base := if w 1 = 0 then fm.base else w 1
    let m : TMap := { rows := rows.map BitVec.toNat, base := base, rate := rate,
                      side := if rate = 0 ∨ rate = fm.rate then fm.side + (base - fm.base)
                        else base + BitVec.ofNat 64 (T.regionBytes rate) }
    let fails (n : Nat) : Prop := match n with
      | 1 => bits (w 3) 3 3 = 1 ∨ bits (w 3) 13 13 = 1 ∨ bits (w 3) 15 15 = 1 ∨ bits (w 3) 47 31 ≠ 0
          ∨ (∃ r ∈ rows, 2 ^ T.n ≤ r.toNat) ∨ T.n ≤ 4 ∧ 2 ^ (16 * T.n) ≤ (w 0).toNat
      | 2 => gfOps T.n m.rows = none
      | 3 => w 1 ≠ 0 ∧ (¬ ValidMap T m ∨ Overlap T base (T.regionBytes rate) fm.base (T.regionBytes fm.rate))
          ∨ w 1 = 0 ∧ rate ≠ fm.rate
      | 4 => ¬ WholeBlocks T m.rows rate ∨ nr ≠ 0 ∧ T.f.kind ≠ 0
      | 5 => 8 ≤ T.relays.length
      | _ => False
    (∀ n, 1 ≤ n → (s.relayStatus T q rows = n ↔ fails n ∧ ∀ j, j < n → ¬ fails j))
    ∧ (s.relayStatus T q rows = 0 ↔ ∀ j, ¬ fails j)

/-- R336, R337: `relay`: the status of a request, or a relay accepted behind those of its tensor. -/
def Sys2Proof.Stated.RelayRequests : Prop :=
  ∀ (d a b : BitVec 8) (s t : State) (key : Nat) (T : Tensor) (q rows : List Dword), Ready s [d, a, b] → Unlogged t →
    s.needPip s.setB = .ok () → s.liveTensor (s.pkgOf s.cur) (s.ctxOf s.cur) (s.readS a) = some (key, T) →
    s.relayRequest T (s.readS b) = .ok (q, rows, t) →
    let st := t.relayStatus T q rows
    (st ≠ 0 → exec (.relay d a b) s = puts t d (BitVec.ofNat 64 st))
    ∧ (st = 0 → ∃ u id c r o, exec (.relay d a b) s = .next u ∧ SMap.find u.cmds id = some c ∧ c.relay = some r
        ∧ r.tensor = key ∧ r.gen = T.gen ∧ r.rows = rows ∧ r.newBase = q.getD 1 0 ∧ r.phase = .accepted
        ∧ r.newRate = bits (q.getD 3 0) 2 0
        ∧ (u.chain (2 ^ 60 + key)).queue = (s.chain (2 ^ 60 + key)).queue ++ [id]
        ∧ u.tensor key = { T with relays := T.relays ++ [id] } ∧ u.mem = s.mem
        ∧ (d ≠ 63 → u.readS d = 0) ∧ (u.slot s.cur).pc = (s.slot s.cur).pc + 4
        ∧ ∃ n, c.app.op = some n ∧ SMap.find u.ops n = some o ∧ o.kind = .engine ∧ o.pip = s.setB)

/-- R338 to R341: a relay factors, checks a pass, runs it; with it the tensor has the pass's rows. That a pass reads and
writes everything in the step that completes it is the model's choice (log 54). -/
def Sys2Proof.Stated.RelayPasses : Prop :=
  ∀ (id : Nat) (c : Cmd) (r : RelayRun) (s t u : State) (p : Pass), SMap.find s.cmds id = some c → c.relay = some r →
    c.live = true →
    let T := s.tensor r.tensor
    let phase (x : State) (r' : RelayRun) : Prop := (x.cmd id).relay = some r'
    (r.phase = .factoring → T.relays.head? = some id →
      exec (.relayFactoringDone id) s
        = .next (s.setCmd id { c with relay := some { r with phase := .check, passes := T.passesOf r } }))
    ∧ (r.passes[r.done]? = some p →
      let M := T.after r p
      (r.phase = .check → c.entries = 0 → s.ctxRuns c.pkg c.ctx = true →
        s.walkPages id .read (T.passReads M) = .ok t → t.walkPages id .write (T.passDests M) = .ok u →
        (u.cmd id).entries = 0 → u.handleBusy r.tensor = false →
        ∃ w, exec (.relayPassStart id) s = .next w ∧ phase w { r with phase := .run }
          ∧ (w.tensor r.tensor).level = p.level ∧ (w.tensor r.tensor).rows = T.rows ∧ w.mem = s.mem)
      ∧ (∀ rd, r.phase = .run → c.entries = 0 → s.readAll id (T.passReads M) = .ok (rd, t) →
        let ws := T.passWrites M rd
        let c1 : Cmd := { c with bytes := c.bytes + spillBytes ws,
                                 status := if ws.any (fun w => w.poison.isSome) then 1 else c.status }
        (t.setCmd id c1).writeAll id ws = .ok u → (u.cmd id).spills = [] →
        ∃ w, exec (.relayPassComplete id) s = .next w ∧ phase w { r with phase := .check, done := r.done + 1 }
          ∧ w.mem = u.mem
          ∧ (w.tensor r.tensor).rows = (gfRun p.ops (T.rows.map BitVec.toNat)).map (BitVec.ofNat 64)
          ∧ (p.level ≠ 5 → (w.tensor r.tensor).base = T.base ∧ (w.tensor r.tensor).rate = T.rate)
          ∧ (p.level = 5 → (w.tensor r.tensor).rate = (if r.newRate = 0 then T.rate else r.newRate - 1)
              ∧ (w.tensor r.tensor).base = if r.newBase = 0 then T.base else r.newBase))
      ∧ (r.phase = .written → c.entries = 0 → c.spills = [] →
        ∃ w, exec (.relayPassComplete id) s = .next w ∧ phase w { r with phase := .check, done := r.done + 1 }
          ∧ w.mem = s.mem
          ∧ (w.tensor r.tensor).rows = (gfRun p.ops (T.rows.map BitVec.toNat)).map (BitVec.ofNat 64)))

namespace Sys2Proof.Stated

/-- A collective that passes every check of R391: the accesses of its lanes, and the operation it is. -/
def PeerForm (s : State) (d a b : BitVec 8) (g k : Nat) (F : Fmt) (i : Instr) (which : Nat) (reqs : List LaneReq) (o : Op) :
    Prop :=
  let own := if F.c = 64 then [d.toNat, d.toNat + 1] else [d.toNat]
  let ra := (if a.toNat < 224 then [a.toNat, a.toNat + 1] else []) ++ regsOf b 32
  let src := if which = 1 then [] else own
  let peer (l : Nat) : Word := s.vsrc b l
  let rop (l : Nat) : Nat := (peer l).toNat / 2 ^ 12 % 4
  let n := F.c / 8
  s.cur = .slot g k ∧ (i, which) ∈ [(Instr.vcput d a b, 0), (.vcget d a b, 1), (.vcred d a b, 2)]
  ∧ s.sf [0, 1, 2] = .ok F ∧ 8 ≤ F.c ∧ d.toNat < 224 ∧ (F.c = 64 → d.toNat % 2 = 0)
  ∧ (a.toNat < 224 ∧ a.toNat % 2 = 0 ∨ 240 ≤ a.toNat) ∧ s.portOk b = true
  ∧ s.needRegs (ra ++ own) = .ok () ∧ s.need (sregsOf a ++ sregsOf b ++ s.guardRegs) (ra ++ own) = .ok ()
  ∧ s.needClean (ra ++ src) s.memLanes = .ok () ∧ s.needPip s.setB = .ok ()
  ∧ (∀ l, l < 64 → s.active.getLsbD l = true → (peer l).toNat / 2 ^ 14 = 0 ∧ (peer l).toNat / 2 ^ 10 % 4 = 0
      ∧ (if which = 2 then rop l < 3 else rop l = 0) ∧ (which = 2 → F.kind = 0 → rop l = 0 → rmOf (modeOf s) ≠ 5))
  ∧ reqs = (lanesList s.memLanes).map (fun l =>
      { lane := l, va := s.vsrcPair a l, n := n, reg := d.toNat, data := s.elemOf d.toNat n l % 2 ^ F.c
        peer := (peer l).toNat % 2 ^ 10, op := rop l })
  ∧ (∀ r ∈ reqs, r.va.toNat % n = 0)
  ∧ o = { s.opHere s.setB (.collective which (sfRecord s) (modeOf s)) with pendV := if which = 1 then own else [] }

/-- The access of a collective. -/
def peerAccessOf (which : Nat) : AccKind := if which = 0 then .write else if which = 1 then .read else .rmw

/-- Memory after the lanes of a collective, in order: stores, nothing, or one step each. -/
def peersApplied (which : Nat) (F : Fmt) (md : ModeWord) (here : List (LaneReq × Loc)) (m : SMap Byte) : SMap Byte :=
  let opOf (r : LaneReq) : AtOp := if r.op = 0 then .add else if r.op = 1 then .min else .max
  if which = 0 then storedBy m here
  else if which = 1 then m
  else here.foldl (fun m x => Mem.write m x.2.key x.1.n (newCode (opOf x.1) F md (Mem.read m x.2.key x.1.n) x.1.data 0)) m

end Sys2Proof.Stated

/-- R391, R392: `vcput`, `vcget` and `vcred` at peers of the issuer's own package, in lane order; `vcred` is one indivisible
step a lane. -/
def Sys2Proof.Stated.CollectiveLanes : Prop :=
  ∀ (d a b : BitVec 8) (s : State) (g k : Nat) (F : Fmt) (i : Instr) (which : Nat) (reqs : List LaneReq)
    (here : List (LaneReq × Loc)) (t u : State) (o o1 : Op),
    PeerForm s d a b g k F i which reqs o → (∀ x ∈ here, s.away s.cur x.2 = false) →
    s.locate o (peerAccessOf which) reqs = .ok (here, [], t) → t.performPeers o here = .ok (o1, u) → o1.bad = none →
    ∃ v, exec i s = .next v ∧ AccessFrame s v ∧ here.map Prod.fst = reqs ∧ (∀ r, v.readS r = s.readS r)
      ∧ (v.slot s.cur).pc = (s.slot s.cur).pc + 4 ∧ v.mem = peersApplied which F (modeOf s) here s.mem
      ∧ (s.setB = none → if which = 1 then Filled s v here else (v.group g).regs = (s.group g).regs)
      ∧ (∀ p, s.setB = some p → (v.group g).regs = (s.group g).regs ∧ InFlight v p o.kind o.pendV)

/-- R388, R389, R391, R392: a collective some of whose peers are in other packages: what goes there is in flight and is
performed, in its order, as the operation completes; the other lanes perform at the issue. -/
def Sys2Proof.Stated.CollectivesSentAway : Prop :=
  (∀ (d a b : BitVec 8) (s : State) (g k : Nat) (F : Fmt) (i : Instr) (which : Nat) (reqs : List LaneReq)
    (here : List (LaneReq × Loc)) (t u : State) (o o1 : Op),
    PeerForm s d a b g k F i which reqs o → s.locate o (peerAccessOf which) reqs = .ok (here, [], t) →
    let near := here.filter fun x => !s.away s.cur x.2
    let away := here.filter fun x => s.away s.cur x.2
    away ≠ [] → t.performPeers o near = .ok (o1, u) →
    ∃ v n o', exec i s = .next v ∧ SMap.find v.ops n = some o' ∧ o'.agent = s.cur ∧ o'.kind = o.kind ∧ o'.pip = s.setB
      ∧ o'.entries = 0
      ∧ (o'.reqs.map fun r => (r.lane, r.key, r.n, r.data, r.op)) = (away.map fun x => (x.1.lane, x.2.key, x.1.n, x.1.data, x.1.op))
      ∧ (o1.bad = none → v.mem = peersApplied which F (modeOf s) near s.mem) ∧ (v.group g).regs = (s.group g).regs
      ∧ (s.setB = none → (v.slot s.cur).block = some (.op n)) ∧ (v.slot s.cur).pc = (s.slot s.cur).pc + 4)
  ∧ ∀ (n which : Nat) (entry : Dword) (md : ModeWord) (o o2 : Op) (s t : State) (g k : Nat),
    SMap.find s.ops n = some o → o.agent = .slot g k → o.kind = .collective which entry md → o.reqs ≠ [] → o.entries = 0 →
    o.tensor = none → o.cb = none → o.due = false → o.ends = none → o.bad = none → s.stopOf o.agent = none →
    (s.group g).regs.poison = [] → (s.group g).regs.lost = [] →
    let sent := o.reqs.map fun r => (r, r.loc)
    s.performPeers { o with reqs := [] } sent = .ok (o2, t) → o2.bad = none →
    ∃ u, exec (.collectiveComplete n) s = .next u ∧ SMap.find u.ops n = none
      ∧ (∀ p, o.pip = some p → (u.group g).hart.pip p = (s.group g).hart.pip p - 1)
      ∧ u.mem = peersApplied which (fmtOf entry) md sent s.mem
      ∧ (which ≠ 1 → (u.group g).regs = (s.group g).regs)
      ∧ (which = 1 → (o2.fills.map fun f => (f.1, f.2.1)).Nodup → ∀ f ∈ o2.fills, f.2.1 < 64 →
          (s.group g).regs.sliced.getLsbD (f.2.1 / 32) = false → ((u.group g).regs.reg f.1).getD f.2.1 0 = f.2.2)

/-- R351, R346, R347, R350: a trap in a group with a handler: the frame is written, the registers record it, the handler
starts; of two traps that wait the first is taken. -/
def Sys2Proof.Stated.TrapEntry : Prop :=
  ∀ (s u : State) (g : Nat) (t : TrapInfo) (r : Dword),
    let G := s.group g
    SMap.find s.groups g = some G → G.trap.pending = some t → G.trap.escalated = none → G.parked = 0 →
    s.spillBusy g = false → s.isStopped (.slot g 0) = false →
    let image := frameImage G t false
    -- what the frame holds
    (image.getD 0 0 = BitVec.ofNat 64 (t.cause + t.slot * 2 ^ 8) ∧ image.getD 1 0 = t.tpc ∧ image.getD 2 0 = t.addr
      ∧ image.getD 3 0 = t.det2 ∧ image.getD 4 0 = t.det3
      ∧ image.getD 5 0 = BitVec.ofNat 64 (t.word.toNat + G.hart.md.toNat * 2 ^ 32) ∧ image.getD 8 0 = t.done
      ∧ (t.slot = 0 → t.cause ≠ 16 → image.getD 10 0 = t.resume) ∧ image.getD 11 0 = G.slot0.own
      ∧ image.getD 12 0 = G.slot0.mask ∧ image.getD 13 0 = G.slot0.mp ∧ image.getD 17 0 = G.slot1.own
      ∧ image.getD 22 0 = G.exited ∧ (∀ i, i < 4 → image.getD (23 + i) 0 = SMap.get G.hart.sregs (56 + i) 0)
      ∧ ∀ j l, j < 8 → l < 32 → image.getD (32 + 32 * j + l) 0 = G.regs.lane j (2 * l + 1) ++ G.regs.lane j (2 * l))
    -- a handler is there
    ∧ (G.hart.handler = false → s.takeRecord g = some r → s.hwStore (s.groupWho g t.slot) r (blocks8 48 image) = .ok u →
      t.cause ≠ 16 → t.cause ≠ 17 → G.trap.traph ≠ 0 → (s.partSt G.partKey).trc.getLsbD 1 = false →
      ∃ v, exec (.trapEntry g) s = .next v ∧ v.mem = u.mem
        ∧ (v.group g).hart.handler = true ∧ (v.group g).hart.md = 0xA5 ∧ (v.group g).hart.sregs = G.hart.sregs
        ∧ (v.group g).regs = G.regs
        ∧ (v.group g).slot0 = { st := .run, pc := G.trap.traph &&& ~~~ 3, own := G.live, mask := G.live }
        ∧ (v.group g).slot1 = {}
        ∧ SMap.get (v.group g).hart.trap 0x41 0 = t.tpc ∧ SMap.get (v.group g).hart.trap 0x42 0 = r
        ∧ SMap.get (v.group g).hart.trap 0x43 0 = t.done ∧ SMap.get (v.group g).hart.trap 0x44 0 = t.addr
        ∧ SMap.get (v.group g).hart.trap 0x47 0 = t.word.setWidth 64
        ∧ (v.group g).trap.pending = none ∧ (v.group g).trap.record = some r)
    -- none is there, or one runs already
    ∧ (G.hart.handler = false → s.takeRecord g = some r → s.hwStore (s.groupWho g t.slot) r (blocks8 48 image) = .ok u →
      t.cause ≠ 16 → (t.cause = 17 ∨ G.trap.traph = 0) →
      ∃ v, exec (.trapEntry g) s = .next v ∧ (v.group g).trap.escalated
        = some { reason := if t.cause = 17 then 2 else 0, second := 0, frame := r })
    ∧ (G.hart.handler = true → ∃ v, exec (.trapEntry g) s = .next v ∧ (v.group g).trap.pending = none
        ∧ (v.group g).trap.escalated = some { reason := 1, second := t.cause, frame := G.trap.record.getD 0 })
    -- a second trap, while the first waits for its entry, is discarded; its word counts as not executed
    ∧ (∀ k (t' : TrapInfo), k < 2 →
        let v := s.takeTrap (.slot g k) t'
        (v.group g).trap.pending = some { t with done := t.done ||| t'.done } ∧ ((v.group g).slot k).block = none
        ∧ ((v.group g).slot k).pc = (G.slot k).pc ∧ ((v.group g).slot k).done = (G.slot k).done ||| t'.done ∧ v.mem = s.mem)

/-- R352, R364: `tret`, in a group from a valid frame, and on a system-class core. That a slot whose wave had published in
part goes on in it is the model's choice (log 90). -/
def Sys2Proof.Stated.TrapReturn : Prop :=
  ∀ (s : State) (img : Nat),
    (∀ g k, s.cur = .slot g k →
      let G := s.group g
      let word (i : Nat) : Dword := BitVec.ofNat 64 (img / 2 ^ (64 * i))
      let legal := G.hart.handler = true ∧ G.slot1.st = .free ∧ G.trap.phase ≠ .save
      (¬ legal → exec .tret s = traps s 1)
      ∧ (legal → s.frameHere g = .ok img → s.frameOk img = .ok false → exec .tret s = traps s 1)
      ∧ (legal → s.frameHere g = .ok img → s.frameOk img = .ok true → s.groupAccessInFlight = true →
          exec .tret s = waits s .drain)
      ∧ (legal → s.frameHere g = .ok img → s.frameOk img = .ok true → s.groupAccessInFlight = false →
          let u := s.count.resumeFrame g img
          exec .tret s = .next ((u.clearResumed g (word 0)).examined s.cur (s.slot s.cur).pc s.word)
          ∧ (u.group g).hart.handler = false ∧ (u.group g).hart.md = (word 5).extractLsb' 32 24
          ∧ (∀ i, i < 4 → SMap.get (u.group g).hart.sregs (56 + i) 0 = word (23 + i))
          ∧ (∀ l, l < 64 → ((u.group g).exited.getLsbD l = true ↔ G.exited.getLsbD l = true
              ∨ (G.items.getLsbD l = true ∧ (word 11).getLsbD l = false ∧ (word 17).getLsbD l = false)))
          ∧ (bits (word 14) 26 25 = 1 →
              let x := SMap.get G.trap.stood 0 {}
              let inWave := x.wave.isSome = true ∧ x.framed.pc = word 10 ∧ x.ripple = some (word 15)
              (u.group g).slot0.st = .run ∧ (u.group g).slot0.own = word 11 &&& ~~~ (u.group g).exited
              ∧ (u.group g).slot0.mp = word 13
              ∧ (¬ inWave → (u.group g).slot0.pc = word 10 ∧ (u.group g).slot0.wave = none)
              ∧ (inWave → (u.group g).slot0.pc = x.pc
                  ∧ (u.group g).slot0.wave = x.wave.map (· &&& ~~~ (u.group g).exited)))
          ∧ (bits (word 20) 26 25 = 0 → (u.group g).slot1 = {})
          ∧ (∀ j l, j < 8 → l < 64 → ((u.group g).regs.reg j).getD l 0 = BitVec.ofNat 32 (img / 2 ^ (8 * (0x100 + 256 * j + 4 * l))))
          ∧ (∀ j, 8 ≤ j → (u.group g).regs.reg j = G.regs.reg j) ∧ ((frameRegs G img).regs.lost = [] → u.mem = s.mem)))
    ∧ (∀ p q r, s.cur = .sys p q r →
      let K := s.core p q r
      let pc := SMap.get K.hart.trap 0x41 0
      let m := SMap.get K.hart.trap 0x48 0
      (K.hart.handler = false → exec .tret s = traps s 1)
      ∧ (K.hart.handler = true → s.accessInFlight = true → exec .tret s = waits s .drain)
      ∧ (K.hart.handler = true → s.accessInFlight = false → ∃ t, exec .tret s = .next t
          ∧ (t.core p q r).hart = { K.hart with handler := false, retired := K.hart.retired + 1 }
          ∧ (t.core p q r).slot.pc = pc &&& ~~~ 3 ∧ (t.core p q r).slot.pmode = (if m.getLsbD 24 then some (m.setWidth 24) else none)
          ∧ t.mem = s.mem ∧ t.groups = s.groups
          ∧ ∀ j, j ≠ coreKey p q r → SMap.find t.cores j = SMap.find s.cores j))

/-- R364, R224: a trap on a system-class core: SYSVEC, with the trap's registers, or a halt where it cannot be taken; the
deferred fault of a counted load is taken so. -/
def Sys2Proof.Stated.SystemCoreTraps : Prop :=
  ∀ (s : State) (p q r : Nat) (t : TrapInfo) (n b : Nat) (o : Op) (addr det2 : Dword),
    let K := s.core p q r
    let vec := SMap.get K.hart.trap 0x49 0
    let enters (u : State) (t : TrapInfo) : Prop :=
      let H := (u.core p q r).hart
      H.handler = true ∧ (u.core p q r).slot.pc = vec &&& ~~~ 3 ∧ (u.core p q r).slot.pmode = none
      ∧ SMap.get H.trap 0x40 0 = BitVec.ofNat 64 t.cause ∧ SMap.get H.trap 0x41 0 = t.resume
      ∧ SMap.get H.trap 0x44 0 = t.addr ∧ SMap.get H.trap 0x47 0 = t.word.setWidth 64 ∧ SMap.get H.trap 0x49 0 = vec
      ∧ H.sregs = K.hart.sregs ∧ H.md = K.hart.md ∧ u.mem = s.mem ∧ u.groups = s.groups
      ∧ ∀ j, j ≠ coreKey p q r → SMap.find u.cores j = SMap.find s.cores j
    (K.hart.handler = false → vec ≠ 0 → enters (s.takeTrap (.sys p q r) t) t)
    ∧ (K.hart.handler = true ∨ vec = 0 → s.takeTrap (.sys p q r) t = s.setCore p q r { K with halted := true })
    ∧ (s.dueOp (.sys p q r) = some (n, o) → o.bad = some (b, addr, det2) → K.stop = none → K.halted = false →
        K.hart.handler = false → vec ≠ 0 →
        ∃ u, exec (.systemCoreTrapEntry (.sys p q r)) s = .next u ∧ SMap.find u.ops n = none
          ∧ enters u { cause := 11, tpc := o.pc, resume := K.slot.pc, addr := addr, word := o.word })

/-- R354, R365, R370: escalation records, and the service's two replies. What the record of a suspension holds that has no
group is the model's choice (log 46). -/
def Obligations.Escalations : Prop :=
  ∀ (pkg g : Nat) (v : Dword) (s t : State) (x : Escalation) (l : Loc),
    let G := s.group g
    let P := s.pkg pkg
    let reg (n : Nat) : Dword := SMap.get P.srs n 0
    let va := reg 0x50 + BitVec.ofNat 64 (32 * ((reg 0x52).toNat % 128))
    (s.unposted pkg = some (g, G, x) → (reg 0x52 - reg 0x51).toNat < 128 → s.xlate (serviceWho pkg) va .write = (.at l, t) →
      l.key % 32 = 0 →
      ∃ u, exec (.escalationRecordPost pkg) s = .next u
        ∧ (∀ i, i < 4 → u.wordAt l.key i = [x.frame, G.identity,
            BitVec.ofNat 64 (x.reason * 2 ^ 16 + x.second % 256 * 2 ^ 8 + escCause G x), BitVec.ofNat 64 P.escSeq].getD i 0)
        ∧ SMap.get (u.pkg pkg).srs 0x52 0 = reg 0x52 + 1 ∧ (u.pkg pkg).escSeq = P.escSeq + 1
        ∧ (u.group g).trap.escalated = some { x with seq := some P.escSeq })
    -- a suspension that lacks room, with no group to stand for it
    ∧ (∀ c, s.unposted pkg = none → s.shortContext pkg = some c → (reg 0x52 - reg 0x51).toNat < 128 →
      s.xlate (serviceWho pkg) va .write = (.at l, t) → l.key % 32 = 0 →
      ∃ u, exec (.escalationRecordPost pkg) s = .next u
        ∧ (∀ i, i < 4 → u.wordAt l.key i = [0, BitVec.ofNat 64 c, 0x30010, BitVec.ofNat 64 P.escSeq].getD i 0)
        ∧ SMap.get (u.pkg pkg).srs 0x52 0 = reg 0x52 + 1 ∧ (u.ctx pkg c).short = some (some P.escSeq))
    ∧ (s.escalatedBy pkg v = some (g, G, x) →
      (bits v 49 48 = 0 → ∃ u, exec (.escalationReplyResume pkg v) s = .next u ∧ u.cur = s.cur
        ∧ (x.reason ≠ 3 → s.isStopped (.slot g 0) = true → (u.group g).trap.escalated = some { x with resuming := true })
        ∧ (x.reason ≠ 3 → s.isStopped (.slot g 0) = false → ∀ img,
            let s' : State := { s.setGroup g { G with trap := { G.trap with escalated := some { x with resuming := true } } } with
              cur := .slot g 0, word := 0 }
            s'.groupAccessInFlight = false → s'.hwLoadBlocks (s'.groupWho g 0) (G.trap.record.getD 0) 48 = .ok img →
            s'.frameOk img = .ok true → frameWord img 17 = 0 → bits (frameWord img 20) 26 25 = 0 → bits (frameWord img 14) 26 25 = 1 →
            frameWord img 11 &&& ~~~ G.exited ≠ 0 →
            (u.group g).trap.escalated = none ∧ (u.group g).hart.handler = false))
      ∧ (bits v 49 48 = 1 → ∃ u, exec (.escalationReplyEnd pkg v) s = .next u
        ∧ (u.group g).life = .draining ∧ (u.group g).slot0 = {} ∧ (u.group g).slot1 = {} ∧ (u.group g).live = 0
        ∧ (u.group g).trap.escalated = none ∧ (u.group g).trap.pending = none ∧ (u.group g).hart.handler = false))

/-- R355, R357 to R359: pre-emption: the request taken, `pdone`, the hardware's save and the save of a group that waits. A
save without a record or room escalates, which is the model's choice of how (log 46). -/
def Sys2Proof.Stated.Saves : Prop :=
  ∀ (g k : Nat) (s t u v : State) (r : Dword),
    let G := s.group g
    SMap.find s.groups g = some G →
    let free := G.parked = 0 ∧ G.trap.pending = none ∧ G.trap.escalated = none
    let pc := if G.slot0.st = .free then G.slot1.pc else G.slot0.pc
    let frame : TrapInfo := { cause := 16, tpc := pc, resume := 0, done := G.slot0.done ||| G.slot1.done }
    let saved (u : State) : Prop := (u.group g).life = .saved ∧ (u.group g).resident = G.resident + (s.cycle - G.placedAt)
      ∧ (u.group g).regs = G.regs
    (G.trap.request = true → G.trap.relaunching = false → s.groupDue g = false → s.isStopped (.slot g 0) = false → (G.life = .placed ∨ G.life = .running) →
      G.hart.handler = false → free → G.trap.preempth ≠ 0 → s.atPoint G = true →
      ∃ u, exec (.preemptionRequestTaken g) s = .next u ∧ u = s.takeTrap (.slot g 0) frame
        ∧ (s.spillBusy g = false → s.takeRecord g = some r →
            s.hwStore (s.groupWho g 0) r (blocks8 48 (frameImage G frame false)) = .ok t →
            (u.group g).trap.phase = .save ∧ (u.group g).trap.request = false ∧ (u.group g).trap.enteredAt = s.cycle
            ∧ (u.group g).slot0.pc = G.trap.preempth &&& ~~~ 3 ∧ (u.group g).hart.handler = true))
    ∧ (s.cur = .slot g k →
      (¬ (G.hart.handler = true ∧ G.trap.phase = .save) → exec .pdone s = traps s 1)
      ∧ (G.hart.handler = true → G.trap.phase = .save → s.classAInFlight g = true → exec .pdone s = waits s .drain)
      ∧ (G.hart.handler = true → G.trap.phase = .save → s.classAInFlight g = false →
          s.saveScalars g (G.trap.record.getD 0) = .ok t →
          ∃ u, exec .pdone s = .next u ∧ saved u ∧ u.mem = t.mem ∧ (u.group g).slot0 = {} ∧ (u.group g).slot1 = {}))
    ∧ (s.hwSaveDue g G = true → s.classAInFlight g = false → s.spillBusy g = false → s.takeRecord g = none →
      ∃ w, exec (.hardwareSave g) s = .next w
        ∧ (w.group g).trap.escalated = some { reason := 3, second := 0, frame := 0 })
    ∧ (s.hwSaveDue g G = true → s.classAInFlight g = false → s.spillBusy g = false → G.trap.phase ≠ .save →
      s.takeRecord g = some r →
      let s0 := s.setGroup g { G with trap := { G.trap with record := some r } }
      s0.hwStore (s0.groupWho g 0) r (blocks8 48 (frameImage G frame true)) = .ok t →
      t.saveScalars g r = .ok u → u.saveVectors g r = .ok v →
      ∃ w, exec (.hardwareSave g) s = .next w ∧ (w.group g).life = .saved ∧ (w.group g).trap.hwsave = true
        ∧ (w.group g).trap.request = false ∧ (w.group g).slot0 = {} ∧ (w.group g).slot1 = {}
        ∧ (w.group g).hart.handler = false ∧ (w.group g).trap.record = some r ∧ (w.group g).regs = G.regs)
    ∧ (G.life = .placed ∨ G.life = .running → G.trap.relaunching = false → s.isStopped (.slot g 0) = false → G.saveBlocked = true → free → s.classAInFlight g = false →
      3 * (s.ctxReg G.pkg G.hart.ctx 0x21).toNat < 2 * (s.cycle - G.blockedFrom) → s.takeRecord g = some r →
      let s0 := s.setGroup g { G with trap := { G.trap with record := some r } }
      s0.saveScalars g r = .ok t →
      ∃ u, exec (.waitSave g) s = .next u ∧ saved u ∧ u.mem = t.mem
        ∧ { (u.group g).slot0 with block := none } = { G.slot0 with block := none }
        ∧ { (u.group g).slot1 with block := none } = { G.slot1 with block := none })

/-- R127, R158, R284, R359, R365, R223, R361: relaunch, suspension and resumption of a context, and the errors of the stores.
The model's choices: what stands for a suspension that lacks room (logs 46, 77), the unit 0xFFF of an ECC error's origin
(log 49), a window that comes back (log 21). -/
def Sys2Proof.Stated.Suspension : Prop :=
  ∀ (g pref pkg ctx c k size : Nat) (s u v : State),
    let G := s.group g
    let C := s.ctx pkg ctx
    (SMap.find s.groups g = some G → s.relaunchable g = true → s.relaunchCore g pref = some (c, k) →
      (s.wg G.wg).saved = none → G.trap.phase ≠ .save → G.trap.hwsave = false →
      ∃ t, exec (.savedGroupRelaunch g pref) s = .next t
        ∧ t.group g = { G with life := .placed, core := (s.wg G.wg).core, gslot := k, placedAt := s.cycle, ahead := false,
                               trap := { G.trap with relaunching := false } }
        ∧ t.mem = s.mem)
    ∧ (C.suspended = false → C.suspending = false → ∃ t, exec (.contextSuspend pkg ctx) s = .next t
        ∧ t.ctx pkg ctx = { C with suspending := true }
        ∧ ∀ j x, SMap.find s.groups j = some x → SMap.find t.groups j = some
            (if x.pkg = pkg ∧ x.hart.ctx = ctx ∧ x.life ≠ .saved ∧ x.life ≠ .draining
              then { x with trap := { x.trap with request := true } } else x))
    ∧ (C.suspending = true → s.groupsLive pkg ctx = 0 → (∀ i y, (i, y) ∈ s.cmds → y.busyFor pkg ctx = false) →
        s.matrixBusy pkg ctx = false →
        let area := s.ctxReg pkg ctx 0x57
        let who := serviceWho pkg
        -- the save area has no room
        (area = 0 → ∀ x, s.firstGroup pkg ctx = some (g, x) → x.trap.escalated = none →
          ∃ t, exec (.suspensionComplete pkg ctx) s = .next t ∧ t.ctx pkg ctx = C
            ∧ (t.group g).trap.escalated = some { reason := 3, second := 0, frame := 0 })
        ∧ (area = 0 → s.firstGroup pkg ctx = none → C.short = none →
          exec (.suspensionComplete pkg ctx) s = .next (s.setCtx pkg ctx { C with short := some none }))
        -- it has: format entries 16 to 31, and the regions; the boards stay as they are
        ∧ (area ≠ 0 → s.hwLoad who (area + 0x90) 8 = .ok (size, u) →
          (Config.stateBytes (ctxKey pkg ctx) s.nextId).toNat ≤ size →
          s.hwStore who area (blocks8 2 ((List.range 16).map fun i => s.fmtRecord pkg ctx (16 + i))) = .ok v →
          ∃ t, exec (.suspensionComplete pkg ctx) s = .next t ∧ t.mem = v.mem
            ∧ (t.ctx pkg ctx).suspended = true ∧ (t.ctx pkg ctx).suspending = false ∧ (t.ctx pkg ctx).fmts = C.fmts
            ∧ (∀ i w b, SMap.find s.wgs i = some w → w.pkg = pkg → w.ctx = ctx → w.saved = none →
                s.coreSlice w.pkg w.die w.core w.base = some b →
                (t.wg i).saved = some ((List.range w.bytes).map fun j => Mem.byte v.mem (b + j)))
            ∧ (t.ctx pkg ctx).short = none ∧ t.boards = s.boards))
    ∧ (C.suspended = false → ∃ t, exec (.contextResume pkg ctx) s = .next t
        ∧ t.ctx pkg ctx = { C with suspending := false, suspended := false, short := none } ∧ t.mem = s.mem)
    ∧ (∀ x, C.suspended = true → s.hwLoadBlocks (serviceWho pkg) (s.ctxReg pkg ctx 0x57) 2 = .ok x →
        ∃ t, exec (.contextResume pkg ctx) s = .next t ∧ (t.ctx pkg ctx).suspended = false
          ∧ (t.ctx pkg ctx).suspending = false
          ∧ (∀ i, i < 16 → SMap.get (t.ctx pkg ctx).fmts (16 + i) 0 = BitVec.ofNat 64 (x / 2 ^ (64 * i)))
          -- a window that was taken from it comes back, where no other context has it
          ∧ (∀ n b, (n, b) ∈ C.boards → SMap.find (s.board (n / 4)).owners (n % 4) = none →
              SMap.find (t.board (n / 4)).owners (n % 4) = some ctx)
          ∧ (∀ n b, C.boards = [(n, b)] → SMap.find (s.board (n / 4)).owners (n % 4) = none →
              (s.board (n / 4)).triggers = [] → b.triggers = [] →
              (t.board (n / 4)).window (n % 4) = (s.board (n / 4)).window (n % 4) ||| b.window (n % 4)))
    ∧ (∀ reg lane, SMap.find s.groups g = some G → reg < 32 + 4 * G.regs.granules → lane < 64 →
        ∃ t, exec (.registerFileError g reg lane) s = .next t
          ∧ (t.group g).regs.v = G.regs.v
          ∧ (∀ q l, l < 64 → ((SMap.get (t.group g).regs.poison q 0).getLsbD l = true ↔
              (SMap.get G.regs.poison q 0).getLsbD l = true ∨ (q = reg ∧ l = lane))))
    ∧ (∀ key, let P := s.pkg (homeOf key).1
        let log (n : Nat) : Dword := SMap.get P.srs n 0
        let hit (x : State) : State :=
          { x with grans := SMap.put x.grans (key / 64) { origin := originOf 6 0 0xFFF, poisoned := true } }
        -- the log is full
        (1024 ≤ (log 0x56 - log 0x55).toNat → exec (.eccError key true) s = .next s ∧ exec (.eccError key false) s = .next (hit s))
        -- it has room
        ∧ (∀ l t corrected, (log 0x56 - log 0x55).toNat < 1024 →
            s.xlate (serviceWho (homeOf key).1) (log 0x54 + BitVec.ofNat 64 (64 * ((log 0x56).toNat % 1024))) .write = (.at l, t) →
            l.key / 64 ≠ key / 64 → l.key % 64 = 0 →
            ∃ u, exec (.eccError key corrected) s = .next u ∧ SMap.get (u.pkg (homeOf key).1).srs 0x56 0 = log 0x56 + 1
              ∧ u.gran key = (if corrected then s.gran key else { origin := originOf 6 0 0xFFF, poisoned := true })
              ∧ u.wordAt l.key 3 = (if corrected then 2 else 3) ∧ u.wordAt l.key 2 = s.eccWhere key
              ∧ ∀ j, j < l.key ∨ l.key + 64 ≤ j → Mem.byte u.mem j = Mem.byte s.mem j))

/-- R144 to R147, R126, R115, R150, R359, R387: one examination, of a package with one stream: its entry is placed on a core
on which it fits, or its turn passes. The model's choices: the core that `pref` picks among those on which it fits (log 2),
and the quantum counted in a turn in which nothing fits (log 47). -/
def Sys2Proof.Stated.Placement : Prop :=
  ∀ (pkg pref k : Nat) (s : State),
    let x := s.stream k
    -- the stream in its turn: with a turn a quantum set meanwhile comes into force
    let y : Stream := if x.turn then x
      else { x with quantum := x.due, next := none, deficit := x.deficit + 64 * (x.due : Int) }
    let exam : Instr := .distributorExamination pkg pref
    let idle : Prop := (s.pkg pkg).on = true ∧ s.gangHeld pkg = none ∧ (∀ f ∈ s.formed, f.2.waits = false)
      ∧ ∀ h ∈ s.groups, h.2.life ≠ .saved
    let only (e : Entry) : Prop := idle ∧ streamPkg k = pkg ∧ x.entries = [e] ∧ 0 < y.deficit
      ∧ ∀ level, level < 4 → s.rotation.filter (s.served pkg level) = if level = streamPrio k then [k] else []
    let need : Need := { groups := 1, bytes := 1024, level := streamPrio k }
    let on (n : Need) : Option Plan := pickPlan (s.coresOf pkg (List.range 8)) (fun d c => s.planOn pkg d c n) pref
    let passes (e : Entry) : Prop := ∃ t, exec exam s = .next t ∧ t = { s with streams := t.streams, rotation := t.rotation }
      ∧ t.stream k = { y with turn := false } ∧ t.rotation = s.rotation.erase k ++ [k] ∧ (t.stream k).entries = [e]
    -- a continuation record
    (∀ code frame join know, only (.cont code frame join know) →
      (∀ p, on need = some p → ∃ t g, exec exam s = .next t ∧ (t.stream k).entries = [] ∧ k ∉ t.rotation.filter (s.served pkg (streamPrio k))
        ∧ t.mem = s.mem ∧ (∀ j G, j < s.nextId → SMap.find s.groups j = some G → SMap.find t.groups j = some G)
        ∧ let G := t.group g
          G.life = .placed ∧ G.pkg = pkg ∧ G.die = p.die ∧ G.core = p.core ∧ G.part = 0 ∧ G.hart.ctx = streamCtx k
          ∧ G.slot0.st = .run ∧ G.slot0.pc = code &&& ~~~ 3 ∧ G.slot0.own = BitVec.allOnes 64 ∧ G.slot0.mask = BitVec.allOnes 64
          ∧ SMap.get G.hart.sregs 1 0 = frame ∧ SMap.get G.hart.sregs 2 0 = join)
      ∧ (on need = none → passes (.cont code frame join know)))
    -- the last workgroup of a launch
    ∧ (∀ id, only (.launch id) → let l := s.launch id; l.pkg = pkg → l.gang = 1 → l.persist = false →
      (∀ p, l.wgCount = l.placed + 1 → on (l.need id) = some p → ∃ t w, exec exam s = .next t ∧ (t.stream k).entries = []
        ∧ (t.launch id).placed = l.placed + 1 ∧ ((t.wg w).groups).length = l.extent 1
        ∧ ∀ i, i < l.extent 1 → let G := t.group ((t.wg w).groups.getD i 0)
          G.life = .placed ∧ G.pkg = pkg ∧ G.die = p.die ∧ G.core = p.core ∧ G.part = i % 4 ∧ G.hart.ctx = l.ctx
          ∧ G.slot0.pc = l.word 0 &&& ~~~ 3 ∧ G.slot0.own = lanesBelow (l.extent 0) ∧ G.slot0.mask = lanesBelow (l.extent 0)
          ∧ SMap.get G.hart.sregs 1 0 = l.args ∧ G.regs.granules = l.initg ∧ G.wid0 = l.wid0 l.placed i
          ∧ G.trap.traph = l.word 0x68 ∧ G.trap.preempth = l.word 0x70)
      ∧ (on (l.need id) = none → passes (.launch id)))
    -- suspended contexts, and a package without power
    ∧ (idle → (∀ j ∈ s.rotation, streamPkg j = pkg → (s.ctx pkg (streamCtx j)).suspending = true ∨ (s.ctx pkg (streamCtx j)).suspended = true) →
        exec exam s = .next s)
    ∧ ((s.pkg pkg).on = false → exec exam s = .next s)

/-- R30, R127, R147, R182: the release of a group. -/
def Sys2Proof.Stated.Releases : Prop :=
  ∀ (g : Nat) (s : State) (G : Group), SMap.find s.groups g = some G → G.life = .draining →
    let W := s.wg G.wg
    (G.hart.pipsZero = false ∨ G.parked ≠ 0 → exec (.groupRelease g) s = .next s)
    ∧ (G.hart.pipsZero = true → G.parked = 0 → ∃ t, exec (.groupRelease g) s = .next t
      ∧ SMap.find t.groups g = none ∧ (∀ j, j ≠ g → SMap.find t.groups j = SMap.find s.groups j) ∧ t.mem = s.mem
      ∧ (∀ id, W.launch = some id → (t.launch id).alive = (s.launch id).alive - 1)
      ∧ (∀ x, W.launch = none → SMap.find s.streams W.stream = some x →
          SMap.find t.streams W.stream = some { x with deficit := x.deficit - ((G.resident + (s.cycle - G.placedAt) : Nat) : Int) })
      ∧ (W.groups.erase g ≠ [] → t.wg G.wg = { W with groups := W.groups.erase g, left_ := W.left_ + G.regs.holding } ∧ t.units = s.units)
      ∧ (W.groups.erase g = [] → SMap.find t.wgs G.wg = none
        ∧ (∀ key i, W.saved = none → s.coreSlice W.pkg W.die W.core 0 = some key → i < unitsIn W.bytes →
            SMap.find t.units ((key - sliceBase) / 1024 + W.base / 1024 + i) = none)))

/-- R219 to R221: fault records are posted; a reply replays what waits, or rejects it. The model's choices: a word that parks
whole is issued again, and a save record waits likewise (log 41); a group that was to resume from a record that is rejected
ends (log 20). -/
def Obligations.FaultRecords : Prop :=
  ∀ (pkg i : Nat) (v : Dword) (e : FaultEntry) (l : Loc) (s t : State),
    let P := s.pkg pkg
    let reg (n : Nat) : Dword := SMap.get P.srs n 0
    let gid := e.gid.getD 0
    let gone := s.dropFaults (· == e)
    let freed := (gone.uncount e).unpark gid 1
    let G := s.group gid
    let back (x : Slot) : Slot := if G.parked ≤ 1 ∧ x.st ≠ .free then { x with atReturn := true } else x
    (s.toPost pkg = some (e, i) →
      (128 ≤ (reg 0x104 - reg 0x103).toNat → exec (.faultRecordPost pkg) s = .next s)
      ∧ ((reg 0x104 - reg 0x103).toNat < 128 →
          s.xlate (serviceWho pkg) (reg 0x102 + BitVec.ofNat 64 (32 * ((reg 0x104).toNat % 128))) .write = (.at l, t) →
          ∃ u, exec (.faultRecordPost pkg) s = .next u
            ∧ u.wordAt l.key 0 = e.va
            ∧ u.wordAt l.key 1 = BitVec.ofNat 64 (e.cause * 2 ^ 30 + e.kind.code * 2 ^ 28 + e.idx.getD 0 * 2 ^ 22
                + e.core % 128 * 2 ^ 15 + e.die % 8 * 2 ^ 12 + e.ctx % 64)
            ∧ u.wordAt l.key 2 = BitVec.ofNat 64 P.faultSeq ∧ u.wordAt l.key 3 = 0
            ∧ SMap.get (u.pkg pkg).srs 0x104 0 = reg 0x104 + 1 ∧ (u.pkg pkg).faultSeq = P.faultSeq + 1
            ∧ u.faults = s.faults.set i { e with seq := some P.faultSeq }
            ∧ ∀ j, j < l.key ∨ l.key + 32 ≤ j → Mem.byte u.mem j = Mem.byte s.mem j))
    -- a reply that names nothing
    ∧ (s.entryOf pkg v = none → exec (.faultReplyReplay pkg v) s = .next s ∧ exec (.faultReplyReject pkg v) s = .next s)
    -- the freed group has one parked access less, of a counted word its pip counts down, and all else is as it was
    ∧ ((e.pip = none → freed.group gid = { G with parked := G.parked - 1, slot0 := back G.slot0, slot1 := back G.slot1 })
        ∧ (∀ p g, e.pip = some p → e.gid = some g → (freed.group gid).hart.pip p = G.hart.pip p - 1
            ∧ (freed.group gid).parked = G.parked - 1)
        ∧ freed.mem = s.mem ∧ freed.ops = s.ops ∧ gone.groups = s.groups ∧ (∀ f ∈ gone.faults, ∃ h ∈ s.faults, h ≠ e ∧ f = { h with idx := f.idx }))
    -- ACTION 0
    ∧ (s.entryOf pkg v = some e → v.getLsbD 16 = false →
      (∀ w, e.held = .reissue w ∨ e.held = .record → exec (.faultReplyReplay pkg v) s = .next freed)
      ∧ (∀ dk o rest, e.held = .fence dk → (s.domino dk).queue = o :: rest → ∃ u, exec (.faultReplyReplay pkg v) s = .next u
          ∧ u.domino dk = { s.domino dk with queue := { o with fenceWaits := false } :: rest } ∧ u.mem = s.mem)
      ∧ (∀ id c, e.held = .command id → SMap.find s.cmds id = some c → c.posting = false → c.spills = [] →
          exec (.faultReplyReplay pkg v) s = .next (gone.setCmd id { c with entries := c.entries - 1 }))
      ∧ (∀ n reqs o o1 here u w, e.held = .lanes n reqs → SMap.find s.ops n = some o → o.kind = .load ∨ o.kind = .store →
          gone.locate { o with entries := o.entries - 1 } (if o.kind = .load then .read else .write) reqs = .ok (here, [], u) →
          (∀ y ∈ here, s.away o.agent y.2 = false) →
          u.performAll { o with entries := o.entries - 1 } here = .ok (o1, w) → (o.kind = .store → o1.bad = none) →
          ∃ x o', exec (.faultReplyReplay pkg v) s = .next x ∧ SMap.find x.ops n = some o'
            ∧ o'.entries = o.entries - 1 ∧ o'.fills = o1.fills ∧ o'.done = o1.done ∧ o'.stored = (o1.noted here).stored
            -- of two of its accesses to a byte the later stands (R212): none of the earlier replies stored
            ∧ (o.kind = .store → o.stored = [] → x.mem = storedBy s.mem here) ∧ (o.kind = .load → x.mem = s.mem)
            ∧ (∀ j, (∀ y ∈ here, j < y.2.key ∨ y.2.key + y.1.n ≤ j) → Mem.byte x.mem j = Mem.byte s.mem j)
            -- the group stays parked until the last of its data has come
            ∧ (1 < o.entries → (x.group gid).parked = G.parked - 1)
            ∧ (o.entries ≤ 1 → o'.holds = true ∧ (x.group gid).parked = G.parked)))
    -- ACTION 1
    ∧ (s.entryOf pkg v = some e → v.getLsbD 16 = true →
      (∀ w, e.held = .reissue w → (s.group gid).resuming = false → G.trap.relaunching = false →
        let x := (s.group gid).slot e.slot
        exec (.faultReplyReject pkg v) s = .next (freed.takeTrap (.slot gid e.slot)
          { cause := 6, tpc := x.pc, resume := x.pc, addr := e.va, word := w, slot := e.slot, done := x.done }))
      ∧ (∀ w, e.held = .reissue w ∧ (G.resuming = true ∨ G.trap.relaunching = true)
            ∨ e.held = .record ∧ e.pip = none ∧ G.resuming = true →
          exec (.faultReplyReject pkg v) s = .next (freed.endGroup gid))
      ∧ (e.held = .record → (s.group gid).resuming = false → ∃ u, exec (.faultReplyReject pkg v) s = .next u
          ∧ (u.group gid).trap.escalated = some
            { reason := 3, second := 0
              frame := if (s.group gid).trap.pending = none then ((s.group gid).trap.record).getD 0
                else (freed.takeRecord gid).getD 0 })
      ∧ (∀ n reqs o, e.held = .lanes n reqs → SMap.find s.ops n = some o → exec (.faultReplyReject pkg v) s = .next (s.endOp n o 6 e.va 0 0 [])
          ∧ (s.stopOf o.agent = none → SMap.find (s.endOp n o 6 e.va 0 0 []).ops n = none))
      ∧ (∀ dk o rest, e.held = .fence dk → (s.domino dk).queue = o :: rest → ∃ u, exec (.faultReplyReject pkg v) s = .next u
          ∧ u.domino dk = { s.domino dk with queue := { o with fenceWaits := false, dead := true } :: rest } ∧ u.mem = s.mem)
      ∧ (∀ id c, e.held = .command id → SMap.find s.cmds id = some c → c.posting = false →
          let back := gone.setCmd id { c with entries := c.entries - 1 }
          (c.relay = none → exec (.faultReplyReject pkg v) s = .next (back.haltCommand id 19 e.va 0))
          ∧ (∀ r p, c.relay = some r → r.phase = .written → r.passes[r.done]? = some p →
              exec (.faultReplyReject pkg v) s
                = .next (back.passBreaks id r p (c.spills.map fun w => (w.va, w.n)) 19 e.va 0)))
      ∧ (e.held = .walk → exec (.faultReplyReject pkg v) s = .next gone))

namespace Sys2Proof.Stated

/-- The ring of a trace record has room, nothing waits before the record and its writer has lost none: its header is
at h, its place at l. -/
def RingRoom (s : State) (r : RingRec) (h l : Nat) : Prop :=
  SMap.get s.rings (r.writer / 4) [] = [] ∧ SMap.get s.lost r.writer 0 = 0 ∧ r.stamp = false
  ∧ ∃ t x u, s.ringHeader r = some (h, t) ∧ (s.wordAt h 1 - s.wordAt h 0).toNat < 2 ^ bits (s.wordAt h 3) 4 0
    ∧ (s.wordAt h 2).toNat % 64 = 0
    ∧ t.xlate (ringWho (r.writer / 4) r.ctx) (s.wordAt h 2
        + BitVec.ofNat 64 (r.size * ((s.wordAt h 1).toNat % 2 ^ bits (s.wordAt h 3) 4 0))) .write = (.at x, u)
    ∧ x.key = l ∧ (l + r.size ≤ h ∨ h + 64 ≤ l)

/-- The trace record of a slot, as of a cycle (R376). -/
def slotRecord (s : State) (g k kind data0 : Nat) (d1 d2 : Dword) (cycle : Nat) : RingRec :=
  let G := s.group g
  let pkg := G.partKey / 4 / 2048
  { pkg := pkg, ctx := G.hart.ctx, stamp := false, writer := G.partKey
    words := [BitVec.ofNat 64 (cycle - (s.pkg pkg).onAt),
      traceWhere (G.partKey / 4) (G.partKey % 4) G.gslot k G.hart.ctx kind data0, d1, d2] }

end Sys2Proof.Stated

/-- R376, R397, R375: a trace record in its ring; `tmark`; the samples of a partition, which it takes as each cycle ends,
unless it is stopped, and writes one by one. That a sample of a cycle in which a slot of another context issued still names a
watched slot is log 59, that it is written in a later step log 2. -/
def Sys2Proof.Stated.Traces : Prop :=
  ∀ (s : State),
    (∀ r h l, RingRoom s r h l →
      let u := s.record r
      (∀ i, i < r.words.length → u.wordAt l i = r.words.getD i 0) ∧ u.wordAt h 1 = s.wordAt h 1 + 1
      ∧ (∀ j, (j < l ∨ l + r.size ≤ j) → (j < h + 8 ∨ h + 16 ≤ j) → Mem.byte u.mem j = Mem.byte s.mem j)
      ∧ u.groups = s.groups)
    ∧ (∀ (c a b : BitVec 8) g k, s.cur = .slot g k → Ready s [a, b] →
      let P := s.partSt (s.group g).partKey
      let watched : Prop := P.trc.getLsbD 2 = true ∧ P.ctx.toNat % 64 = (s.group g).hart.ctx
      (watched → exec (.tmark c a b) s
        = .next ((s.record (slotRecord s g k 2 c.toNat (s.readS a) (s.readS b) s.cycle)).retire))
      ∧ (¬ watched → exec (.tmark c a b) s = .next s.retire))
    ∧ (∀ (c a b : BitVec 8), OnCore s → Ready s [a, b] → exec (.tmark c a b) s = traps s 1)
    ∧ (∀ part, SMap.rising s.groups = true →
      let P := s.partSt part
      let period := P.trc.toNat / 2 ^ 8 % 32
      let stands (g k : Nat) : Prop := SMap.find s.groups g = some (s.group g) ∧ (s.group g).partKey = part ∧ (s.group g).resides = true
        ∧ k < 2 ∧ ((s.group g).slot k).st ≠ .free ∧ (s.group g).hart.ctx = P.ctx.toNat % 64
      let named (g k why at_ : Nat) : RingRec := slotRecord s g k 1 why ((s.group g).slot k).pc (s.group g).wid0 at_
      -- the cycles in which a sample is due
      (period = 0 → s.sampled part P = P)
      ∧ (period ≠ 0 → ∃ l : List Nat,
          l.Pairwise (· < ·)
          ∧ (∀ t, t ∈ l ↔ P.sampled < t ∧ P.sperAt < t ∧ t < s.cycle ∧ (t - P.sperAt) % 2 ^ period = 0)
          ∧ s.sampled part P = { P with
              sampled := s.cycle - 1
              samples := if P.stop ≠ none then P.samples else P.samples ++ l.filterMap (s.sampleOf part) })
      -- the sample of a cycle
      ∧ (∀ t, (∀ g k, ¬ stands g k) → s.sampleOf part t = none)
      ∧ (∀ t, (∃ g k, stands g k ∧ ((s.group g).slot k).lastIssue = t) →
          ∃ g k, stands g k ∧ ((s.group g).slot k).lastIssue = t ∧ s.sampleOf part t = some (named g k 0 t))
      ∧ (∀ t, (∃ g k, stands g k) → (∀ g k, stands g k → ((s.group g).slot k).lastIssue ≠ t) →
          ∃ g k, stands g k ∧ s.sampleOf part t = some (named g k (s.stallReason g k) t))
      -- its writing
      ∧ (P.samples = [] → exec (.traceSample part) s = .next s)
      ∧ (∀ r rest, P.samples = r :: rest →
          exec (.traceSample part) s = .next ((s.setPart part { P with samples := rest }).record r)))

/-- R396, R254: `wfe`, without a replay log, and its timeout; on a system-class core its return is an acquire, of what the
senders of the events it reports released. -/
def Sys2Proof.Stated.Waiting : Prop :=
  ∀ (n : BitVec 24) (s : State), Unlogged s →
    let H := s.hart s.cur
    let heard : State := match s.cur with
      | .sys p d c =>
        let told := ((List.range 64).filter fun bit => H.wake.getLsbD bit).foldl
          (fun x bit => clockJoin x (s.message (wakeMsg (coreKey p d c) bit))) []
        (s.learnAll [s.thread] told).acquire s.thread 4
      | .slot _ _ => s
    let timed : State := match s.cur with
      | .sys p d c => (s.learnAll [s.thread] (clockJoin [] (s.message (wakeMsg (coreKey p d c) 6)))).acquire s.thread 4
      | .slot _ _ => s
    let woken (x : State) (w : BitVec 16) : Answer := .next ((x.setHart s.cur { H with wake := 0, wakev := w.setWidth 64 }).retire)
    (H.wake ≠ 0 → exec (.wfe n) s = woken heard H.wake)
    ∧ (H.wake = 0 → (∀ u, (s.slot s.cur).block ≠ some (.wfe u)) →
        (n = 0 → exec (.wfe n) s = waits s (.wfe 0))
        ∧ (n ≠ 0 → exec (.wfe n) s = waits s (.wfe (s.cycle + 1024 * n.toNat))))
    ∧ (∀ u, H.wake = 0 → (s.slot s.cur).block = some (.wfe u) →
        (u ≠ 0 → u ≤ s.cycle → exec (.wfe n) s = woken timed 0x40)
        ∧ (u = 0 ∨ s.cycle < u → exec (.wfe n) s = waits s (.wfe u)))
    ∧ (∀ a u, (s.slot a).block = some (.wfe u) → (s.hart a).wake = 0 → u ≠ 0 → u ≤ s.cycle →
        exec (.wfeTimeout a) s = .next (s.setHart a { s.hart a with wake := 0x40 }))

/-- R374, R353: address comparators: which one matches, and what its firing does, at the step that would issue the word: the
group can issue it, it is no word of a wave, nothing holds it back, and it can be fetched. -/
def Sys2Proof.Stated.Comparators : Prop :=
  ∀ (g k i : Nat) (stop : Bool) (w : Word) (s t : State),
    let G := s.group g
    let x := G.slot k
    let P := s.partSt G.partKey
    let hit (i : Nat) : Prop := let c := SMap.get P.cmps i 0
      c.getLsbD 63 = true ∧ c.toNat / 4 % 2 ^ 55 = x.pc.toNat / 4 % 2 ^ 55 ∧ x.pc.toNat / 2 ^ 57 = 0
    (s.comparator g k = some (i, stop) ↔ x.clause ≠ none ∧ x.passed = false ∧ P.ctx.toNat % 64 = G.hart.ctx
      ∧ i < 4 ∧ hit i ∧ (∀ j, j < i → ¬ hit j) ∧ stop = (SMap.get P.cmps i 0).getLsbD 62)
    ∧ (s.canIssue (.slot g k) = true → x.wave = none → s.nothingHolds g = true → s.comparator g k = some (i, stop) →
      ({ s with cur := .slot g k } : State).fetchWord x.pc = .ok (w, t) →
      t.group g = G → t.partSt G.partKey = P →
      (stop = false → exec (.addressComparatorFire g k) s = .next { (({ t with word := w } : State).takeTrap (.slot g k)
          { cause := 14, tpc := x.pc, resume := x.pc, word := w, slot := k, done := x.done })
            with cur := s.cur, word := s.word })
      ∧ (stop = true → P.step = none → P.trc.getLsbD 1 = false → ∃ u, exec (.addressComparatorFire g k) s = .next u
          ∧ u.partSt G.partKey
            = { P with stop := some { code := 1, cmp := i, cycle := s.cyclesOf (G.partKey / 4 / 2048), at_ := s.cycle } }
          ∧ u.groups = t.groups ∧ u.mem = t.mem))
    ∧ (s.nothingHolds g = true ↔ (∀ e ∈ s.ops, sameHart e.2.agent (.slot g 0) = true → e.2.pendS = [] ∧ e.2.pendV = [])
        ∧ ∀ e ∈ G.hart.pips, e.2 < 63)

namespace Sys2Proof.Stated

/-- The management port serves a message of an operation: well formed, from a debug peer, with power, no STEP running
(R368, R369). -/
def Serves (s : State) (m : MaelubMsg) (op : Nat) : Prop :=
  m.w0.toNat % 2 ^ 16 = 0x4D4C ∧ bits m.w0 23 16 = 1 ∧ bits m.w0 31 24 = op ∧ bits m.w1 31 18 = 0
  ∧ bits m.w1 63 32 = m.payload.length ∧ (∃ p, SMap.find s.pkgs m.pkg = some p ∧ p.on = true ∧ m.src ∈ p.debugPeers) ∧ s.stepRuns m.pkg = false

/-- The reply to a Maelub message leaves, and all else is as in s (R369). -/
def replies (s : State) (m : MaelubMsg) (status : Nat) (payload : List Byte := []) : Answer :=
  .next { s with sent := { pkg := m.pkg, kind := 0, bytes := bytesOf [m.w0 ||| 0x80000000,
    BitVec.ofNat 64 (bits m.w1 31 0 + (4 + payload.length) * 2 ^ 32)] ++ bytesOfNat 4 status ++ payload } :: s.sent }

/-- The message is about a partition of a core that is there. -/
def OnPart (s : State) (m : MaelubMsg) (part : Nat) : Prop :=
  m.w1.getLsbD 17 = false ∧ (s.coreSlice m.pkg (bits m.w1 2 0) (bits m.w1 9 3) 0).isSome = true
  ∧ part = coreKey m.pkg (bits m.w1 2 0) (bits m.w1 9 3) * 4 + bits m.w1 11 10

/-- The message is about a system-class core that has started. -/
def OnSys (s : State) (m : MaelubMsg) (p d c : Nat) (K : SysCore) : Prop :=
  m.w1.getLsbD 17 = true ∧ m.sysAgent = .sys p d c ∧ SMap.find s.cores (coreKey p d c) = some K

end Sys2Proof.Stated

/-- R369 to R371: STOP, RUN, STEP and the end of a STEP that does not issue. -/
def Sys2Proof.Stated.DebugControl : Prop :=
  ∀ (m : MaelubMsg) (s : State) (part p d c : Nat) (K : SysCore),
    let P := s.partSt part
    let here : Stop := { code := 0, cycle := s.cyclesOf m.pkg, at_ := s.cycle }
    let header (code slots : Nat) : List Byte :=
      bytesOf [BitVec.ofNat 64 (s.cyclesOf m.pkg), BitVec.ofNat 64 code, BitVec.ofNat 64 slots, 0]
    let slots := (((s.groupsAt part).map fun e => e.2.gslot).eraseDups.map fun n => 2 ^ (n % 16)).sum
    let later (x : Slot) (y : Stop) : Slot :=
      { x with since := x.since + (s.cycle - max y.at_ x.since), lastIssue := x.lastIssue + (s.cycle - max y.at_ x.lastIssue)
               idleAt := x.idleAt + (s.cycle - max y.at_ x.idleAt), passed := true }
    let goesOn (u : State) (y : Stop) (step : Option StepRun) : Prop :=
      u.partSt part = { P with stop := none, step := step } ∧ u.mem = s.mem
      ∧ ∀ g G, SMap.find s.groups g = some G → SMap.find u.groups g = some (if G.partKey = part ∧ G.resides = true
          then { G with slot0 := later G.slot0 y, slot1 := later G.slot1 y } else G)
    (m.payload = [] → OnPart s m part → SMap.rising s.groups = true →
      (Serves s m 1 →
        (P.stop = none → P.trc.getLsbD 1 = false →
          exec (.maelubStop m) s = replies (s.setPart part { P with stop := some here, step := none }) m 0 (header 0 slots))
        ∧ (P.stop ≠ none → exec (.maelubStop m) s = replies s m 3))
      ∧ (Serves s m 2 →
        (∀ y, P.stop = some y → y.hold = [] → ∃ u, exec (.maelubRun m) s = replies u m 0 ∧ goesOn u y none)
        ∧ (P.stop = none → exec (.maelubRun m) s = replies s m 5))
      ∧ (Serves s m 3 →
        (P.stop = none → exec (.maelubStep m) s = replies s m 5)
        ∧ (∀ y g G, P.stop = some y → s.maelubGroup m part = some (g, G) →
          (y.hold = [] → (G.slot (bits m.w1 16 16)).st = .free → ∃ u, exec (.maelubStep m) s = replies u m 3
              ∧ u = { s with parts := u.parts } ∧ ∀ q, u.partSt q = s.partSt q)
          ∧ (y.hold = [] → (G.slot (bits m.w1 16 16)).st ≠ .free → ∃ u, exec (.maelubStep m) s = .next u
              ∧ goesOn u y (some { gid := g, k := bits m.w1 16 16, at_ := s.cycle, msg := m }) ∧ u.sent = s.sent))))
    ∧ (m.payload = [] → OnSys s m p d c K →
      (Serves s m 1 → K.stop = none → p = m.pkg →
        exec (.maelubStop m) s = replies (s.setCore p d c { K with stop := some here, step := none }) m 0 (header 0 0))
      ∧ (∀ y, Serves s m 2 → K.stop = some y → y.hold = [] →
        exec (.maelubRun m) s = replies (s.setCore p d c { K with stop := none, step := none, slot := later K.slot y }) m 0)
      ∧ (∀ y, Serves s m 3 → K.stop = some y → y.hold = [] → K.halted = false → K.waiting = false →
        exec (.maelubStep m) s
          = .next (s.setCore p d c { K with stop := none, step := some { at_ := s.cycle, msg := m }, slot := later K.slot y })))
    ∧ (m.w1.getLsbD 17 = false → s.coreSlice m.pkg (bits m.w1 2 0) (bits m.w1 9 3) 0 = none → m.payload = [] →
      (Serves s m 1 → exec (.maelubStop m) s = replies s m 2) ∧ (Serves s m 2 → exec (.maelubRun m) s = replies s m 2)
      ∧ (Serves s m 3 → exec (.maelubStep m) s = replies s m 2) ∧ (Serves s m 4 → exec (.maelubDump m) s = replies s m 2))
    ∧ (∀ pkg g k r, s.stepOverdue pkg = some (.slot g k) → (s.group g).partKey = part → P.step = some r → r.req = none →
        P.trc.getLsbD 1 = false → r.msg = m → m.pkg = part / 4 / 2048 →
        exec (.maelubStepTimeout pkg) s
          = replies (s.setPart part { P with stop := some { here with code := 5 }, step := none }) m 0 (header 5 slots))
    ∧ (∀ pkg, s.stepOverdue pkg = none → exec (.maelubStepTimeout pkg) s = .next s)

/-- R369, R372, R373: DUMP of a group of a stopped partition, and STATUS; the order of STATUS's bytes is log 64, the agent a
message to a system-class core names log 17. -/
def Sys2Proof.Stated.DebugReads : Prop :=
  ∀ (m : MaelubMsg) (s : State) (part g : Nat) (G : Group) (y : Stop),
    (Serves s m 4 → m.payload = [] → OnPart s m part →
      ((s.partSt part).stop = none → exec (.maelubDump m) s = replies s m 5)
      ∧ ((s.partSt part).stop = some y → s.maelubGroup m part = none → exec (.maelubDump m) s = replies s m 2)
      ∧ ((s.partSt part).stop = some y → s.maelubGroup m part = some (g, G) → s.group g = G →
          ∃ d : List Dword, ∃ n, exec (.maelubDump m) s = replies s m 0 (bytesOf d)
            ∧ d.getD 1 0 = G.wid0 ∧ d.getD 2 0 = G.exited ∧ d.getD 3 0 = G.hart.md.setWidth 64
            ∧ d.getD 6 0 = G.slot0.pc ∧ d.getD 7 0 = G.slot0.own ∧ d.getD 8 0 = G.slot0.mask ∧ d.getD 9 0 = G.slot0.mp
            ∧ d.getD 12 0 = G.slot1.pc ∧ d.getD 13 0 = G.slot1.own ∧ d.getD 14 0 = G.slot1.mask ∧ d.getD 15 0 = G.slot1.mp
            ∧ d.getD 18 0 = 0 ∧ d.getD 81 0 = G.slot0.mask
            ∧ (∀ i, 0 < i → i < 63 → d.getD (18 + i) 0 = SMap.get G.hart.sregs i 0)
            ∧ ((∀ j, (G.regs.bypass j).length = 64) → d.length = 178 + 2 * n + 32 * G.regs.held
              ∧ (∀ j l, j < G.regs.held → l < 32 →
                  d.getD (178 + 2 * n + 32 * j + l) 0 = G.regs.lane j (2 * l + 1) ++ G.regs.lane j (2 * l)))))
    ∧ (Serves s m 10 → m.payload = [] → ∃ l : List Byte, exec (.maelubStatus m) s = replies s m 0 l ∧ l.length = 736
      ∧ ∀ die core, die < 8 → core < 88 →
        let at_ := l.getD (90 * die + core) 0
        let key := coreKey m.pkg die core
        let stop (p : Nat) : Option Stop := (s.partSt (key * 4 + p)).stop
        (s.coreSlice m.pkg die core 0 = none → at_ = 2)
        ∧ ((s.coreSlice m.pkg die core 0).isSome = true →
          ((∃ p y, p < 4 ∧ stop p = some y ∧ y.code = 4) → at_ = 4)
          ∧ ((∀ p y, p < 4 → stop p = some y → y.code ≠ 4) → (∃ p, p < 4 ∧ stop p ≠ none) → at_ = 1)
          ∧ ((∀ p, p < 4 → stop p = none) →
              ((∃ e ∈ s.groups, e.2.resides = true ∧ coreKey e.2.pkg e.2.die e.2.core = key ∧ e.2.trap.escalated ≠ none) → at_ = 3)
              ∧ ((∀ e ∈ s.groups, e.2.resides = true → coreKey e.2.pkg e.2.die e.2.core = key → e.2.trap.escalated = none) →
                  at_ = 0))))
    ∧ (m.op = 0 ∨ 10 < m.op → Serves s m m.op → exec (.maelubStatus m) s = replies s m 1)
    -- from a source that is no debug peer
    ∧ (m.src ∉ (s.pkg m.pkg).debugPeers → exec (.maelubDump m) s = .next s ∧ exec (.maelubStop m) s = .next s
        ∧ exec (.maelubRun m) s = .next s ∧ exec (.maelubStep m) s = .next s ∧ exec (.maelubStatus m) s = .next s)

/-- R369, R371: RDMEM, WRMEM, RDSR, WRSR and WRREG. -/
def Sys2Proof.Stated.DebugAccess : Prop :=
  ∀ (m : MaelubMsg) (s : State) (part p d c g : Nat) (G : Group) (K : SysCore) (y : Stop),
    let va := m.num 0 8
    let n := m.num 10 2
    let physical : Prop := m.num 8 2 = 0xFFFF ∧ va + n ≤ 2 ^ 49 ∧ ∀ i, i < n → s.listed m.pkg ((va + i) / 2 ^ 39) = true
    (Serves s m 5 → m.payload.length = 12 →
      (n = 0 ∨ 1024 < n → exec (.maelubRdmem m) s = replies s m 1)
      ∧ (physical → 0 < n → n ≤ 1024 → ∃ st, exec (.maelubRdmem m) s = replies s m st ((List.range n).map fun i => Mem.byte s.mem (va + i))
          ∧ (st = 0 ↔ ∀ i, i < n → (s.gran (va + i)).poisoned = false) ∧ (st = 0 ∨ st = 4)))
    ∧ (Serves s m 6 → m.payload.length = 12 + n →
      (n = 0 ∨ 1024 < n → exec (.maelubWrmem m) s = replies s m 1)
      ∧ (physical → 0 < n → n ≤ 1024 → ∃ u, exec (.maelubWrmem m) s = replies u m 0 ∧ u = { s with mem := u.mem, grans := u.grans }
          ∧ (∀ i, i < n → Mem.byte u.mem (va + i) = m.payload.getD (12 + i) 0)
          ∧ (∀ i, (va + i) % 64 = 0 → i + 64 ≤ n → (u.gran (va + i)).poisoned = false)
          ∧ ∀ j, j < va ∨ va + n ≤ j → Mem.byte u.mem j = Mem.byte s.mem j))
    ∧ (OnSys s m p d c K →
      let there : State := { s with cur := .sys p d c }
      (Serves s m 7 → m.payload.length = 2 →
        (∀ v, there.srValue (m.num 0 2) = some v → exec (.maelubRdsr m) s = replies s m 0 (bytesOfNat 8 v.toNat))
        ∧ (there.srValue (m.num 0 2) = none → exec (.maelubRdsr m) s = replies s m 1))
      ∧ (Serves s m 8 → m.payload.length = 10 →
        (∀ t, there.srWrite (m.num 0 2) (BitVec.ofNat 64 (m.num 2 8)) = .ok t →
          exec (.maelubWrsr m) s = replies { t with cur := s.cur } m 0)
        ∧ (∀ x, there.srWrite (m.num 0 2) (BitVec.ofNat 64 (m.num 2 8)) = .error x → exec (.maelubWrsr m) s = replies s m 1))
      ∧ (Serves s m 9 → m.payload.length = 11 → K.stop = none → exec (.maelubWrreg m) s = replies s m 5))
    ∧ (Serves s m 9 → m.payload.length = 11 → OnPart s m part → (s.partSt part).stop = some y → s.maelubGroup m part = some (g, G) →
      s.group g = G →
      let cls := m.num 0 1
      let reg := m.num 1 1
      let lane := m.num 2 1
      let v : Dword := BitVec.ofNat 64 (m.num 3 8)
      let a : Agent := .slot g (bits m.w1 16 16)
      (3 ≤ cls → exec (.maelubWrreg m) s = replies s m 1)
      ∧ (cls = 0 → G.regs.held ≤ reg ∨ 64 ≤ lane → exec (.maelubWrreg m) s = replies s m 1)
      ∧ (cls = 0 → reg < G.regs.held → lane < 64 → s.writePending a false reg lane = false →
        G.regs.sliced.getLsbD (lane / 32) = false → G.regs.lost = [] →
        (SMap.get G.regs.poison reg 0).getLsbD lane = false →
          ∃ u, exec (.maelubWrreg m) s = replies u m 0
            ∧ ((u.group g).regs.reg reg).getD lane 0 = v.setWidth 32
            ∧ (∀ q l, l < 64 → ¬ (q = reg ∧ l = lane) → ((u.group g).regs.reg q).getD l 0 = (G.regs.reg q).getD l 0)
            ∧ (u.group g).hart = G.hart ∧ u.mem = s.mem)
      ∧ (cls = 1 → 64 ≤ reg → exec (.maelubWrreg m) s = replies s m 1)
      ∧ (cls = 1 → 0 < reg → reg < 63 → s.writePending a true reg 0 = false → ∃ u, exec (.maelubWrreg m) s = replies u m 0
          ∧ (∀ q, SMap.get (u.group g).hart.sregs q 0 = if q = reg then v else SMap.get G.hart.sregs q 0)
          ∧ (u.group g).regs = G.regs ∧ u.mem = s.mem)
      ∧ (cls = 0 ∧ reg < G.regs.held ∧ lane < 64
            ∧ (s.writePending a false reg lane = true ∨ G.regs.sliced.getLsbD (lane / 32) = true)
          ∨ cls = 1 ∧ reg < 64 ∧ s.writePending a true reg 0 = true → exec (.maelubWrreg m) s = replies s m 3)
      ∧ (cls = 2 → modeOk (v.setWidth 24) = true → ∃ u, exec (.maelubWrreg m) s = replies u m 0
          ∧ (u.group g).hart = { G.hart with md := v.setWidth 24 } ∧ u.mem = s.mem)
      ∧ (cls = 2 → modeOk (v.setWidth 24) = false → exec (.maelubWrreg m) s = replies s m 1))

namespace Sys2Proof.Stated

/-- The resident service of the request's package runs, and the request is of this operation, with the MAGIC of a request,
from a peer that the service serves, at one of the 8 ports, and its turn has come on its flow (R3, R399). -/
def Received (s : State) (r : Req) (op : Nat) : Prop :=
  r.op.toNat = op ∧ r.magic = 0x5152 ∧ r.port < 8 ∧ ∃ p, SMap.find s.pkgs r.pkg = some p ∧ p.on = true ∧ p.booted = true
    ∧ r.src ∈ p.peers ∧ ∀ f n, r.flow = some (f, n) → SMap.get p.flows f 0 = n

/-- The header is well formed: VERSION 1, reserved bits zero (R399). -/
def HeaderRight (r : Req) : Prop := r.version = 1 ∧ r.reserved = 0

/-- Such a request, its header well formed. -/
def Heard (s : State) (r : Req) (op : Nat) : Prop := Received s r op ∧ HeaderRight r

/-- The request carries the key of a context that is open on its package. -/
def Keyed (s : State) (r : Req) : Prop :=
  0 < r.ctx ∧ r.ctx < 64 ∧ (s.ctx r.pkg r.ctx).opened = true ∧ (s.ctx r.pkg r.ctx).key = r.key

/-- A request that is served for its context. -/
def Asked (s : State) (r : Req) (op : Nat) : Prop := Heard s r op ∧ Keyed s r

/-- What follows on a flow has its turn: the request r is served, or its wait begins (R399, log 65). -/
def turned (s : State) (r : Req) : State :=
  match r.flow with
  | none => s
  | some (f, n) => s.setPkg r.pkg { s.pkg r.pkg with flows := SMap.set (s.pkg r.pkg).flows f (n + 1) 0 }

/-- The reply leaves: MAGIC, VERSION 1, OP | 0x80, TAG, CTX and KEY, ADDR, LEN, results, STATUS, payload (R399); the next
request of its flow has its turn; all else is as in s. -/
def answersFor (s : State) (r : Req) (status ctx : Nat) (key : BitVec 58) (a0 a1 : Dword) (payload : List Byte) : Answer :=
  let head : List Dword := [BitVec.ofNat 64 (0x5152 + 2 ^ 16 + (r.op.toNat ||| 0x80) * 2 ^ 24 + r.tag.toNat * 2 ^ 32),
    BitVec.ofNat 64 (ctx % 64 + key.toNat * 64), r.addr, BitVec.ofNat 64 payload.length, a0, a1, 0, BitVec.ofNat 64 status]
  let x : Sent := { pkg := r.pkg, kind := 2, bytes := bytesOf head ++ payload }
  .next { turned s r with sent := x :: (turned s r).sent }

def answers (s : State) (r : Req) (status : Nat) (a0 : Dword := 0) (a1 : Dword := 0) (payload : List Byte := []) : Answer :=
  answersFor s r status r.ctx r.key a0 a1 payload

/-- The packages of a request's context that have power. -/
def members (s : State) (r : Req) : List Nat := (s.ctx r.pkg r.ctx).members.filter s.powered

end Sys2Proof.Stated

/-- R399, R400, R402: who is answered: a malformed header; no request but OPEN without its context's key, DEBUG among them
(log 65); an unknown OP; and how a request comes into the ring. -/
def Sys2Proof.Stated.RequestProtocol : Prop :=
  ∀ (r : Req) (s : State),
    (∀ i op, (i, op) ∈ [(Instr.reqClose r, 2), (.reqMap r, 3), (.reqUnmap r, 4), (.reqLoad r, 5), (.reqQueue r, 6),
        (.reqLaunch r, 7), (.reqRead r, 8), (.reqWrite r, 9), (.reqFmt r, 10), (.reqReserve r, 11), (.reqSuspend r, 12),
        (.reqDebug r, 13), (.reqWait r, 14), (.reqSlice r, 15), (.reqBoard r, 16), (.reqQuantum r, 17)] →
      -- another source, another MAGIC, not its turn
      (¬ Received s r op → exec i s = .next s)
      ∧ (Received s r op → ¬ HeaderRight r → exec i s = answers s r 1)
      ∧ (Heard s r op → ¬ Keyed s r → (op = 13 → 16 ≤ r.payload.length
            ∧ natOfBytes ((r.payload.drop 12).take 4) ≤ r.payload.length - 16) → exec i s = answers s r 3))
    ∧ ((∀ op, ¬ Received s r op) → exec (.reqOpen r) s = .next s)
    ∧ (∀ op, Received s r op → op ≤ 1 ∨ 0x11 < op → ¬ HeaderRight r → exec (.reqOpen r) s = answers s r 1)
    ∧ (∀ op, Heard s r op → op = 0 ∨ 0x11 < op → exec (.reqOpen r) s = answers s r 2)
    ∧ (∀ pkg src port bytes P, SMap.find s.pkgs pkg = some P → P.on = true → P.waitingReqs = [] →
      let w := natOfBytes (bytes.take 8)
      let reg (n : Nat) : Dword := SMap.get P.srs n 0
      let full : Prop := 256 ≤ (reg 0x184 - reg 0x183).toNat
      let va := (reg 0x182).toNat + 4096 * ((reg 0x184).toNat % 256)
      let put : Instr := .requestSlotWrite { pkg := pkg, src := src, port := port } bytes
      (bytes.length < 64 ∨ w % 2 ^ 16 ≠ 0x5152 ∨ w / 2 ^ 24 % 256 = 8 ∨ w / 2 ^ 24 % 256 = 9 ∨ src ∉ P.peers ∨ 8 ≤ port →
        (full → exec put s = .next (s.setPkg pkg P)) ∧ (¬ full → exec put s = .next s))
      ∧ (64 ≤ bytes.length → w % 2 ^ 16 = 0x5152 → w / 2 ^ 24 % 256 ≠ 8 → w / 2 ^ 24 % 256 ≠ 9 → src ∈ P.peers → port < 8 →
        (full → exec put s = .next (s.setPkg pkg { P with waitingReqs := [(port, bytes)] }))
        ∧ (¬ full → bytes.length ≤ 4096 → va + 4096 ≤ 2 ^ 36 → (s.ctx pkg 0).direct = true → s.underReplay pkg 0 = false →
            s.recording pkg 0 = false → ∃ u, exec put s = .next u
              ∧ (∀ i, i < bytes.length → Mem.byte u.mem (pkg * 2 ^ 39 + va + i) = bytes.getD i 0)
              ∧ (∀ j, j < pkg * 2 ^ 39 + va ∨ pkg * 2 ^ 39 + va + bytes.length ≤ j → Mem.byte u.mem j = Mem.byte s.mem j)
              ∧ (va % 64 = 0 → u.gran (pkg * 2 ^ 39 + va) = (s.gran (pkg * 2 ^ 39 + va)).written true (originOf 3 0 port))
              ∧ SMap.get (u.pkg pkg).srs 0x184 0 = reg 0x184 + 1 ∧ u.groups = s.groups)))

/-- R400, R401: OPEN and CLOSE, and what a package list names. -/
def Sys2Proof.Stated.Contexts : Prop :=
  ∀ (r : Req) (s : State),
    (Heard s r 1 →
      (packageList r.arg0 r.payload = none → exec (.reqOpen r) s = answers s r 1)
      ∧ (∀ l, packageList r.arg0 r.payload = some l →
        let free (c : Nat) : Prop := 0 < c ∧ c < 64 ∧ ∀ p ∈ l, (s.ctx p c).opened = false
        (s.reachable r.pkg l = false ∨ (∀ c, ¬ free c) → exec (.reqOpen r) s = answers s r 4)
        ∧ (∀ c u, s.reachable r.pkg l = true → free c → (∀ k, k < c → ¬ free k) →
            ({ s with free := s.free + 1 } : State).onAll (fun x p => x.openOn c (Config.contextKey s.free) l p) l = some u →
            exec (.reqOpen r) s = answersFor u r 0 c (Config.contextKey s.free) 0 0 []
            ∧ ∀ p ∈ l, ∃ root, u.ctx p c
                = { opened := true, key := Config.contextKey s.free, members := l, root := root })))
    ∧ (Asked s r 2 → ∃ u, exec (.reqClose r) s = answers u r 0 ∧ u.mem = s.mem
        ∧ ∀ p ∈ members s r, SMap.find u.ctxs (p * 64 + r.ctx) = none
          ∧ (∀ e ∈ u.groups, ¬ (e.2.pkg = p ∧ e.2.hart.ctx = r.ctx))
          ∧ (∀ e ∈ u.units, ¬ (e.1 / 2 ^ 20 = p ∧ e.2.ctx = r.ctx)))
    ∧ (∀ (v : Dword) (l : List Byte),
      (v.getLsbD 63 = false →
        packageList v l = (if v.toNat / 2 ^ 26 = 0 ∧ v.toNat / 2 ^ 10 % 64 = 0 ∧ v.toNat % 2 ^ 10 + v.toNat / 2 ^ 16 % 2 ^ 10 ≤ 1023
          then some ((List.range (v.toNat / 2 ^ 16 % 2 ^ 10 + 1)).map (v.toNat % 2 ^ 10 + ·)) else none))
      ∧ (∀ ps, v.getLsbD 63 = true → packageList v l = some ps → ps.Nodup ∧ ps.length = v.toNat / 2 ^ 32 % 2 ^ 16
          ∧ ∀ i, i < ps.length → ps.getD i 0 < 1024
            ∧ ps.getD i 0 = natOfBytes ((l.drop (v.toNat % 2 ^ 32 + 2 * i)).take 2)))

/-- R400, R214, R218: MAP and UNMAP of one page of a context on one package whose tables reach it, the page from any package
of the domain; LOAD. -/
def Sys2Proof.Stated.Mappings : Prop :=
  ∀ (r : Req) (s t : State) (p k page : Nat),
    let va := r.addr.toNat
    let home := r.arg1.toNat
    let owner := if home = p then r.ctx else foreignOwner (s.ctx r.pkg r.ctx) r.ctx
    let sound : Prop := va % 2 ^ 16 = 0 ∧ r.len.toNat % 2 ^ 16 = 0 ∧ r.len ≠ 0 ∧ va + r.len.toNat ≤ 2 ^ 57
    let flushed (u : State) : Prop := ∀ e, e ∈ u.buffered ↔ e ∈ s.buffered ∧
      ¬ (e.1 / 2 ^ 41 = p * 64 + r.ctx
        ∧ e.1 % 2 ^ 41 * 2 ^ 16 / 2 ^ levelShift e.2.level * 2 ^ levelShift e.2.level < va + 2 ^ 16
        ∧ va < e.1 % 2 ^ 41 * 2 ^ 16 / 2 ^ levelShift e.2.level * 2 ^ levelShift e.2.level + 2 ^ levelShift e.2.level)
    let one : Prop := sound ∧ r.len.toNat = 2 ^ 16 ∧ members s r = [p] ∧ s.leafPlace (s.rootOf p r.ctx) va 3 = some k
    (Asked s r 3 →
      (¬ sound ∨ r.arg0 &&& ~~~ 0x5C ≠ 0 ∨ 16 ≤ r.arg2.toNat → exec (.reqMap r) s = answers s r 1)
      ∧ (sound → r.arg0 &&& ~~~ 0x5C = 0 → r.arg2.toNat < 16 → s.reachable r.pkg [home] = false →
          exec (.reqMap r) s = answers s r 4)
      ∧ (one → r.arg0 &&& ~~~ 0x5C = 0 → r.arg2.toNat < 16 → 8 ≤ r.arg2.toNat → s.reachable r.pkg [home] = true →
        (s.givePages home (r.arg2.toNat % 8) owner 1 = none → exec (.reqMap r) s = answers s r 4)
        ∧ (s.givePages home (r.arg2.toNat % 8) owner 1 = some ([page], t) → ∃ u, exec (.reqMap r) s = answers u r 0
            ∧ page / 2 ^ 20 = home * 8 + r.arg2.toNat % 8 ∧ SMap.find (s.pkg home).pages page = none
            ∧ SMap.find (u.pkg home).pages page = some owner
            ∧ u.mem = Mem.write s.mem k 8 (page * 2 ^ 16 + r.arg0.toNat + 3) ∧ flushed u)))
    ∧ (Asked s r 4 →
      (¬ sound → exec (.reqUnmap r) s = answers s r 1)
      ∧ (one → s.bytesAt k 8 % 2 = 1 → ∃ u, exec (.reqUnmap r) s = answers u r 0
          ∧ u.mem = Mem.write s.mem k 8 0 ∧ flushed u
          ∧ let page := s.bytesAt k 8 % 2 ^ 49 / 2 ^ 16
            SMap.find (u.pkg (page / 2 ^ 23)).pages page = none))
    ∧ (Asked s r 5 →
      (s.portRead (portWho r.pkg r.ctx) r.addr r.len.toNat = none → exec (.reqLoad r) s = answers s r 6)
      ∧ (∀ image, s.portRead (portWho r.pkg r.ctx) r.addr r.len.toNat = some (image, t) →
        (Config.loadImage image = none → exec (.reqLoad r) s = answers s r 1)
        ∧ (∀ sections launches, Config.loadImage image = some (sections, launches) →
          (t.onAll (fun x p => x.placeSections p r.ctx sections) (members s r) = none → exec (.reqLoad r) s = answers s r 6)
          ∧ (∀ u, t.onAll (fun x p => x.placeSections p r.ctx sections) (members s r) = some u →
              exec (.reqLoad r) s = answers u r 0 0 0 (bytesOf launches)))))

/-- R400: QUEUE, LAUNCH, WAIT and QUANTUM. -/
def Sys2Proof.Stated.WorkRequests : Prop :=
  ∀ (r : Req) (s t : State) (l : Launch) (pkgs : List Nat),
    let j := r.arg2.toNat
    (Asked s r 6 →
      (r.arg0 &&& ~~~ 0x13F ≠ 0 ∨ 16 ≤ r.arg1.toNat ∨ 65536 < r.arg2.toNat → exec (.reqQueue r) s = answers s r 1)
      ∧ (r.arg0 &&& ~~~ 0x13F = 0 → r.arg1.toNat < 16 → r.arg2.toNat ≤ 65536 → ∃ u, exec (.reqQueue r) s = answers u r 0
          ∧ ∀ p ∈ members s r, SMap.find (u.ctx p r.ctx).queues (r.arg0.toNat % 64 + 64 * (r.arg0.toNat / 2 ^ 8 % 2))
              = some { cap := if r.arg2 = 0 then 1024 else r.arg2.toNat, prios := r.arg1.setWidth 4 }))
    ∧ (Asked s r 7 →
      (packageList r.arg1 r.payload = none → exec (.reqLaunch r) s = answers s r 1)
      ∧ (packageList r.arg1 r.payload = some pkgs →
        (¬ (3 ≤ j ∧ j ≤ 5) → exec (.reqLaunch r) s = answers s r 1)
        ∧ (3 ≤ j → j ≤ 5 →
          (s.reachable r.pkg pkgs = false → exec (.reqLaunch r) s = answers s r 4)
          ∧ (s.reachable r.pkg pkgs = true → s.readHeader r = none → exec (.reqLaunch r) s = answers s r 6)
          ∧ (s.reachable r.pkg pkgs = true → s.readHeader r = some (l, t) →
            let at_ (k : Nat) : Launch := { l with pkg := pkgs.getD k 0, part := some (j, k) }
            (l.extent j ≠ pkgs.length → exec (.reqLaunch r) s = answers s r 1)
            ∧ (∀ k, l.extent j = pkgs.length → k < pkgs.length → t.headerStatus (at_ k) ≠ 0 →
                (∀ i, i < k → t.headerStatus (at_ i) = 0) →
                exec (.reqLaunch r) s
                  = answers s r 5 (BitVec.ofNat 64 (t.headerStatus (at_ k))) (BitVec.ofNat 64 k))
            ∧ (l.extent j = pkgs.length → pkgs.Nodup → pkgs ≠ [] → (∀ k, k < pkgs.length → t.headerStatus (at_ k) = 0) →
                let number := (s.ctx (pkgs.headD 0) r.ctx).lseq + 1
                ∃ u, exec (.reqLaunch r) s = answers u r 0 (BitVec.ofNat 64 number)
                  ∧ SMap.find (u.pkg r.pkg).numbers (r.ctx * 2 ^ 64 + number)
                    = some (pkgs.map fun p => (p, (s.ctx p r.ctx).lseq + 1))
                  ∧ ∀ k, k < pkgs.length → let p := pkgs.getD k 0
                    let q := streamKey p r.ctx l.queue l.prio
                    (u.ctx p r.ctx).lseq = (s.ctx p r.ctx).lseq + 1
                    ∧ ∃ id, (u.stream q).entries = (s.stream q).entries ++ [.launch id]
                      ∧ (u.launch id).header = l.header ∧ (u.launch id).args = r.arg0 ∧ (u.launch id).part = some (j, k)
                      ∧ (u.launch id).alive = (at_ k).groupCount ∧ (u.launch id).placed = 0)))))
    ∧ (Asked s r 14 →
      let n := r.ctx * 2 ^ 64 + r.arg0.toNat
      (SMap.find (s.pkg r.pkg).numbers n = none → exec (.reqWait r) s = answers s r 1)
      ∧ (∀ x, SMap.find (s.pkg r.pkg).numbers n = some x →
        let past : Prop := ∀ y ∈ x, s.launchOver y.1 r.ctx y.2 = true
        (past → exec (.reqWait r) s = answers s r 0)
        ∧ (¬ past → exec (.reqWait r) s = .next (turned (s.setPkg r.pkg
            { s.pkg r.pkg with waits := (s.pkg r.pkg).waits ++ [{ req := r, launches := x }] }) r))))
    ∧ (∀ k P w, SMap.find s.pkgs k = some P → w ∈ P.waits → s.waitOver w = true →
        { pkg := k, kind := 2, bytes := reqReply w.req 0 w.req.ctx w.req.key 0 0 [] } ∈ s.answerWaits.sent)
    ∧ (Asked s r 17 →
      (2 ^ 15 ≤ r.arg0.toNat ∨ 2 ^ 40 < r.arg1.toNat → exec (.reqQuantum r) s = answers s r 1)
      ∧ (r.arg0.toNat < 2 ^ 15 → r.arg1.toNat ≤ 2 ^ 40 → ∃ u, exec (.reqQuantum r) s = answers u r 0
          -- in force from the stream's next turn on (R387)
          ∧ ∀ p ∈ members s r,
              let q := streamKey p r.ctx (64 * (r.arg0.toNat / 2 ^ 6 % 2) + r.arg0.toNat / 2 ^ 7 % 64) (r.arg0.toNat / 2 ^ 13 % 4)
              u.stream q = { s.stream q with next := some (if r.arg1 = 0 then 2 ^ 20 else r.arg1.toNat) }))

/-- R400, R222: READ, WRITE, FMT and DEBUG. -/
def Sys2Proof.Stated.RequestedData : Prop :=
  ∀ (r : Req) (s t : State),
    let w := portWho r.pkg r.ctx
    let n := r.len.toNat
    (Asked s r 8 →
      (s.portRead w r.addr n = none → exec (.reqRead r) s = answers s r 6)
      ∧ (∀ l, s.portRead w r.addr n = some (l, t) → exec (.reqRead r) s = answers t r 0 0 0 l)
      ∧ (∀ L : Nat → Loc, (∀ i, i < n → s.xlate w (r.addr + BitVec.ofNat 64 i) .read = (.at (L i), s)
            ∧ (s.gran (L i).key).poisoned = false) →
          exec (.reqRead r) s = answers s r 0 0 0 ((List.range n).map fun i => Mem.byte s.mem (L i).key)))
    ∧ (Asked s r 9 →
      (n ≠ r.payload.length → exec (.reqWrite r) s = answers s r 1)
      ∧ (n = r.payload.length → s.portArrival r.pkg r.ctx r.port r.addr r.payload = none → exec (.reqWrite r) s = answers s r 6)
      ∧ (n = r.payload.length → s.underReplay r.pkg r.ctx = true → exec (.reqWrite r) s = answers s r 0)
      ∧ (∀ x, n = r.payload.length → s.underReplay r.pkg r.ctx = false → 0 < n → r.addr.toNat % 64 + n ≤ 64 →
          s.xlate w r.addr .write = (.at x, t) → ∃ u, exec (.reqWrite r) s = answers u r 0
            ∧ u.mem = Mem.write s.mem x.key n (natOfBytes r.payload)
            ∧ u.gran x.key = (s.gran x.key).written (n == 64) (originOf 3 0 r.port)))
    ∧ (Asked s r 10 →
      let k := r.arg0.toNat
      (32 ≤ k → exec (.reqFmt r) s = answers s r 1)
      ∧ (k < 16 → exec (.reqFmt r) s = answers s r 5 (BitVec.ofNat 64 (2 * 32 + k)))
      ∧ (16 ≤ k → k < 32 → r.arg1 ≠ 0 → checkRecord r.arg1 ≠ 0 →
          exec (.reqFmt r) s = answers s r 5 (BitVec.ofNat 64 (checkRecord r.arg1 * 256 + 2 * 32 + k)))
      ∧ (16 ≤ k → k < 32 → r.arg1 = 0 ∨ checkRecord r.arg1 = 0 → ∃ u, exec (.reqFmt r) s = answers u r 0
          ∧ u = { s with ctxs := u.ctxs } ∧ ∀ p ∈ members s r, SMap.get (u.ctx p r.ctx).fmts k 0 = r.arg1))
    ∧ (Asked s r 13 →
      -- a message that does not fit (log 65)
      (r.payload.length < 16 → exec (.reqDebug r) s = answers s r 1)
      ∧ (r.payload.length - 16 < natOfBytes ((r.payload.drop 12).take 4) → exec (.reqDebug r) s = answers s r 1)
      ∧ (16 ≤ r.payload.length → natOfBytes ((r.payload.drop 12).take 4) ≤ r.payload.length - 16 →
          s.maelubReady r.pkg = false → exec (.reqDebug r) s = .next s)
      ∧ (16 ≤ r.payload.length → natOfBytes ((r.payload.drop 12).take 4) ≤ r.payload.length - 16 →
        s.maelubReady r.pkg = true →
        let word (i : Nat) : Dword := BitVec.ofNat 64 (natOfBytes ((r.payload.drop (8 * i)).take 8))
        let m : MaelubMsg := { pkg := r.pkg, w0 := word 0, w1 := word 1, payload := r.payload.drop 16 }
        (∀ st l, s.serve m (some r) = (some (st, l), t) →
            exec (.reqDebug r) s = answers t r 0 0 0 (bytesOf [m.w0 ||| 0x80000000,
              BitVec.ofNat 64 (bits m.w1 31 0 + (4 + l.length) * 2 ^ 32)] ++ bytesOfNat 4 st ++ l))
        ∧ (s.serve m (some r) = (none, t) → exec (.reqDebug r) s = .next (turned t r))))

/-- R400, R159, R359, R387: RESERVE, SUSPEND, SLICE and BOARD. -/
def Sys2Proof.Stated.RequestedUnits : Prop :=
  ∀ (r : Req) (s : State),
    let v := r.arg0
    let p := r.arg1.toNat
    let die := v.toNat % 8
    let core := v.toNat / 8 % 128
    (Asked s r 11 →
      (44 < v.toNat → exec (.reqReserve r) s = answers s r 1)
      ∧ (v.toNat ≤ 44 → exec (.reqReserve r) s = answers (s.setPkg r.pkg { s.pkg r.pkg with reserved := v.toNat }) r 0))
    ∧ (Asked s r 12 →
      (1 < v.toNat → exec (.reqSuspend r) s = answers s r 1)
      ∧ (v = 0 → ∃ u, exec (.reqSuspend r) s = answers u r 0
          ∧ ∀ q ∈ members s r, (u.ctx q r.ctx).suspending = true ∨ (u.ctx q r.ctx).suspended = true)
      ∧ (v = 1 → ∃ u, exec (.reqSuspend r) s = answers u r 0
          ∧ ∀ q ∈ members s r, (u.ctx q r.ctx).suspending = false ∧ (u.ctx q r.ctx).suspended = false))
    ∧ (Asked s r 15 →
      let first := v.toNat / 2 ^ 10 % 2 ^ 10
      let count := v.toNat / 2 ^ 20 % 2 ^ 10 + 1
      let sound : Prop := v.toNat / 2 ^ 30 = 0 ∧ core < 88 ∧ first + count ≤ 1024 ∧ r.arg2.toNat < 2 ∧ p ∈ members s r
      (¬ sound → exec (.reqSlice r) s = answers s r 1)
      ∧ (∀ key : Nat → Nat, sound → (∀ i, i < count → s.unitKey p die core (first + i) = some (key i)) →
        ((∃ i, i < count ∧ (s.unitHeld p die core (first + i) = true
            ∨ ∃ y, SMap.find s.units (key i) = some y ∧ y.ctx ≠ r.ctx)) → exec (.reqSlice r) s = answers s r 4)
        ∧ ((∀ i, i < count → s.unitHeld p die core (first + i) = false) →
            (∀ i y, i < count → SMap.find s.units (key i) = some y → y.ctx = r.ctx) →
            ∃ u, exec (.reqSlice r) s = answers u r 0
                (BitVec.ofNat 64 (0xF000 * 2 ^ 40 + p * 2 ^ 30 + die * 2 ^ 27 + core * 2 ^ 20 + 1024 * first))
              ∧ u = { s with mem := u.mem, grans := u.grans, units := u.units, race := u.race }
              ∧ ∀ i, i < count → SMap.find u.units (key i) = some { ctx := r.ctx, race := r.arg2.getLsbD 0 }
                ∧ ∀ b, b < 1024 → Mem.byte u.mem (sliceBase + 1024 * key i + b) = 0)))
    ∧ (Asked s r 16 →
      let win := v.toNat / 2 ^ 10 % 4
      let old := SMap.find (s.board (coreKey p die core)).owners win
      (2 ^ 12 ≤ v.toNat ∨ 88 ≤ core ∨ p ∉ members s r → exec (.reqBoard r) s = answers s r 1)
      ∧ (v.toNat < 2 ^ 12 → core < 88 → p ∈ members s r →
        (∀ c, old = some c → c ≠ r.ctx → exec (.reqBoard r) s = answers s r 4)
        ∧ (old = some r.ctx → exec (.reqBoard r) s = answers s r 0)
        ∧ (old = none → ∃ u, exec (.reqBoard r) s = answers u r 0
            ∧ SMap.find (u.board (coreKey p die core)).owners win = some r.ctx
            ∧ (u.board (coreKey p die core)).window win = 0
            ∧ ∀ n, n ≠ win → (u.board (coreKey p die core)).window n = (s.board (coreKey p die core)).window n)))

/-- R394, R395: the phase planner: `a2aplan`, its phases, and its end. The schedule is written as the plan is accepted
(log 62), the circuits are each participant's lowest-numbered ports at the switches (log 96). -/
def Sys2Proof.Stated.PhasePlans : Prop :=
  ∀ (d a : BitVec 8) (s t u v : State) (x : Nat) (l : Loc) (parts tab : List Nat),
    let word (i : Nat) : Dword := BitVec.ofNat 64 (x / 2 ^ (64 * i))
    let n := (word 0).toNat % 2 ^ 7
    let ports := (word 0).toNat / 2 ^ 8 % 2 ^ 7
    let pkg := s.pkgOf s.cur
    let now := (s.timens pkg).toNat
    let start := if word 2 = 0 then now + 20000 else (word 2).toNat
    (Ready s [d, a] → s.needPip s.setB = .ok () → s.scalarRead (s.readS a) 64 64 = .ok (x, l, t) →
      (planOk word = false → exec (.a2aplan d a) s = puts t d 1)
      ∧ (planOk word = true → t.readRun 2 (word 4) n = .ok (parts, u) →
        (¬ parts.Nodup ∨ (∃ p ∈ parts, 1024 ≤ p) → exec (.a2aplan d a) s = puts u d 1)
        ∧ (parts.Nodup → (∀ p ∈ parts, p < 1024) →
          (parts.headD 0 ≠ pkg ∨ (∃ p ∈ parts, s.listed pkg p = false) → exec (.a2aplan d a) s = puts u d 2)
          ∧ (parts.headD 0 = pkg → (∀ p ∈ parts, s.listed pkg p = true) →
            (s.plan ≠ none → exec (.a2aplan d a) s = puts u d 3)
            ∧ (s.plan = none → u.readRun 8 (word 5) (n * n) = .ok (tab, v) →
              (start < now → exec (.a2aplan d a) s = puts v d 4)
              ∧ (now ≤ start → ∃ w p o, exec (.a2aplan d a) s = .next w ∧ w.plan = some p ∧ SMap.find w.ops p.op = some o
                  ∧ o.kind = .engine ∧ o.pip = s.setB ∧ (d ≠ 0 → d ≠ 63 → w.readS d = 0)
                  ∧ (w.slot s.cur).pc = (s.slot s.cur).pc + 4
                  ∧ p.pkg = pkg ∧ p.ctx = s.ctxOf s.cur ∧ p.parts = parts ∧ p.started = 0 ∧ p.unset = false
                  ∧ p.core = (word 1).toNat % 2 ^ 7 ∧ p.win = (word 1).toNat / 2 ^ 8 % 4
                  ∧ p.bbase = (word 1).toNat / 2 ^ 10 % 2 ^ 6 ∧ p.die = (word 1).toNat / 2 ^ 16 % 8
                  ∧ p.phases.length = n - 1 ∧ (p.phases.getD 0 (0, 0)).1 = start
                  ∧ (∀ q, q + 1 < n - 1 → (p.phases.getD (q + 1) (0, 0)).1
                      = (p.phases.getD q (0, 0)).1 + (p.phases.getD q (0, 0)).2 + 2000)
                  ∧ (∀ q, q < n - 1 → let D := (p.phases.getD q (0, 0)).2
                      (∀ i, i < n → tab.getD (n * i + (i + (q + 1)) % n) 0 ≤ D * (150 * ports))
                      ∧ (D = 0 ∨ ∃ i, i < n ∧ (D - 1) * (150 * ports) < tab.getD (n * i + (i + (q + 1)) % n) 0))
                  ∧ ∀ L : Loc, (∀ k, k < 2 * (n - 1) → let va := word 6 + BitVec.ofNat 64 (8 * k)
                      va.toNat / 2 ^ 57 = 0 ∧ isWindow va = true ∧ ∃ m, m.key = L.key + 8 * k
                        ∧ s.placeXlate (planWho pkg (s.ctxOf s.cur)) (va.toNat % 2 ^ 40) .write = .at m) →
                    ∀ q, q < n - 1 → w.wordAt L.key (2 * q) = BitVec.ofNat 64 (p.phases.getD q (0, 0)).1
                      ∧ w.wordAt L.key (2 * q + 1) = BitVec.ofNat 64 (p.phases.getD q (0, 0)).2))))))
    ∧ (∀ p, s.plan = some p →
      let board (q : Nat) := s.board (coreKey q p.die p.core)
      (∀ st D, p.phases[p.started]? = some (st, D) →
        (st ≤ (s.timens p.pkg).toNat → p.parts.Nodup → (∀ q ∈ p.parts, (board q).triggers = []) → p.bbase + p.started < 64 →
          ∃ u, exec (.planPhaseStart p.pkg) s = .next u ∧ u.mem = s.mem
            ∧ (∀ i, i < p.parts.length → let q := p.parts.getD i 0; (s.pkg q).on = true →
                (u.pkg q).circuit = some (p.parts.getD ((i + p.started + 1) % p.parts.length) 0,
                  (s.pkg q).switchPorts.take p.ports, st + D))
            ∧ u.plan = some { p with started := p.started + 1, unset := p.unset || p.parts.any fun q => !(board q).allotted p.win p.ctx }
            ∧ ∀ q ∈ p.parts, (u.board (coreKey q p.die p.core)).window p.win
                = if (board q).allotted p.win p.ctx then (board q).window p.win ||| 1#64 <<< (p.bbase + p.started)
                  else (board q).window p.win)
        ∧ ((s.timens p.pkg).toNat < st → exec (.planPhaseStart p.pkg) s = .next s))
      ∧ (∀ st D o, p.started = p.phases.length → p.phases.getLast? = some (st, D) → SMap.find s.ops p.op = some o →
          Completes s o →
        ((s.timens p.pkg).toNat < st + D → exec (.planComplete p.pkg) s = .next s)
        ∧ (st + D ≤ (s.timens p.pkg).toNat →
          (p.unset = false → ∃ u, exec (.planComplete p.pkg) s = .next u ∧ u.plan = none ∧ u.mem = s.mem
            ∧ SMap.find u.ops p.op = none ∧ ∀ k, o.pip = some k → (u.hart o.agent).pip k = (s.hart o.agent).pip k - 1)
          ∧ (p.unset = true → s.xlate (planWho p.pkg p.ctx) (p.sched + 7) .write = (.at l, t) →
              ∃ u, exec (.planComplete p.pkg) s = .next u ∧ u.plan = none ∧ u.mem = Mem.write s.mem l.key 1 2
                ∧ SMap.find u.ops p.op = none))))

/-- R385, R390: bring-up of links: every cabled port comes up (log 61), the domain is assigned, and every package of the
domain of the package of index 0 shows its time. -/
def Sys2Proof.Stated.BringUp : Prop :=
  ∀ (pkg dom : Nat) (s : State) (P : Pkg), SMap.find s.pkgs pkg = some P →
    (P.on = true → pkg < 1024 → dom < 2048 → ∃ u, exec (.linkBringUp pkg pkg dom) s = .next u ∧ u.mem = s.mem
      ∧ (u.pkg pkg).domain = some dom ∧ (∀ q, q ≠ pkg → (u.pkg q).domain = (s.pkg q).domain)
      ∧ (∀ i, i < 72 → SMap.find (u.pkg pkg).links i
          = (Config.link pkg i).map fun x => { st := 2, cb := x.2, neighbour := x.1 })
      ∧ ∀ q, u.timens q = if (u.pkg 0).on = true ∧ (u.pkg q).on = true ∧ (u.pkg 0).domain ≠ none
            ∧ (u.pkg q).domain = (u.pkg 0).domain then s.timens 0 else s.timens q)
    ∧ (∀ idx, P.on = false ∨ idx ≠ pkg ∨ 1024 ≤ idx ∨ 2048 ≤ dom → exec (.linkBringUp pkg idx dom) s = .next s)

/-- R388, R389: flits at a port: sent, received, asked for again, sent again. What ACK names and that a NAK takes no SEQ of
its own is log 96. -/
def Sys2Proof.Stated.Flits : Prop :=
  (∀ f : Flit, f.seq < 2 ^ 12 → f.ack < 2 ^ 12 → f.kind < 16 → f.credits < 256 → f.grans.length = 3 → f.carries.length = 3 →
      (∀ x ∈ f.grans, x < 2 ^ 512) →
      f.bytes.length = 256 ∧ flitOf f.bytes = f ∧ natOfBytes (f.bytes.drop 0xF8) = (crc32c (f.bytes.take 0xF8)).toNat)
  ∧ ∀ (pkg port : Nat) (s : State) (P : Pkg) (L : Link), SMap.find s.pkgs pkg = some P → P.on = true →
      SMap.find P.links port = some L →
    let Port (u : State) (L' : Link) : Prop := SMap.find (u.pkg pkg).links port = some L'
    let out (f : Flit) : Sent := { pkg := pkg, kind := 3, bytes := f.bytes, port := port }
    -- sending: 128 flits stay for a resend, data and control take credits
    (∀ f, L.waiting = [] →
      let f' : Flit := { f with seq := L.tx, ack := L.rx, credits := min L.owed 255 }
      let room : Prop := L.buffer.length < 128 ∧ (f.kind = 1 ∨ f.kind = 3 → L.used < Config.linkCredits)
      (room → ∃ u, s.emit pkg port f = u ∧ u.sent = out f' :: s.sent ∧ u.mem = s.mem ∧ Port u { L with
          tx := (L.tx + 1) % 2 ^ 12, buffer := L.buffer ++ [f'], owed := L.owed - min L.owed 255
          used := if f.kind = 1 ∨ f.kind = 3 then L.used + 1 else L.used })
      ∧ (¬ room → ∃ u, s.emit pkg port f = u ∧ u.sent = s.sent ∧ Port u { L with waiting := [f] }))
    -- receiving
    ∧ (∀ flit, L.st = 2 → flit.length = 256 →
      let right : Prop := natOfBytes (flit.drop 0xF8) = (crc32c (flit.take 0xF8)).toNat
      let f := flitOf flit
      let failed : Link := { L with retries := L.retries + 1, fails := L.fails + 1 }
      (right → f.kind ≠ 2 → f.seq = L.rx → L.waiting = [] → ∃ u k, exec (.flitReceive pkg port flit) s = .next u
          ∧ u.sent = s.sent ∧ u.mem = s.mem ∧ Port u { L with
              rx := (L.rx + 1) % 2 ^ 12, fails := 0, used := L.used - f.credits, buffer := L.buffer.drop k
              owed := if f.kind = 1 ∨ f.kind = 3 then L.owed + 1 else L.owed }
          ∧ ∀ x, L.buffer.head? = some x → k = if (f.ack + 2 ^ 12 - x.seq) % 2 ^ 12 ≤ L.buffer.length
              then (f.ack + 2 ^ 12 - x.seq) % 2 ^ 12 else 0)
      ∧ (right → f.kind ≠ 2 → f.seq ≠ L.rx → exec (.flitReceive pkg port flit) s = .next s)
      ∧ (right → f.kind = 2 → ∃ u k, exec (.flitReceive pkg port flit) s = .next u ∧ u.mem = s.mem
          ∧ Port u { L with buffer := L.buffer.drop k } ∧ u.sent = ((L.buffer.drop k).map out).reverse ++ s.sent
          ∧ ∀ x, L.buffer.head? = some x → k = if (f.seq + 2 ^ 12 - x.seq) % 2 ^ 12 ≤ L.buffer.length
              then (f.seq + 2 ^ 12 - x.seq) % 2 ^ 12 else 0)
      ∧ (¬ right → L.fails + 1 < 16 → ∃ u, exec (.flitReceive pkg port flit) s = .next u ∧ u.mem = s.mem ∧ Port u failed
          ∧ u.sent = out { seq := L.rx, ack := L.rx, kind := 2 } :: s.sent)
      -- the port goes down
      ∧ (¬ right → 16 ≤ L.fails + 1 → ∃ u, exec (.flitReceive pkg port flit) s = .next u
          ∧ Port u { failed with st := 0, buffer := [], waiting := [] }))

/-- R389, R277, R237: an access of another package that is never answered: of an instruction, counted from where it left
(log 72), and of a command, counted from where it is first found to wait (log 61). -/
def Sys2Proof.Stated.Unanswered : Prop :=
  ∀ (n : Nat) (s : State),
    (∀ o r, SMap.find s.ops n = some o → o.kind ≠ .engine → o.reqs.find? (s.remoteReq o) = some r →
      (s.cycle < o.sent + 1500000 → exec (.remoteAccessTimeout n) s = .next s)
      ∧ (o.sent + 1500000 ≤ s.cycle → exec (.remoteAccessTimeout n) s = .next (s.endOp n o 6 r.va 0 0 [])))
    -- a command, by its own number or by that of the operation that counts it
    ∧ (∀ id c, (SMap.find s.ops n = none ∧ id = n ∧ SMap.find s.cmds n = some c)
          ∨ (∃ o, SMap.find s.ops n = some o ∧ o.kind = .engine
              ∧ s.cmds.find? (fun e => e.2.app.op == some n) = some (id, c)) →
        (s.cmdRemote id c = none → exec (.remoteAccessTimeout n) s = .next s)
        ∧ (∀ va, s.cmdRemote id c = some va →
          (c.awaits = none → c.live = true ∨ c.posting = true →
            exec (.remoteAccessTimeout n) s = .next { s with cmds := SMap.put s.cmds id { c with awaits := some s.cycle } })
          ∧ (∀ since, c.awaits = some since →
            (s.cycle < since + 1500000 → exec (.remoteAccessTimeout n) s = .next s)
            ∧ (since + 1500000 ≤ s.cycle → c.posting = false → c.live = true →
                exec (.remoteAccessTimeout n) s = .next (s.stopCommand id 18 va 0))
            ∧ (∀ m p, since + 1500000 ≤ s.cycle → c.posting = true → s.posts.find? (fun e => e.2.cmd == id) = some (m, p) →
                exec (.remoteAccessTimeout n) s = .next (s.endPost m)))))
    ∧ (∀ id c l0 l t0 t, c.kind = 2 → c.checked = true → c.posting = false → c.spills = [] →
        s.xlate (c.who id) c.app.va .read = (.at l0, t0) → (homeOf l0.key).1 = c.pkg →
        s.xlate (c.who id) (c.word 3 + BitVec.ofNat 64 (64 * c.pos)) .read = (.at l, t) →
        s.cmdRemote id c
          = if (homeOf l.key).1 = c.pkg then none else some (c.word 3 + BitVec.ofNat 64 (64 * c.pos)))

/-- R5, R51, R403, R404: power: what the boot ROM checks, what a boot leaves, what a loss of power takes, throttling and the
thermal limit. The digest and signature algorithms are FIPS's (log 97), the flash and the fuses values of Config (log 5). -/
def Sys2Proof.Stated.Power : Prop :=
  ∀ (pkg : Nat) (strap : Bool) (s : State) (P : Pkg), SMap.find s.pkgs pkg = some P →
    let core (entry : Nat) (waiting : Bool) : SysCore :=
      { slot := { st := .run, pc := BitVec.ofNat 64 entry &&& ~~~ 3, own := 1, mask := 1 }, waiting := waiting
        stop := if strap then some { code := 0 } else none }
    let gone := s.wipe pkg
    let lost (u : State) : Prop := SMap.find u.pkgs pkg = some {}
      ∧ (∀ j, j ≠ pkg → SMap.find u.pkgs j = SMap.find s.pkgs j)
      ∧ (∀ key, Mem.byte u.mem key = if (homeOf key).1 = pkg then 0 else Mem.byte s.mem key)
      ∧ (∀ e, e ∈ u.groups ↔ e ∈ s.groups ∧ e.2.pkg ≠ pkg) ∧ (∀ e, e ∈ u.cores ↔ e ∈ s.cores ∧ e.1 / 2048 ≠ pkg)
      ∧ (∀ e, e ∈ u.units ↔ e ∈ s.units ∧ e.1 / 2 ^ 20 ≠ pkg) ∧ (∀ e, e ∈ u.ctxs ↔ e ∈ s.ctxs ∧ e.1 / 64 ≠ pkg)
      ∧ (∀ e, e ∈ u.tensors ↔ e ∈ s.tensors ∧ e.1 / 4096 / 64 ≠ pkg) ∧ (∀ e, e ∈ u.cmds ↔ e ∈ s.cmds ∧ e.2.pkg ≠ pkg)
    (P.on = false →
      (imagePasses pkg 0 = false → imagePasses pkg 0x01000000 = false → exec (.powerOn pkg strap) s
        = .next (gone.setPkg pkg { on := true, onAt := s.cycle, timeAt := s.cycle, peers := Config.peers pkg
                                   debugPeers := Config.debugPeers pkg }))
      ∧ (∀ off, off = (if imagePasses pkg 0 then 0 else 0x01000000) → imagePasses pkg off = true →
        let len := flashWord pkg (off + 8)
        ∃ u, exec (.powerOn pkg strap) s = .next u
          ∧ (u.pkg pkg).on = true ∧ (u.pkg pkg).booted = true ∧ (u.pkg pkg).srs = [] ∧ u.groups = gone.groups
          ∧ (∀ c, c < 16 → SMap.find u.cores (coreKey pkg 8 c) = some (core (flashWord pkg (off + 16)) false))
          ∧ (∀ die c, die < 8 → c < 2 →
              SMap.find u.cores (coreKey pkg die (120 + c)) = some (core (flashWord pkg (off + 24)) true))
          ∧ (∀ i, i < len → Mem.byte u.mem (pkg * 2 ^ 39 + i) = Config.flash pkg (off + 4096 + i))
          ∧ (∀ j, j < pkg * 2 ^ 39 ∨ pkg * 2 ^ 39 + len ≤ j → Mem.byte u.mem j = Mem.byte gone.mem j)))
    ∧ (∀ off, let digest := flashBytes pkg (off + 32) 48
        imagePasses pkg off = true ↔ flashWord pkg off % 2 ^ 32 = 0x51544F42 ∧ flashWord pkg off / 2 ^ 32 = 1
          ∧ sha384 (flashBytes pkg (off + 4096) (flashWord pkg (off + 8))) = digest
          ∧ sha384 (flashBytes pkg (off + 176) 97) = Config.fuseKey pkg
          ∧ ecdsaOk (flashBytes pkg (off + 176) 97) digest (bigNat (flashBytes pkg (off + 80) 48))
              (bigNat (flashBytes pkg (off + 128) 48)) = true)
    ∧ lost gone
    ∧ (P.on = true → exec (.powerOn pkg strap) s = .next s)
    ∧ (P.on = true → exec (.powerOff pkg) s = .next gone)
    ∧ (P.on = false → exec (.powerOff pkg) s = .next s)
    ∧ (∀ temp power, P.on = true → temp < 2 ^ 12 → power < 2 ^ 16 →
        let limit := if SMap.get P.srs 0x18B 0 = 0 then 2400 else (SMap.get P.srs 0x18B 0).toNat
        let active := 840 < temp ∨ limit < power
        ∃ v : Dword, exec (.thermalThrottle pkg temp power) s = .next (s.setPkg pkg { P with srs := SMap.put P.srs 0x18A v })
          ∧ v.toNat % 2 ^ 16 = power ∧ v.toNat / 2 ^ 16 % 2 ^ 12 = temp ∧ (v.getLsbD 31 = true ↔ active))
    ∧ (∀ temp, (920 < temp → P.on = true → exec (.thermalPowerOff pkg temp) s = .next gone)
        ∧ (temp ≤ 920 → exec (.thermalPowerOff pkg temp) s = .next s))

/-! ## The whole machine -/

/-- R31, R32, R43: every word and literal that encode a well-formed instruction decode to it. -/
def Sys2Proof.Stated.DecodeOfEncode : Prop :=
  ∀ (i : Instr) (w : Word) (l : Option Word) (x : Word), encode i = some (w, l) → i.wellFormed = true →
    decode w (l.getD x) = .ok i

/-- R40 check 8, R44: a word that decodes is the encoding of what it decodes to: no other word has that meaning. -/
def Sys2Proof.Stated.EncodeOfDecode : Prop :=
  ∀ (i : Instr) (w x : Word), decode w x = .ok i →
    i.wellFormed = true ∧ encode i = some (w, if opcodeOf w ∈ [0x09, 0x22, 0x6A] then some x else none)

/-- R43: words written out from the opcode map, one and more a row; R40: words that no instruction has. -/
def Obligations.WordsDecode : Prop :=
  (∀ e ∈ ([(0x00000000, .nop), (0x01FFFFFE, .br 0xFFFFFE), (0x0D000000, .exit), (0x10030102, .sadd 3 1 2),
      (0x2005FFFF, .sli 5 0xFFFF), (0x32030210, .sld32 3 2 0x10), (0x40040102, .vadd 4 1 2), (0x50040102, .vfadd 4 1 2),
      (0x67040100, .vmov 4 1), (0x76030102, .sfsub 3 1 2), (0x80040102, .vshfl 4 1 2), (0x90040102, .vld 4 1 2), (0xAF000000, .gfence),
      (0xBA030102, .launch 3 1 2), (0xC0030100, .oclaim 3 1), (0xD4030102, .tquery 3 1 2), (0xEB000010, .wfe 0x10)] : List (Word × Instr)),
    ∀ x, decode e.1 x = .ok e.2)
  ∧ ∀ w ∈ ([0x7F000000, 0x500401EE, 0x50E00102, 0x10030140, 0x0D000001] : List Word), ∀ x i, decode w x ≠ .ok i

/-- R40, R41, R44, R45: the fate of a word in its clause, check by check; a word that passes runs what it decodes to. A core
makes check 7 where a group makes check 6 of its ports (log 28); a port that the launch has not enabled fails check 8 (log 68). -/
def Sys2Proof.Stated.FateOfWords : Prop :=
  ∀ (c : Clause) (w lit : Word) (i : Instr) (s t u : State),
    let pc := (s.slot s.cur).pc
    let op := w.toNat / 2 ^ 24
    let s1 : State := { t with word := w }
    let long : Prop := op = 0x09 ∨ op = 0x22 ∨ op = 0x6A
    let last : Prop := pc + 4 = c.next
    let ends : Prop := op ∈ [1, 2, 3, 4, 5, 6, 7, 8, 0x0B, 0x0C, 0x0D, 0x0F, 0xE6, 0xE9]
    let allowed : Prop := isSys s.cur = false ∨ op < 0x40 ∨ (0x70 ≤ op ∧ op ≤ 0x7E) ∨ op ∈ [0xE4, 0xE5, 0xE6, 0xE8, 0xE9, 0xEB]
    let placed : Prop := op < 0xF0 ∧ (ends → last) ∧ (long → ¬ last) ∧ (op = 0x09 → pc + 8 = c.next)
    let fails (cause : Nat) : Prop := s.wordFate c = .error (s1.trapAt cause)
    s.fetchWord pc = .ok (w, t) → s1.slot s.cur = s.slot s.cur →
    (¬ placed → fails 2)
    ∧ (placed → ¬ long → ¬ allowed → fails 1)
    ∧ (placed → ¬ long → (∀ j, decode w 0 ≠ .ok j) → fails 1)
    ∧ (placed → ¬ long → allowed → decode w 0 = .ok i → (∀ n ∈ portsOfWord w, s1.portOn n = true) →
        s.wordFate c = .ok (.runs i s1))
    ∧ (placed → ¬ long → (∃ n ∈ portsOfWord w, s1.portOn n = false) → fails 1)
    ∧ (placed → long → allowed → s1.fetchWord (pc + 4) = .ok (lit, u) → decode w lit = .ok i →
        (∀ n ∈ portsOfWord w, s1.portOn n = true) → s.wordFate c = .ok (.runs i u))
    -- a long form: not allowed, before its literal is fetched; with a literal that cannot be, or that does not decode
    ∧ (placed → long → ¬ allowed → fails 1)
    ∧ (∀ e, placed → long → allowed → s1.fetchWord (pc + 4) = .error e → s.wordFate c = .error e)
    ∧ (placed → long → allowed → s1.fetchWord (pc + 4) = .ok (lit, u) → (∀ j, decode w lit ≠ .ok j) → fails 1)
    ∧ (placed → long → allowed → s1.fetchWord (pc + 4) = .ok (lit, u) → (∃ n ∈ portsOfWord w, s1.portOn n = false) → fails 1)

/-- R44: a reserved opcode raises an illegal-instruction trap, at any place of a clause and on any agent. -/
def Sys2Proof.Stated.ReservedOpcodes : Prop :=
  ∀ (c : Clause) (w : Word) (s t : State),
    w.toNat / 2 ^ 24 ∈ [0x7F, 0x8E, 0x8F, 0x9B, 0x9C, 0x9D, 0x9E, 0x9F, 0xBB, 0xBC, 0xBD, 0xBE, 0xBF, 0xCE, 0xCF, 0xDE, 0xDF,
      0xEC, 0xED, 0xEE, 0xEF] →
    ({ t with word := w } : State).comparatorHere = none → s.fetchWord (s.slot s.cur).pc = .ok (w, t) →
    s.issueWord c = traps { t with word := w } 1

/-- R25, R26, R29, R139, R40 checks 1, 2 and 5: what stands at the start of a clause. A group's clause is fetched whole as it
is entered (log 27), a core's makes no check 5 (log 28). -/
def Sys2Proof.Stated.ClauseEntry : Prop :=
  ∀ (w : Word) (s t u : State) (ws : List Word),
    let x := s.slot s.cur
    let len := w.toNat / 2 ^ 24 % 16
    let seta := w.toNat / 2 ^ 8 % 16
    let setb := w.toNat / 2 ^ 4 % 16
    let header : Prop := w.toNat / 2 ^ 28 = 15 ∧ len ≠ 15 ∧ (seta < 12 ∨ seta = 15) ∧ (setb < 12 ∨ setb = 15) ∧ w.toNat % 8 = 0
    let c : Clause := { hdr := x.pc, len := len + 1, seta := seta, setb := setb, yield := w.getLsbD 3 }
    let free (h : Hart) : Prop := ∀ n, n < 12 → w.getLsbD (12 + n) = true → h.pip n = 0
    s.fetchWord x.pc = .ok (w, t) →
    (¬ header → s.enterClause = .error (.trap
        { cause := 2, tpc := x.pc, resume := x.pc, addr := x.pc, word := w, slot := slotNo s.cur, done := x.done } s))
    ∧ (header → t.clauseWords (x.pc + 4) (if isSys s.cur then 0 else len + 1) = .ok (ws, u) →
        let ps := portsOfClause ws
        let v := u.setSlot s.cur { x with clause := some c, pc := x.pc + 4, passed := false }
        let form : Exc := .trap
          { cause := 2, tpc := x.pc, resume := x.pc, addr := x.pc, word := w, slot := slotNo s.cur, done := x.done } s
        -- a slot that goes on in a ripple clause has waited
        let goes : Prop := x.ripple ≠ none ∨ free (u.hart s.cur)
        (ps = [] → goes → s.enterClause = .ok (.entered v))
        ∧ (ps ≠ [] → rippleLegal ws ps = false → s.enterClause = .error form)
        ∧ (ps ≠ [] → rippleLegal ws ps = true → goes → s.enterClause = .ok (.ripple v ws ps))
        ∧ (ps = [] ∨ rippleLegal ws ps = true → ¬ goes → s.enterClause = .error (.wait .header u)))
    -- the form of a ripple clause
    ∧ (∀ ps, let op (w : Word) : Nat := w.toNat / 2 ^ 24
      rippleLegal ws ps = true ↔ ∃ body run : List Word,
        (markLiterals ws).filterMap (fun e => if e.2 then some e.1 else none) = body ++ run
        ∧ (∀ w ∈ body, op w = 0 ∨ 0x40 ≤ op w ∧ op w < 0x60 ∨ 0x65 ≤ op w ∧ op w ≤ 0x6F ∧ op w ≠ 0x6B)
        ∧ (∀ w ∈ run, op w = 0xB4) ∧ (run.map fun w => w.toNat % 2 ^ 8).Nodup
        ∧ (∀ p ∈ ps, ∃ w ∈ run, w.toNat % 2 ^ 8 = p) ∧ ∀ w ∈ body ++ run, bypassWord w = false)

/-- A step in which an agent issues a word that decodes to an instruction is exec of it, one cycle, and what follows
every instruction: the rows of R121, the register elements lost unread, the end of a STEP. The list of turns is log 2, one
cycle a step log 7. -/
def Obligations.StepRunsDecoded : Prop :=
  ∀ (a : Agent) (rest : List Turn) (c : Clause) (i : Instr) (s t : State),
    let s0 : State := { s with turns := rest }
    let s1 : State := { s0 with cur := a, word := 0 }
    let s2 := s1.started a
    s.turns = .issue a :: rest → s0.chosen a = a → s0.canIssue a = true → s1.lateDue a = false →
    (s.slot a).ripple = none → (s.slot a).wave = none →
    let after (u : State) (pc : Dword) : Answer := tick (stepEnd a s0 (afterIssue a pc u.word (exec i u)))
    t.comparatorHere = none →
    ((s.slot a).clause = some c → s2.cur = a → s2.wordFate c = .ok (.runs i t) → step s = after t (s2.slot a).pc)
    ∧ (∀ u, (s.slot a).clause = none → s1.enterClause = .ok (.entered u) → (u.slot a).clause = some c →
        let u1 := (u.started a).traceIssue a c.hdr
        u1.cur = a → u1.wordFate c = .ok (.runs i t) →
        step s = after t (u1.slot a).pc)

/-- Every meaning answers, and every step of the machine is a step to a next state: no instruction of the opcode map or
event stops the machine. -/
def Obligations.EveryStepAnswers : Prop :=
  (∀ i s, ∃ t, exec i s = .next t) ∧ ∀ s, ∃ t, step s = .next t

/-- Memory keeps its canonical form in every step from every state that has it: equal memories stay equal data. -/
def Obligations.MemoryStaysCanonical : Prop :=
  ∀ s t, Memory.wf s.mem = true → step s = .next t → Memory.wf t.mem = true

/-- R5: right after reset there is a package without power, and memory lists nothing, in its canonical form. One package is
log 1, that an unwritten byte reads 0 log 3, the empty list of turns log 2. -/
def Obligations.ResetState : Prop :=
  Memory.wf State.reset.mem = true ∧ State.reset.cycle = 0 ∧ State.reset.pkgs = [(0, {})]
  ∧ (∀ key, Mem.byte State.reset.mem key = 0) ∧ State.reset.groups = [] ∧ State.reset.cores = [] ∧ State.reset.ops = []
  ∧ State.reset.turns = []

/-! ## The statements of several parts -/

/-- What writing one scalar register, or going to an address, does and does not do. -/
def Obligations.ResultsStand : Prop :=
  ResultStands ∧ TransferStands ∧ RegisterInterlock

/-- Row 0x2 and splace. -/
def Obligations.ScalarImmediates : Prop :=
  RowTwo ∧ ShiftImmediateTraps

/-- Branches, calls, nop and waitc. -/
def Obligations.Branches : Prop :=
  BranchTargets ∧ MisalignedTargets

/-- Lane control on cores and in groups. -/
def Obligations.LaneControl : Prop :=
  LaneControlOnCores ∧ LaneControlInGroups ∧ LaneEnds ∧ TopEntries ∧ SlotRows ∧ Merges

/-- bsplit in a group. -/
def Obligations.Splits : Prop :=
  SplitsOf ∧ SplitBesideSlot ∧ SplitWithoutRoom

/-- Scalar loads and stores. -/
def Obligations.ScalarMemory : Prop :=
  ScalarLoads ∧ ScalarStores ∧ ScalarsSentAway ∧ ScalarAccessFaults

/-- Where translations end. -/
def Obligations.AddressSpace : Prop :=
  AddressRanges ∧ WindowPlaces ∧ PageWalks

/-- A counted scalar access completes. -/
def Obligations.ScalarCompletion : Prop :=
  ScalarCompletes ∧ AwayScalarsComplete ∧ DeferredFaults

/-- The mode register, the pending mode, format entries. -/
def Obligations.Modes : Prop :=
  ModeWords ∧ PendingMode ∧ FormatEntries

/-- Scalar floating point. -/
def Obligations.ScalarFloat : Prop :=
  ScalarFloats ∧ ScalarFloatFaults ∧ ScalarConversion
  ∧ ExactArithmetic ∧ Rounding ∧ NearestRounding ∧ ElementFunctions

/-- sfcmp and sfclass. -/
def Obligations.ScalarRelations : Prop :=
  ScalarCompare ∧ ScalarClass

/-- srsr and swsr. -/
def Obligations.Registers : Prop :=
  RegisterReads ∧ RegisterWrites

/-- Writes of system registers that act. -/
def Obligations.SystemWrites : Prop :=
  TranslationFlush ∧ TimeWrites ∧ SelectedWrites ∧ UnitAndBoardTags ∧ SevSends ∧ MessagesSent

/-- What writing a vector destination does. -/
def Obligations.VectorWriting : Prop :=
  VectorResultStands ∧ IntegerWriting

/-- Row 0x4. -/
def Obligations.VectorIntegers : Prop :=
  IntegerRows ∧ VectorBits

/-- Row 0x5 and the compares. -/
def Obligations.VectorFloats : Prop :=
  FloatRows ∧ VectorDotProducts ∧ VectorCompares

/-- Moves, selects, single lanes, packing. -/
def Obligations.VectorMoves : Prop :=
  MovesAndSelects ∧ VectorPacking

/-- vcvt. -/
def Obligations.VectorConversions : Prop :=
  PlainConversions ∧ VectorBlockConversions

/-- Shuffles, shifts, compaction and patterns. -/
def Obligations.CrossLane : Prop :=
  CrossLaneMoves ∧ Patterns

/-- Scans, reductions and rankings. -/
def Obligations.Reductions : Prop :=
  Scans ∧ ScanSteps ∧ Rankings

/-- rgdeal and rgclose. -/
def Obligations.Regrouping : Prop :=
  RegroupInstructions ∧ LaneDealt ∧ BucketClosed ∧ DealCompletes ∧ CloseCompletes

/-- Vector loads, stores and prefetches. -/
def Obligations.VectorMemory : Prop :=
  VectorLoads ∧ VectorStores ∧ VectorsSentAway ∧ VectorAccessFaults

/-- Vector accesses, atomics and collectives complete. -/
def Obligations.VectorCompletion : Prop :=
  VectorCompletes ∧ AtomicCompletes

/-- Vector and scalar atomics. -/
def Obligations.Atomics : Prop :=
  VectorAtomics ∧ ScalarAtomics ∧ ScalarAtomicsSentAway

/-- Barriers and fences. -/
def Obligations.BarriersAndFences : Prop :=
  Barriers ∧ Fences

/-- Register claims. -/
def Obligations.Claims : Prop :=
  RegisterClaims ∧ ClaimEvents

/-- Forward ports and ripple rounds. -/
def Obligations.PortsAndRipples : Prop :=
  ForwardPorts ∧ RippleRounds ∧ RippleWaves ∧ WaveFates ∧ RippleCompletes

/-- Continuations, work queues, launches. -/
def Obligations.Work : Prop :=
  Continuations ∧ HeaderChecks ∧ WorkQueues ∧ Launches

/-- Operand slots, accumulators, upkeep of a domino. -/
def Obligations.DominoSlots : Prop :=
  OperandSlots ∧ Accumulators ∧ DominoUpkeep

/-- Matrix operations. -/
def Obligations.MatrixOperations : Prop :=
  MatrixIssue ∧ MatrixExecution ∧ MatrixSums

/-- Fills and stores of a domino. -/
def Obligations.Fills : Prop :=
  FillRequests ∧ FillCompletion

/-- Trigger boards and tile records. -/
def Obligations.BoardsAndTiles : Prop :=
  Boards ∧ TileRecords

/-- tdesc, tquery and tfree. -/
def Obligations.Tensors : Prop :=
  DescriptorChecks ∧ DescriptorRequests

/-- Commands of engines. -/
def Obligations.Commands : Prop :=
  CommandStarts ∧ GranuleMoves ∧ CommandEnds

/-- Relays. -/
def Obligations.Relays : Prop :=
  RequestChecks ∧ RelayRequests ∧ RelayPasses

/-- vcput, vcget and vcred. -/
def Obligations.Collectives : Prop :=
  CollectiveLanes ∧ CollectivesSentAway

/-- Taking a trap and returning. -/
def Obligations.Traps : Prop :=
  TrapEntry ∧ TrapReturn ∧ SystemCoreTraps

/-- Saving, suspending, errors of the stores. -/
def Obligations.Preemption : Prop :=
  Saves ∧ Suspension

/-- The distributor places and releases groups. -/
def Obligations.Distribution : Prop :=
  Placement ∧ Releases

/-- Trace records, wfe, address comparators. -/
def Obligations.Tracing : Prop :=
  Traces ∧ Waiting ∧ Comparators

/-- The Maelub debug port. -/
def Obligations.DebugPort : Prop :=
  DebugControl ∧ DebugReads ∧ DebugAccess

/-- Requests: keys, contexts, mappings, loads. -/
def Obligations.RequestedContexts : Prop :=
  RequestProtocol ∧ Contexts ∧ Mappings

/-- Requests: work, data, units. -/
def Obligations.RequestedWork : Prop :=
  WorkRequests ∧ RequestedData ∧ RequestedUnits

/-- The phase planner, links, power. -/
def Obligations.Devices : Prop :=
  PhasePlans ∧ BringUp ∧ Flits ∧ Unanswered ∧ Power

/-- Decoding and encoding agree. -/
def Obligations.DecodeRoundTrip : Prop :=
  DecodeOfEncode ∧ EncodeOfDecode

/-- The fate of a word; reserved opcodes. -/
def Obligations.WordFates : Prop :=
  FateOfWords ∧ ClauseEntry ∧ ReservedOpcodes
end

