-- ==== Sys2Proof/Laws/SMap.lean ====
section
/-! SUPPORT. Reading after putting, and the canonical form kept. -/

namespace Sys2Proof.Machine

variable {α : Type}

theorem SMap.find_put_same (m : SMap α) (k : Nat) (v : α) : SMap.find (SMap.put m k v) k = some v := by
  induction m with
  | nil => simp [SMap.put, SMap.find]
  | cons e m ih =>
    obtain ⟨j, w⟩ := e
    by_cases h1 : k < j
    · simp [SMap.put, SMap.find, h1]
    · by_cases h2 : k = j
      · simp [SMap.put, SMap.find, h2]
      · simp [SMap.put, SMap.find, h1, h2, Ne.symm h2, ih]

theorem SMap.find_put_other (m : SMap α) {k j : Nat} (v : α) (h : j ≠ k) :
    SMap.find (SMap.put m k v) j = SMap.find m j := by
  induction m with
  | nil => simp [SMap.put, SMap.find, Ne.symm h]
  | cons e m ih =>
    obtain ⟨i, w⟩ := e
    by_cases h1 : k < i
    · simp [SMap.put, SMap.find, h1, Ne.symm h]
    · by_cases h2 : k = i
      · subst h2; simp [SMap.put, SMap.find, Ne.symm h]
      · simp only [SMap.put, h1, h2, if_false, SMap.find, ih]

@[simp] theorem SMap.get_put_same (m : SMap α) (k : Nat) (v d : α) : SMap.get (SMap.put m k v) k d = v := by
  simp [SMap.get, SMap.find_put_same]

theorem SMap.get_put_other (m : SMap α) {k j : Nat} (v d : α) (h : j ≠ k) :
    SMap.get (SMap.put m k v) j d = SMap.get m j d := by
  simp [SMap.get, SMap.find_put_other m v h]

theorem SMap.find_erase_same (m : SMap α) (k : Nat) : SMap.find (SMap.erase m k) k = none := by
  induction m with
  | nil => rfl
  | cons e m ih =>
    obtain ⟨j, w⟩ := e
    by_cases h : j = k
    · simpa [SMap.erase, h] using ih
    · simpa [SMap.erase, h, SMap.find] using ih

theorem SMap.find_erase_other (m : SMap α) {k j : Nat} (h : j ≠ k) :
    SMap.find (SMap.erase m k) j = SMap.find m j := by
  induction m with
  | nil => rfl
  | cons e m ih =>
    obtain ⟨i, w⟩ := e
    by_cases h1 : i = k
    · subst h1; simpa [SMap.erase, SMap.find, Ne.symm h] using ih
    · simp only [SMap.erase] at ih
      simp [SMap.erase, h1, SMap.find, ih]

section
variable [DecidableEq α]

@[simp] theorem SMap.get_set_same (m : SMap α) (k : Nat) (v d : α) : SMap.get (SMap.set m k v d) k d = v := by
  by_cases h : v = d
  · simp [SMap.set, h, SMap.get, SMap.find_erase_same]
  · simp [SMap.set, h]

theorem SMap.get_set_other (m : SMap α) {k j : Nat} (v d : α) (h : j ≠ k) :
    SMap.get (SMap.set m k v d) j d = SMap.get m j d := by
  by_cases hv : v = d
  · simp [SMap.set, hv, SMap.get, SMap.find_erase_other m h]
  · simp [SMap.set, hv, SMap.get_put_other m v d h]

end

/-- The keys of a map rise strictly above a bound. -/
def SMap.above (b : Nat) : SMap α → Prop
  | [] => True
  | (j, _) :: m => b < j ∧ SMap.above j m

theorem SMap.above_mono {b c : Nat} (h : c ≤ b) {m : SMap α} (hm : SMap.above b m) : SMap.above c m := by
  cases m with
  | nil => trivial
  | cons e m => exact ⟨lt_of_le_of_lt h hm.1, hm.2⟩

theorem SMap.rising_cons_iff (j : Nat) (w : α) (m : SMap α) :
    SMap.rising ((j, w) :: m) = true ↔ SMap.above j m := by
  induction m generalizing j w with
  | nil => simp [SMap.rising, SMap.above]
  | cons e m ih =>
    obtain ⟨i, x⟩ := e
    simp [SMap.rising, SMap.above, ih]

theorem SMap.above_put {b k : Nat} (v : α) {m : SMap α} (hb : b < k) (hm : SMap.above b m) :
    SMap.above b (SMap.put m k v) := by
  induction m generalizing b with
  | nil => exact ⟨hb, trivial⟩
  | cons e m ih =>
    obtain ⟨j, w⟩ := e
    unfold SMap.put
    split
    · exact ⟨hb, by assumption, hm.2⟩
    · split
      · rename_i h; subst h; exact ⟨hb, hm.2⟩
      · exact ⟨hm.1, ih (by omega) hm.2⟩

theorem SMap.above_erase {b : Nat} (k : Nat) {m : SMap α} (hm : SMap.above b m) :
    SMap.above b (SMap.erase m k) := by
  induction m generalizing b with
  | nil => trivial
  | cons e m ih =>
    obtain ⟨j, w⟩ := e
    by_cases h : j = k
    · simpa [SMap.erase, h] using SMap.above_mono (le_of_lt hm.1) (ih hm.2)
    · have := ih hm.2
      simp only [SMap.erase] at this
      simp [SMap.erase, h, SMap.above, hm.1, this]

theorem SMap.rising_put {m : SMap α} (k : Nat) (v : α) (hm : SMap.rising m = true) :
    SMap.rising (SMap.put m k v) = true := by
  cases m with
  | nil => rfl
  | cons e m =>
    obtain ⟨j, w⟩ := e
    rw [SMap.rising_cons_iff] at hm
    unfold SMap.put
    split
    · rw [SMap.rising_cons_iff]; exact ⟨by assumption, hm⟩
    · split
      · rename_i h; subst h; rw [SMap.rising_cons_iff]; exact hm
      · rw [SMap.rising_cons_iff]; exact SMap.above_put v (by omega) hm

theorem SMap.rising_erase {m : SMap α} (k : Nat) (hm : SMap.rising m = true) :
    SMap.rising (SMap.erase m k) = true := by
  cases m with
  | nil => rfl
  | cons e m =>
    obtain ⟨j, w⟩ := e
    rw [SMap.rising_cons_iff] at hm
    have h2 := SMap.above_erase k hm
    by_cases h : j = k
    · have : SMap.erase ((j, w) :: m) k = SMap.erase m k := by simp [SMap.erase, h]
      rw [this]
      cases hx : SMap.erase m k with
      | nil => rfl
      | cons e2 m2 =>
        obtain ⟨i, x⟩ := e2
        rw [hx] at h2
        rw [SMap.rising_cons_iff]; exact h2.2
    · have : SMap.erase ((j, w) :: m) k = (j, w) :: SMap.erase m k := by simp [SMap.erase, h]
      rw [this, SMap.rising_cons_iff]; exact h2

theorem SMap.all_put (m : SMap α) (k : Nat) (v : α) (p : Nat × α → Bool) (hv : p (k, v) = true)
    (hm : m.all p = true) : (SMap.put m k v).all p = true := by
  induction m with
  | nil => simp [SMap.put, hv]
  | cons e m ih =>
    obtain ⟨j, w⟩ := e
    simp only [List.all_cons, Bool.and_eq_true] at hm
    unfold SMap.put
    split
    · simp [hv, hm.1, hm.2]
    · split
      · simp [hv, hm.2]
      · simp [hm.1, ih hm.2]

/-- A canonical map stays canonical when a value is set. -/
theorem SMap.canon_set [DecidableEq α] {m : SMap α} (k : Nat) (v d : α) (hm : SMap.canon m d = true) :
    SMap.canon (SMap.set m k v d) d = true := by
  simp only [SMap.canon, Bool.and_eq_true] at hm ⊢
  by_cases h : v = d
  · simp only [SMap.set, h, if_true]
    refine ⟨SMap.rising_erase k hm.1, ?_⟩
    rw [List.all_eq_true] at hm ⊢
    exact fun e he => hm.2 e (List.mem_filter.1 he).1
  · simp only [SMap.set, h, if_false]
    exact ⟨SMap.rising_put k v hm.1, SMap.all_put m k v _ (by simpa using h) hm.2⟩

end Sys2Proof.Machine
end

