-- ==== Sys2Proof/Laws/State.lean ====
section
/-! SUPPORT. What each update of the state leaves alone, one lemma per field, and what it reads back as. -/

namespace Sys2Proof.Machine

/-! ## setCore -/

@[simp] theorem State.setCore_cycle (s : State) (p d c : Nat) (x : SysCore) : (s.setCore p d c x).cycle = s.cycle := rfl
@[simp] theorem State.setCore_free (s : State) (p d c : Nat) (x : SysCore) : (s.setCore p d c x).free = s.free := rfl
@[simp] theorem State.setCore_turns (s : State) (p d c : Nat) (x : SysCore) : (s.setCore p d c x).turns = s.turns := rfl
@[simp] theorem State.setCore_cur (s : State) (p d c : Nat) (x : SysCore) : (s.setCore p d c x).cur = s.cur := rfl
@[simp] theorem State.setCore_word (s : State) (p d c : Nat) (x : SysCore) : (s.setCore p d c x).word = s.word := rfl
@[simp] theorem State.setCore_mem (s : State) (p d c : Nat) (x : SysCore) : (s.setCore p d c x).mem = s.mem := rfl
@[simp] theorem State.setCore_grans (s : State) (p d c : Nat) (x : SysCore) : (s.setCore p d c x).grans = s.grans := rfl
@[simp] theorem State.setCore_units (s : State) (p d c : Nat) (x : SysCore) : (s.setCore p d c x).units = s.units := rfl
@[simp] theorem State.setCore_buffered (s : State) (p d c : Nat) (x : SysCore) : (s.setCore p d c x).buffered = s.buffered := rfl
@[simp] theorem State.setCore_race (s : State) (p d c : Nat) (x : SysCore) : (s.setCore p d c x).race = s.race := rfl
@[simp] theorem State.setCore_pkgs (s : State) (p d c : Nat) (x : SysCore) : (s.setCore p d c x).pkgs = s.pkgs := rfl
@[simp] theorem State.setCore_ctxs (s : State) (p d c : Nat) (x : SysCore) : (s.setCore p d c x).ctxs = s.ctxs := rfl
@[simp] theorem State.setCore_groups (s : State) (p d c : Nat) (x : SysCore) : (s.setCore p d c x).groups = s.groups := rfl
@[simp] theorem State.setCore_wgs (s : State) (p d c : Nat) (x : SysCore) : (s.setCore p d c x).wgs = s.wgs := rfl
@[simp] theorem State.setCore_launches (s : State) (p d c : Nat) (x : SysCore) : (s.setCore p d c x).launches = s.launches := rfl
@[simp] theorem State.setCore_formed (s : State) (p d c : Nat) (x : SysCore) : (s.setCore p d c x).formed = s.formed := rfl
@[simp] theorem State.setCore_patterns (s : State) (p d c : Nat) (x : SysCore) : (s.setCore p d c x).patterns = s.patterns := rfl
@[simp] theorem State.setCore_armers (s : State) (p d c : Nat) (x : SysCore) : (s.setCore p d c x).armers = s.armers := rfl
@[simp] theorem State.setCore_boards (s : State) (p d c : Nat) (x : SysCore) : (s.setCore p d c x).boards = s.boards := rfl
@[simp] theorem State.setCore_chains (s : State) (p d c : Nat) (x : SysCore) : (s.setCore p d c x).chains = s.chains := rfl
@[simp] theorem State.setCore_engineLast (s : State) (p d c : Nat) (x : SysCore) : (s.setCore p d c x).engineLast = s.engineLast := rfl
@[simp] theorem State.setCore_cmds (s : State) (p d c : Nat) (x : SysCore) : (s.setCore p d c x).cmds = s.cmds := rfl
@[simp] theorem State.setCore_posts (s : State) (p d c : Nat) (x : SysCore) : (s.setCore p d c x).posts = s.posts := rfl
@[simp] theorem State.setCore_tensors (s : State) (p d c : Nat) (x : SysCore) : (s.setCore p d c x).tensors = s.tensors := rfl
@[simp] theorem State.setCore_tiles (s : State) (p d c : Nat) (x : SysCore) : (s.setCore p d c x).tiles = s.tiles := rfl
@[simp] theorem State.setCore_dominoes (s : State) (p d c : Nat) (x : SysCore) : (s.setCore p d c x).dominoes = s.dominoes := rfl
@[simp] theorem State.setCore_streams (s : State) (p d c : Nat) (x : SysCore) : (s.setCore p d c x).streams = s.streams := rfl
@[simp] theorem State.setCore_rotation (s : State) (p d c : Nat) (x : SysCore) : (s.setCore p d c x).rotation = s.rotation := rfl
@[simp] theorem State.setCore_ops (s : State) (p d c : Nat) (x : SysCore) : (s.setCore p d c x).ops = s.ops := rfl
@[simp] theorem State.setCore_parts (s : State) (p d c : Nat) (x : SysCore) : (s.setCore p d c x).parts = s.parts := rfl
@[simp] theorem State.setCore_dies (s : State) (p d c : Nat) (x : SysCore) : (s.setCore p d c x).dies = s.dies := rfl
@[simp] theorem State.setCore_rings (s : State) (p d c : Nat) (x : SysCore) : (s.setCore p d c x).rings = s.rings := rfl
@[simp] theorem State.setCore_lost (s : State) (p d c : Nat) (x : SysCore) : (s.setCore p d c x).lost = s.lost := rfl
@[simp] theorem State.setCore_plan (s : State) (p d c : Nat) (x : SysCore) : (s.setCore p d c x).plan = s.plan := rfl
@[simp] theorem State.setCore_sent (s : State) (p d c : Nat) (x : SysCore) : (s.setCore p d c x).sent = s.sent := rfl
@[simp] theorem State.setCore_faults (s : State) (p d c : Nat) (x : SysCore) : (s.setCore p d c x).faults = s.faults := rfl
@[simp] theorem State.setCore_nextId (s : State) (p d c : Nat) (x : SysCore) : (s.setCore p d c x).nextId = s.nextId := rfl

/-! ## setGroup -/

@[simp] theorem State.setGroup_cycle (s : State) (g : Nat) (x : Group) : (s.setGroup g x).cycle = s.cycle := rfl
@[simp] theorem State.setGroup_free (s : State) (g : Nat) (x : Group) : (s.setGroup g x).free = s.free := rfl
@[simp] theorem State.setGroup_turns (s : State) (g : Nat) (x : Group) : (s.setGroup g x).turns = s.turns := rfl
@[simp] theorem State.setGroup_cur (s : State) (g : Nat) (x : Group) : (s.setGroup g x).cur = s.cur := rfl
@[simp] theorem State.setGroup_word (s : State) (g : Nat) (x : Group) : (s.setGroup g x).word = s.word := rfl
@[simp] theorem State.setGroup_mem (s : State) (g : Nat) (x : Group) : (s.setGroup g x).mem = s.mem := rfl
@[simp] theorem State.setGroup_grans (s : State) (g : Nat) (x : Group) : (s.setGroup g x).grans = s.grans := rfl
@[simp] theorem State.setGroup_units (s : State) (g : Nat) (x : Group) : (s.setGroup g x).units = s.units := rfl
@[simp] theorem State.setGroup_buffered (s : State) (g : Nat) (x : Group) : (s.setGroup g x).buffered = s.buffered := rfl
@[simp] theorem State.setGroup_race (s : State) (g : Nat) (x : Group) : (s.setGroup g x).race = s.race := rfl
@[simp] theorem State.setGroup_pkgs (s : State) (g : Nat) (x : Group) : (s.setGroup g x).pkgs = s.pkgs := rfl
@[simp] theorem State.setGroup_ctxs (s : State) (g : Nat) (x : Group) : (s.setGroup g x).ctxs = s.ctxs := rfl
@[simp] theorem State.setGroup_cores (s : State) (g : Nat) (x : Group) : (s.setGroup g x).cores = s.cores := rfl
@[simp] theorem State.setGroup_wgs (s : State) (g : Nat) (x : Group) : (s.setGroup g x).wgs = s.wgs := rfl
@[simp] theorem State.setGroup_launches (s : State) (g : Nat) (x : Group) : (s.setGroup g x).launches = s.launches := rfl
@[simp] theorem State.setGroup_formed (s : State) (g : Nat) (x : Group) : (s.setGroup g x).formed = s.formed := rfl
@[simp] theorem State.setGroup_patterns (s : State) (g : Nat) (x : Group) : (s.setGroup g x).patterns = s.patterns := rfl
@[simp] theorem State.setGroup_armers (s : State) (g : Nat) (x : Group) : (s.setGroup g x).armers = s.armers := rfl
@[simp] theorem State.setGroup_boards (s : State) (g : Nat) (x : Group) : (s.setGroup g x).boards = s.boards := rfl
@[simp] theorem State.setGroup_chains (s : State) (g : Nat) (x : Group) : (s.setGroup g x).chains = s.chains := rfl
@[simp] theorem State.setGroup_engineLast (s : State) (g : Nat) (x : Group) : (s.setGroup g x).engineLast = s.engineLast := rfl
@[simp] theorem State.setGroup_cmds (s : State) (g : Nat) (x : Group) : (s.setGroup g x).cmds = s.cmds := rfl
@[simp] theorem State.setGroup_posts (s : State) (g : Nat) (x : Group) : (s.setGroup g x).posts = s.posts := rfl
@[simp] theorem State.setGroup_tensors (s : State) (g : Nat) (x : Group) : (s.setGroup g x).tensors = s.tensors := rfl
@[simp] theorem State.setGroup_tiles (s : State) (g : Nat) (x : Group) : (s.setGroup g x).tiles = s.tiles := rfl
@[simp] theorem State.setGroup_dominoes (s : State) (g : Nat) (x : Group) : (s.setGroup g x).dominoes = s.dominoes := rfl
@[simp] theorem State.setGroup_streams (s : State) (g : Nat) (x : Group) : (s.setGroup g x).streams = s.streams := rfl
@[simp] theorem State.setGroup_rotation (s : State) (g : Nat) (x : Group) : (s.setGroup g x).rotation = s.rotation := rfl
@[simp] theorem State.setGroup_ops (s : State) (g : Nat) (x : Group) : (s.setGroup g x).ops = s.ops := rfl
@[simp] theorem State.setGroup_parts (s : State) (g : Nat) (x : Group) : (s.setGroup g x).parts = s.parts := rfl
@[simp] theorem State.setGroup_dies (s : State) (g : Nat) (x : Group) : (s.setGroup g x).dies = s.dies := rfl
@[simp] theorem State.setGroup_rings (s : State) (g : Nat) (x : Group) : (s.setGroup g x).rings = s.rings := rfl
@[simp] theorem State.setGroup_lost (s : State) (g : Nat) (x : Group) : (s.setGroup g x).lost = s.lost := rfl
@[simp] theorem State.setGroup_plan (s : State) (g : Nat) (x : Group) : (s.setGroup g x).plan = s.plan := rfl
@[simp] theorem State.setGroup_sent (s : State) (g : Nat) (x : Group) : (s.setGroup g x).sent = s.sent := rfl
@[simp] theorem State.setGroup_faults (s : State) (g : Nat) (x : Group) : (s.setGroup g x).faults = s.faults := rfl
@[simp] theorem State.setGroup_nextId (s : State) (g : Nat) (x : Group) : (s.setGroup g x).nextId = s.nextId := rfl

/-! ## setWg -/

@[simp] theorem State.setWg_cycle (s : State) (w : Nat) (x : Workgroup) : (s.setWg w x).cycle = s.cycle := rfl
@[simp] theorem State.setWg_free (s : State) (w : Nat) (x : Workgroup) : (s.setWg w x).free = s.free := rfl
@[simp] theorem State.setWg_turns (s : State) (w : Nat) (x : Workgroup) : (s.setWg w x).turns = s.turns := rfl
@[simp] theorem State.setWg_cur (s : State) (w : Nat) (x : Workgroup) : (s.setWg w x).cur = s.cur := rfl
@[simp] theorem State.setWg_word (s : State) (w : Nat) (x : Workgroup) : (s.setWg w x).word = s.word := rfl
@[simp] theorem State.setWg_mem (s : State) (w : Nat) (x : Workgroup) : (s.setWg w x).mem = s.mem := rfl
@[simp] theorem State.setWg_grans (s : State) (w : Nat) (x : Workgroup) : (s.setWg w x).grans = s.grans := rfl
@[simp] theorem State.setWg_units (s : State) (w : Nat) (x : Workgroup) : (s.setWg w x).units = s.units := rfl
@[simp] theorem State.setWg_buffered (s : State) (w : Nat) (x : Workgroup) : (s.setWg w x).buffered = s.buffered := rfl
@[simp] theorem State.setWg_race (s : State) (w : Nat) (x : Workgroup) : (s.setWg w x).race = s.race := rfl
@[simp] theorem State.setWg_pkgs (s : State) (w : Nat) (x : Workgroup) : (s.setWg w x).pkgs = s.pkgs := rfl
@[simp] theorem State.setWg_ctxs (s : State) (w : Nat) (x : Workgroup) : (s.setWg w x).ctxs = s.ctxs := rfl
@[simp] theorem State.setWg_cores (s : State) (w : Nat) (x : Workgroup) : (s.setWg w x).cores = s.cores := rfl
@[simp] theorem State.setWg_groups (s : State) (w : Nat) (x : Workgroup) : (s.setWg w x).groups = s.groups := rfl
@[simp] theorem State.setWg_launches (s : State) (w : Nat) (x : Workgroup) : (s.setWg w x).launches = s.launches := rfl
@[simp] theorem State.setWg_formed (s : State) (w : Nat) (x : Workgroup) : (s.setWg w x).formed = s.formed := rfl
@[simp] theorem State.setWg_patterns (s : State) (w : Nat) (x : Workgroup) : (s.setWg w x).patterns = s.patterns := rfl
@[simp] theorem State.setWg_armers (s : State) (w : Nat) (x : Workgroup) : (s.setWg w x).armers = s.armers := rfl
@[simp] theorem State.setWg_boards (s : State) (w : Nat) (x : Workgroup) : (s.setWg w x).boards = s.boards := rfl
@[simp] theorem State.setWg_chains (s : State) (w : Nat) (x : Workgroup) : (s.setWg w x).chains = s.chains := rfl
@[simp] theorem State.setWg_engineLast (s : State) (w : Nat) (x : Workgroup) : (s.setWg w x).engineLast = s.engineLast := rfl
@[simp] theorem State.setWg_cmds (s : State) (w : Nat) (x : Workgroup) : (s.setWg w x).cmds = s.cmds := rfl
@[simp] theorem State.setWg_posts (s : State) (w : Nat) (x : Workgroup) : (s.setWg w x).posts = s.posts := rfl
@[simp] theorem State.setWg_tensors (s : State) (w : Nat) (x : Workgroup) : (s.setWg w x).tensors = s.tensors := rfl
@[simp] theorem State.setWg_tiles (s : State) (w : Nat) (x : Workgroup) : (s.setWg w x).tiles = s.tiles := rfl
@[simp] theorem State.setWg_dominoes (s : State) (w : Nat) (x : Workgroup) : (s.setWg w x).dominoes = s.dominoes := rfl
@[simp] theorem State.setWg_streams (s : State) (w : Nat) (x : Workgroup) : (s.setWg w x).streams = s.streams := rfl
@[simp] theorem State.setWg_rotation (s : State) (w : Nat) (x : Workgroup) : (s.setWg w x).rotation = s.rotation := rfl
@[simp] theorem State.setWg_ops (s : State) (w : Nat) (x : Workgroup) : (s.setWg w x).ops = s.ops := rfl
@[simp] theorem State.setWg_parts (s : State) (w : Nat) (x : Workgroup) : (s.setWg w x).parts = s.parts := rfl
@[simp] theorem State.setWg_dies (s : State) (w : Nat) (x : Workgroup) : (s.setWg w x).dies = s.dies := rfl
@[simp] theorem State.setWg_rings (s : State) (w : Nat) (x : Workgroup) : (s.setWg w x).rings = s.rings := rfl
@[simp] theorem State.setWg_lost (s : State) (w : Nat) (x : Workgroup) : (s.setWg w x).lost = s.lost := rfl
@[simp] theorem State.setWg_plan (s : State) (w : Nat) (x : Workgroup) : (s.setWg w x).plan = s.plan := rfl
@[simp] theorem State.setWg_sent (s : State) (w : Nat) (x : Workgroup) : (s.setWg w x).sent = s.sent := rfl
@[simp] theorem State.setWg_faults (s : State) (w : Nat) (x : Workgroup) : (s.setWg w x).faults = s.faults := rfl
@[simp] theorem State.setWg_nextId (s : State) (w : Nat) (x : Workgroup) : (s.setWg w x).nextId = s.nextId := rfl

/-! ## setLaunch -/

@[simp] theorem State.setLaunch_cycle (s : State) (l : Nat) (x : Launch) : (s.setLaunch l x).cycle = s.cycle := rfl
@[simp] theorem State.setLaunch_free (s : State) (l : Nat) (x : Launch) : (s.setLaunch l x).free = s.free := rfl
@[simp] theorem State.setLaunch_turns (s : State) (l : Nat) (x : Launch) : (s.setLaunch l x).turns = s.turns := rfl
@[simp] theorem State.setLaunch_cur (s : State) (l : Nat) (x : Launch) : (s.setLaunch l x).cur = s.cur := rfl
@[simp] theorem State.setLaunch_word (s : State) (l : Nat) (x : Launch) : (s.setLaunch l x).word = s.word := rfl
@[simp] theorem State.setLaunch_mem (s : State) (l : Nat) (x : Launch) : (s.setLaunch l x).mem = s.mem := rfl
@[simp] theorem State.setLaunch_grans (s : State) (l : Nat) (x : Launch) : (s.setLaunch l x).grans = s.grans := rfl
@[simp] theorem State.setLaunch_units (s : State) (l : Nat) (x : Launch) : (s.setLaunch l x).units = s.units := rfl
@[simp] theorem State.setLaunch_buffered (s : State) (l : Nat) (x : Launch) : (s.setLaunch l x).buffered = s.buffered := rfl
@[simp] theorem State.setLaunch_race (s : State) (l : Nat) (x : Launch) : (s.setLaunch l x).race = s.race := rfl
@[simp] theorem State.setLaunch_pkgs (s : State) (l : Nat) (x : Launch) : (s.setLaunch l x).pkgs = s.pkgs := rfl
@[simp] theorem State.setLaunch_ctxs (s : State) (l : Nat) (x : Launch) : (s.setLaunch l x).ctxs = s.ctxs := rfl
@[simp] theorem State.setLaunch_cores (s : State) (l : Nat) (x : Launch) : (s.setLaunch l x).cores = s.cores := rfl
@[simp] theorem State.setLaunch_groups (s : State) (l : Nat) (x : Launch) : (s.setLaunch l x).groups = s.groups := rfl
@[simp] theorem State.setLaunch_wgs (s : State) (l : Nat) (x : Launch) : (s.setLaunch l x).wgs = s.wgs := rfl
@[simp] theorem State.setLaunch_formed (s : State) (l : Nat) (x : Launch) : (s.setLaunch l x).formed = s.formed := rfl
@[simp] theorem State.setLaunch_patterns (s : State) (l : Nat) (x : Launch) : (s.setLaunch l x).patterns = s.patterns := rfl
@[simp] theorem State.setLaunch_armers (s : State) (l : Nat) (x : Launch) : (s.setLaunch l x).armers = s.armers := rfl
@[simp] theorem State.setLaunch_boards (s : State) (l : Nat) (x : Launch) : (s.setLaunch l x).boards = s.boards := rfl
@[simp] theorem State.setLaunch_chains (s : State) (l : Nat) (x : Launch) : (s.setLaunch l x).chains = s.chains := rfl
@[simp] theorem State.setLaunch_engineLast (s : State) (l : Nat) (x : Launch) : (s.setLaunch l x).engineLast = s.engineLast := rfl
@[simp] theorem State.setLaunch_cmds (s : State) (l : Nat) (x : Launch) : (s.setLaunch l x).cmds = s.cmds := rfl
@[simp] theorem State.setLaunch_posts (s : State) (l : Nat) (x : Launch) : (s.setLaunch l x).posts = s.posts := rfl
@[simp] theorem State.setLaunch_tensors (s : State) (l : Nat) (x : Launch) : (s.setLaunch l x).tensors = s.tensors := rfl
@[simp] theorem State.setLaunch_tiles (s : State) (l : Nat) (x : Launch) : (s.setLaunch l x).tiles = s.tiles := rfl
@[simp] theorem State.setLaunch_dominoes (s : State) (l : Nat) (x : Launch) : (s.setLaunch l x).dominoes = s.dominoes := rfl
@[simp] theorem State.setLaunch_streams (s : State) (l : Nat) (x : Launch) : (s.setLaunch l x).streams = s.streams := rfl
@[simp] theorem State.setLaunch_rotation (s : State) (l : Nat) (x : Launch) : (s.setLaunch l x).rotation = s.rotation := rfl
@[simp] theorem State.setLaunch_ops (s : State) (l : Nat) (x : Launch) : (s.setLaunch l x).ops = s.ops := rfl
@[simp] theorem State.setLaunch_parts (s : State) (l : Nat) (x : Launch) : (s.setLaunch l x).parts = s.parts := rfl
@[simp] theorem State.setLaunch_dies (s : State) (l : Nat) (x : Launch) : (s.setLaunch l x).dies = s.dies := rfl
@[simp] theorem State.setLaunch_rings (s : State) (l : Nat) (x : Launch) : (s.setLaunch l x).rings = s.rings := rfl
@[simp] theorem State.setLaunch_lost (s : State) (l : Nat) (x : Launch) : (s.setLaunch l x).lost = s.lost := rfl
@[simp] theorem State.setLaunch_plan (s : State) (l : Nat) (x : Launch) : (s.setLaunch l x).plan = s.plan := rfl
@[simp] theorem State.setLaunch_sent (s : State) (l : Nat) (x : Launch) : (s.setLaunch l x).sent = s.sent := rfl
@[simp] theorem State.setLaunch_faults (s : State) (l : Nat) (x : Launch) : (s.setLaunch l x).faults = s.faults := rfl
@[simp] theorem State.setLaunch_nextId (s : State) (l : Nat) (x : Launch) : (s.setLaunch l x).nextId = s.nextId := rfl

/-! ## setPkg -/

@[simp] theorem State.setPkg_cycle (s : State) (p : Nat) (x : Pkg) : (s.setPkg p x).cycle = s.cycle := rfl
@[simp] theorem State.setPkg_free (s : State) (p : Nat) (x : Pkg) : (s.setPkg p x).free = s.free := rfl
@[simp] theorem State.setPkg_turns (s : State) (p : Nat) (x : Pkg) : (s.setPkg p x).turns = s.turns := rfl
@[simp] theorem State.setPkg_cur (s : State) (p : Nat) (x : Pkg) : (s.setPkg p x).cur = s.cur := rfl
@[simp] theorem State.setPkg_word (s : State) (p : Nat) (x : Pkg) : (s.setPkg p x).word = s.word := rfl
@[simp] theorem State.setPkg_mem (s : State) (p : Nat) (x : Pkg) : (s.setPkg p x).mem = s.mem := rfl
@[simp] theorem State.setPkg_grans (s : State) (p : Nat) (x : Pkg) : (s.setPkg p x).grans = s.grans := rfl
@[simp] theorem State.setPkg_units (s : State) (p : Nat) (x : Pkg) : (s.setPkg p x).units = s.units := rfl
@[simp] theorem State.setPkg_buffered (s : State) (p : Nat) (x : Pkg) : (s.setPkg p x).buffered = s.buffered := rfl
@[simp] theorem State.setPkg_race (s : State) (p : Nat) (x : Pkg) : (s.setPkg p x).race = s.race := rfl
@[simp] theorem State.setPkg_ctxs (s : State) (p : Nat) (x : Pkg) : (s.setPkg p x).ctxs = s.ctxs := rfl
@[simp] theorem State.setPkg_cores (s : State) (p : Nat) (x : Pkg) : (s.setPkg p x).cores = s.cores := rfl
@[simp] theorem State.setPkg_groups (s : State) (p : Nat) (x : Pkg) : (s.setPkg p x).groups = s.groups := rfl
@[simp] theorem State.setPkg_wgs (s : State) (p : Nat) (x : Pkg) : (s.setPkg p x).wgs = s.wgs := rfl
@[simp] theorem State.setPkg_launches (s : State) (p : Nat) (x : Pkg) : (s.setPkg p x).launches = s.launches := rfl
@[simp] theorem State.setPkg_formed (s : State) (p : Nat) (x : Pkg) : (s.setPkg p x).formed = s.formed := rfl
@[simp] theorem State.setPkg_patterns (s : State) (p : Nat) (x : Pkg) : (s.setPkg p x).patterns = s.patterns := rfl
@[simp] theorem State.setPkg_armers (s : State) (p : Nat) (x : Pkg) : (s.setPkg p x).armers = s.armers := rfl
@[simp] theorem State.setPkg_boards (s : State) (p : Nat) (x : Pkg) : (s.setPkg p x).boards = s.boards := rfl
@[simp] theorem State.setPkg_chains (s : State) (p : Nat) (x : Pkg) : (s.setPkg p x).chains = s.chains := rfl
@[simp] theorem State.setPkg_engineLast (s : State) (p : Nat) (x : Pkg) : (s.setPkg p x).engineLast = s.engineLast := rfl
@[simp] theorem State.setPkg_cmds (s : State) (p : Nat) (x : Pkg) : (s.setPkg p x).cmds = s.cmds := rfl
@[simp] theorem State.setPkg_posts (s : State) (p : Nat) (x : Pkg) : (s.setPkg p x).posts = s.posts := rfl
@[simp] theorem State.setPkg_tensors (s : State) (p : Nat) (x : Pkg) : (s.setPkg p x).tensors = s.tensors := rfl
@[simp] theorem State.setPkg_tiles (s : State) (p : Nat) (x : Pkg) : (s.setPkg p x).tiles = s.tiles := rfl
@[simp] theorem State.setPkg_dominoes (s : State) (p : Nat) (x : Pkg) : (s.setPkg p x).dominoes = s.dominoes := rfl
@[simp] theorem State.setPkg_streams (s : State) (p : Nat) (x : Pkg) : (s.setPkg p x).streams = s.streams := rfl
@[simp] theorem State.setPkg_rotation (s : State) (p : Nat) (x : Pkg) : (s.setPkg p x).rotation = s.rotation := rfl
@[simp] theorem State.setPkg_ops (s : State) (p : Nat) (x : Pkg) : (s.setPkg p x).ops = s.ops := rfl
@[simp] theorem State.setPkg_parts (s : State) (p : Nat) (x : Pkg) : (s.setPkg p x).parts = s.parts := rfl
@[simp] theorem State.setPkg_dies (s : State) (p : Nat) (x : Pkg) : (s.setPkg p x).dies = s.dies := rfl
@[simp] theorem State.setPkg_rings (s : State) (p : Nat) (x : Pkg) : (s.setPkg p x).rings = s.rings := rfl
@[simp] theorem State.setPkg_lost (s : State) (p : Nat) (x : Pkg) : (s.setPkg p x).lost = s.lost := rfl
@[simp] theorem State.setPkg_plan (s : State) (p : Nat) (x : Pkg) : (s.setPkg p x).plan = s.plan := rfl
@[simp] theorem State.setPkg_sent (s : State) (p : Nat) (x : Pkg) : (s.setPkg p x).sent = s.sent := rfl
@[simp] theorem State.setPkg_faults (s : State) (p : Nat) (x : Pkg) : (s.setPkg p x).faults = s.faults := rfl
@[simp] theorem State.setPkg_nextId (s : State) (p : Nat) (x : Pkg) : (s.setPkg p x).nextId = s.nextId := rfl

/-! ## setCtx -/

@[simp] theorem State.setCtx_cycle (s : State) (p c : Nat) (x : Ctx) : (s.setCtx p c x).cycle = s.cycle := rfl
@[simp] theorem State.setCtx_free (s : State) (p c : Nat) (x : Ctx) : (s.setCtx p c x).free = s.free := rfl
@[simp] theorem State.setCtx_turns (s : State) (p c : Nat) (x : Ctx) : (s.setCtx p c x).turns = s.turns := rfl
@[simp] theorem State.setCtx_cur (s : State) (p c : Nat) (x : Ctx) : (s.setCtx p c x).cur = s.cur := rfl
@[simp] theorem State.setCtx_word (s : State) (p c : Nat) (x : Ctx) : (s.setCtx p c x).word = s.word := rfl
@[simp] theorem State.setCtx_mem (s : State) (p c : Nat) (x : Ctx) : (s.setCtx p c x).mem = s.mem := rfl
@[simp] theorem State.setCtx_grans (s : State) (p c : Nat) (x : Ctx) : (s.setCtx p c x).grans = s.grans := rfl
@[simp] theorem State.setCtx_units (s : State) (p c : Nat) (x : Ctx) : (s.setCtx p c x).units = s.units := rfl
@[simp] theorem State.setCtx_buffered (s : State) (p c : Nat) (x : Ctx) : (s.setCtx p c x).buffered = s.buffered := rfl
@[simp] theorem State.setCtx_race (s : State) (p c : Nat) (x : Ctx) : (s.setCtx p c x).race = s.race := rfl
@[simp] theorem State.setCtx_pkgs (s : State) (p c : Nat) (x : Ctx) : (s.setCtx p c x).pkgs = s.pkgs := rfl
@[simp] theorem State.setCtx_cores (s : State) (p c : Nat) (x : Ctx) : (s.setCtx p c x).cores = s.cores := rfl
@[simp] theorem State.setCtx_groups (s : State) (p c : Nat) (x : Ctx) : (s.setCtx p c x).groups = s.groups := rfl
@[simp] theorem State.setCtx_wgs (s : State) (p c : Nat) (x : Ctx) : (s.setCtx p c x).wgs = s.wgs := rfl
@[simp] theorem State.setCtx_launches (s : State) (p c : Nat) (x : Ctx) : (s.setCtx p c x).launches = s.launches := rfl
@[simp] theorem State.setCtx_formed (s : State) (p c : Nat) (x : Ctx) : (s.setCtx p c x).formed = s.formed := rfl
@[simp] theorem State.setCtx_patterns (s : State) (p c : Nat) (x : Ctx) : (s.setCtx p c x).patterns = s.patterns := rfl
@[simp] theorem State.setCtx_armers (s : State) (p c : Nat) (x : Ctx) : (s.setCtx p c x).armers = s.armers := rfl
@[simp] theorem State.setCtx_boards (s : State) (p c : Nat) (x : Ctx) : (s.setCtx p c x).boards = s.boards := rfl
@[simp] theorem State.setCtx_chains (s : State) (p c : Nat) (x : Ctx) : (s.setCtx p c x).chains = s.chains := rfl
@[simp] theorem State.setCtx_engineLast (s : State) (p c : Nat) (x : Ctx) : (s.setCtx p c x).engineLast = s.engineLast := rfl
@[simp] theorem State.setCtx_cmds (s : State) (p c : Nat) (x : Ctx) : (s.setCtx p c x).cmds = s.cmds := rfl
@[simp] theorem State.setCtx_posts (s : State) (p c : Nat) (x : Ctx) : (s.setCtx p c x).posts = s.posts := rfl
@[simp] theorem State.setCtx_tensors (s : State) (p c : Nat) (x : Ctx) : (s.setCtx p c x).tensors = s.tensors := rfl
@[simp] theorem State.setCtx_tiles (s : State) (p c : Nat) (x : Ctx) : (s.setCtx p c x).tiles = s.tiles := rfl
@[simp] theorem State.setCtx_dominoes (s : State) (p c : Nat) (x : Ctx) : (s.setCtx p c x).dominoes = s.dominoes := rfl
@[simp] theorem State.setCtx_streams (s : State) (p c : Nat) (x : Ctx) : (s.setCtx p c x).streams = s.streams := rfl
@[simp] theorem State.setCtx_rotation (s : State) (p c : Nat) (x : Ctx) : (s.setCtx p c x).rotation = s.rotation := rfl
@[simp] theorem State.setCtx_ops (s : State) (p c : Nat) (x : Ctx) : (s.setCtx p c x).ops = s.ops := rfl
@[simp] theorem State.setCtx_parts (s : State) (p c : Nat) (x : Ctx) : (s.setCtx p c x).parts = s.parts := rfl
@[simp] theorem State.setCtx_dies (s : State) (p c : Nat) (x : Ctx) : (s.setCtx p c x).dies = s.dies := rfl
@[simp] theorem State.setCtx_rings (s : State) (p c : Nat) (x : Ctx) : (s.setCtx p c x).rings = s.rings := rfl
@[simp] theorem State.setCtx_lost (s : State) (p c : Nat) (x : Ctx) : (s.setCtx p c x).lost = s.lost := rfl
@[simp] theorem State.setCtx_plan (s : State) (p c : Nat) (x : Ctx) : (s.setCtx p c x).plan = s.plan := rfl
@[simp] theorem State.setCtx_sent (s : State) (p c : Nat) (x : Ctx) : (s.setCtx p c x).sent = s.sent := rfl
@[simp] theorem State.setCtx_faults (s : State) (p c : Nat) (x : Ctx) : (s.setCtx p c x).faults = s.faults := rfl
@[simp] theorem State.setCtx_nextId (s : State) (p c : Nat) (x : Ctx) : (s.setCtx p c x).nextId = s.nextId := rfl

/-! ## Slots and scalar sides -/

@[simp] theorem State.setHart_cycle (s : State) (a : Agent) (x : Hart) : (s.setHart a x).cycle = s.cycle := by cases a <;> rfl
@[simp] theorem State.setHart_free (s : State) (a : Agent) (x : Hart) : (s.setHart a x).free = s.free := by cases a <;> rfl
@[simp] theorem State.setHart_turns (s : State) (a : Agent) (x : Hart) : (s.setHart a x).turns = s.turns := by cases a <;> rfl
@[simp] theorem State.setHart_cur (s : State) (a : Agent) (x : Hart) : (s.setHart a x).cur = s.cur := by cases a <;> rfl
@[simp] theorem State.setHart_word (s : State) (a : Agent) (x : Hart) : (s.setHart a x).word = s.word := by cases a <;> rfl
@[simp] theorem State.setHart_mem (s : State) (a : Agent) (x : Hart) : (s.setHart a x).mem = s.mem := by cases a <;> rfl
@[simp] theorem State.setHart_grans (s : State) (a : Agent) (x : Hart) : (s.setHart a x).grans = s.grans := by cases a <;> rfl
@[simp] theorem State.setHart_units (s : State) (a : Agent) (x : Hart) : (s.setHart a x).units = s.units := by cases a <;> rfl
@[simp] theorem State.setHart_buffered (s : State) (a : Agent) (x : Hart) : (s.setHart a x).buffered = s.buffered := by cases a <;> rfl
@[simp] theorem State.setHart_race (s : State) (a : Agent) (x : Hart) : (s.setHart a x).race = s.race := by cases a <;> rfl
@[simp] theorem State.setHart_pkgs (s : State) (a : Agent) (x : Hart) : (s.setHart a x).pkgs = s.pkgs := by cases a <;> rfl
@[simp] theorem State.setHart_ctxs (s : State) (a : Agent) (x : Hart) : (s.setHart a x).ctxs = s.ctxs := by cases a <;> rfl
@[simp] theorem State.setHart_wgs (s : State) (a : Agent) (x : Hart) : (s.setHart a x).wgs = s.wgs := by cases a <;> rfl
@[simp] theorem State.setHart_launches (s : State) (a : Agent) (x : Hart) : (s.setHart a x).launches = s.launches := by cases a <;> rfl
@[simp] theorem State.setHart_formed (s : State) (a : Agent) (x : Hart) : (s.setHart a x).formed = s.formed := by cases a <;> rfl
@[simp] theorem State.setHart_patterns (s : State) (a : Agent) (x : Hart) : (s.setHart a x).patterns = s.patterns := by cases a <;> rfl
@[simp] theorem State.setHart_armers (s : State) (a : Agent) (x : Hart) : (s.setHart a x).armers = s.armers := by cases a <;> rfl
@[simp] theorem State.setHart_boards (s : State) (a : Agent) (x : Hart) : (s.setHart a x).boards = s.boards := by cases a <;> rfl
@[simp] theorem State.setHart_chains (s : State) (a : Agent) (x : Hart) : (s.setHart a x).chains = s.chains := by cases a <;> rfl
@[simp] theorem State.setHart_engineLast (s : State) (a : Agent) (x : Hart) : (s.setHart a x).engineLast = s.engineLast := by cases a <;> rfl
@[simp] theorem State.setHart_cmds (s : State) (a : Agent) (x : Hart) : (s.setHart a x).cmds = s.cmds := by cases a <;> rfl
@[simp] theorem State.setHart_posts (s : State) (a : Agent) (x : Hart) : (s.setHart a x).posts = s.posts := by cases a <;> rfl
@[simp] theorem State.setHart_tensors (s : State) (a : Agent) (x : Hart) : (s.setHart a x).tensors = s.tensors := by cases a <;> rfl
@[simp] theorem State.setHart_tiles (s : State) (a : Agent) (x : Hart) : (s.setHart a x).tiles = s.tiles := by cases a <;> rfl
@[simp] theorem State.setHart_dominoes (s : State) (a : Agent) (x : Hart) : (s.setHart a x).dominoes = s.dominoes := by cases a <;> rfl
@[simp] theorem State.setHart_streams (s : State) (a : Agent) (x : Hart) : (s.setHart a x).streams = s.streams := by cases a <;> rfl
@[simp] theorem State.setHart_rotation (s : State) (a : Agent) (x : Hart) : (s.setHart a x).rotation = s.rotation := by cases a <;> rfl
@[simp] theorem State.setHart_ops (s : State) (a : Agent) (x : Hart) : (s.setHart a x).ops = s.ops := by cases a <;> rfl
@[simp] theorem State.setHart_parts (s : State) (a : Agent) (x : Hart) : (s.setHart a x).parts = s.parts := by cases a <;> rfl
@[simp] theorem State.setHart_dies (s : State) (a : Agent) (x : Hart) : (s.setHart a x).dies = s.dies := by cases a <;> rfl
@[simp] theorem State.setHart_rings (s : State) (a : Agent) (x : Hart) : (s.setHart a x).rings = s.rings := by cases a <;> rfl
@[simp] theorem State.setHart_lost (s : State) (a : Agent) (x : Hart) : (s.setHart a x).lost = s.lost := by cases a <;> rfl
@[simp] theorem State.setHart_plan (s : State) (a : Agent) (x : Hart) : (s.setHart a x).plan = s.plan := by cases a <;> rfl
@[simp] theorem State.setHart_sent (s : State) (a : Agent) (x : Hart) : (s.setHart a x).sent = s.sent := by cases a <;> rfl
@[simp] theorem State.setHart_faults (s : State) (a : Agent) (x : Hart) : (s.setHart a x).faults = s.faults := by cases a <;> rfl
@[simp] theorem State.setHart_nextId (s : State) (a : Agent) (x : Hart) : (s.setHart a x).nextId = s.nextId := by cases a <;> rfl

@[simp] theorem State.setSlot_cycle (s : State) (a : Agent) (x : Slot) : (s.setSlot a x).cycle = s.cycle := by cases a <;> rfl
@[simp] theorem State.setSlot_free (s : State) (a : Agent) (x : Slot) : (s.setSlot a x).free = s.free := by cases a <;> rfl
@[simp] theorem State.setSlot_turns (s : State) (a : Agent) (x : Slot) : (s.setSlot a x).turns = s.turns := by cases a <;> rfl
@[simp] theorem State.setSlot_cur (s : State) (a : Agent) (x : Slot) : (s.setSlot a x).cur = s.cur := by cases a <;> rfl
@[simp] theorem State.setSlot_word (s : State) (a : Agent) (x : Slot) : (s.setSlot a x).word = s.word := by cases a <;> rfl
@[simp] theorem State.setSlot_mem (s : State) (a : Agent) (x : Slot) : (s.setSlot a x).mem = s.mem := by cases a <;> rfl
@[simp] theorem State.setSlot_grans (s : State) (a : Agent) (x : Slot) : (s.setSlot a x).grans = s.grans := by cases a <;> rfl
@[simp] theorem State.setSlot_units (s : State) (a : Agent) (x : Slot) : (s.setSlot a x).units = s.units := by cases a <;> rfl
@[simp] theorem State.setSlot_buffered (s : State) (a : Agent) (x : Slot) : (s.setSlot a x).buffered = s.buffered := by cases a <;> rfl
@[simp] theorem State.setSlot_race (s : State) (a : Agent) (x : Slot) : (s.setSlot a x).race = s.race := by cases a <;> rfl
@[simp] theorem State.setSlot_pkgs (s : State) (a : Agent) (x : Slot) : (s.setSlot a x).pkgs = s.pkgs := by cases a <;> rfl
@[simp] theorem State.setSlot_ctxs (s : State) (a : Agent) (x : Slot) : (s.setSlot a x).ctxs = s.ctxs := by cases a <;> rfl
@[simp] theorem State.setSlot_wgs (s : State) (a : Agent) (x : Slot) : (s.setSlot a x).wgs = s.wgs := by cases a <;> rfl
@[simp] theorem State.setSlot_launches (s : State) (a : Agent) (x : Slot) : (s.setSlot a x).launches = s.launches := by cases a <;> rfl
@[simp] theorem State.setSlot_formed (s : State) (a : Agent) (x : Slot) : (s.setSlot a x).formed = s.formed := by cases a <;> rfl
@[simp] theorem State.setSlot_patterns (s : State) (a : Agent) (x : Slot) : (s.setSlot a x).patterns = s.patterns := by cases a <;> rfl
@[simp] theorem State.setSlot_armers (s : State) (a : Agent) (x : Slot) : (s.setSlot a x).armers = s.armers := by cases a <;> rfl
@[simp] theorem State.setSlot_boards (s : State) (a : Agent) (x : Slot) : (s.setSlot a x).boards = s.boards := by cases a <;> rfl
@[simp] theorem State.setSlot_chains (s : State) (a : Agent) (x : Slot) : (s.setSlot a x).chains = s.chains := by cases a <;> rfl
@[simp] theorem State.setSlot_engineLast (s : State) (a : Agent) (x : Slot) : (s.setSlot a x).engineLast = s.engineLast := by cases a <;> rfl
@[simp] theorem State.setSlot_cmds (s : State) (a : Agent) (x : Slot) : (s.setSlot a x).cmds = s.cmds := by cases a <;> rfl
@[simp] theorem State.setSlot_posts (s : State) (a : Agent) (x : Slot) : (s.setSlot a x).posts = s.posts := by cases a <;> rfl
@[simp] theorem State.setSlot_tensors (s : State) (a : Agent) (x : Slot) : (s.setSlot a x).tensors = s.tensors := by cases a <;> rfl
@[simp] theorem State.setSlot_tiles (s : State) (a : Agent) (x : Slot) : (s.setSlot a x).tiles = s.tiles := by cases a <;> rfl
@[simp] theorem State.setSlot_dominoes (s : State) (a : Agent) (x : Slot) : (s.setSlot a x).dominoes = s.dominoes := by cases a <;> rfl
@[simp] theorem State.setSlot_streams (s : State) (a : Agent) (x : Slot) : (s.setSlot a x).streams = s.streams := by cases a <;> rfl
@[simp] theorem State.setSlot_rotation (s : State) (a : Agent) (x : Slot) : (s.setSlot a x).rotation = s.rotation := by cases a <;> rfl
@[simp] theorem State.setSlot_ops (s : State) (a : Agent) (x : Slot) : (s.setSlot a x).ops = s.ops := by cases a <;> rfl
@[simp] theorem State.setSlot_parts (s : State) (a : Agent) (x : Slot) : (s.setSlot a x).parts = s.parts := by cases a <;> rfl
@[simp] theorem State.setSlot_dies (s : State) (a : Agent) (x : Slot) : (s.setSlot a x).dies = s.dies := by cases a <;> rfl
@[simp] theorem State.setSlot_rings (s : State) (a : Agent) (x : Slot) : (s.setSlot a x).rings = s.rings := by cases a <;> rfl
@[simp] theorem State.setSlot_lost (s : State) (a : Agent) (x : Slot) : (s.setSlot a x).lost = s.lost := by cases a <;> rfl
@[simp] theorem State.setSlot_plan (s : State) (a : Agent) (x : Slot) : (s.setSlot a x).plan = s.plan := by cases a <;> rfl
@[simp] theorem State.setSlot_sent (s : State) (a : Agent) (x : Slot) : (s.setSlot a x).sent = s.sent := by cases a <;> rfl
@[simp] theorem State.setSlot_faults (s : State) (a : Agent) (x : Slot) : (s.setSlot a x).faults = s.faults := by cases a <;> rfl
@[simp] theorem State.setSlot_nextId (s : State) (a : Agent) (x : Slot) : (s.setSlot a x).nextId = s.nextId := by cases a <;> rfl

/-! ## Reading back -/

theorem coreKey_inj {p d c p' d' c' : Nat} (hd : d < 16) (hc : c < 128) (hd' : d' < 16) (hc' : c' < 128)
    (h : coreKey p d c = coreKey p' d' c') : p = p' ∧ d = d' ∧ c = c' := by
  unfold coreKey at h; omega

@[simp] theorem State.core_setCore (s : State) (p d c : Nat) (x : SysCore) : (s.setCore p d c x).core p d c = x := by
  simp [State.core, State.setCore]
@[simp] theorem State.group_setGroup (s : State) (g : Nat) (x : Group) : (s.setGroup g x).group g = x := by
  simp [State.group, State.setGroup]
theorem State.group_setGroup_ne (s : State) {g k : Nat} (x : Group) (h : k ≠ g) :
    (s.setGroup g x).group k = s.group k := by
  simp [State.group, State.setGroup, SMap.get_put_other _ _ _ h]
@[simp] theorem State.wg_setWg (s : State) (w : Nat) (x : Workgroup) : (s.setWg w x).wg w = x := by
  simp [State.wg, State.setWg]
@[simp] theorem State.launch_setLaunch (s : State) (l : Nat) (x : Launch) : (s.setLaunch l x).launch l = x := by
  simp [State.launch, State.setLaunch]
@[simp] theorem State.pkg_setPkg (s : State) (p : Nat) (x : Pkg) : (s.setPkg p x).pkg p = x := by
  simp [State.pkg, State.setPkg]
@[simp] theorem State.ctx_setCtx (s : State) (p c : Nat) (x : Ctx) : (s.setCtx p c x).ctx p c = x := by
  simp [State.ctx, State.setCtx]
theorem State.core_setCore_key (s : State) {p d c p' d' c' : Nat} (x : SysCore)
    (h : coreKey p' d' c' ≠ coreKey p d c) : (s.setCore p d c x).core p' d' c' = s.core p' d' c' := by
  simp [State.core, State.setCore, SMap.get_put_other _ _ _ h]

@[simp] theorem Group.slot_setSlot (g : Group) (k : Nat) (x : Slot) : (g.setSlot k x).slot k = x := by
  by_cases h : k = 0 <;> simp [Group.slot, Group.setSlot, h]
@[simp] theorem Group.setSlot_hart (g : Group) (k : Nat) (x : Slot) : (g.setSlot k x).hart = g.hart := by
  by_cases h : k = 0 <;> simp [Group.setSlot, h]
@[simp] theorem Group.setSlot_regs (g : Group) (k : Nat) (x : Slot) : (g.setSlot k x).regs = g.regs := by
  by_cases h : k = 0 <;> simp [Group.setSlot, h]

@[simp] theorem State.slot_setSlot (s : State) (a : Agent) (x : Slot) : (s.setSlot a x).slot a = x := by
  cases a <;> simp [State.slot, State.setSlot]
@[simp] theorem State.hart_setHart (s : State) (a : Agent) (x : Hart) : (s.setHart a x).hart a = x := by
  cases a <;> simp [State.hart, State.setHart]
@[simp] theorem State.hart_setSlot (s : State) (a : Agent) (x : Slot) : (s.setSlot a x).hart a = s.hart a := by
  cases a <;> simp [State.hart, State.setSlot]
@[simp] theorem State.slot_setHart (s : State) (a : Agent) (x : Hart) : (s.setHart a x).slot a = s.slot a := by
  cases a <;> simp [State.slot, State.setHart, Group.slot]

end Sys2Proof.Machine
end

