-- ==== Sys2Proof/Laws/Memory.lean ====
section
/-! SUPPORT. Memory: what a read sees after a write, and that every memory operation keeps the canonical form. -/

namespace Sys2Proof.Machine

/-! ## Bytes -/

@[simp] theorem Mem.byte_setByte_same (m : SMap Byte) (k : Nat) (b : Byte) : Mem.byte (Mem.setByte m k b) k = b := by
  simp [Mem.byte, Mem.setByte]

theorem Mem.byte_setByte_other (m : SMap Byte) {k j : Nat} (b : Byte) (h : j ≠ k) :
    Mem.byte (Mem.setByte m k b) j = Mem.byte m j := by
  simp [Mem.byte, Mem.setByte, SMap.get_set_other m b unwritten h]

/-- A write leaves every byte outside its range alone. -/
theorem Mem.byte_write_outside (n : Nat) : ∀ (m : SMap Byte) (k v j : Nat), j < k ∨ k + n ≤ j →
    Mem.byte (Mem.write m k n v) j = Mem.byte m j := by
  induction n with
  | zero => intros; rfl
  | succ n ih =>
    intro m k v j h
    rw [Mem.write, ih _ (k + 1) _ j (by omega), Mem.byte_setByte_other m _ (by omega)]

/-- Byte i of a written range is byte i of the value. -/
theorem Mem.byte_write_inside (n : Nat) : ∀ (m : SMap Byte) (k v i : Nat), i < n →
    Mem.byte (Mem.write m k n v) (k + i) = BitVec.ofNat 8 (v / 256 ^ i) := by
  induction n with
  | zero => intro m k v i h; omega
  | succ n ih =>
    intro m k v i h
    cases i with
    | zero => simp [Mem.write, Mem.byte_write_outside n _ (k + 1) (v / 256) k (by omega)]
    | succ i =>
      rw [Mem.write, show k + (i + 1) = k + 1 + i by omega, ih _ (k + 1) (v / 256) i (by omega), Nat.div_div_eq_div_mul,
        Nat.pow_succ, Nat.mul_comm]

/-- A read of the bytes just written gives the value, cut to them. -/
theorem Mem.read_write_same (n : Nat) : ∀ (m : SMap Byte) (k v : Nat), Mem.read (Mem.write m k n v) k n = v % 256 ^ n := by
  induction n with
  | zero => intro m k v; simp [Mem.read, Nat.mod_one]
  | succ n ih =>
    intro m k v
    rw [Mem.write, Mem.read, Mem.byte_write_outside n _ (k + 1) _ k (by omega), ih, Mem.byte_setByte_same,
      BitVec.toNat_ofNat, show (2 : Nat) ^ 8 = 256 from rfl, Nat.pow_succ, Nat.mul_comm (256 ^ n) 256,
      Nat.mod_mul]

/-- A read elsewhere is unchanged by a write. -/
theorem Mem.read_write_other (r : Nat) : ∀ (m : SMap Byte) (k n v j : Nat), j + r ≤ k ∨ k + n ≤ j →
    Mem.read (Mem.write m k n v) j r = Mem.read m j r := by
  induction r with
  | zero => intros; rfl
  | succ r ih =>
    intro m k n v j h
    rw [Mem.read, Mem.read, ih _ _ _ _ (j + 1) (by omega), Mem.byte_write_outside n _ _ _ j (by omega)]

/-! ## The canonical form -/

theorem Memory.wf_setByte {m : SMap Byte} (k : Nat) (b : Byte) (h : Memory.wf m = true) :
    Memory.wf (Mem.setByte m k b) = true := SMap.canon_set k b unwritten h

theorem Memory.wf_write (n : Nat) : ∀ {m : SMap Byte} (k v : Nat), Memory.wf m = true →
    Memory.wf (Mem.write m k n v) = true := by
  induction n with
  | zero => intro m k v h; exact h
  | succ n ih => intro m k v h; exact ih _ _ (Memory.wf_setByte k _ h)

/-- Bytes laid one after another. -/
theorem Memory.wf_layBytes (l : List (Byte × Nat)) (k : Nat) : ∀ {m : SMap Byte}, Memory.wf m = true →
    Memory.wf (l.foldl (fun m e => Mem.setByte m (k + e.2) e.1) m) = true := by
  induction l with
  | nil => intro m h; exact h
  | cons e l ih => intro m h; exact ih (Memory.wf_setByte _ _ h)

theorem SMap.above_filter {α : Type} (p : Nat × α → Bool) : ∀ {m : SMap α} {b : Nat}, SMap.above b m →
    SMap.above b (m.filter p)
  | [], _, _ => trivial
  | (j, w) :: m, b, h => by
    simp only [SMap.above] at h
    rw [List.filter_cons]
    split
    · exact ⟨h.1, SMap.above_filter p h.2⟩
    · exact SMap.above_filter p (SMap.above_mono (Nat.le_of_lt h.1) h.2)

theorem SMap.rising_filter {α : Type} (p : Nat × α → Bool) : ∀ {m : SMap α}, SMap.rising m = true →
    SMap.rising (m.filter p) = true
  | [], _ => rfl
  | (j, w) :: m, h => by
    rw [SMap.rising_cons_iff] at h
    rw [List.filter_cons]
    split
    · rw [SMap.rising_cons_iff]; exact SMap.above_filter p h
    · have := SMap.above_filter p h
      cases hx : m.filter p with
      | nil => rfl
      | cons e m2 =>
        obtain ⟨i, x⟩ := e
        rw [hx] at this
        rw [SMap.rising_cons_iff]; exact this.2

/-- Memory that is taken away (power, an unmapping) leaves the rest canonical. -/
theorem Memory.wf_filter {m : SMap Byte} (p : Nat × Byte → Bool) (h : Memory.wf m = true) :
    Memory.wf (m.filter p) = true := by
  simp only [Memory.wf, SMap.canon, Bool.and_eq_true] at h ⊢
  refine ⟨SMap.rising_filter p h.1, ?_⟩
  rw [List.all_eq_true] at h ⊢
  exact fun e he => h.2 e (List.mem_filter.1 he).1

/-! ## The operations over memory -/

theorem State.putBytes_wf {s : State} (k n v : Nat) (o : BitVec 16) (h : Memory.wf s.mem = true) :
    Memory.wf (s.putBytes k n v o).mem = true := Memory.wf_write n k v h

@[simp] theorem State.bytesAt_putBytes_same (s : State) (k n v : Nat) (o : BitVec 16) :
    (s.putBytes k n v o).bytesAt k n = v % 256 ^ n := Mem.read_write_same n s.mem k v

theorem State.bytesAt_putBytes_other (s : State) {k n j r : Nat} (v : Nat) (o : BitVec 16) (h : j + r ≤ k ∨ k + n ≤ j) :
    (s.putBytes k n v o).bytesAt j r = s.bytesAt j r := Mem.read_write_other r s.mem k n v j h

theorem State.byte_putBytes_outside (s : State) {k n j : Nat} (v : Nat) (o : BitVec 16) (h : j < k ∨ k + n ≤ j) :
    Mem.byte (s.putBytes k n v o).mem j = Mem.byte s.mem j := Mem.byte_write_outside n s.mem k v j h

end Sys2Proof.Machine
end

