-- ==== Sys2Proof/Laws/Ops.lean ====
section
/-! SUPPORT. What the shared operations can do: one lemma each, cited instead of unfolding the operation. -/

namespace Sys2Proof.Machine

open Host (Outcome)

/-! ## The ends of an instruction -/

theorem finish_ok (s : State) : finish (.ok s) = .next s := rfl
theorem finish_trap (t : TrapInfo) (s : State) : finish (.error (.trap t s)) = .next (s.takeTrap s.cur t) := rfl
theorem finish_wait (b : Block) (s : State) : finish (.error (.wait b s)) = .next (s.blockSlot b) := rfl

/-- An instruction whose effect is a result always answers a next state. -/
theorem finish_next (r : Res) : ∃ t, finish r = .next t := by
  rcases r with ⟨⟨t, s⟩ | ⟨b, s⟩⟩ | s
  · exact ⟨_, rfl⟩
  · exact ⟨_, rfl⟩
  · exact ⟨_, rfl⟩

theorem except_ok_bind {ε α β : Type} (x : α) (f : α → Except ε β) : ((Except.ok x : Except ε α) >>= f) = f x := rfl
theorem except_error_bind {ε α β : Type} (e : ε) (f : α → Except ε β) : ((Except.error e : Except ε α) >>= f) = .error e := rfl

/-- What a bind of results can be: an error of the first, or the second on what the first gives. -/
theorem except_bind_ok {ε α β : Type} {x : Except ε α} {f : α → Except ε β} {y : β} (h : (x >>= f) = .ok y) :
    ∃ a, x = .ok a ∧ f a = .ok y := by
  cases x with
  | error e => cases h
  | ok a => exact ⟨a, rfl, h⟩

theorem guardRes_ok {c : Bool} {e : Exc} {u : Unit} : guardRes c e = .ok u ↔ c = true := by
  cases c <;> simp [guardRes]

/-! ## The register interlock (R50) -/

/-- What is pending on more registers is pending on none of them only if it is pending on none of fewer. -/
theorem State.need_sub {s : State} {l l' : List (BitVec 8)} (h : ∀ x ∈ l', x ∈ l) (hr : s.need l = .ok ()) :
    s.need l' = .ok () := by
  unfold State.need at *
  have key : s.pendingOn (l'.map BitVec.toNat) [] = none := by
    cases h1 : s.pendingOn (l.map BitVec.toNat) [] with
    | some n => simp [h1] at hr
    | none =>
      unfold State.pendingOn at *
      simp only [Option.map_eq_none_iff, List.find?_eq_none] at *
      intro e he
      have h2 := h1 e he
      simp only [Bool.and_eq_true, Bool.or_eq_true, List.any_eq_true, not_and, not_or, not_exists] at *
      intro hs
      obtain ⟨h3, h4⟩ := h2 hs
      refine ⟨?_, h4⟩
      intro r hr' hc
      refine h3 r hr' ?_
      simp only [List.contains_eq_mem, List.mem_map, decide_eq_true_eq] at *
      obtain ⟨z, hz, rfl⟩ := hc
      exact ⟨z, h z hz, rfl⟩
  rw [key]

/-- The interlock does one of two things: it lets the instruction go on, or makes it wait for the operation. -/
theorem State.need_cases (s : State) (ss : List (BitVec 8)) (vs : List Nat) :
    s.need ss vs = .ok () ∨ ∃ n, s.need ss vs = .error (.wait (.op n) s) := by
  unfold State.need
  split
  · exact .inr ⟨_, rfl⟩
  · exact .inl rfl

/-! ## Registers and the program counter -/

theorem State.readS_eq (s : State) (r : BitVec 8) :
    s.readS r = if r = 0 then 0 else if r = 63 then (s.slot s.cur).mask else SMap.get (s.hart s.cur).sregs r.toNat 0 := rfl

@[simp] theorem State.writeS_cur (s : State) (d : BitVec 8) (v : Dword) : (s.writeS d v).cur = s.cur := by
  unfold State.writeS State.writeMask
  repeat' split
  all_goals simp
@[simp] theorem State.count_cur (s : State) : s.count.cur = s.cur := by simp [State.count]
@[simp] theorem State.advance_cur (s : State) (n : Nat) : (s.advance n).cur = s.cur := by
  unfold State.advance
  simp only
  repeat' split
  all_goals simp
@[simp] theorem State.retire_cur (s : State) (n : Nat) : (s.retire n).cur = s.cur := by simp [State.retire]

theorem State.count_hart (s : State) :
    s.count.hart s.cur = { s.hart s.cur with retired := (s.hart s.cur).retired + 1 } := by
  simp [State.count]
theorem State.count_slot (s : State) : s.count.slot s.cur =
    { s.slot s.cur with pmode := none, done := 0, block := none, lastIssue := s.cycle, passed := false, atReturn := false
                        named := none, deal := none, closed := (0, 0) } := by
  simp [State.count]
theorem State.advance_hart (s : State) (n : Nat) : (s.advance n).hart s.cur = s.hart s.cur := by
  unfold State.advance
  simp only
  repeat' split
  all_goals simp
/-- The slot moves on by n words; its clause and its YIELD may change, nothing else of it. -/
theorem State.advance_slot (s : State) (n : Nat) : ∃ c y, (s.advance n).slot s.cur =
    { s.slot s.cur with pc := (s.slot s.cur).pc + 4 * BitVec.ofNat 64 n, clause := c, yielded := y } := by
  unfold State.advance
  simp only
  repeat' split
  · exact ⟨none, _, by simp; rfl⟩
  · exact ⟨(s.slot s.cur).clause, false, by simp⟩
  · exact ⟨(s.slot s.cur).clause, (s.slot s.cur).yielded, by simp⟩

/-! ## Translation and the race detector -/

/-- Translating changes nothing but the buffered translations and the count of free values. -/
theorem State.pageXlate_frame (s : State) (w : Who) (va : Nat) (k : AccKind) :
    ∃ b f, (s.pageXlate w va k).2 = { s with buffered := b, free := f } := by
  unfold State.pageXlate
  simp only
  split; · exact ⟨_, _, rfl⟩
  split
  · exact ⟨_, _, rfl⟩
  · exact ⟨_, _, rfl⟩
  · exact ⟨_, _, rfl⟩
  · split; · exact ⟨_, _, rfl⟩
    split; · exact ⟨_, _, rfl⟩
    split <;> exact ⟨_, _, rfl⟩

theorem State.xlate_frame (s : State) (w : Who) (va : Dword) (k : AccKind) :
    ∃ b f, (s.xlate w va k).2 = { s with buffered := b, free := f } := by
  unfold State.xlate
  split; · exact ⟨_, _, rfl⟩
  split; · exact ⟨_, _, rfl⟩
  split
  · split <;> exact ⟨_, _, rfl⟩
  · obtain ⟨b, f, h⟩ := s.pageXlate_frame w va.toNat k
    refine ⟨b, f, ?_⟩
    rw [← h]
    generalize s.pageXlate w va.toNat k = y
    obtain ⟨x, s'⟩ := y
    simp only
    split <;> rfl

/-- Translation of an access, as a state it leaves. -/
theorem State.xlate_ok {s t : State} {w : Who} {va : Dword} {k : AccKind} {x : Xlat} (h : s.xlate w va k = (x, t)) :
    ∃ b f, t = { s with buffered := b, free := f } := by
  obtain ⟨b, f, h1⟩ := s.xlate_frame w va k
  exact ⟨b, f, by rw [← h1, h]⟩

/-- A checked access changes nothing but what the race detector holds. -/
theorem State.raceAccess_frame {s t : State} {w : Who} {l : Loc} {n acc : Nat} {atomic : Bool}
    (h : s.raceAccess w l n acc atomic = .ok t) : ∃ r, t = { s with race := r } := by
  unfold State.raceAccess at h
  simp only at h
  split at h
  · cases h; exact ⟨_, rfl⟩
  · generalize hx : (if s.checkedAccess w l = true then _ else _) = y at h
    cases y with
    | some x => simp at h
    | none => simp only [Except.ok.injEq] at h; subst h; exact ⟨_, rfl⟩

/-- A scalar access that passes its checks has changed nothing but translations, free values and the race detector. -/
theorem State.scalarAccess_frame {s t : State} {va : Dword} {n align : Nat} {k : AccKind} {atomic : Bool} {l : Loc}
    (h : s.scalarAccess va n align k atomic = .ok (l, t)) :
    ∃ b f r, t = { s with buffered := b, free := f, race := r } := by
  unfold State.scalarAccess at h
  split at h; · cases h
  have hx := s.xlate_frame s.thread va k
  generalize s.xlate s.thread va k = y at h hx
  obtain ⟨x, s1⟩ := y
  obtain ⟨b, f, hx⟩ := hx
  simp only at h hx
  subst hx
  split at h
  · cases h
  · split at h <;> cases h
  · split at h
    · cases h
    · rename_i _ hr
      obtain ⟨r, hr⟩ := State.raceAccess_frame hr
      simp only [Except.ok.injEq, Prod.mk.injEq] at h
      obtain ⟨rfl, rfl⟩ := h
      exact ⟨b, f, r, by rw [hr]⟩

/-- A word that is fetched: the bytes where its address translates; only translations may have changed. -/
theorem State.fetchWord_ok {s t : State} {va : Dword} {w : Word} (h : s.fetchWord va = .ok (w, t)) :
    ∃ l, s.xlate s.thread va .fetch = (.at l, t) ∧ w = BitVec.ofNat 32 (s.bytesAt l.key 4) := by
  unfold State.fetchWord at h
  generalize hy : s.xlate s.thread va .fetch = y at h
  obtain ⟨x, s1⟩ := y
  simp only at h
  split at h
  · rename_i l
    simp only [Except.ok.injEq, Prod.mk.injEq] at h
    obtain ⟨rfl, rfl⟩ := h
    obtain ⟨b, f, h1⟩ := State.xlate_ok hy
    exact ⟨l, rfl, by rw [h1]; rfl⟩
  · cases h
  · split at h <;> cases h

/-! ## Decoding -/

/-- A word that decodes gives a well-formed instruction. -/
theorem decode_wellFormed {w lit : Word} {i : Instr} (h : decode w lit = .ok i) : i.wellFormed = true := by
  unfold decode at h
  split at h
  · cases h
  · split at h
    · cases h; assumption
    · cases h

end Sys2Proof.Machine
end

