-- ==== Sys2Proof/Laws/Frames.lean ====
section
/-! SUPPORT. What the shared operations leave of memory: they leave its bytes, or keep its canonical form. -/

namespace Sys2Proof.Machine

open Host (Outcome)

/-- The memory of a state is in canonical form. -/
abbrev State.memOk (s : State) : Prop := Memory.wf s.mem = true

theorem State.memOk_of_mem {s t : State} (h : t.mem = s.mem) (hs : s.memOk) : t.memOk := by
  rw [State.memOk, h]
  exact hs

theorem State.putBytes_memOk {s : State} (k n v : Nat) (o : BitVec 16) (h : s.memOk) : (s.putBytes k n v o).memOk :=
  State.putBytes_wf _ _ _ _ h

/-! ## Operations that leave memory -/

@[simp] theorem State.count_mem (s : State) : s.count.mem = s.mem := by simp [State.count]
@[simp] theorem State.advance_mem (s : State) (n : Nat) : (s.advance n).mem = s.mem := by
  unfold State.advance
  simp only
  repeat' split
  all_goals simp
@[simp] theorem State.retire_mem (s : State) (n : Nat) : (s.retire n).mem = s.mem := by simp [State.retire]
@[simp] theorem State.jump_mem (s : State) (pc : Dword) : (s.jump pc).mem = s.mem := by simp [State.jump]
@[simp] theorem State.writeS_mem (s : State) (d : BitVec 8) (v : Dword) : (s.writeS d v).mem = s.mem := by
  unfold State.writeS State.writeMask
  repeat' split
  all_goals simp
@[simp] theorem State.blockSlot_mem (s : State) (b : Block) : (s.blockSlot b).mem = s.mem := by simp [State.blockSlot]
@[simp] theorem State.openFault_mem (s : State) (e : FaultEntry) : (s.openFault e).mem = s.mem := rfl
@[simp] theorem State.parkReissue_mem (s : State) (g k : Nat) (va : Dword) (a : AccKind) (c : Nat) :
    (s.parkReissue g k va a c).mem = s.mem := by simp [State.parkReissue]
@[simp] theorem State.xlate_mem (s : State) (w : Who) (va : Dword) (k : AccKind) : (s.xlate w va k).2.mem = s.mem := by
  obtain ⟨b, f, h⟩ := s.xlate_frame w va k
  rw [h]
@[simp] theorem State.setCtx_mem' (s : State) (p c : Nat) (x : Ctx) : (s.setCtx p c x).mem = s.mem := rfl

theorem State.xlate_mem_of {s t : State} {w : Who} {va : Dword} {k : AccKind} {x : Xlat} (h : s.xlate w va k = (x, t)) :
    t.mem = s.mem := by
  obtain ⟨b, f, h⟩ := State.xlate_ok h
  rw [h]
theorem State.raceAccess_mem {s t : State} {w : Who} {l : Loc} {n acc : Nat} {atomic : Bool}
    (h : s.raceAccess w l n acc atomic = .ok t) : t.mem = s.mem := by
  obtain ⟨r, h⟩ := State.raceAccess_frame h
  rw [h]
theorem State.scalarAccess_mem {s t : State} {va : Dword} {n align : Nat} {k : AccKind} {atomic : Bool} {l : Loc}
    (h : s.scalarAccess va n align k atomic = .ok (l, t)) : t.mem = s.mem := by
  obtain ⟨b, f, r, h⟩ := State.scalarAccess_frame h
  rw [h]
theorem State.ringHeader_mem {s t : State} {r : RingRec} {k : Nat} (h : s.ringHeader r = some (k, t)) : t.mem = s.mem := by
  unfold State.ringHeader at h
  generalize s.ctxReg r.pkg r.ctx (if r.stamp then 0x23 else 0x147) = v at h
  simp only at h
  split at h
  · cases h
  · have hx := fun x u (e : s.xlate (ringWho (r.writer / 4) r.ctx) v .rmw = (x, u)) => State.xlate_mem_of e
    revert h hx
    generalize s.xlate (ringWho (r.writer / 4) r.ctx) v .rmw = y
    intro h hx
    obtain ⟨x, u⟩ := y
    rcases x with l | _ | c
    · cases h; exact hx _ _ rfl
    · cases h
    · cases h
theorem State.fetchWord_mem {s t : State} {va : Dword} {w : Word} (h : s.fetchWord va = .ok (w, t)) : t.mem = s.mem := by
  obtain ⟨l, h, -⟩ := State.fetchWord_ok h
  exact State.xlate_mem_of h

@[simp] theorem State.release_mem (s : State) (w : Who) (n : Nat) : (s.release w n).mem = s.mem := by
  unfold State.release
  split <;> rfl
@[simp] theorem State.ringEvent_mem (s : State) (w : Who) (l : Loc) (n : Nat) (a : Bool) :
    (s.ringEvent w l n a).mem = s.mem := by
  unfold State.ringEvent
  split
  · rename_i h; exact State.raceAccess_mem h
  · rfl
@[simp] theorem State.parkRecord_mem (s : State) (g k : Nat) (va : Dword) (a : AccKind) (c : Nat) :
    (s.parkRecord g k va a c).mem = s.mem := by simp [State.parkRecord]

/-! ## Operations that keep the canonical form -/

theorem State.bump_memOk {s : State} (k : Nat) (o : BitVec 16) (h : s.memOk) : (s.bump k o).memOk :=
  State.putBytes_memOk _ _ _ _ h

theorem State.ringDrop_memOk {s : State} (r : RingRec) (h : s.memOk) : (s.ringDrop r).memOk := by
  unfold State.ringDrop
  split
  · exact h
  · rename_i k t hk
    have hb := State.bump_memOk (k + 0x20) (ringOrigin (r.writer / 4)) (State.memOk_of_mem (State.ringHeader_mem hk) h)
    cases hr : r.stamp
    · exact State.memOk_of_mem (s := t.bump (k + 0x20) (ringOrigin (r.writer / 4))) (by simp) hb
    · simpa [hr] using hb

theorem State.bumped_memOk {s t : State} {b : Bool} {k v : Nat} {o : BitVec 16} {l : SMap Nat} (h : s.memOk)
    (ht : t = if b then s.putBytes k 8 v o else { s with lost := l } := by rfl) : t.memOk := by
  subst ht
  cases b
  · exact h
  · exact State.putBytes_memOk _ _ _ _ h

theorem State.ringWriteOne_memOk {s : State} (r : RingRec) (h : s.memOk) : (s.ringWriteOne r).2.memOk := by
  unfold State.ringWriteOne
  split
  · exact h
  · rename_i k t hk
    have ht : t.memOk := State.memOk_of_mem (State.ringHeader_mem hk) h
    simp only
    split
    · exact State.ringDrop_memOk _ ht
    · split
      · rename_i hx; exact State.ringDrop_memOk _ (State.memOk_of_mem (State.xlate_mem_of hx) ht)
      · rename_i hx; exact State.memOk_of_mem (State.xlate_mem_of hx) ht
      · rename_i hx
        have hu := State.memOk_of_mem (State.xlate_mem_of hx) ht
        refine State.bumped_memOk ?_
        exact State.bump_memOk _ _ (State.putBytes_memOk _ _ _ _ (State.memOk_of_mem (by simp) hu))

theorem State.ringWrite_memOk {s : State} (r : RingRec) (h : s.memOk) : (s.ringWrite r).2.memOk := by
  unfold State.ringWrite
  split
  · exact State.ringDrop_memOk _ h
  · split
    · exact State.ringWriteOne_memOk _ h
    · rename_i x _
      have h1 := State.ringWriteOne_memOk x h
      split
      · rename_i hx; rw [hx] at h1; exact h1
      · rename_i hx; rw [hx] at h1; exact State.ringWriteOne_memOk _ h1

/-- A record of a ring: memory keeps its form. -/
theorem State.record_memOk {s : State} (r : RingRec) (h : s.memOk) : (s.record r).memOk := by
  unfold State.record
  simp only
  split
  · exact h
  · have h1 := State.ringWrite_memOk r h
    split
    · rename_i hx; rw [hx] at h1; exact h1
    · rename_i hx; rw [hx] at h1; exact h1

theorem State.traceSlot_memOk {s : State} (g k kind d0 : Nat) (d1 d2 : Dword) (h : s.memOk) :
    (s.traceSlot g k kind d0 d1 d2).memOk := State.record_memOk _ h
theorem State.traceTrap_memOk {s : State} (g k c : Nat) (a b : Dword) (h : s.memOk) : (s.traceTrap g k c a b).memOk := by
  unfold State.traceTrap
  split
  · exact State.traceSlot_memOk _ _ _ _ _ _ h
  · exact h
theorem State.escalate_memOk {s : State} (g r k : Nat) (f : Dword) (h : s.memOk) : (s.escalate g r k f).memOk :=
  State.traceTrap_memOk _ _ _ _ _ h

theorem State.hwStore_memOk (w : Who) : ∀ (l : List (List Dword)) {s t : State} {va : Dword}, s.memOk →
    s.hwStore w va l = .ok t → t.memOk := by
  intro l
  induction l with
  | nil => intro s t va h he; cases he; exact h
  | cons b bs ih =>
    intro s t va h he
    unfold State.hwStore at he
    split at he
    · rename_i hx
      exact ih (State.putBytes_memOk _ _ _ _ (State.memOk_of_mem (State.xlate_mem_of hx) h)) he
    · cases he
    · cases he

theorem State.afterFrame_memOk {s : State} (g : Nat) (t : TrapInfo) (f : Dword) (h : s.memOk) : (s.afterFrame g t f).memOk := by
  unfold State.afterFrame
  simp only
  split
  · exact State.escalate_memOk _ _ _ _ h
  · split
    · exact State.traceTrap_memOk _ _ _ _ _ h
    · split
      · exact State.escalate_memOk _ _ _ _ h
      · exact State.traceTrap_memOk _ _ _ _ _ h

theorem State.trapEntry_memOk {s : State} (g : Nat) (h : s.memOk) : (s.trapEntry g).memOk := by
  unfold State.trapEntry
  simp only
  split
  · exact h
  · split
    · exact h
    · split
      · exact State.escalate_memOk _ _ _ _ (State.memOk_of_mem (by simp) h)
      · split
        · exact h
        · split
          · exact State.escalate_memOk _ _ _ _ h
          · rename_i r _
            have h0 : (s.setGroup g { s.group g with trap := { (s.group g).trap with record := some r } }).memOk := h
            split
            · rename_i hx; exact State.afterFrame_memOk _ _ _ (State.hwStore_memOk _ _ h0 hx)
            · exact State.escalate_memOk _ _ _ _ h0
            · exact State.memOk_of_mem (State.parkRecord_mem _ _ _ _ _ _) h0

theorem State.sysTrap_memOk {s : State} (a : Agent) (t : TrapInfo) (h : s.memOk) : (s.sysTrap a t).memOk := by
  unfold State.sysTrap
  split
  · exact h
  · simp only
    split
    · exact h
    · exact h

/-- Taking a trap: memory keeps its form. -/
theorem State.takeTrap_memOk {s : State} (a : Agent) (t : TrapInfo) (h : s.memOk) : (s.takeTrap a t).memOk := by
  unfold State.takeTrap
  split
  · exact State.sysTrap_memOk _ _ h
  · simp only
    split
    · exact State.memOk_of_mem (by simp) h
    · split
      · exact State.memOk_of_mem (by simp) h
      · exact State.trapEntry_memOk _ (State.memOk_of_mem (by simp) h)

/-- The end of an instruction: its own effect keeps the form of memory, so does what it answers. -/
theorem finish_memOk {r : Res} {t : State} (h : finish r = .next t) (ho : ∀ s, r = .ok s → s.memOk)
    (ht : ∀ x s, r = .error (.trap x s) → s.memOk) (hw : ∀ b s, r = .error (.wait b s) → s.memOk) : t.memOk := by
  rcases r with ⟨⟨x, s⟩ | ⟨b, s⟩⟩ | s
  · cases h; exact State.takeTrap_memOk _ _ (ht _ _ rfl)
  · cases h; exact State.memOk_of_mem (State.blockSlot_mem _ _) (hw _ _ rfl)
  · cases h; exact ho _ rfl

end Sys2Proof.Machine
end

