-- ==== Sys2Proof/Safety.lean ====
section
/-! DEFINITION. What counts as a safe run: one that never ends in a fault or a refusal of the machine. -/

namespace Sys2Proof

/-- A run of `k` steps from a state neither faults nor is refused. -/
def SafeFor (k : Nat) (s : Machine.State) : Prop := ∃ t, Host.Core.run core k s = .next t

end Sys2Proof
end

