-- ==== Sys2Proof/Tests/Slice0.lean ====
section
/-! SUPPORT. Tests: ill-formed terms, words of every family, single steps with results worked out from the spec, and for
every statement states and operands that meet the hypotheses of its clauses. -/

namespace Sys2Proof.Tests

set_option Elab.async false

open Host (Outcome)
open Sys2Proof.Machine Sys2Proof.Stated

/-! ## States to start from -/

/-- A clause of three words at 0x1000 whose accesses are counted by pips `seta` and `setb` (15: by none). -/
def clause (seta setb : Nat := 15) : Clause := { hdr := 0x1000, len := 3, seta := seta, setb := setb, yield := false }

/-- A slot that issues the first word of that clause, with lanes 0 to 3. -/
def slot (seta setb : Nat := 15) : Slot := { st := .run, pc := 0x1004, own := 0xF, mask := 0xF, clause := some (clause seta setb) }

/-- Scalar registers: -3, 5, an address, zero, the divergence stack. -/
def hart : Hart :=
  { ctx := 1, sregs := [(1, 0xFFFFFFFFFFFFFFFD), (2, 5), (3, 0x4004), (4, 0x3FF), (6, 0x4000), (60, 0x00E0000000000400)] }

def vec (f : Nat → Nat) : List Word := (List.range 64).map fun l => BitVec.ofNat 32 (f l)

/-- v1 holds the lane number, v2 four times it, v3 zero but in lane 2. -/
def vregs : Vregs :=
  { v := [(1, vec id), (2, vec (4 * ·)), (3, vec fun l => if l = 2 then 7 else 0), (6, vec fun l => 64 * l)], granules := 2 }

def group (seta setb : Nat := 15) : Group :=
  { wg := 6, life := .running, items := 0xF, hart := hart, slot0 := slot seta setb, regs := vregs
    dslo := 0x00E0000000000000, dshi := 0x00E0000000000400 }

/-- A booted package that serves peer 0, with slices on cores 0 and 1 of die 0; in context 1 one group on core 0 of die 0, whose first slot issues. -/
def world (seta setb : Nat := 15) : State :=
  { pkgs := [(0, { on := true, booted := true, peers := [0], debugPeers := [0], places := [(0, 128), (1, 129)] })]
    ctxs := [(1, { opened := true, direct := true, key := 9, members := [0] })]
    groups := [(5, group seta setb)], wgs := [(6, { ctx := 1, groups := [5], left_ := 100 })], cur := .slot 5 0, nextId := 100
    mem := [(0x4000, 0x11), (0x4004, 0x22), (0x4005, 0x80)] }

/-- The same, with another slot 0. -/
def withSlot (x : Slot) (s : State := world) : State := s.setSlot s.cur x

/-- A control core issues. -/
def coreWorld (seta : Nat := 15) : State :=
  { world with
    cores := [(coreKey 0 8 0, { hart := { hart with ctx := 0 }
                                slot := { slot seta with own := 1, mask := 1 } })]
    ctxs := [(0, { direct := true }), (1, { opened := true, direct := true })], cur := .sys 0 8 0 }

/-- The machine answers a next state, and it has this property. -/
def nextIs (o : Answer) (p : State → Bool) : Bool :=
  match o with
  | .next t => p t
  | _ => false

/-- It answers, and the answer has this property. -/
def okAnd {ε α : Type} (x : Except ε α) (p : α → Bool) : Bool :=
  match x with
  | .ok a => p a
  | .error _ => false

/-- It answers. -/
abbrev answersOk {ε α : Type} (x : Except ε α) : Bool := okAnd x fun _ => true

theorem exists_of_okAnd {ε α : Type} {x : Except ε α} {p : α → Bool} (h : okAnd x p = true) : ∃ a, x = .ok a ∧ p a = true := by
  cases x with
  | ok a => exact ⟨a, rfl, h⟩
  | error e => cases h

/-! ## Words of every instruction, by the encodings of its rule -/

/-- Row 0x0 of the opcode map (R43). -/
theorem test_decode_row_0 : ∀ e ∈ ([
    (0x00000000, 0x0, .nop), (0x018142FE, 0x0, .br 0x8142FE), (0x022B81FE, 0x0, .bz 0x2B 0x81FE),
    (0x032B81FE, 0x0, .bnz 0x2B 0x81FE), (0x042B81FE, 0x0, .bltz 0x2B 0x81FE), (0x052B81FE, 0x0, .bgez 0x2B 0x81FE),
    (0x068142FE, 0x0, .call 0x8142FE), (0x07001500, 0x0, .jr 0x15), (0x08001500, 0x0, .callr 0x15),
    (0x09000500, 0x40009, .bsplit 5 0x00040009), (0x0A000000, 0x0, .bmerge), (0x0B2B81FE, 0x0, .bany 0x2B 0x81FE),
    (0x0C2B81FE, 0x0, .ball 0x2B 0x81FE), (0x0D000000, 0x0, .exit), (0x0E0B003F, 0x0, .waitc 0xB 0x3F),
    (0x0F8142FE, 0x0, .trap 0x8142FE)] : List (Word × Word × Instr)),
    decode e.1 e.2.1 = .ok e.2.2 := by
  simp only [List.forall_mem_cons, List.not_mem_nil, false_implies, implies_true, and_true]
  refine ⟨rfl, rfl, rfl, rfl, rfl, rfl, rfl, rfl, rfl, rfl, rfl, rfl, rfl, rfl, rfl, rfl⟩

/-- Row 0x1 of the opcode map (R43). -/
theorem test_decode_row_1 : ∀ e ∈ ([
    (0x102B150E, 0x0, .sadd 0x2B 0x15 0xE), (0x112B150E, 0x0, .ssub 0x2B 0x15 0xE),
    (0x122B150E, 0x0, .smul 0x2B 0x15 0xE), (0x132B150E, 0x0, .smulh 0x2B 0x15 0xE),
    (0x142B150E, 0x0, .smulhn 0x2B 0x15 0xE), (0x152B150E, 0x0, .sdiv 0x2B 0x15 0xE),
    (0x162B150E, 0x0, .sdivn 0x2B 0x15 0xE), (0x172B150E, 0x0, .srem 0x2B 0x15 0xE),
    (0x182B150E, 0x0, .sremn 0x2B 0x15 0xE), (0x192B150E, 0x0, .sand 0x2B 0x15 0xE),
    (0x1A2B150E, 0x0, .sor 0x2B 0x15 0xE), (0x1B2B150E, 0x0, .sxor 0x2B 0x15 0xE),
    (0x1C2B150E, 0x0, .sshl 0x2B 0x15 0xE), (0x1D2B150E, 0x0, .sshr 0x2B 0x15 0xE),
    (0x1E2B150E, 0x0, .ssar 0x2B 0x15 0xE), (0x1F2B150E, 0x0, .ssel 0x2B 0x15 0xE)] : List (Word × Word × Instr)),
    decode e.1 e.2.1 = .ok e.2.2 := by
  simp only [List.forall_mem_cons, List.not_mem_nil, false_implies, implies_true, and_true]
  refine ⟨rfl, rfl, rfl, rfl, rfl, rfl, rfl, rfl, rfl, rfl, rfl, rfl, rfl, rfl, rfl, rfl⟩

/-- Row 0x2 of the opcode map (R43). -/
theorem test_decode_row_2 : ∀ e ∈ ([
    (0x202B81FE, 0x0, .sli 0x2B 0x81FE), (0x212B81FE, 0x0, .slih 0x2B 0x81FE),
    (0x22030000, 0x87654321, .slit 3 0x87654321), (0x232B150E, 0x0, .saddi 0x2B 0x15 0xE),
    (0x242B150E, 0x0, .sandi 0x2B 0x15 0xE), (0x252B150E, 0x0, .sshli 0x2B 0x15 0xE),
    (0x262B150E, 0x0, .sshri 0x2B 0x15 0xE), (0x272B150E, 0x0, .ssari 0x2B 0x15 0xE),
    (0x282B150E, 0x0, .seq 0x2B 0x15 0xE), (0x292B150E, 0x0, .slt 0x2B 0x15 0xE),
    (0x2A2B150E, 0x0, .sltn 0x2B 0x15 0xE), (0x2B2B150E, 0x0, .smin 0x2B 0x15 0xE),
    (0x2C2B150E, 0x0, .smax 0x2B 0x15 0xE), (0x2D2B1500, 0x0, .sclz 0x2B 0x15), (0x2E2B1500, 0x0, .spopc 0x2B 0x15),
    (0x2F2B150E, 0x0, .sbfx 0x2B 0x15 0xE)] : List (Word × Word × Instr)),
    decode e.1 e.2.1 = .ok e.2.2 := by
  simp only [List.forall_mem_cons, List.not_mem_nil, false_implies, implies_true, and_true]
  refine ⟨rfl, rfl, rfl, rfl, rfl, rfl, rfl, rfl, rfl, rfl, rfl, rfl, rfl, rfl, rfl, rfl⟩

/-- Row 0x3 of the opcode map (R43). -/
theorem test_decode_row_3 : ∀ e ∈ ([
    (0x302B150E, 0x0, .sld8 0x2B 0x15 0xE), (0x312B150E, 0x0, .sld16 0x2B 0x15 0xE),
    (0x322B150E, 0x0, .sld32 0x2B 0x15 0xE), (0x332B150E, 0x0, .sld64 0x2B 0x15 0xE),
    (0x342B150E, 0x0, .sst8 0x2B 0x15 0xE), (0x352B150E, 0x0, .sst16 0x2B 0x15 0xE),
    (0x362B150E, 0x0, .sst32 0x2B 0x15 0xE), (0x372B150E, 0x0, .sst64 0x2B 0x15 0xE),
    (0x382B150E, 0x0, .sldx 0x2B 0x15 0xE), (0x392B150E, 0x0, .sstx 0x2B 0x15 0xE),
    (0x3A2B81FE, 0x0, .srsr 0x2B 0x81FE), (0x3B2B81FE, 0x0, .swsr 0x2B 0x81FE),
    (0x3C2B150E, 0x0, .splace 0x2B 0x15 0xE), (0x3D2B150E, 0x0, .sfadd 0x2B 0x15 0xE),
    (0x3E2B150E, 0x0, .sfmul 0x2B 0x15 0xE), (0x3F2B150E, 0x0, .sffma 0x2B 0x15 0xE)] : List (Word × Word × Instr)),
    decode e.1 e.2.1 = .ok e.2.2 := by
  simp only [List.forall_mem_cons, List.not_mem_nil, false_implies, implies_true, and_true]
  refine ⟨rfl, rfl, rfl, rfl, rfl, rfl, rfl, rfl, rfl, rfl, rfl, rfl, rfl, rfl, rfl, rfl⟩

/-- Row 0x4 of the opcode map (R43). -/
theorem test_decode_row_4 : ∀ e ∈ ([
    (0x402B150E, 0x0, .vadd 0x2B 0x15 0xE), (0x412B150E, 0x0, .vsub 0x2B 0x15 0xE),
    (0x422B150E, 0x0, .vmul 0x2B 0x15 0xE), (0x432B150E, 0x0, .vmulh 0x2B 0x15 0xE),
    (0x442B150E, 0x0, .vmad 0x2B 0x15 0xE), (0x452B150E, 0x0, .vdiv 0x2B 0x15 0xE),
    (0x462B150E, 0x0, .vrem 0x2B 0x15 0xE), (0x472B150E, 0x0, .vmin 0x2B 0x15 0xE),
    (0x482B150E, 0x0, .vmax 0x2B 0x15 0xE), (0x492B150E, 0x0, .vand 0x2B 0x15 0xE),
    (0x4A2B150E, 0x0, .vor 0x2B 0x15 0xE), (0x4B2B150E, 0x0, .vxor 0x2B 0x15 0xE),
    (0x4C2B150E, 0x0, .vshl 0x2B 0x15 0xE), (0x4D2B150E, 0x0, .vshr 0x2B 0x15 0xE),
    (0x4E2B1500, 0x0, .vpopc 0x2B 0x15), (0x4F2B1500, 0x0, .vclz 0x2B 0x15)] : List (Word × Word × Instr)),
    decode e.1 e.2.1 = .ok e.2.2 := by
  simp only [List.forall_mem_cons, List.not_mem_nil, false_implies, implies_true, and_true]
  refine ⟨rfl, rfl, rfl, rfl, rfl, rfl, rfl, rfl, rfl, rfl, rfl, rfl, rfl, rfl, rfl, rfl⟩

/-- Row 0x5 of the opcode map (R43). -/
theorem test_decode_row_5 : ∀ e ∈ ([
    (0x502B150E, 0x0, .vfadd 0x2B 0x15 0xE), (0x512B150E, 0x0, .vfsub 0x2B 0x15 0xE),
    (0x522B150E, 0x0, .vfmul 0x2B 0x15 0xE), (0x532B150E, 0x0, .vffma 0x2B 0x15 0xE),
    (0x542B150E, 0x0, .vffms 0x2B 0x15 0xE), (0x552B150E, 0x0, .vfdiv 0x2B 0x15 0xE),
    (0x562B1500, 0x0, .vfsqrt 0x2B 0x15), (0x572B150E, 0x0, .vfmin 0x2B 0x15 0xE),
    (0x582B150E, 0x0, .vfmax 0x2B 0x15 0xE), (0x592B1500, 0x0, .vfexp2 0x2B 0x15),
    (0x5A2B1500, 0x0, .vflog2 0x2B 0x15), (0x5B2B1500, 0x0, .vfrcp 0x2B 0x15), (0x5C2B1500, 0x0, .vfrsq 0x2B 0x15),
    (0x5D2B1500, 0x0, .vfabs 0x2B 0x15), (0x5E2B150E, 0x0, .vfscale 0x2B 0x15 0xE),
    (0x5F2B150E, 0x0, .vfdp2 0x2B 0x15 0xE)] : List (Word × Word × Instr)),
    decode e.1 e.2.1 = .ok e.2.2 := by
  simp only [List.forall_mem_cons, List.not_mem_nil, false_implies, implies_true, and_true]
  refine ⟨rfl, rfl, rfl, rfl, rfl, rfl, rfl, rfl, rfl, rfl, rfl, rfl, rfl, rfl, rfl, rfl⟩

/-- Row 0x6 of the opcode map (R43). -/
theorem test_decode_row_6 : ∀ e ∈ ([
    (0x602B150E, 0x0, .vcmpeq 0x2B 0x15 0xE), (0x612B150E, 0x0, .vcmpne 0x2B 0x15 0xE),
    (0x622B150E, 0x0, .vcmplt 0x2B 0x15 0xE), (0x632B150E, 0x0, .vcmple 0x2B 0x15 0xE),
    (0x642B150E, 0x0, .vcmpun 0x2B 0x15 0xE), (0x652B150E, 0x0, .vsel 0x2B 0x15 0xE),
    (0x662B150E, 0x0, .vcvt 0x2B 0x15 0xE), (0x672B1500, 0x0, .vmov 0x2B 0x15),
    (0x682B150E, 0x0, .vbcast 0x2B 0x15 0xE), (0x692B81FE, 0x0, .vli 0x2B 0x81FE),
    (0x6A020000, 0x3F800000, .vlit 2 0x3F800000), (0x6B2B150E, 0x0, .vget 0x2B 0x15 0xE),
    (0x6C2B150E, 0x0, .vput 0x2B 0x15 0xE), (0x6D2B150E, 0x0, .vpack 0x2B 0x15 0xE),
    (0x6E2B1500, 0x0, .vunpkl 0x2B 0x15), (0x6F2B1500, 0x0, .vunpkh 0x2B 0x15)] : List (Word × Word × Instr)),
    decode e.1 e.2.1 = .ok e.2.2 := by
  simp only [List.forall_mem_cons, List.not_mem_nil, false_implies, implies_true, and_true]
  refine ⟨rfl, rfl, rfl, rfl, rfl, rfl, rfl, rfl, rfl, rfl, rfl, rfl, rfl, rfl, rfl, rfl⟩

/-- Row 0x7 of the opcode map (R43). -/
theorem test_decode_row_7 : ∀ e ∈ ([
    (0x702114A5, 0x0, .setmode 0x2114A5), (0x712114A5, 0x0, .modeone 0x2114A5), (0x722B0000, 0x0, .rdmode 0x2B),
    (0x73001500, 0x0, .wrmode 0x15), (0x7400150E, 0x0, .fmtset 0x15 0xE), (0x752B1500, 0x0, .fmtget 0x2B 0x15),
    (0x762B150E, 0x0, .sfsub 0x2B 0x15 0xE), (0x772B150E, 0x0, .sfdiv 0x2B 0x15 0xE),
    (0x782B150E, 0x0, .sfmin 0x2B 0x15 0xE), (0x792B150E, 0x0, .sfmax 0x2B 0x15 0xE),
    (0x7A2B150E, 0x0, .sfcmp 0x2B 0x15 0xE), (0x7B2B1500, 0x0, .sfcvt 0x2B 0x15), (0x7C2B1500, 0x0, .sfexp2 0x2B 0x15),
    (0x7D2B1500, 0x0, .sfsqrt 0x2B 0x15), (0x7E2B1500, 0x0, .sfclass 0x2B 0x15)] : List (Word × Word × Instr)),
    decode e.1 e.2.1 = .ok e.2.2 := by
  simp only [List.forall_mem_cons, List.not_mem_nil, false_implies, implies_true, and_true]
  refine ⟨rfl, rfl, rfl, rfl, rfl, rfl, rfl, rfl, rfl, rfl, rfl, rfl, rfl, rfl, rfl⟩

/-- Row 0x8 of the opcode map (R43). -/
theorem test_decode_row_8 : ∀ e ∈ ([
    (0x802B150E, 0x0, .vshfl 0x2B 0x15 0xE), (0x812B150E, 0x0, .vshup 0x2B 0x15 0xE),
    (0x822B150E, 0x0, .vshdn 0x2B 0x15 0xE), (0x832B150E, 0x0, .vxorsh 0x2B 0x15 0xE),
    (0x842B1500, 0x0, .vballot 0x2B 0x15), (0x852B1509, 0x0, .vscan 0x2B 0x15 0x9),
    (0x862B1509, 0x0, .vred 0x2B 0x15 0x9), (0x872B150E, 0x0, .vtopk 0x2B 0x15 0xE),
    (0x882B150D, 0x0, .vxpat 0x2B 0x15 0xD), (0x892B150E, 0x0, .xpld 0x2B 0x15 0xE),
    (0x8A2B150E, 0x0, .rgdeal 0x2B 0x15 0xE), (0x8B2B1500, 0x0, .rgclose 0x2B 0x15),
    (0x8C2B1500, 0x0, .vcompact 0x2B 0x15), (0x8D2B1500, 0x0, .vexpand 0x2B 0x15)] : List (Word × Word × Instr)),
    decode e.1 e.2.1 = .ok e.2.2 := by
  simp only [List.forall_mem_cons, List.not_mem_nil, false_implies, implies_true, and_true]
  refine ⟨rfl, rfl, rfl, rfl, rfl, rfl, rfl, rfl, rfl, rfl, rfl, rfl, rfl, rfl⟩

/-- Row 0x9 of the opcode map (R43). -/
theorem test_decode_row_9 : ∀ e ∈ ([
    (0x902B150E, 0x0, .vld 0x2B 0x15 0xE), (0x912B150E, 0x0, .vst 0x2B 0x15 0xE),
    (0x922B150E, 0x0, .vld2 0x2B 0x15 0xE), (0x932B150E, 0x0, .vst2 0x2B 0x15 0xE),
    (0x942B150E, 0x0, .vlds 0x2B 0x15 0xE), (0x952B150E, 0x0, .vsts 0x2B 0x15 0xE),
    (0x962B150E, 0x0, .vldt 0x2B 0x15 0xE), (0x972B150E, 0x0, .vstt 0x2B 0x15 0xE),
    (0x982B150E, 0x0, .vldq 0x2B 0x15 0xE), (0x992B150E, 0x0, .vstq 0x2B 0x15 0xE),
    (0x9A2B150E, 0x0, .vpfx 0x2B 0x15 0xE)] : List (Word × Word × Instr)),
    decode e.1 e.2.1 = .ok e.2.2 := by
  simp only [List.forall_mem_cons, List.not_mem_nil, false_implies, implies_true, and_true]
  refine ⟨rfl, rfl, rfl, rfl, rfl, rfl, rfl, rfl, rfl, rfl, rfl⟩

/-- Row 0xA of the opcode map (R43). -/
theorem test_decode_row_A : ∀ e ∈ ([
    (0xA02B150E, 0x0, .vatadd 0x2B 0x15 0xE), (0xA12B150E, 0x0, .vatmin 0x2B 0x15 0xE),
    (0xA22B150E, 0x0, .vatmax 0x2B 0x15 0xE), (0xA32B150E, 0x0, .vatand 0x2B 0x15 0xE),
    (0xA42B150E, 0x0, .vator 0x2B 0x15 0xE), (0xA52B150E, 0x0, .vatxor 0x2B 0x15 0xE),
    (0xA62B150E, 0x0, .vatxchg 0x2B 0x15 0xE), (0xA72B150E, 0x0, .vatcas 0x2B 0x15 0xE),
    (0xA82B150E, 0x0, .vradd 0x2B 0x15 0xE), (0xA92B150E, 0x0, .vrmin 0x2B 0x15 0xE),
    (0xAA2B150E, 0x0, .vrmax 0x2B 0x15 0xE), (0xAB2B150E, 0x0, .barinit 0x2B 0x15 0xE),
    (0xAC2B150E, 0x0, .bararr 0x2B 0x15 0xE), (0xAD2B150E, 0x0, .barwait 0x2B 0x15 0xE),
    (0xAE000035, 0x0, .fence 0x35), (0xAF000000, 0x0, .gfence)] : List (Word × Word × Instr)),
    decode e.1 e.2.1 = .ok e.2.2 := by
  simp only [List.forall_mem_cons, List.not_mem_nil, false_implies, implies_true, and_true]
  refine ⟨rfl, rfl, rfl, rfl, rfl, rfl, rfl, rfl, rfl, rfl, rfl, rfl, rfl, rfl, rfl, rfl⟩

/-- Row 0xB of the opcode map (R43). -/
theorem test_decode_row_B : ∀ e ∈ ([
    (0xB02B000E, 0x0, .rclaim 0x2B 0xE), (0xB12B000E, 0x0, .rgive 0x2B 0xE), (0xB2000000, 0x0, .rslice),
    (0xB32B0000, 0x0, .rquery 0x2B), (0xB4000007, 0x0, .fwpub 0x7), (0xB500000E, 0x0, .fwend 0xE),
    (0xB62B1500, 0x0, .cpush 0x2B 0x15), (0xB72B1500, 0x0, .cjoin 0x2B 0x15), (0xB82B150E, 0x0, .qpush 0x2B 0x15 0xE),
    (0xB92B1500, 0x0, .qpop 0x2B 0x15), (0xBA2B150E, 0x0, .launch 0x2B 0x15 0xE)] : List (Word × Word × Instr)),
    decode e.1 e.2.1 = .ok e.2.2 := by
  simp only [List.forall_mem_cons, List.not_mem_nil, false_implies, implies_true, and_true]
  refine ⟨rfl, rfl, rfl, rfl, rfl, rfl, rfl, rfl, rfl, rfl, rfl⟩

/-- Row 0xC of the opcode map (R43). -/
theorem test_decode_row_C : ∀ e ∈ ([
    (0xC02B1500, 0x0, .oclaim 0x2B 0x15), (0xC1001500, 0x0, .orel 0x15), (0xC22B150E, 0x0, .ofill 0x2B 0x15 0xE),
    (0xC32B150E, 0x0, .ofillv 0x2B 0x15 0xE), (0xC42B150E, 0x0, .mma 0x2B 0x15 0xE),
    (0xC52B150E, 0x0, .mmas 0x2B 0x15 0xE), (0xC62B150E, 0x0, .mmar 0x2B 0x15 0xE),
    (0xC72B150E, 0x0, .mmaz 0x2B 0x15 0xE), (0xC82B150E, 0x0, .oread 0x2B 0x15 0xE),
    (0xC92B150E, 0x0, .owrite 0x2B 0x15 0xE), (0xCA2B150E, 0x0, .ostore 0x2B 0x15 0xE),
    (0xCB8142FE, 0x0, .mtest 0x8142FE), (0xCC000000, 0x0, .mfence), (0xCD2B150E, 0x0, .orec 0x2B 0x15 0xE)] : List (Word × Word × Instr)),
    decode e.1 e.2.1 = .ok e.2.2 := by
  simp only [List.forall_mem_cons, List.not_mem_nil, false_implies, implies_true, and_true]
  refine ⟨rfl, rfl, rfl, rfl, rfl, rfl, rfl, rfl, rfl, rfl, rfl, rfl, rfl, rfl⟩

/-- Row 0xD of the opcode map (R43). -/
theorem test_decode_row_D : ∀ e ∈ ([
    (0xD02B150E, 0x0, .eappend 0x2B 0x15 0xE), (0xD12B1500, 0x0, .eseq 0x2B 0x15),
    (0xD22B150E, 0x0, .relay 0x2B 0x15 0xE), (0xD32B1500, 0x0, .tdesc 0x2B 0x15),
    (0xD42B150E, 0x0, .tquery 0x2B 0x15 0xE), (0xD52B1500, 0x0, .tfree 0x2B 0x15),
    (0xD62B150E, 0x0, .trig 0x2B 0x15 0xE), (0xD700150E, 0x0, .tbset 0x15 0xE), (0xD800150E, 0x0, .tbclr 0x15 0xE),
    (0xD92B1500, 0x0, .tbread 0x2B 0x15), (0xDA2B1500, 0x0, .evpoll 0x2B 0x15),
    (0xDB2B150E, 0x0, .evack 0x2B 0x15 0xE), (0xDC2B1500, 0x0, .tilebeg 0x2B 0x15), (0xDD2B0000, 0x0, .tileend 0x2B)] : List (Word × Word × Instr)),
    decode e.1 e.2.1 = .ok e.2.2 := by
  simp only [List.forall_mem_cons, List.not_mem_nil, false_implies, implies_true, and_true]
  refine ⟨rfl, rfl, rfl, rfl, rfl, rfl, rfl, rfl, rfl, rfl, rfl, rfl, rfl, rfl⟩

/-- Row 0xE of the opcode map (R43). -/
theorem test_decode_row_E : ∀ e ∈ ([
    (0xE02B150E, 0x0, .vcput 0x2B 0x15 0xE), (0xE12B150E, 0x0, .vcget 0x2B 0x15 0xE),
    (0xE22B150E, 0x0, .vcred 0x2B 0x15 0xE), (0xE32B1500, 0x0, .a2aplan 0x2B 0x15),
    (0xE42B150E, 0x0, .satadd 0x2B 0x15 0xE), (0xE52B150E, 0x0, .satcas 0x2B 0x15 0xE), (0xE6000000, 0x0, .tret),
    (0xE7000000, 0x0, .pdone), (0xE88142FE, 0x0, .brk 0x8142FE), (0xE98142FE, 0x0, .svc 0x8142FE),
    (0xEA2B150E, 0x0, .tmark 0x2B 0x15 0xE), (0xEB8142FE, 0x0, .wfe 0x8142FE)] : List (Word × Word × Instr)),
    decode e.1 e.2.1 = .ok e.2.2 := by
  simp only [List.forall_mem_cons, List.not_mem_nil, false_implies, implies_true, and_true]
  refine ⟨rfl, rfl, rfl, rfl, rfl, rfl, rfl, rfl, rfl, rfl, rfl, rfl⟩

/-! ## The hypotheses of the statements can be met -/

theorem witness_ScalarArithmetic : Ready world [3, 1, 2] := rfl

theorem witness_Division : Ready world [3, 1, 2] ∧ world.readS 5 = 0 ∧ world.readS 2 ≠ 0
    ∧ (let s := world.setHart world.cur { hart with sregs := [(1, 0x8000000000000000), (2, 0xFFFFFFFFFFFFFFFF)] }
       Ready s [3, 1, 2] ∧ s.readS 1 = 0x8000000000000000 ∧ s.readS 2 = -1) :=
  ⟨rfl, by decide, by decide, rfl, by decide, by decide⟩

theorem witness_RowTwo : Ready world [3, 1, 2] ∧ (63 : BitVec 8).toNat < 64 := ⟨rfl, by decide⟩

theorem witness_ShiftImmediateTraps : 64 ≤ (64 : BitVec 8).toNat ∧ 64 ≤ (255 : BitVec 8).toNat := by decide

/-- Operation 7 has a write to s1 pending. -/
def pendingWorld : State :=
  { world with ops := [(7, { agent := .slot 5 0, pip := some 2, pc := 0xFFC, word := 0, kind := .scalar 1 9, pendS := [1] })] }

theorem witness_RegisterInterlock : pendingWorld.pendingOn [3, 1, 2] [] = some 7 := rfl

theorem witness_BranchTargets : (world.slot world.cur).clause = some clause ∧ Ready world [5, 3, 62]
    ∧ world.readS 3 &&& 3 = 0 ∧ (11 : BitVec 8).toNat < 12 ∧ (63 : BitVec 8).toNat < 64 :=
  ⟨rfl, rfl, by decide, by decide, by decide⟩

theorem witness_MisalignedTargets : Ready world [1, 62] ∧ world.readS 1 &&& 3 ≠ 0 := ⟨rfl, by decide⟩

theorem witness_LaneControlOnCores : (coreWorld.slot coreWorld.cur).clause = some clause
    ∧ (coreWorld.slot coreWorld.cur).mask = 1 ∧ (coreWorld.slot coreWorld.cur).wave = none ∧ Ready coreWorld [1, 60] :=
  ⟨rfl, by decide, rfl, rfl⟩

theorem witness_LaneControlInGroups :
    (world.slot world.cur).clause = some clause ∧ world.need ([2] ++ world.guardRegs) = .ok ()
    -- s2 = 5 holds some of lanes 0 to 3, s5 none, s1 = -3 none but lane 1 not, s4 all of them
    ∧ (∃ l < 64, world.active.getLsbD l = true ∧ (world.readS 2).getLsbD l = true)
    ∧ (∀ l < 64, world.active.getLsbD l = true → (world.readS 5).getLsbD l = false)
    ∧ (∀ l < 64, world.active.getLsbD l = true → (world.readS 4).getLsbD l = true)
    ∧ (∃ l < 64, world.active.getLsbD l = true ∧ (world.readS 2).getLsbD l = false)
    ∧ (let s := withSlot { slot with mask := 3 }
       s.need s.guardRegs = .ok () ∧ ∃ l < 64, (s.slot s.cur).own.getLsbD l = true ∧ ¬ s.active.getLsbD l = true) :=
  ⟨rfl, rfl, by decide +kernel, by decide +kernel, by decide +kernel, by decide +kernel, rfl, by decide +kernel⟩

/-- Another agent's write of 64 bytes at a home, which nothing orders before anything. -/
def written64 (key : Nat) : Access :=
  { agent := 0, group := 0, inst := 0, time := 1, acc := 1, atomic := false, key := key, size := 64, det2 := 0x77, det3 := 0x88 }

/-- Checked memory: another agent has written the 64 bytes at 0x4000, and nothing orders it before the group. -/
def raced : State :=
  let hist := [(0x4000, [written64 0x4000]), (0x4020, [written64 0x4000])]
  { world with
    wgs := [(6, { ctx := 1, groups := [5], left_ := 100, launch := some 8 })]
    launches := [(8, { ctx := 1, header := List.replicate 9 0 ++ [0x200000] })]
    race := { active := true, hist := hist } }

theorem witness_SplitsOf : (world.slot world.cur).clause = some clause ∧ world.need ([2, 60] ++ world.guardRegs) = .ok ()
    ∧ world.active &&& world.readS 5 = 0 ∧ world.active &&& world.readS 4 ≠ 0
    ∧ (world.slot world.cur).own &&& ~~~ (world.active &&& world.readS 4) = 0
    ∧ world.active &&& world.readS 2 ≠ 0 ∧ (world.slot world.cur).own &&& ~~~ (world.active &&& world.readS 2) ≠ 0
    ∧ ((world.group 5).slot 1).st = .free ∧ (world.group 5).dslo.toNat + 64 ≤ (world.group 5).ds.toNat
    ∧ (world.group 5).ds.toNat ≤ (world.group 5).dshi.toNat ∧ (world.group 5).ds.toNat % 64 = 0
    ∧ world.otherBusy 5 0 = none
    ∧ (∃ l, world.areaLoc 5 ((world.group 5).ds - 64) = some l
        ∧ answersOk (world.groupAccess (world.areaWho 5 0) l 64 1) = true)
    ∧ answersOk (raced.groupAccess (raced.areaWho 5 0) { key := 0x4000, addr := 0x4000 } 64 1) = false :=
  ⟨rfl, rfl, by decide, by decide, by decide, by decide, by decide, rfl, by decide, by decide, by decide, rfl,
    ⟨_, rfl, rfl⟩, by decide +kernel⟩

/-- The other slot has lanes 4 to 7. -/
def twoSlots : State := world.setGroup 5 { group with slot1 := { slot with own := 0xF0, mask := 0xF0 }, items := 0xFF }

/-- A group whose divergence area is full. -/
def fullWorld : State := world.setGroup 5 { group with hart := { hart with sregs := [(2, 5), (60, 0x00E000000000003F)] } }

theorem witness_LaneEnds :
    (let s := withSlot slot
     s.need s.guardRegs = .ok () ∧ s.active ≠ 0 ∧ (s.slot s.cur).own &&& ~~~ s.active = 0 ∧ (s.group 5).ds = (s.group 5).dshi
       ∧ ((s.group 5).slot 1).st = .free ∧ (s.group 5).life = .running ∧ (s.group 5).tile = none)
    ∧ (twoSlots.need twoSlots.guardRegs = .ok () ∧ twoSlots.active ≠ 0
        ∧ (twoSlots.slot twoSlots.cur).own &&& ~~~ twoSlots.active = 0 ∧ (twoSlots.group 5).ds = (twoSlots.group 5).dshi
        ∧ ((twoSlots.group 5).slot 1).st = .run) :=
  ⟨⟨rfl, by decide, by decide, by decide, rfl, rfl, rfl⟩, rfl, by decide, by decide, by decide, rfl⟩

/-- The group's area holds one entry, of a kind, that names `pc` and lanes 0 to 3. -/
def topped (kind : Nat) (pc : Dword) (x y : Slot) (exited : Lanes := 0) : State :=
  ({ world with mem := Mem.write world.mem (sliceBase + 0x3C0) 64 (natOfDwords [pc, 0xF, 0xF, BitVec.ofNat 64 kind]) } : State).setGroup 5
    { group with slot0 := x, slot1 := y, exited := exited, hart := { hart with sregs := [(60, 0x00E00000000003C0)] } }

/-- That entry is read, of that kind, and the group is as it was. -/
def topIs (s : State) (kind : Nat) (p : DivEntry → Bool) : Bool :=
  !(s.group 5).hart.handler && decide ((s.group 5).life ≠ .saved) && decide ((s.group 5).ds ≠ (s.group 5).dshi)
    && okAnd (s.topEntry 5 0) fun x => decide (x.2.group 5 = s.group 5) && x.1.kind == kind && p x.1

def waiting (mp : Dword := 0x2000) : Slot := { slot with st := .wait, clause := none, mp := mp }

/-- Rows 1 (a slot FREE, lanes left; then none left), 2, 3; 4 and 5 need no entry. -/
theorem witness_SlotRows :
    topIs (topped 0 0x2000 slot {}) 0 (fun e => e.own != 0) = true ∧ topIs (topped 0 0x2000 {} {} 0xF) 0 (fun e => e.own == 0xF) = true
    ∧ topIs (topped 1 0x2000 (waiting) {}) 1 (fun e => e.pc == (waiting).mp) = true
    ∧ topIs (topped 1 0x2000 (waiting) (waiting)) 1 (fun e => e.pc == (waiting).mp) = true
    ∧ topIs (topped 1 0x2000 {} {}) 1 (fun _ => true) = true
    ∧ topIs (topped 1 0x3000 (waiting) {}) 1 (fun e => e.pc != (waiting).mp) = true := by
  decide +kernel

/-- The rows' outcomes: stuck, damaged, nothing. -/
theorem witness_SlotRows_after :
    (match (topped 1 0x3000 (waiting) {}).examineOnce 5 0 with | .stuck k => k == 0 | _ => false) = true
    ∧ (match (topped 2 0x2000 slot {}).examineOnce 5 0 with | .damaged f => f.1 == 13 | _ => false) = true
    ∧ (match world.examineOnce 5 0 with | .nothing => true | _ => false) = true
    ∧ (let s := world.setGroup 5 { group with slot0 := {}, tile := none }
       (s.group 5).ds = (s.group 5).dshi ∧ (s.group 5).life = .running) := by
  decide +kernel

/-- The area in checked memory, where another agent has written its topmost entry. -/
def racedArea : State :=
  let k := sliceBase + 0x3C0
  { raced with race := { active := true, hist := [(k, [written64 k]), (k + 0x20, [written64 k])] } }

theorem witness_TopEntries : (∃ l, (topped 2 0x2000 slot {}).areaLoc 5 ((topped 2 0x2000 slot {}).group 5).ds = some l)
    ∧ okAnd ((topped 2 0x2000 slot {}).groupAccess ((topped 2 0x2000 slot {}).areaWho 5 0) { key := sliceBase + 0x3C0, addr := 0x3C0 } 64 0)
        (fun t => !t.poisoned (sliceBase + 0x3C0) 64 && (topped 2 0x2000 slot {}).bytesAt (sliceBase + 0x3D8) 8 == 2) = true
    ∧ answersOk (racedArea.groupAccess (racedArea.areaWho 5 0) { key := sliceBase + 0x3C0, addr := 0x3C0 } 64 0) = false
    ∧ ¬ (fullWorld.group 5).ds.toNat % 64 = 0 :=
  ⟨⟨_, rfl⟩, by decide +kernel, by decide +kernel, by decide⟩

theorem witness_SplitBesideSlot : (∃ l m, twoSlots.areaLoc 5 ((twoSlots.group 5).ds - 64) = some l
      ∧ twoSlots.areaLoc 5 ((twoSlots.group 5).ds - 128) = some m ∧ m.key + 64 = l.key
      ∧ twoSlots.race.active = false ∧ twoSlots.checkedAccess (twoSlots.areaWho 5 0) l = false
      ∧ twoSlots.checkedAccess (twoSlots.areaWho 5 0) m = false)
    ∧ twoSlots.need ([2, 60] ++ twoSlots.guardRegs) = .ok () ∧ twoSlots.active &&& twoSlots.readS 2 ≠ 0
    ∧ (twoSlots.slot twoSlots.cur).own &&& ~~~ (twoSlots.active &&& twoSlots.readS 2) ≠ 0
    ∧ ((twoSlots.group 5).slot 1).st ≠ .free ∧ (twoSlots.group 5).dslo.toNat + 128 ≤ (twoSlots.group 5).ds.toNat
    ∧ (twoSlots.group 5).ds.toNat % 64 = 0 ∧ twoSlots.otherBusy 5 0 = none
    ∧ (let s := { twoSlots with ops := [(7, { agent := .slot 5 1, pip := none, pc := 0xFFC, word := 0, kind := .load, due := true })] }
       s.otherBusy 5 0 = some 7)
    ∧ answersOk (racedArea.groupAccess (racedArea.areaWho 5 0) { key := sliceBase + 0x3C0, addr := 0x3C0 } 64 1) = false :=
  ⟨⟨_, _, rfl, rfl, rfl, rfl, rfl, rfl⟩, rfl, by decide, by decide, by decide, by decide, by decide, rfl, rfl,
    by decide +kernel⟩

theorem witness_SplitWithoutRoom : fullWorld.need ([2, 60] ++ fullWorld.guardRegs) = .ok ()
    ∧ fullWorld.active &&& fullWorld.readS 2 ≠ 0 ∧ (slot).own &&& ~~~ (fullWorld.active &&& fullWorld.readS 2) ≠ 0
    ∧ (fullWorld.group 5).ds.toNat < (fullWorld.group 5).dslo.toNat + 64 ∧ (fullWorld.group 5).ds.toNat % 64 ≠ 0 :=
  ⟨rfl, by decide, by decide, by decide, by decide⟩

theorem witness_Merges : (world.slot world.cur).mp ≠ (world.slot world.cur).hdr
    ∧ (let s := (withSlot { slot with mp := 0x1000 }).setGroup 5 { group with slot0 := { slot with mp := 0x1000 }, slot1 := slot }
       (s.slot s.cur).mp = (s.slot s.cur).hdr ∧ ((s.group 5).slot 1).st = .run) :=
  ⟨by decide, by decide, rfl⟩

theorem witness_DeliberateTraps : world.accessInFlight = false ∧ pendingWorld.accessInFlight = true ∧ (world.slot world.cur).clause = some clause
    ∧ coreWorld.accessInFlight = false ∧ isSys coreWorld.cur = true
    -- BRKSTOP watches context 1 of the group's partition
    ∧ (let s := world.setPart (world.group 5).partKey { ctx := 0x101 }
       let w := (s.partSt (s.group 5).partKey).ctx
       w.getLsbD 8 = true ∧ w.toNat % 64 = (s.group 5).hart.ctx) :=
  ⟨rfl, rfl, rfl, rfl, rfl, by decide, by decide⟩

/-! Scalar accesses: s3 = 0x4004. -/

theorem witness_ScalarLoads :
    (∃ l t, Lands world (offsetAddress world 3 0 4) 4 .read l t ∧ t.poisoned l.key 4 = false
      ∧ (isSys world.cur && t.logged 0 1 (offsetAddress world 3 0 4)) = false)
    ∧ Ready world [7, 3, 0] ∧ world.needPip world.setA = .ok () ∧ world.setA = none
    ∧ (let s := world 2
       s.needPip s.setA = .ok () ∧ s.setA = some 2 ∧ ∃ l t, Lands s (s.readS 6 + s.readS 0) 8 .read l t ∧ t.poisoned l.key 8 = false)
    ∧ ∃ l t, Lands coreWorld (offsetAddress coreWorld 3 0xFF 2) 2 .read l t ∧ t.poisoned l.key 2 = false
      ∧ (isSys coreWorld.cur && t.logged (coreWorld.pkgOf coreWorld.cur) (coreWorld.ctxOf coreWorld.cur) 0x4002) = false :=
  ⟨⟨_, _, rfl, rfl, rfl⟩, rfl, rfl, rfl, ⟨rfl, rfl, _, _, rfl, rfl⟩, _, _, rfl, rfl, rfl⟩

theorem witness_ScalarStores : Ready world [1, 3, 0] ∧ world.needPip world.setA = .ok ()
    ∧ (∃ l t, Lands world (offsetAddress world 3 0 4) 4 .write l t)
    ∧ (∃ l t, Lands (world 2) (world.readS 6 + world.readS 0) 8 .write l t) :=
  ⟨rfl, rfl, ⟨_, _, rfl⟩, _, _, rfl⟩

/-- Context 1 without the boot mapping, and without tables: every page is missing. -/
def unmapped : State := { world with ctxs := [(1, { opened := true })] }

/-- The granule at 0x4000 is poisoned. -/
def poisonedWorld (seta : Nat) : State := { world seta with grans := [(0x100, { poisoned := true })] }

theorem witness_ScalarLoads_poison : (∃ l t, Lands (poisonedWorld 15) (offsetAddress (poisonedWorld 15) 3 0 8) 4 .read l t
      ∧ t.poisoned l.key 4 = true) ∧ (poisonedWorld 15).setA = none ∧ (poisonedWorld 2).setA = some 2 :=
  ⟨⟨_, _, rfl, rfl⟩, rfl, rfl⟩

theorem witness_ScalarAccessFaults : Ready world [7, 1] ∧ world.needPip world.setA = .ok ()
    ∧ (offsetAddress world 1 0 2).toNat % 2 ≠ 0
    ∧ (let s := world.setHart world.cur { hart with sregs := [(1, 0x200000000000000)] }
       (offsetAddress s 1 0 4).toNat % 4 = 0 ∧ (s.xlate s.thread (offsetAddress s 1 0 4) .read).1 = .bad)
    ∧ (∃ c, (unmapped.xlate unmapped.thread (offsetAddress unmapped 3 0 4) .read).1 = .miss c)
    ∧ (∃ l, (raced.xlate raced.thread (offsetAddress raced 3 0 4) .read).1 = .at l
        ∧ answersOk ((raced.xlate raced.thread (offsetAddress raced 3 0 4) .read).2.raceAccess raced.thread l 4 0 false)
          = false) :=
  ⟨rfl, rfl, by decide, ⟨by decide, rfl⟩, ⟨_, rfl⟩, _, rfl, by decide +kernel⟩

/-- The race names what was first: the accesses that follow it read its words (R262). -/
theorem witness_ScalarAccessFaults_race : nextIs (exec (.sld32 7 3 0) raced) (fun t =>
    (t.group 5).trap.pending.any fun p => p.cause == 7 && p.addr == 0x4004 && p.det2 == 0x77 && p.det3 == 0x88) = true := by
  decide +kernel

/-- Package 1 has power and a route from package 0; unit 0 of its core 0 is context 1's, and s3 is its address. -/
def twin (s : State := world) : State :=
  { s with
    pkgs := [(0, { on := true, booted := true, peers := [0], debugPeers := [0], places := [(0, 128), (1, 129)]
                   routes := [(2, 1), (3, 0x8000)], links := [(0, { st := 2, neighbour := 1 })] }),
             (1, { on := true, places := [(0, 128)] })]
    units := [(2 ^ 20, { ctx := 1 })] }.setHart s.cur { s.hart s.cur with sregs := [(3, 0x00F0000040000000), (6, 0x4000)] }

theorem witness_ScalarsSentAway : Ready twin [7, 3] ∧ twin.needPip twin.setA = .ok () ∧ twin.setA = none
    ∧ (twin.scalarAway (offsetAddress twin 3 0 4) 4 .read).isSome = true
    ∧ ((twin (world 2)).scalarAway (offsetAddress (twin (world 2)) 3 0 4) 4 .write).isSome = true ∧ (twin (world 2)).setA = some 2
    -- one in its own package
    ∧ twin.scalarAway 0x4000 4 .write = none := by
  refine ⟨rfl, rfl, rfl, ?_, ?_, rfl, ?_⟩ <;> decide +kernel

theorem witness_AddressRanges : (world.ctx 0 1).direct = true ∧ world.thread.ctx = 1 ∧ world.thread.pkg = 0
    ∧ (0xFFFFFFFFF : Dword).toNat < 2 ^ 36 ∧ coreWorld.thread.kind = .core
    ∧ (0xF00000000000 : Dword).toNat / 2 ^ 40 ≠ 0xF000 ∧ (0x00F0000000000000 : Dword).toNat / 2 ^ 40 = 0xF000
    ∧ (0x00E00000000FFFFF : Dword).toNat / 2 ^ 20 = 0xE00000000 := by
  refine ⟨rfl, rfl, rfl, by decide, rfl, by decide, by decide, by decide⟩

/-- A unit of another package that is the context's; one that nobody holds; one of a package without a route; the service's
own agent, to which tags do not apply. -/
theorem witness_WindowPlaces : (0x00F0000040000000 : Dword).toNat / 2 ^ 40 = 0xF000
    ∧ twin.listed 0 1 = true ∧ (SMap.get (twin.pkg 1).places 0 0).getLsbD 7 = true
    ∧ SMap.find twin.units (2 ^ 20) = some { ctx := 1 } ∧ twin.thread.ctx = 1 ∧ twin.thread.kind ≠ .core
    ∧ SMap.find twin.units (2 ^ 20 + 1) = none ∧ twin.listed 0 2 = false ∧ (SMap.get (twin.pkg 1).places 1 0).getLsbD 7 = false
    ∧ coreWorld.thread.kind = .core ∧ (0x00E00000000FFFFF : Dword).toNat / 2 ^ 20 = 0xE00000000 ∧ twin.thread.kind = .thread := by
  decide +kernel

/-- Page tables of context 1 for address 0x4004, with this leaf. -/
def walked (leaf : Nat) : State :=
  { world with
    ctxs := [(1, { opened := true, root := 0x100001, members := [0] })]
    mem := Mem.write (Mem.write (Mem.write (Mem.write [] 0x100000 8 0x200001) 0x200000 8 0x300001) 0x300000 8 0x400001) 0x400000 8 leaf }

def walkedEntry (leaf j : Nat) : Dword := walkEntry (walked leaf) 0x100001 0x4004 j

/-- Missing; a reserved bit; no leaf at the last level; a leaf that is misaligned; one that allows no write; one of a
package that has no route; one that allows a read. -/
theorem witness_PageWalks : ((walked 7).ctx 0 1).direct = false ∧ SMap.find (walked 7).buffered (bufKey 0 1 0x4004) = none
    ∧ (0x2000000000 : Dword).toNat / 2 ^ (36 + 1) ≠ 0 ∧ (0x4004 : Dword).toNat / 2 ^ (36 + 1) = 0
    ∧ (∀ j < 3, LeadsOn (walkedEntry 7 j)) ∧ (walkedEntry 0 3).getLsbD 0 = false ∧ ¬ NoReserved (walkedEntry 0x27 3)
    ∧ LeadsOn (walkedEntry 0x500001 3) ∧ tableAddr (walkedEntry 0x500107 3) % 2 ^ walkShift 3 ≠ 0
    ∧ NoReserved (walkedEntry 0x500007 3) ∧ tableAddr (walkedEntry 0x500007 3) % 2 ^ walkShift 3 = 0
    ∧ refusedBy (walkedEntry 0x500007 3) .write = some 2 ∧ refusedBy (walkedEntry 0x500007 3) .read = none
    ∧ tableAddr (walkedEntry (2 ^ 39 + 7) 3) / 2 ^ 39 = 1 ∧ (walked 7).listed 0 1 = false := by
  unfold LeadsOn NoReserved; decide +kernel

/-- The counted load of operation 7 has what it needs to complete. -/
theorem witness_ScalarCompletion : ∃ o, SMap.find pendingWorld.ops 7 = some o ∧ o.kind = .scalar 1 9 ∧ o.entries = 0
    ∧ o.reqs = [] ∧ o.due = false ∧ o.ends = none ∧ pendingWorld.stopOf o.agent = none ∧ o.bad = none
    ∧ (pendingWorld.group (gidOf o.agent)).regs.lost = [] ∧ o.pip = some 2 :=
  ⟨_, rfl, rfl, rfl, rfl, rfl, rfl, rfl, rfl, rfl, rfl⟩

/-- A counted load of poisoned data; `due`: all of its data has come. -/
def poisonedLoad (due : Bool) : State :=
  { world with ops := [(7, { agent := .slot 5 0, pip := some 2, pc := 0xFFC, word := 0, kind := .scalar 1 9
                             bad := some (0, 0x4000, 6), due := due })] }

theorem witness_ScalarCompletion_poison : ∃ o, SMap.find (poisonedLoad false).ops 7 = some o ∧ o.kind = .scalar 1 9
    ∧ o.entries = 0 ∧ o.reqs = [] ∧ o.due = false ∧ o.ends = none ∧ (poisonedLoad false).stopOf o.agent = none ∧ o.bad ≠ none
    ∧ o.pip = some 2 := ⟨_, rfl, rfl, rfl, rfl, rfl, rfl, rfl, by decide, rfl⟩

/-- A load and a store of another package on their way back. -/
def awayOp (kind : ScalarAct) : Op :=
  { agent := .slot 5 0, pip := some 2, pc := 0xFFC, word := 0, kind := .parkedScalar 7 kind
    reqs := [{ lane := 0, va := 0x00F0000040000000, n := 4, reg := 7, data := 9, key := 2 ^ 49 + 2 ^ 30, addr := 2 ^ 30 }] }

def awayWorld (kind : ScalarAct) : State := { twin with ops := [(7, awayOp kind)] }

theorem witness_AwayScalarsComplete : (awayWorld .load).stopOf (.slot 5 0) = none ∧ ((awayWorld .load).group 5).regs.lost = []
    ∧ okAnd ((awayWorld .load).raceAccess (lateWho (awayWorld .load) (awayOp .load)) { key := 2 ^ 49 + 2 ^ 30, addr := 2 ^ 30 } 4 0 false)
        (fun u => !u.poisoned (2 ^ 49 + 2 ^ 30) 4) = true
    ∧ okAnd ((awayWorld .store).raceAccess (lateWho (awayWorld .store) (awayOp .store)) { key := 2 ^ 49 + 2 ^ 30, addr := 2 ^ 30 } 4 1 false)
        (fun u => !u.poisoned (2 ^ 49 + 2 ^ 30) 4) = true := by decide +kernel

theorem witness_DeferredFaults : ∃ o, (poisonedLoad true).dueOp (.slot 5 0) = some (7, o) ∧ o.bad = some (0, 0x4000, 6)
    ∧ (poisonedLoad true).takesDue (.slot 5 0) = true
    -- of a slot that is FREE
    ∧ ((withSlot {} (poisonedLoad true)).slot (.slot 5 0)).st = .free ∧ (withSlot {} (poisonedLoad true)).takesDue (.slot 5 0) = true :=
  ⟨_, rfl, rfl, rfl, rfl, rfl⟩

/-! Modes, formats, floating point: SF and DF of mode 0xA5 are fp32. -/

theorem witness_ModeWords : Ready world [3, 2] ∧ ModeLegal 0xA5 ∧ ModeLegal 0x3FF4FF ∧ ¬ ModeLegal 0x400000 ∧ ¬ ModeLegal 0x1800
    ∧ ModeLegal ((world.readS 2).extractLsb' 0 24) ∧ ¬ ModeLegal ((world.readS 1).extractLsb' 0 24) :=
  ⟨rfl, by unfold ModeLegal; decide, by unfold ModeLegal; decide, by unfold ModeLegal; decide, by unfold ModeLegal; decide,
    by unfold ModeLegal; decide, by unfold ModeLegal; decide⟩

/-- A control core with a trap handler and a pending mode. -/
def handledCore : State :=
  { coreWorld with cores := [(coreKey 0 8 0, { hart := { hart with ctx := 0, trap := [(0x49, 0x8000)] }
                                               slot := { slot with own := 1, mask := 1, pmode := some 0x14A5 } })] }

theorem witness_PendingMode : (handledCore.slot handledCore.cur).pmode = some 0x14A5
    ∧ (handledCore.hart handledCore.cur).handler = false ∧ SMap.get (handledCore.hart handledCore.cur).trap 0x49 0 ≠ 0
    ∧ ¬ ModeLegal 0x400000 := ⟨rfl, rfl, by decide, by unfold ModeLegal; decide⟩

theorem witness_FormatEntries : Ready world [7, 1, 2] ∧ (world.readS 2).toNat % 32 < 16
    ∧ (let s := world.setHart world.cur { hart with sregs := [(1, 16), (2, 0x8C2E0FE000000000), (3, 31), (4, 0x8000000000000000)] }
       16 ≤ (s.readS 1).toNat % 32 ∧ checkRecord (s.readS 2) = 0 ∧ 16 ≤ (s.readS 3).toNat % 32 ∧ s.readS 7 = 0
       ∧ s.readS 4 ≠ 0 ∧ checkRecord (s.readS 4) ≠ 0) := ⟨rfl, by decide, by decide, by decide, by decide, by decide, by decide, by decide⟩

theorem witness_ScalarFloats : Ready world [7, 1, 2] ∧ FloatRecord (sfRecord world) ∧ FloatRecord (dfRecord world)
    ∧ rmOf (modeOf world) ≠ 5
    ∧ (let s := withSlot { slot with pmode := some 0x84 }  -- SF and DF fp64
       FloatRecord (sfRecord s) ∧ FloatRecord (dfRecord s)) :=
  ⟨rfl, .inl (by decide), .inl (by decide), by decide, .inr (by decide), .inr (by decide)⟩

theorem witness_ScalarFloatFaults : Ready world [7, 1, 2] ∧ rmOf 0x14A5 = 5
    ∧ (let s := withSlot { slot with pmode := some 0x90 }
       modeOf s = 0x90 ∧ rmOf (modeOf s) ≠ 5 ∧ sfRecord s = 0)
    ∧ (let s := withSlot { slot with pmode := some 0xA0 }
       rmOf (modeOf s) ≠ 5 ∧ sfRecord s = 0x983E000000000000) :=
  ⟨rfl, by decide, by decide, by decide⟩

theorem witness_ScalarRelations : Ready world [7, 1, 2] ∧ FloatRecord (sfRecord world) := ⟨rfl, .inl (by decide)⟩

theorem witness_ScalarConversion : Ready world [7, 1] ∧ (sfRecord world).getLsbD 63 = true ∧ (fmtOf (sfRecord world)).kind ≤ 2
    ∧ (let s := withSlot { slot with pmode := some 0x05 }  -- fp32 to int32
       (dfRecord s).getLsbD 63 = true ∧ (fmtOf (dfRecord s)).kind = 1 ∧ (fmtOf (dfRecord s)).sign = true) :=
  ⟨rfl, by decide, by decide, by decide⟩

theorem witness_ExactArithmetic : Exact (.fin false 3 0 false) ∧ Exact (.fin true 1 (-2) false)
    ∧ number (.fin true 1 (-2) false) ≠ 0 ∧ 0 < number (.fin false 3 0 false) :=
  ⟨⟨_, _, _, rfl⟩, ⟨_, _, _, rfl⟩, by norm_num [number], by norm_num [number]⟩

/-- fp16, and its values. -/
def fp16 : Fmt := fmtOf 0x8A9401E000000000
def valueOf (c : Nat) : ℚ := number (readFloat { fp16 with policy := 2 } c)

theorem witness_Rounding : checkRecord 0x8A9401E000000000 = 0 ∧ fp16.kind = 0 ∧ 1 ≤ fp16.fw ∧ fp16.w ≤ 16 ∧ fp16.sign = true
    ∧ 0x3C00 ≤ maxCode fp16 ∧ 2 ^ fp16.fw ≤ 0x3C00
    -- exact; between two codes; below, near and just under the smallest normal; above the largest value by less and more
    -- than half a step
    ∧ valueOf 0x3C00 = 1 ∧ valueOf 0x3C00 < 2049 / 2048 ∧ (2049 / 2048 : ℚ) < valueOf 0x3C01
    ∧ (1 / 2 ^ 30 : ℚ) ≤ valueOf 0x400 - 1 / 2 ^ 25 ∧ valueOf 0x400 - 1 / 2 ^ 25 < (1 - 1 / 2 ^ 12) / 2 ^ 14
    ∧ ((1 - 1 / 2 ^ 12) / 2 ^ 14 : ℚ) < valueOf 0x400
    ∧ valueOf (maxCode fp16) < 65505 ∧ (65505 : ℚ) < valueOf (maxCode fp16) + 32
    ∧ chosen 0 false (maxCode fp16) 1 31 = maxCode fp16 ∧ valueOf (maxCode fp16) + 32 ≤ 131072
    ∧ chosen 0 false (maxCode fp16) 17 15 = maxCode fp16 + 1 := by decide +kernel

/-- The smallest subnormal and the largest value bound what has two neighbours. -/
theorem witness_NearestRounding : (2 : ℚ) ^ (1 - fp16.bias - (fp16.fw : ℤ)) ≤ 1 / 2 ^ 24
    ∧ (1 / 2 ^ 25 : ℚ) < 2 ^ (1 - fp16.bias - (fp16.fw : ℤ)) ∧ valueOf (maxCode fp16) < 65505 := by decide +kernel

theorem witness_ElementFunctions : number (.fin true 3 0 false) = ((-3 : ℤ) : ℚ) ∧ |number (.fin true 3 0 false)| < 2 ^ 15
    ∧ |number (.fin false 3 (-1) false)| < 2 ^ 15 ∧ (2 : ℚ) ^ 15 ≤ |number (.fin true 1 15 false)|
    ∧ number (.fin false 4 (-3) false) = (2 : ℚ) ^ (-1 : ℤ) ∧ 0 < number (.fin false 3 0 false) := by
  norm_num [number]

/-- One and a half is no integer, and no power of two. -/
theorem witness_ElementFunctions_inexact : (∀ i : ℤ, number (.fin false 3 (-1) false) ≠ i)
    ∧ ∀ i : ℤ, number (.fin false 3 (-1) false) ≠ (2 : ℚ) ^ i := by
  have h : number (.fin false 3 (-1) false) = 3 / 2 := by norm_num [number]
  constructor <;> intro i hi <;> rw [h] at hi
  · have : (3 : ℚ) = 2 * (i : ℚ) := by linarith
    have : (3 : ℤ) = 2 * i := by exact_mod_cast this
    omega
  · rcases lt_trichotomy i 0 with hn | rfl | hp
    · have : (2 : ℚ) ^ i ≤ (2 : ℚ) ^ (0 : ℤ) := zpow_le_zpow_right₀ (by norm_num) hn.le
      rw [zpow_zero] at this; linarith
    · norm_num at hi
    · have : (2 : ℚ) ^ (1 : ℤ) ≤ (2 : ℚ) ^ i := zpow_le_zpow_right₀ (by norm_num) hp
      rw [zpow_one] at this; linarith

/-! Special registers. -/

theorem witness_IllegalRegisters : Ready coreWorld [1] ∧ Ready world [1] ∧ ¬ Assigned 0x8 ∧ ¬ Assigned 0xFFFF
    ∧ isSys coreWorld.cur = true ∧ 0x18A ∈ readOnly ∧ isSys world.cur = false ∧ 0x1FF < 0x200 ∧ 0x48 ≤ 0x5A :=
  ⟨rfl, rfl, by unfold Assigned; decide, by unfold Assigned; decide, rfl, by decide, rfl, by decide, by decide⟩

theorem witness_RegisterReads : Ready world [7] ∧ world.logOf world.cur = none ∧ Ready coreWorld [7]
    ∧ coreWorld.logOf coreWorld.cur = none := ⟨rfl, rfl, rfl, rfl⟩

theorem witness_RegisterWrites : Ready coreWorld [2] ∧ Holds 0x21 (coreWorld.readS 2) ∧ Holds 0x101 ((2 ^ 48 + 21 : Nat) : Dword)
    ∧ Holds 0x102 0x1000 ∧ Holds 0x182 0x100000 ∧ Holds 0x100 63 ∧ Holds 0x185 0x3FF ∧ Holds 0x188 71 ∧ Holds 0x18B 600
    ∧ Holds 0x18B 2400 ∧ Holds 0x18B 0 ∧ Holds 0x194 0x7FFF := by
  refine ⟨rfl, ?_, ?_, ?_, ?_, ?_, ?_, ?_, ?_, ?_, ?_, ?_⟩ <;> (unfold Holds; decide)

/-- A control core with a load in flight, whose translation was context 0's. -/
def loadingCore : State :=
  { coreWorld with ops := [(7, { agent := .sys 0 8 0, pip := some 2, pc := 0xFFC, word := 0, kind := .scalar 1 9, entries := 1 })] }

theorem witness_RegisterWrites_release : 0x51 ∈ releasing ∧ Ready loadingCore [2] ∧ Holds 0x51 (loadingCore.readS 2)
    ∧ loadingCore.accessInFlight = true ∧ coreWorld.accessInFlight = false ∧ 0x21 ∉ releasing := by
  refine ⟨by decide, rfl, ?_, rfl, rfl, by decide⟩
  unfold Holds; decide

theorem witness_TranslationFlush : (0x4000007F : Dword).toNat / 2 ^ 57 = 0 ∧ (0x1000007F : Dword).toNat / 2 ^ 7 % 2 ^ 9 = 0
    ∧ coreWorld.translatedWaits 0 1 = false
    -- an atomic of the group waits for its rank, its homes translated
    ∧ (let r : LaneReq := { lane := 0, va := 0x4000, n := 4, reg := 1, key := 0x4000, addr := 0x4000, order := some 3 }
       let o : Op := { agent := .slot 5 0, pip := none, pc := 0xFFC, word := 0, kind := .atomic .add 0 0 false, reqs := [r] }
       ({ coreWorld with ops := [(7, o)] } : State).translatedWaits 0 1 = true) := by decide

/-- Unit 3 of core 0's slice holds nothing; the service core has selected it, and window 2 of core 0's board. -/
def selecting : State :=
  { coreWorld with
    cores := [(coreKey 0 8 0, { hart := { hart with ctx := 0 }, slot := { slot with own := 1, mask := 1 }, srs := [(0x190, 0xC00), (0x192, 0x800)] })] }

theorem witness_SelectedWrites : (0x8001 : Dword).toNat / 2 ^ 16 = 0 ∧ (0x8001 : Dword).toNat / 2 ^ 12 % 8 = 0
    ∧ ((2 ^ 40 : Nat) : Dword).toNat ≤ 2 ^ 40 ∧ Holds 0x41 0x2000 := by
  unfold Holds; decide

theorem witness_UnitAndBoardTags : ((0xC00 : Dword)).toNat / 2 ^ 20 % 2 ^ 10 = 0 ∧ selecting.unitKey 0 0 0 3 = some 3
    ∧ selecting.unitHeld 0 0 0 3 = false ∧ (∀ y, SMap.find selecting.units 3 = some y → y.ctx = 63)
    ∧ SMap.find (selecting.board (coreKey 0 0 0)).owners 2 = none
    ∧ (let s := ({ selecting with boards := [(coreKey 0 0 0, { owners := [(2, 1)] })] } : State).setCtx 0 1 { suspended := true }
       SMap.find (s.board (coreKey 0 0 0)).owners 2 = some 1 ∧ (s.ctx 0 1).suspended = true) :=
  ⟨by decide, by decide +kernel, by decide +kernel, (by intro y h; cases h), rfl, by decide, by decide⟩

theorem witness_SevSends : SMap.find coreWorld.cores (coreKey 0 8 0) ≠ none
    ∧ (let s := { coreWorld with cores := [(coreKey 0 7 121, { waiting := true })] }
       (SMap.find s.cores (coreKey 0 ((31 - 16) / 2) (120 + (31 - 16) % 2))).isSome = true) := by decide

/-- A message of 3 bytes at 0x5000 of the service context. -/
def messageWorld : State := { coreWorld with mem := [(0x5000, 0x52), (0x5018, 3), (0x5040, 7), (0x5042, 9)] }

theorem witness_MessagesSent : ∃ head body, messageWorld.readBytes (serviceWho 0) 0x5000 0x5000 64 = .ok head
    ∧ messageWorld.readBytes (serviceWho 0) 0x5000 (0x5000 + 64) (natOfBytes ((head.drop 24).take 8)) = .ok body ∧ body = [7, 0, 9] := by
  refine ⟨_, _, rfl, rfl, by decide +kernel⟩

/-! Vector instructions: lanes 0 to 3 act; entry 0 is int32, 2 int64, 4 fp64, 5 fp32, 6 fp16, 8 and 9 8-bit floats, 10
an 8-bit sign and magnitude, 12 a block format. -/

/-- The next instruction runs under this SF and DF. -/
def under (sf df : Nat) (s : State := world) : State :=
  s.setSlot s.cur { s.slot s.cur with pmode := some (BitVec.ofNat 24 (sf + 32 * df)) }

/-- A check of the operands answers without fault. -/
def passes {α : Type} (x : Except Exc α) : Prop := ∃ a, x = .ok a

theorem witness_VectorResultStands : world.cur = .slot 5 (0 : Fin 2).val ∧ (4 : BitVec 8).toNat < 224 ∧ (223 : BitVec 8).toNat < 224 := by decide

theorem witness_IntegerRows : (∃ F, (under 0 0).sf [1, 2] = .ok F ∧ (under 0 0).df [1, 2] = .ok F ∧ F.kind = 1 ∧ F.w = 32
      ∧ Vready (under 0 0) 4 [1, 2] F.c ∧ Vready (under 0 0) 4 [1, 2, 4] F.c)
    ∧ (∃ F, (under 2 2).sf [1, 2] = .ok F ∧ (under 2 2).df [1, 2] = .ok F ∧ F.c = 64 ∧ Vready (under 2 2) 4 [2, 6] F.c)
    ∧ (∃ F, (under 10 10).sf [1, 2] = .ok F ∧ (under 10 10).df [1, 2] = .ok F ∧ F.kind = 2 ∧ Vready (under 10 10) 4 [1, 2] F.c) :=
  ⟨⟨_, rfl, rfl, rfl, by decide, rfl, rfl⟩, ⟨_, rfl, rfl, by decide, rfl⟩, _, rfl, rfl, rfl, rfl⟩

theorem witness_IntegerWriting : checkRecord 0x903E000000000000 = 0 ∧ (fmtOf 0x903E000000000000).kind = 1
    ∧ checkRecord 0xA806001000000000 = 0 ∧ (fmtOf 0xA806001000000000).kind = 2
    ∧ checkRecord 0x987E000000000000 = 0 ∧ (fmtOf 0x987E000000000000).kind = 1 := by decide

theorem witness_VectorBits : (∃ F, world.sf [0, 1, 2] = .ok F ∧ Vready world 4 [1, 2] F.c ∧ Vready world 4 [1] F.c)
    ∧ ∃ F, (under 0 0).sf [1] = .ok F ∧ Vready (under 0 0) 4 [1, 2] F.c :=
  ⟨⟨_, rfl, rfl, rfl⟩, _, rfl, rfl⟩

theorem witness_FloatRows : (∃ F, world.sf [0] = .ok F ∧ world.df [0] = .ok F ∧ rmOf (modeOf world) ≠ 5
      ∧ Vready world 4 [1, 2] F.c ∧ Vready world 4 [1, 2, 4] F.c ∧ Vready world 4 [1] F.c)
    ∧ (∃ F G, (under 6 7).sf [0] = .ok F ∧ (under 6 7).df [0] = .ok G ∧ F ≠ G ∧ F.c = G.c ∧ Vready (under 6 7) 4 [1, 2] F.c)
    ∧ ∃ F, (under 4 4).sf [0] = .ok F ∧ (under 4 4).df [0] = .ok F ∧ Vready (under 4 4) 4 [2, 6] F.c :=
  ⟨⟨_, rfl, rfl, by decide, rfl, rfl, rfl⟩, ⟨_, _, rfl, rfl, by decide, by decide, rfl⟩, _, rfl, rfl, rfl⟩

theorem witness_VectorDotProducts : ∃ F G, (under 6 5).sf [0] = .ok F ∧ (under 6 5).df [0] = .ok G ∧ F.c ≤ 16 ∧ G.c = 2 * F.c
    ∧ rmOf (modeOf (under 6 5)) ≠ 5
    ∧ (under 6 5).vcheck [(1, F.c), (2, F.c), (4, G.c)] (some (4, G.c)) [] (under 6 5).acting = .ok () :=
  ⟨_, _, rfl, rfl, by decide, by decide, by decide, rfl⟩

theorem witness_VectorCompares : ∃ F, world.sf [0, 1, 2] = .ok F
    ∧ world.vcheck [(1, F.c), (2, F.c)] none [7] world.acting = .ok () := ⟨_, rfl, rfl⟩

theorem witness_MovesAndSelects : (∃ F, world.sf [0, 1, 2] = .ok F ∧ Vready world 4 [4, 1, 2] F.c ∧ Vready world 4 [1] F.c
      ∧ world.vcheck [(1, F.c)] (some (4, F.c)) [2] (1#64 <<< 5) = .ok () ∧ world.vcheck [(1, F.c)] none [7, 2] (1#64 <<< 5) = .ok ()
      ∧ world.vcheck [] (some (4, F.c)) [1, 2] 0 = .ok ())
    ∧ (∃ G, world.df [0, 1, 2] = .ok G ∧ world.vcheck [] (some (4, G.c)) [] 0 = .ok () ∧ 16 < G.c)
    ∧ ∃ F G, (under 6 6).sf [0, 1, 2] = .ok F ∧ (under 6 6).df [0, 1, 2] = .ok G ∧ (under 6 6).vcheck [] (some (4, G.c)) [] 0 = .ok ()
      ∧ G.c ≤ 16 :=
  ⟨⟨_, rfl, rfl, rfl, rfl, rfl, rfl⟩, ⟨_, rfl, rfl, by decide⟩, _, _, rfl, rfl, rfl, by decide⟩

theorem witness_PlainConversions :
    (∃ F G, (under 5 0).sf [0, 1, 2] = .ok F ∧ (under 5 0).df [0, 1, 2] = .ok G ∧ F.e = G.e
      ∧ (under 5 0).vcheck [(1, F.c)] (some (4, G.c)) [] (under 5 0).acting = .ok ())
    ∧ (∃ F G, (under 8 5).sf [0, 1, 2] = .ok F ∧ (under 8 5).df [0, 1, 2] = .ok G ∧ G.e < F.e ∧ (3 : BitVec 8).toNat < F.e / G.e
      ∧ (under 8 5).vcheck [(1, F.c)] (some (4, G.c)) [] (under 8 5).acting = .ok ())
    ∧ (∃ F G, (under 5 8).sf [0, 1, 2] = .ok F ∧ (under 5 8).df [0, 1, 2] = .ok G ∧ F.e < G.e ∧ (3 : BitVec 8).toNat < G.e / F.e
      ∧ (under 5 8).vcheck [(1, F.c), (4, G.c)] (some (4, G.c)) [] (under 5 8).acting = .ok ()) :=
  ⟨⟨_, _, rfl, rfl, by decide, rfl⟩, ⟨_, _, rfl, rfl, by decide, by decide, rfl⟩, _, _, rfl, rfl, by decide, by decide, rfl⟩

theorem witness_VectorPacking :
    (∃ F G, (under 0 15).sf [0, 1, 2] = .ok F ∧ (under 0 15).df [0, 1, 2] = .ok G ∧ G.c ≤ 16 ∧ F.c = 2 * G.c
      ∧ (under 0 15).vcheck [(1, F.c), (2, F.c)] (some (4, G.c)) [] (under 0 15).acting = .ok ())
    ∧ (∃ F G, (under 15 0).sf [0, 1, 2] = .ok F ∧ (under 15 0).df [0, 1, 2] = .ok G ∧ F.c ≤ 16 ∧ G.c = 2 * F.c
      ∧ F.kind = 1 ∧ F.sign = true ∧ (under 15 0).vcheck [(1, F.c)] (some (4, G.c)) [] (under 15 0).acting = .ok ()) :=
  ⟨⟨_, _, rfl, rfl, by decide, by decide, rfl⟩, _, _, rfl, rfl, by decide, by decide, rfl, rfl, rfl⟩

theorem witness_VectorBlockConversions :
    (∃ F G, (under 5 12).sf [0, 1, 2] = .ok F ∧ (under 5 12).df [3] = .ok G ∧ F.c = 32 ∧ (under 5 12).acting ≠ 0
      ∧ (under 5 12).vcheck [(1, 32)] (some (4, 32)) [] (under 5 12).acting = .ok ())
    ∧ (∃ F G, (under 14 5).sf [3] = .ok F ∧ (under 14 5).df [0, 1, 2] = .ok G ∧ G.c = 32
      ∧ (under 14 5).vcheck [(1, 32)] (some (4, G.c)) [] (blockWords F (under 14 5).acting) = .ok ())
    ∧ (∃ F G, (under 14 4).sf [3] = .ok F ∧ (under 14 4).df [0, 1, 2] = .ok G ∧ dfRecord (under 14 4) = 0x8DE87FE000000000
      ∧ (under 14 4).vcheck [(1, 32)] (some (4, G.c)) [] (blockWords F (under 14 4).acting) = .ok ())
    ∧ (∃ F G, (under 14 6).sf [3] = .ok F ∧ (under 14 6).df [0, 1, 2] = .ok G
      ∧ ¬ (G.c = 32 ∨ dfRecord (under 14 6) = 0x8DE87FE000000000 ∨ dfRecord (under 14 6) = 0x987E000000000000)) :=
  ⟨⟨_, _, rfl, rfl, by decide, by decide, rfl⟩, ⟨_, _, rfl, rfl, by decide, rfl⟩,
    ⟨_, _, rfl, rfl, by decide, rfl⟩, _, _, rfl, rfl, by decide⟩

theorem witness_CrossLaneMoves : (∃ F, world.sf [0, 1, 2, 3] = .ok F ∧ unitBits F = 32) ∧ Unpoisoned world ∧ (63 : BitVec 8).toNat < 64
    ∧ world.vcheck [(1, 32), (2, 32)] (some (4, 32)) [] 0 = .ok () ∧ world.vcheck [(1, 32)] (some (4, 32)) [] 0 = .ok () :=
  ⟨⟨_, rfl, by decide⟩, rfl, by decide, rfl, rfl⟩

theorem witness_Ballots : ∃ F, world.sf [0, 1, 2, 3] = .ok F ∧ world.vcheck [(3, unitBits F)] none [7] world.acting = .ok () :=
  ⟨_, rfl, rfl⟩

theorem witness_Scans : (∃ F, world.sf [0, 1, 2] = .ok F ∧ world.df [0, 1, 2] = .ok F ∧ F.kind = 0 ∧ rmOf (modeOf world) ≠ 5
      ∧ Vready world 4 [1] F.c) ∧ world.acting ≠ 0
    ∧ (∃ F, (under 0 0).sf [0, 1, 2] = .ok F ∧ (under 0 0).df [0, 1, 2] = .ok F ∧ Vready (under 0 0) 4 [1] F.c)
    ∧ (0 : BitVec 8).toNat = 0 ∧ (5 : BitVec 8).toNat = 5 ∧ (13 : BitVec 8).toNat = 8 + 5 :=
  ⟨⟨_, rfl, rfl, rfl, by decide, rfl⟩, by decide, ⟨_, rfl, rfl, rfl⟩, by decide, by decide, by decide⟩

/-- Two integer formats, with two and more lanes. -/
theorem witness_ScanSteps : checkRecord 0x983E000000000000 = 0 ∧ (fmtOf 0x983E000000000000).kind = 1
    ∧ checkRecord 0x981E000000000000 = 0 ∧ (fmtOf 0x981E000000000000).kind = 1 ∧ checkRecord 0xA80E001000000000 = 0
    ∧ (fmtOf 0xA80E001000000000).kind = 2 ∧ 0 + 1 < ([3, 4] : List Nat).length := by decide +kernel

theorem witness_Rankings : (∃ F, world.sf [0, 1, 2] = .ok F ∧ F.c = 32) ∧ (222 : BitVec 8).toNat ≤ 222
    ∧ world.vcheck [(1, 32)] (some (4, 32)) [] world.acting = .ok () ∧ world.needReg 5 = .ok () ∧ world.need [] [5] = .ok ()
    ∧ world.acting ≠ 0 ∧ 1 ≤ (1 : BitVec 8).toNat ∧ (16 : BitVec 8).toNat ≤ 16 :=
  ⟨⟨_, rfl, by decide⟩, by decide, rfl, rfl, rfl, by decide, by decide, by decide⟩

/-- The identity pattern, and a table of it. -/
def identityRows : List Nat := (List.range 11).map (2 ^ ·)
def patterned : State :=
  { world with
    patterns := [(partKey 0 0 0 0 * 16 + 15, { rows := identityRows, sig := 0x8001, ctx := 1 })]
    mem := Mem.write [] 0x4000 32 ((List.range 11).map fun r => 2 ^ (17 * r)).sum }

theorem witness_Patterns : patterned.need [7, 6, 5] = .ok ()
    ∧ (∃ l u, patterned.scalarAccess (patterned.readS 6) 32 32 .read false = .ok (l, u) ∧ u.poisoned l.key 32 = false
      ∧ u.bytesAt l.key 32 / 2 ^ 192 = 0
      ∧ gfInvertible 0 11 ((List.range 11).map fun r => u.bytesAt l.key 32 / 2 ^ (16 * r) % 2 ^ 16) = true)
    ∧ (∃ l u, (patterned.scalarAccess 0x4100 32 32 .read false) = .ok (l, u) ∧ u.poisoned l.key 32 = false
      ∧ u.bytesAt l.key 32 / 2 ^ 192 = 0 ∧ gfInvertible 0 11 ((List.range 11).map fun r => u.bytesAt l.key 32 / 2 ^ (16 * r) % 2 ^ 16) = false)
    ∧ (15 : BitVec 8).toNat < 16 ∧ (SMap.find patterned.patterns (partKey 0 0 0 0 * 16 + 15)).isSome = true
    ∧ (patterned.group 5).regs.sliced = 0 ∧ Unpoisoned patterned
    ∧ patterned.needRegs ((List.range 8).map (8 + ·) ++ (List.range 8).map (16 + ·)) = .ok ()
    ∧ patterned.need [] ((List.range 8).map (8 + ·) ++ (List.range 8).map (16 + ·)) = .ok () ∧ identityRows.length = 11 :=
  ⟨rfl, ⟨_, _, rfl, rfl, by decide +kernel, by decide +kernel⟩, ⟨_, _, rfl, rfl, by decide +kernel, by decide +kernel⟩,
    by decide, rfl, rfl, rfl, rfl, rfl, rfl⟩

/-! Regrouping. -/

/-- Slice places 0 to 4095 of core 0 belong to context 1. -/
def sliced : State := { world with units := (List.range 4).map fun i => (i, { ctx := 1 }) }

/-- Dwords at an address of the local alias. -/
def putWords (s : State) (at_ : Nat) (ws : List Nat) : State :=
  { s with mem := ws.zipIdx.foldl (fun m x => Mem.write m (sliceBase + at_ + 8 * x.2) 8 x.1) s.mem }

/-- A set of two buckets: key 0 with one lane staged, key 1 empty; continuation queue 2; v1 carried. -/
def dealing : State :=
  let s := putWords sliced 0x200 [0x1000, 1, 0, 1 + 1 * 2 ^ 8 + 2 * 2 ^ 16, 0x00E0000000000240, 9]
  let s := putWords s 0x240 [1, 0x00E0000000000300, 0, 0x00E0000000000600]
  (s.setCtx 0 1 { s.ctx 0 1 with queues := [(66, {})] }).setHart s.cur { hart with sregs := [(1, 0x00E0000000000200), (60, 0x00E0000000000400)] }

theorem witness_RegroupInstructions_deal : dealing.vcheck [(3, 32)] none [7, 1] dealing.acting = .ok ()
    ∧ (dealing.slot dealing.cur).deal = none
    ∧ (okAnd (dealing.regroupSet (dealing.readS 1)) fun x =>
        answersOk (x.2.2.needRegs x.1.carried) && answersOk (x.2.2.need [] x.1.carried)
        && answersOk (x.2.2.needClean x.1.carried dealing.acting)) = true
    ∧ (okAnd (dealing.dealRead 7 3 1) fun y =>
        (y.1.active &&& ~~~ y.1.left_) == 0xB && answersOk (y.2.dealAll y.1 0 [0, 1, 3]) && answersOk (y.2.dealLane y.1 0)
        -- interrupted, it goes on
        && ((y.2.setSlot y.2.cur { y.2.slot y.2.cur with deal := some y.1 }).slot y.2.cur).deal == some y.1) = true :=
  ⟨rfl, rfl, by decide +kernel, by decide +kernel⟩

theorem witness_RegroupInstructions_close : dealing.need [7, 1] = .ok () ∧ (dealing.slot dealing.cur).closed = (0, 0)
    ∧ (okAnd (dealing.closeRead 7 1) fun y =>
        okAnd (y.2.closeFrom y.1 0 0 2) fun z => z.1 == 1) = true :=
  ⟨rfl, rfl, by decide +kernel⟩

/-- Bucket q of a set can be dealt to, and nothing overlaps. -/
def openOk (s : State) (x : Deal) (q : Nat) (p : Loc → List Nat → Bool) : Bool :=
  let ea := x.set.buckets + BitVec.ofNat 64 (16 * q)
  match s.xlate s.thread ea .rmw with
  | (.at e, u) =>
    decide (u = s) && ea.toNat % 16 == 0 && s.inDie ea && !s.checkedAccess s.thread e && !s.poisoned e.key 16
      && s.bytesAt e.key 8 / 2 ^ 7 % 2 != 1 && decide (e.key + 16 ≤ x.home ∨ x.home + 64 ≤ e.key)
      && okAnd (s.stageArea x.set (BitVec.ofNat 64 (s.bytesAt (e.key + 8) 8))) fun y =>
          decide (y.2 = s) && decide (y.1.Pairwise fun a b => a + 256 ≤ b)
          && y.1.all (fun b => decide (e.key + 16 ≤ b) && decide (x.home + 64 ≤ b)) && p e y.1
  | _ => false

/-- Bucket 0 with these bits in its entry's first byte. -/
def counting (n : Nat) : State := putWords dealing 0x240 [n, 0x00E0000000000300]

/-- A bucket with one lane; with 63; a BUSY one; an empty one. -/
theorem witness_LaneDealt : (counting 63).race.active = false ∧ (counting 63).logOf (counting 63).cur = none
    ∧ (okAnd ((counting 1).dealRead 7 3 1) fun y => y.1.keys.getD 0 0 == 0 && y.1.words.length == y.1.set.ncarry
        && openOk (counting 1) y.1 0 fun e _ => countAt (counting 1) e == 1) = true
    ∧ (okAnd ((counting 63).dealRead 7 3 1) fun y => openOk (counting 63) y.1 0 fun e _ => countAt (counting 63) e == 63) = true
    ∧ (okAnd ((counting 0x80).dealRead 7 3 1) fun y =>
        match (counting 0x80).dealLane y.1 0 with | .error (.wait (.bucket _) _) => true | _ => false) = true := by
  decide +kernel

theorem witness_BucketClosed :
    (okAnd (dealing.closeRead 7 1) fun y => openOk dealing y.1 0 (fun e _ => countAt dealing e != 0)
        && openOk dealing y.1 1 fun e _ => countAt dealing e == 0) = true
    ∧ (okAnd ((counting 0x80).closeRead 7 1) fun y =>
        match (counting 0x80).closeOne y.1 0 with | .error (.wait (.bucket _) _) => true | _ => false) = true := by
  decide +kernel

/-- Lanes 0, 1 and 3 go to bucket 0; one lane is left over. -/
theorem witness_DealCompletes : (dealing.slot dealing.cur).deal = none
    ∧ (okAnd (dealing.dealRead 7 3 1) fun y => decide (y.2 = dealing) && y.1.keys.take 4 == [0, 0, 7, 0] && (y.1.left_ == 4)
        && openOk dealing y.1 0 fun e _ => decide (countAt dealing e + 3 ≤ 64)) = true
    ∧ (dealing.slot dealing.cur).own &&& ~~~ 0xB ≠ 0 := by decide +kernel

/-- Both buckets can be closed, and lie apart. -/
theorem witness_CloseCompletes : (dealing.slot dealing.cur).closed = (0, 0)
    ∧ (okAnd (dealing.closeRead 7 1) fun y => decide (y.2 = dealing) && 2 ^ y.1.set.lgb == 2
        && openOk dealing y.1 0 fun e _ => openOk dealing y.1 1 fun f _ => decide (e.key + 16 ≤ f.key)) = true := by decide +kernel

/-! Vector memory: s6 = 0x4000, v2 holds four times the lane number. -/

/-- The accesses of an operation perform, of sound data. -/
def Sound (s : State) (o : Op) (k : AccKind) (loc : Bool) (reqs : List LaneReq) : Prop :=
  ∃ here o1 t, Performs s o k loc reqs here o1 t ∧ (∀ x ∈ here, t.poisoned x.2.key x.1.n = false) ∧ here.length = reqs.length

def loadOf (s : State) (data : List Nat) : Op := { s.opHere s.setA .load with pendV := data }

def vldReqs (s : State) (n d : Nat) : List LaneReq :=
  s.requests (fun l => s.readS 6 + (s.vsrc 2 l).setWidth 64) n [(0, d)]

theorem vld_form : VectorForm world 4 2 6 (.vld 4 2 6) (.vst 4 2 6) [4] [2] [6] false (vldReqs world 4 4) :=
  .inl ⟨_, rfl, by decide, .inl ⟨rfl, rfl, by decide, rfl, rfl, rfl, rfl, rfl⟩⟩

theorem witness_VectorLoads : VectorForm world 4 2 6 (.vld 4 2 6) (.vst 4 2 6) [4] [2] [6] false (vldReqs world 4 4)
    ∧ world.memCheck [2] [4] false [6] = .ok () ∧ Sound world (loadOf world [4]) .read false (vldReqs world 4 4) ∧ world.setA = none :=
  ⟨vld_form, rfl, ⟨_, _, _, ⟨rfl, by decide +kernel, _, rfl, rfl⟩, by decide +kernel, by decide +kernel⟩, rfl⟩

theorem witness_VectorLoads_counted : VectorForm (world 3) 4 2 6 (.vld 4 2 6) (.vst 4 2 6) [4] [2] [6] false (vldReqs (world 3) 4 4)
    ∧ (world 3).memCheck [2] [4] false [6] = .ok () ∧ Sound (world 3) (loadOf (world 3) [4]) .read false (vldReqs (world 3) 4 4)
    ∧ (world 3).setA = some 3 :=
  ⟨.inl ⟨_, rfl, by decide, .inl ⟨rfl, rfl, by decide, rfl, rfl, rfl, rfl, rfl⟩⟩, rfl,
    ⟨_, _, _, ⟨rfl, by decide +kernel, _, rfl, rfl⟩, by decide +kernel, by decide +kernel⟩, rfl⟩

/-- `vlds` of 64-bit elements from s6 on, 16 bytes apart (s2 = 16), `vld2`, and `vldq`: v6 holds 64 times the lane. -/
def strided : State := (under 2 2).setHart world.cur { hart with sregs := [(2, 16), (6, 0x4000)] }
theorem witness_VectorForms :
    VectorForm strided 4 6 2 (.vlds 4 6 2) (.vsts 4 6 2) [4, 5] [] [6, 2] false
      (strided.requests (fun l => baseValue strided 6 + BitVec.ofNat 64 l * strided.readS 2) 8 [(0, 4)])
    ∧ strided.memCheck [] [4, 5] false [6, 2] = .ok ()
    ∧ Sound strided (loadOf strided [4, 5]) .read false
        (strided.requests (fun l => baseValue strided 6 + BitVec.ofNat 64 l * strided.readS 2) 8 [(0, 4)])
    ∧ VectorForm (under 15 15) 8 2 6 (.vld2 8 2 6) (.vst2 8 2 6) [8, 9] [2] [6] false
      ((under 15 15).requests (fun l => (under 15 15).readS 6 + ((under 15 15).vsrc 2 l).setWidth 64) 2 [(0, 8), (2, 9)])
    ∧ (under 15 15).memCheck [2] [8, 9] false [6] = .ok ()
    ∧ VectorForm world 8 6 6 (.vldq 8 6 6) (.vstq 8 6 6) [8, 9, 10, 11] [6] [6] false
      (world.requests (fun l => world.readS 6 + (world.vsrc 6 l).setWidth 64) 16 [(0, 8)])
    ∧ world.memCheck [6] [8, 9, 10, 11] true [6] = .ok () :=
  ⟨.inl ⟨_, rfl, by decide, .inr (.inl ⟨rfl, rfl, by decide, rfl, rfl, rfl, rfl, rfl⟩)⟩, rfl,
    ⟨_, _, _, ⟨rfl, by decide +kernel, _, rfl, rfl⟩, by decide +kernel, by decide +kernel⟩,
    .inl ⟨_, rfl, by decide, .inr (.inr ⟨rfl, rfl, by decide, by decide, rfl, rfl, rfl, rfl, rfl⟩)⟩, rfl,
    .inr ⟨rfl, rfl, by decide, by decide, rfl, rfl, rfl, rfl, rfl⟩, rfl⟩

theorem witness_VectorStores : VectorForm world 4 2 6 (.vld 4 2 6) (.vst 4 2 6) [4] [2] [6] false (vldReqs world 4 4)
    ∧ world.memCheck [2] [4] true [6] = .ok ()
    ∧ (∃ here o t, Performs world (world.opHere world.setA .store) .write false (vldReqs world 4 4) here o t)
    ∧ (∃ here o t, Performs (world 3) ((world 3).opHere (world 3).setA .store) .write false (vldReqs (world 3) 4 4) here o t) :=
  ⟨vld_form, rfl, ⟨_, _, _, rfl, by decide +kernel, _, rfl, rfl⟩, _, _, _, rfl, by decide +kernel, _, rfl, rfl⟩

/-- Lane 1 is misaligned where v1 indexes; lane 1 lies beyond the address space where s6 is near its end. -/
def edge : State := world.setHart world.cur { hart with sregs := [(6, 0x1FFFFFFFFFFFFFC)] }
theorem witness_VectorAccessFaults :
    (let reqs := world.requests (fun l => world.readS 6 + (world.vsrc 1 l).setWidth 64) 4 [(0, 4)]
     VectorForm world 4 1 6 (.vld 4 1 6) (.vst 4 1 6) [4] [1] [6] false reqs ∧ world.memCheck [1] [4] false [6] = .ok ()
     ∧ ∃ r before after, reqs = before ++ r :: after ∧ (∀ x ∈ before, x.va.toNat % x.n = 0) ∧ r.va.toNat % r.n ≠ 0)
    ∧ (VectorForm edge 4 2 6 (.vld 4 2 6) (.vst 4 2 6) [4] [2] [6] false (vldReqs edge 4 4) ∧ edge.memCheck [2] [4] true [6] = .ok ()
      ∧ ∃ r before after, (∀ x ∈ vldReqs edge 4 4, x.va.toNat % x.n = 0) ∧ vldReqs edge 4 4 = before ++ r :: after
        ∧ (∀ x ∈ before, x.va.toNat < 2 ^ 57 ∧ isAlias x.va = false ∧ isWindow x.va = false) ∧ 2 ^ 57 ≤ r.va.toNat)
    ∧ (VectorForm unmapped 4 2 6 (.vld 4 2 6) (.vst 4 2 6) [4] [2] [6] false (vldReqs unmapped 4 4)
      ∧ unmapped.memCheck [2] [4] false [6] = .ok () ∧ unmapped.laneChecks (loadOf unmapped [4]) .read false (vldReqs unmapped 4 4) = .ok ()
      ∧ ∃ missed t, unmapped.locate (loadOf unmapped [4]) .read (vldReqs unmapped 4 4) = .ok ([], missed, t) ∧ missed.length = 4)
    ∧ (63 : BitVec 8).toNat < 64 ∧ world.memCheck [2] [] false [6] = .ok () :=
  ⟨⟨.inl ⟨_, rfl, by decide, .inl ⟨rfl, rfl, by decide, rfl, rfl, rfl, rfl, rfl⟩⟩, rfl,
      { lane := 1, va := 0x4001, n := 4, reg := 4, data := 0 },
      (world.requests (fun l => world.readS 6 + (world.vsrc 1 l).setWidth 64) 4 [(0, 4)]).take 1,
      (world.requests (fun l => world.readS 6 + (world.vsrc 1 l).setWidth 64) 4 [(0, 4)]).drop 2,
      by decide +kernel, by decide +kernel, by decide +kernel⟩,
    ⟨.inl ⟨_, rfl, by decide, .inl ⟨rfl, rfl, by decide, rfl, rfl, rfl, rfl, rfl⟩⟩, rfl,
      { lane := 1, va := 0x200000000000000, n := 4, reg := 4, data := 0 }, (vldReqs edge 4 4).take 1, (vldReqs edge 4 4).drop 2,
      by decide +kernel, by decide +kernel, by decide +kernel, by decide +kernel⟩,
    ⟨.inl ⟨_, rfl, by decide, .inl ⟨rfl, rfl, by decide, rfl, rfl, rfl, rfl, rfl⟩⟩, rfl, rfl, _, _, rfl, by decide +kernel⟩,
    by decide, rfl⟩

/-! Tensors through a handle: entry 3 of context 1's table, 12 fp32 elements at 0x4000 in order, s3 its handle. -/

def tensorFour : Tensor :=
  { live := true, gen := 1, fmt := 5, entry := 0x8C2E0FE000000000, widths := [4], extents := [12], base := 0x4000, rows := [1, 2, 4, 8] }

def handled (t : Tensor := tensorFour) (seta : Nat := 15) : State :=
  ({ world seta with tensors := [(tensorKey 0 1 3, t)] } : State).setHart world.cur { hart with sregs := [(3, 0x1003)] }

theorem witness_HandleAccesses : (handled).liveTensor 0 1 ((handled).readS 3) = some (tensorKey 0 1 3, tensorFour)
    ∧ (fmtOf tensorFour.entry).kind ≠ 3 ∧ (fmtOf tensorFour.entry).c = 32 ∧ tensorFour.widths.sum = 4 ∧ (handled).need [3] = .ok ()
    ∧ (handled).passRuns tensorFour = false ∧ tensorFour.rate = 0 ∧ (handled).memCheck [1] [4] false [3] = .ok ()
    ∧ (handled).memCheck [1] [4] true [3] = .ok ()
    ∧ (∀ l ∈ lanesList (handled).memLanes, ((handled).vsrc 1 l).toNat < 2 ^ 4 ∧ tensorFour.hole ((handled).vsrc 1 l).toNat = false) :=
  ⟨rfl, by decide, by decide, rfl, rfl, rfl, rfl, rfl, rfl, by decide +kernel⟩

/-- The accesses of its lanes. -/
def handleReqs (s : State) (t : Tensor) : List LaneReq :=
  ((lanesList s.memLanes).filter fun l => !t.hole (s.vsrc 1 l).toNat).map fun l =>
    { lane := l, va := (t.at_ t.cur (s.vsrc 1 l).toNat).va, n := (t.at_ t.cur (s.vsrc 1 l).toNat).n, reg := 4, data := s.elemOf 4 4 l
      bit := (t.at_ t.cur (s.vsrc 1 l).toNat).bit, width := (t.at_ t.cur (s.vsrc 1 l).toNat).width }

/-- The state in which they are performed, and the operation, of a load and of a store. -/
def learned (s : State) : State := s.learnAll ((lanesList s.memLanes).map s.laneWho) (s.message (tensorMsg (tensorKey 0 1 3)))

theorem witness_HandleAccesses_performed :
    Sound (learned (handled)) { (learned (handled)).opHere none .load with pendV := [4], tensor := some (tensorKey 0 1 3) } .read false
      (handleReqs (handled) tensorFour)
    ∧ Sound (learned (handled)) { (learned (handled)).opHere none .store with tensor := some (tensorKey 0 1 3) } .write false
      (handleReqs (handled) tensorFour)
    ∧ (handled).setA = none ∧ (handled tensorFour 4).setA = some 4 :=
  ⟨⟨_, _, _, ⟨rfl, by decide +kernel, _, rfl, rfl⟩, by decide +kernel, by decide +kernel⟩, ⟨_, _, _, ⟨rfl, by decide +kernel, _, rfl, rfl⟩, by decide +kernel, by decide +kernel⟩,
    rfl, rfl⟩

/-- A CB tensor of rate code 1: the pieces of its blocks are read; a store to it is refused. -/
def tensorCb : Tensor := { tensorFour with rate := 1 }

theorem witness_HandleAccesses_cb : (handled tensorCb).liveTensor 0 1 ((handled).readS 3) = some (tensorKey 0 1 3, tensorCb) ∧ tensorCb.rate ≠ 0
    ∧ (handled tensorCb).memCheck [1] [4] false [3] = .ok ()
    ∧ (let s := handled tensorCb
       let place (l : Nat) : ElemAt := tensorCb.at_ tensorCb.cur (s.vsrc 1 l).toNat
       let lanes := lanesList s.memLanes
       let pieces : List LaneReq := lanes.flatMap fun l => (List.range ((place l).n / 2)).map fun j =>
         { lane := l, va := (place l).va + BitVec.ofNat 64 (2 * j), n := 2, reg := 1000 + j }
       pieces ≠ [] ∧ Sound (learned s) { (learned s).opHere none .load with
         pendV := [4], tensor := some (tensorKey 0 1 3)
         cb := some { d := 4, rate := rateBits 1, entry := tensorCb.entry, pos := lanes.map fun l => (l, (place l).pos) } } .read false pieces) :=
  ⟨rfl, by decide, rfl, by decide +kernel, ⟨_, _, _, ⟨rfl, by decide +kernel, _, rfl, rfl⟩, by decide +kernel, by decide +kernel⟩⟩

/-- s6 is the address of package 1's unit. -/
def twinAway (s : State) : State :=
  let s := twin s
  s.setHart s.cur { s.hart s.cur with sregs := [(6, 0x00F0000040000000)] }

/-- All lanes of a load and of a store go to another package. -/
theorem witness_VectorsSentAway : ∀ seta, seta ∈ [3, 15] →
    let s := twinAway (world seta)
    VectorForm s 4 2 6 (.vld 4 2 6) (.vst 4 2 6) [4] [2] [6] false (vldReqs s 4 4)
    ∧ ∀ st, st ∈ [true, false] → s.memCheck [2] [4] st [6] = .ok () ∧
      let o : Op := { s.opHere s.setA (if st then .store else .load) with pendV := if st then [] else [4] }
      let k : AccKind := if st then .write else .read
      s.laneChecks o k false (vldReqs s 4 4) = .ok ()
      ∧ (okAnd (s.locate o k (vldReqs s 4 4)) fun x => x.1.any (fun y => s.away s.cur y.2) && x.2.1 == []
          && answersOk (x.2.2.performAll o (x.1.filter fun y => !s.away s.cur y.2))) = true := by
  intro seta h
  fin_cases h <;> refine ⟨.inl ⟨_, rfl, by decide, .inl ⟨rfl, rfl, by decide, rfl, rfl, rfl, rfl, rfl⟩⟩, fun st hs => ?_⟩ <;>
    fin_cases hs <;> exact ⟨rfl, rfl, by decide +kernel⟩

/-- A load, or a store, whose two lanes come back from another package. -/
def comingBack (k : OpKind) : State :=
  { twin with ops := [(7, { agent := .slot 5 0, pip := some 2, pc := 0xFFC, word := 0, kind := k, pendV := [4]
                            reqs := [0, 1].map fun l => { lane := l, va := 0x00F0000040000000 + BitVec.ofNat 64 (4 * l), n := 4, reg := 4, data := 9
                                                          key := 2 ^ 49 + 2 ^ 30 + 4 * l, addr := 2 ^ 30 + 4 * l } })] }

theorem witness_VectorsSentAway_return : ∀ k, k ∈ [OpKind.load, .store] →
    (comingBack k).stopOf (.slot 5 0) = none ∧ ((comingBack k).group 5).regs.poison = [] ∧ ((comingBack k).group 5).regs.lost = []
    ∧ (SMap.find (comingBack k).ops 7).any (fun o => o.reqs != [] && o.entries == 0 && o.cb.isNone && o.tensor.isNone && !o.due
        && o.ends.isNone && okAnd ((comingBack k).performAll { o with reqs := [] } (o.reqs.map fun r => (r, r.loc))) fun x =>
          x.1.bad.isNone && decide ((x.1.fills.map fun f => (f.1, f.2.1)).Nodup)) = true := by decide +kernel

/-! Completions. -/

/-- A load, a store and a collective with all their data, in flight for the group's slot 0. -/
def arriving (k : OpKind) : State :=
  { world with ops := [(7, { agent := .slot 5 0, pip := some 2, pc := 0xFFC, word := 0, kind := k, pendV := [4], fills := [(4, 0, 9), (4, 63, 8)] })] }

theorem witness_VectorCompletion : (SMap.find (arriving .load).ops 7).isSome = true ∧ (arriving .load).stopOf (.slot 5 0) = none
    ∧ (SMap.find (arriving .prefetch).ops 7).isSome = true ∧ (SMap.find (arriving (.collective 1 0 0)).ops 7).isSome = true
    ∧ ((arriving .load).group 5).regs.poison = [] ∧ ((arriving .load).group 5).regs.lost = []
    ∧ ((arriving .load).group 5).regs.sliced.getLsbD (63 / 32) = false ∧ ([(4, 0), (4, 63)] : List (Nat × Nat)).Nodup
    ∧ (SMap.find (arriving .load).ops 7).all (fun o => o.ends.isNone && !o.due && o.reqs == [] && o.entries == 0) = true := by
  decide +kernel

/-- An atomic in flight, applied: two lanes at one home, a third at another; their old codes wait. -/
def atomicOp : Op :=
  { agent := .slot 5 0, pip := some 2, pc := 0xFFC, word := 0, kind := .atomic .add 0x983E000000000000 0 true, pendV := [4]
    fills := [(4, 0, 9), (4, 1, 8), (4, 2, 12)]
    reqs := [{ lane := 0, va := 0x4000, n := 4, reg := 4, data := 3, key := 0x4000 }, { lane := 1, va := 0x4010, n := 4, reg := 4, data := 4, key := 0x4010 },
             { lane := 2, va := 0x4000, n := 4, reg := 4, data := 5, key := 0x4000 }] }

theorem witness_AtomicCompletion : let s := { world with ops := [(7, atomicOp)] }
    (∀ x ∈ atomicOp.reqs, x.order = none) ∧ (s.group 5).regs.poison = [] ∧ (s.group 5).regs.lost = []
    ∧ (atomicOp.fills.map fun f => (f.1, f.2.1)).Nodup ∧ (atomicOp.reqs.filter fun x => x.key != 0x4000) ≠ []
    ∧ (atomicOp.reqs.take 1).filter (fun x => x.key != 0x4000) = []
    ∧ atomicOp.entries = 0 ∧ atomicOp.bad = none ∧ atomicOp.due = false ∧ atomicOp.ends = none ∧ s.stopOf atomicOp.agent = none
    ∧ (∃ f ∈ atomicOp.fills, f.2.1 = 0) ∧ (s.group 5).regs.sliced.getLsbD (0 / 32) = false := by decide +kernel

/-- `vatadd` of int32 at 0x4000 and up: applied at issue under SETA 15, else in flight. -/
def atomicReqs (s : State) (cas : Bool) : List LaneReq := (lanesList s.memLanes).map fun l =>
  { lane := l, va := s.readS 6 + (s.vsrc 2 l).setWidth 64, n := 4, reg := 4
    data := if cas then s.elemOf 5 4 l % 2 ^ 32 else s.elemOf 4 4 l % 2 ^ 32, cmp := if cas then s.elemOf 4 4 l % 2 ^ 32 else 0 }

theorem witness_VectorAtomics : let s := under 0 0
    Unlogged s ∧ (Instr.vatadd, AtOp.add, true) ∈ atomics ∧ (∃ F, s.sf [0, 1, 2] = .ok F ∧ F.c = 32) ∧ s.memCheck [2] [4] true [6] = .ok ()
    ∧ s.laneChecks { s.opHere none (.atomic .add (sfRecord s) (modeOf s) true) with pendV := [4] } .rmw false (atomicReqs s false) = .ok ()
    ∧ ∃ here t o1 t1, s.locate { s.opHere none (.atomic .add (sfRecord s) (modeOf s) true) with pendV := [4] } .rmw (atomicReqs s false)
        = .ok (here, [], t) ∧ (∀ x ∈ here, s.away s.cur x.2 = false)
      ∧ t.atomicAll { s.opHere none (.atomic .add (sfRecord s) (modeOf s) true) with pendV := [4] } (placed here) = .ok (o1, t1) ∧ o1.bad = none :=
  ⟨rfl, List.mem_cons_self, ⟨_, rfl, by decide⟩, rfl, rfl, _, _, _, _, rfl, by decide +kernel, rfl, rfl⟩

theorem witness_VectorAtomics_counted : let s := under 0 0 (world 3)
    s.setA = some 3 ∧ s.memCheck [2] [4, 5] true [6] = .ok () ∧ (4 : BitVec 8).toNat ≤ 222
    ∧ s.laneChecks (s.opHere (some 3) (.atomic .cas (sfRecord s) (modeOf s) true)) .rmw false (atomicReqs s true) = .ok ()
    ∧ ∃ here t, s.locate { s.opHere (some 3) (.atomic .cas (sfRecord s) (modeOf s) true) with pendV := [4] } .rmw (atomicReqs s true) = .ok (here, [], t)
      ∧ (okAnd (t.atomicAll { s.opHere (some 3) (.atomic .cas (sfRecord s) (modeOf s) true) with pendV := [4] } (placed here))
          fun x => x.1.bad.isNone) = true ∧ (∀ x ∈ here, s.away s.cur x.2 = false) :=
  ⟨rfl, rfl, by decide, rfl, _, _, rfl, by decide +kernel, by decide +kernel⟩

/-- Lanes 0 to 3 of an atomic whose homes lie in another package, counted or not. -/
theorem witness_VectorAtomics_away : ∀ seta, seta ∈ [3, 15] →
    let s := twinAway (under 0 0 (world seta))
    let o : Op := { s.opHere s.setA (.atomic .add (sfRecord s) (modeOf s) true) with pendV := [4] }
    Unlogged s ∧ (∃ F, s.sf [0, 1, 2] = .ok F ∧ F.c = 32) ∧ s.memCheck [2] [4] true [6] = .ok ()
    ∧ answersOk (s.laneChecks o .rmw false (atomicReqs s false)) = true
    ∧ (okAnd (s.locate o .rmw (atomicReqs s false)) fun x => x.1.any (fun y => s.away s.cur y.2) && x.2.1 == []
        && okAnd (x.2.2.atomicAll o (placed x.1)) fun y => y.1.bad.isNone) = true := by
  intro seta h
  fin_cases h <;> exact ⟨rfl, ⟨_, rfl, by decide⟩, rfl, by decide +kernel, by decide +kernel⟩

theorem witness_ScalarAtomics : Unlogged world ∧ (∃ F, (under 0 0).sf [0, 1, 2] = .ok F ∧ F.c = 32 ∧ F.kind = 1) ∧ Ready world [7, 6, 2]
    ∧ world.needPip world.setA = .ok () ∧ coreWorld.accessInFlight = false
    ∧ (∃ l t, world.scalarAccess (world.readS 6) 4 4 .rmw true = .ok (l, t) ∧ t.poisoned l.key 4 = false ∧ world.away world.cur l = false)
    ∧ (∃ l t, (coreWorld.releaseSlot 5).scalarAccess (coreWorld.readS 6) 4 4 .rmw true = .ok (l, t) ∧ t.poisoned l.key 4 = false
        ∧ coreWorld.away coreWorld.cur l = false)
    ∧ (rmOf (modeOf world) ≠ 5) :=
  ⟨rfl, ⟨_, rfl, by decide, rfl⟩, rfl, rfl, rfl, ⟨_, _, rfl, by decide +kernel, by decide +kernel⟩, ⟨_, _, rfl, by decide +kernel, by decide +kernel⟩, by decide⟩

/-- The home in another package, and a scalar atomic of it on its way back. -/
theorem witness_ScalarAtomicsSentAway : ∀ seta, seta ∈ [3, 15] →
    let s := twinAway (under 0 0 (world seta))
    Unlogged s ∧ (∃ F, s.sf [0, 1, 2] = .ok F ∧ F.c = 32) ∧ Ready s [7, 6, 2] ∧ s.needPip s.setA = .ok ()
    ∧ (s.scalarAway (s.readS 6) 4 .rmw).isSome = true := by
  intro seta h
  fin_cases h <;> exact ⟨rfl, ⟨_, rfl, by decide⟩, rfl, rfl, by decide +kernel⟩

def awayAtomic : ScalarAct := .atomic .add 0x983E000000000000 0

theorem witness_ScalarAtomicsSentAway_completes : let s := awayWorld awayAtomic
    ∃ o r, SMap.find s.ops 7 = some o ∧ o.kind = .parkedScalar 7 awayAtomic ∧ o.reqs = [r] ∧ o.entries = 0 ∧ o.due = false
    ∧ o.ends = none ∧ o.bad = none ∧ o.tensor = none ∧ s.stopOf o.agent = none ∧ (s.group (gidOf o.agent)).regs.lost = []
    ∧ okAnd (s.raceAccess (lateWho s o) r.loc r.n 2 true) (fun u => !u.poisoned r.key r.n) = true :=
  ⟨_, _, rfl, rfl, rfl, rfl, rfl, rfl, rfl, rfl, rfl, rfl, by decide +kernel⟩

/-! Barriers: an object at 0x00E0000000000800, two arrivals and 64 bytes expected, one arrived. -/

def barred (b : Bar) : State :=
  ({ sliced with mem := Mem.write [] (sliceBase + 0x800) 32 b.toNat } : State).setHart world.cur
    { hart with sregs := [(1, 0x00E0000000000800), (2, 2), (4, 0x00400002), (5, 0x80000000), (8, 3), (9, 0x10001)] }

def bar2 : Bar :=
  { phase := 3, exparr := 2, arr := 1, expbytes := 64, landed := 0, armed := true, fault := false, ext := false, bbit := 0, bcore := 0, ben := false }

theorem witness_Barriers : Unlogged (barred bar2) ∧ Ready (barred bar2) [7, 1, 2]
    ∧ (∃ key t, (barred bar2).barAccess ((barred bar2).readS 1) = .ok (key, t) ∧ key = sliceBase + 0x800 ∧ t.bar key = bar2)
    -- barinit: y = 0; the binding word out of range; busy; free
    ∧ (barred bar2).readS 10 = 0 ∧ bits ((barred bar2).readS 9) 15 0 ≠ 0
    ∧ (bar2.armed = true ∧ bar2.fault = false ∧ (bar2.arr ≠ 0 ∨ bar2.landed ≠ 0))
    ∧ ((barred bar2).readS 5).toNat / 2 ^ 32 = 0 ∧ bits ((barred bar2).readS 5) 15 0 = 0 ∧ bits ((barred bar2).readS 5) 30 24 < 88 :=
  ⟨rfl, rfl, ⟨_, _, rfl, rfl, by decide +kernel⟩, by decide +kernel⟩

theorem witness_Barriers_cases :
    (∃ key t, (barred { bar2 with armed := false, arr := 0 }).barAccess 0x00E0000000000800 = .ok (key, t) ∧ (t.bar key).armed = false)
    ∧ (∃ key t, (barred { bar2 with fault := true }).barAccess 0x00E0000000000800 = .ok (key, t) ∧ (t.bar key).armed = true ∧ (t.bar key).fault = true)
    ∧ (∃ key t, (barred { bar2 with arr := 2 }).barAccess 0x00E0000000000800 = .ok (key, t) ∧ (t.bar key).arr = (t.bar key).exparr)
    -- bararr believes 2, or 3; barwait for phase 2 is past, for phase 3 it is not
    ∧ ((barred bar2).readS 2).toNat % 2 ^ 16 = bar2.exparr ∧ ((barred bar2).readS 8).toNat % 2 ^ 16 ≠ bar2.exparr
    ∧ (1 ≤ (3 + 2 ^ 32 - 2) % 2 ^ 32 ∧ (3 + 2 ^ 32 - 2) % 2 ^ 32 ≤ 2 ^ 31) ∧ ¬ (1 ≤ (3 + 2 ^ 32 - 3) % 2 ^ 32)
    -- 64 bytes land, or 65
    ∧ ¬ (bar2.expbytes < bar2.landed + 64) ∧ bar2.expbytes < bar2.landed + 65 :=
  ⟨⟨_, _, rfl, by decide +kernel⟩, ⟨_, _, rfl, by decide +kernel, by decide +kernel⟩, ⟨_, _, rfl, by decide +kernel⟩, by decide +kernel,
    by decide +kernel, by decide, by decide, by decide, by decide⟩

/-- The slot's wait at the barrier has ended; the object is complete but for the test, or faulted. -/
theorem witness_Barriers_told :
    let at_ (b : Block) : State := (barred bar2).setSlot world.cur { slot with block := some b }
    ((at_ (.barDone (sliceBase + 0x800) 3)).slot world.cur).block = some (.barDone (sliceBase + 0x800) 3)
    ∧ ((at_ (.barFault (sliceBase + 0x800) 4)).slot world.cur).block = some (.barFault (sliceBase + 0x800) 4)
    ∧ ((at_ (.barrier (sliceBase + 0x800) 2)).slot world.cur).block = some (.barrier (sliceBase + 0x800) (BitVec.ofNat 64 2))
    ∧ tested bar2 = bar2 ∧ tested { bar2 with arr := 2, landed := 64 } ≠ { bar2 with arr := 2, landed := 64 }
    ∧ (tested { bar2 with fault := true }).armed = true ∧ (tested { bar2 with fault := true }).fault = true := by
  refine ⟨rfl, rfl, rfl, ?_, ?_, ?_, ?_⟩ <;> decide +kernel

theorem witness_Fences : ((0x35 : BitVec 8).toNat < 64 ∧ (0x35 : BitVec 8).getLsbD 3 = false ∧ (0x35 : BitVec 8).toNat % 8 < 6)
    ∧ ¬ ((0x36 : BitVec 8).toNat % 8 < 6) ∧ world.accessInFlight = false ∧ world.readInFlight = false
    ∧ pendingWorld.accessInFlight = true ∧ pendingWorld.readInFlight = true ∧ pendingWorld.groupAccessInFlight = true
    ∧ world.groupAccessInFlight = false ∧ world.race.active = false ∧ raced.race.active = true := by decide +kernel

/-! Register claims: the group holds two granules, 100 beat-registers are left in its budget. -/

theorem witness_Claims : Ready world [7] ∧ ¬ ((47 : BitVec 8) ≠ 0 ∧ (group).regs.granules + (47 : BitVec 8).toNat ≤ 48)
    ∧ (3 : BitVec 8) ≠ 0 ∧ (group).regs.granules + (46 : BitVec 8).toNat ≤ 48
    ∧ 4 * 3 * 2 ≤ (world.wg 6).left_ ∧ 4 * 3 * 2 ≤ world.pool 0 0 0 0 ∧ world.earlierClaim 5 0 world.cycle = false
    ∧ (world.wg 6).left_ < 4 * 46 * 2 ∧ (3 : BitVec 8).toNat > (group).regs.granules ∧ (2 : BitVec 8).toNat ≤ (group).regs.granules
    ∧ world.need [] ((List.range (4 * 2)).map (32 + 4 * (2 - 2) + ·)) = .ok () ∧ world.pool 0 0 0 0 < 2 ^ 16 ∧ (world.wg 6).left_ < 2 ^ 16 :=
  ⟨rfl, by decide, by decide, by decide, by decide, by decide, rfl, by decide, by decide, by decide, rfl, by decide, by decide⟩

/-- The slot waits in a claim of `n` granules. -/
def claiming (n : Nat) : State :=
  { world with groups := [(5, { group with slot0 := { slot with block := some (.claim 7 n), since := 10 } })], cycle := 300 }

theorem witness_ClaimEvents : (((claiming 3).group 5).slot 0).claim = some (7, 3) ∧ ((claiming 3).group 5).life ≠ .saved
    ∧ (claiming 3).isStopped (.slot 5 0) = false ∧ ((claiming 3).group 5).hart.handler = false ∧ ((claiming 3).group 5).regs.granules + 3 ≤ 48
    ∧ (claiming 3).claimFits ((claiming 3).group 5) 3 = true ∧ (claiming 3).earlierClaim 5 0 10 = false
    ∧ (claiming 46).claimDeadlock 6 = true ∧ ((claiming 46).wg 6).groups.any (fun g => (claiming 46).isStopped (.slot g 0)) = false
    ∧ ((claiming 46).claimsOf 6).any (fun e => ((claiming 46).group e.1).life != .saved) = true := by decide +kernel

/-- The claim started to block in the cycle before; it has been found stuck at cycle 40, or at 45: 256 cycles later it is due,
255 later it is not. -/
def stuckClaim (at_ : Nat) : State :=
  { claiming 46 with wgs := [(6, { ctx := 1, groups := [5], left_ := 100, stuckAt := some at_ })] }
theorem witness_ClaimEvents_stuck :
    (let s := { claiming 46 with cycle := 11 }
     s.claimDeadlock 6 = true ∧ (s.wg 6).stuckAt = none ∧ (∃ e ∈ s.groupsOf 6, e.2.slot0.blockedNow s.cycle = true))
    ∧ (claiming 46).claimDeadlock 6 = true ∧ ¬ (∃ e ∈ (claiming 46).groupsOf 6, e.2.slot0.blockedNow 300 = true ∨ e.2.slot1.blockedNow 300 = true)
    ∧ (claiming 3).claimDeadlock 6 = false
    ∧ ((stuckClaim 44).wg 6).stuckAt = some 44 ∧ 44 + 256 ≤ (stuckClaim 44).cycle ∧ (stuckClaim 44).claimDeadlock 6 = true
    ∧ (stuckClaim 45).cycle < 45 + 256 := by decide +kernel
theorem witness_ClaimEvents_ready :
    Ready ({ claiming 3 with cur := .slot 5 0, word := BitVec.ofNat 32 (0xB0000000 + 7 * 2 ^ 16 + 3) } : State) [BitVec.ofNat 8 7] := rfl

/-! Forward ports: launch 50 has port 0 on v4 with k = 1; identifiers start at 0, or at 4. -/

def ported (wid0 : Nat) : State :=
  { world with
    groups := [(5, { group with wid0 := BitVec.ofNat 64 wid0, slot0 := { slot with pc := 0x1000, clause := none, ripple := some 0xF, pmode := some 0 } })]
    wgs := [(6, { ctx := 1, groups := [5], launch := some 50 })]
    launches := [(50, { ctx := 1, header := [0x1000, 0, 6, 63, 0, 0, 0, 0, 0, 0, 0x8104, 0, 0, 0, 0, 0], alive := 1 })]
    mem := Mem.write [] 0x1000 12 (0xF1000FF0 + 2 ^ 32 * (0x4004E001 + 2 ^ 32 * 0xB4000000)) }

theorem witness_ForwardPorts : (ported 0).launchOf 5 = some 50 ∧ ((ported 0).launch 50).portOn 0 = true ∧ ((ported 0).launch 50).portOn 7 = false
    ∧ ((ported 0).launch 50).portReg 0 = 4
    ∧ (∀ i < 64, ∀ j < 64, (ported 0).acting.getLsbD i = true → (ported 0).acting.getLsbD j = true →
        (((ported 0).group 5).wid i).toNat = (((ported 0).group 5).wid j).toNat → i = j)
    ∧ (∀ i < 64, (ported 0).acting.getLsbD i = true → ((ported 0).launch 50).unreleased 0 (((ported 0).group 5).wid i).toNat < 4)
    ∧ (∀ p < 8, (1 : BitVec 8).getLsbD p = true → ((ported 0).launch 50).portOn p = true) := by decide +kernel
theorem witness_ForwardPorts_ready : (ported 0).needReg 4 = .ok () ∧ (ported 0).need (ported 0).guardRegs [4] = .ok ()
    ∧ (ported 0).needClean [4] (ported 0).acting = .ok () ∧ (ported 0).need (ported 0).guardRegs = .ok ()
    ∧ (let s := (ported 0).setLaunch 50 { (ported 0).launch 50 with items := [(0, { pubs := 1 })] }
       ∃ l x, SMap.find s.launches 50 = some l ∧ SMap.find l.items 0 = some x ∧ x.arrived < x.pubs) :=
  ⟨rfl, rfl, rfl, rfl, _, _, rfl, rfl, by decide⟩

/-- Port 0 holds four generations of identifier 0 that nobody has read; ports 0 and 7 are named, 7 not being enabled. -/
theorem witness_ForwardPorts_full :
    (let s := (ported 0).setLaunch 50 { (ported 0).launch 50 with items := [(0, { pubs := 4, held := [(1, 0), (2, 0), (3, 0), (4, 0)] })] }
     s.acting.getLsbD 0 = true ∧ ((s.group 5).wid 0).toNat = 0 ∧ ((s.launch 50).item 0 0).ended = false ∧ 4 ≤ (s.launch 50).unreleased 0 0
     ∧ (s.launch 50).unreleased 0 1 < 4)
    ∧ (∃ p, p < 8 ∧ (0x81 : BitVec 8).getLsbD p = true ∧ ((ported 0).launch 50).portOn p = false) := by decide +kernel

/-- The slot at the header of its ripple clause, entered: lane 0 has no predecessor where identifiers start at 0; where they
start at 4, its predecessor has published nothing. -/
def rippleHeader (s : State) : Option (State × List Nat × Clause) :=
  match ({ s with cur := .slot 5 0, word := 0 } : State).enterClause with
  | .ok (.ripple u _ ps) =>
    let v := u.started (.slot 5 0)
    let x := v.slot v.cur
    x.clause.map fun c => (v.setSlot v.cur { x with pc := c.hdr, clause := none }, ps, c)
  | _ => none

/-- The pending lanes are 0 to 3; one wave each, of a lane whose predecessor is in the wave before. -/
theorem witness_RippleRounds : (ported 0).canIssue (.slot 5 0) = true
    ∧ ((ported 0).group 5).slot0.ripple = some 0xF ∧ ((ported 0).group 5).slot0.wave = none
    ∧ (rippleHeader (ported 0)).any (fun (h, ps, _) => (h.slot h.cur).waves == [] && h.wavesOf ps 0xF == [1, 2, 4, 8]
        && h.laneDecided ps 0 && ps == [0]) = true
    ∧ (rippleHeader (ported 4)).any (fun (h, ps, _) => (h.slot h.cur).waves == [] && h.wavesOf ps 0xF == []
        && (List.range 4).all fun l => !h.laneDecided ps l) = true := by decide +kernel

/-- The first of a list of waves is picked where each of its lanes is decided. -/
theorem witness_RippleRounds_picks (h : State) (ps : List Nat) (hd : h.laneDecided ps 0 = true) : Picks h ps [1, 2, 4, 8] 1 [2, 4, 8] := by
  refine ⟨[], 1, rfl, by simp, by decide, fun l hl => ⟨fun h1 => ⟨h1, ?_⟩, And.left⟩⟩
  have : l = 0 := by interval_cases l <;> first | rfl | (revert h1; decide)
  exact this ▸ hd

/-- What is left of a round whose last wave was lane 0's. -/
theorem witness_RippleRounds_left : let s := ported 0
    let s := s.setSlot s.cur { s.slot s.cur with waves := [2, 4, 8], ripple := some 0xE }
    let s := s.setLaunch 50 { s.launch 50 with items := [(0, { pubs := 1, arrived := 1, held := [(1, 5)] })] }
    (rippleHeader s).any (fun (h, ps, _) => (h.slot h.cur).waves == [2, 4, 8] && h.laneDecided ps 1) = true := by decide +kernel

theorem witness_RippleWaves : (ported 0).launchOf (gidOf (ported 0).cur) = some 50 ∧ ((ported 0).launch 50).portOn 0 = true
    ∧ (∀ l < 64, ∀ q, (ported 0).grp.laneOf (predOf ((ported 0).grp.wid l).toNat (((ported 0).launch 50).portK 0)) 0xF = some q → q < l) := by
  refine ⟨rfl, by decide +kernel, ?_⟩
  have h : ∀ l < 64, ((ported 0).grp.laneOf (predOf ((ported 0).grp.wid l).toNat (((ported 0).launch 50).portK 0)) 0xF).all (· < l) = true := by
    decide +kernel
  intro l hl q hq
  have := h l hl
  rw [hq] at this
  exact of_decide_eq_true this

/-- One word of a wave, and a whole wave, as functions. -/
def waveWord (c : Clause) (s : State) : Option State :=
  match s.wordFate c with
  | .ok (.runs i s1) =>
    match encode i, exec i s1 with
    | some w, .next t =>
      if (w.1.toNat / 2 ^ 24 = 0x40 ∨ w.1.toNat / 2 ^ 24 = 0xB4) ∧ s1.comparator (gidOf s1.cur) (slotNo s1.cur) = none
          ∧ t.grp.trap.pending = none ∧ (t.slot t.cur).pc ≠ (s.slot s.cur).pc then some t else none
    | _, _ => none
  | .error _ => none

theorem waveWord_runs {c : Clause} {s t : State} (h : waveWord c s = some t) : WaveWord c s t := by
  unfold waveWord at h
  split at h
  · split at h
    · rename_i hf _ _ w _ he hx
      split at h
      · rename_i hc
        cases h
        refine ⟨_, _, w, hf, he, ?_, hc.2.1, hx, hc.2.2⟩
        unfold RippleOpcode
        have := hc.1
        omega
      · cases h
    · cases h
  · cases h

def waveRun (c : Clause) : Nat → State → Option State
  | 0, _ => none
  | n + 1, s =>
    match waveWord c s with
    | none => none
    | some u =>
      if (u.slot u.cur).clause = none then (if n = 0 then some u else none)
      else if u.stepping u.cur = false then waveRun c n u else none

theorem waveRun_runs {c : Clause} : ∀ {n : Nat} {s t : State}, waveRun c n s = some t → WaveRuns c n s t
  | 0, _, _, h => by cases h
  | n + 1, s, t, h => by
    unfold waveRun at h
    split at h
    · cases h
    · rename_i u hu
      refine ⟨u, waveWord_runs hu, ?_⟩
      split at h <;> rename_i hc <;> simp only [hc, if_true, if_false]
      · split at h
        · exact ⟨‹_›, Option.some.inj h⟩
        · cases h
      · split at h
        · exact ⟨‹_›, waveRun_runs h⟩
        · cases h

/-- Both words of lane 0's wave complete, from the header, and from inside the wave. -/
def inWave (h : State) (c : Clause) (rest : List Lanes) : State :=
  h.setSlot h.cur { h.slot h.cur with waves := rest, block := none, wave := some 1, pc := c.hdr + 4, clause := some c, waveMode := (h.slot h.cur).pmode }

theorem witness_RippleCompletes :
    (rippleHeader (ported 0)).any (fun (h, _, c) => decide (2 ≤ c.len + 1) && (waveRun c 2 (inWave h c [2, 4, 8])).isSome
      && (inWave h c [2, 4, 8]).canIssue (.slot 5 0)
      && okAnd (({ inWave h c [2, 4, 8] with cur := .slot 5 0, word := 0 } : State).clauseWords (c.hdr + 4) c.len) fun x =>
          (waveRun c 2 (x.2.started (.slot 5 0))).isSome) = true := by decide +kernel

/-- What becomes of the wave's word at this place. -/
def waveMeets (s : State) (c : Clause) (p : TrapInfo → Bool) (q : Block → Bool) : Bool :=
  match s.wordFate c with
  | .ok (.runs i s1) =>
    s1.comparator (gidOf s1.cur) (slotNo s1.cur) == none
      && nextIs (rippleExec i s1) fun t => (t.slot t.cur).pc == (s.slot s.cur).pc && (t.slot t.cur).clause.isSome
        && (t.grp.trap.pending.any p || (t.slot t.cur).block.any q)
  | .error _ => false

/-- A word of the wave waits for its register; one traps, its format not being readable; at the second word the port holds
four generations. -/
theorem witness_WaveFates : (rippleHeader (ported 0)).any (fun (h, _, c) =>
    let s := inWave h c []
    waveMeets { s with ops := [(7, { agent := .slot 5 0, pip := some 2, pc := 0xFFC, word := 0, kind := .load, pendV := [4] })] } c
      (fun _ => false) (· == .op 7)
    && waveMeets (s.setSlot s.cur { s.slot s.cur with pmode := none }) c (·.cause == 3) (fun _ => false)
    && waveMeets ((s.setSlot s.cur { s.slot s.cur with pc := c.hdr + 8 }).setLaunch 50
        { s.launch 50 with items := [(0, { pubs := 4, held := [(1, 0), (2, 0), (3, 0), (4, 0)] })] }) c (fun _ => false) (· == .publish 0)) = true := by
  decide +kernel

/-! Continuations, queues and launches: continuation queue 0 and launch queue 3 are open. -/

def queued_ : State := world.setCtx 0 1 { world.ctx 0 1 with queues := [(3, {}), (64, {})] }

/-- A record at 0x4160 with this fourth word, the last quarter of a join object at 0x4140 with one left to arrive. -/
def recorded (fourth : Nat) : State :=
  ({ queued_ with mem := Mem.write (Mem.write [] 0x4160 32 (0x1000 + 2 ^ 64 * (0x5000 + 2 ^ 64 * (0x6000 + 2 ^ 64 * fourth)))) 0x4140 8 1 } : State).setHart
    world.cur { hart with sregs := [(1, 0x4160), (2, 0x4140)] }

theorem witness_Continuations : Unlogged (recorded 0) ∧ Ready (recorded 0) [7, 1]
    ∧ (∃ x l t, (recorded 0).scalarRead ((recorded 0).readS 1) 32 32 = .ok (x, l, t) ∧ x / 2 ^ 192 = 0)
    ∧ (∃ x l t, (recorded 20).scalarRead ((recorded 20).readS 1) 32 32 = .ok (x, l, t) ∧ x / 2 ^ 192 = 20)
    ∧ (∃ l t, ((recorded 0).releaseSlot 4).objectStep ((recorded 0).readS 2) = .ok (l, t) ∧ l.key = 0x4140
      ∧ Mem.read t.mem l.key 8 = 1 ∧ Mem.read t.mem (l.key + 0x20) 32 / 2 ^ 192 = 0)
    ∧ SMap.find (queued_.ctx 0 1).queues 64 ≠ none ∧ SMap.find (queued_.ctx 0 1).queues 69 = none
    ∧ queued_.hasRoom 0 1 64 = true ∧ queued_.prioOk 0 1 64 0 = true :=
  ⟨rfl, rfl, ⟨_, _, _, rfl, by decide +kernel⟩, ⟨_, _, _, rfl, by decide +kernel⟩,
    ⟨_, _, rfl, rfl, by decide +kernel, by decide +kernel⟩, by decide +kernel, by decide +kernel, by decide +kernel, by decide +kernel⟩

theorem witness_Continuations_cqpush :
    let s := { coreWorld with mem := (recorded 0).mem }
    (0x4160 : Dword).toNat % 32 = 0 ∧ ∃ x l u, s.scalarRead 0x4160 32 32 = .ok (x, l, u) :=
  ⟨by decide, _, _, _, rfl⟩

/-- A queue object at s6 = 0x4000: HEAD, TAIL, BASE 0x5000, 2 ^ 2 items. -/
def queueAt (head tail : Nat) (setb : Nat := 15) : State :=
  { world setb with mem := Mem.write (Mem.write [] 0x4000 32 (head + 2 ^ 64 * (tail + 2 ^ 64 * (0x5000 + 2 ^ 64 * 2)))) 0x5000 8 77 }

theorem witness_WorkQueues : Unlogged (queueAt 0 1) ∧ Ready (queueAt 0 1) [7, 6, 2] ∧ (queueAt 0 1).needPip (queueAt 0 1).setA = .ok ()
    -- room; full; empty
    ∧ (∃ l t, ((queueAt 0 1).releaseSlot 4).objectStep ((queueAt 0 1).readS 6) = .ok (l, t)
      ∧ (let q := t.workQueue l.key
         q.base.toNat % 8 = 0 ∧ (q.tail - q.head).toNat < 2 ^ q.lgcap) ∧ ∃ i u, t.scalarAccess 0x5008 8 8 .write true = .ok (i, u))
    ∧ (∃ l t, ((queueAt 0 4).releaseSlot 4).objectStep ((queueAt 0 4).readS 6) = .ok (l, t)
      ∧ (let q := t.workQueue l.key
         2 ^ q.lgcap ≤ (q.tail - q.head).toNat))
    ∧ (∃ l t, (queueAt 0 1).objectStep ((queueAt 0 1).readS 6) = .ok (l, t) ∧ (t.workQueue l.key).head.toNat < (t.workQueue l.key).tail.toNat
      ∧ t.earlierPops l.key = false ∧ ∃ i u, t.scalarAccess 0x5000 8 8 .read true = .ok (i, u) ∧ u.poisoned i.key 8 = false)
    ∧ (∃ l t, (queueAt 1 1).objectStep ((queueAt 1 1).readS 6) = .ok (l, t) ∧ (t.workQueue l.key).tail.toNat ≤ (t.workQueue l.key).head.toNat) :=
  ⟨rfl, rfl, rfl, ⟨_, _, rfl, by decide +kernel, _, _, rfl⟩, ⟨_, _, rfl, by decide +kernel⟩,
    ⟨_, _, rfl, by decide +kernel, by decide +kernel, _, _, rfl, by decide +kernel⟩, _, _, rfl, by decide +kernel⟩

/-- A launch header at 0x4000: ENTRY, PREFIX, widths (6 bits of F0), extents (F0 64, F1 4), QUEUE 3. -/
def headerAt (entry : Nat) : State :=
  { queued_ with mem := Mem.write [] 0x4000 128 (natOfDwords [BitVec.ofNat 64 entry, 0, 6 + 2 ^ 7 * 2, 63 + 2 ^ 6 * 3, 0, 0, 0, 0x7000, 0, 3]) }

theorem witness_Launches : Unlogged (headerAt 0x1000) ∧ Ready (headerAt 0x1000) [7, 6, 0]
    ∧ (∃ h l t, (headerAt 0x1000).scalarRead ((headerAt 0x1000).readS 6) 128 128 = .ok (h, l, t) ∧ BitVec.ofNat 64 (h / 2 ^ (64 * 12)) = (0 : Dword))
    ∧ (0x1002 : Dword).toNat % 4 ≠ 0 :=
  ⟨rfl, rfl, ⟨_, _, _, rfl, by decide +kernel⟩, by decide⟩

/-- The same with port 0 on and its defaults at 0x5000. -/
theorem witness_Launches_ports :
    let s := { queued_ with mem := Mem.write [] 0x4000 128 (natOfDwords [0x1000, 0, 6, 63, 0, 0, 0, 0, 0, 3, 0x8104, 0, 0x5000]) }
    ∃ h l t, s.scalarRead (s.readS 6) 128 128 = .ok (h, l, t) ∧ BitVec.ofNat 64 (h / 2 ^ (64 * 12)) ≠ (0 : Dword)
      ∧ ({ header := (List.range 16).map fun i => BitVec.ofNat 64 (h / 2 ^ (64 * i)) } : Launch).portOn 0 = true
      ∧ answersOk (t.readDefaults 0x5000 8) = true :=
  ⟨_, _, _, rfl, by decide +kernel, by decide +kernel, by decide +kernel⟩

/-! A domino: slots 4 and 5 hold fp32 operands, 6 and 7 fp64 ones, 0 to 3 those of a sparse fp16 product, 8 is FREE. -/

def opslot (fmt : Nat) (kind : Nat := 0) (meta_ : Nat := 0) : OSlot :=
  { wg := 6, st := .ready, gen := 1, record := BitVec.ofNat 64 (fmt + 2 ^ 33 * kind + 2 ^ 35 * meta_) }

def myDom : Domino :=
  { slots := [(0, opslot 6 1 1), (1, opslot 3 2), (2, opslot 6), (3, opslot 6), (4, opslot 5), (5, opslot 5), (6, opslot 4), (7, opslot 4), (8, { wg := 6, gen := 63 })]
    accs := [(0, { wg := 6 }), (1, { wg := 6 })] }

def handle (n : Nat) : Dword := BitVec.ofNat 64 (64 + n)

/-- s1 and s2 hold handles, s3 an accumulator number, s4 a record. -/
def matrixed (a b : Nat) (d : Dword := 0) (D : Domino := myDom) (setb : Nat := 15) : State :=
  ({ world 15 setb with
     wgs := [(6, { ctx := 1, groups := [5], oslots := (List.range 9), aslots := [0, 1] })]
     dominoes := [(dominoKey 0 0 0, D)] } : State).setHart world.cur
    { hart with sregs := [(1, handle a), (2, handle b), (3, d), (4, 5), (5, 0x60000000000000), (6, 5 + 2 ^ 5), (8, 1)] }

theorem witness_OperandSlots : Ready (matrixed 4 5) [7, 4, 8] ∧ (world.wg 6).oslots = [] ∧ ((matrixed 4 5).wg 6).oslots ≠ []
    ∧ ((matrixed 4 5).wg 6).oslots = [0, 1, 2, 3, 4, 5, 6, 7] ++ 8 :: []
    ∧ (∀ t ∈ [0, 1, 2, 3, 4, 5, 6, 7], ¬ ((myDomino (matrixed 4 5)).slot t).st = .free) ∧ ((myDomino (matrixed 4 5)).slot 8).st = .free
    ∧ (let D := { myDom with slots := myDom.slots.take 8 ++ [(8, { wg := 6, st := .empty, record := 0x25 })] }
       (∃ k x, (k, x) ∈ D.slots ∧ x.st ≠ .free ∧ recLgblk x.record ≠ 0 ∧ recWindow x.record = recWindow 0x25)
       ∧ ∀ t ∈ List.range 9, ¬ ((myDomino (matrixed 4 5 0 D)).slot t).st = .free) :=
  ⟨rfl, rfl, by decide, rfl, by decide +kernel, by decide +kernel, ⟨8, { wg := 6, st := .empty, record := 0x25 }, by decide +kernel, by decide, by decide, rfl⟩, by decide +kernel⟩

theorem witness_OperandSlots_records : ValidRecord 5 ∧ ValidRecord (opslot 6 1 1).record ∧ ¬ ValidRecord 0x60000000000000 ∧ ValidRecord 0x25 := by
  unfold ValidRecord; decide

theorem witness_OperandSlots_live : (∃ x, (matrixed 4 5).liveSlot ((matrixed 4 5).readS 1) = .ok x ∧ x.fills = [])
    ∧ (matrixed 4 5).readS 9 = 0 ∧ (matrixed 4 5).readS 8 = 1 ∧ 2 ≤ ((matrixed 4 5).readS 4).toNat
    ∧ (∀ o ∈ (myDomino (matrixed 4 5)).queue, 4 ∈ o.slots → o.started = true ∧ o.which ≠ 2)
    ∧ handleOk ((matrixed 4 5).readS 5) = false
    -- a slot that is filling is not quiet
    ∧ (∃ x, (matrixed 4 5 0 { myDom with slots := [(4, { opslot 5 with st := .filling, fills := [9] })] }).liveSlot (handle 4) = .ok x ∧ x.fills ≠ []) :=
  ⟨⟨_, rfl, rfl⟩, by decide, by decide, by decide, by decide +kernel, by decide, _, rfl, by decide⟩

theorem witness_MatrixIssue_dense : Ready (matrixed 4 5) [3, 1, 2]
    ∧ MatrixReady (matrixed 4 5) 0 3 1 2 0 none (opslot 5) (opslot 5) none none 0x8C2E0FE000000000 0x8C2E0FE000000000 0x8C2E0FE000000000 .s
    ∧ (matrixed 4 5).queued (matrixed 4 5).dominoHere < 32 ∧ (matrixed 4 5).needPip (matrixed 4 5).setB = .ok ()
    ∧ (matrixed 4 5 0 myDom 9).setB = some 9 ∧ (matrixed 4 5).setB = none :=
  ⟨rfl, ⟨by decide +kernel, by decide, by decide, rfl, rfl, rfl, by decide, by decide, rfl, rfl, by decide, by decide, rfl, rfl, rfl, rfl,
    by rw [if_neg (by decide)], by rw [if_neg (by decide)]; exact ⟨rfl, rfl, rfl⟩⟩, by decide +kernel, rfl, rfl, rfl⟩

theorem witness_MatrixIssue_pair : let s := matrixed 6 7
    MatrixReady s 3 3 1 2 0 (some 1) (opslot 4) (opslot 4) none none 0x8DE87FE000000000 0x8DE87FE000000000 0x8DE87FE000000000 .d :=
  ⟨by decide +kernel, by decide, by decide, rfl, rfl, rfl, by decide, by decide, rfl, rfl, rfl, rfl, rfl, rfl, rfl, rfl,
    by rw [if_pos rfl]; exact ⟨by decide, _, rfl, rfl⟩, by rw [if_neg (by decide)]; exact ⟨rfl, rfl, rfl⟩⟩

theorem witness_MatrixIssue_sparse : let s := matrixed 0 2
    MatrixReady s 1 3 1 2 0 none (opslot 6 1 1) (opslot 6) (some (opslot 6)) (some (opslot 3 2)) 0x8A9401E000000000 0x8A9401E000000000
      0x8A9401E000000000 .h :=
  ⟨by decide +kernel, by decide, by decide, rfl, rfl, rfl, by decide, by decide, rfl, rfl, rfl, rfl, rfl, rfl, rfl, rfl,
    by rw [if_neg (by decide)], by
      rw [if_pos rfl]
      exact ⟨by decide, by decide, by decide, by decide, _, _, rfl, rfl, rfl, rfl, rfl, rfl, rfl, rfl, rfl, rfl, rfl⟩⟩

/-- A ragged product with its fence at 0x4000; a sequencer's queue that is full; a follower core. -/
def fullDom : Domino :=
  { myDom with queue := List.replicate 32 { id := 1, op := 2, which := 0, ctx := 1, acc := 0, a := 4, b := 5, recA := 5, recB := 5, entryA := 0, entryB := 0, md := 0 } }

theorem witness_MatrixIssue_others :
    MatrixReady (matrixed 4 5 0x4000) 2 3 1 2 0 none (opslot 5) (opslot 5) none none 0x8C2E0FE000000000 0x8C2E0FE000000000 0x8C2E0FE000000000 .s
    ∧ 32 ≤ (matrixed 4 5 0 fullDom).queued (matrixed 4 5 0 fullDom).dominoHere
    ∧ (let s := world.setGroup 5 { group with core := 1 }
       (s.placeOf s.cur).2.2 % 2 = 1 ∧ Ready s [3, 1, 2]) :=
  ⟨⟨by decide +kernel, by decide, by decide, rfl, rfl, rfl, by decide, by decide, rfl, rfl, rfl, rfl, rfl, rfl, rfl, rfl,
    by rw [if_neg (by decide)], by rw [if_neg (by decide)]; exact ⟨rfl, rfl, rfl⟩⟩, by decide +kernel, by decide +kernel, rfl⟩

/-- The head of a queue. -/
def headOp (which : Nat) (started : Bool) : MatOp :=
  { id := 20, op := 21, which := which, ctx := 1, acc := 0, a := 4, b := 5, b2 := 6, recA := 5, recB := 5, entryA := 0x8C2E0FE000000000
    entryB := 0x8C2E0FE000000000, entryB2 := 0x8C2E0FE000000000, md := 0xA5, fence := 0x4000, started := started
    results := if started then [(0, 7), (129, 8)] else [] }

def executing (o : MatOp) : State :=
  { matrixed 4 5 0 { myDom with queue := [o] } with ops := [(21, { agent := .slot 5 0, pip := some 2, pc := 0xFFC, word := 0, kind := .engine })] }

theorem witness_MatrixExecution : let dk := dominoKey 0 0 0
    ((executing (headOp 0 false)).domino dk).queue = headOp 0 false :: [] ∧ classOf (fmtOf (headOp 0 false).entryA) = some .s
    ∧ ((executing (headOp 0 false)).domino dk).testDue = false ∧ (headOp 0 false).fenceWaits = false
    ∧ (headOp 0 false).fills.all (executing (headOp 0 false)).fillDone = true
    ∧ (headOp 0 false).stores = [] ∧ (executing (headOp 0 false)).wordAhead dk (headOp 0 false).at_ = false
    ∧ (headOp 2 false).dead = false
    ∧ (∃ n t, (executing (headOp 2 false)).readFence dk (headOp 2 false) = .word n t)
    ∧ (∃ n t, (executing (headOp 2 true)).readFence dk (headOp 2 true) = .word n t)
    ∧ (headOp 0 true).acc2 ≠ some (headOp 0 true).acc ∧ ((headOp 0 true).results.map Prod.fst).Nodup
    ∧ ({ headOp 2 true with nr := some 3 } : MatOp).nr = some 3
    ∧ ∃ op, SMap.find (executing (headOp 0 true)).ops 21 = some op ∧ Completes (executing (headOp 0 true)) op :=
  ⟨rfl, by decide, by decide, rfl, rfl, rfl, rfl, rfl, ⟨_, _, rfl⟩, ⟨_, _, rfl⟩, by decide, by decide, rfl, _, rfl,
    rfl, rfl, rfl, rfl, rfl, rfl, rfl, rfl⟩

theorem witness_MatrixSums : isOf 0 = false ∧ isOf 0x4000 = true := by decide

theorem witness_Accumulators : let s := (matrixed 4 5).setHart world.cur { hart with sregs := [(1, 0), (2, 0x18000), (3, 0x8000)] }
    s.need ([1, 2] ++ s.guardRegs) = .ok () ∧ bits (s.readS 2) 63 17 = 0 ∧ (s.readS 2).getLsbD 7 = false ∧ (s.readS 2).getLsbD 16 = true
    ∧ (s.readS 3).getLsbD 16 = false ∧ (s.readS 1).toNat % 2 = 0 ∧ s.liveAcc (s.readS 1).toNat = .ok 0 ∧ s.liveAcc 1 = .ok 1
    ∧ s.needRegs [4, 5] = .ok () ∧ s.need [] [4, 5] = .ok () ∧ (myDomino s).badElem [0, 1] (s.readS 2) (lanesList s.acting) = none
    ∧ s.accQueued s.dominoHere [0, 1] (s.arrived s.dominoHere 0) = false ∧ s.storesOf s.dominoHere [0, 1] (s.arrived s.dominoHere 0) = []
    ∧ s.needClean [4, 5] s.acting = .ok ()
    ∧ (executing (headOp 0 false)).accQueued (executing (headOp 0 false)).dominoHere [0] 1 = true :=
  ⟨rfl, by decide, by decide, by decide, by decide, by decide, rfl, rfl, rfl, rfl, by decide +kernel, by decide +kernel,
    by decide +kernel, rfl, by decide +kernel⟩

theorem witness_DominoUpkeep : (myDomino (matrixed 4 5)).queue = [] ∧ (myDomino (matrixed 4 5)).testDue = false ∧ (matrixed 4 5).cmds = []
    ∧ ((matrixed 4 5).placeOf (matrixed 4 5).cur).2.2 % 2 = 0 ∧ (15 : BitVec 24).toNat < 16 ∧ 16 ≤ (16 : BitVec 24).toNat
    ∧ (myDomino (matrixed 4 5)).fenced.getLsbD 15 = false
    -- `mtest` of 15 is at the head of the queue; an operation reached it before
    ∧ (let o : MatOp := { headOp 4 false with a := 15 }
       let E : Domino := { myDom with queue := [o] }
       let s : State := { matrixed 4 5 0 E with cycle := 9 }
       E.testDue = false ∧ E.fenced.getLsbD 15 = false ∧ o.at_ < s.arrived s.dominoHere 1)
    ∧ (let E : Domino := { myDom with opseq := 256, fenced := 0xC000, next := 14 }
       E.testDue = true ∧ (∀ o ∈ E.queue, o.started = false) ∧ (∀ m, m < 2 → E.fenced.getLsbD ((E.next + m) % 16) = true)
       ∧ 0 = (E.next + 2) % 16 ∧ E.fenced.getLsbD 0 = false)
    ∧ (let E : Domino := { myDom with slots := [(4, { opslot 5 with st := .releasing, relOp := some 21 })] }
       (E.slot 4).st = .releasing ∧ (E.slot 4).fills = [] ∧ ∀ o ∈ E.queue, 4 ∈ o.slots → o.started = true ∧ o.which ≠ 2) := by decide +kernel

/-! Fills and stores: an fp32 tensor of 64 by 32 elements; a request at 0x4100 for 4 rows from row 60. -/

def tensorGrid : Tensor :=
  { live := true, gen := 1, fmt := 5, entry := 0x8C2E0FE000000000, widths := [6, 5], extents := [64, 32], base := 0x8000, rows := (List.range 11).map fun i => BitVec.ofNat 64 (2 ^ i) }

def requestWords (first : Nat) : Nat := 2 ^ 64 * (first * 2 ^ 8 + 3 * 2 ^ 16 + 1 * 2 ^ 28) + 0

def filling (first : Nat) (d : Dword := 0x1003) (slots : Domino := myDom) : State :=
  let s := matrixed 4 5 0 slots
  ({ s with tensors := [(tensorKey 0 1 3, tensorGrid)], mem := Mem.write [] 0x4100 32 (requestWords first) } : State).setHart world.cur
    { hart with sregs := [(1, handle 4), (2, 0x4100), (3, d), (4, 0)] }

theorem witness_FillRequests_fill : Ready (filling 60) [3, 1, 2] ∧ (filling 60).queued (filling 60).dominoHere < 32
    ∧ (filling 60).needPip (filling 60).setB = .ok () ∧ (filling 60).liveSlot ((filling 60).readS 1) = .ok (opslot 5)
    ∧ (∃ q t key T, (filling 60).fillRequest ((filling 60).readS 2) = .ok (q, t) ∧ t.handle ((filling 60).readS 3) = .ok (key, T)
      ∧ requestBad T q = false ∧ fillStatus T q (opslot 5).record = 0 ∧ storeStatus T q = 0)
    ∧ (∃ q t key T, (filling 125).fillRequest ((filling 125).readS 2) = .ok (q, t) ∧ t.handle ((filling 125).readS 3) = .ok (key, T)
      ∧ requestBad T q = false ∧ recRows (opslot 5).record < bits (q.getD 1 0) 14 8 + bits (q.getD 1 0) 22 16 + 1) :=
  ⟨rfl, by decide +kernel, rfl, rfl, ⟨_, _, _, _, rfl, rfl, by decide +kernel, by decide +kernel, by decide +kernel⟩,
    _, _, _, _, rfl, rfl, by decide +kernel, by decide +kernel⟩

theorem witness_FillRequests_block : let s := { filling 60 (handle 4) with patterns := [(partKey 0 0 0 0 * 16 + 0, { rows := identityRows, sig := 0, ctx := 1 })] }
    s.liveSlot (s.readS 3) = .ok (opslot 5) ∧ (s.readS 4).toNat < 2 ^ 11 ∧ (16 : BitVec 8).toNat ≤ 216
    ∧ (∃ p, s.pattern ((s.readS 4).toNat % 16) = some p ∧ p.ctx = s.ctxOf s.cur ∧ p.rows.length = 11)
    ∧ s.needRegs ((List.range 8).map (16 + ·)) = .ok () ∧ s.need [] ((List.range 8).map (16 + ·)) = .ok ()
    ∧ s.needClean ((List.range 8).map (16 + ·)) (BitVec.allOnes 64) = .ok () ∧ s.recEntry (opslot 5).record = .ok 0x8C2E0FE000000000
    ∧ (fmtOf 0x8C2E0FE000000000).kind ≠ 3 ∧ classOf (fmtOf 0x8C2E0FE000000000) = some .s
    ∧ MClass.s.depth * elemBits (fmtOf 0x8C2E0FE000000000) = 512 ∧ (s.readS 4).toNat / 16 + 32 ≤ recRows (opslot 5).record :=
  ⟨rfl, by decide, by decide, ⟨_, rfl, rfl, rfl⟩, rfl, rfl, rfl, rfl, by decide, by decide, by decide, by decide⟩

theorem witness_FillRequests_store : let s := (filling 60).setHart world.cur { hart with sregs := [(1, 1), (2, 0x4100), (3, 0x1003), (5, 8)] }
    (s.readS 1).toNat < 16 ∧ (s.readS 1).getLsbD 3 = false ∧ s.liveAcc ((s.readS 1).toNat % 8) = .ok 1
    ∧ rmOf (modeOf s) ≠ 5 ∧ rmOf (modeOf (withSlot { slot with pmode := some 0x14A5 } s)) = 5
    ∧ sfRecord s = 0x8C2E0FE000000000 ∧ (s.readS 5).getLsbD 3 = true ∧ s.liveAcc 0 = .ok 0
    ∧ ∃ q t key T, s.fillRequest (s.readS 2) = .ok (q, t) ∧ t.handle (s.readS 3) = .ok (key, T) ∧ storeStatus T q = 0 :=
  ⟨by decide, by decide, rfl, by decide, by decide +kernel, by decide, by decide, rfl, _, _, _, _, rfl, rfl, by decide +kernel⟩

/-- A fill in flight for slot 4: of the tensor, or of a block of registers. -/
def fillCmd (block : Option (Nat × Nat)) : Cmd :=
  { chain := 2 ^ 61 + dominoKey 0 0 0, ctx := 1, app := { va := 0, ticket := 1, op := some 21 }, started := true, checked := true
    words := [0, 4], req := (List.range 4).map (dwordOf (requestWords 60))
    fill := some { dom := dominoKey 0 0 0, slot := 4, gen := 1, tensor := tensorKey 0 1 3, tgen := 1, fentry := 0x8C2E0FE000000000, block := block } }

def landing (block : Option (Nat × Nat)) : State :=
  { filling 60 0x1003 { myDom with slots := [(4, { opslot 5 with st := .filling, fills := [9] })] } with cmds := [(9, fillCmd block)] }

theorem witness_FillCompletion : SMap.find (landing none).cmds 9 = some (fillCmd none) ∧ (fillCmd none).live = true ∧ (fillCmd none).kind = 4
    ∧ (fillCmd none).entries = 0
    ∧ (∀ b ∈ [none, some (5, 96)], ∃ f, (fillCmd b).fill = some f ∧ f.landed = false ∧ (landing b).aheadDone f = true ∧ f.block = b)
    ∧ (∃ f T, (fillCmd none).fill = some f ∧ (landing none).fillTensor f = some T ∧ (landing none).passRuns T = false ∧ T.f.kind ≠ 3
      ∧ recKind (opslot 5).record ≠ 2) := by
  refine ⟨rfl, by decide, by decide, rfl, ?_, ⟨_, _, rfl, rfl, rfl, by decide, by decide⟩⟩
  intro b hb
  fin_cases hb
  · exact ⟨_, rfl, rfl, rfl, rfl⟩
  · exact ⟨_, rfl, rfl, rfl, rfl⟩

theorem witness_FillCompletion_read : ∃ f, (fillCmd none).fill = some f ∧
    (match ((landing none).handleTurn 9 f).readAll 9 (((((List.range 4).map
        (tensorGrid.rowElems (fillCmd none).req (opslot 5).record)).flatMap fun l => l.filterMap fun e => e).map
        fun e => (e.va, e.n)).dedup) with
      | .ok x => decide (x.1.length = 64)
      | .error _ => false) = true := ⟨_, rfl, by decide +kernel⟩

/-! Boards: windows 0 of core 0's board belongs to context 1; slot 3 is armed on bits 0 and 1. -/

def boarded : State :=
  ({ queued_ with
     boards := [(0, { owners := [(0, 1)], bits := [(0, 2)], triggers := [(3, { record := [0, 0, 3, 4], ctx := 1 })], failed := [(9, 1)] })]
     mem := Mem.write [] 0x4000 32 (natOfDwords [0, 0, 5, 4]) } : State).setHart world.cur
    { hart with sregs := [(1, 0x8000000000000000), (2, 1), (4, 4), (5, 5), (6, 0x4000), (8, 3), (9, 2), (10, 0x7F * 2 ^ 13)] }

theorem witness_Boards : Ready boarded [7, 1, 2] ∧ boarded.groupAccessInFlight = false ∧ boarded.targetCore (boarded.readS 1) = some 0
    ∧ SMap.find (boarded.board 0).owners (bits (boarded.readS 1) 21 20) = some 1 ∧ boarded.targetCore (boarded.readS 10) = none
    ∧ SMap.find (boarded.board boarded.coreHere).owners ((boarded.readS 11).toNat % 4) = some 1 ∧ (boarded.readS 11).toNat < 4
    ∧ boarded.readS 4 = 4 ∧ boarded.readS 5 = 5 ∧ 6 ≤ (boarded.readS 1).toNat
    -- window 1 is not allotted; a bit of window 1 of this core
    ∧ SMap.find (boarded.board boarded.coreHere).owners ((boarded.readS 2).toNat % 4) ≠ some 1 ∧ (boarded.readS 2).toNat < 4
    ∧ (let w : Dword := 0x8000000000100000
       boarded.targetCore w = some 0 ∧ SMap.find (boarded.board 0).owners (bits w 21 20) ≠ some 1)
    -- trig: slot 3 is armed, slot 4 is not; 2 is no operation; a record at s6
    ∧ boarded.readS 2 = 1 ∧ (∃ x, SMap.find (boarded.board boarded.coreHere).triggers ((boarded.readS 8).toNat % 32) = some x ∧ x.ctx = 1)
    ∧ SMap.find (boarded.board boarded.coreHere).triggers ((boarded.readS 4).toNat % 32) = none ∧ 2 ≤ (boarded.readS 9).toNat
    ∧ boarded.readS 11 = 0
    ∧ (∃ x l t, boarded.scalarRead (boarded.readS 6) 32 32 = .ok (x, l, t)
      ∧ ((BitVec.ofNat 64 (x / 2 ^ 192) : Dword).toNat < 8 ∧ (BitVec.ofNat 64 (x / 2 ^ 128) : Dword) ≠ 0)
      ∧ SMap.find (t.board boarded.coreHere).owners (bits (BitVec.ofNat 64 (x / 2 ^ 192)) 1 0) = some 1
      ∧ SMap.find (t.board boarded.coreHere).triggers 0 = none
      ∧ SMap.find (t.board boarded.coreHere).owners 1 ≠ some 1)
    ∧ (∃ x l t, boarded.scalarRead 0x4020 32 32 = .ok (x, l, t) ∧ (BitVec.ofNat 64 (x / 2 ^ 128) : Dword) = 0)
    -- the firing test of slot 3
    ∧ ((boarded.board 0).window 0 &&& 3 ≠ 3 ∧ (2 ||| boarded.readS 2) &&& 3 = (3 : Dword)) :=
  ⟨rfl, rfl, rfl, rfl, rfl, rfl, by decide, by decide, by decide, by decide, by decide, by decide, ⟨by decide, by decide⟩,
    by decide, ⟨_, rfl, rfl⟩, rfl, by decide, by decide,
    ⟨_, _, _, rfl, by decide +kernel, by decide +kernel, by decide +kernel, by decide +kernel⟩, ⟨_, _, _, rfl, by decide +kernel⟩,
    by decide, by decide⟩

/-- Every slot of a board is armed. -/
theorem witness_Boards_full : ∀ n, n < 32 → SMap.find ((List.range 32).map fun n => (n, ({ record := [], ctx := 1 } : Trigger))) n ≠ none := by decide

/-! Tile records. -/

def tiled (g : Option Nat) (t : Tile) : State := { world with groups := [(5, { group with tile := g })], tiles := [(30, t)] }
def openTile : Tile := { gid := 5, pkg := 0, die := 0, core := 0, ctx := 1, tile := 9, t0 := 0 }

theorem witness_TileRecords : Ready world [7, 2] ∧ (group).tile = none ∧ world.pendingTiles 0 0 0 < 64
    ∧ ((tiled (some 30) openTile).group 5).tile = some 30
    ∧ (let s := { world with tiles := (List.range 64).map fun n => (n + 30, { openTile with seq := some n, work := [1] }) }
       64 ≤ s.pendingTiles 0 0 0)
    ∧ (let T := { openTile with seq := some 0 }
       SMap.find (tiled none T).tiles 30 = some T ∧ T.seq ≠ none ∧ T.work = []
       ∧ ∀ e ∈ (tiled none T).tiles, ¬ (e.2.completeAt < T.completeAt ∨ (e.2.completeAt = T.completeAt ∧ e.1 < 30))) :=
  ⟨rfl, rfl, by decide +kernel, rfl, by decide +kernel, rfl, by decide, rfl, by decide +kernel⟩

/-! Tensors: a descriptor at 0x4000 of 64 by 32 fp32 elements in order. -/

def described (entries : SMap Tensor) : State :=
  ({ world with
     tensors := entries
     mem := Mem.write [] 0x4000 (64 + 88) (natOfDwords ([BitVec.ofNat 64 (5 + 2 ^ 5), 6 + 2 ^ 6 * 5, 2047, 0, 0x8000, 0, 0, 0]
       ++ (List.range 11).map fun i => BitVec.ofNat 64 (2 ^ i))) } : State).setHart world.cur { hart with sregs := [(1, 0x4000), (3, 0x1003), (4, 0x40), (5, 0x8A)] }

theorem witness_Tensors : Ready (described []) [7, 1, 2] ∧ ((described []).readS 1).toNat % 64 = 0
    ∧ (∃ h t, (described []).readDwords ((described []).readS 1) 8 = .ok (h, t)
      ∧ (okAnd (t.readDwords ((described []).readS 1 + 64) (((List.range 6).map fun i => bits (h.getD 1 0) (6 * i + 5) (6 * i)).sum)) fun x =>
          descStatus h x.1 (describe h x.1 ((described []).fmtHere (bits (h.getD 0 0) 4 0))) == 0
          && ((described []).fmtHere (bits (h.getD 0 0) 4 0)).getLsbD 63) = true)
    ∧ ((described []).tensor (tensorKey 0 1 0)).live = false
    ∧ (let s := described [(tensorKey 0 1 3, tensorGrid)]
       s.liveTensor 0 1 (s.readS 3) = some (tensorKey 0 1 3, tensorGrid) ∧ 0x40 ≤ (s.readS 4).toNat ∧ (s.readS 4).toNat < 0x40 + tensorGrid.n
       ∧ (s.readS 5).toNat < 0x80 + tensorGrid.n ∧ tensorGrid.n ≤ 40 ∧ s.handleBusy (tensorKey 0 1 3) = false ∧ s.liveTensor 0 1 (s.readS 1) = none)
    ∧ ((described []).readS 3).toNat % 64 ≠ 0 :=
  ⟨rfl, by decide, ⟨_, _, rfl, by decide +kernel⟩, rfl, ⟨rfl, by decide, by decide, by decide +kernel, by decide +kernel, rfl, rfl⟩, by decide⟩

/-- The descriptor's table entry has its rows; a matrix that reduces to the identity. -/
theorem witness_DescriptorChecks : (∀ h rows e, (describe h rows e).rows = rows) ∧ (gfOps 4 [3, 2, 4, 12]).isSome = true
    ∧ ([3, 2, 4, 12] : List Nat).length = 4 ∧ ∀ x ∈ ([3, 2, 4, 12] : List Nat), x < 2 ^ 4 :=
  ⟨fun _ _ _ => rfl, by decide, rfl, by decide⟩

/-! Chains: a descriptor at slice place 0x800, a command at 0x900, an event queue at 0xA00. -/

def window (place : Nat) : Dword := BitVec.ofNat 64 (2 ^ 40 * 0xF000 + place)

/-- The words of the descriptor and of the command. -/
def chained (desc cmd : List Dword) : State :=
  let mem := Mem.write (Mem.write [] (sliceBase + 0x800) 64 (natOfDwords desc)) (sliceBase + 0x900) 64 (natOfDwords cmd)
  ({ sliced with mem := mem } : State).setHart world.cur
    { hart with sregs := [(1, window 0x800), (2, window 0x900), (3, 1), (5, window 0xA00), (6, 0x4000)] }

def emptyDesc : List Dword := [0, 0, 6, 4, 2, 0, 0, 0]
def fillWords : List Dword := [0, 2, 0x55, 0x5000, 128, 0, 0, 0]

theorem witness_Chains_append : let s := chained emptyDesc fillWords
    Unlogged s ∧ Ready s [7, 1, 2] ∧ 2 ≤ (s.readS 2).toNat ∧ s.needPip s.setB = .ok () ∧ (s.readS 1).toNat % 64 = 0 ∧ (s.readS 2).toNat % 64 = 0
    ∧ (okAnd (s.appendEvents (s.readS 1) (s.readS 2)) fun r =>
        okAnd (({ r with nextId := r.nextId + 2 } : State).chainAt r.thread (s.readS 1)) fun (l, t) =>
          t.chainValid l.key && t.wordAt l.key 0 == 0 && t.wordAt l.key 1 == 0 && !t.chainHalted l.key && (t.chain l.key).running == none
          && okAnd (t.appendAt r.thread (s.readS 2) .write) fun (m, _) => decide (l.key + 64 ≤ m.key)) = true :=
  ⟨rfl, rfl, by decide, rfl, by decide, by decide, by decide +kernel⟩

/-- What the append to a chain at c of a command at k comes to: 0 it succeeds, 1 invalid, 2 no address, 3 misaligned, 5 a race. -/
def appendOutcome (s : State) (c k : Dword) : Nat :=
  match s.appendEvents c k with
  | .error (.trap x _) => if x.cause = 7 then 5 else 4
  | .error _ => 4
  | .ok r =>
    let app : Appended := r.appendedHere (r.nextId + 1) r.nextId (r.homeVa r.cur c)
    match ({ r with nextId := r.nextId + 2 } : State).chainAppend r.thread c k app with
    | .ok _ => 0
    | .error .invalid => 1
    | .error (.bad _) => 2
    | .error (.misaligned _) => 3
    | .error _ => 4

/-- Another agent has written this place, in memory that is checked. -/
def racedAt (key : Nat) (s : State) : State :=
  { s with
    units := (List.range 4).map fun i => (i, { ctx := 1, race := true })
    race := { active := true, hist := [(key, [written64 key])] } }

/-- An append succeeds; a reserved bit makes the descriptor invalid; 0x4000 is no slice address; a word of the descriptor, or
of the command, has been written by another agent. -/
theorem witness_Chains_outcomes : appendOutcome (chained emptyDesc fillWords) (window 0x800) (window 0x900) = 0
    ∧ appendOutcome (chained [0, 0, 6, 4, 2, 0, 1, 0] fillWords) (window 0x800) (window 0x900) = 1
    ∧ appendOutcome (chained emptyDesc fillWords) 0x4000 (window 0x900) = 2
    ∧ appendOutcome (chained emptyDesc fillWords) (window 0x800) (window 0x904) = 3
    ∧ appendOutcome (racedAt (sliceBase + 0x810) (chained emptyDesc fillWords)) (window 0x800) (window 0x900) = 5
    ∧ appendOutcome (racedAt (sliceBase + 0x938) (chained emptyDesc fillWords)) (window 0x800) (window 0x900) = 5 := by decide +kernel

/-- A resumption of the chain at s1: whether its descriptor is valid, and whether it is halted. -/
def resumes (s : State) (valid halted : Bool) : Bool :=
  okAnd (s.appendEvents (s.readS 1) (s.readS 9)) fun r => okAnd (r.chainAt r.thread (s.readS 1)) fun (l, t) =>
    t.chainValid l.key == valid && t.chainHalted l.key == halted

theorem witness_Chains_resume : let s := chained [0, 0, 6, 4, 0x102, 0, 0, 0] fillWords
    (s.readS 3).toNat < 2 ∧ (s.readS 9).toNat < 2 ∧ s.readS 9 = 0 ∧ resumes s true true = true
    ∧ resumes (chained emptyDesc fillWords) true false = true ∧ resumes (chained [0, 0, 6, 4, 2, 0, 0, 1] fillWords) false false = true := by
  decide +kernel

/-- An event queue at place 0xA00 with one record, first at place 0xB40. -/
def evented (head tail : Dword) (s : State := chained emptyDesc fillWords) : State :=
  { s with mem := Mem.write s.mem (sliceBase + 0xA00) 32 (natOfDwords [head, tail, window 0xB00, 1]) }

theorem witness_Chains_queue : (∃ l t, (chained emptyDesc fillWords).objectWord (window 0x800) 0x18 = .ok (l, t))
    ∧ (∃ l t, (evented 1 2).objectWord (window 0xA00) 8 = .ok (l, t))
    ∧ (∃ l t, ((evented 1 2).releaseSlot 4).slotObject (window 0xA00) .rmw = .ok (l, t)
      ∧ ((evented 1 2).wordAt l.key 0).toNat < ((evented 1 2).wordAt l.key 1).toNat
      ∧ window 0xB40 = (evented 1 2).wordAt l.key 2 + BitVec.ofNat 64 (64 * (((evented 1 2).wordAt l.key 0).toNat % 2 ^ bits ((evented 1 2).wordAt l.key 3) 4 0)))
    ∧ (∃ l t, ((evented 2 2).releaseSlot 4).slotObject (window 0xA00) .rmw = .ok (l, t)
      ∧ ¬ ((evented 2 2).wordAt l.key 0).toNat < ((evented 2 2).wordAt l.key 1).toNat) :=
  ⟨⟨_, _, rfl⟩, ⟨_, _, rfl⟩, ⟨_, _, rfl, by decide +kernel, by decide +kernel⟩, _, _, rfl, by decide +kernel⟩

/-- The command of the chain, as kept at its append, and once it runs. -/
def appended : Appended := { id := 40, va := window 0x900, ticket := 7, op := some 21 }
def running (words : List Dword) (pos : Nat := 0) : Cmd :=
  { chain := sliceBase + 0x800, engine := 2, ctx := 1, app := appended, words := words, started := true, checked := true, pos := pos }
def engineOp : Op := { agent := .slot 5 0, pip := some 2, pc := 0xFFC, word := 0, kind := .engine }

def starting : State :=
  { chained [window 0x900, window 0x900, 7, 6, 2, 0, 0, 0] fillWords with
    chains := [(sliceBase + 0x800, { engine := 2, ctx := 1, appended := [appended] })], ops := [(21, engineOp)] }

theorem witness_CommandStarts : let key := sliceBase + 0x800
    (∃ ch, SMap.find starting.chains key = some ch ∧ ch.running = none ∧ starting.ctxRuns ch.pkg ch.ctx = true ∧ starting.engineLoad ch < 8
      ∧ starting.nextChain ch.engineKey = some key
      ∧ ch.appended.find? (fun a => a.va == starting.wordAt key 0) = some appended ∧ Untraced starting ch.pkg ch.die)
    ∧ key < 2 ^ 60 ∧ starting.chainValid key = true ∧ starting.chainHalted key = false ∧ starting.wordAt key 0 ≠ 0
    ∧ starting.cmds = [] ∧ appended.tile = none
    ∧ (∃ l t, starting.xlate ((running fillWords).who 40) appended.va .read = (.at l, t) ∧ (List.range 8).map (starting.wordAt l.key) = fillWords
      ∧ answersOk ((t.learnAll [(running fillWords).who 40] appended.know).raceAccess ((running fillWords).who 40) l 64 0 false) = true)
    ∧ (running fillWords).kind ≤ 2 ∧ (running fillWords).fieldsOk = true ∧ (running fillWords).misaligned = none ∧ (running fillWords).cred = false :=
  ⟨⟨_, rfl, rfl, rfl, by decide +kernel, by decide +kernel, by decide +kernel, rfl, rfl⟩, by decide +kernel, by decide +kernel,
    by decide +kernel, by decide +kernel, rfl, rfl, ⟨_, _, rfl, by decide +kernel, by decide +kernel⟩, by decide, by decide, by decide, by decide⟩

def runningWorld (c : Cmd) : State :=
  { starting with
    chains := [(sliceBase + 0x800, { engine := 2, ctx := 1, appended := [appended], running := some 40 })], cmds := [(40, c)] }

theorem witness_GranuleMoves : let c := running fillWords 1
    let d := running [0, 1, 0x4000, 0x5000, 128, 0, 0, 0] 1
    (c.kind = 2 ∧ (c.word 3 + BitVec.ofNat 64 (64 * c.pos)).toNat % 64 = 0
      ∧ ∃ dst w u, (runningWorld c).xlate (c.who 40) (c.word 3 + BitVec.ofNat 64 (64 * c.pos)) .write = (.at dst, w)
        ∧ w.raceAccess (c.who 40) dst 64 1 false = .ok u)
    ∧ (d.kind = 1 ∧ (d.word 2 + BitVec.ofNat 64 (64 * d.pos)).toNat % 64 = 0
      ∧ ∃ src t v dst w u, (runningWorld d).xlate (d.who 40) (d.word 2 + BitVec.ofNat 64 (64 * d.pos)) .read = (.at src, t)
        ∧ t.raceAccess (d.who 40) src 64 0 false = .ok v ∧ ((runningWorld d).gran src.key).poisoned = false
        ∧ v.xlate (d.who 40) (d.word 3 + BitVec.ofNat 64 (64 * d.pos)) .write = (.at dst, w) ∧ w.raceAccess (d.who 40) dst 64 1 false = .ok u) :=
  ⟨⟨by decide, by decide, _, _, _, rfl, rfl⟩, by decide, by decide, _, _, _, _, _, _, rfl, rfl, rfl, rfl, rfl⟩

theorem witness_CommandEnds : let c := running fillWords 1
    SMap.find (runningWorld c).cmds 40 = some c ∧ c.live = true ∧ c.kind = 2
    ∧ (match (runningWorld c).moveRest 40 ((c.word 4).toNat / 64 - c.pos) with
       | .ok t => (t.cmd 40).spills == [] && (t.cmd 40).entries == 0
       | .error _ => false) = true
    ∧ (running [0, 0, 0, 0, 0, 0, 0, 0]).kind = 0
    ∧ (let r : Cmd := { running [0, 3, 0, 0, 0, 0, 0, 0] with relay := some { tensor := 3, gen := 1, rows := [], newBase := 0, newRate := 0, phase := .check } }
       r.live = true ∧ r.kind = 3)
    ∧ (fillCmd none).live = true ∧ ({ fillCmd none with words := [0, 5] } : Cmd).kind = 5 :=
  ⟨rfl, by decide, by decide, by decide +kernel, by decide, ⟨by decide, by decide⟩, by decide, by decide⟩

theorem engineOp_completes (c : Cmd) : Completes (runningWorld c) engineOp := ⟨rfl, rfl, rfl, rfl, rfl, rfl, rfl, rfl⟩

theorem runningWorld_ready (c : Cmd) (h : c.app = appended) : OpReady (runningWorld c) c := by
  intro q o hq ho
  rw [h] at hq
  cases hq
  cases ho
  exact engineOp_completes c

theorem witness_CommandEnds_over : let c := running fillWords 2
    c.app.by_ = none ∧ c.chain < 2 ^ 60 ∧ c.status < 16 ∧ c.evt = false ∧ c.cred = false ∧ c.ben = false ∧ Untraced (runningWorld c) c.pkg c.die
    ∧ OpReady (runningWorld c) c ∧ isWindow c.app.va = true ∧ c.word 6 = 0 ∧ (runningWorld c).wordAt c.chain 5 = 0
    ∧ (∃ l t t', (runningWorld c).xlate (c.who 40) c.app.va .write = (.at l, t) ∧ (runningWorld c).xlate (c.who 40) c.app.va .read = (.at l, t')
      ∧ c.chain + 64 ≤ l.key
      ∧ answersOk (t.raceAccess (c.who 40) { l with key := l.key + 0x38, addr := l.addr + 0x38 } 1 1 false) = true)
    ∧ (okAnd (((runningWorld c).setCmd 40 c).writeStatus 40) fun t => answersOk (t.effectCompl 40)) = true
    ∧ ∃ a ∈ ((runningWorld c).chain c.chain).appended, a.id = 40 := by
  refine ⟨rfl, by decide +kernel, by decide, by decide, by decide, by decide, ⟨rfl, rfl⟩, runningWorld_ready _ rfl,
    by decide +kernel, by decide, by decide +kernel, ⟨_, _, _, rfl, rfl, by decide +kernel, by decide +kernel⟩, by decide +kernel,
    _, List.mem_cons_self, rfl⟩

/-- STATUS of the command, or COMPL of its chain, lies in checked memory that another agent has written. -/
def racedRun (key : Nat) : State :=
  { runningWorld (running fillWords 2) with
    units := (List.range 4).map fun i => (i, { ctx := 1, race := true })
    race := { active := true, hist := [(key, [written64 key])] } }

theorem witness_CommandEnds_race : let c := running fillWords 2
    answersOk (((racedRun (sliceBase + 0x938)).setCmd 40 c).writeStatus 40) = false
    ∧ (okAnd (((racedRun (sliceBase + 0x818)).setCmd 40 c).writeStatus 40) fun t => !answersOk (t.effectCompl 40)) = true := by
  decide +kernel

/-- A fill that credits a barrier; another agent has written the barrier, in memory that is checked. -/
def creditRun : Cmd := running [0, 2 + 2 ^ 13, 0x55, 0x5000, 128, window 0xC00, 0, 0] 2

theorem witness_CommandEnds_credit : let c := creditRun
    let s := racedAt (sliceBase + 0xC00) (runningWorld c)
    let s0 := s.tileEnd 40
    c.app.by_ = none ∧ c.evt = false ∧ c.ben = false ∧ c.cred = true
    ∧ (okAnd ((s0.setCmd 40 (s0.cmd 40)).writeStatus 40) fun t => okAnd (t.effectCompl 40) fun u => !answersOk (u.effectCredit 40 128)) = true := by
  decide +kernel

/-- A record on its way to the event queue; one or two records stand there. -/
def postCmd : Cmd := { running fillWords 2 with posting := true }
def postOf : EvPost := { cmd := 40, queue := window 0xA00, words := [1, 2, 3, 4, 5, 6, 7, 8] }
def posting (tail : Dword) : State := { evented 1 tail (runningWorld postCmd) with posts := [(60, postOf)] }

theorem witness_CommandEnds_post : SMap.find (posting 2).posts 60 = some postOf ∧ postOf.cmd = 40 ∧ postCmd.entries = 0
    ∧ ((posting 2).eventQueue 40 postOf.queue).map Loc.key = some (sliceBase + 0xA00)
    ∧ ((posting 2).wordAt (sliceBase + 0xA00) 1 - (posting 2).wordAt (sliceBase + 0xA00) 0).toNat < 2 ^ 1
    ∧ 2 ^ 1 ≤ ((posting 3).wordAt (sliceBase + 0xA00) 1 - (posting 3).wordAt (sliceBase + 0xA00) 0).toNat
    ∧ (match (posting 2).xlate (postCmd.who 40) (window 0xB40) .write with
       | (.at r, z) => decide (sliceBase + 0xA00 + 64 ≤ r.key ∧ postCmd.chain + 64 ≤ r.key)
           && okAnd (z.raceAccess (postCmd.who 40) r 64 1 false) fun y =>
              answersOk (((y.putBytes r.key 64 (natOfDwords postOf.words) postCmd.origin).release (postCmd.who 40) 4).engineStore
                (postCmd.who 40) { key := sliceBase + 0xA08, addr := 0xA08 } 3 postCmd.origin)
       | _ => false) = true
    ∧ ((runningWorld postCmd).eventQueue 40 0).isNone = true := by decide +kernel

/-! Relays: a tensor of 4 by 4 16-bit elements at window place 0x800; a request at 0x4100 swaps two rows of its matrix. -/

def tensorSmall : Tensor :=
  { live := true, gen := 1, fmt := 15, entry := 0x981E000000000000, widths := [2, 2], extents := [4, 4], base := window 0x800, rows := [1, 2, 4, 8] }

def relaying (rows : Nat) (relays : List Nat := []) : State :=
  ({ sliced with
     tensors := [(tensorKey 0 1 3, { tensorSmall with relays := relays })]
     mem := Mem.write [] 0x4100 32 rows } : State).setHart world.cur { hart with sregs := [(1, 0x1003), (2, 0x4100)] }

theorem witness_RelayRequests : Ready (relaying 0x8412) [7, 1, 2] ∧ (relaying 0x8412).needPip (relaying 0x8412).setB = .ok ()
    ∧ (relaying 0x8412).liveTensor 0 1 ((relaying 0x8412).readS 1) = some (tensorKey 0 1 3, tensorSmall)
    ∧ (okAnd ((relaying (2 + 2 ^ 16 + 4 * 2 ^ 32 + 8 * 2 ^ 48)).relayRequest tensorSmall 0x4100) fun x =>
        x.2.2.relayStatus tensorSmall x.1 x.2.1 == 0 && gfOps 4 (x.2.1.map BitVec.toNat) != none) = true
    ∧ (okAnd ((relaying (2 + 2 * 2 ^ 16 + 4 * 2 ^ 32 + 8 * 2 ^ 48)).relayRequest tensorSmall 0x4100) fun x =>
        x.2.2.relayStatus tensorSmall x.1 x.2.1 == 2 && gfOps 4 (x.2.1.map BitVec.toNat) == none) = true
    ∧ 8 ≤ ({ tensorSmall with relays := [40, 41, 42, 43, 44, 45, 46, 47] } : Tensor).relays.length :=
  ⟨rfl, rfl, rfl, by decide +kernel, by decide +kernel, by decide⟩

/-- A relay at its only pass, in a phase. -/
def passOf : Pass := { level := 0, ops := [(0, 1)] }
def relayCmd (ph : RelayPhase) : Cmd :=
  { chain := 2 ^ 60 + tensorKey 0 1 3, ctx := 1, app := { id := 40, va := 0, ticket := 1 }, started := true, checked := true, words := [0, 3]
    relay := some { tensor := tensorKey 0 1 3, gen := 1, rows := [3, 2, 4, 8], newBase := 0, newRate := 0, phase := ph, passes := [passOf] } }
def passing (ph : RelayPhase) : State := { relaying 0 [40] with cmds := [(40, relayCmd ph)] }

theorem witness_RelayPasses : (∀ ph ∈ [RelayPhase.factoring, .check, .run, .written], SMap.find (passing ph).cmds 40 = some (relayCmd ph)
      ∧ (relayCmd ph).live = true ∧ ((relayCmd ph).relay.map fun r => (r.phase, r.passes[r.done]?)) = some (ph, some passOf))
    ∧ ((passing .factoring).tensor (tensorKey 0 1 3)).relays.head? = some 40 ∧ (relayCmd .check).entries = 0 ∧ (relayCmd .written).spills = []
    ∧ (passing .check).ctxRuns 0 1 = true ∧ (passing .check).handleBusy (tensorKey 0 1 3) = false := by decide +kernel

/-- Its pages translate, its elements are read and written. -/
theorem witness_RelayPasses_moves :
    (∀ r, (relayCmd .run).relay = some r →
      let T := (passing .run).tensor (tensorKey 0 1 3)
      let M := T.after r passOf
      (match (passing .check).walkPages 40 .read (T.passReads M) with
        | .ok t => (match t.walkPages 40 .write (T.passDests M) with
          | .ok u => (u.cmd 40).entries == 0 && u.handleBusy (tensorKey 0 1 3) == false
          | .error _ => false)
        | .error _ => false) = true
      ∧ (match (passing .run).readAll 40 (T.passReads M) with
        | .ok x => (match x.2.writeAll 40 (T.passWrites M x.1) with
          | .ok u => (u.cmd 40).spills == [] && (T.passWrites M x.1).length == 8
          | .error _ => false)
        | .error _ => false) = true) := by
  intro r h
  cases h
  exact ⟨by decide +kernel, by decide +kernel⟩

/-! Collectives of int32: v6 and v7 hold addresses, v2 peers: package 0 in every lane of v3 but lane 2. -/

def collecting (setb : Nat := 15) : State :=
  let s := under 0 0 (world 15 setb)
  s.setGroup 5 { s.group 5 with regs := { vregs with v := [(5, vec fun _ => 0), (6, vec fun l => 0x4000 + 64 * l), (8, vec fun _ => 2 ^ 12)] } }

theorem witness_Collectives : let s := collecting
    (∃ F, s.sf [0, 1, 2] = .ok F ∧ F.c = 32) ∧ s.portOk 5 = true ∧ s.portOk 8 = true ∧ (6 : BitVec 8).toNat < 224 ∧ (6 : BitVec 8).toNat % 2 = 0
    ∧ s.needRegs ([6, 7, 5, 4]) = .ok () ∧ s.need (sregsOf 6 ++ sregsOf 5 ++ s.guardRegs) [6, 7, 5, 4] = .ok ()
    ∧ s.needClean [6, 7, 5, 4] s.memLanes = .ok () ∧ s.needPip s.setB = .ok ()
    ∧ (∀ l, l < 64 → s.active.getLsbD l = true → (s.vsrc 5 l).toNat / 2 ^ 14 = 0 ∧ (s.vsrc 5 l).toNat / 2 ^ 10 % 4 = 0 ∧ (s.vsrc 5 l).toNat / 2 ^ 12 % 4 = 0)
    ∧ (∀ l, l < 64 → s.active.getLsbD l = true → (s.vsrc 8 l).toNat / 2 ^ 14 = 0 ∧ (s.vsrc 8 l).toNat / 2 ^ 12 % 4 = 1) :=
  ⟨⟨_, rfl, by decide⟩, by decide +kernel, by decide +kernel, by decide, by decide, rfl, rfl, rfl, rfl, by decide +kernel, by decide +kernel⟩

def collectReqs (s : State) (b : BitVec 8) : List LaneReq := (lanesList s.memLanes).map fun l =>
  { lane := l, va := s.vsrcPair 6 l, n := 4, reg := 4, data := s.elemOf 4 4 l % 2 ^ 32, peer := (s.vsrc b l).toNat % 2 ^ 10, op := (s.vsrc b l).toNat / 2 ^ 12 % 4 }

/-- Each of the three performs at its peers, waited for or counted. -/
def Collects (s : State) (which : Nat) (access : AccKind) (b : BitVec 8) : Bool :=
  let o : Op := { s.opHere s.setB (.collective which (sfRecord s) (modeOf s)) with pendV := if which = 1 then [4] else [] }
  okAnd (s.locate o access (collectReqs s b)) fun x => x.2.1 == [] &&
    (match x.2.2.performPeers o x.1 with
     | .ok y => y.1.bad.isNone
     | .error _ => false)

theorem witness_Collectives_performed : Collects (collecting) 0 .write 5 = true ∧ Collects (collecting) 1 .read 5 = true
    ∧ Collects (collecting) 2 .rmw 5 = true ∧ Collects (collecting) 2 .rmw 8 = true ∧ Collects (collecting 4) 1 .read 5 = true
    ∧ (collecting).setB = none ∧ (collecting 4).setB = some 4 ∧ (∀ r ∈ collectReqs (collecting) 5, r.va.toNat % 4 = 0) := by decide +kernel

/-- The peer is package 1: v6 and v7 are the addresses of its unit. -/
def collectingAway (setb : Nat := 15) : State :=
  let s := twin (collecting setb)
  s.setGroup 5 { s.group 5 with
    regs := { vregs with v := [(5, vec fun _ => 1), (6, vec fun l => 0x40000000 + 64 * l), (7, vec fun _ => 0x00F00000), (8, vec fun _ => 2 ^ 12 + 1)] } }

/-- All peers are in another package; the lanes of its own package, none, perform. -/
def CollectsAway (s : State) (which : Nat) (access : AccKind) (b : BitVec 8) : Bool :=
  let o : Op := { s.opHere s.setB (.collective which (sfRecord s) (modeOf s)) with pendV := if which = 1 then [4] else [] }
  okAnd (s.locate o access (collectReqs s b)) fun x => x.2.1 == [] && x.1.length == 4 && x.1.all (fun y => s.away s.cur y.2)
    && okAnd (x.2.2.performPeers o []) fun y => y.1.bad.isNone

theorem witness_CollectivesSentAway : CollectsAway (collectingAway) 0 .write 5 = true ∧ CollectsAway (collectingAway 4) 1 .read 5 = true
    ∧ CollectsAway (collectingAway) 2 .rmw 5 = true ∧ CollectsAway (collectingAway) 2 .rmw 8 = true
    ∧ (∀ r ∈ collectReqs (collectingAway) 5, r.va.toNat % 4 = 0)
    ∧ (∀ l, l < 64 → (collectingAway).active.getLsbD l = true → ((collectingAway).vsrc 5 l).toNat = 1) := by decide +kernel

/-- On the way back. -/
theorem witness_CollectivesSentAway_return : ∀ which, which ∈ [0, 1, 2] →
    let k : OpKind := .collective which 0x983E000000000000 0
    (comingBack k).stopOf (.slot 5 0) = none ∧ ((comingBack k).group 5).regs.poison = [] ∧ ((comingBack k).group 5).regs.lost = []
    ∧ (SMap.find (comingBack k).ops 7).any (fun o => o.reqs != [] && o.entries == 0 && o.cb.isNone && o.tensor.isNone && !o.due
        && o.ends.isNone && o.bad.isNone && okAnd ((comingBack k).performPeers { o with reqs := [] } (o.reqs.map fun r => (r, r.loc))) fun x =>
          x.1.bad.isNone && decide ((x.1.fills.map fun f => (f.1, f.2.1)).Nodup)) = true := by decide +kernel

/-! Traps: context 1 has a pool of 4 save records at 0x100000; the group's handler is at 0x8000. -/

def pooled : State :=
  { world with
    ctxs := [(0, { direct := true }), (1, { opened := true, direct := true, srs := [(0x57, 0x9000)], queues := [(3, {})] })]
    mem := Mem.write [] 0x9080 16 (0x100000 + 4 * 2 ^ 64) }

def trapOf (cause : Nat) : TrapInfo := { cause := cause, tpc := 0x1004, resume := 0x1008, addr := 0x77, word := 0x12345678, done := 1 }

def trapped (cause : Nat) (traph : Dword) (handler : Bool := false) : State :=
  pooled.setGroup 5 { group with
    hart := { hart with handler := handler }, regs := {}
    trap := { traph := traph, pending := some (trapOf cause) } }

theorem witness_TrapEntry : ((trapped 15 0x8000).group 5).trap.pending = some (trapOf 15) ∧ ((trapped 15 0x8000).group 5).trap.escalated = none
    ∧ ((trapped 15 0x8000).group 5).parked = 0 ∧ (trapped 15 0x8000).spillBusy 5 = false ∧ (trapped 15 0x8000).isStopped (.slot 5 0) = false
    ∧ ((trapped 15 0x8000).group 5).hart.handler = false ∧ (trapped 15 0x8000).takeRecord 5 = some 0x100000 ∧ ((trapped 15 0x8000).group 5).trap.traph ≠ 0
    ∧ ((trapped 15 0x8000).partSt ((trapped 15 0x8000).group 5).partKey).trc.getLsbD 1 = false
    ∧ ((trapped 15 0).group 5).trap.traph = 0 ∧ ((trapped 15 0x8000 true).group 5).hart.handler = true := by decide +kernel

theorem witness_TrapEntry_stored : ∀ c ∈ [15, 17],
    (match (trapped c 0x8000).hwStore ((trapped c 0x8000).groupWho 5 0) 0x100000 (blocks8 48 (frameImage ((trapped c 0x8000).group 5) (trapOf c) false)) with
     | .ok _ => true
     | .error _ => false) = true := by decide +kernel

/-- The state that a meaning leaves. -/
def after (o : Answer) : State :=
  match o with
  | .next t => t
  | _ => {}

/-- A frame at the first record of the pool: md; slot 0 running at 0x1008 with lanes 0 to 3, slot 1 FREE (R350). -/
def framed (pc : Nat := 0x1008) : SMap Byte :=
  [(5, 0xA500000000), (10, pc), (11, 0xF), (12, 0xF), (13, mpNone.toNat), (14, 2 ^ 25)].foldl (fun m e => Mem.write m (0x100000 + 8 * e.1) 8 e.2) pooled.mem

/-- A handler that returns from a trap. -/
def returning (inFlight : Bool := false) (pc : Nat := 0x1008) : State :=
  let s := pooled.setGroup 5 { group with hart := { hart with handler := true }, regs := {}, trap := { traph := 0x8000, record := some 0x100000 } }
  { s with
    mem := framed pc
    ops := if inFlight then [(7, { agent := .slot 5 0, pip := some 2, pc := 0xFFC, word := 0, kind := .store })] else [] }

/-- Block i of a frame at the record of the pool. -/
@[irreducible] def block (s : State) (i : Nat) : Nat :=
  match s.hwLoad (s.groupWho 5 0) (0x100000 + BitVec.ofNat 64 (64 * i)) 64 with
  | .ok (v, _) => v
  | .error _ => 0

/-- It reads, as zero where `zero` is set. -/
def blockReads (s : State) (zero : Bool) (i : Nat) : Bool :=
  match s.hwLoad (s.groupWho 5 0) (0x100000 + BitVec.ofNat 64 (64 * i)) 64 with
  | .ok (v, _) => !zero || v == 0
  | .error _ => false

theorem block_read {s : State} {z : Bool} {i : Nat} (h : blockReads s z i = true) :
    ∃ t, s.hwLoad (s.groupWho 5 0) (0x100000 + BitVec.ofNat 64 (64 * i)) 64 = .ok (block s i, t) ∧ (z = true → block s i = 0) := by
  unfold blockReads at h
  unfold block
  generalize s.hwLoad (s.groupWho 5 0) (0x100000 + BitVec.ofNat 64 (64 * i)) 64 = x at h ⊢
  rcases x with _ | ⟨v, t⟩
  · cases h
  · exact ⟨t, rfl, fun hz => by simpa [hz] using h⟩

theorem block_next (i : Nat) : (0x100000 : Dword) + BitVec.ofNat 64 (64 * i) + 64 = 0x100000 + BitVec.ofNat 64 (64 * (i + 1)) := by
  rw [Nat.mul_add, BitVec.ofNat_add, BitVec.add_assoc, Nat.mul_one]; rfl

theorem load_cons {s : State} {w : Who} {va : Sys2Proof.Dword} {n v r : Nat} {t : State} (e : s.hwLoad w va 64 = .ok (v, t))
    (h : s.hwLoadBlocks w (va + 64) n = .ok r) : s.hwLoadBlocks w va (n + 1) = .ok (v + 2 ^ 512 * r) := by
  rw [State.hwLoadBlocks, e]
  show (match s.hwLoadBlocks w (va + 64) n with
      | .ok r => Except.ok (v + 2 ^ 512 * r)
      | .error e => .error e) = _
  rw [h]

theorem blocks_zero (s : State) : ∀ n i, (∀ j, j < n → blockReads s true (i + j) = true) →
    s.hwLoadBlocks (s.groupWho 5 0) (0x100000 + BitVec.ofNat 64 (64 * i)) n = .ok 0
  | 0, _, _ => rfl
  | n + 1, i, h => by
    obtain ⟨t, e, z⟩ := block_read (h 0 (by omega))
    have ih := blocks_zero s n (i + 1) fun j hj => by
      have := h (j + 1) (by omega)
      rwa [show i + (j + 1) = i + 1 + j by omega] at this
    rw [Nat.add_zero] at e z
    rw [← block_next] at ih
    have q := load_cons e ih
    rw [z rfl, Nat.mul_zero] at q
    exact q

/-- The words of a frame whose registers are all zero lie in its first four blocks. -/
def frameOf (s : State) : Nat := block s 0 + 2 ^ 512 * (block s 1 + 2 ^ 512 * (block s 2 + 2 ^ 512 * (block s 3 + 2 ^ 512 * 0)))

theorem blocks_cons {s : State} {i n v : Nat} (h : blockReads s false i = true)
    (r : s.hwLoadBlocks (s.groupWho 5 0) (0x100000 + BitVec.ofNat 64 (64 * (i + 1))) n = .ok v) :
    s.hwLoadBlocks (s.groupWho 5 0) (0x100000 + BitVec.ofNat 64 (64 * i)) (n + 1) = .ok (block s i + 2 ^ 512 * v) := by
  obtain ⟨t, e, -⟩ := block_read h
  rw [← block_next] at r
  exact load_cons e r

theorem frame_blocks {s : State}
    (h : ((List.range 4).all (blockReads s false) && (List.range 44).all fun j => blockReads s true (4 + j)) = true) :
    s.hwLoadBlocks (s.groupWho 5 0) 0x100000 48 = .ok (frameOf s) := by
  rw [Bool.and_eq_true, List.all_eq_true, List.all_eq_true] at h
  exact blocks_cons (h.1 0 (by decide)) (blocks_cons (h.1 1 (by decide)) (blocks_cons (h.1 2 (by decide)) (blocks_cons (h.1 3 (by decide))
    (blocks_zero s 44 4 fun j hj => h.2 j (by simpa using hj)))))

theorem frame_read {s : State} (hr : (s.group 5).trap.record = some 0x100000)
    (h : ((List.range 4).all (blockReads s false) && (List.range 44).all fun j => blockReads s true (4 + j)) = true) :
    s.frameHere 5 = .ok (frameOf s) := by
  have r := frame_blocks h
  unfold State.frameHere
  rw [hr]
  dsimp only [Option.getD]
  generalize frameOf s = x at r ⊢
  generalize s.hwLoadBlocks (s.groupWho 5 0) 0x100000 48 = y at r ⊢
  rw [r]

theorem witness_TrapReturn_group : ((returning).group 5).hart.handler = true ∧ ((returning).group 5).slot1.st = .free ∧ ((returning).group 5).trap.phase ≠ .save
    ∧ (returning).frameHere 5 = .ok (frameOf (returning))
    ∧ okAnd ((returning).frameOk (frameOf (returning))) (· == true) = true
    ∧ bits (frameWord (frameOf (returning)) 14) 26 25 = 1 ∧ bits (frameWord (frameOf (returning)) 20) 26 25 = 0
    ∧ (returning).groupAccessInFlight = false ∧ (returning true).groupAccessInFlight = true :=
  ⟨by decide +kernel, by decide +kernel, by decide +kernel, frame_read (by decide +kernel) (by decide +kernel), by decide +kernel, by decide +kernel,
    by decide +kernel, by decide +kernel, by decide +kernel⟩

/-- A frame whose slot 0 names a PC that is no word address is not valid; outside a handler `tret` is illegal. -/
def misreturning : State := returning false 3
theorem witness_TrapReturn_invalid : misreturning.frameHere 5 = .ok (frameOf misreturning)
    ∧ okAnd (misreturning.frameOk (frameOf misreturning)) (· == false) = true ∧ (world.group 5).hart.handler = false :=
  ⟨frame_read (by decide +kernel) (by decide +kernel), by decide +kernel, by decide +kernel⟩

theorem witness_TrapReturn_core : (coreWorld.core 0 8 0).hart.handler = false
    ∧ (let s := coreWorld.setHart coreWorld.cur { hart with handler := true }
       (s.core 0 8 0).hart.handler = true ∧ s.accessInFlight = false
       ∧ ({ s with ops := [(7, { agent := .sys 0 8 0, pip := some 2, pc := 0, word := 0, kind := .store })] } : State).accessInFlight = true) := by decide +kernel

theorem witness_SystemCoreTraps : (handledCore.core 0 8 0).hart.handler = false ∧ SMap.get (handledCore.core 0 8 0).hart.trap 0x49 0 ≠ 0
    ∧ SMap.get (coreWorld.core 0 8 0).hart.trap 0x49 0 = 0
    -- a counted load of poisoned data, all of which has come
    ∧ (let o : Op := { agent := .sys 0 8 0, pip := some 2, pc := 0xFFC, word := 0, kind := .scalar 1 9, bad := some (0, 0x4000, 6), due := true }
       let s : State := { handledCore with ops := [(7, o)] }
       s.dueOp (.sys 0 8 0) = some (7, o) ∧ (s.core 0 8 0).stop = none ∧ (s.core 0 8 0).halted = false) := by decide +kernel

/-! Escalation: the trap found no handler; the escalation ring is at 0xA000 of the service context. -/

def escalated (seq : Option Nat) : State :=
  let s := pooled.setGroup 5 { group with
    regs := {}, trap := { record := some 0x100000, escalated := some { reason := 0, second := 0, seq := seq, frame := 0x100000 } } }
  let s := { s with mem := framed }
  s.setPkg 0 { s.pkg 0 with srs := [(0x50, 0xA000), (0x52, 127)] }

def replyOf (action : Nat) : Dword := (group).identity + BitVec.ofNat 64 (4 * 2 ^ 32 + action * 2 ^ 48)

theorem witness_Escalations : ((escalated none).unposted 0).isSome = true
    ∧ (SMap.get ((escalated none).pkg 0).srs 0x52 0 - SMap.get ((escalated none).pkg 0).srs 0x51 0 : Dword).toNat < 128
    ∧ (match (escalated none).xlate (serviceWho 0) (0xA000 + BitVec.ofNat 64 (32 * 127)) .write with
       | (.at l, _) => l.key % 32 == 0
       | _ => false) = true
    ∧ ((escalated (some 4)).escalatedBy 0 (replyOf 0)).isSome = true ∧ bits (replyOf 0) 49 48 = 0
    ∧ ((escalated (some 4)).escalatedBy 0 (replyOf 1)).isSome = true ∧ bits (replyOf 1) 49 48 = 1 := by decide +kernel

/-- A suspension lacks room and has no group. -/
def shortWorld : State :=
  let s := { escalated none with groups := [] }
  s.setCtx 0 1 { s.ctx 0 1 with suspending := true, short := some none }

theorem witness_Escalations_short : shortWorld.unposted 0 = none ∧ shortWorld.shortContext 0 = some 1
    ∧ (SMap.get (shortWorld.pkg 0).srs 0x52 0 - SMap.get (shortWorld.pkg 0).srs 0x51 0 : Dword).toNat < 128
    ∧ (match shortWorld.xlate (serviceWho 0) (0xA000 + BitVec.ofNat 64 (32 * 127)) .write with
       | (.at l, _) => l.key % 32 == 0
       | _ => false) = true
    -- a stopped group that a reply resumes
    ∧ (let s := { escalated (some 4) with parts := [(0, { stop := some { code := 1 } })] }
       s.isStopped (.slot 5 0) = true ∧ (s.escalatedBy 0 (replyOf 0)).isSome = true) := by decide +kernel

/-- Resumed, the group's frame is valid, with slot 0 running and slot 1 FREE. -/
def resumed : State :=
  let s := escalated (some 4)
  { s.setGroup 5 { s.group 5 with trap := { (s.group 5).trap with escalated := some { reason := 0, second := 0, seq := some 4, frame := 0x100000, resuming := true } } } with
    cur := .slot 5 0, word := 0 }

theorem witness_Escalations_resume :
    ((escalated (some 4)).escalatedBy 0 (replyOf 0)).map (fun x => (x.1, x.2.2.reason)) = some (5, 0)
    ∧ resumed.groupAccessInFlight = false
    ∧ resumed.hwLoadBlocks (resumed.groupWho 5 0) 0x100000 48 = .ok (frameOf resumed) ∧ okAnd (resumed.frameOk (frameOf resumed)) (· == true) = true
    ∧ frameWord (frameOf resumed) 17 = 0 ∧ bits (frameWord (frameOf resumed) 20) 26 25 = 0 ∧ bits (frameWord (frameOf resumed) 14) 26 25 = 1
    ∧ frameWord (frameOf resumed) 11 &&& ~~~ (resumed.group 5).exited ≠ 0 :=
  ⟨by decide +kernel, by decide +kernel, frame_blocks (by decide +kernel), by decide +kernel, by decide +kernel, by decide +kernel,
    by decide +kernel, by decide +kernel⟩

/-! Saves: the group asked to stop, in its pre-emption handler, without one, and blocked on a barrier. -/

def asked (preempth : Dword) (life : Life := .running) : State :=
  pooled.setGroup 5 { group with
    life := life, regs := { granules := 2 }, slot0 := { slot with clause := none }, trap := { preempth := preempth, request := true } }

def saving : State :=
  pooled.setGroup 5 { group with
    hart := { hart with handler := true }, regs := {}, trap := { preempth := 0x8800, record := some 0x100000, phase := .save } }

def blockedLong : State :=
  { pooled.setGroup 5 { group with regs := {}, slot0 := { slot with block := some (.barrier (sliceBase + 32) 1) } } with cycle := 10 ^ 12 }

def preemptFrame (G : Group) : TrapInfo :=
  { cause := 16, tpc := if G.slot0.st = .free then G.slot1.pc else G.slot0.pc, resume := 0, done := G.slot0.done ||| G.slot1.done }

theorem witness_Saves : ((asked 0x8800).group 5).trap.request = true ∧ (asked 0x8800).isStopped (.slot 5 0) = false
    ∧ ((asked 0x8800).group 5).life = .running ∧ ((asked 0x8800 .placed).group 5).life = .placed ∧ ((asked 0x8800).group 5).hart.handler = false
    ∧ ((asked 0x8800).group 5).parked = 0 ∧ ((asked 0x8800).group 5).trap.pending = none ∧ ((asked 0x8800).group 5).trap.escalated = none
    ∧ ((asked 0x8800).group 5).trap.preempth ≠ 0 ∧ (asked 0x8800).atPoint ((asked 0x8800).group 5) = true
    ∧ ((asked 0x8800).group 5).trap.relaunching = false ∧ (asked 0x8800).groupDue 5 = false ∧ (asked 0x8800).spillBusy 5 = false
    ∧ (asked 0x8800).takeRecord 5 = some 0x100000
    ∧ answersOk ((asked 0x8800).hwStore ((asked 0x8800).groupWho 5 0) 0x100000 (blocks8 48 (frameImage
        { (asked 0x8800).group 5 with slot0 := { ((asked 0x8800).group 5).slot0 with block := none } } (preemptFrame ((asked 0x8800).group 5)) false))) = true := by
  decide +kernel

theorem witness_Saves_pdone : (world.group 5).hart.handler = false ∧ (saving.group 5).hart.handler = true ∧ (saving.group 5).trap.phase = .save
    ∧ saving.classAInFlight 5 = false ∧ answersOk (saving.saveScalars 5 0x100000) = true
    ∧ ({ saving with ops := [(7, { agent := .slot 5 0, pip := some 2, pc := 0, word := 0, kind := .store })] } : State).classAInFlight 5 = true := by decide +kernel

theorem witness_Saves_hardware : (asked 0).hwSaveDue 5 ((asked 0).group 5) = true ∧ (asked 0).classAInFlight 5 = false ∧ (asked 0).spillBusy 5 = false
    ∧ ((asked 0).group 5).trap.phase ≠ .save ∧ (asked 0).takeRecord 5 = some 0x100000
    ∧ (let s0 := (asked 0).setGroup 5 { (asked 0).group 5 with trap := { ((asked 0).group 5).trap with record := some 0x100000 } }
       okAnd (s0.hwStore (s0.groupWho 5 0) 0x100000 (blocks8 48 (frameImage ((asked 0).group 5) (preemptFrame ((asked 0).group 5)) true))) fun t =>
         okAnd (t.saveScalars 5 0x100000) fun u => answersOk (u.saveVectors 5 0x100000)) = true := by decide +kernel

/-- There is no save record left. -/
theorem witness_Saves_norecord : let s := (asked 0).setCtx 0 1 { opened := true, direct := true }
    s.hwSaveDue 5 (s.group 5) = true ∧ s.classAInFlight 5 = false ∧ s.spillBusy 5 = false ∧ s.takeRecord 5 = none := by decide +kernel

theorem witness_Saves_wait : (blockedLong.group 5).life = .running ∧ blockedLong.isStopped (.slot 5 0) = false ∧ (blockedLong.group 5).saveBlocked = true
    ∧ blockedLong.classAInFlight 5 = false ∧ 3 * (blockedLong.ctxReg 0 1 0x21).toNat < 2 * (blockedLong.cycle - (blockedLong.group 5).blockedFrom)
    ∧ blockedLong.takeRecord 5 = some 0x100000
    ∧ answersOk ((blockedLong.setGroup 5 { blockedLong.group 5 with trap := { (blockedLong.group 5).trap with record := some 0x100000 } }).saveScalars 5 0x100000)
      = true := by decide +kernel

/-! Suspension and the errors of the stores. -/

def savedWorld : State := pooled.setGroup 5 { group with life := .saved }
def suspendingWorld : State :=
  { savedWorld with ctxs := [(0, { direct := true }), (1, { opened := true, direct := true, suspending := true })] }

theorem witness_Suspension : SMap.find savedWorld.groups 5 = some (savedWorld.group 5) ∧ savedWorld.relaunchable 5 = true ∧ (savedWorld.relaunchCore 5 0).isSome = true
    ∧ (savedWorld.wg (savedWorld.group 5).wg).saved = none ∧ (savedWorld.group 5).trap.phase ≠ .save ∧ (savedWorld.group 5).trap.hwsave = false
    ∧ (world.ctx 0 1).suspended = false ∧ (world.ctx 0 1).suspending = false
    ∧ (suspendingWorld.ctx 0 1).suspending = true ∧ suspendingWorld.groupsLive 0 1 = 0 ∧ suspendingWorld.cmds = [] ∧ suspendingWorld.matrixBusy 0 1 = false
    ∧ 33 < 32 + 4 * ((world.group 5)).regs.granules := by decide +kernel

/-- No save area; then one at 0x9000 that gives the hardware state 2^48 bytes. -/
theorem witness_Suspension_room : suspendingWorld.ctxReg 0 1 0x57 = 0
    ∧ (∃ x, suspendingWorld.firstGroup 0 1 = some (5, x) ∧ x.trap.escalated = none)
    ∧ (let s := { suspendingWorld with groups := [] }
       s.firstGroup 0 1 = none ∧ (s.ctx 0 1).short = none)
    ∧ (let s : State := { suspendingWorld with
        ctxs := [(0, { direct := true }), (1, { opened := true, direct := true, suspending := true, srs := [(0x57, 0x9000)] })]
        mem := Mem.write suspendingWorld.mem 0x9090 8 (2 ^ 48) }
       s.ctxReg 0 1 0x57 = 0x9000
       ∧ (∃ size u, s.hwLoad (serviceWho 0) (0x9000 + 0x90) 8 = .ok (size, u)
          ∧ (Config.stateBytes (ctxKey 0 1) s.nextId).toNat ≤ size)
       ∧ answersOk (s.hwStore (serviceWho 0) 0x9000 (blocks8 2 ((List.range 16).map fun i => s.fmtRecord 0 1 (16 + i)))) = true)
    ∧ (let s := pooled.setCtx 0 1 { opened := true, direct := true, suspended := true, srs := [(0x57, 0x9000)] }
       (s.ctx 0 1).suspended = true ∧ answersOk (s.hwLoadBlocks (serviceWho 0) (s.ctxReg 0 1 0x57) 2) = true)
    -- window 2 of core 0's board was taken from it, and no other context has it
    ∧ (let s := pooled.setCtx 0 1 { opened := true, direct := true, suspended := true, srs := [(0x57, 0x9000)], boards := [(2, { bits := [(2, 5)] })] }
       (2, ({ bits := [(2, 5)] } : Board)) ∈ (s.ctx 0 1).boards ∧ SMap.find (s.board 0).owners 2 = none ∧ (s.board 0).triggers = []) := by
  refine ⟨by decide, ⟨_, rfl, rfl⟩, by decide, ⟨by decide, ?_, by decide +kernel⟩, ⟨by decide, by decide +kernel⟩, ?_⟩
  · generalize (Config.stateBytes _ _) = b
    obtain ⟨x, h, hx⟩ := exists_of_okAnd (p := fun x => x.1 == 2 ^ 48) (x := (({ suspendingWorld with
        ctxs := [(0, { direct := true }), (1, { opened := true, direct := true, suspending := true, srs := [(0x57, 0x9000)] })]
        mem := Mem.write suspendingWorld.mem 0x9090 8 (2 ^ 48) } : State).hwLoad (serviceWho 0) (0x9000 + 0x90) 8)) (by decide +kernel)
    exact ⟨x.1, x.2, h, by rw [beq_iff_eq.1 hx]; exact b.isLt.le⟩
  · decide +kernel

def loggedErrors (tail : Nat) : State := pooled.setPkg 0 { pooled.pkg 0 with srs := [(0x54, 0xC000), (0x56, BitVec.ofNat 64 tail)] }

theorem witness_Suspension_errors : ¬ 1024 ≤ (1023 : Dword).toNat ∧ (homeOf 0x7000).1 = 0
    ∧ 1024 ≤ (SMap.get ((loggedErrors 1024).pkg 0).srs 0x56 0 - SMap.get ((loggedErrors 1024).pkg 0).srs 0x55 0).toNat
    ∧ (SMap.get ((loggedErrors 1023).pkg 0).srs 0x56 0 - SMap.get ((loggedErrors 1023).pkg 0).srs 0x55 0).toNat < 1024
    ∧ (match (loggedErrors 1023).xlate (serviceWho 0) (0xC000 + BitVec.ofNat 64 (64 * 1023)) .write with
       | (.at l, _) => l.key / 64 != 0x7000 / 64 && l.key % 64 == 0
       | _ => false) = true := by decide +kernel

/-! Placement: one stream of context 1. -/

/-- A header of one workgroup with one group of four lanes (R128). -/
def oneHeader : List Dword := [0x1000, 0, 2, 3, 0, 0, 0, 0, BitVec.ofNat 64 (20 * 64), 1, 0, 0, 0, 0x8000, 0x8800, 0]
def streamOne : Nat := streamKey 0 1 3 2

/-- The stream holds one entry; `reserved` dominoes of each die are kept from it. -/
def placing (e : Entry) (reserved : Nat := 0) : State :=
  { pooled with
    pkgs := [(0, { on := true, booted := true, reserved := reserved, places := [(0, 128), (1, 129)] })]
    launches := [(50, { pkg := 0, ctx := 1, header := oneHeader })]
    streams := [(streamOne, { entries := [e] })], rotation := [streamOne] }

/-- The hypotheses of a placement hold, a plan exists, or none. -/
def Placeable (s : State) (e : Entry) (need : Need) (fits : Bool) : Bool :=
  let x := s.stream streamOne
  (s.pkg 0).on && s.gangHeld 0 == none && s.formed == [] && streamPkg streamOne == 0 && x.entries == [e]
    && decide (0 < x.deficit + 64 * (x.quantum : Int)) && !x.turn
    && (List.range 4).all (fun level => s.rotation.filter (s.served 0 level) == if level = streamPrio streamOne then [streamOne] else [])
    && (pickPlan (s.coresOf 0 (List.range 8)) (fun d c => s.planOn 0 d c need) 0).isSome == fits

theorem witness_Distribution :
    Placeable (placing (.cont 0x1000 0x77 0x88 [])) (.cont 0x1000 0x77 0x88 []) { groups := 1, bytes := 1024 } true = true
    ∧ Placeable (placing (.cont 0x1000 0x77 0x88 []) 44) (.cont 0x1000 0x77 0x88 []) { groups := 1, bytes := 1024 } false = true := by decide +kernel

theorem witness_Distribution_launch : let l := (placing (.launch 50)).launch 50
    l.pkg = 0 ∧ l.gang = 1 ∧ l.persist = false ∧ l.wgCount = l.placed + 1 ∧ l.extent 0 = 4 ∧ l.extent 1 = 1
    ∧ Placeable (placing (.launch 50)) (.launch 50) (l.need 50) true = true ∧ Placeable (placing (.launch 50) 44) (.launch 50) (l.need 50) false = true := by
  decide +kernel

theorem witness_Distribution_none : (let s := { placing (.launch 50) with ctxs := suspendingWorld.ctxs }
      ∀ j ∈ s.rotation, streamPkg j = 0 → (s.ctx 0 (streamCtx j)).suspending = true ∨ (s.ctx 0 (streamCtx j)).suspended = true)
    ∧ (State.reset.pkg 0).on = false := by decide +kernel

/-- A draining group; `other` groups beside it in its workgroup. -/
def draining (other : List Nat) (launch : Option Nat) (pips : SMap Nat := []) : State :=
  { placing (.cont 0 0 0 []) with
    groups := [(5, { group with life := .draining, hart := { hart with pips := pips } })]
    wgs := [(6, { ctx := 1, groups := 5 :: other, stream := streamOne, launch := launch, left_ := 100, bytes := 2048 })] }

theorem witness_Releases : (∀ l, l = none ∨ l = some 50 → ∀ o, o = [] ∨ o = [8] →
      SMap.find (draining o l).groups 5 = some ((draining o l).group 5) ∧ ((draining o l).group 5).life = .draining
      ∧ ((draining o l).group 5).hart.pipsZero = true ∧ ((draining o l).group 5).parked = 0 ∧ ((draining o l).wg 6).launch = l
      ∧ ((draining o l).wg 6).groups.erase 5 = o ∧ (SMap.find (draining o l).streams ((draining o l).wg 6).stream).isSome = true
      ∧ ((draining o l).coreSlice 0 0 0 0).isSome = true ∧ ((draining o l).wg 6).saved = none ∧ 1 < unitsIn ((draining o l).wg 6).bytes)
    ∧ ((draining [] none [(3, 1)]).group 5).hart.pipsZero = false := by
  refine ⟨?_, by decide +kernel⟩
  rintro l (rfl | rfl) o (rfl | rfl) <;> exact ⟨rfl, rfl, by decide +kernel, rfl, rfl, rfl, rfl, by decide +kernel, rfl, by decide +kernel⟩

/-! Fault records: the ring of context 0 at 0xB000; one entry of the group. -/

def faultOf (held : Parked) (seq : Option Nat) : FaultEntry :=
  { gid := some 5, pkg := 0, die := 0, core := 0, ctx := 1, va := 0x22222, kind := .read, cause := 0, held := held, idx := some 4, seq := seq }

/-- A counted word, whose pip counts it. -/
def countedFault : State :=
  { pooled with groups := [(5, { group with parked := 1, hart := { hart with pips := [(3, 1)] } })],
                faults := [{ faultOf (.reissue 0) (some 9) with pip := some 3 }] }

theorem witness_FaultRecords_counted : countedFault.entryOf 0 (BitVec.ofNat 64 (4 * 2 ^ 10 + 9 * 2 ^ 32))
      = some { faultOf (.reissue 0) (some 9) with pip := some 3 } := by decide +kernel

def faulting (held : Parked) (seq : Option Nat) (tail : Nat := 127) : State :=
  { pooled.setPkg 0 { pooled.pkg 0 with srs := [(0x102, 0xB000), (0x104, BitVec.ofNat 64 tail)] } with
    groups := [(5, { group with parked := 1 })], faults := [faultOf held seq] }

def faultReply (action : Nat) : Dword := BitVec.ofNat 64 (4 * 2 ^ 10 + action * 2 ^ 16 + 9 * 2 ^ 32)

theorem witness_FaultRecords_post : (faulting (.reissue 0) none).toPost 0 = some (faultOf (.reissue 0) none, 0)
    ∧ (SMap.get ((faulting (.reissue 0) none).pkg 0).srs 0x104 0 - SMap.get ((faulting (.reissue 0) none).pkg 0).srs 0x103 0).toNat < 128
    ∧ 128 ≤ (SMap.get ((faulting (.reissue 0) none 128).pkg 0).srs 0x104 0 - SMap.get ((faulting (.reissue 0) none 128).pkg 0).srs 0x103 0).toNat
    ∧ (match (faulting (.reissue 0) none).xlate (serviceWho 0) (0xB000 + BitVec.ofNat 64 (32 * 127)) .write with
       | (.at _, _) => true
       | _ => false) = true
    ∧ world.entryOf 0 (faultReply 0) = none := by decide +kernel

/-- One entry's reply: replay and reject name it. -/
theorem witness_FaultRecords_reply : ∀ h ∈ [Parked.reissue 0x20050001, .fence (dominoKey 0 0 0), .command 40, .lanes 7 [{ lane := 1, va := 0x4000, n := 4, reg := 4 }], .walk],
    (faulting h (some 9)).entryOf 0 (faultReply 0) = some (faultOf h (some 9)) ∧ (faulting h (some 9)).entryOf 0 (faultReply 1) = some (faultOf h (some 9))
    ∧ (faultReply 0).getLsbD 16 = false ∧ (faultReply 1).getLsbD 16 = true := by decide +kernel

def parkedOp (k : OpKind) : Op := { agent := .slot 5 0, pip := some 2, pc := 0xFFC, word := 0, kind := k, entries := 1, pendV := if k = .load then [4] else [] }

theorem witness_FaultRecords_replay : ∀ k, k = OpKind.load ∨ k = .store →
    let s := { faulting (.lanes 7 [{ lane := 1, va := 0x4000, n := 4, reg := 4, data := 5 }]) (some 9) with ops := [(7, parkedOp k)] }
    let o := { parkedOp k with entries := 0 }
    okAnd ((s.dropFaults (· == faultOf (.lanes 7 [{ lane := 1, va := 0x4000, n := 4, reg := 4, data := 5 }]) (some 9))).locate o
        (if k = .load then .read else .write) [{ lane := 1, va := 0x4000, n := 4, reg := 4, data := 5 }])
      (fun x => x.2.1 == [] && x.1.all (fun y => !s.away o.agent y.2) && okAnd (x.2.2.performAll o x.1) fun y => y.1.bad.isNone) = true := by
  rintro k (rfl | rfl) <;> decide +kernel

theorem witness_FaultRecords_others :
    (let s := { faulting (.fence (dominoKey 0 0 0)) (some 9) with dominoes := [(dominoKey 0 0 0, { queue := [headOp 0 false] })] }
     (s.domino (dominoKey 0 0 0)).queue = headOp 0 false :: [])
    ∧ ((running fillWords).posting = false ∧ (running fillWords).spills = [])
    ∧ (let s := faulting (.reissue 0) (some 9)
       (s.group 5).trap.pending = none ∧ (s.group 5).resuming = false ∧ (s.group 5).trap.relaunching = false)
    -- a record that waits for its page; a group that a reply resumes; a relay past its writes
    ∧ (faulting .record (some 9)).entryOf 0 (faultReply 1) = some (faultOf .record (some 9))
    ∧ (let g : Group := { group with trap := { escalated := some { reason := 0, second := 0, frame := 0, resuming := true } } }
       g.resuming = true)
    ∧ ((relayCmd .written).relay.map fun r => (r.phase, r.passes[r.done]?)) = some (.written, some passOf) := by decide +kernel

/-! Traces: the ring header of context 1 at 0x6000, its ring at 0x7000. -/

def tracing (trc : Dword := 4) (stop : Option Stop := none) : State :=
  let s := { world with
    ctxs := [(1, { opened := true, direct := true, srs := [(0x147, 0x6000)] })], cycle := 4097
    parts := [(0, { trc := trc, ctx := 1, stop := stop, sampled := 1 })] }
  { s with mem := Mem.write (Mem.write (Mem.write s.mem 0x6008 8 3) 0x6010 8 0x7000) 0x6018 8 1 }

theorem witness_Traces : ((tracing).partSt ((tracing).group 5).partKey).trc.getLsbD 2 = true ∧ Ready (tracing) [1, 2]
    ∧ ((tracing).partSt ((tracing).group 5).partKey).ctx.toNat % 64 = ((tracing).group 5).hart.ctx
    ∧ (world.partSt ((tracing).group 5).partKey).trc.getLsbD 2 = false ∧ OnCore coreWorld ∧ Ready coreWorld [1, 2] :=
  ⟨by decide +kernel, rfl, by decide +kernel, by decide +kernel, rfl, rfl⟩

/-- A ring with room for two records, of which none is unread: head 3, tail 3. -/
def roomy : State := { tracing with mem := Mem.write (tracing).mem 0x6000 8 3 }

theorem witness_Traces_room : ∃ h l, RingRoom roomy (slotRecord roomy 5 0 2 0 0 0 4096) h l := by
  refine ⟨0x6000, 0x7020, by decide +kernel, by decide +kernel, rfl, ?_⟩
  have h : (match roomy.ringHeader (slotRecord roomy 5 0 2 0 0 0 4096) with
      | some (h, t) => h == 0x6000 && (match t.xlate (ringWho ((slotRecord roomy 5 0 2 0 0 0 4096).writer / 4) (slotRecord roomy 5 0 2 0 0 0 4096).ctx) (roomy.wordAt 0x6000 2
          + BitVec.ofNat 64 ((slotRecord roomy 5 0 2 0 0 0 4096).size * ((roomy.wordAt 0x6000 1).toNat % 2 ^ bits (roomy.wordAt 0x6000 3) 4 0))) .write with
        | (.at x, _) => x.key == 0x7020
        | _ => false)
      | none => false) = true := by decide +kernel
  generalize hr : roomy.ringHeader (slotRecord roomy 5 0 2 0 0 0 4096) = r at h
  rcases r with _ | ⟨h', t⟩
  · cases h
  · dsimp only at h
    rw [Bool.and_eq_true] at h
    obtain ⟨h1, h2⟩ := h
    split at h2
    · rename_i x u hx
      refine ⟨t, x, u, ?_, by decide +kernel, by decide +kernel, hx, by simpa using h2, by decide +kernel⟩
      rw [show h' = 0x6000 by simpa using h1]
    · cases h2

/-- Of the samples: due or not, with a slot that stands there or not, that issued or not; one that waits to be written. -/
theorem witness_Traces_sample : SMap.rising (tracing).groups = true
    ∧ (let P := (tracing 0xC00).partSt 0
       P.trc.toNat / 2 ^ 8 % 32 = 12 ∧ P.stop = none ∧ P.sampled = 1 ∧ P.sperAt = 0 ∧ (tracing 0xC00).cycle = 4097)
    ∧ ((tracing).partSt 0).trc.toNat / 2 ^ 8 % 32 = 0 ∧ ((tracing).partSt 0).samples = []
    ∧ ((tracing 0xC00).sampleOf 0 4096).isSome = true ∧ ((tracing 0xC00).setGroup 5 { (group) with life := .saved }).sampleOf 0 4096 = none
    ∧ (let s := tracing 0xC00
       SMap.find s.groups 5 = some (s.group 5) ∧ (s.group 5).partKey = 0 ∧ (s.group 5).resides = true ∧ ((s.group 5).slot 0).st ≠ .free
       ∧ (s.group 5).hart.ctx = (s.partSt 0).ctx.toNat % 64 ∧ ((s.group 5).slot 0).lastIssue ≠ 4096 ∧ ((s.group 5).slot 1).st = .free
       ∧ (((s.setSlot (.slot 5 0) { slot with lastIssue := 4096 }).group 5).slot 0).lastIssue = 4096)
    ∧ (let s := (tracing 0xC00).setPart 0 { (tracing 0xC00).partSt 0 with samples := [slotRecord roomy 5 0 1 0 0 0 4096] }
       (s.partSt 0).samples = slotRecord roomy 5 0 1 0 0 0 4096 :: []) := by decide +kernel

theorem witness_Waiting : Unlogged world ∧ (world.hart world.cur).wake = 0 ∧ (∀ u, (world.slot world.cur).block ≠ some (.wfe u))
    ∧ ((world.setHart world.cur { hart with wake := 0x21 }).hart world.cur).wake ≠ 0
    ∧ (let s := { withSlot { slot with block := some (.wfe 1024) } with cycle := 1024 }
       (s.slot s.cur).block = some (.wfe 1024) ∧ 1024 ≠ 0 ∧ 1024 ≤ s.cycle ∧ s.logOf s.cur = none)
    ∧ ((withSlot { slot with block := some (.wfe 1024) }).cycle < 1024) := by
  refine ⟨rfl, rfl, ?_, by decide, by decide, by decide⟩
  intro u h
  cases h

def comparing (stop : Bool) : State :=
  { world with parts := [(0, { ctx := 1, cmps := [(1, BitVec.ofNat 64 (0x1004 + 2 ^ 63 + stop.toNat * 2 ^ 62)), (3, BitVec.ofNat 64 (0x1004 + 2 ^ 63))] })] }

theorem witness_Comparators : ∀ stop, (comparing stop).comparator 5 0 = some (1, stop) ∧ (comparing stop).canIssue (.slot 5 0) = true ∧ (comparing stop).nothingHolds 5 = true
    ∧ ((comparing stop).slot (.slot 5 0)).wave = none
    ∧ okAnd (({ comparing stop with cur := .slot 5 0 } : State).fetchWord 0x1004) (fun x => x.2.group 5 == (comparing stop).group 5
        && x.2.partSt 0 == (comparing stop).partSt 0) = true
    ∧ ((comparing stop).partSt 0).step = none ∧ ((comparing stop).partSt 0).trc.getLsbD 1 = false := by decide +kernel

/-! The Maelub port: messages to core 0 of die 0 of package 0, or to a system-class core. -/

def message (op : Nat) (payload : List Byte := []) (target : Nat := 0) : MaelubMsg :=
  { pkg := 0, w0 := BitVec.ofNat 64 (0x4D4C + 2 ^ 16 + op * 2 ^ 24), w1 := BitVec.ofNat 64 (target + payload.length * 2 ^ 32), payload := payload }

theorem serves_of {s : State} {m : MaelubMsg} {op : Nat} (h : (decide (m.w0.toNat % 2 ^ 16 = 0x4D4C ∧ bits m.w0 23 16 = 1 ∧ bits m.w0 31 24 = op
      ∧ bits m.w1 31 18 = 0 ∧ bits m.w1 63 32 = m.payload.length ∧ s.stepRuns m.pkg = false)
      && (match SMap.find s.pkgs m.pkg with | some p => p.on && p.debugPeers.contains m.src | none => false)) = true) : Serves s m op := by
  rw [Bool.and_eq_true, decide_eq_true_iff] at h
  obtain ⟨⟨a, b, c, d, e, f⟩, g⟩ := h
  refine ⟨a, b, c, d, e, ?_, f⟩
  split at g
  · rw [Bool.and_eq_true, List.contains_iff_mem] at g
    exact ⟨_, by assumption, g⟩
  · cases g

/-- Partition 0 of that core: stopped, in its step, stepping too long. -/
def halting (p : PartSt) : State := { world with parts := [(0, p)] }
def stopped : State := halting { stop := some { code := 0 } }
def sysStopped : State := { coreWorld with cores := coreWorld.cores.map fun e => (e.1, { e.2 with stop := some { code := 0 } }) }

theorem witness_DebugControl : (∀ op ∈ [1, 2, 3], Serves world (message op) op ∧ Serves stopped (message op) op) ∧ OnPart world (message 1) 0
    ∧ SMap.rising world.groups = true ∧ (world.partSt 0).stop = none ∧ (world.partSt 0).trc.getLsbD 1 = false
    ∧ (stopped.partSt 0).stop = some { code := 0 } ∧ (stopped.maelubGroup (message 3) 0) = some (5, group)
    ∧ ((group).slot (bits (message 3).w1 16 16)).st ≠ .free ∧ ((group).slot (bits (message 3 [] 0x10000).w1 16 16)).st = .free :=
  ⟨by intro op h; fin_cases h <;> exact ⟨serves_of (by decide +kernel), serves_of (by decide +kernel)⟩, ⟨by decide, by decide +kernel, by decide⟩,
    by decide, by decide, by decide, by decide, by decide +kernel, by decide, by decide⟩

theorem witness_DebugControl_cores : (∀ op ∈ [1, 2, 3], Serves coreWorld (message op [] 0x20000) op ∧ Serves sysStopped (message op [] 0x20000) op)
    ∧ OnSys coreWorld (message 1 [] 0x20000) 0 8 0 (coreWorld.core 0 8 0) ∧ OnSys sysStopped (message 1 [] 0x20000) 0 8 0 (sysStopped.core 0 8 0)
    ∧ (coreWorld.core 0 8 0).stop = none ∧ (sysStopped.core 0 8 0).stop = some { code := 0 } ∧ (sysStopped.core 0 8 0).halted = false
    ∧ (sysStopped.core 0 8 0).waiting = false :=
  ⟨by intro op h; fin_cases h <;> exact ⟨serves_of (by decide +kernel), serves_of (by decide +kernel)⟩, ⟨by decide, by decide, rfl⟩, ⟨by decide, by decide, rfl⟩,
    by decide, by decide, by decide, by decide⟩

def overdue : State := { halting { step := some { gid := 5, msg := message 3 } } with cycle := 2 ^ 20 }

theorem witness_DebugControl_others : (∀ op ∈ [1, 2, 3, 4], Serves world (message op [] (100 * 8)) op)
    ∧ world.coreSlice 0 0 100 0 = none ∧ overdue.stepOverdue 0 = some (.slot 5 0) ∧ (overdue.group 5).partKey = 0
    ∧ (overdue.partSt 0).trc.getLsbD 1 = false ∧ world.stepOverdue 0 = none :=
  ⟨by intro op h; fin_cases h <;> exact serves_of (by decide +kernel), by decide +kernel, by decide +kernel, by decide, by decide, by decide⟩

theorem witness_DebugReads : Serves world (message 4) 4 ∧ Serves stopped (message 4) 4 ∧ OnPart stopped (message 4) 0 ∧ (world.partSt 0).stop = none
    ∧ stopped.maelubGroup (message 4) 0 = some (5, group) ∧ stopped.maelubGroup (message 4 [] (3 * 2 ^ 12)) 0 = none ∧ stopped.group 5 = group
    ∧ ({ message 4 with src := 7 } : MaelubMsg).src ∉ (world.pkg 0).debugPeers
    ∧ Serves world (message 10) 10 ∧ Serves world (message 0) 0 ∧ Serves world (message 11) 11
    ∧ (∀ j, (({} : Vregs).reg j).length = 64) ∧ (∀ j, (({} : Vregs).bypass j).length = 64) ∧ (group).regs.sliced = 0 :=
  ⟨serves_of (by decide +kernel), serves_of (by decide +kernel), ⟨by decide, by decide +kernel, by decide⟩, by decide, by decide +kernel, by decide +kernel, rfl,
    by decide, serves_of (by decide +kernel), serves_of (by decide +kernel), serves_of (by decide +kernel), fun _ => rfl, fun _ => rfl, by decide⟩

/-- The state bytes: a core that is not enabled, one stopped by a fault, one stopped, one with an escalation, one of those running. -/
theorem witness_DebugReads_status : world.coreSlice 0 0 88 0 = none ∧ ((halting { stop := some { code := 4 } }).partSt 0).stop = some { code := 4 }
    ∧ (∀ p, p < 4 → ∀ y, (stopped.partSt p).stop = some y → y.code ≠ 4) ∧ (stopped.partSt 0).stop ≠ none ∧ (∀ p, p < 4 → (world.partSt p).stop = none)
    ∧ ((escalated none).group 5).trap.escalated ≠ none ∧ (group).trap.escalated = none := by
  refine ⟨by decide +kernel, by decide, ?_, by decide, by decide, by decide, by decide⟩
  intro p hp y hy
  interval_cases p
  · cases hy; decide
  · cases hy
  · cases hy
  · cases hy

/-- Physical address 0x4000, n bytes. -/
def memoryPayload (n : Nat) (data : List Byte := []) : List Byte := bytesOfNat 8 0x4000 ++ [0xFF, 0xFF] ++ bytesOfNat 2 n ++ data

theorem witness_DebugAccess : Serves world (message 5 (memoryPayload 4)) 5 ∧ Serves world (message 6 (memoryPayload 2 [7, 8])) 6
    ∧ (message 5 (memoryPayload 1025)).num 10 2 = 1025 ∧ Serves world (message 5 (memoryPayload 1025)) 5 ∧ (message 5 (memoryPayload 0)).num 10 2 = 0
    ∧ (message 5 (memoryPayload 4)).num 8 2 = 0xFFFF ∧ (message 5 (memoryPayload 4)).num 0 8 = 0x4000 ∧ (message 5 (memoryPayload 4)).num 10 2 = 4
    ∧ world.listed 0 (0x4003 / 2 ^ 39) = true ∧ (message 6 (memoryPayload 2 [7, 8])).payload.length = 12 + 2 :=
  ⟨serves_of (by decide +kernel), serves_of (by decide +kernel), by decide, serves_of (by decide +kernel), by decide, by decide, by decide, by decide,
    by decide +kernel, by decide⟩

def registerPayload (cls reg lane v : Nat) : List Byte := bytesOfNat 1 cls ++ bytesOfNat 1 reg ++ bytesOfNat 1 lane ++ bytesOfNat 8 v

theorem witness_DebugAccess_registers :
    (∀ c ∈ [(0, 31, 63), (0, 40, 0), (0, 1, 64), (1, 62, 0), (1, 64, 0), (2, 0, 0), (3, 0, 0)],
      Serves stopped (message 9 (registerPayload c.1 c.2.1 c.2.2 0xA5)) 9
        ∧ stopped.maelubGroup (message 9 (registerPayload c.1 c.2.1 c.2.2 0xA5)) 0 = some (5, group))
    ∧ stopped.group 5 = group ∧ (group).regs.lost = [] ∧ (SMap.get (group).regs.poison 31 0).getLsbD 63 = false
    ∧ (group).regs.held = 40 ∧ modeOk 0xA5 = true ∧ modeOk 0x800000 = false
    ∧ stopped.writePending (.slot 5 0) false 31 63 = false ∧ stopped.writePending (.slot 5 0) true 62 0 = false
    ∧ (let s := { stopped with ops := [(7, { agent := .slot 5 0, pip := none, pc := 0, word := 0, kind := .load, pendS := [62], pendV := [31], reqs := [{ lane := 63, va := 0, n := 4, reg := 31 }] })] }
       s.writePending (.slot 5 0) false 31 63 = true ∧ s.writePending (.slot 5 0) true 62 0 = true) := by
  refine ⟨?_, rfl, rfl, by decide, by decide, by decide, by decide, by decide, by decide, by decide⟩
  intro c h
  fin_cases h <;> exact ⟨serves_of (by decide +kernel), by decide +kernel⟩

theorem witness_DebugAccess_system : Serves coreWorld (message 7 [0x02, 0] 0x20000) 7 ∧ Serves coreWorld (message 8 ([0x21, 0] ++ bytesOfNat 8 5) 0x20000) 8
    ∧ Serves coreWorld (message 9 (registerPayload 1 2 0 5) 0x20000) 9 ∧ OnSys coreWorld (message 7 [0x02, 0] 0x20000) 0 8 0 (coreWorld.core 0 8 0)
    ∧ (({ coreWorld with cur := .sys 0 8 0 } : State).srValue 0x02).isSome = true ∧ ({ coreWorld with cur := .sys 0 8 0 } : State).srValue 0xFFFF = none
    ∧ answersOk (({ coreWorld with cur := .sys 0 8 0 } : State).srWrite 0x21 5) = true
    ∧ okAnd (({ coreWorld with cur := .sys 0 8 0 } : State).srWrite 0xFFFF 5) (fun _ => true) = false :=
  ⟨serves_of (by decide +kernel), serves_of (by decide +kernel), serves_of (by decide +kernel), ⟨by decide, by decide, rfl⟩, by decide +kernel, by decide +kernel,
    by decide +kernel, by decide +kernel⟩

/-! Requests for context 1, whose key is 9. -/

def request (op : Nat) (arg0 arg1 arg2 addr len : Dword := 0) (payload : List Byte := []) (key : BitVec 58 := 9) : Req :=
  { pkg := 0, op := BitVec.ofNat 8 op, tag := 77, ctx := 1, key := key, addr := addr, len := len, arg0 := arg0, arg1 := arg1, arg2 := arg2, payload := payload }

theorem received (s : State) (r : Req)
    (h : (r.magic == 0x5152 && decide (r.port < 8) && r.flow.isNone &&
      match SMap.find s.pkgs r.pkg with | some p => p.on && p.booted && p.peers.contains r.src | none => false) = true) :
    Received s r r.op.toNat := by
  rw [Bool.and_eq_true, Bool.and_eq_true, Bool.and_eq_true, beq_iff_eq, decide_eq_true_iff, Option.isNone_iff_eq_none] at h
  obtain ⟨⟨⟨hm, hp⟩, hf⟩, h⟩ := h
  refine ⟨rfl, hm, hp, ?_⟩
  split at h
  · rename_i p hp
    rw [Bool.and_eq_true, Bool.and_eq_true, List.contains_iff_mem] at h
    exact ⟨p, hp, h.1.1, h.1.2, h.2, fun f n q => by rw [hf] at q; cases q⟩
  · cases h

theorem witness_RequestProtocol : (∀ op, op < 256 → ∀ k, Heard world (request op 0 0 0 0 0 [] k) op) ∧ (∀ op, Keyed world (request op))
    ∧ (∀ op, ¬ Keyed world (request op 0 0 0 0 0 [] 8)) ∧ world.maelubReady 0 = true := by
  refine ⟨?_, fun op => ⟨Nat.one_pos, (by decide : 1 < 64), rfl, rfl⟩, ?_, by decide +kernel⟩
  · intro op h k
    have := received world (request op 0 0 0 0 0 [] k) (by rfl)
    rw [show (request op 0 0 0 0 0 [] k).op.toNat = op from Nat.mod_eq_of_lt h] at this
    exact ⟨this, rfl, rfl⟩
  · rintro op ⟨-, -, -, h⟩
    exact absurd (show (9 : BitVec 58) = 8 from h) (by decide)

/-- VERSION 2; another MAGIC; a request of a flow whose turn is another's. -/
theorem witness_RequestProtocol_headers :
    Received world { request 3 with version := 2 } 3 ∧ ¬ HeaderRight { request 3 with version := 2 } ∧ ¬ HeaderRight { request 3 with reserved := 1 }
    ∧ ¬ Received world { request 3 with magic := 0x5153 } 3 ∧ ¬ Received world { request 3 with flow := some (4, 1) } 3
    ∧ Received (world.setPkg 0 { world.pkg 0 with flows := [(4, 1)] }) { request 3 with flow := some (4, 1) } 3
    ∧ Received world { request 0 with version := 2 } 0 ∧ Received world { request 18 with version := 2 } 18 := by
  refine ⟨received world { request 3 with version := 2 } (by rfl), fun h => absurd h.1 (by decide), fun h => absurd h.2 (by decide),
    fun h => absurd h.2.1 (by decide), ?_, ⟨by decide, by decide, by decide, _, rfl, rfl, rfl, by decide, ?_⟩,
    received world { request 0 with version := 2 } (by rfl), received world { request 18 with version := 2 } (by rfl)⟩
  · rintro ⟨-, -, -, p, hp, -, -, -, h⟩
    cases hp
    exact absurd (h 4 1 rfl) (by decide)
  · intro f n h
    cases h
    rfl

/-- A request of 64 bytes, and one of another MAGIC; the ring of requests at 0x30000. -/
def slotBytes (magic : Nat) (op : Nat := 3) : List Byte := bytesOfNat 64 (magic + op * 2 ^ 24)
def ringed (tail : Nat) : State := pooled.setPkg 0 { pooled.pkg 0 with srs := [(0x182, 0x30000), (0x184, BitVec.ofNat 64 tail)] }

theorem witness_RequestProtocol_slots : ((ringed 255).pkg 0).on = true ∧ ((ringed 255).pkg 0).waitingReqs = []
    ∧ (natOfBytes ((slotBytes 0x5152).take 8) % 2 ^ 16 = 0x5152 ∧ natOfBytes ((slotBytes 0x5152).take 8) / 2 ^ 24 % 256 = 3 ∧ (slotBytes 0x5152).length = 64)
    ∧ natOfBytes ((slotBytes 0x5153).take 8) % 2 ^ 16 ≠ 0x5152 ∧ natOfBytes ((slotBytes 0x5152 8).take 8) / 2 ^ 24 % 256 = 8
    ∧ 256 ≤ (SMap.get ((ringed 256).pkg 0).srs 0x184 0 - SMap.get ((ringed 256).pkg 0).srs 0x183 0).toNat
    ∧ ¬ 256 ≤ (SMap.get ((ringed 255).pkg 0).srs 0x184 0 - SMap.get ((ringed 255).pkg 0).srs 0x183 0).toNat
    ∧ (0x30000 : Nat) + 4096 * 255 + 4096 ≤ 2 ^ 36 ∧ ((ringed 255).ctx 0 0).direct = true ∧ (ringed 255).underReplay 0 0 = false
    -- peer 0 is served, peer 5 is not
    ∧ 0 ∈ ((ringed 255).pkg 0).peers ∧ 5 ∉ ((ringed 255).pkg 0).peers
    ∧ (ringed 255).recording 0 0 = false := by decide +kernel

theorem witness_Contexts : packageList 0 [] = some [0] ∧ packageList (0x400 : Dword) [] = none ∧ world.reachable 0 [0] = true ∧ world.reachable 0 [1] = false
    ∧ (∀ k, k < 2 → ¬ (0 < k ∧ k < 64 ∧ ∀ p ∈ [0], (world.ctx p k).opened = false)) ∧ (world.ctx 0 2).opened = false
    ∧ packageList (BitVec.ofNat 64 (2 ^ 63 + 2 * 2 ^ 32 + 2)) [0, 0, 5, 0, 3, 0] = some [5, 3]
    ∧ ((1023 : Dword).toNat / 2 ^ 26 = 0 ∧ (1023 : Dword).toNat % 2 ^ 10 + (1023 : Dword).toNat / 2 ^ 16 % 2 ^ 10 ≤ 1023) := by
  refine ⟨by decide +kernel, by decide +kernel, by decide +kernel, by decide +kernel, ?_, by decide, by decide +kernel, by decide⟩
  rintro k hk ⟨h0, -, h⟩
  have h1 := h 0 (by simp)
  have : k = 1 := by omega
  subst this
  exact absurd h1 (by decide)

/-- No page of package 0 is given out: whichever root table the service picks, there is one. -/
theorem root_given (s : State) (pkg ctx : Nat) (h : (s.pkg pkg).pages = []) : ∃ r, s.giveRoot pkg ctx = some r := by
  unfold State.giveRoot
  dsimp only
  rw [h]
  rw [← Option.isSome_iff_exists, Option.isSome_map, List.find?_isSome]
  refine ⟨(Config.freePage s.free + 0) % 4096, List.mem_map.2 ⟨0, by simp, rfl⟩, ?_⟩
  rw [List.all_eq_true]
  intro j _
  rfl

theorem witness_Contexts_open : ∃ u, ({ world with free := world.free + 1 } : State).onAll (fun x p => x.openOn 2 (Config.contextKey world.free) [0] p) [0] = some u := by
  obtain ⟨r, h⟩ := root_given { world with free := world.free + 1 } 0 2 rfl
  simp only [State.onAll, State.openOn, h, Option.map_some, Option.bind_some]
  exact ⟨_, rfl⟩

/-- Page tables of context 1 that reach 0x10000: tables at 0x1000000, 0x20000, 0x30000 and 0x40000. -/
def paged (leaf : Nat) : State :=
  { world with
    ctxs := [(1, { opened := true, key := 9, members := [0], root := 0x1000015 })]
    mem := [(0x1000000, 0x20001), (0x20000, 0x30001), (0x30000, 0x40001), (0x40008, leaf)].foldl (fun m e => Mem.write m e.1 8 e.2) [] }

theorem witness_Mappings : (paged 0).leafPlace ((paged 0).rootOf 0 1) 0x10000 3 = some 0x40008 ∧ members (paged 0) (request 3) = [0]
    ∧ (0x5 &&& ~~~ (0x5C : Dword) ≠ 0) ∧ (0xC : Dword) &&& ~~~ 0x5C = 0 ∧ (∃ t, (paged 0).givePages 0 ((13 : Dword).toNat % 8) 1 1
        = some ([dieFirst 0 5 + Config.freePage 0 % 2 ^ 20], t))
    ∧ (paged 0x5000F).leafPlace ((paged 0x5000F).rootOf 0 1) 0x10000 3 = some 0x40008 ∧ (paged 0x5000F).bytesAt 0x40008 8 % 2 = 1
    ∧ (world.portRead (portWho 0 1) 0x4000 8).isSome = true ∧ (world.portRead (portWho 0 1) 0x1FFFFFFFFFFFFFC 8).isSome = false :=
  ⟨by decide +kernel, by decide, by decide, by decide, ⟨_, rfl⟩, by decide +kernel, by decide +kernel, by decide +kernel, by decide +kernel⟩

/-- A page of another package of the domain. -/
theorem witness_Mappings_foreign : let s := (paged 0).setPkg 0 { (paged 0).pkg 0 with routes := [(2, 1), (3, 0x8000)], links := [(0, { st := 2, neighbour := 1 })] }
    let s := s.setPkg 1 { on := true, booted := true }
    s.reachable 0 [1] = true ∧ members s (request 3) = [0]
    ∧ (∃ t, s.givePages 1 ((13 : Dword).toNat % 8) (foreignOwner (s.ctx 0 1) 1) 1 = some ([dieFirst 1 5 + Config.freePage 0 % 2 ^ 20], t)) :=
  ⟨by decide +kernel, by decide, _, rfl⟩

/-- An image is of the load format, or not. -/
theorem witness_Mappings_load (image : List Byte) : Config.loadImage image = none ∨ ∃ x l, Config.loadImage image = some (x, l) := by
  cases h : Config.loadImage image with
  | none => exact .inl rfl
  | some x => exact .inr ⟨x.1, x.2, rfl⟩

/-- A header at 0x4000 that queue 3 takes. -/
def launchable (entry : Nat := 0x1000) : State :=
  { queued_ with mem := Mem.write [] 0x4000 128 (natOfDwords [BitVec.ofNat 64 entry, 0, 6 + 2 ^ 7 * 2, 63 + 2 ^ 6 * 3, 0, 0, 0, 0, BitVec.ofNat 64 (36 * 64), 1 + 3 * 2 ^ 11]) }

def launchReady (entry status : Nat) : Bool :=
  let s := launchable entry
  match s.readHeader (request 7 0 0 3 0x4000) with
  | some (l, t) => l.extent 3 == 1 && t.headerStatus { l with pkg := 0, part := some (3, 0) } == status
  | none => false

theorem witness_RequestedWork : packageList (request 7 0 0 3 0x4000).arg1 [] = some [0] ∧ (launchable).reachable 0 [0] = true ∧ launchReady 0x1000 0 = true
    ∧ launchReady 0x1002 1 = true ∧ ((launchable).readHeader (request 7 0 0 3 0x4001)).isNone = true
    ∧ ((world.pkg 0).numbers = []) ∧ (0x13F : Dword) &&& ~~~ 0x13F = 0 ∧ (0x40 : Dword) &&& ~~~ 0x13F ≠ 0 := by decide +kernel

def awaited (alive : Nat) : State :=
  { placing (.launch 50) with
    launches := [(50, { pkg := 0, ctx := 1, lseq := 4, alive := alive })]
    pkgs := [(0, { on := true, booted := true, numbers := [(2 ^ 64 + 4, [(0, 4)])], waits := [{ req := request 14 4, launches := [(0, 4)] }] })] }

theorem witness_RequestedWork_wait : SMap.find ((awaited 1).pkg 0).numbers (1 * 2 ^ 64 + (4 : Dword).toNat) = some [(0, 4)]
    ∧ (awaited 1).launchOver 0 1 4 = false ∧ (awaited 0).launchOver 0 1 4 = true
    ∧ (awaited 0).waitOver { req := request 14 4, launches := [(0, 4)] } = true := by decide +kernel

theorem witness_RequestedData : (world.portRead (portWho 0 1) 0x4000 8).isSome = true ∧ (world.portRead (portWho 0 1) 0x1FFFFFFFFFFFFFC 8).isSome = false
    ∧ (∃ x t, world.xlate (portWho 0 1) 0x4000 .read = (.at x, t) ∧ t = world ∧ (world.gran x.key).poisoned = false)
    ∧ (world.portArrival 0 1 7 0x1FFFFFFFFFFFFFC [1, 2, 3, 4, 5]).isNone = true ∧ world.underReplay 0 1 = false
    ∧ (∃ x t, world.xlate (portWho 0 1) 0x4000 .write = (.at x, t)) ∧ (0x4000 : Dword).toNat % 64 + 5 ≤ 64
    ∧ ({ world with ctxs := [(1, { opened := true, direct := true, key := 9, members := [0], srs := [(0x14B, 2)] })] } : State).underReplay 0 1 = true
    ∧ checkRecord 0x903E000000000000 = 0 ∧ checkRecord 0xFFFFFFFFFFFFFFFF ≠ 0 :=
  ⟨by decide +kernel, by decide +kernel, ⟨_, _, rfl, rfl, by decide +kernel⟩, by decide +kernel, by decide +kernel, ⟨_, _, rfl⟩, by decide, by decide +kernel,
    by decide +kernel, by decide +kernel⟩

/-- A STOP or a STEP carried by a DEBUG. -/
def debugRequest (op : Nat) : Req := request 13 0 0 0 0 0 (bytesOf [(message op).w0, (message op).w1])

theorem witness_RequestedData_debug : 16 ≤ (debugRequest 1).payload.length
    ∧ natOfBytes (((debugRequest 1).payload.drop 12).take 4) ≤ (debugRequest 1).payload.length - 16
    ∧ (let d := bytesOf [(message 1).w0, BitVec.ofNat 64 (5 * 2 ^ 32)]
       d.length - 16 < natOfBytes ((d.drop 12).take 4)) ∧ world.maelubReady 0 = true ∧ stopped.maelubReady 0 = true
    ∧ (world.serve { pkg := 0, w0 := BitVec.ofNat 64 (natOfBytes (((debugRequest 1).payload.drop 0).take 8))
                     w1 := BitVec.ofNat 64 (natOfBytes (((debugRequest 1).payload.drop 8).take 8)), payload := (debugRequest 1).payload.drop 16 }
        (some (debugRequest 1))).1.isSome = true
    ∧ (stopped.serve { pkg := 0, w0 := BitVec.ofNat 64 (natOfBytes (((debugRequest 3).payload.drop 0).take 8))
                       w1 := BitVec.ofNat 64 (natOfBytes (((debugRequest 3).payload.drop 8).take 8)), payload := (debugRequest 3).payload.drop 16 }
        (some (debugRequest 3))).1.isNone = true := by decide +kernel

theorem witness_RequestedUnits : (∀ i, i < 2 → world.unitKey 0 0 0 (1022 + i) = some (1022 + i)) ∧ (∀ i, i < 2 → world.unitHeld 0 0 0 (1022 + i) = false)
    ∧ SMap.find world.units 1022 = none ∧ (SMap.find sliced.units 2).isSome = true ∧ ({ sliced with units := [(2, { ctx := 2 })] } : State).unitKey 0 0 0 2 = some 2
    ∧ ((BitVec.ofNat 64 (1022 * 2 ^ 10 + 2 ^ 20) : Dword).toNat / 2 ^ 30 = 0 ∧ (BitVec.ofNat 64 (1022 * 2 ^ 10 + 2 ^ 20) : Dword).toNat / 2 ^ 10 % 2 ^ 10 = 1022
      ∧ (BitVec.ofNat 64 (1022 * 2 ^ 10 + 2 ^ 20) : Dword).toNat / 2 ^ 20 % 2 ^ 10 + 1 = 2)
    ∧ (let b (o : SMap Nat) : State := { world with boards := [(coreKey 0 0 0, { owners := o })] }
       SMap.find ((b []).board (coreKey 0 0 0)).owners 2 = none ∧ SMap.find ((b [(2, 1)]).board (coreKey 0 0 0)).owners 2 = some 1
       ∧ SMap.find ((b [(2, 7)]).board (coreKey 0 0 0)).owners 2 = some 7) := by decide +kernel

/-! A plan of two packages on two links: a descriptor at 0x4000, packages 0 and 1 at 0x4800, its table at 0x4900. -/

def planWords (n start : Nat) : List Dword := [BitVec.ofNat 64 (n + 2 * 2 ^ 8), 4 * 2 ^ 10, BitVec.ofNat 64 start, 0, 0x4800, 0x4900, window 0x800, 0]

def planned (n : Nat := 2) (start : Nat := 0) (parts : Nat := 2 ^ 16) (up : Nat := 2) (plan : Option PhasePlan := none) : State :=
  { sliced with
    pkgs := [(0, { on := true, booted := true, routes := [(2, 1), (3, 0x8000)], links := [(0, { st := up, neighbour := 1 })]
                   places := [(0, 128), (1, 129)] }), (1, { on := true, booted := true, places := [(0, 128)] })]
    cycle := 3000, plan := plan
    mem := Mem.write (Mem.write (Mem.write [] 0x4000 64 (natOfDwords (planWords n start))) 0x4800 4 parts) 0x4908 8 301 }

/-- The reads of a plan request: the descriptor is sound, its packages are those listed, and its table is read. -/
def planReads (s : State) (ok distinct reached : Bool) : Bool :=
  okAnd (s.scalarRead 0x4000 64 64) fun x =>
    let word (i : Nat) : Dword := BitVec.ofNat 64 (x.1 / 2 ^ (64 * i))
    planOk word == ok && (!ok || okAnd (x.2.2.readRun 2 (word 4) ((word 0).toNat % 2 ^ 7)) fun y =>
      decide y.1.Nodup == distinct && (!distinct || ((y.1.headD 0 == s.pkgOf s.cur && y.1.all (s.listed 0)) == reached
        && (!reached || answersOk (y.2.readRun 8 (word 5) (4))))))

theorem witness_PhasePlans : Ready ((planned).setHart (planned).cur { hart with sregs := [(1, 0x4000)] }) [3, 1] ∧ (planned).needPip (planned).setB = .ok ()
    ∧ planReads (planned) true true true = true ∧ planReads (planned 1) false true true = true ∧ planReads (planned 2 0 0) true false true = true
    ∧ planReads (planned 2 0 (2 ^ 16) 0) true true false = true ∧ planReads (planned 2 0 1) true true false = true
    ∧ (planned).plan = none ∧ (1 : Nat) < ((planned).timens 0).toNat ∧ ((planned).timens 0).toNat ≤ 5000 :=
  ⟨rfl, rfl, by decide +kernel, by decide +kernel, by decide +kernel, by decide +kernel, by decide +kernel, rfl, by decide +kernel, by decide +kernel⟩

/-- The schedule's place. -/
theorem witness_PhasePlans_schedule : ∀ k, k < 2 * (2 - 1) → let va := window 0x800 + BitVec.ofNat 64 (8 * k)
    va.toNat / 2 ^ 57 = 0 ∧ isWindow va = true ∧ ∃ m : Loc, m.key = sliceBase + 0x800 + 8 * k
      ∧ (planned).placeXlate (planWho 0 1) (va.toNat % 2 ^ 40) .write = .at m := by
  intro k hk
  interval_cases k
  · exact ⟨by decide, by decide, ⟨sliceBase + 0x800, 0x800, false⟩, by decide, by decide +kernel⟩
  · exact ⟨by decide, by decide, ⟨sliceBase + 0x808, 0x808, false⟩, by decide, by decide +kernel⟩

def planAt (started : Nat) (unset : Bool := false) : PhasePlan :=
  { pkg := 0, ctx := 1, op := 7, parts := [0, 1], ports := 2, phases := [(1000, 2)], sched := window 0x800, die := 0, core := 0, win := 0, bbase := 4
    started := started, unset := unset }

def planRuns (started : Nat) (unset : Bool := false) : State :=
  { planned 2 0 (2 ^ 16) 2 (some (planAt started unset)) with
    boards := [(coreKey 0 0 0, { owners := [(0, 1)] })]
    ops := [(7, { agent := .slot 5 0, pip := some 2, pc := 0xFFC, word := 0, kind := .engine })] }

theorem witness_PhasePlans_events : (planAt 0).phases[(planAt 0).started]? = some (1000, 2) ∧ 1000 ≤ ((planRuns 0).timens 0).toNat ∧ (planAt 0).parts.Nodup
    ∧ (∀ q ∈ (planAt 0).parts, ((planRuns 0).board (coreKey q 0 0)).triggers = []) ∧ ((planRuns 0).board (coreKey 0 0 0)).allotted 0 1 = true
    ∧ ((planRuns 0).board (coreKey 1 0 0)).allotted 0 1 = false ∧ ({ planRuns 0 with cycle := 1 } : State).timens 0 < 1000
    ∧ (planAt 1).started = (planAt 1).phases.length ∧ (planAt 1).phases.getLast? = some (1000, 2) ∧ 1000 + 2 ≤ ((planRuns 1).timens 0).toNat
    ∧ (SMap.find (planRuns 1).ops 7).isSome = true ∧ (planRuns 1).stopOf (.slot 5 0) = none
    ∧ (match (planRuns 1 true).xlate (planWho 0 1) (window 0x800 + 7) .write with
       | (.at _, _) => true
       | _ => false) = true := by decide +kernel

/-! Links. -/

def linked (fails rx : Nat) : State :=
  { world with pkgs := [(0, { on := true, booted := true, links := [(3, { st := 2, neighbour := 1, rx := rx, fails := fails })] })] }

/-- A flit with SEQ 0xFFF: four bytes of ones bring the CRC register to zero, zeros keep it there; `off` spoils the LCRC. -/
def flitBody : List Byte := [0xFF, 0xFF, 0xFF, 0xFF] ++ List.replicate 244 0
def flit (off : Nat) : List Byte := flitBody ++ bytesOfNat 8 (0xFFFFFFFF + off)

theorem crc_zeros : ∀ n, (List.replicate n (0 : Byte)).foldl crcByte 0 = 0
  | 0 => rfl
  | n + 1 => by
    rw [List.replicate_succ, List.foldl_cons, show crcByte 0 0 = 0 from by decide]
    exact crc_zeros n

theorem flit_crc : crc32c flitBody = 0xFFFFFFFF := by
  unfold crc32c flitBody
  rw [List.foldl_append, show ([0xFF, 0xFF, 0xFF, 0xFF] : List Byte).foldl crcByte 0xFFFFFFFF = 0 from by decide +kernel, crc_zeros]
  rfl

theorem witness_Flits : ((linked 15 0xFFF).pkg 0).on = true ∧ (∀ o, (flit o).length = 256)
    ∧ (∀ o, o < 2 → (natOfBytes ((flit o).drop 0xF8) = (crc32c ((flit o).take 0xF8)).toNat ↔ o = 0) ∧ natOfBytes ((flit o).take 8) % 2 ^ 12 = 0xFFF)
    ∧ (SMap.find ((linked 15 0xFFF).pkg 0).links 3).map (·.rx) = some 0xFFF ∧ (SMap.find ((linked 14 5).pkg 0).links 3).map (·.rx) = some 5
    ∧ (14 : Nat) + 1 < 16 ∧ 16 ≤ (15 : Nat) + 1 := by
  have b : flitBody.length = 0xF8 := by unfold flitBody; rw [List.length_append, List.length_replicate]; rfl
  refine ⟨by decide, fun o => by rw [flit, List.length_append, b]; rfl, ?_, by decide, by decide, by decide, by decide⟩
  intro o ho
  have t : (flit o).take 0xF8 = flitBody := List.take_left' b
  rw [t, flit_crc]
  interval_cases o
  · exact ⟨by decide +kernel, by decide +kernel⟩
  · exact ⟨by decide +kernel, by decide +kernel⟩

/-- A flit to send; a replay buffer with room, and a full one. -/
def dataFlit : Flit := { seq := 7, ack := 5, kind := 1, credits := 2, grans := [1, 2, 3], carries := [4, 5, 6] }

theorem witness_Flits_formed : dataFlit.seq < 2 ^ 12 ∧ dataFlit.ack < 2 ^ 12 ∧ dataFlit.kind < 16 ∧ dataFlit.credits < 256
    ∧ dataFlit.grans.length = 3 ∧ dataFlit.carries.length = 3 ∧ ∀ x ∈ dataFlit.grans, x < 4 := by decide

theorem witness_Flits_room : let L : Link := { st := 2, neighbour := 1 }
    (L.buffer.length < 128 ∧ L.waiting = []) ∧ ¬ (({} : Flit).kind = 1 ∨ ({} : Flit).kind = 3)
    ∧ ¬ ({ L with buffer := List.replicate 128 {} } : Link).buffer.length < 128 := by
  refine ⟨by decide, by decide, ?_⟩
  simp

/-- A NAK of SEQ 0, and an idle flit of SEQ 9: its second four bytes bring the CRC register to zero. -/
def flit2 (first crc : Nat) : List Byte := (bytesOfNat 4 first ++ bytesOfNat 4 crc) ++ List.replicate 240 0

theorem flit2_crc {a c : Nat} (h : ((bytesOfNat 4 a ++ bytesOfNat 4 c).foldl crcByte 0xFFFFFFFF == 0) = true) : crc32c (flit2 a c) = 0xFFFFFFFF := by
  unfold crc32c flit2
  rw [List.foldl_append, beq_iff_eq.1 h, crc_zeros]
  rfl

theorem witness_Flits_received : ∀ x ∈ [(2 ^ 25, 1453573327, 2, 0), (9, 2627304806, 0, 9)],
    let f := flit2 x.1 x.2.1 ++ bytesOfNat 8 0xFFFFFFFF
    f.length = 256 ∧ natOfBytes (f.drop 0xF8) = (crc32c (f.take 0xF8)).toNat ∧ natOfBytes (f.take 8) / 2 ^ 24 % 2 ^ 4 = x.2.2.1
      ∧ natOfBytes (f.take 8) % 2 ^ 12 = x.2.2.2 := by
  intro x hx f
  have b : (flit2 x.1 x.2.1).length = 0xF8 := by
    unfold flit2
    rw [List.length_append, List.length_replicate]
    rfl
  have h : (flit2 x.1 x.2.1 ++ bytesOfNat 8 0xFFFFFFFF).take 0xF8 = flit2 x.1 x.2.1 := List.take_left' b
  refine ⟨by rw [List.length_append, b]; rfl, ?_, ?_, ?_⟩
  · rw [show f.drop 0xF8 = _ from List.drop_left' b, show f.take 0xF8 = _ from h]
    fin_cases hx
    · rw [flit2_crc (by decide +kernel)]; decide +kernel
    · rw [flit2_crc (by decide +kernel)]; decide +kernel
  · fin_cases hx <;> decide +kernel
  · fin_cases hx <;> decide +kernel

theorem witness_BringUp : SMap.find world.pkgs 0 = some (world.pkg 0) ∧ (world.pkg 0).on = true ∧ (0 : Nat) < 1024 ∧ (5 : Nat) < 2048
    ∧ SMap.find State.reset.pkgs 0 = some {} ∧ ({} : Pkg).on = false := ⟨rfl, rfl, by decide, by decide, rfl, rfl⟩

/-- Accesses of another package: a load's, since cycle 0, and a command's, not yet found to wait, or since cycle 0. -/
def farOp : Op := { agent := .slot 5 0, pip := some 2, pc := 0xFFC, word := 0, kind := .load, reqs := [{ lane := 1, va := window (2 ^ 30), n := 4, reg := 4, key := sliceBase + 2 ^ 30 }] }
def farCmd (awaits : Option Nat) : Cmd := { running [0, 2, 0x55, window (2 ^ 30), 128, 0, 0, 0] with awaits := awaits }
def farWorld (c : Cmd) (o : Option Nat) (cycle : Nat := 1500000) : State :=
  { planned with
    units := [(0, { ctx := 1 }), (1, { ctx := 1 }), (2, { ctx := 1 }), (3, { ctx := 1 }), (2 ^ 20, { ctx := 1 })]
    ops := if o.isSome then [(21, engineOp)] else [], cmds := [(40, { c with app := { appended with op := o } })], cycle := cycle }

theorem witness_Unanswered : (let s := { world with ops := [(21, farOp)], cycle := 1500000 }
      farOp.kind ≠ .engine ∧ farOp.reqs.find? (s.remoteReq farOp) = some { lane := 1, va := window (2 ^ 30), n := 4, reg := 4, key := sliceBase + 2 ^ 30 }
      ∧ farOp.sent + 1500000 ≤ s.cycle)
    ∧ (let c := farCmd none
       let s := farWorld c (some 21)
       s.cmds.find? (fun e => e.2.app.op == some 21) = some (40, c) ∧ c.live = true ∧ s.cmdRemote 40 c = some (window (2 ^ 30)) ∧ c.awaits = none)
    ∧ (let c := farCmd (some 0)
       let s := farWorld c (some 21)
       s.cmdRemote 40 c = some (window (2 ^ 30)) ∧ 0 + 1500000 ≤ s.cycle ∧ (farWorld c (some 21) 9).cycle < 0 + 1500000
       ∧ c.posting = false ∧ c.live = true ∧ c.kind = 2)
    -- one that a trigger appended
    ∧ (let s := farWorld (farCmd none) none
       SMap.find s.ops 40 = none ∧ (SMap.find s.cmds 40).isSome = true)
    -- one whose place is its own package's
    ∧ (farWorld (farCmd none) none).cmdRemote 40 (running fillWords) = none := by decide +kernel

/-- A record on its way to a queue whose records lie in another package. -/
theorem witness_Unanswered_post : let c : Cmd := { farCmd (some 0) with posting := true, app := { appended with op := none } }
    let p : EvPost := { cmd := 40, queue := window 0xA00, words := [] }
    let s0 := farWorld c none
    let s := { s0 with cmds := [(40, c)], posts := [(60, p)], mem := Mem.write s0.mem (sliceBase + 0xA00) 32 (natOfDwords [1, 2, window (2 ^ 30), 1]) }
    (s.cmdRemote 40 c).isSome = true ∧ c.awaits = some 0 ∧ c.posting = true ∧ s.posts.find? (fun e => e.2.cmd == 40) = some (60, p) := by decide +kernel

theorem witness_Unanswered_place : let c := farCmd none
    let s := farWorld c none
    (c.kind = 2 ∧ c.checked = true ∧ c.posting = false ∧ c.spills = [])
    ∧ (match s.xlate (c.who 40) c.app.va .read with
       | (.at l, _) => (homeOf l.key).1 == c.pkg
       | _ => false) = true
    ∧ (match s.xlate (c.who 40) (c.word 3 + BitVec.ofNat 64 (64 * c.pos)) .read with
       | (.at l, _) => (homeOf l.key).1 == 1
       | _ => false) = true := by decide +kernel

/-! Power: without power, and with; whether an image of the flash passes is the package's. -/

theorem witness_Power (pkg : Nat) : SMap.find State.reset.pkgs 0 = some {} ∧ ({} : Pkg).on = false ∧ ((world.pkg 0).on = true)
    ∧ ((imagePasses pkg 0 = false ∧ imagePasses pkg 0x01000000 = false)
      ∨ ∃ off, off = (if imagePasses pkg 0 then 0 else 0x01000000) ∧ imagePasses pkg off = true)
    ∧ (841 : Nat) < 2 ^ 12 ∧ 921 < 2 ^ 12 ∧ 920 < 921 := by
  refine ⟨rfl, rfl, rfl, ?_, by decide, by decide, by decide⟩
  cases h : imagePasses pkg 0
  · cases k : imagePasses pkg 0x01000000
    · exact .inl ⟨rfl, rfl⟩
    · exact .inr ⟨_, rfl, k⟩
  · exact .inr ⟨_, rfl, h⟩

/-- FIPS 180-4: the digest of "abc". -/
theorem test_sha384_abc : bigNat (sha384 [0x61, 0x62, 0x63])
    = 0xCB00753F45A35E8BB5A03D699AC65007272C32AB0EDED1631A8B605A43FF5BED8086072BA1E7CC2358BAECA134C825A7 := by decide +kernel

/-! Decoding, clauses and steps. -/

theorem witness_Decoding : encode (.sadd 3 1 2) = some (0x10030102, none) ∧ (Instr.sadd 3 1 2).wellFormed = true ∧ decode 0x10030102 0 = .ok (.sadd 3 1 2)
    ∧ opcodeOf 0x10030102 ∉ [0x09, 0x22, 0x6A] ∧ encode (.slit 3 0x8000) = some (0x22030000, some 0x8000) ∧ (Instr.slit 3 0x8000).wellFormed = true
    ∧ opcodeOf 0x22030000 ∈ [0x09, 0x22, 0x6A] := by decide

/-- A word at 0x1004 of the clause, or at 0x1000 where a header is due. -/
def fetching (w : Nat) (at_ : Nat := 0x1004) : State := { world with mem := Mem.write [] at_ 4 w }

/-- The word is fetched there, and its slot is that of the state. -/
def Fetches (s : State) (w : Word) : Bool := okAnd (s.fetchWord (s.slot s.cur).pc) fun x => x.1 == w && ({ x.2 with word := w } : State).slot s.cur == s.slot s.cur

theorem witness_WordFates : (∀ w ∈ [0x10030102, 0x0D000000, 0x7F000000, 0x22030000, 0xF1FF0FF0], Fetches (fetching w) (BitVec.ofNat 32 w) = true)
    ∧ (0x1004 : Dword) + 4 ≠ (clause).next ∧ decode 0x10030102 0 = .ok (.sadd 3 1 2) ∧ portsOfWord 0x10030102 = []
    ∧ (∀ j, decode 0x7F000000 0 ≠ .ok j) ∧ isSys (fetching 0).cur = false ∧ isSys coreWorld.cur = true
    ∧ okAnd ((fetching 0x22030000).fetchWord 0x1008) (fun x => x.1 == 0) = true ∧ (∃ i, decode 0x22030000 0 = .ok i) := by
  refine ⟨by decide +kernel, by decide, rfl, by decide, ?_, by decide, by decide, by decide +kernel, ⟨_, rfl⟩⟩
  intro j h
  cases h

/-- Long forms: on a core one that it may not hold; one whose literal lies beyond memory; a port that no launch enables. -/
theorem witness_WordFates_long :
    (let s := { coreWorld with mem := Mem.write [] 0x1004 4 0x6A040000 }
     okAnd (s.fetchWord 0x1004) (fun x => x.1 == 0x6A040000) = true ∧ isSys s.cur = true)
    ∧ (let s := (fetching 0x22030000 0xFFFFFFFFC).setSlot world.cur { slot with pc := 0xFFFFFFFFC, clause := some { hdr := 0xFFFFFFFF8, len := 3, seta := 15, setb := 15, yield := false } }
       okAnd (s.fetchWord 0xFFFFFFFFC) (fun x => !answersOk (x.2.fetchWord 0x1000000000)) = true)
    ∧ portsOfWord 0x4004E001 = [0] ∧ (fetching 0x4004E001).portOn 0 = false := by decide +kernel

theorem witness_ReservedOpcodes : (fetching 0x8E000000).comparatorHere = none ∧ Fetches (fetching 0x8E000000) 0x8E000000 = true
    ∧ (0x8E000000 : Word).toNat / 2 ^ 24 = 0x8E := ⟨by decide, by decide +kernel, by decide⟩

/-- A header of three words that waits for pip 3, at the pc of a slot that expects one. -/
def heading (w : Nat) (pips : SMap Nat := []) : State :=
  ((fetching w 0x1000).setSlot world.cur { slot with pc := 0x1000, clause := none }).setHart world.cur { hart with pips := pips }

theorem witness_ClauseEntry : Fetches (heading 0xF2008FF0) 0xF2008FF0 = true ∧ Fetches (heading 0xF2008FF1) 0xF2008FF1 = true
    ∧ okAnd ((heading 0xF2008FF0).clauseWords 0x1004 3) (fun x => x.1 == [0, 0, 0]) = true ∧ portsOfClause [0, 0, 0] = []
    ∧ ((heading 0xF2008FF0).slot world.cur).ripple = none ∧ (∀ n, n < 12 → ((heading 0xF2008FF0).hart world.cur).pip n = 0)
    ∧ ((heading 0xF2008FF0 [(3, 1)]).hart world.cur).pip 3 ≠ 0 := by decide +kernel

/-- The outside lets the slot issue: inside its clause, and before one. -/
def issuing (s : State) : State := { s with turns := [.issue (.slot 5 0)] }

/-- A slot that goes on in a ripple clause has waited: its clause names a port, and is legal, or not. -/
theorem witness_ClauseEntry_ripple : let s := ported 0
    okAnd (s.fetchWord 0x1000) (fun x => x.1 == 0xF1000FF0 && okAnd (x.2.clauseWords 0x1004 2) fun y =>
      portsOfClause y.1 == [0] && rippleLegal y.1 [0]) = true
    ∧ (s.slot s.cur).ripple ≠ none ∧ rippleLegal [0x4004E001, 0x64000001] [0] = false := by decide +kernel

theorem witness_StepRunsDecoded :
    (let s := fetching 0x10030102
     s.canIssue (.slot 5 0) = true ∧ s.chosen (.slot 5 0) = .slot 5 0
     ∧ ({ s with cur := .slot 5 0, word := 0 } : State).lateDue (.slot 5 0) = false ∧ (s.slot (.slot 5 0)).ripple = none ∧ (s.slot (.slot 5 0)).wave = none
     ∧ (s.slot (.slot 5 0)).clause = some (clause) ∧ ({ s with cur := .slot 5 0, word := 0 } : State).comparatorHere = none)
    ∧ (∃ t, ({ fetching 0x10030102 with cur := .slot 5 0, word := 0 } : State).wordFate (clause) = .ok (.runs (.sadd 3 1 2) t))
    ∧ (∃ u, ({ heading 0xF2008FF0 with cur := .slot 5 0, word := 0 } : State).enterClause = .ok (.entered u) ∧ (u.slot u.cur).clause = some (clause)
        ∧ (let u1 := (u.started (.slot 5 0)).traceIssue (.slot 5 0) 0x1000
           u1.cur = .slot 5 0 ∧ u1.comparatorHere = none ∧ ∃ t, u1.wordFate (clause) = .ok (.runs .nop t))) :=
  ⟨⟨by decide +kernel, by decide +kernel, by decide +kernel, rfl, rfl, rfl, by decide +kernel⟩, ⟨_, rfl⟩, ⟨_, rfl, rfl, rfl, rfl, _, rfl⟩⟩

theorem witness_MemoryStaysCanonical : Memory.wf (issuing (fetching 0x10030102)).mem = true ∧ ∃ t, step (issuing (fetching 0x10030102)) = .next t :=
  ⟨by decide +kernel, _, rfl⟩

/-- The spec's own examples of assembly. -/
theorem test_decode_examples : ∀ e ∈ ([
    (0x0207FFFE, .bz 7 0xFFFE), (0x06000040, .call 0x40), (0x08000900, .callr 9), (0x07003E00, .jr 62), (0x0E030002, .waitc 3 2),
    (0x14010203, .smulhn 1 2 3), (0x1F040506, .ssel 4 5 6), (0x230101FF, .saddi 1 1 0xFF), (0x2602033F, .sshri 2 3 63),
    (0x2D080900, .sclz 8 9), (0x2F040506, .sbfx 4 5 6), (0x32043DFE, .sld32 4 61 0xFE), (0x37030500, .sst64 3 5 0),
    (0x3A050010, .srsr 5 0x10), (0x3B060021, .swsr 6 0x21), (0x3C0A0B0C, .splace 10 11 12), (0x3D04040E, .sfadd 4 4 14),
    (0x700020A5, .setmode 0x20A5), (0x710014A5, .modeone 0x14A5), (0x72090000, .rdmode 9), (0x73000900, .wrmode 9), (0x74000102, .fmtset 1 2),
    (0x75030100, .fmtget 3 1), (0x7D020700, .sfsqrt 2 7)] : List (Word × Instr)), decode e.1 0 = .ok e.2 := by
  simp only [List.forall_mem_cons, List.not_mem_nil, false_implies, implies_true, and_true]
  refine ⟨rfl, rfl, rfl, rfl, rfl, rfl, rfl, rfl, rfl, rfl, rfl, rfl, rfl, rfl, rfl, rfl, rfl, rfl, rfl, rfl, rfl, rfl, rfl, rfl⟩

theorem test_decode_vector_examples : ∀ e ∈ ([
    (0x440607F2, .vmad 6 7 0xF2), (0x6902FFFF, .vli 2 0xFFFF), (0x650809EB, .vsel 8 9 0xEB), (0x68040305, .vbcast 4 3 5), (0x6B090803, .vget 9 8 3),
    (0x6C080903, .vput 8 9 3), (0x6207_0301, .vcmplt 7 3 1), (0x8102_0101, .vshup 2 1 1), (0x8305_0520, .vxorsh 5 5 32), (0x8407_0300, .vballot 7 3),
    (0x8507_0608, .vscan 7 6 8), (0x8714_0C02, .vtopk 20 12 2), (0x8810_0803, .vxpat 16 8 3), (0x8A09_0C0A, .rgdeal 9 12 10),
    (0x8B09_0A00, .rgclose 9 10), (0x9010_2000, .vld 16 32 0), (0x9A03_0705, .vpfx 3 7 5), (0xA70A_0C00, .vatcas 10 12 0),
    (0xAE00_0012, .fence 0x12), (0xB105_000E, .rgive 5 14), (0xB400_0002, .fwpub 2), (0xC31B_1009, .ofillv 27 16 9), (0xC801_0016, .oread 1 0 22),
    (0xD700_0405, .tbset 4 5), (0xDB09_0807, .evack 9 8 7), (0xE004_F206, .vcput 4 0xF2 6), (0xE305_0600, .a2aplan 5 6), (0xEA07_0304, .tmark 7 3 4),
    (0xEB00_0002, .wfe 2)] : List (Word × Instr)), decode e.1 0 = .ok e.2 := by
  simp only [List.forall_mem_cons, List.not_mem_nil, false_implies, implies_true, and_true]
  refine ⟨rfl, rfl, rfl, rfl, rfl, rfl, rfl, rfl, rfl, rfl, rfl, rfl, rfl, rfl, rfl, rfl, rfl, rfl, rfl, rfl, rfl, rfl, rfl, rfl, rfl, rfl, rfl, rfl, rfl⟩

/-- What decodes to nothing: a reserved opcode, codes out of range, non-zero bits that must be zero, a header. -/
theorem test_decode_refuses : ∀ w ∈ [0x7F000000, 0x40E00102, 0x4004EE02, 0x10400102, 0x0D000001, 0x07010000, 0xAE000006, 0xAE000008, 0xF0000FF0],
    (match decode (BitVec.ofNat 32 w) 0 with
     | .ok _ => true
     | .error _ => false) = false := by decide

/-- One ill-formed term for every check. -/
theorem test_ill_formed : ∀ i ∈ [Instr.sadd 64 1 2, .sadd 3 64 2, .sadd 3 1 64, .vadd 224 1 2, .vadd 4 238 2, .vadd 4 1 239, .vld 232 1 2, .vtopk 224 1 0,
    .fence 0x40, .fence 0x08, .fence 0x06, .waitc 12 0, .waitc 0 64, .sshli 1 2 64, .vshup 1 2 64, .vscan 1 2 16, .vxpat 1 2 16, .vpfx 64 1 2, .fwpub 8],
    i.wellFormed = false := by decide

theorem test_well_formed : ∀ i ∈ [Instr.sadd 63 0 63, .vadd 223 237 255, .vadd 232 224 240, .vld 223 1 2, .fence 0x35, .waitc 11 63, .sshli 1 2 63,
    .vscan 1 2 15, .vxpat 1 2 15, .vpfx 63 1 2, .fwpub 7], i.wellFormed = true := by decide

/-! ## Single steps, with results from the spec's own tables and examples -/

/-- s1 and s2 hold a and b. -/
def pair (a b : Dword) : State := world.setHart world.cur { hart with sregs := [(1, a), (2, b), (60, 0x00E0000000000400)] }

/-- s3 after an instruction on a and b. -/
def gives (i : Instr) (a b r : Dword) : Bool := nextIs (exec i (pair a b)) fun t => t.readS 3 == r && (t.slot t.cur).pc == 0x1008

/-- R62, R63. -/
theorem test_scalar_division : gives (.sdiv 3 1 2) 7 (-2) (-3) = true ∧ gives (.srem 3 1 2) 7 (-2) 1 = true ∧ gives (.srem 3 1 2) (-7) 2 (-1) = true
    ∧ gives (.sdivn 3 1 2) (-1) 2 0x7FFFFFFFFFFFFFFF = true ∧ gives (.sremn 3 1 2) (-1) 2 1 = true ∧ gives (.sdiv 3 1 2) 12 0 (-1) = true
    ∧ gives (.srem 3 1 2) 12 0 12 = true ∧ gives (.sdiv 3 1 2) (2 ^ 63) (-1) (2 ^ 63) = true ∧ gives (.srem 3 1 2) (2 ^ 63) (-1) 0 = true := by decide +kernel

theorem test_scalar_arithmetic : gives (.smulh 3 1 2) (-1) (-1) 0 = true ∧ gives (.smulhn 3 1 2) (-1) (-1) (-2) = true
    ∧ gives (.smulh 3 1 2) (2 ^ 63) (2 ^ 63) (2 ^ 62) = true ∧ gives (.ssar 3 1 2) (2 ^ 63) 67 0xF000000000000000 = true
    ∧ gives (.sadd 3 1 2) (-1) 2 1 = true ∧ gives (.ssub 3 1 2) 1 2 (-1) = true ∧ gives (.smul 3 1 2) (2 ^ 63) 3 (2 ^ 63) = true
    ∧ gives (.sshl 3 1 2) 1 65 2 = true ∧ gives (.sshr 3 1 2) (2 ^ 63) 63 1 = true ∧ gives (.sand 3 1 2) 12 10 8 = true
    ∧ gives (.sor 3 1 2) 12 10 14 = true ∧ gives (.sxor 3 1 2) 12 10 6 = true := by decide +kernel

/-- R64, R65. -/
theorem test_scalar_immediates : gives (.sli 3 0x8000) 0 0 0xFFFFFFFFFFFF8000 = true ∧ gives (.saddi 3 1 0xFF) 1 0 0 = true
    ∧ gives (.sandi 3 1 0xFE) 7 0 6 = true ∧ gives (.sshli 3 1 63) 3 0 (2 ^ 63) = true ∧ gives (.ssari 3 1 63) (2 ^ 63) 0 (-1) = true
    ∧ gives (.seq 3 1 2) 5 5 1 = true ∧ gives (.slt 3 1 2) (-1) 0 1 = true ∧ gives (.sltn 3 1 2) (-1) 0 0 = true
    ∧ gives (.smin 3 1 2) (-1) 4 (-1) = true ∧ gives (.smax 3 1 2) (-1) 4 4 = true ∧ gives (.sclz 3 1) 0 0 64 = true ∧ gives (.sclz 3 1) 1 0 63 = true
    ∧ gives (.spopc 3 1) (-1) 0 64 = true ∧ gives (.sbfx 3 1 2) 0xF3A0 0x10304 0xFFFFFFFFFFFFFFFA = true ∧ gives (.sbfx 3 1 2) 0xF3A0 0x304 0xA = true
    ∧ nextIs (exec (.slih 1 0x1234) (pair 0x5678 0)) (fun t => t.readS 1 == 0x56781234) = true
    ∧ nextIs (exec (.slit 3 0x80000000) (pair 0 0)) (fun t => t.readS 3 == 0x80000000 && (t.slot t.cur).pc == 0x100C) = true := by decide +kernel

/-- R99, R107 to R112: fp32 of 0x7F7FFFFF and 2.0, divisions by zero, the root of -0. -/
theorem test_scalar_floats : gives (.sfmul 3 1 2) 0x7F7FFFFF 0x40000000 0x7F800000 = true
    ∧ nextIs (exec (.sfmul 3 1 2) ((pair 0x7F7FFFFF 0x40000000).setSlot world.cur { slot with pmode := some 0x20A5 })) (fun t => t.readS 3 == 0x7F7FFFFF) = true
    ∧ gives (.sfadd 3 1 2) 0x3F800000 0x40000000 0x40400000 = true ∧ gives (.sfsub 3 1 2) 0x3F800000 0x3F800000 0 = true
    ∧ gives (.sfdiv 3 1 2) 0x3F800000 0 0x7F800000 = true ∧ gives (.sfsqrt 3 1) 0x80000000 0 0x80000000 = true ∧ gives (.sfsqrt 3 1) 0x40800000 0 0x40000000 = true
    ∧ gives (.sfmax 3 1 2) 0xFF800000 0x40400000 0x40400000 = true ∧ gives (.sfmin 3 1 2) 0 0x80000000 0x80000000 = true
    ∧ gives (.sfexp2 3 1) 0x40400000 0 0x41000000 = true := by decide +kernel

/-- R66: stores of the low bytes, loads that zero-extend. -/
theorem test_scalar_memory : nextIs (exec (.sst16 2 1 0x01) (pair 0x5000 0x12345)) (fun t => t.mem.contains (0x5002, 0x45) && t.mem.contains (0x5003, 0x23)
      && t.mem.length == 5 && (t.slot t.cur).pc == 0x1008) = true
    ∧ nextIs (exec (.sld8 3 1 0x05) (pair 0x4000 0)) (fun t => t.readS 3 == 0x80) = true
    ∧ nextIs (exec (.sld64 3 1 0xFF) (pair 0x4008 0)) (fun t => t.readS 3 == 0x802200000011) = true := by decide +kernel

/-- R58, R59, R33: targets from the header at 0x1000; the link register holds the address after the clause. -/
theorem test_branches : nextIs (exec (.br 0xFFFFFE) world) (fun t => (t.slot t.cur).pc == 0xFF8) = true
    ∧ nextIs (exec (.bz 1 4) (pair 0 0)) (fun t => (t.slot t.cur).pc == 0x1010) = true ∧ nextIs (exec (.bz 1 8) (pair 1 0)) (fun t => (t.slot t.cur).pc == 0x1010) = true
    ∧ nextIs (exec (.bltz 1 8) (pair (-1) 0)) (fun t => (t.slot t.cur).pc == 0x1020) = true
    ∧ nextIs (exec (.call 0x40) world) (fun t => (t.slot t.cur).pc == 0x1100 && t.readS 62 == 0x1010) = true
    ∧ nextIs (exec (.jr 1) (pair 0x2000 0)) (fun t => (t.slot t.cur).pc == 0x2000) = true := by decide +kernel

/-- R98, R100: reserved bits of a mode trap; `wrmode` takes 24 bits. -/
theorem test_modes : nextIs (exec (.setmode 0x20A5) world) (fun t => (t.hart t.cur).md == 0x20A5) = true
    ∧ exec (.setmode 0x800000) world = traps world 1 ∧ nextIs (exec (.wrmode 1) (pair 0xFF0000A5 0)) (fun t => (t.hart t.cur).md == 0xA5) = true
    ∧ nextIs (exec (.modeone 0x14A5) world) (fun t => (t.hart t.cur).md == 0xA5 && (t.slot t.cur).pmode == some 0x14A5) = true :=
  ⟨by decide +kernel, rfl, by decide +kernel, by decide +kernel⟩

/-- Lane 3 of v4 after an instruction whose formats are int32. -/
def lane3 (i : Instr) (r : Word) : Bool :=
  nextIs (exec i (under 0 0)) fun t => ((t.grp).regs.reg 4).getD 3 0 == r && ((t.grp).regs.reg 4).getD 4 0 == 0

/-- R165, R174 to R176: lanes 0 to 3 act; v1 holds 3 there, v2 12. -/
theorem test_vectors : lane3 (.vadd 4 1 2) 15 = true ∧ lane3 (.vsub 4 1 2) 0xFFFFFFF7 = true ∧ lane3 (.vmul 4 1 2) 36 = true ∧ lane3 (.vshl 4 1 1) 24 = true
    ∧ lane3 (.vmin 4 1 2) 3 = true ∧ lane3 (.vand 4 1 2) 0 = true ∧ lane3 (.vli 4 0xFFFF) 0xFFFFFFFF = true ∧ lane3 (.vlit 4 0x3F800000) 0x3F800000 = true
    ∧ lane3 (.vmov 4 2) 12 = true ∧ lane3 (.vadd 4 1 0xF2) 8 = true ∧ lane3 (.vput 4 2 2) 0 = true := by decide +kernel

theorem test_cross_lane : lane3 (.vshup 4 1 1) 2 = true ∧ lane3 (.vxorsh 4 1 1) 2 = true ∧ lane3 (.vshfl 4 2 1) 12 = true
    ∧ nextIs (exec (.vballot 7 1) (under 0 0)) (fun t => t.readS 7 == 0xE) = true
    ∧ nextIs (exec (.vcmplt 7 1 0xF2) (under 0 0)) (fun t => t.readS 7 == 0xF) = true
    ∧ nextIs (exec (.vget 7 2 2) (under 0 0)) (fun t => t.readS 7 == 20) = true := by decide +kernel

/-- R225, R226: element addresses s[b] + the lane's offset. -/
theorem test_vector_memory : nextIs (exec (.vst 1 2 6) world) (fun t => Mem.byte t.mem 0x4004 == 1 && Mem.byte t.mem 0x400C == 3 && Mem.byte t.mem 0x4010 == 0) = true
    ∧ nextIs (exec (.vld 4 2 6) world) (fun t => ((t.grp).regs.reg 4).getD 1 0 == 0x8022 && ((t.grp).regs.reg 4).getD 0 0 == 0x11) = true := by decide +kernel

/-- R125: `exit` ends the active lanes; with none left the group drains. -/
theorem test_exit : nextIs (exec .exit world) (fun t => (t.group 5).exited == 0xF && (t.group 5).slot0.st == .free && (t.group 5).life == .draining) = true := by
  decide +kernel

/-- R346, R348, R351: with a handler, `trap` stores its frame and the clause of the handler is next; without one, and for `svc`, it is escalated. -/
def served : State := pooled.setGroup 5 { group with regs := {}, trap := { traph := 0x8000 } }

theorem test_trap : nextIs (exec (.trap 7) served) (fun t => (t.group 5).hart.handler && (t.group 5).slot0.pc == 0x8000
      && bits (SMap.get (t.group 5).hart.trap 0x40 0) 7 0 == 15 && (t.group 5).hart.md == 0xA5 && (t.group 5).trap.record == some 0x100000) = true
    ∧ nextIs (exec (.trap 7) world) (fun t => (t.group 5).trap.escalated.isSome) = true ∧ nextIs (exec (.svc 7) served) (fun t => (t.group 5).trap.escalated.isSome) = true := by decide +kernel

/-- R52, R68: `srsr` of LANES and of PKG. -/
theorem test_registers : nextIs (exec (.srsr 7 0x10) { world with cycle := 77 }) (fun t => t.readS 7 == 77) = true ∧ exec (.srsr 7 0xFFFF) world = traps world 1 :=
  ⟨by decide +kernel, rfl⟩

/-- CRC-32C of "123456789" (R389). -/
theorem test_crc : crc32c [0x31, 0x32, 0x33, 0x34, 0x35, 0x36, 0x37, 0x38, 0x39] = 0xE3069283 := by decide +kernel

/-- Right after reset the next step gives power, if nothing else is chosen. -/
theorem test_reset_powers_on : step { State.reset with turns := [.event .nop] } = .next { State.reset with cycle := 1 } := rfl

/-- A word placed where the next step fetches is the one that runs. -/
theorem test_placed_word : nextIs (step (State.reset.withFetchWord 32 0x2003002A)) (fun t => SMap.get (t.group 1).hart.sregs 3 0 == 42 && t.cycle == 1) = true := by
  decide +kernel

end Sys2Proof.Tests
end

/-! The ends of instructions, and what retiring one leaves: shared by the proofs below. -/

namespace Sys2Proof.Proofs

open Host (Outcome)
open Sys2Proof Sys2Proof.Machine Sys2Proof.Stated

/-- The end of an instruction that traps at its word. -/
theorem finish_trapAt (s : State) (cause : Nat) (addr det2 det3 : Dword) :
    finish (.error (s.trapAt cause addr det2 det3)) = traps s cause addr det2 det3 := by
  simp [State.trapAt, finish_trap, traps]

theorem finish_illegal (s : State) : finish (.error s.illegal) = traps s 1 := finish_trapAt s 1 0 0 0

@[simp] theorem guardRes_true (e : Exc) : guardRes true e = .ok () := rfl
@[simp] theorem guardRes_false (e : Exc) : guardRes false e = .error e := rfl

/-- Registers that are ready are ready in part. -/
theorem need_of_ready {s : State} {l l' : List (BitVec 8)} (h : Ready s l) (hs : ∀ x ∈ l', x ∈ l) : s.need l' = .ok () :=
  State.need_sub hs h

/-- A scalar operation on ready registers puts its value. -/
theorem finish_scalarOp {s : State} {d : BitVec 8} {srcs : List (BitVec 8)} (v : State → Dword)
    (h : s.need (d :: srcs) = .ok ()) : finish (scalarOp d srcs v s) = puts s d (v s) := by
  rw [scalarOp, h, except_ok_bind, finish_ok, puts]

/-! ## What retiring leaves -/

@[simp] theorem State.count_ctxs (s : State) : s.count.ctxs = s.ctxs := by simp [State.count]

@[simp] theorem State.advance_ctxs (s : State) (n : Nat) : (s.advance n).ctxs = s.ctxs := by
  unfold State.advance
  simp only
  repeat' split
  all_goals simp

@[simp] theorem State.retire_ctxs (s : State) (n : Nat) : (s.retire n).ctxs = s.ctxs := by simp [State.retire]

theorem State.retire_hart (s : State) (n : Nat) :
    (s.retire n).hart s.cur = { s.hart s.cur with retired := (s.hart s.cur).retired + 1 } := by
  have := State.advance_hart s.count n
  rw [State.count_cur, State.count_hart] at this
  exact this

theorem State.retire_pmode (s : State) (n : Nat) : ((s.retire n).slot s.cur).pmode = none := by
  obtain ⟨c, y, h⟩ := State.advance_slot s.count n
  rw [State.count_cur, State.count_slot] at h
  rw [State.retire, h]

end Sys2Proof.Proofs

/-! Words and instructions: O54, O55. -/

namespace Sys2Proof.Proofs

open Host (Outcome)
open Sys2Proof Sys2Proof.Machine Sys2Proof.Stated

/-! ## The fields of a word (R31) -/

theorem opcodeOf_eq_extract (w : Word) : opcodeOf w = (w.extractLsb' 24 8).toNat := by
  simp only [opcodeOf, BitVec.extractLsb'_toNat, Nat.shiftRight_eq_div_pow]
  omega

/-- The opcode of a word as a bit field is one of eight bits. -/
theorem opcodeOf_eq_iff {w : Word} {op : BitVec 8} : opcodeOf w = op.toNat ↔ w.extractLsb' 24 8 = op := by
  rw [opcodeOf_eq_extract, BitVec.toNat_inj]

theorem wABC_eq_iff {op d a b : BitVec 8} {w : Word} :
    wABC op d a b = w ↔ opcodeOf w = op.toNat ∧ fD w = d ∧ fA w = a ∧ fB w = b := by
  rw [opcodeOf_eq_iff]
  constructor
  · rintro rfl
    refine ⟨?_, ?_, ?_, ?_⟩ <;> ext i hi <;> simp [wABC, fD, fA, fB] <;> grind
  · rintro ⟨rfl, rfl, rfl, rfl⟩
    ext i hi
    simp [wABC, fD, fA, fB]
    grind

theorem wC_eq_iff {op d : BitVec 8} {i : BitVec 16} {w : Word} :
    wC op d i = w ↔ opcodeOf w = op.toNat ∧ fD w = d ∧ f16 w = i := by
  rw [opcodeOf_eq_iff]
  constructor
  · rintro rfl
    refine ⟨?_, ?_, ?_⟩ <;> ext i hi <;> simp [wC, fD, f16] <;> grind
  · rintro ⟨rfl, rfl, rfl⟩
    ext i hi
    simp [wC, fD, f16]
    grind

theorem wD_eq_iff {op : BitVec 8} {i : BitVec 24} {w : Word} : wD op i = w ↔ opcodeOf w = op.toNat ∧ f24 w = i := by
  rw [opcodeOf_eq_iff]
  constructor
  · rintro rfl
    refine ⟨?_, ?_⟩ <;> ext i hi <;> simp [wD, f24] <;> grind
  · rintro ⟨rfl, rfl⟩
    ext i hi
    simp [wD, f24]
    grind

/-! ## Decoding what is encoded -/

theorem decode_eq_ok_iff {w x : Word} {i : Instr} :
    decode w x = .ok i ↔ decodeFields w x = .ok i ∧ i.wellFormed = true := by
  unfold decode
  cases decodeFields w x with
  | error e => simp
  | ok j =>
    by_cases hj : j.wellFormed = true
    · simp only [hj, if_true, Except.ok.injEq]
      exact ⟨fun h => ⟨h, h ▸ hj⟩, And.left⟩
    · simp only [hj, if_false, reduceCtorEq, false_iff, Except.ok.injEq]
      rintro ⟨rfl, h⟩
      exact hj h

@[simp] theorem unusedZero_eq_ok_iff {z : Bool} {i j : Instr} : unusedZero z i = .ok j ↔ z = true ∧ i = j := by
  cases z <;> simp [unusedZero]

theorem decodeFields_of_encode {i : Instr} {w : Word} {l : Option Word} (x : Word) (h : encode i = some (w, l)) :
    decodeFields w (l.getD x) = .ok i := by
  cases i <;>
    simp only [encode, Option.some.injEq, Prod.mk.injEq, reduceCtorEq, wABC_eq_iff, wC_eq_iff, wD_eq_iff] at h
  all_goals
    obtain ⟨h, rfl⟩ := h
    simp only [decodeFields, h, BitVec.reduceToNat, Nat.reduceDiv, Nat.reduceMod, decodeRow0, decodeRow1, decodeRow2,
      decodeRow3, decodeRow4, decodeRow5, decodeRow6, decodeRow7, decodeRow8, decodeRow9, decodeRowA, decodeRowB, decodeRowC,
      decodeRowD, decodeRowE, unusedZero, decide_true, Bool.and_self, if_true, Option.getD_some]

theorem decodeOfEncode : DecodeOfEncode := fun _ _ _ x h hwf =>
  decode_eq_ok_iff.2 ⟨decodeFields_of_encode x h, hwf⟩

/-- The literal word that a word of a long form carries (R32). -/
def literalOf (w x : Word) : Option Word := if opcodeOf w ∈ [0x09, 0x22, 0x6A] then some x else none

theorem encode_of_decodeFields {w x : Word} {i : Instr} (h : decodeFields w x = .ok i) :
    encode i = some (w, literalOf w x) := by
  unfold decodeFields at h
  have hlo : opcodeOf w % 16 < 16 := Nat.mod_lt _ (by decide)
  have hop := Nat.div_add_mod (opcodeOf w) 16
  generalize opcodeOf w / 16 = r at h hop
  generalize opcodeOf w % 16 = lo at h hop hlo
  split at h
  case h_16 => cases h
  all_goals
    interval_cases lo <;>
      simp only [decodeRow0, decodeRow1, decodeRow2, decodeRow3, decodeRow4, decodeRow5, decodeRow6, decodeRow7, decodeRow8,
        decodeRow9, decodeRowA, decodeRowB, decodeRowC, decodeRowD, decodeRowE, reduceCtorEq, Except.ok.injEq,
        unusedZero_eq_ok_iff] at h
  all_goals
    obtain ⟨hz, rfl⟩ := h
    simp_all [encode, literalOf, wABC_eq_iff, wC_eq_iff, wD_eq_iff, ← hop]

theorem encodeOfDecode : EncodeOfDecode := fun _ _ _ h =>
  have ⟨hf, hwf⟩ := decode_eq_ok_iff.1 h
  ⟨hwf, encode_of_decodeFields hf⟩

/-- Settles O54: the fields of a word and its encoding determine each other, opcode by opcode. -/
theorem decodeRoundTrip : Obligations.DecodeRoundTrip := ⟨decodeOfEncode, encodeOfDecode⟩

/-- Settles O55: each word is the encoding of its instruction; the illegal ones fail the check of their row. -/
theorem wordsDecode : Obligations.WordsDecode := by
  constructor
  · simp only [List.forall_mem_cons, List.not_mem_nil, false_implies, implies_true, and_true]
    refine ⟨?_, ?_, ?_, ?_, ?_, ?_, ?_, ?_, ?_, ?_, ?_, ?_, ?_, ?_, ?_, ?_, ?_⟩ <;> exact fun x => decodeOfEncode _ _ none x rfl rfl
  · simp only [List.forall_mem_cons, List.not_mem_nil, false_implies, implies_true, and_true]
    refine ⟨?_, ?_, ?_, ?_, ?_⟩ <;> exact fun x i h => by cases h

end Sys2Proof.Proofs

/-! Every meaning and every step answers a next state: O58. -/

namespace Sys2Proof.Proofs

open Host (Outcome)
open Sys2Proof Sys2Proof.Machine Sys2Proof.Stated

/-- A meaning answers a next state: neither a fault nor a refusal. -/
def Answers (o : Outcome State Fault Refusal) : Prop := ∃ t, o = .next t

@[simp] theorem answers_next (s : State) : Answers (.next s) := ⟨s, rfl⟩
@[simp] theorem answers_finish (r : Res) : Answers (finish r) := finish_next r

/-! ## The shared operations -/

theorem answers_deliberate (cause : Nat) (resume : Dword) (s : State) : Answers (deliberate cause resume s) := by
  unfold deliberate
  split <;> simp

theorem answers_regEvent (s : State) (n : Nat) (v : Dword) : Answers (regEvent s n v) := by
  unfold regEvent
  split <;> simp

theorem answers_maelub (s : State) (m : MaelubMsg) (op : Nat) : Answers (s.maelub m op) := by
  unfold State.maelub
  repeat' split
  all_goals simp

@[simp] theorem answers_out (x : Reply) (r : Req) : Answers (x.out r) := answers_next _

theorem answers_request (s : State) (r : Req) (op : Nat) (f : Reply) : Answers (s.request r op f) := by
  unfold State.request
  repeat' split
  all_goals simp

theorem answers_aluShift (f : Dword → Nat → Dword) (d a n : BitVec 8) (s : State) : Answers (aluShift f d a n s) := by
  unfold aluShift
  split
  · exact answers_finish _
  · exact answers_finish _

theorem answers_shiftUnits (d a n : BitVec 8) (take : Nat → Nat → Option Nat) (s : State) :
    Answers (shiftUnits d a n take s) := by
  unfold shiftUnits
  split
  · simp
  · exact answers_finish _

/-! ## Ripple clauses -/

theorem answers_rippleExec (i : Instr) (s : State) : Answers (rippleExec i s) := by
  unfold rippleExec
  split <;> exact answers_finish _

theorem answers_waveWords (c : Clause) (start : Option State) (n : Nat) : ∀ s : State, Answers (s.waveWords c start n) := by
  induction n with
  | zero => exact fun s => answers_next s
  | succ n ih =>
    intro s
    unfold State.waveWords
    simp only
    split
    · split <;> simp
    · simp
    · rename_i i s1 _
      obtain ⟨t, ht⟩ := answers_rippleExec i s1
      rw [ht]
      repeat' split
      all_goals simp_all

theorem answers_rippleAt (s : State) (ps : List Nat) : Answers (s.rippleAt ps) := by
  unfold State.rippleAt
  simp only
  repeat' split
  all_goals simp [answers_waveWords]

theorem answers_rippleGo (s : State) : Answers s.rippleGo := by
  unfold State.rippleGo
  simp only
  repeat' split
  all_goals simp [answers_waveWords, answers_rippleAt]

/-- Every row of the opcode table answers: its arm in `exec` ends in an effect, or in a shared operation that does. -/
theorem exec_answers (i : Instr) (s : State) : Answers (exec i s) := by
  cases i with
  | trap n | svc n => exact answers_deliberate ..
  | sshli | sshri | ssari => simp only [exec, execSshli, execSshri, execSsari, answers_aluShift]
  | vshup | vshdn | vxorsh => simp only [exec, execVshup, execVshdn, execVxorsh, answers_shiftUnits]
  | timensWrite v | translationFlush v | cqpushWrite v | sevsendWrite v | reqsendWrite v | streamqWrite v
  | plentWrite v => exact answers_regEvent ..
  | maelubStop m | maelubRun m | maelubStep m | maelubDump m | maelubRdmem m | maelubWrmem m | maelubRdsr m
  | maelubWrsr m | maelubWrreg m => exact answers_maelub ..
  | reqClose r | reqMap r | reqUnmap r | reqLoad r | reqQueue r | reqLaunch r | reqRead r | reqWrite r | reqFmt r
  | reqReserve r | reqSuspend r | reqSlice r | reqBoard r | reqQuantum r => exact answers_request ..
  | bmerge | exit | waitc | tret | pdone | brk | rippleRound | addressComparatorFire =>
    simp only [exec, execBmerge, execExit, execWaitc, execTret, execPdone, execBrk, execRippleRound,
      execAddressComparatorFire]
    repeat' split
    all_goals simp [answers_deliberate, answers_rippleGo]
  | unitTag | unitFree | boardAllot | boardFree | routeTableWrite | systemRegisterWrite =>
    simp only [exec, execUnitTag, execUnitFree, execBoardAllot, execBoardFree, execRouteTableWrite,
      execSystemRegisterWrite]
    repeat' split
    all_goals simp [answers_regEvent]
  | maelubStepTimeout | maelubStatus | requestSlotWrite | reqOpen | reqDebug | reqWait =>
    simp only [exec, execMaelubStepTimeout, execMaelubStatus, execRequestSlotWrite, execReqOpen, execReqDebug,
      execReqWait]
    repeat' split
    all_goals simp [answers_maelub, answers_request]
  | publishArrival | distributorExamination | groupRelease | waitSave | savedGroupRelaunch | claimGrant |
  claimDeadlockFault =>
    simp only [exec, execPublishArrival, execDistributorExamination, execGroupRelease, execWaitSave,
      execSavedGroupRelaunch, execClaimGrant, execClaimDeadlockFault, execRclaim]
    repeat' split
    all_goals simp
  | faultRecordPost | faultReplyReplay | faultReplyReject | trapEntry | escalationRecordPost | escalationReplyResume |
  escalationReplyEnd | systemCoreTrapEntry =>
    simp only [exec, execFaultRecordPost, execFaultReplyReplay, execFaultReplyReject, execTrapEntry,
      execEscalationRecordPost, execEscalationReplyResume, execEscalationReplyEnd, execSystemCoreTrapEntry]
    repeat' split
    all_goals simp
  | preemptionRequestTaken | hardwareSave | contextSuspend | suspensionComplete | registerFileError =>
    simp only [exec, execPreemptionRequestTaken, execHardwareSave, execContextSuspend, execSuspensionComplete,
      execRegisterFileError]
    repeat' split
    all_goals simp
  | scalarAccessComplete | vectorAccessComplete | atomicRequestComplete | collectiveComplete |
  deferredDataIntegrityFault | remoteAccessTimeout =>
    simp only [exec, execScalarAccessComplete, execVectorAccessComplete, execAtomicRequestComplete,
      execCollectiveComplete, execDeferredDataIntegrityFault, execRemoteAccessTimeout]
    repeat' split
    all_goals simp
  | commandStart | commandComplete | relayFactoringDone | relayPassStart | relayPassComplete | stampRecordWrite |
  fillComplete =>
    simp only [exec, execCommandStart, execCommandComplete, execRelayFactoringDone, execRelayPassStart,
      execRelayPassComplete, execStampRecordWrite, execFillComplete]
    repeat' split
    all_goals simp
  | slotReleaseComplete | matrixOperationStart | raggedFenceRead | matrixOperationComplete | selfTestInject =>
    simp only [exec, execSlotReleaseComplete, execMatrixOperationStart, execRaggedFenceRead,
      execMatrixOperationComplete, execSelfTestInject]
    repeat' split
    all_goals simp
  | flitReceive | linkBringUp | planPhaseStart | planComplete | wfeTimeout | traceSample | powerOn | thermalThrottle |
  thermalPowerOff | powerOff =>
    simp only [exec, execFlitReceive, execLinkBringUp, execPlanPhaseStart, execPlanComplete, execWfeTimeout,
      execTraceSample, execPowerOn, execThermalThrottle, execThermalPowerOff, execPowerOff]
    repeat' split
    all_goals simp
  | nop | br | rslice | eventRecordPost | contextResume | eccError => exact answers_next _
  | _ => exact answers_finish _

/-! ## The issue of a word -/

theorem answers_afterIssue {o : Outcome State Fault Refusal} (a : Agent) (pc : Dword) (w : Word) (h : Answers o) :
    Answers (afterIssue a pc w o) := by
  obtain ⟨t, rfl⟩ := h
  exact answers_next _

theorem answers_stepEnd {o : Outcome State Fault Refusal} (a : Agent) (s : State) (h : Answers o) :
    Answers (stepEnd a s o) := by
  obtain ⟨t, rfl⟩ := h
  exact answers_next _

theorem answers_tick {o : Outcome State Fault Refusal} (h : Answers o) : Answers (tick o) := by
  obtain ⟨t, rfl⟩ := h
  exact answers_next _

theorem answers_compared {o : Outcome State Fault Refusal} (s : State) (h : Answers o) : Answers (s.compared o) := by
  unfold State.compared
  repeat' split
  all_goals simp [h]

theorem answers_issueWord (s : State) (c : Clause) : Answers (s.issueWord c) := by
  unfold State.issueWord
  split
  · simp
  · split
    · simp
    · exact answers_compared _ (answers_finish _)
  · exact answers_compared _ (answers_afterIssue _ _ _ (exec_answers _ _))

theorem answers_issueClause (s : State) : Answers s.issueClause := by
  unfold State.issueClause
  split
  · simp
  · split
    · exact answers_issueWord _ _
    · simp
  · exact answers_afterIssue _ _ _ (answers_rippleAt _ _)

theorem answers_systemCoreTrapEntry (a : Agent) (s : State) : Answers (execSystemCoreTrapEntry a s) :=
  exec_answers (.systemCoreTrapEntry a) s

theorem answers_deferredFault (a : Agent) (s : State) : Answers (execDeferredDataIntegrityFault a s) :=
  exec_answers (.deferredDataIntegrityFault a) s

theorem answers_issueAs (s : State) (a : Agent) : Answers (s.issueAs a) := by
  unfold State.issueAs
  simp only
  split
  · split
    · exact answers_systemCoreTrapEntry _ _
    · exact answers_deferredFault _ _
  · split
    · exact answers_afterIssue _ _ _ (answers_rippleGo _)
    · split
      · exact answers_issueWord _ _
      · exact answers_issueClause _

theorem answers_issue (s : State) (a : Agent) : Answers (s.issue a) := by
  unfold State.issue
  split
  · exact answers_stepEnd _ _ (answers_issueAs _ _)
  · simp

/-! ## The machine's own choice -/

theorem answers_of_tryIssue {s : State} {a : Agent} {o : Outcome State Fault Refusal} (h : s.tryIssue a = some o) :
    Answers o := by
  obtain ⟨t, ht⟩ := answers_issue s a
  unfold State.tryIssue at h
  rw [ht] at h
  simp only at h
  repeat' split at h
  all_goals cases h
  all_goals exact answers_next _

theorem answers_of_tryEvent {s : State} {f : State → Outcome State Fault Refusal} {o : Outcome State Fault Refusal}
    (hf : ∀ s, Answers (f s)) (h : s.tryEvent f = some o) : Answers o := by
  obtain ⟨t, ht⟩ := hf s
  unfold State.tryEvent at h
  rw [ht] at h
  simp only at h
  split at h
  · cases h
  · cases h
    exact answers_next _

/-- What may happen of itself answers. -/
def AllAnswer (l : List (State → Outcome State Fault Refusal)) : Prop := ∀ f ∈ l, ∀ s, Answers (f s)

theorem AllAnswer.append {l m : List (State → Outcome State Fault Refusal)} (hl : AllAnswer l) (hm : AllAnswer m) :
    AllAnswer (l ++ m) := fun f hf => (List.mem_append.1 hf).elim (hl f) (hm f)

theorem AllAnswer.map {α : Type} (l : List α) {f : α → State → Outcome State Fault Refusal} (h : ∀ x s, Answers (f x s)) :
    AllAnswer (l.map f) := fun g hg => by
  obtain ⟨x, -, rfl⟩ := List.mem_map.1 hg
  exact h x

theorem AllAnswer.flatMap {α : Type} (l : List α) {f : α → List (State → Outcome State Fault Refusal)}
    (h : ∀ x, AllAnswer (f x)) : AllAnswer (l.flatMap f) := fun g hg => by
  obtain ⟨x, -, hx⟩ := List.mem_flatMap.1 hg
  exact h x g hx

@[simp] theorem allAnswer_nil : AllAnswer [] := fun _ h => nomatch h
@[simp] theorem allAnswer_cons {f : State → Outcome State Fault Refusal} {l : List (State → Outcome State Fault Refusal)} :
    AllAnswer (f :: l) ↔ (∀ s, Answers (f s)) ∧ AllAnswer l := List.forall_mem_cons

theorem allAnswer_groupEvents (gid : Nat) : AllAnswer (groupEvents gid) := by
  simp only [groupEvents, allAnswer_cons, allAnswer_nil, and_true]
  exact ⟨exec_answers (.trapEntry gid), exec_answers (.preemptionRequestTaken gid), exec_answers (.hardwareSave gid),
    exec_answers (.waitSave gid), exec_answers (.groupRelease gid), exec_answers (.claimGrant gid 0),
    exec_answers (.claimGrant gid 1), exec_answers (.savedGroupRelaunch gid 0), exec_answers (.wfeTimeout (.slot gid 0)),
    exec_answers (.wfeTimeout (.slot gid 1))⟩

theorem allAnswer_opEvents (n : Nat) (o : Op) : AllAnswer (opEvents n o) := by
  simp only [opEvents, allAnswer_cons, allAnswer_nil, and_true]
  refine ⟨exec_answers (.scalarAccessComplete n), exec_answers (.vectorAccessComplete n),
    exec_answers (.atomicRequestComplete n), exec_answers (.collectiveComplete n), ?_⟩
  split
  · exact answers_systemCoreTrapEntry _
  · exact answers_deferredFault _

theorem allAnswer_pkgEvents (pkg : Nat) : AllAnswer (pkgEvents pkg) := by
  simp only [pkgEvents, allAnswer_cons, allAnswer_nil, and_true]
  exact ⟨exec_answers (.faultRecordPost pkg), exec_answers (.escalationRecordPost pkg),
    exec_answers (.requestSlotWrite { pkg := pkg } []), exec_answers (.planPhaseStart pkg), exec_answers (.planComplete pkg),
    exec_answers (.maelubStepTimeout pkg)⟩

theorem allAnswer_cmdEvents (n : Nat) : AllAnswer (cmdEvents n) := by
  simp only [cmdEvents, allAnswer_cons, allAnswer_nil, and_true]
  exact ⟨exec_answers (.commandComplete n), exec_answers (.relayFactoringDone n), exec_answers (.relayPassStart n),
    exec_answers (.relayPassComplete n), exec_answers (.fillComplete n)⟩

theorem allAnswer_dominoEvents (dk : Nat) (d : Domino) : AllAnswer (dominoEvents dk d) := by
  refine .append ?_ (.map _ fun e => exec_answers (.slotReleaseComplete dk e.1))
  simp only [allAnswer_cons, allAnswer_nil, and_true]
  exact ⟨exec_answers (.matrixOperationStart dk), exec_answers (.raggedFenceRead dk),
    exec_answers (.matrixOperationComplete dk)⟩

theorem allAnswer_events (s : State) : AllAnswer s.events := by
  have outer := (((AllAnswer.flatMap s.groups fun e => allAnswer_groupEvents e.1).append
      (.flatMap s.ops fun e => allAnswer_opEvents e.1 e.2)).append
      (.map s.chains fun e => exec_answers (.commandStart e.1))).append
      (.flatMap s.cmds fun e => allAnswer_cmdEvents e.1)
  have units := ((outer.append (.map s.posts fun e => exec_answers (.eventRecordPost e.1))).append
      (.map s.tiles fun e => exec_answers (.stampRecordWrite e.1))).append
      (.flatMap s.dominoes fun e => allAnswer_dominoEvents e.1 e.2)
  have work := ((units.append (.flatMap s.launches fun e =>
      .map e.2.items fun x => exec_answers (.publishArrival (e.1 * 2 ^ 67 + x.1)))).append
      (.map s.wgs fun e => exec_answers (.claimDeadlockFault e.1))).append
      (.map s.ctxs fun e => exec_answers (.suspensionComplete (e.1 / 64) (e.1 % 64)))
  exact ((work.append (.map s.cores fun e =>
      exec_answers (.wfeTimeout (.sys (e.1 / 2048) (e.1 / 128 % 16) (e.1 % 128))))).append
      (.map s.parts fun e => exec_answers (.traceSample e.1))).append
      (.flatMap s.pkgs fun e => allAnswer_pkgEvents e.1)

theorem answers_of_tryDistribute {s : State} {o : Outcome State Fault Refusal} (h : s.tryDistribute = some o) : Answers o := by
  unfold State.tryDistribute at h
  split at h
  · obtain ⟨e, -, he⟩ := List.exists_of_findSome?_eq_some h
    exact answers_of_tryEvent (exec_answers (.distributorExamination e.1 0)) he
  · cases h

theorem answers_ownStep (s : State) : Answers s.ownStep := by
  unfold State.ownStep
  simp only
  split
  · exact exec_answers (.powerOn _ false) s
  · split
    · rename_i h
      exact answers_of_tryDistribute h
    · have issues : ∀ o, s.agents.findSome? s.tryIssue = some o → Answers o := fun o h => by
        obtain ⟨a, -, ha⟩ := List.exists_of_findSome?_eq_some h
        exact answers_of_tryIssue ha
      have events : ∀ o, s.events.findSome? s.tryEvent = some o → Answers o := fun o h => by
        obtain ⟨f, hf, hf'⟩ := List.exists_of_findSome?_eq_some h
        exact answers_of_tryEvent (allAnswer_events s f hf) hf'
      cases hi : s.agents.findSome? s.tryIssue <;> cases he : s.events.findSome? s.tryEvent <;>
        split <;> simp_all

theorem answers_take (s : State) (t : Turn) : Answers (s.take t) := by
  cases t with
  | issue a => exact answers_issue s _
  | event i =>
    simp only [State.take]
    split
    · exact exec_answers i s
    · simp
  | elapse n => exact answers_next _

theorem step_answers (s : State) : Answers (step s) := by
  unfold step
  split
  · exact answers_tick (answers_take _ _)
  · exact answers_tick (answers_ownStep s)

/-- Settles O58: every row of the opcode table answers, and every step is such a row, or issues one. -/
theorem everyStepAnswers : Obligations.EveryStepAnswers := ⟨exec_answers, step_answers⟩

end Sys2Proof.Proofs

/-! A step runs the word that is issued: O57. -/

namespace Sys2Proof.Proofs

open Host (Outcome)
open Sys2Proof Sys2Proof.Machine Sys2Proof.Stated

/-- Where no comparator matches, a word that runs is exec of it, with what follows every instruction. -/
theorem issueWord_of_runs {s t : State} {c : Clause} {i : Instr} (hf : s.wordFate c = .ok (.runs i t))
    (hc : t.comparatorHere = none) :
    s.issueWord c = afterIssue s.cur (s.slot s.cur).pc t.word (exec i t) := by
  simp only [State.issueWord, hf, State.compared, hc]

/-- A clause that is entered issues its first word. -/
theorem issueClause_of_entered {s u : State} {c : Clause} (he : s.enterClause = .ok (.entered u))
    (hc : (u.slot s.cur).clause = some c) :
    s.issueClause = ((u.started s.cur).traceIssue s.cur c.hdr).issueWord c := by
  simp only [State.issueClause, he, hc]

/-- An issue of an agent in no ripple clause, with no trap due: it goes on in its clause, or enters the next. -/
theorem issueAs_of_plain {s : State} {a : Agent} (hd : ({ s with cur := a, word := 0 } : State).lateDue a = false)
    (hr : (s.slot a).ripple = none) (hw : (s.slot a).wave = none) :
    s.issueAs a = match (s.slot a).clause with
      | some c => (({ s with cur := a, word := 0 } : State).started a).issueWord c
      | none => ({ s with cur := a, word := 0 } : State).issueClause := by
  have hs : ({ s with cur := a, word := 0 } : State).slot a = s.slot a := by cases a <;> rfl
  simp only [State.issueAs, hd, hs, hr, hw, Option.isSome_none, Bool.or_self, if_false, Bool.false_eq_true] <;> rfl

/-- A step whose turn an agent takes. -/
theorem step_of_issue {s : State} {a : Agent} {rest : List Turn} (ht : s.turns = .issue a :: rest)
    (hc : ({ s with turns := rest } : State).chosen a = a) (hi : ({ s with turns := rest } : State).canIssue a = true) :
    step s = tick (stepEnd a { s with turns := rest } (({ s with turns := rest } : State).issueAs a)) := by
  simp only [step, ht, State.take, hc, State.issue, hi, if_true]

/-- Settles O57: the turn's agent issues, in its clause or at the entry of one, and no comparator stands in the way. -/
theorem stepRunsDecoded : Obligations.StepRunsDecoded := by
  intro a rest c i s t s0 s1 s2 ht hch hcan hdue hrip hwave after hcomp
  have hs0 : s0.slot a = s.slot a := by cases a <;> rfl
  have hplain := issueAs_of_plain (s := s0) hdue (hs0 ▸ hrip) (hs0 ▸ hwave)
  rw [hs0] at hplain
  have hstep := step_of_issue ht hch hcan
  constructor
  · intro hcl hcur hf
    rw [hstep, hplain, hcl]
    show tick (stepEnd a s0 (s2.issueWord c)) = _
    rw [issueWord_of_runs hf hcomp, hcur]
  · intro u hcl he huc u1 hcur hf
    rw [hstep, hplain, hcl]
    show tick (stepEnd a s0 s1.issueClause) = _
    rw [issueClause_of_entered he huc]
    show tick (stepEnd a s0 (u1.issueWord c)) = _
    rw [issueWord_of_runs hf hcomp, hcur]

end Sys2Proof.Proofs

/-! The fate of a word in its clause, and the entry of a clause: O56. -/

namespace Sys2Proof.Proofs

open Host (Outcome)
open Sys2Proof Sys2Proof.Machine Sys2Proof.Stated

/-! ## Opcodes -/

theorem opcodeOf_lt (w : Word) : opcodeOf w < 256 := by
  have := w.isLt
  simp only [opcodeOf]
  omega

/-- Checks 3, 4 and the last words of long forms (R40): the place of an opcode in its clause is one it may not stand at. -/
def misplaced (op : Nat) (last bsplitLast : Bool) : Bool :=
  op / 16 = 15 || (endsClause op && op != 0x09 && !last) || (isLOpcode op && last) || (op = 0x09 && !bsplitLast)

theorem endsClause_iff (op : Nat) : (endsClause op && op != 0x09) = true ↔
    op ∈ [1, 2, 3, 4, 5, 6, 7, 8, 0x0B, 0x0C, 0x0D, 0x0F, 0xE6, 0xE9] := by
  simp only [endsClause, Bool.and_eq_true, Bool.or_eq_true, decide_eq_true_eq, beq_iff_eq, bne_iff_ne, List.mem_cons,
    List.not_mem_nil, or_false]
  omega

theorem isLOpcode_iff (op : Nat) : isLOpcode op = true ↔ op = 0x09 ∨ op = 0x22 ∨ op = 0x6A := by
  simp [isLOpcode, or_assoc]

theorem sysOpcode_iff (op : Nat) : sysOpcode op = true ↔
    op < 0x40 ∨ (0x70 ≤ op ∧ op ≤ 0x7E) ∨ op ∈ [0xE4, 0xE5, 0xE6, 0xE8, 0xE9, 0xEB] := by
  simp only [sysOpcode, Bool.and_eq_true, Bool.or_eq_true, decide_eq_true_eq, beq_iff_eq, List.mem_cons,
    List.not_mem_nil, or_false]
  omega

/-- Check 7: a core executes the opcodes of R45, a group all. -/
theorem mayExecute_iff (a : Agent) (op : Nat) : (isSys a && !sysOpcode op) = false ↔
    isSys a = false ∨ op < 0x40 ∨ (0x70 ≤ op ∧ op ≤ 0x7E) ∨ op ∈ [0xE4, 0xE5, 0xE6, 0xE8, 0xE9, 0xEB] := by
  rw [Bool.and_eq_false_imp, Bool.not_eq_false', sysOpcode_iff]
  cases isSys a <;> simp

/-- A word stands where it may exactly if it is no header, ends its clause where it must, and its literal fits. -/
theorem misplaced_eq_false_iff {op : Nat} (hop : op < 256) {last split : Prop} [Decidable last] [Decidable split] :
    misplaced op (decide last) (decide split) = false ↔
      op < 0xF0 ∧ (op ∈ [1, 2, 3, 4, 5, 6, 7, 8, 0x0B, 0x0C, 0x0D, 0x0F, 0xE6, 0xE9] → last)
        ∧ ((op = 0x09 ∨ op = 0x22 ∨ op = 0x6A) → ¬ last) ∧ (op = 0x09 → split) := by
  rw [← endsClause_iff, ← isLOpcode_iff]
  simp only [misplaced, Bool.or_eq_false_iff, Bool.and_eq_false_imp, decide_eq_false_iff_not, decide_eq_true_eq,
    Bool.not_eq_false', and_assoc]
  have : ¬ op / 16 = 15 ↔ op < 0xF0 := by omega
  rw [this]

/-! ## The fate of a word (R40, R41) -/

/-- What a word that may stand where it stands, on an agent that may execute it, comes to, given its literal. -/
def decodedFate (s1 s2 : State) (w lit : Word) : Except Exc Fate :=
  match decode w lit with
  | .ok i => if (portsOfWord w).all s1.portOn then .ok (.runs i s2) else .error (s1.trapAt 1)
  | .error _ => .error (s1.trapAt 1)

theorem decodedFate_runs {s1 s2 : State} {w lit : Word} {i : Instr} (hd : decode w lit = .ok i)
    (hp : ∀ n ∈ portsOfWord w, s1.portOn n = true) : decodedFate s1 s2 w lit = .ok (.runs i s2) := by
  have : (portsOfWord w).all s1.portOn = true := List.all_eq_true.2 hp
  simp only [decodedFate, hd, this, if_true]

theorem decodedFate_undecoded {s1 s2 : State} {w lit : Word} (hd : ∀ j, decode w lit ≠ .ok j) :
    decodedFate s1 s2 w lit = .error (s1.trapAt 1) := by
  unfold decodedFate
  split
  · rename_i i hi
    exact absurd hi (hd i)
  · rfl

theorem decodedFate_portOff {s1 s2 : State} {w lit : Word} (hp : ∃ n ∈ portsOfWord w, s1.portOn n = false) :
    decodedFate s1 s2 w lit = .error (s1.trapAt 1) := by
  have : (portsOfWord w).all s1.portOn = false := by simpa [List.all_eq_false] using hp
  unfold decodedFate
  split
  · simp [this]
  · rfl

/-- The checks of a word in order, once the word is fetched. -/
theorem wordFate_of_fetch {s t : State} {w : Word} (c : Clause) (h : s.fetchWord (s.slot s.cur).pc = .ok (w, t)) :
    s.wordFate c =
      let pc := (s.slot s.cur).pc
      let s1 : State := { t with word := w }
      if misplaced (opcodeOf w) (decide (pc + 4 = c.next)) (decide (pc + 8 = c.next)) then .error (s1.trapAt 2)
      else if isSys s.cur && !sysOpcode (opcodeOf w) then .error (s1.trapAt 1)
      else if isLOpcode (opcodeOf w) then s1.fetchWord (pc + 4) >>= fun x => decodedFate s1 x.2 w x.1
      else decodedFate s1 s1 w 0 := by
  simp only [State.wordFate, h, except_ok_bind, misplaced, decide_not, ne_eq]
  refine if_congr Iff.rfl rfl (if_congr Iff.rfl rfl ?_)
  cases isLOpcode (opcodeOf w) <;> rfl

section
variable {s t : State} {w : Word} {c : Clause} (h : s.fetchWord (s.slot s.cur).pc = .ok (w, t))
include h

theorem wordFate_of_misplaced
    (hm : misplaced (opcodeOf w) (decide ((s.slot s.cur).pc + 4 = c.next)) (decide ((s.slot s.cur).pc + 8 = c.next)) = true) :
    s.wordFate c = .error (({ t with word := w } : State).trapAt 2) := by
  simp only [wordFate_of_fetch c h, hm, if_true]

variable (hm : misplaced (opcodeOf w) (decide ((s.slot s.cur).pc + 4 = c.next))
    (decide ((s.slot s.cur).pc + 8 = c.next)) = false)
include hm

theorem wordFate_of_notAllowed (ha : (isSys s.cur && !sysOpcode (opcodeOf w)) = true) :
    s.wordFate c = .error (({ t with word := w } : State).trapAt 1) := by
  simp only [wordFate_of_fetch c h, hm, ha, if_true, Bool.false_eq_true, if_false]

variable (ha : (isSys s.cur && !sysOpcode (opcodeOf w)) = false)
include ha

theorem wordFate_of_short (hl : isLOpcode (opcodeOf w) = false) :
    s.wordFate c = decodedFate { t with word := w } { t with word := w } w 0 := by
  simp only [wordFate_of_fetch c h, hm, ha, hl, Bool.false_eq_true, if_false]

theorem wordFate_of_long {lit : Word} {u : State} (hl : isLOpcode (opcodeOf w) = true)
    (hf : ({ t with word := w } : State).fetchWord ((s.slot s.cur).pc + 4) = .ok (lit, u)) :
    s.wordFate c = decodedFate { t with word := w } u w lit := by
  simp only [wordFate_of_fetch c h, hm, ha, hl, Bool.false_eq_true, if_false, if_true, hf, except_ok_bind]

theorem wordFate_of_literalError {e : Exc} (hl : isLOpcode (opcodeOf w) = true)
    (hf : ({ t with word := w } : State).fetchWord ((s.slot s.cur).pc + 4) = .error e) : s.wordFate c = .error e := by
  simp only [wordFate_of_fetch c h, hm, ha, hl, Bool.false_eq_true, if_false, if_true, hf, except_error_bind]

end

theorem fateOfWords : FateOfWords := by
  intro c w lit i s t u pc op s1 long last ends allowed placed fails hfetch _
  have hplaced : misplaced op (decide last) (decide (pc + 8 = c.next)) = false ↔ placed :=
    misplaced_eq_false_iff (opcodeOf_lt w)
  have hlong : isLOpcode op = true ↔ long := isLOpcode_iff op
  have hallowed : (isSys s.cur && !sysOpcode op) = false ↔ allowed := mayExecute_iff s.cur op
  have off (hp : placed) (ha : ¬ allowed) : fails 1 :=
    wordFate_of_notAllowed hfetch (hplaced.2 hp) (by rw [← hallowed, Bool.not_eq_false] at ha; exact ha)
  have short (hp : placed) (hl : ¬ long) (ha : allowed) : s.wordFate c = decodedFate s1 s1 w 0 :=
    wordFate_of_short hfetch (hplaced.2 hp) (hallowed.2 ha) (by rw [← hlong, Bool.not_eq_true] at hl; exact hl)
  have withLiteral (hp : placed) (hl : long) (ha : allowed) (hf : s1.fetchWord (pc + 4) = .ok (lit, u)) :
      s.wordFate c = decodedFate s1 u w lit :=
    wordFate_of_long hfetch (hplaced.2 hp) (hallowed.2 ha) (hlong.2 hl) hf
  refine ⟨?_, ?_, ?_, ?_, ?_, ?_, ?_, ?_, ?_, ?_⟩
  case refine_1 =>
    intro hp
    rw [← hplaced, Bool.not_eq_false] at hp
    exact wordFate_of_misplaced hfetch hp
  case refine_2 => exact fun hp _ ha => off hp ha
  case refine_3 =>
    intro hp hl hd
    by_cases ha : allowed
    · exact (short hp hl ha).trans (decodedFate_undecoded hd)
    · exact off hp ha
  case refine_4 => exact fun hp hl ha hd hports => (short hp hl ha).trans (decodedFate_runs hd hports)
  case refine_5 =>
    intro hp hl hports
    by_cases ha : allowed
    · exact (short hp hl ha).trans (decodedFate_portOff hports)
    · exact off hp ha
  case refine_6 => exact fun hp hl ha hf hd hports => (withLiteral hp hl ha hf).trans (decodedFate_runs hd hports)
  case refine_7 => exact fun hp _ ha => off hp ha
  case refine_8 =>
    exact fun e hp hl ha hf => wordFate_of_literalError hfetch (hplaced.2 hp) (hallowed.2 ha) (hlong.2 hl) hf
  case refine_9 => exact fun hp hl ha hf hd => (withLiteral hp hl ha hf).trans (decodedFate_undecoded hd)
  case refine_10 => exact fun hp hl ha hf hports => (withLiteral hp hl ha hf).trans (decodedFate_portOff hports)

/-! ## Reserved opcodes (R44) -/

/-- The reserved opcodes of the opcode map (R42). -/
def reservedOpcodes : List Nat :=
  [0x7F, 0x8E, 0x8F, 0x9B, 0x9C, 0x9D, 0x9E, 0x9F, 0xBB, 0xBC, 0xBD, 0xBE, 0xBF, 0xCE, 0xCF, 0xDE, 0xDF, 0xEC, 0xED, 0xEE, 0xEF]

theorem decode_of_reserved {w : Word} (h : opcodeOf w ∈ reservedOpcodes) (x : Word) (i : Instr) : decode w x ≠ .ok i := by
  simp only [reservedOpcodes, List.mem_cons, List.not_mem_nil, or_false] at h
  rw [ne_eq, decode_eq_ok_iff]
  rintro ⟨hf, -⟩
  unfold decodeFields at hf
  rcases h with h | h | h | h | h | h | h | h | h | h | h | h | h | h | h | h | h | h | h | h | h <;>
    · rw [h] at hf
      cases hf

theorem misplaced_of_reserved {op : Nat} (h : op ∈ reservedOpcodes) (last split : Bool) : misplaced op last split = false := by
  revert op last split
  decide

theorem reservedOpcodes_trap : ReservedOpcodes := by
  intro c w s t hop hcomp hfetch
  have hm := misplaced_of_reserved (op := opcodeOf w) hop
  have hl : ∀ op ∈ reservedOpcodes, isLOpcode op = false := by decide
  have hfate : s.wordFate c = .error (({ t with word := w } : State).trapAt 1) := by
    cases ha : isSys s.cur && !sysOpcode (opcodeOf w) with
    | true => exact wordFate_of_notAllowed hfetch (hm _ _) ha
    | false =>
      rw [wordFate_of_short hfetch (hm _ _) ha (hl _ hop)]
      exact decodedFate_undecoded (decode_of_reserved hop 0)
  have hword : s.issueWord c = ({ t with word := w } : State).compared (finish (.error (({ t with word := w } : State).trapAt 1))) := by
    rw [State.issueWord, hfate]
    rfl
  simp only [hword, State.compared, hcomp, finish_trapAt]

/-! ## The header of a clause (R26) -/

/-- The fields of a word read as a header. -/
def headerOf (w : Word) : Header :=
  { len := w.toNat / 2 ^ 24 % 16, wait := w.extractLsb' 12 12, seta := w.toNat / 2 ^ 8 % 16, setb := w.toNat / 2 ^ 4 % 16,
    yield := w.getLsbD 3 }

/-- A word is a legal header (R26, R40 checks 1 and 2). -/
def IsHeader (w : Word) : Prop :=
  w.toNat / 2 ^ 28 = 15 ∧ w.toNat / 2 ^ 24 % 16 ≠ 15 ∧ (w.toNat / 2 ^ 8 % 16 < 12 ∨ w.toNat / 2 ^ 8 % 16 = 15)
    ∧ (w.toNat / 2 ^ 4 % 16 < 12 ∨ w.toNat / 2 ^ 4 % 16 = 15) ∧ w.toNat % 8 = 0

theorem headerFields_eq (w : Word) :
    headerFields w = if w.toNat / 2 ^ 28 = 15 then some (headerOf w) else none := by
  have : opcodeOf w / 16 = w.toNat / 2 ^ 28 := by simp only [opcodeOf]; omega
  rw [headerFields, this]
  simp only [headerOf, opcodeOf, BitVec.extractLsb'_toNat, Nat.shiftRight_eq_div_pow, Nat.reducePow]

theorem headerLegal_iff (w : Word) : headerLegal w (headerOf w) = true ↔
    w.toNat / 2 ^ 24 % 16 ≠ 15 ∧ (w.toNat / 2 ^ 8 % 16 < 12 ∨ w.toNat / 2 ^ 8 % 16 = 15)
      ∧ (w.toNat / 2 ^ 4 % 16 < 12 ∨ w.toNat / 2 ^ 4 % 16 = 15) ∧ w.toNat % 8 = 0 := by
  have : w.extractLsb' 0 3 = 0#3 ↔ w.toNat % 8 = 0 := by
    rw [← BitVec.toNat_inj, BitVec.extractLsb'_toNat]
    simp
  simp [headerLegal, headerOf, this, and_assoc]

/-- The pips that a header waits for are zero (R29). -/
theorem waits_eq_false_iff (h : Hart) (w : Word) :
    h.waits (headerOf w).wait = false ↔ ∀ n, n < 12 → w.getLsbD (12 + n) = true → h.pip n = 0 := by
  simp only [Hart.waits, headerOf, List.any_eq_false, List.mem_range, Bool.and_eq_true, bne_iff_ne, ne_eq, not_and, not_not,
    BitVec.getLsbD_extractLsb']
  exact forall₂_congr fun n hn => by simp [hn]

/-- The clause that a header opens at an address. -/
def clauseAt (pc : Dword) (w : Word) : Clause :=
  { hdr := pc, len := (headerOf w).len + 1, seta := (headerOf w).seta, setb := (headerOf w).setb, yield := (headerOf w).yield }

/-- What entering comes to once the words of the clause are fetched: check 5, and the wait of the header. -/
def entryOf (s u : State) (w : Word) (ws : List Word) : Except Exc Entry1 :=
  let x := s.slot s.cur
  let ps := portsOfClause ws
  if !ps.isEmpty && !rippleLegal ws ps then .error (s.clauseForm w)
  else if x.ripple.isNone && (u.hart s.cur).waits (headerOf w).wait then .error (.wait .header u)
  else
    let v := u.setSlot s.cur { x with clause := some (clauseAt x.pc w), pc := x.pc + 4, passed := false }
    .ok (if ps.isEmpty then .entered v else .ripple v ws ps)

theorem enterClause_of_noHeader {s t : State} {w : Word} (hf : s.fetchWord (s.slot s.cur).pc = .ok (w, t))
    (hh : ¬ IsHeader w) : s.enterClause = .error (s.clauseForm w) := by
  simp only [State.enterClause, hf, except_ok_bind, headerFields_eq]
  by_cases h15 : w.toNat / 2 ^ 28 = 15
  · have : headerLegal w (headerOf w) = false := by
      rw [← Bool.not_eq_true, headerLegal_iff]
      exact fun h => hh ⟨h15, h⟩
    simp only [h15, if_true, this, Bool.not_false]
  · simp only [h15, if_false]

theorem enterClause_of_header {s t u : State} {w : Word} {ws : List Word}
    (hf : s.fetchWord (s.slot s.cur).pc = .ok (w, t)) (hh : IsHeader w)
    (hw : t.clauseWords ((s.slot s.cur).pc + 4) (if isSys s.cur then 0 else (headerOf w).len + 1) = .ok (ws, u)) :
    s.enterClause = entryOf s u w ws := by
  obtain ⟨h15, hlegal⟩ := hh
  simp only [State.enterClause, hf, except_ok_bind, headerFields_eq, h15, if_true, (headerLegal_iff w).2 hlegal,
    Bool.not_true, Bool.false_eq_true, if_false, hw, entryOf, clauseAt]

/-! ## The form of a ripple clause (R139) -/

theorem rippleWord_iff (w : Word) : rippleWord w = true ↔
    opcodeOf w = 0 ∨ 0x40 ≤ opcodeOf w ∧ opcodeOf w < 0x60 ∨ 0x65 ≤ opcodeOf w ∧ opcodeOf w ≤ 0x6F ∧ opcodeOf w ≠ 0x6B := by
  simp [rippleWord, or_assoc, and_assoc]

theorem not_fwpub_of_rippleWord {w : Word} (h : rippleWord w = true) : (opcodeOf w != 0xB4) = true := by
  rw [rippleWord_iff] at h
  simp only [bne_iff_ne]
  omega

theorem fB_toNat (w : Word) : (fB w).toNat = w.toNat % 2 ^ 8 := by
  simp [fB]

/-- The instruction words of a clause, its literals left out. -/
def instrsOf (ws : List Word) : List Word := (markLiterals ws).filterMap fun e => if e.2 then some e.1 else none

theorem rippleLegal_iff (ws : List Word) (ps : List Nat) : rippleLegal ws ps = true ↔ ∃ body run : List Word,
    instrsOf ws = body ++ run ∧ (∀ w ∈ body, rippleWord w = true) ∧ (∀ w ∈ run, opcodeOf w = 0xB4)
      ∧ (run.map fun w => (fB w).toNat).Nodup ∧ (∀ p ∈ ps, ∃ w ∈ run, (fB w).toNat = p)
      ∧ ∀ w ∈ body ++ run, bypassWord w = false := by
  have unfolded : rippleLegal ws ps = true ↔ let body := (instrsOf ws).takeWhile fun w => opcodeOf w != 0xB4
      let run := (instrsOf ws).dropWhile fun w => opcodeOf w != 0xB4
      (∀ w ∈ run, opcodeOf w = 0xB4) ∧ (run.map fun w => (fB w).toNat).Nodup ∧ (∀ p ∈ ps, ∃ w ∈ run, (fB w).toNat = p)
        ∧ (∀ w ∈ body, rippleWord w = true) ∧ ∀ w ∈ instrsOf ws, bypassWord w = false := by
    simp [rippleLegal, instrsOf, and_assoc]
  rw [unfolded]
  constructor
  · rintro ⟨hrun, hnodup, hports, hbody, hbypass⟩
    refine ⟨_, _, List.takeWhile_append_dropWhile.symm, hbody, hrun, hnodup, hports, ?_⟩
    rwa [List.takeWhile_append_dropWhile]
  · rintro ⟨body, run, heq, hbody, hrun, hnodup, hports, hbypass⟩
    have htake : (instrsOf ws).takeWhile (fun w => opcodeOf w != 0xB4) = body := by
      rw [heq, List.takeWhile_append_of_pos fun w hw => not_fwpub_of_rippleWord (hbody w hw)]
      cases run with
      | nil => simp
      | cons w run => simp [hrun w (by simp)]
    have hdrop : (instrsOf ws).dropWhile (fun w => opcodeOf w != 0xB4) = run := by
      rw [heq, List.dropWhile_append_of_pos fun w hw => not_fwpub_of_rippleWord (hbody w hw)]
      cases run with
      | nil => simp
      | cons w run => simp [hrun w (by simp)]
    simp only [htake, hdrop]
    exact ⟨hrun, hnodup, hports, hbody, heq ▸ hbypass⟩

theorem nonempty {ps : List Nat} (h : ps ≠ []) : (!ps.isEmpty) = true := by
  simpa using h

theorem clauseEntry : ClauseEntry := by
  intro w s t u ws x len seta setb header c free hfetch
  refine ⟨fun hh => enterClause_of_noHeader hfetch hh, ?_, ?_⟩
  · intro hh hwords ps v form goes
    have hentry := enterClause_of_header hfetch hh hwords
    have hfree : (u.hart s.cur).waits (headerOf w).wait = false ↔ free (u.hart s.cur) := waits_eq_false_iff _ w
    have hgoes : (x.ripple.isNone && (u.hart s.cur).waits (headerOf w).wait) = false ↔ goes := by
      rw [Bool.and_eq_false_imp, hfree, Option.isNone_iff_eq_none]
      exact ⟨fun h => Classical.or_iff_not_imp_left.2 fun hr => h (not_not.1 hr), fun h hr => h.resolve_left (not_not.2 hr)⟩
    rw [hentry]
    refine ⟨fun hps hg => ?_, fun hps hr => ?_, fun hps hr hg => ?_, fun hps hg => ?_⟩
    · have hps' : portsOfClause ws = [] := hps
      simp only [entryOf, hps', List.isEmpty_nil, Bool.not_true, Bool.false_and, Bool.false_eq_true, if_false, if_true]
      exact if_neg (Bool.eq_false_iff.1 (hgoes.2 hg))
    · exact if_pos (by rw [nonempty hps, hr]; rfl)
    · refine (if_neg (by rw [nonempty hps, hr]; simp)).trans ((if_neg (Bool.eq_false_iff.1 (hgoes.2 hg))).trans ?_)
      exact congrArg Except.ok (if_neg fun h => hps (List.isEmpty_iff.1 h))
    · refine (if_neg ?_).trans (if_pos (by rw [← hgoes, Bool.not_eq_false] at hg; exact hg))
      rw [Bool.and_eq_true, Bool.not_eq_true', Bool.not_eq_true', List.isEmpty_eq_false_iff]
      exact fun h => hps.elim h.1 fun hl => by rw [hl] at h; exact Bool.noConfusion h.2
  · intro ps op
    simp only [rippleLegal_iff, rippleWord_iff, fB_toNat]
    rfl

/-- Settles O56: one equation gives the checks of a word in order, one those of a clause's start. -/
theorem wordFates : Obligations.WordFates := ⟨fateOfWords, clauseEntry, reservedOpcodes_trap⟩

end Sys2Proof.Proofs

/-! The mode register, the pending mode, format entries: O12. -/

namespace Sys2Proof.Proofs

open Host (Outcome)
open Sys2Proof Sys2Proof.Machine Sys2Proof.Stated

theorem modeOk_iff (m : ModeWord) : modeOk m = true ↔ ModeLegal m := by
  have h22 : m.extractLsb' 22 2 = 0 ↔ m.toNat / 2 ^ 22 = 0 := by
    rw [← BitVec.toNat_inj, BitVec.extractLsb'_toNat, Nat.shiftRight_eq_div_pow]
    have := m.isLt
    simp
    omega
  have h10 : (m.extractLsb' 10 3).toNat = m.toNat / 1024 % 8 := by
    rw [BitVec.extractLsb'_toNat, Nat.shiftRight_eq_div_pow]
  rw [modeOk, ModeLegal, mdRM, h22, h10, Bool.and_eq_true, beq_iff_eq, decide_eq_true_eq, Nat.lt_succ_iff]

theorem modeOk_of_illegal {m : ModeWord} (h : ¬ ModeLegal m) : modeOk m = false := by
  rwa [← modeOk_iff, Bool.not_eq_true] at h

theorem State.mode_eq (s : State) : s.mode = modeOf s := by
  unfold State.mode modeOf
  cases (s.slot s.cur).pmode <;> rfl

/-! ## Mode words (R98 to R100) -/

/-! The fields of a mode word (R37), as the model and the obligations read them. -/

theorem mdRM_eq (m : ModeWord) : mdRM m = rmOf m := by
  simp [mdRM, rmOf, Nat.shiftRight_eq_div_pow]

theorem mdSF_eq (m : ModeWord) : mdSF m = (m.extractLsb' 0 5).toNat := by
  simp [mdSF]

theorem mdDF_eq (m : ModeWord) : mdDF m = (m.extractLsb' 5 5).toNat := by
  simp [mdDF, Nat.shiftRight_eq_div_pow]

/-- RM other than 5 rounds. -/
theorem State.needRound_ok {s : State} (h : rmOf (modeOf s) ≠ 5) : s.needRound = .ok () := by
  rw [State.needRound, State.mode_eq, mdRM_eq, bne_iff_ne.2 h]
  rfl

theorem State.needRound_illegal {s : State} (h : rmOf (modeOf s) = 5) : s.needRound = .error s.illegal := by
  rw [State.needRound, State.mode_eq, mdRM_eq, h]
  rfl

/-- The record of the mode's SF. -/
theorem State.fmtHere_mdSF (s : State) : s.fmtHere (mdSF (modeOf s)) = sfRecord s := by
  rw [mdSF_eq, sfRecord]

theorem State.fmtHere_mdDF (s : State) : s.fmtHere (mdDF (modeOf s)) = dfRecord s := by
  rw [mdDF_eq, dfRecord]

theorem exec_setmode_legal {x : BitVec 24} (s : State) (h : ModeLegal x) : exec (.setmode x) s = .next (s.setMd x).retire := by
  show finish _ = _
  rw [(modeOk_iff x).2 h, guardRes_true, except_ok_bind, finish_ok]

theorem exec_setmode_illegal {x : BitVec 24} (s : State) (h : ¬ ModeLegal x) : exec (.setmode x) s = traps s 1 := by
  show finish _ = _
  rw [modeOk_of_illegal h, guardRes_false, except_error_bind, finish_illegal]

theorem exec_modeone_legal {x : BitVec 24} (s : State) (h : ModeLegal x) :
    exec (.modeone x) s = .next (s.retire.setSlot s.cur { s.retire.slot s.cur with pmode := some x }) := by
  show finish _ = _
  rw [(modeOk_iff x).2 h, guardRes_true, except_ok_bind, finish_ok]

theorem exec_modeone_illegal {x : BitVec 24} (s : State) (h : ¬ ModeLegal x) : exec (.modeone x) s = traps s 1 := by
  show finish _ = _
  rw [modeOk_of_illegal h, guardRes_false, except_error_bind, finish_illegal]

theorem setWidth_24_eq (v : Dword) : v.setWidth 24 = v.extractLsb' 0 24 := by
  rw [BitVec.setWidth_eq_extractLsb' (by decide)]

theorem exec_wrmode {s : State} {a : BitVec 8} (hr : s.need [a] = .ok ()) :
    exec (.wrmode a) s = if modeOk ((s.readS a).extractLsb' 0 24) then .next (s.setMd ((s.readS a).extractLsb' 0 24)).retire
      else traps s 1 := by
  show finish _ = _
  rw [hr, except_ok_bind, setWidth_24_eq]
  dsimp only
  cases modeOk ((s.readS a).extractLsb' 0 24)
  · rw [guardRes_false, except_error_bind, finish_illegal, if_neg (by decide)]
  · rw [guardRes_true, except_ok_bind, finish_ok, if_pos rfl]

theorem modeWords : ModeWords := by
  intro d a x s hr m withMd
  have hd : s.need [d] = .ok () := need_of_ready hr (by simp)
  have ha : s.need [a] = .ok () := need_of_ready hr (by simp)
  refine ⟨exec_setmode_legal s, fun hx => ⟨_, exec_modeone_legal s hx, rfl, ?_, ?_⟩, ?_, fun hm => ?_,
    fun hx => ⟨exec_setmode_illegal s hx, exec_modeone_illegal s hx⟩, fun hm => ?_⟩
  · simp [modeOf]
  · simp [State.retire_hart]
  · exact (finish_scalarOp _ hd).trans (by rw [State.mode_eq])
  · rw [exec_wrmode ha, if_pos ((modeOk_iff m).2 hm)]
    rfl
  · rw [exec_wrmode ha, modeOk_of_illegal hm, if_neg (by decide)]

/-! ## The pending mode (R99, R346, R364) -/

theorem pendingMode : PendingMode := by
  intro s n x
  constructor
  · simp [modeOf, State.retire_pmode, State.retire_hart]
  · intro p q r m hcur hpm hhandler hvec hx
    refine ⟨_, exec_setmode_illegal s hx, ?_⟩
    simp only [hcur, State.slot, State.hart] at hpm hhandler hvec
    have hgo : ((s.core p q r).hart.handler || SMap.get (s.core p q r).hart.trap 0x49 0 = 0) = false := by
      rw [hhandler, Bool.false_or]
      exact decide_eq_false hvec
    simp only [State.takeTrap, State.sysTrap, hcur, hgo, Bool.false_eq_true, if_false, hpm, State.hart, State.slot,
      State.core_setCore]
    exact ⟨rfl, trivial, trivial⟩

/-! ## Format entries (R101, R102) -/

theorem bits_4_0 (v : Dword) : bits v 4 0 = v.toNat % 32 := by simp [bits]

theorem State.fmtRecord_retire_setFmt (s : State) {k : Nat} (x : Dword) (hk : 16 ≤ k) (j : Nat) :
    (s.setFmt k x).retire.fmtRecord (s.pkgOf s.cur) (s.ctxOf s.cur) j
      = if j = k then x else s.fmtRecord (s.pkgOf s.cur) (s.ctxOf s.cur) j := by
  unfold State.fmtRecord
  by_cases hj : j < 16
  · rw [if_pos hj, if_pos hj, if_neg (by omega)]
  · have hctx : (s.setFmt k x).retire.ctx (s.pkgOf s.cur) (s.ctxOf s.cur)
        = { s.ctx (s.pkgOf s.cur) (s.ctxOf s.cur) with
            fmts := SMap.set (s.ctx (s.pkgOf s.cur) (s.ctxOf s.cur)).fmts k x 0 } := by
      rw [State.ctx, State.retire_ctxs]
      exact State.ctx_setCtx _ _ _ _
    rw [if_neg hj, if_neg hj, hctx]
    by_cases hjk : j = k
    · rw [if_pos hjk, hjk, SMap.get_set_same]
    · rw [if_neg hjk, SMap.get_set_other _ _ _ hjk]

theorem formatEntries : FormatEntries := by
  intro d a b s hr k x
  have hab : s.need [a, b] = .ok () := need_of_ready hr (by simp)
  have hda : s.need [d, a] = .ok () := need_of_ready hr (by simp)
  have hset : exec (.fmtset a b) s = finish (do
      guardRes (16 ≤ k) (s.fmtFault 2 k 0)
      guardRes (x == 0 || checkRecord x == 0) (s.fmtFault 2 k (checkRecord x))
      .ok (s.setFmt k x).retire) := by
    show finish _ = _
    rw [hab, except_ok_bind, bits_4_0]
  rw [hset]
  refine ⟨fun hk hx => ?_, fun hk => ?_, fun hk hx hc => ?_, ?_⟩
  · have hx' : (x == 0 || checkRecord x == 0) = true := by simpa using hx
    refine ⟨_, by rw [decide_eq_true hk, hx', guardRes_true, guardRes_true]; rfl, rfl, ?_, fun j hj => ?_⟩
    · rw [State.fmtRecord_retire_setFmt s x hk, if_pos rfl]
    · rw [State.fmtRecord_retire_setFmt s x hk, if_neg hj]
  · rw [decide_eq_false (by omega), guardRes_false, except_error_bind, State.fmtFault, finish_trapAt]
    simp [fmtDetail]
  · have hx' : (x == 0 || checkRecord x == 0) = false := by
      rw [beq_false_of_ne hx, beq_false_of_ne hc, Bool.or_self]
    rw [decide_eq_true hk, hx', guardRes_true, except_ok_bind, guardRes_false, except_error_bind, State.fmtFault, finish_trapAt]
    simp [fmtDetail]
  · exact (finish_scalarOp _ hda).trans (by rw [bits_4_0])

/-- Settles O12: each instruction by the check of its operands; retiring uses the pending mode up, a core's trap records it. -/
theorem modes : Obligations.Modes := ⟨modeWords, pendingMode, formatEntries⟩

end Sys2Proof.Proofs

/-! Counted scalar accesses complete: O11. -/

namespace Sys2Proof.Proofs

open Host (Outcome)
open Sys2Proof Sys2Proof.Machine Sys2Proof.Stated

/-! ## Sparse data -/

theorem SMap.erase_put {α : Type} (m : SMap α) (k : Nat) (v : α) : SMap.erase (SMap.put m k v) k = SMap.erase m k := by
  induction m with
  | nil => simp [SMap.put, SMap.erase]
  | cons e m ih =>
    obtain ⟨j, w⟩ := e
    by_cases h1 : k < j
    · simp [SMap.put, SMap.erase, h1]
    · by_cases h2 : k = j
      · subst h2
        simp [SMap.put, SMap.erase]
      · simp only [SMap.erase] at ih
        simp only [SMap.put, h1, h2, if_false, SMap.erase, List.filter_cons, ih]

/-! ## Vector registers and harts of groups, through updates of other things -/

theorem group_setGroup_regs (s : State) {g : Nat} {x : Group} (h : x.regs = (s.group g).regs) (k : Nat) :
    ((s.setGroup g x).group k).regs = (s.group k).regs := by
  by_cases hk : k = g
  · rw [hk, State.group_setGroup, h]
  · rw [State.group_setGroup_ne s x hk]

theorem group_setGroup_hart (s : State) {g : Nat} {x : Group} (h : x.hart = (s.group g).hart) (k : Nat) :
    ((s.setGroup g x).group k).hart = (s.group k).hart := by
  by_cases hk : k = g
  · rw [hk, State.group_setGroup, h]
  · rw [State.group_setGroup_ne s x hk]

theorem State.setHart_regs (s : State) (a : Agent) (x : Hart) (k : Nat) :
    ((s.setHart a x).group k).regs = (s.group k).regs := by
  cases a with
  | sys p d c => rfl
  | slot g j => exact group_setGroup_regs s (x := { s.group g with hart := x }) rfl k

theorem State.setSlot_regs (s : State) (a : Agent) (x : Slot) (k : Nat) :
    ((s.setSlot a x).group k).regs = (s.group k).regs := by
  cases a with
  | sys p d c => rfl
  | slot g j => exact group_setGroup_regs s (Group.setSlot_regs _ _ _) k

theorem State.writeS_regs (s : State) (d : BitVec 8) (v : Dword) (k : Nat) :
    ((s.writeS d v).group k).regs = (s.group k).regs := by
  unfold State.writeS State.writeMask
  split
  · rfl
  · split
    · split
      · rfl
      · exact State.setSlot_regs _ _ _ _
    · exact State.setHart_regs _ _ _ _

theorem State.writeSFor_regs (s : State) (a : Agent) (d : Nat) (v : Dword) (k : Nat) :
    ((s.writeSFor a d v).group k).regs = (s.group k).regs := State.writeS_regs { s with cur := a } _ v k

/-! ## Unparking, and dropping an operation -/

/-- Unparking changes groups alone. -/
theorem State.unpark_frame (s : State) (g n : Nat) : s.unpark g n = { s with groups := (s.unpark g n).groups } := by
  unfold State.unpark
  split <;> rfl

@[simp] theorem State.unpark_mem (s : State) (g n : Nat) : (s.unpark g n).mem = s.mem := by rw [State.unpark_frame]
@[simp] theorem State.unpark_ops (s : State) (g n : Nat) : (s.unpark g n).ops = s.ops := by rw [State.unpark_frame]

theorem State.unpark_regs (s : State) (g n k : Nat) : ((s.unpark g n).group k).regs = (s.group k).regs := by
  unfold State.unpark
  split
  · rfl
  · refine group_setGroup_regs s ?_ k
    rfl

theorem State.unpark_hart (s : State) (g n : Nat) (a : Agent) : (s.unpark g n).hart a = s.hart a := by
  cases a with
  | sys p d c =>
    rw [State.unpark_frame]
    rfl
  | slot k j =>
    unfold State.unpark
    split
    · rfl
    · refine group_setGroup_hart s ?_ k
      rfl

@[simp] theorem State.dropOp_ops (s : State) (n : Nat) (o : Op) : (s.dropOp n o).ops = SMap.erase s.ops n := by
  unfold State.dropOp
  simp only
  split <;> simp [State.pipDown]

@[simp] theorem State.dropOp_mem (s : State) (n : Nat) (o : Op) : (s.dropOp n o).mem = s.mem := by
  unfold State.dropOp
  simp only
  split <;> simp [State.pipDown]

theorem State.dropOp_regs (s : State) (n : Nat) (o : Op) (k : Nat) : ((s.dropOp n o).group k).regs = (s.group k).regs := by
  unfold State.dropOp
  simp only
  split
  · exact State.unpark_regs _ _ _ _
  · exact (State.setHart_regs _ _ _ _).trans (State.unpark_regs _ _ _ _)

theorem State.dropOp_pip (s : State) (n : Nat) {o : Op} {p : Nat} (h : o.pip = some p) :
    ((s.dropOp n o).hart o.agent).pip p = (s.hart o.agent).pip p - 1 := by
  have : (({ s with ops := SMap.erase s.ops n } : State).unpark (gidOf o.agent) o.holds.toNat).hart o.agent
      = s.hart o.agent := by
    rw [State.unpark_hart]
    cases o.agent <;> rfl
  simp only [State.dropOp, h, State.pipDown, State.hart_setHart, this]
  exact SMap.get_set_same _ _ _ _

/-- Dropping an operation looks at its agent, its pip and what it holds, and at no entry of its own in the table. -/
theorem State.dropOp_put (s : State) (n : Nat) {o o2 : Op} (x : Op) (ha : o2.agent = o.agent) (hp : o2.pip = o.pip)
    (hh : o2.holds = o.holds) : ({ s with ops := SMap.put s.ops n x } : State).dropOp n o2 = s.dropOp n o := by
  simp only [State.dropOp, SMap.erase_put, ha, hp, hh]

/-! ## The end of an operation -/

/-- No register element has been lost, so none is reported. -/
theorem State.postLost_of_nil {s : State} {g : Nat} (h : (s.group g).regs.lost = []) : s.postLost g = s := by
  unfold State.postLost
  split
  · rfl
  · rename_i x hx
    have : s.group g = x := by rw [State.group, SMap.get, hx, Option.getD_some]
    rw [if_pos (by rw [← this, h]; rfl)]

/-- An operation that is awaited no more, on an agent that is not stopped, ends. -/
theorem State.completeOp_of_done {s : State} {n : Nat} {o : Op} (hf : SMap.find s.ops n = some o) (he : o.entries = 0)
    (hr : o.reqs = []) (hd : o.due = false) (hs : s.stopOf o.agent = none) : s.completeOp n = s.finishOp n o := by
  simp [State.completeOp, hf, he, hr, hd, hs]

/-- An operation that met no poison lands. -/
theorem State.finishOp_of_clean {s : State} {n : Nat} {o : Op} (he : o.ends = none) (hb : o.bad = none) :
    s.finishOp n o = ((s.dropOp n o).land o).postLost (gidOf o.agent) := by
  simp [State.finishOp, he, hb]

/-- A scalar operation that met no poison writes its register. -/
theorem State.finishOp_scalar {s : State} {n d : Nat} {v : Dword} {o : Op} (hk : o.kind = .scalar d v) (he : o.ends = none)
    (hb : o.bad = none) (hl : (s.group (gidOf o.agent)).regs.lost = []) :
    s.finishOp n o = (s.dropOp n o).writeSFor o.agent d v := by
  have hland : (s.dropOp n o).land o = (s.dropOp n o).writeSFor o.agent d v := by
    simp only [State.land, hb, hk]
  rw [State.finishOp_of_clean he hb, hland]
  exact State.postLost_of_nil (by rw [State.writeSFor_regs, State.dropOp_regs, hl])

/-- A counted scalar operation of poisoned data stays, its fault due. -/
theorem State.finishOp_poisoned {s : State} {n d : Nat} {v : Dword} {o : Op} (hk : o.kind = .scalar d v)
    (he : o.ends = none) (hb : o.bad ≠ none) (hp : o.pip ≠ none) :
    s.finishOp n o = ({ s with ops := SMap.put s.ops n { o with due := true, holds := false } } : State).unpark
      (gidOf o.agent) o.holds.toNat := by
  have hpip : o.pip.isSome = true := Option.isSome_iff_ne_none.2 hp
  have hbad : o.bad.isSome = true := Option.isSome_iff_ne_none.2 hb
  simp [State.finishOp, he, hpip, hbad, Op.keeps, hk]

theorem exec_scalarAccessComplete {s : State} {n : Nat} {o : Op} (hf : SMap.find s.ops n = some o)
    (hk : (∃ d v, o.kind = .scalar d v) ∨ ∃ d x, o.kind = .parkedScalar d x) :
    exec (.scalarAccessComplete n) s = .next (s.opGoesOn n o) := by
  show execScalarAccessComplete n s = _
  rcases hk with ⟨d, v, hk⟩ | ⟨d, x, hk⟩ <;> simp only [execScalarAccessComplete, hf, hk]

theorem scalarCompletes : ScalarCompletes := by
  intro n d v o s hf hk hent hreq hdue hends hstop
  have hexec : exec (.scalarAccessComplete n) s = .next (s.finishOp n o) := by
    rw [exec_scalarAccessComplete hf (.inl ⟨d, v, hk⟩), State.opGoesOn, hreq, if_pos List.isEmpty_nil,
      State.completeOp_of_done hf hent hreq hdue hstop]
  refine ⟨fun hb hl => ?_, fun p hb hp => ?_, ?_, fun p hp => State.dropOp_pip s n hp⟩
  · rw [hexec, State.finishOp_scalar hk hends hb hl]
  · refine ⟨_, hexec, ?_⟩
    rw [State.finishOp_poisoned hk hends hb (by simp [hp])]
    refine ⟨by rw [State.unpark_ops]; exact State.unpark_frame _ _ _, fun hh => ?_, ?_, fun m hm => ?_⟩
    · rw [hh]
      rfl
    · rw [State.unpark_ops, SMap.find_put_same]
    · rw [State.unpark_ops, SMap.find_put_other _ _ hm]
  · rw [State.dropOp_ops, SMap.find_erase_same]

/-! ## Accesses to another package (R389) -/

theorem State.stopOf_of_groups {s t : State} (hc : t.cores = s.cores) (hg : t.groups = s.groups) (hp : t.parts = s.parts)
    (a : Agent) : t.stopOf a = s.stopOf a := by
  cases a with
  | sys => simp only [State.stopOf, State.core, hc]
  | slot =>
    simp only [State.stopOf, State.group, State.partSt, hg, hp]
    rfl

theorem State.performParked_scalar {s u : State} {o o2 : Op} {d : Nat} {act : ScalarAct} {r : LaneReq} {l : Loc}
    (hk : o.kind = .parkedScalar d act) (hp : s.performScalar o d act r l = .ok (o2, u)) :
    s.performParked o [(r, l)] = .ok (o2, u) := by
  unfold State.performParked
  split
  case h_1 h => cases hk.symm.trans h
  case h_2 h => cases hk.symm.trans h
  case h_3 h heq =>
    cases heq
    obtain ⟨rfl, rfl⟩ := OpKind.parkedScalar.inj (hk.symm.trans h)
    rw [hp]
  case h_4 hne => exact (hne _ _ _ _ _ hk rfl).elim

/-- What waits for no partial work goes on. -/
theorem State.performed_of_not_keeps {s : State} {n : Nat} {o : Op} (h : o.keeps = false) (k : State → State) :
    s.performed n o k = k { s with ops := SMap.put s.ops n o } := by
  simp only [State.performed, h, Bool.false_and]

theorem exec_awayScalar {s u : State} {n d d' : Nat} {v : Dword} {act : ScalarAct} {r : LaneReq} {o : Op}
    (hf : SMap.find s.ops n = some o) (hreq : o.reqs = [r]) (hent : o.entries = 0) (hdue : o.due = false)
    (hends : o.ends = none) (hbad : o.bad = none) (hten : o.tensor = none) (hk : o.kind = .parkedScalar d act)
    (hp : s.performScalar { o with reqs := [] } d act r r.loc = .ok ({ o with reqs := [], kind := .scalar d' v }, u))
    (hstop : u.stopOf o.agent = none) (hl : (u.group (gidOf o.agent)).regs.lost = []) :
    exec (.scalarAccessComplete n) s = .next ((u.dropOp n o).writeSFor o.agent d' v) := by
  let o2 : Op := { o with reqs := [], kind := .scalar d' v }
  have hgo : s.opGoesOn n o = s.performAway n o := by rw [State.opGoesOn, hreq]; rfl
  have hpark : s.performParked { o with reqs := [] } (o.reqs.map fun r => (r, r.loc)) = .ok (o2, u) := by
    rw [hreq]
    exact State.performParked_scalar hk hp
  have haway : s.performAway n o = ({ u with ops := SMap.put u.ops n o2 } : State).completeOp n := by
    have hused : ∀ l, u.tensorUsed o2 l = u := fun l => by simp only [State.tensorUsed, o2, hten]
    unfold State.performAway
    dsimp only
    split
    · rename_i h
      cases h.symm.trans hpark
    · rename_i h
      obtain ⟨rfl, rfl⟩ := Prod.mk.inj (Except.ok.inj (h.symm.trans hpark))
      rw [hused, State.performed_of_not_keeps rfl]
  have hstop2 : ({ u with ops := SMap.put u.ops n o2 } : State).stopOf o2.agent = none :=
    (State.stopOf_of_groups rfl rfl rfl _).trans hstop
  rw [exec_scalarAccessComplete hf (.inr ⟨d, act, hk⟩), hgo, haway,
    State.completeOp_of_done (o := o2) (SMap.find_put_same _ _ _) hent rfl hdue hstop2,
    State.finishOp_scalar (s := { u with ops := SMap.put u.ops n o2 }) (o := o2) rfl hends hbad hl,
    State.dropOp_put u n o2 rfl rfl rfl]
  rfl

/-- A scalar load that is performed away reads what memory then holds. -/
theorem State.performScalar_load {s u : State} {d : Nat} {r : LaneReq} {o : Op} (hbad : o.bad = none)
    (hrace : s.raceAccess (lateWho s o) r.loc r.n 0 false = .ok u) (hpois : u.poisoned r.key r.n = false) :
    s.performScalar { o with reqs := [] } d .load r r.loc
      = .ok ({ o with reqs := [], kind := .scalar d (BitVec.ofNat 64 (u.bytesAt r.key r.n)) }, u) := by
  unfold State.performScalar
  dsimp only
  split
  · rename_i h
    cases h.symm.trans hrace
  · rename_i h
    obtain rfl := Except.ok.inj (h.symm.trans hrace)
    have hp : State.poisoned _ r.loc.key r.n = false := hpois
    simp only [hp, Bool.false_eq_true, if_false, ← hbad]
    rfl

/-- A scalar store that is performed away writes its bytes there. -/
theorem State.performScalar_store {s u : State} {d : Nat} {r : LaneReq} {o : Op}
    (hrace : s.raceAccess (lateWho s o) r.loc r.n 1 false = .ok u) :
    ∃ w, s.performScalar { o with reqs := [] } d .store r r.loc
      = .ok ({ o with reqs := [], kind := .scalar 0 0 }, u.putBytes r.key r.n r.data w) := by
  unfold State.performScalar
  dsimp only
  split
  · rename_i h
    cases h.symm.trans hrace
  · rename_i h
    obtain rfl := Except.ok.inj (h.symm.trans hrace)
    exact ⟨_, rfl⟩

theorem State.writeSFor_zero (s : State) (a : Agent) (v : Dword) : s.writeSFor a 0 v = s := rfl

theorem awayScalarsComplete : AwayScalarsComplete := by
  intro n d r o s u hf hreq hent hdue hends hbad hten hstop hlost
  constructor
  · intro hk hrace hpois
    have hload := State.performScalar_load (d := d) hbad hrace hpois
    obtain ⟨x, rfl⟩ := State.raceAccess_frame hrace
    exact exec_awayScalar hf hreq hent hdue hends hbad hten hk hload
      ((State.stopOf_of_groups rfl rfl rfl _).trans hstop) hlost
  · intro hk hrace _
    obtain ⟨w, hstore⟩ := State.performScalar_store (d := d) hrace
    obtain ⟨x, rfl⟩ := State.raceAccess_frame hrace
    refine ⟨_, exec_awayScalar hf hreq hent hdue hends hbad hten hk hstore
      ((State.stopOf_of_groups rfl rfl rfl _).trans hstop) hlost, ?_, ?_, fun key hkey => ?_⟩
    · rw [State.writeSFor_zero, State.dropOp_ops, SMap.find_erase_same]
    · rw [State.writeSFor_zero, State.bytesAt, State.dropOp_mem]
      exact State.bytesAt_putBytes_same _ _ _ _ _
    · rw [State.writeSFor_zero, State.dropOp_mem]
      exact State.byte_putBytes_outside _ _ _ hkey

/-! ## Deferred faults (R224) -/

theorem deferredFaults : DeferredFaults := by
  intro a n b addr det2 o s hdue hbad htakes u
  have hagent : o.agent = a := by
    have := List.find?_some hdue
    simpa using (Bool.and_eq_true_iff.1 this).2
  show execDeferredDataIntegrityFault a s = _
  simp only [execDeferredDataIntegrityFault, hdue, htakes, if_true, State.takeDue, hagent, State.dueTrap, hbad]
  congr 1
  refine if_congr ?_ rfl rfl
  simp [and_assoc]

/-- Settles O11: an operation with nothing awaited ends as `State.finishOp` says; one sent away is first performed. -/
theorem scalarCompletion : Obligations.ScalarCompletion := ⟨scalarCompletes, awayScalarsComplete, deferredFaults⟩

end Sys2Proof.Proofs

/-! An atomic in flight and a register of more than 64 words: O29. -/

namespace Sys2Proof.Proofs

open Host (Outcome)
open Sys2Proof Sys2Proof.Machine Sys2Proof.Stated

/-! The state's type does not say that a register has 64 words. Writing one lane makes its list 64 words long, so what a
longer list held beyond is gone: `AtomicCompletes` claims that it stays, of every number `l`. -/

/-- An atomic with requests at two homes; the old code of lane 0 has arrived. -/
def twoHomes : Op :=
  { agent := .slot 0 0, pip := none, pc := 0, word := 0, kind := .atomic .add 0 0 true,
    reqs := [{ lane := 0, va := 0, n := 4, reg := 0 }, { lane := 1, va := 64, n := 4, reg := 0, key := 64 }],
    fills := [(0, 0, 5)] }

/-- A group whose v0 is listed with 65 words, the last one 1. -/
def longRegister : State :=
  { ops := [(0, twoHomes)], groups := [(0, { regs := { v := [(0, zeroVec ++ [1])] } })] }

/-- The word numbered 64 of v0 of group 0 in an outcome. -/
def word64 (x : Outcome State Fault Refusal) : Option Word :=
  match x with
  | .next u => some (((u.group 0).regs.reg 0).getD 64 0)
  | _ => none

theorem longRegister_word : ((longRegister.group 0).regs.reg 0).getD 64 0 = 1 := rfl

theorem word64_atomicRequestComplete : word64 (exec (.atomicRequestComplete 0) longRegister) = some 0 := rfl

/-- Refutes O29: the first home's completion writes lane 0 of a register listed with 65 words, and the word beyond the
64 lanes is lost. -/
theorem not_vectorCompletion : ¬ Obligations.VectorCompletion := by
  rintro ⟨-, hatomic⟩
  obtain ⟨u, hu, -, -, hlater, -⟩ := hatomic 0 twoHomes longRegister 0 0 .add 0 0 true _ _ rfl rfl rfl rfl
    (by decide) rfl rfl (by decide) rfl (fun h => absurd h (by decide))
  have hkept := (hlater (by decide)).2 0 64 (by decide)
  have hword := word64_atomicRequestComplete
  rw [hu] at hword
  rw [longRegister_word] at hkept
  exact absurd (hkept.symm.trans (Option.some.inj hword)) (by decide)

end Sys2Proof.Proofs

/-! What writing a vector destination does, and integers written: O18. -/

namespace Sys2Proof.Proofs

open Host (Outcome)
open Sys2Proof Sys2Proof.Machine Sys2Proof.Stated

/-! ## The file of vector registers -/

/-- A lane is written: it is in the set and its beat is not sliced. -/
def lands (r : Vregs) (lanes : Lanes) (l : Nat) : Prop :=
  lanes.getLsbD l = true ∧ r.sliced.getLsbD (l / 32) = false

theorem getD_map_range {α : Type} (f : Nat → α) (x : α) {n l : Nat} (h : l < n) : ((List.range n).map f).getD l x = f l := by
  simp [List.getD_eq_getElem?_getD, h]

@[simp] theorem Vregs.clear_v (r : Vregs) (q : Nat) (lanes : Lanes) : (r.clear q lanes).v = r.v := by
  unfold Vregs.clear
  dsimp only
  split <;> rfl

@[simp] theorem Vregs.clear_bp (r : Vregs) (q : Nat) (lanes : Lanes) : (r.clear q lanes).bp = r.bp := by
  unfold Vregs.clear
  dsimp only
  split <;> rfl

@[simp] theorem Vregs.clear_sliced (r : Vregs) (q : Nat) (lanes : Lanes) : (r.clear q lanes).sliced = r.sliced := by
  unfold Vregs.clear
  dsimp only
  split <;> rfl

@[simp] theorem Vregs.write_bp (r : Vregs) (q : Nat) (lanes : Lanes) (f : Nat → Word) : (r.write q lanes f).bp = r.bp := by
  simp [Vregs.write]

@[simp] theorem Vregs.write_sliced (r : Vregs) (q : Nat) (lanes : Lanes) (f : Nat → Word) :
    (r.write q lanes f).sliced = r.sliced := by
  simp [Vregs.write]

theorem Vregs.reg_write_other (r : Vregs) {p q : Nat} (lanes : Lanes) (f : Nat → Word) (h : p ≠ q) :
    (r.write q lanes f).reg p = r.reg p := by
  simp only [Vregs.reg, Vregs.write, Vregs.clear_v]
  exact SMap.get_put_other _ _ _ h

theorem Vregs.getD_write_same (r : Vregs) (q : Nat) (lanes : Lanes) (f : Nat → Word) {l : Nat} (hl : l < 64) :
    ((r.write q lanes f).reg q).getD l 0
      = if lanes.getLsbD l && !r.sliced.getLsbD (l / 32) then f l else (r.reg q).getD l 0 := by
  simp only [Vregs.reg, Vregs.write, Vregs.clear_v, SMap.get_put_same]
  exact getD_map_range _ _ hl

theorem Vregs.getD_write_of_lands (r : Vregs) (q : Nat) {lanes : Lanes} (f : Nat → Word) {l : Nat} (hl : l < 64)
    (h : lands r lanes l) : ((r.write q lanes f).reg q).getD l 0 = f l := by
  obtain ⟨hlane, hbeat⟩ := h
  rw [Vregs.getD_write_same r q lanes f hl, hlane, hbeat]
  rfl

theorem Vregs.getD_write_of_not_lands (r : Vregs) {p q : Nat} {lanes : Lanes} (f : Nat → Word) {l : Nat} (hl : l < 64)
    (h : ¬ (lands r lanes l ∧ p = q)) : ((r.write q lanes f).reg p).getD l 0 = (r.reg p).getD l 0 := by
  by_cases hp : p = q
  · subst hp
    rw [Vregs.getD_write_same r p lanes f hl, if_neg]
    intro hc
    rw [Bool.and_eq_true, Bool.not_eq_true'] at hc
    exact h ⟨hc, rfl⟩
  · rw [Vregs.reg_write_other r lanes f hp]

theorem Vregs.write_lands (r : Vregs) (q : Nat) (lanes lanes' : Lanes) (f : Nat → Word) (l : Nat) :
    lands (r.write q lanes f) lanes' l ↔ lands r lanes' l := by
  simp [lands]

@[simp] theorem Vregs.push_reg (r : Vregs) (lo : List Word) (hi : Option (List Word)) (q : Nat) :
    (r.push lo hi).reg q = r.reg q := rfl

/-! ## A destination -/

/-- The registers written below the bypass codes: the lane word, and for width 64 the upper word of the pair. -/
def writtenRegs (r : Vregs) (d w : Nat) (lanes : Lanes) (f : Nat → Nat) : Vregs :=
  let low := r.write d lanes fun l => BitVec.ofNat 32 (f l)
  if w = 64 then low.write (d + 1) lanes fun l => BitVec.ofNat 32 (f l / 2 ^ 32) else low

@[simp] theorem writtenRegs_sliced (r : Vregs) (d w : Nat) (lanes : Lanes) (f : Nat → Nat) :
    (writtenRegs r d w lanes f).sliced = r.sliced := by
  unfold writtenRegs
  dsimp only
  split <;> simp

@[simp] theorem writtenRegs_bp (r : Vregs) (d w : Nat) (lanes : Lanes) (f : Nat → Nat) :
    (writtenRegs r d w lanes f).bp = r.bp := by
  unfold writtenRegs
  dsimp only
  split <;> simp

theorem writtenRegs_low (r : Vregs) (d w : Nat) {lanes : Lanes} (f : Nat → Nat) {l : Nat} (hl : l < 64)
    (h : lands r lanes l) : ((writtenRegs r d w lanes f).reg d).getD l 0 = BitVec.ofNat 32 (f l) := by
  unfold writtenRegs
  dsimp only
  split
  · rw [Vregs.reg_write_other _ _ _ (by omega), Vregs.getD_write_of_lands r d _ hl h]
  · rw [Vregs.getD_write_of_lands r d _ hl h]

theorem writtenRegs_high (r : Vregs) (d : Nat) {lanes : Lanes} (f : Nat → Nat) {l : Nat} (hl : l < 64)
    (h : lands r lanes l) :
    ((writtenRegs r d 64 lanes f).reg (d + 1)).getD l 0 = BitVec.ofNat 32 (f l / 2 ^ 32) :=
  Vregs.getD_write_of_lands _ (d + 1) _ hl ((Vregs.write_lands _ _ _ _ _ _).2 h)

theorem writtenRegs_other (r : Vregs) (d w : Nat) {lanes : Lanes} (f : Nat → Nat) {q l : Nat} (hl : l < 64)
    (h : ¬ (lands r lanes l ∧ (q = d ∨ w = 64 ∧ q = d + 1))) :
    ((writtenRegs r d w lanes f).reg q).getD l 0 = (r.reg q).getD l 0 := by
  have hlow := Vregs.getD_write_of_not_lands r (p := q) (q := d) (fun l => BitVec.ofNat 32 (f l)) hl
    fun hc => h ⟨hc.1, .inl hc.2⟩
  unfold writtenRegs
  dsimp only
  split
  case isTrue hw =>
    rw [Vregs.getD_write_of_not_lands _ _ hl, hlow]
    exact fun hc => h ⟨(Vregs.write_lands _ _ _ _ _ _).1 hc.1, .inr ⟨hw, hc.2⟩⟩
  case isFalse => exact hlow

theorem Vregs.writeDst_reg (r : Vregs) {d : BitVec 8} (w : Nat) (active lanes : Lanes) (f : Nat → Nat) (push : Bool)
    (h : d.toNat < 224) :
    r.writeDst d w active lanes f push =
      let t := writtenRegs r d.toNat w lanes f
      if push then t.push (t.value d.toNat) (if w = 64 then some (t.value (d.toNat + 1)) else none) else t := by
  rw [Vregs.writeDst, if_neg (by omega)]
  rfl

theorem Vregs.writeDst_sliced (r : Vregs) (d : BitVec 8) (w : Nat) (active lanes : Lanes) (f : Nat → Nat) (push : Bool) :
    (r.writeDst d w active lanes f push).sliced = r.sliced := by
  unfold Vregs.writeDst
  dsimp only
  repeat' split
  all_goals simp [Vregs.push]

/-! ## The state around it -/

theorem SMap.put_put {α : Type} (m : SMap α) (k : Nat) (v w : α) : SMap.put (SMap.put m k v) k w = SMap.put m k w := by
  induction m with
  | nil => simp [SMap.put]
  | cons e m ih =>
    obtain ⟨j, x⟩ := e
    by_cases h1 : k < j
    · simp [SMap.put, h1]
    · by_cases h2 : k = j
      · simp [SMap.put, h2]
      · simp [SMap.put, h1, h2, ih]

theorem State.setGroup_setGroup (s : State) (g : Nat) (x y : Group) : (s.setGroup g x).setGroup g y = s.setGroup g y := by
  simp only [State.setGroup, SMap.put_put]

theorem Group.setSlot_setSlot (g : Group) (k : Nat) (x y : Slot) : (g.setSlot k x).setSlot k y = g.setSlot k y := by
  unfold Group.setSlot
  split <;> rfl

theorem State.setSlot_slot (s : State) (g k : Nat) (x : Slot) :
    s.setSlot (.slot g k) x = s.setGroup g ((s.group g).setSlot k x) := rfl

/-- Advancing sets the issuing slot, which moves on by n words. -/
theorem State.advance_eq (s : State) (n : Nat) : ∃ x : Slot, x.pc = (s.slot s.cur).pc + 4 * BitVec.ofNat 64 n ∧
    x.mask = (s.slot s.cur).mask ∧ s.advance n = s.setSlot s.cur x := by
  unfold State.advance
  dsimp only
  repeat' split
  all_goals
    refine ⟨_, ?_, ?_, rfl⟩
    all_goals rfl

/-- Retiring, for a slot of a group, counts in the group's hart and moves the slot on: nothing else. -/
theorem State.retire_eq {s : State} {g k : Nat} (hcur : s.cur = .slot g k) (n : Nat) :
    ∃ x : Slot, x.pc = (s.slot s.cur).pc + 4 * BitVec.ofNat 64 n ∧ x.mask = (s.slot s.cur).mask ∧
      s.retire n = s.setGroup g (Group.setSlot
        { s.group g with hart := { (s.group g).hart with retired := (s.group g).hart.retired + 1 } } k x) := by
  obtain ⟨x, hpc, hmask, hx⟩ := State.advance_eq s.count n
  refine ⟨x, ?_, ?_, ?_⟩
  · rw [hpc, State.count_cur, State.count_slot]
  · rw [hmask, State.count_cur, State.count_slot]
  · rw [State.retire, hx, State.count_cur]
    simp only [State.count, hcur, State.setGroup_cur, State.setSlot_slot, State.setHart, State.group_setGroup,
      State.setGroup_setGroup, Group.setSlot_setSlot]
    rfl

/-- Reads of released values are noted in the race detector alone. -/
theorem State.readRels_frame (s : State) (w : Who) (key : Nat) : ∃ r, s.readRels w key = { s with race := r } := by
  unfold State.readRels
  split <;> exact ⟨_, rfl⟩

/-- A fold whose steps change the race detector alone changes it alone. -/
theorem foldl_race {α : Type} {f : State → α → State} (hf : ∀ s x, ∃ r, f s x = { s with race := r }) (l : List α)
    (s : State) : ∃ r, l.foldl f s = { s with race := r } := by
  induction l generalizing s with
  | nil => exact ⟨s.race, rfl⟩
  | cons x l ih =>
    obtain ⟨r, hr⟩ := hf s x
    obtain ⟨r', hr'⟩ := ih (f s x)
    exact ⟨r', by rw [List.foldl_cons, hr', hr]⟩

theorem State.setLaunch_of_race {s u : State} (h : ∃ r, u = { s with race := r }) (id : Nat) (x : Launch) :
    ∃ y r, u.setLaunch id x = { s with launches := y, race := r } := by
  obtain ⟨r, rfl⟩ := h
  exact ⟨_, r, rfl⟩

/-- Reads of ports are noted in the launch and the race detector. -/
theorem State.notePorts_frame (s : State) (cs : List (BitVec 8)) (lanes : Lanes) :
    ∃ x r, s.notePorts cs lanes = { s with launches := x, race := r } := by
  unfold State.notePorts
  dsimp only
  split
  · exact ⟨s.launches, s.race, rfl⟩
  · exact ⟨s.launches, s.race, rfl⟩
  · refine State.setLaunch_of_race (foldl_race (fun u lane => foldl_race (fun v n => ?_) _ u) _ s) _ _
    split
    · exact State.readRels_frame _ _ _
    · exact ⟨v.race, rfl⟩

/-- A vector result written, its ports noted and retired: one group differs, in its registers, its hart and the slot. -/
theorem State.vwrite_retire {s : State} {g k : Nat} (hcur : s.cur = .slot g k) (d : BitVec 8) (w n : Nat)
    (lanes noted : Lanes) (srcs : List (BitVec 8)) (f : Nat → Nat) (push : Bool) :
    ∃ (x : Slot) (launches : SMap Launch) (race : Race), x.pc = (s.slot s.cur).pc + 4 * BitVec.ofNat 64 n ∧
      ((s.vwrite d w lanes f push).notePorts srcs noted).retire n =
        ({ s with launches := launches, race := race } : State).setGroup g (Group.setSlot
          { s.group g with
            hart := { (s.group g).hart with retired := (s.group g).hart.retired + 1 }
            regs := (s.group g).regs.writeDst d w s.acting lanes f push } k x) := by
  obtain ⟨launches, race, hports⟩ := State.notePorts_frame (s.vwrite d w lanes f push) srcs noted
  have hcur' : ((s.vwrite d w lanes f push).notePorts srcs noted).cur = .slot g k := by
    rw [hports]
    exact hcur
  have hw : s.vwrite d w lanes f push
      = s.setGroup g { s.group g with regs := (s.group g).regs.writeDst d w s.acting lanes f push } := by
    simp only [State.vwrite, State.setGrp, State.grp, hcur, gidOf]
  obtain ⟨x, hpc, -, hx⟩ := State.retire_eq hcur' n
  refine ⟨x, launches, race, ?_, ?_⟩
  · rw [hpc, hcur', hcur, hports, hw]
    show ((State.group (s.setGroup g _) g).slot k).pc + _ = _
    rw [State.group_setGroup]
    rfl
  · rw [hx, hports, hw]
    have hg : ∀ y : Group, State.group { s.setGroup g y with launches := launches, race := race } g = y :=
      fun y => State.group_setGroup s g y
    rw [hg]
    exact State.setGroup_setGroup { s with launches := launches, race := race } g _ _

theorem vectorResultStands : VectorResultStands := by
  intro s g k d w n lanes noted srcs f push hcur t r r' written
  obtain ⟨x, launches, race, hpc, ht⟩ := State.vwrite_retire hcur d w n lanes noted srcs f push
  have hgroup : t.group g = Group.setSlot
      { s.group g with
        hart := { (s.group g).hart with retired := (s.group g).hart.retired + 1 }
        regs := (s.group g).regs.writeDst d w s.acting lanes f push } k x := by
    rw [show t = _ from ht, State.group_setGroup]
  have hregs : r' = r.writeDst d w s.acting lanes f push := by
    show (t.group g).regs = _
    rw [hgroup, Group.setSlot_regs]
  refine ⟨fun hd => ?_, fun hd => ?_, fun q l => ?_, ?_, fun j hj => ?_, ?_, ?_, ?_, ?_⟩
  · have hreg : ∀ q, r'.reg q = (writtenRegs r d.toNat w lanes f).reg q := fun q => by
      rw [hregs, Vregs.writeDst_reg r w s.acting lanes f push hd]
      cases push <;> rfl
    refine ⟨fun l hl h => ?_, fun hw l hl h => ?_, fun q l hl h => ?_, fun hp => ?_, fun hp => ?_⟩
    · rw [hreg, writtenRegs_low r _ w f hl h]
    · rw [hreg, hw, writtenRegs_high r _ f hl h]
    · rw [hreg, writtenRegs_other r _ w f hl h]
    · have hbp : ∀ e, (writtenRegs r d.toNat w lanes f).bypass e = r.bypass e := fun e => by
        rw [Vregs.bypass, writtenRegs_bp]
        rfl
      rw [hregs, Vregs.writeDst_reg r w s.acting lanes f push hd, hp]
      exact ⟨rfl, hbp 0, hbp 1⟩
    · rw [hregs, Vregs.writeDst_reg r w s.acting lanes f push hd, hp]
      exact writtenRegs_bp _ _ _ _ _
  · subst hd
    rw [hregs]
    refine ⟨rfl, rfl, rfl, fun l hl => ?_⟩
    show ((List.range 64).map fun l => if (lanes &&& s.acting).getLsbD l then BitVec.ofNat 32 (f l) else 0).getD l 0 = _
    rw [getD_map_range _ _ hl]
    simp only [BitVec.getLsbD_and, Bool.and_eq_true]
  · rw [hregs, Vregs.lane, Vregs.writeDst_sliced]
  · rw [show t = _ from ht]
    rfl
  · rw [show t = _ from ht]
    exact SMap.find_put_other _ _ hj
  · rw [hgroup, Group.setSlot_hart]
  · rw [← hpc, hcur]
    show ((t.group g).slot k).pc = _
    rw [hgroup, Group.slot_setSlot]
  · rw [hgroup]
    match k with
    | 0 => rfl
    | 1 => rfl
  · rfl

/-! ## Integers written (R76, R164) -/

theorem toInt_valOfInt (i : Int) : (valOfInt i).toInt = i := by
  rcases lt_or_ge i 0 with h | h
  · simp [valOfInt, Val.toInt, h, abs_of_neg h]
  · simp [valOfInt, Val.toInt, Int.not_lt.2 h, abs_of_nonneg h]

/-- Reading the code of a two's-complement or unsigned integer gives the value, wrapped to the range. -/
theorem readCode_integer {F : Fmt} (hk : F.kind = 1) (c : Nat) :
    (readCode F c).toInt = if F.sign && 2 ^ (F.w - 1) ≤ c % 2 ^ F.w then ((c % 2 ^ F.w : Nat) : Int) - 2 ^ F.w
      else ((c % 2 ^ F.w : Nat) : Int) := by
  rw [readCode, hk]
  exact toInt_valOfInt _

theorem readCode_signMagnitude {F : Fmt} (hk : F.kind = 2) (c : Nat) :
    (readCode F c).toInt = if c / 2 ^ F.fw % 2 = 1 then -((c % 2 ^ F.fw : Nat) : Int) else ((c % 2 ^ F.fw : Nat) : Int) := by
  rw [readCode, hk]
  exact toInt_valOfInt _

/-- The code of an integer of the range reads as the integer; of another, as it wraps. -/
theorem readCode_intCode {F : Fmt} (hk : F.kind = 1) (y : Int) :
    ((2 ^ F.w : Nat) : Int) ∣ (readCode F (intCode F y)).toInt - y ∧ F.minInt ≤ (readCode F (intCode F y)).toInt
      ∧ (readCode F (intCode F y)).toInt ≤ F.maxInt := by
  have hw : F.w = F.fw + 1 := by simp [Fmt.w, hk]
  have hpow : 2 ^ F.w = 2 * 2 ^ (F.w - 1) := by rw [hw, Nat.pow_succ, Nat.mul_comm]; rfl
  have hpos : 0 < 2 ^ (F.w - 1) := Nat.two_pow_pos _
  have hmin : F.minInt = if F.sign then -((2 ^ (F.w - 1) : Nat) : Int) else 0 := by
    simp [Fmt.minInt, hk]
  have hmax : F.maxInt = if F.sign then ((2 ^ (F.w - 1) : Nat) : Int) - 1 else ((2 ^ F.w : Nat) : Int) - 1 := by
    simp [Fmt.maxInt, hk]
  have hcode : intCode F y = (y % ((2 ^ F.w : Nat) : Int)).toNat := by simp [intCode, hk]
  have hread := readCode_integer hk (intCode F y)
  rw [show (2 : Int) ^ F.w = ((2 ^ F.w : Nat) : Int) by simp] at hread
  rw [hmin, hmax, hread, hcode]
  generalize 2 ^ F.w = W at *
  generalize 2 ^ (F.w - 1) = H at *
  have h0 := Int.emod_nonneg y (b := (W : Int)) (by omega)
  have h1 := Int.emod_lt_of_pos y (b := (W : Int)) (by omega)
  have hdiv := Int.emod_add_mul_ediv y W
  generalize hm : y % (W : Int) = m at *
  obtain ⟨c, rfl⟩ := Int.eq_ofNat_of_zero_le h0
  rw [Int.toNat_natCast, Nat.mod_eq_of_lt (by omega)]
  have hdvd : (W : Int) ∣ (c : Int) - y := ⟨-(y / W), by rw [Int.mul_neg]; omega⟩
  cases hs : F.sign
  · refine ⟨by simpa using hdvd, ?_, ?_⟩
    · simp
    · simp
      omega
  · by_cases hc : H ≤ c
    · refine ⟨?_, ?_, ?_⟩
      · simp only [hc, decide_true, Bool.and_self, if_true]
        exact (show (c : Int) - W - y = (c - y) - W by omega) ▸ Int.dvd_sub hdvd (Int.dvd_refl _)
      · simp [hc]
        omega
      · simp [hc]
        omega
    · refine ⟨by simpa [hc] using hdvd, ?_, ?_⟩
      · simp [hc]
      · simp [hc]
        omega

theorem Fmt.minInt_le_maxInt {F : Fmt} (hk : F.kind = 1 ∨ F.kind = 2) :
    F.minInt ≤ F.maxInt ∧ F.maxInt - F.minInt < ((2 ^ F.w : Nat) : Int) := by
  have hfw : 0 < 2 ^ F.fw := Nat.two_pow_pos _
  rcases hk with hk | hk
  · have hw : F.w = F.fw + 1 := by simp [Fmt.w, hk]
    have hpow : 2 ^ (F.fw + 1) = 2 * 2 ^ F.fw := by rw [Nat.pow_succ, Nat.mul_comm]
    zify at hfw hpow
    cases hs : F.sign <;> simp [Fmt.minInt, Fmt.maxInt, hk, hs, hw] <;> omega
  · have hw : F.w = F.fw + 1 := by simp [Fmt.w, hk, Nat.add_comm]
    have hpow : 2 ^ (F.fw + 1) = 2 * 2 ^ F.fw := by rw [Nat.pow_succ, Nat.mul_comm]
    zify at hfw hpow
    simp [Fmt.minInt, Fmt.maxInt, hk, hw]
    omega

theorem satInt_bounds {F : Fmt} (hk : F.kind = 1 ∨ F.kind = 2) (y : Int) :
    F.minInt ≤ satInt F y ∧ satInt F y ≤ F.maxInt := by
  obtain ⟨h, -⟩ := Fmt.minInt_le_maxInt hk
  unfold satInt
  omega

/-- An integer of the range reads back. -/
theorem readCode_intCode_of_range {F : Fmt} (hk : F.kind = 1) {y : Int} (h0 : F.minInt ≤ y) (h1 : y ≤ F.maxInt) :
    (readCode F (intCode F y)).toInt = y := by
  obtain ⟨-, hspan⟩ := Fmt.minInt_le_maxInt (F := F) (.inl hk)
  obtain ⟨hdvd, hlo, hhi⟩ := readCode_intCode hk y
  have := Int.eq_zero_of_abs_lt_dvd hdvd (by rw [abs_lt]; omega)
  omega

/-- Sign and magnitude of a value of the range. -/
theorem readCode_intCode_signMagnitude {F : Fmt} (hk : F.kind = 2) {y : Int} (h0 : F.minInt ≤ y) (h1 : y ≤ F.maxInt) :
    intCode F y < 2 ^ F.w ∧ (readCode F (intCode F y)).toInt = y := by
  have hw : 2 ^ F.w = 2 * 2 ^ F.fw := by simp [Fmt.w, hk, Nat.pow_add]
  have hm : y.natAbs < 2 ^ F.fw := by
    have hpos : 0 < 2 ^ F.fw := Nat.two_pow_pos _
    have hmin : F.minInt = -(((2 ^ F.fw : Nat) : Int) - 1) := by simp [Fmt.minInt, hk]
    have hmax : F.maxInt = ((2 ^ F.fw : Nat) : Int) - 1 := by simp [Fmt.maxInt, hk]
    omega
  rw [readCode_signMagnitude hk, hw]
  by_cases hy : y < 0
  · have hcode : intCode F y = 2 ^ F.fw + y.natAbs := by simp [intCode, hk, hy]
    have hdiv : (2 ^ F.fw + y.natAbs) / 2 ^ F.fw = 1 := by
      rw [Nat.add_div_left _ (Nat.two_pow_pos _), Nat.div_eq_of_lt hm]
    rw [hcode, hdiv, Nat.add_mod_left, Nat.mod_eq_of_lt hm, if_pos (by decide)]
    omega
  · have hcode : intCode F y = y.natAbs := by simp [intCode, hk, hy]
    rw [hcode, Nat.div_eq_of_lt hm, Nat.mod_eq_of_lt hm, if_neg (by decide)]
    omega

theorem intCode_lt {F : Fmt} (hk : F.kind = 1) (y : Int) : intCode F y < 2 ^ F.w := by
  have hpos : (0 : Int) < 2 ^ F.w := by positivity
  have h1 := Int.emod_lt_of_pos y hpos
  have h0 := Int.emod_nonneg y hpos.ne'
  have hcode : intCode F y = (y % 2 ^ F.w).toNat := by simp [intCode, hk]
  rw [hcode]
  zify
  omega

theorem integerWriting : IntegerWriting := by
  intro r y _ hk G lo hi
  obtain ⟨hsat0, hsat1⟩ := satInt_bounds hk y
  have hwrap : ∀ sat, G.kind = 1 → writeInt G sat y = intCode G (if sat then satInt G y else y) := fun sat h => by
    simp [writeInt, h]
  have hclamp : ∀ sat, G.kind = 2 → writeInt G sat y = intCode G (satInt G y) := fun sat h => by
    simp [writeInt, h]
  rcases hk with h | h
  · refine ⟨fun sat => ?_, ?_, fun h2 => absurd (h.symm.trans h2) (by decide), fun _ => ?_⟩
    · rw [hwrap sat h]
      exact intCode_lt h _
    · rw [hwrap true h]
      exact readCode_intCode_of_range h hsat0 hsat1
    · rw [hwrap false h, ← Nat.cast_ofNat, ← Nat.cast_pow]
      exact readCode_intCode h y
  · obtain ⟨hlt, hread⟩ := readCode_intCode_signMagnitude h hsat0 hsat1
    refine ⟨fun sat => ?_, ?_, fun _ => ?_, fun h1 => absurd (h.symm.trans h1) (by decide)⟩
    · rw [hclamp sat h]
      exact hlt
    · rw [hclamp true h]
      exact hread
    · rw [hclamp false h, hclamp true h]

/-- Settles O18: one group differs after a vector result, in the registers written, its hart and its slot; an integer
of the range reads back from its code, and any other is congruent to what its code reads as. -/
theorem vectorWriting : Obligations.VectorWriting := ⟨vectorResultStands, integerWriting⟩

end Sys2Proof.Proofs

/-! Fills and stores of a domino: O37. -/

namespace Sys2Proof.Proofs

open Host (Outcome)
open Sys2Proof Sys2Proof.Machine Sys2Proof.Stated

/-! ## What reads change -/

/-- Two states that differ in translations, free values and the race detector alone. -/
def Looked (s t : State) : Prop := ∃ b f r, t = { s with buffered := b, free := f, race := r }

theorem Looked.refl (s : State) : Looked s s := ⟨s.buffered, s.free, s.race, rfl⟩

theorem Looked.trans {s t u : State} (h : Looked s t) (h' : Looked t u) : Looked s u := by
  obtain ⟨b, f, r, rfl⟩ := h
  obtain ⟨b', f', r', rfl⟩ := h'
  exact ⟨b', f', r', rfl⟩

/-- A fold of steps that look, where it succeeds, has looked; `st` is the state among what is folded. -/
theorem foldlM_looked {ε α β : Type} {st : α → State} {f : α → β → Except ε α}
    (hf : ∀ a x b, f a x = .ok b → Looked (st a) (st b)) : ∀ (l : List β) {a b : α}, l.foldlM f a = .ok b →
    Looked (st a) (st b)
  | [], a, b, h => by
    cases h
    exact Looked.refl _
  | x :: l, a, b, h => by
    rw [List.foldlM_cons] at h
    obtain ⟨c, hc, h⟩ := except_bind_ok h
    exact (hf a x c hc).trans (foldlM_looked hf l h)

theorem State.engineReadOne_looked {s t : State} {id n v : Nat} {va : Dword} {bad : Option (BitVec 16)}
    (h : s.engineReadOne id va n = .ok (v, bad, t)) : Looked s t := by
  unfold State.engineReadOne at h
  dsimp only at h
  split at h
  · cases h
  · cases h
  · rename_i l s1 hx
    split at h
    · cases h
    · rename_i s2 hr
      cases h
      obtain ⟨b, f, hs1⟩ := State.xlate_ok hx
      obtain ⟨r, hs2⟩ := State.raceAccess_frame hr
      exact ⟨b, f, r, by rw [hs2, hs1]⟩

theorem State.engineRead_looked {s t : State} {id n v : Nat} {va : Dword} {bad : Option (BitVec 16)}
    (h : s.engineRead id va n = .ok (v, bad, t)) : Looked s t := by
  refine foldlM_looked (st := fun a : Nat × Option (BitVec 16) × State => a.2.2) (fun a p b hb => ?_) _ h
  obtain ⟨⟨v, bad, s1⟩, hread, hb⟩ := except_bind_ok hb
  cases hb
  exact State.engineReadOne_looked hread

theorem State.readAll_looked {s t : State} {id : Nat} {l : List (Dword × Nat)} {m : ReadMap}
    (h : s.readAll id l = .ok (m, t)) : Looked s t := by
  refine foldlM_looked (st := fun a : ReadMap × State => a.2) (fun a p b hb => ?_) _ h
  obtain ⟨⟨v, bad, s1⟩, hread, hb⟩ := except_bind_ok hb
  cases hb
  exact State.engineRead_looked hread

/-- A fill request that is read. -/
theorem State.fillRequest_looked {s t : State} {va : Dword} {q : List Dword} (h : s.fillRequest va = .ok (q, t)) :
    Looked s t := by
  obtain ⟨-, -, h⟩ := except_bind_ok h
  obtain ⟨⟨x, l, s1⟩, hread, h⟩ := except_bind_ok h
  cases h
  obtain ⟨⟨l1, s2⟩, haccess, hread⟩ := except_bind_ok hread
  obtain ⟨-, -, hread⟩ := except_bind_ok hread
  simp only [Except.ok.injEq, Prod.mk.injEq] at hread
  obtain ⟨-, -, rfl⟩ := hread
  exact State.scalarAccess_frame haccess

/-! ## Rows of a slot -/

/-- One row lands in a slot: its bits, and whether it is poisoned. -/
def landRow (x : OSlot) (r : Nat × FillRow) : OSlot :=
  { x with
    rows := SMap.set x.rows r.1 r.2.data 0
    bad := if r.2.bad then (if x.bad.contains r.1 then x.bad else x.bad ++ [r.1]) else x.bad.filter (· != r.1) }

theorem Domino.slot_landRows (d : Domino) (slot : Nat) (rows : List (Nat × FillRow)) :
    (d.landRows slot rows).slot slot = rows.foldl landRow (d.slot slot) := SMap.get_put_same _ _ _ _

theorem Domino.slot_landRows_other (d : Domino) {slot k : Nat} (rows : List (Nat × FillRow)) (h : k ≠ slot) :
    (d.landRows slot rows).slot k = d.slot k := SMap.get_put_other _ _ _ h

/-- Rows that land in a slot change its rows and its poison. -/
theorem landRows_frame (x : OSlot) (rows : List (Nat × FillRow)) :
    ∃ m b, rows.foldl landRow x = { x with rows := m, bad := b } := by
  induction rows generalizing x with
  | nil => exact ⟨x.rows, x.bad, rfl⟩
  | cons r rows ih =>
    obtain ⟨m, b, h⟩ := ih (landRow x r)
    exact ⟨m, b, by rw [List.foldl_cons, h]; rfl⟩

/-- The rows from `first` on, n of them. -/
def rowsFrom (first n : Nat) (F : Nat → FillRow) : List (Nat × FillRow) := (List.range n).map fun r => (first + r, F r)

theorem rowsFrom_succ (first n : Nat) (F : Nat → FillRow) :
    rowsFrom first (n + 1) F = rowsFrom first n F ++ [(first + n, F n)] := by
  simp [rowsFrom, List.range_succ]

theorem row_landRow_same (x : OSlot) (m : Nat) (r : FillRow) : (landRow x (m, r)).row m = r.data :=
  SMap.get_set_same _ _ _ _

theorem row_landRow_other (x : OSlot) {m k : Nat} (r : FillRow) (h : k ≠ m) : (landRow x (m, r)).row k = x.row k :=
  SMap.get_set_other _ _ _ h

theorem row_landRows_inside (x : OSlot) (first : Nat) {n r : Nat} (F : Nat → FillRow) (h : r < n) :
    ((rowsFrom first n F).foldl landRow x).row (first + r) = (F r).data := by
  induction n with
  | zero => omega
  | succ n ih =>
    rw [rowsFrom_succ, List.foldl_append]
    by_cases hr : r = n
    · rw [hr]
      exact row_landRow_same _ _ _
    · exact (row_landRow_other _ _ (by omega)).trans (ih (by omega))

theorem row_landRows_outside (x : OSlot) {first n r : Nat} (F : Nat → FillRow) (h : r < first ∨ first + n ≤ r) :
    ((rowsFrom first n F).foldl landRow x).row r = x.row r := by
  induction n with
  | zero => rfl
  | succ n ih =>
    rw [rowsFrom_succ, List.foldl_append]
    exact (row_landRow_other _ _ (by omega)).trans (ih (by omega))

/-! ## Codes packed into a row -/

/-- Codes packed from place n on. -/
def packFrom (b n : Nat) (l : List Nat) : Nat := ((l.zipIdx n).map fun c => c.1 % 2 ^ b * 2 ^ (b * c.2)).sum

theorem packFrom_succ (b n : Nat) (l : List Nat) : packFrom b (n + 1) l = 2 ^ b * packFrom b n l := by
  induction l generalizing n with
  | nil => rfl
  | cons x l ih =>
    have ih' := ih (n + 1)
    simp only [packFrom, List.zipIdx_cons, List.map_cons, List.sum_cons] at ih' ⊢
    rw [ih', Nat.mul_add, Nat.mul_succ, Nat.pow_add]
    ring

theorem packCodes_cons (b x : Nat) (l : List Nat) : packCodes b (x :: l) = x % 2 ^ b + 2 ^ b * packCodes b l := by
  have h := packFrom_succ b 0 l
  simp only [packFrom] at h
  simp only [packCodes, List.zipIdx_cons, List.map_cons, List.sum_cons, Nat.mul_zero, Nat.pow_zero, Nat.mul_one]
  rw [h]

/-- Each code is found at its place. -/
theorem packCodes_digit (b : Nat) : ∀ (l : List Nat) (k : Nat), packCodes b l / 2 ^ (b * k) % 2 ^ b = l.getD k 0 % 2 ^ b
  | [], k => by simp [packCodes]
  | x :: l, 0 => by
    rw [packCodes_cons]
    simp
  | x :: l, k + 1 => by
    have hx : x % 2 ^ b < 2 ^ b := Nat.mod_lt _ (Nat.two_pow_pos b)
    rw [packCodes_cons, Nat.mul_succ, Nat.add_comm (b * k) b, Nat.pow_add, ← Nat.div_div_eq_div_mul,
      Nat.add_mul_div_left _ _ (Nat.two_pow_pos b), Nat.div_eq_of_lt hx, Nat.zero_add, packCodes_digit b l k]
    rfl

/-! ## A fill's data comes into its slot -/

/-- What the obligation says of the state once a fill's rows are in its slot. -/
def FillLanded (s u : State) (id : Nat) (f : FillRun) (first n : Nat) (data : Nat → Nat) : Prop :=
  let x := (s.domino f.dom).slot f.slot
  let x' := (u.domino f.dom).slot f.slot
  (∀ r, r < n → x'.row (first + r) = data r)
  ∧ (∀ r, r < first ∨ first + n ≤ r → x'.row r = x.row r)
  ∧ x'.fills = x.fills.filter (fun i => i != id)
  ∧ x'.st = (if x.st = .filling ∧ x'.fills = [] then .ready else x.st)
  ∧ (∀ k, k ≠ f.slot → (u.domino f.dom).slot k = (s.domino f.dom).slot k)
  ∧ u.mem = s.mem ∧ ∃ c', SMap.find u.cmds id = some c' ∧ c'.fill = some { f with landed := true }

/-- The slot of a fill that has ended. -/
theorem State.fillEnds_slot (s : State) (id : Nat) (f : FillRun) (bytes : Nat) (bad : Bool) :
    ((s.fillEnds id f bytes bad).domino f.dom).slot f.slot =
      let x := (s.domino f.dom).slot f.slot
      { x with fills := x.fills.filter (· != id),
               st := if x.st = .filling && (x.fills.filter (· != id)).isEmpty then .ready else x.st } := by
  unfold State.fillEnds
  dsimp only
  simp only [State.domino, State.setDomino, SMap.get_put_same]
  exact SMap.get_put_same _ _ _ _

theorem State.fillEnds_slot_other (s : State) (id : Nat) (f : FillRun) (bytes : Nat) (bad : Bool) {k : Nat}
    (h : k ≠ f.slot) : ((s.fillEnds id f bytes bad).domino f.dom).slot k = (s.domino f.dom).slot k := by
  unfold State.fillEnds
  dsimp only
  simp only [State.domino, State.setDomino, SMap.get_put_same]
  exact SMap.get_put_other _ _ _ h

/-- Rows land, and their fill is done with the slot. -/
theorem fillLanded {s s1 : State} (hd : s1.dominoes = s.dominoes) (hm : s1.mem = s.mem) (id : Nat) (f : FillRun)
    (first n : Nat) (F : Nat → FillRow) (bytes : Nat) (bad : Bool) :
    FillLanded s ((s1.setDomino f.dom ((s1.domino f.dom).landRows f.slot (rowsFrom first n F))).fillEnds id f bytes bad)
      id f first n (fun r => (F r).data) := by
  have hdom : s1.domino f.dom = s.domino f.dom := by simp only [State.domino, hd]
  obtain ⟨m, b, hrows⟩ := landRows_frame ((s.domino f.dom).slot f.slot) (rowsFrom first n F)
  have hset : (s1.setDomino f.dom ((s1.domino f.dom).landRows f.slot (rowsFrom first n F))).domino f.dom
      = (s.domino f.dom).landRows f.slot (rowsFrom first n F) := by
    rw [hdom]
    exact SMap.get_put_same _ _ _ _
  have hslot := State.fillEnds_slot
    (s1.setDomino f.dom ((s1.domino f.dom).landRows f.slot (rowsFrom first n F))) id f bytes bad
  rw [hset, Domino.slot_landRows] at hslot
  unfold FillLanded
  dsimp only
  rw [hslot]
  refine ⟨fun r hr => row_landRows_inside _ _ F hr, fun r hr => row_landRows_outside _ F hr, ?_, ?_, fun k hk => ?_, hm,
    _, SMap.find_put_same _ _ _, rfl⟩
  · rw [hrows]
  · rw [hrows]
    refine if_congr ?_ rfl rfl
    simp
  · rw [State.fillEnds_slot_other _ _ _ _ _ hk, hset, Domino.slot_landRows_other _ _ hk]

theorem exec_fillComplete {s : State} {id : Nat} {c : Cmd} {f : FillRun} (hc : SMap.find s.cmds id = some c)
    (hf : c.fill = some f) (hl : c.live = true) (hk : c.kind = 4) (hland : f.landed = false) (he : c.entries = 0)
    (ha : s.aheadDone f = true) : exec (.fillComplete id) s = .next (s.runFill id c f) := by
  show execFillComplete id s = _
  simp [execFillComplete, hc, hf, hl, hk, hland, he, ha]

theorem State.tileMoves_frame (s : State) (x : Option (Nat × Bool)) : ∃ t, s.tileMoves x = { s with tiles := t } := by
  unfold State.tileMoves State.tileStamp
  split
  · split <;> exact ⟨_, rfl⟩
  · exact ⟨s.tiles, rfl⟩

theorem State.post_looked (s : State) (k : Nat) (c : SMap Nat) : Looked s (s.post k c) := by
  unfold State.post
  split
  · exact Looked.refl s
  · exact ⟨s.buffered, s.free, _, rfl⟩

theorem State.handleTurn_looked (s : State) (id : Nat) (f : FillRun) : Looked s (s.handleTurn id f) := by
  unfold State.handleTurn State.learnAll
  split
  · exact Looked.refl s
  · exact ⟨s.buffered, s.free, _, rfl⟩

/-- The rows of a fill from a tensor, by their number in the fill. -/
theorem rows_zipIdx (first n : Nat) (elems : Nat → List (Option ElemAt)) (F : List (Option ElemAt) → FillRow) :
    (((List.range n).map elems).zipIdx.map fun e => (first + e.2, F e.1)) = rowsFrom first n fun r => F (elems r) := by
  refine List.ext_getElem (by simp [rowsFrom]) fun i _ _ => ?_
  simp [rowsFrom]

/-- The code of an element among what was read; a hole is zero. -/
def codeAt (T : Tensor) (rd : ReadMap) : Option ElemAt → Nat
  | some e => T.codeOf rd e
  | none => 0

/-- A row of a format that is no block format, but for the metadata slots, holds the codes read. -/
theorem Tensor.fillRow_data_plain {T : Tensor} {rd : ReadMap} {record : Dword} {es : List (Option ElemAt)}
    (h3 : T.f.kind ≠ 3) (h2 : recKind record ≠ 2) :
    (T.fillRow rd record es).data = packCodes (elemBits T.f) (es.map (codeAt T rd)) := by
  simp only [Tensor.fillRow, h2, h3, if_false]
  rfl

theorem fillCompletion : FillCompletion := by
  intro id c f s hc hf hl hk hland he ha x after
  have hexec := exec_fillComplete hc hf hl hk hland he ha
  refine ⟨fun y first hb => ?_, fun T rd t hb hT hpass => ?_⟩
  · obtain ⟨tiles, htiles⟩ := State.tileMoves_frame s c.app.tile
    refine ⟨_, hexec, ?_⟩
    unfold State.runFill
    simp only [hb]
    exact fillLanded (by rw [htiles]) (by rw [htiles]) id f first 32 (fun r => { data := y / 2 ^ (512 * r) % 2 ^ 512 }) _ _
  · intro first n elems hread
    obtain ⟨b, g, r, ht⟩ := (State.handleTurn_looked s id f).trans (State.readAll_looked hread)
    obtain ⟨tiles, htiles⟩ := State.tileMoves_frame t c.app.tile
    obtain ⟨b', g', r', hused⟩ := State.post_looked (t.tileMoves c.app.tile) (tensorUse f.tensor)
      ((t.tileMoves c.app.tile).knowledge [((t.tileMoves c.app.tile).cmd id).who id])
    have hs1 : (t.tileMoves c.app.tile).handleUsed id f = { s with tiles := tiles, buffered := b', free := g', race := r' } := by
      rw [State.handleUsed, hused, htiles, ht]
    refine ⟨_, fun r => (T.fillRow rd x.record (elems r)).data, hexec, ?_, fun hk3 hk2 r k hr hkw w hw => ?_⟩
    · unfold State.runFill
      simp only [hb, hT, hpass, Bool.false_eq_true, if_false]
      split
      · rename_i h
        cases h.symm.trans hread
      · rename_i h
        cases h.symm.trans hread
      · rename_i h
        obtain ⟨rfl, rfl⟩ := Prod.mk.inj (Except.ok.inj (h.symm.trans hread))
        rw [rows_zipIdx (reqFirst c.req) (reqRows c.req) elems (T.fillRow _ x.record)]
        exact fillLanded (by rw [hs1]) (by rw [hs1]) id f first n _ _ _
    · subst hw
      have helems : (elems r).length = T.fillWidth x.record := by
        simp [elems, Tensor.rowElems]
      show (T.fillRow rd x.record (elems r)).data / _ % _ = _
      rw [Tensor.fillRow_data_plain hk3 hk2, packCodes_digit]
      rw [List.getD_eq_getElem _ _ (by rw [List.length_map, helems]; exact hkw), List.getElem_map,
        List.getD_eq_getElem _ _ (by rw [helems]; exact hkw)]
      rfl

/-! ## The end of an instruction in class B -/

/-- A retired instruction of class B: its operation is counted on a pip, or its slot is blocked until it completes. -/
def issuedB (s : State) (n : Nat) (pip : Option Nat) : State :=
  ((match pip with
    | none => s
    | some p => s.pipUp s.cur p).retire).classB n pip

theorem State.slot_slot (s : State) (g k : Nat) : s.slot (.slot g k) = (s.group g).slot k := rfl

/-- It leaves one group other than it was: its pips, its count, and the slot, whose program counter has moved on. -/
theorem issuedB_eq {s : State} {g k : Nat} (hcur : s.cur = .slot g k) (n : Nat) (pip : Option Nat) :
    ∃ (x : Slot) (m : SMap Nat), x.pc = (s.slot s.cur).pc + 4 ∧ x.mask = (s.slot s.cur).mask
      ∧ (pip = none → x.block = some (.op n))
      ∧ issuedB s n pip = s.setGroup g (Group.setSlot { s.group g with
          hart := { (s.group g).hart with pips := m, retired := (s.group g).hart.retired + 1 } } k x) := by
  cases pip with
  | none =>
    obtain ⟨x, hpc, hmask, hx⟩ := State.retire_eq hcur 1
    refine ⟨{ x with block := some (.op n), since := s.cycle }, (s.group g).hart.pips, hpc, hmask, fun _ => rfl, ?_⟩
    show (s.retire 1).classB n none = _
    rw [hx]
    simp only [State.classB, Option.isNone_none, if_true, State.setGroup_cur, hcur, State.setSlot_slot, State.slot_slot,
      State.group_setGroup, State.setGroup_setGroup, Group.slot_setSlot, Group.setSlot_setSlot]
    rfl
  | some p =>
    let s1 := s.setGroup g { s.group g with
      hart := (s.group g).hart.setPip p ((s.group g).hart.pip p + 1) }
    have hpip : s.pipUp s.cur p = s1 := by
      rw [hcur]
      rfl
    obtain ⟨x, hpc, hmask, hx⟩ := State.retire_eq (s := s1) hcur 1
    have hslot : s1.slot s1.cur = s.slot s.cur := by
      show State.slot s1 s.cur = _
      rw [hcur, State.slot_slot, State.slot_slot, State.group_setGroup]
      rfl
    rw [hslot] at hpc hmask
    refine ⟨x, ((s.group g).hart.setPip p ((s.group g).hart.pip p + 1)).pips, hpc, hmask, by simp, ?_⟩
    show ((s.pipUp s.cur p).retire 1).classB n (some p) = _
    rw [hpip, hx, State.classB, if_neg (by simp), State.group_setGroup, State.setGroup_setGroup]
    rfl

/-- What a read of a register sees of the issuing slot. -/
theorem State.readS_slot {s : State} {g k : Nat} (hcur : s.cur = .slot g k) (r : BitVec 8) : s.readS r =
    if r = 0 then 0 else if r = 63 then ((s.group g).slot k).mask else SMap.get (s.group g).hart.sregs r.toNat 0 := by
  rw [State.readS_eq, hcur]
  rfl

/-- Registers read as before. -/
theorem issuedB_readS {s : State} {g k : Nat} (hcur : s.cur = .slot g k) (n : Nat) (pip : Option Nat) (r : BitVec 8) :
    (issuedB s n pip).readS r = s.readS r := by
  obtain ⟨x, m, -, hmask, -, h⟩ := issuedB_eq hcur n pip
  have hcur' : (issuedB s n pip).cur = .slot g k := by
    rw [h]
    exact hcur
  rw [State.readS_slot hcur', State.readS_slot hcur, h, State.group_setGroup, Group.slot_setSlot, Group.setSlot_hart, hmask,
    hcur]
  rfl

/-! ## A command enters the hidden chain -/

/-- Work is attributed in the table of tiles. -/
theorem State.tileWork_frame (s : State) (id : Nat) (b : Bool) :
    (if b then s.tileWork id else s) = { s with tiles := (if b then s.tileWork id else s).tiles } := by
  unfold State.tileWork
  split
  · split <;> rfl
  · rfl

/-- What follows the append of a command: its operation enters the table, and its instruction ends. -/
theorem issuedB_of_appended {v s4 : State} (h : s4.cur = v.cur) (n id : Nat) (b : Bool) :
    ((match (v.opHere v.setB .engine).pip with
      | none => ({ (if b then s4.tileWork id else s4) with ops := SMap.put s4.ops n (v.opHere v.setB .engine) } : State)
      | some p => ({ (if b then s4.tileWork id else s4) with
          ops := SMap.put s4.ops n (v.opHere v.setB .engine) } : State).pipUp v.cur p).retire).classB n
        (v.opHere v.setB .engine).pip
      = issuedB { s4 with tiles := (if b then s4.tileWork id else s4).tiles,
                          ops := SMap.put s4.ops n (v.opHere v.setB .engine) } n v.setB := by
  rw [State.tileWork_frame, ← h]
  rfl

/-- The domino once a fill is accepted; a store (no stamp) leaves it alone. -/
def acceptedDomino (d : Domino) (f : FillRun) (stamp : Option (BitVec 16)) (id : Nat) : Domino :=
  match stamp with
  | none => d
  | some st => d.setSlot f.slot { d.slot f.slot with st := .filling, stamp := st, fills := (d.slot f.slot).fills ++ [id] }

/-- The command of a fill or store as it is appended. -/
def fillCommand (v : State) (words req : List Dword) (f : FillRun) (store : Bool) : Cmd :=
  { chain := fillChain f.dom, pkg := (dominoPlace f.dom).1, die := (dominoPlace f.dom).2.1, engine := f.dom % 64 % 16,
    ctx := v.ctxOf v.cur, words := words, req := req, fill := some f,
    app := { v.appendedHere (v.nextId + 1) v.nextId (Config.hiddenChain (fillChain f.dom)) with
      tile := v.fillTile store, ticket := (v.chain (fillChain f.dom)).tickets + 1 } }

/-- The hidden chain once the command is in it. -/
def fillChainWith (v : State) (f : FillRun) : Chain :=
  { v.chain (fillChain f.dom) with
    pkg := (dominoPlace f.dom).1, die := (dominoPlace f.dom).2.1, engine := f.dom % 64 % 16, ctx := v.ctxOf v.cur,
    queue := (v.chain (fillChain f.dom)).queue ++ [v.nextId + 1],
    tickets := (v.chain (fillChain f.dom)).tickets + 1 }

/-- The state with the command in its chain. -/
def appended (v : State) (words req : List Dword) (f : FillRun) (stamp : Option (BitVec 16)) : State :=
  { v with
    nextId := v.nextId + 2
    cmds := SMap.put v.cmds (v.nextId + 1) (fillCommand v words req f stamp.isNone)
    chains := SMap.put v.chains (fillChain f.dom) (fillChainWith v f)
    dominoes := match stamp with
      | none => v.dominoes
      | some _ => SMap.put v.dominoes f.dom (acceptedDomino (v.domino f.dom) f stamp (v.nextId + 1)) }

/-- A fill or store is appended, and its instruction ends. -/
theorem State.appendFill_eq (v : State) (words req : List Dword) (f : FillRun) (stamp : Option (BitVec 16)) :
    ∃ t, v.appendFill words req f stamp = issuedB { appended v words req f stamp with
      tiles := t, ops := SMap.put v.ops v.nextId (v.opHere v.setB .engine) } v.nextId v.setB := by
  unfold State.appendFill
  cases stamp with
  | none =>
    exact ⟨_, issuedB_of_appended (s4 := appended v words req f none) rfl v.nextId (v.nextId + 1)
      (v.fillTile true).isSome⟩
  | some st =>
    exact ⟨_, issuedB_of_appended (s4 := appended v words req f (some st)) rfl v.nextId (v.nextId + 1)
      (v.fillTile false).isSome⟩

/-! ## What the write of a status leaves -/

theorem State.writeS_register (s : State) {d : BitVec 8} (v : Dword) (h0 : d ≠ 0) (h63 : d ≠ 63) :
    s.writeS d v = s.setHart s.cur { s.hart s.cur with sregs := SMap.put (s.hart s.cur).sregs d.toNat v } := by
  rw [State.writeS, if_neg h0, if_neg h63]

theorem State.setSlot_groups {s : State} {g k : Nat} {a : Agent} (ha : a = .slot g k) (x : Slot) :
    ∃ gs, s.setSlot a x = { s with groups := gs } := by
  subst ha
  exact ⟨_, rfl⟩

theorem State.setHart_groups {s : State} {g k : Nat} {a : Agent} (ha : a = .slot g k) (x : Hart) :
    ∃ gs, s.setHart a x = { s with groups := gs } := by
  subst ha
  exact ⟨_, rfl⟩

theorem State.writeS_groups {s : State} {g k : Nat} (hcur : s.cur = .slot g k) (d : BitVec 8) (v : Dword) :
    ∃ gs, s.writeS d v = { s with groups := gs } := by
  unfold State.writeS State.writeMask
  split
  · exact ⟨s.groups, rfl⟩
  · split
    · split
      · exact ⟨s.groups, rfl⟩
      · exact State.setSlot_groups hcur _
    · exact State.setHart_groups hcur _

theorem State.writeS_slot (s : State) (d : BitVec 8) (v : Dword) :
    ∃ m, (s.writeS d v).slot s.cur = { s.slot s.cur with mask := m } := by
  unfold State.writeS State.writeMask
  split
  · exact ⟨(s.slot s.cur).mask, rfl⟩
  · split
    · split
      · exact ⟨(s.slot s.cur).mask, rfl⟩
      · exact ⟨_, State.slot_setSlot _ _ _⟩
    · exact ⟨(s.slot s.cur).mask, State.slot_setHart _ _ _⟩

/-- The mask written leaves what registers hold. -/
theorem State.hart_writeMask (s : State) (v : Dword) : (s.writeMask v).hart s.cur = s.hart s.cur := by
  unfold State.writeMask
  split
  · rfl
  · exact State.hart_setSlot _ _ _

/-- A write leaves the other registers. -/
theorem State.readS_writeS_other (s : State) {d r : BitVec 8} (v : Dword) (h : r ≠ d) : (s.writeS d v).readS r = s.readS r := by
  rw [State.readS_eq, State.readS_eq, State.writeS_cur]
  by_cases h0 : d = 0
  · rw [State.writeS, if_pos h0]
  by_cases h63 : d = 63
  · subst h63
    rw [if_neg h, if_neg h]
    exact if_congr Iff.rfl rfl (by rw [show s.writeS 63 v = s.writeMask v from rfl, State.hart_writeMask])
  · rw [State.writeS_register s v h0 h63, State.slot_setHart, State.hart_setHart]
    exact if_congr Iff.rfl rfl (if_congr Iff.rfl rfl (SMap.get_put_other _ _ _ fun hc => h (BitVec.eq_of_toNat_eq hc)))

/-- A zero written is read. -/
theorem State.readS_writeS_zero (s : State) {d : BitVec 8} (h : d ≠ 63) : (s.writeS d 0).readS d = 0 := by
  rw [State.readS_eq, State.writeS_cur]
  by_cases hd : d = 0
  · rw [if_pos hd]
  · rw [if_neg hd, if_neg h, State.writeS_register s 0 hd h, State.hart_setHart]
    exact SMap.get_put_same _ _ _ _

/-! ## Fills and stores as the obligation tells of them -/

/-- What a fill or store appends from: the state with the request read and the status written. -/
structure FillFrom (s v : State) : Prop where
  cur : v.cur = s.cur
  chains : v.chains = s.chains
  mem : v.mem = s.mem
  dominoes : v.dominoes = s.dominoes
  pc : (v.slot v.cur).pc = (s.slot s.cur).pc
  setB : v.setB = s.setB

theorem FillFrom.refl (s : State) : FillFrom s s := ⟨rfl, rfl, rfl, rfl, rfl, rfl⟩

/-- The request has been read, and the status written. -/
theorem FillFrom.of_looked {s t : State} {g k : Nat} (hcur : s.cur = .slot g k) (h : Looked s t) (d : BitVec 8) (v : Dword) :
    FillFrom s (t.writeS d v) := by
  obtain ⟨b, f, r, rfl⟩ := h
  obtain ⟨m, hslot⟩ := State.writeS_slot { s with buffered := b, free := f, race := r } d v
  obtain ⟨gs, hw⟩ := State.writeS_groups (s := { s with buffered := b, free := f, race := r }) hcur d v
  refine ⟨by rw [hw], by rw [hw], by rw [hw], by rw [hw], ?_, ?_⟩
  · rw [State.writeS_cur, hslot]
    rfl
  · rw [State.setB, State.writeS_cur, hslot]
    rfl

theorem appendFill_appends {s v : State} {g k : Nat} (hcur : s.cur = .slot g k) (hv : FillFrom s v) (words req : List Dword)
    (f : FillRun) (stamp : Option (BitVec 16)) (hdom : f.dom = s.dominoHere) (hland : f.landed = false) :
    Appends s (v.appendFill words req f stamp) (v.nextId + 1) (fillCommand v words req f stamp.isNone) f := by
  obtain ⟨t, hu⟩ := State.appendFill_eq v words req f stamp
  have hvcur : v.cur = .slot g k := hv.cur.trans hcur
  obtain ⟨x, m, hpc, -, hblock, hissued⟩ := issuedB_eq (s := { appended v words req f stamp with
    tiles := t, ops := SMap.put v.ops v.nextId (v.opHere v.setB .engine) }) hvcur v.nextId v.setB
  have hslot : (v.appendFill words req f stamp).slot s.cur = x := by
    rw [hu, hissued, hcur, State.slot_slot, State.group_setGroup, Group.slot_setSlot]
  have hchain : (v.appendFill words req f stamp).chain (fillChain f.dom) = fillChainWith v f := by
    rw [hu, hissued]
    exact SMap.get_put_same _ _ _ _
  refine ⟨?_, rfl, congrArg (2 ^ 61 + ·) hdom, rfl, rfl, ?_, hdom, hland, ?_, ?_, v.nextId, v.opHere v.setB .engine, rfl, ?_, rfl,
    hv.setB, fun hb => ?_⟩
  · rw [hu, hissued]
    exact SMap.find_put_same _ _ _
  · show ((v.appendFill words req f stamp).chain (fillChain f.dom)).queue = _
    rw [hchain]
    show (SMap.get v.chains _ _).queue ++ _ = _
    rw [hv.chains]
    rfl
  · rw [hu, hissued]
    exact hv.mem
  · rw [hslot, hpc]
    exact congrArg (· + 4) hv.pc
  · rw [hu, hissued]
    exact SMap.find_put_same _ _ _
  · rw [hslot]
    exact hblock (hv.setB.trans hb)

/-! ## The three instructions -/

@[simp] theorem counting_ok (pip : Option Nat) (s : State) : counting pip (.ok s) = .ok s := rfl

theorem State.hiddenStep_of_unlogged {s : State} (h : s.logOf s.cur = none) (chain : Nat) (r : Res) :
    s.hiddenStep chain r = r := by
  unfold State.hiddenStep State.ticketStep
  split
  · rename_i h'
    cases h.symm.trans h'
  · rfl

theorem Looked.unlogged {s t : State} (h : Looked s t) (hs : Unlogged s) : t.logOf t.cur = none := by
  obtain ⟨b, f, r, rfl⟩ := h
  exact hs

section Ofill

variable {d a b : BitVec 8} {s t : State} {x : OSlot} {q : List Dword} {key : Nat} {T : Tensor}

theorem exec_ofill_refused (hneed : Ready s [d, a, b]) (hpip : s.needPip s.setB = .ok ())
    (hx : s.liveSlot (s.readS a) = .ok x) (hq : s.fillRequest (s.readS b) = .ok (q, t))
    (hT : t.handle (s.readS d) = .ok (key, T)) (hst : fillStatus T q x.record ≠ 0) :
    exec (.ofill d a b) s = puts t d (BitVec.ofNat 64 (fillStatus T q x.record)) := by
  show execOfill d a b s = _
  simp only [execOfill, show s.need [d, a, b] = .ok () from hneed, hpip, hx, hq, hT, except_ok_bind, hst, ne_eq,
    not_false_eq_true, if_true, counting_ok, finish_ok]
  rfl

/-- The fill that `ofill` appends. -/
def ofillRun (s : State) (a : BitVec 8) (x : OSlot) (key : Nat) (T : Tensor) : FillRun :=
  { dom := s.dominoHere, slot := handleSlot (s.readS a), gen := x.gen, tensor := key, tgen := T.gen, fentry := T.entry,
    after := (s.domino s.dominoHere).readersAhead (handleSlot (s.readS a)) }

theorem exec_ofill_accepted (hlog : Unlogged s) (hneed : Ready s [d, a, b]) (hpip : s.needPip s.setB = .ok ())
    (hx : s.liveSlot (s.readS a) = .ok x) (hq : s.fillRequest (s.readS b) = .ok (q, t))
    (hT : t.handle (s.readS d) = .ok (key, T)) (hst : fillStatus T q x.record = 0) (hroom : s.queued s.dominoHere < 32) :
    exec (.ofill d a b) s = .next ((t.writeS d 0).appendFill
      [0, flagWord q 4, s.readS d, s.readS a, s.readS b, 0, 0, 0] q (ofillRun s a x key T) (some (fillStamp T.fmt q))) := by
  have hstep := fun chain r => State.hiddenStep_of_unlogged (s := t) ((State.fillRequest_looked hq).unlogged hlog) chain r
  show execOfill d a b s = _
  simp only [execOfill, show s.need [d, a, b] = .ok () from hneed, hpip, hx, hq, hT, except_ok_bind, hst, ne_eq,
    not_true_eq_false, if_false, hroom, decide_true, guardRes_true, hstep, counting_ok, finish_ok]
  rfl

end Ofill

/-! ### What is read of a state with a fill appended -/

theorem appendFill_readS {v : State} {g k : Nat} (hcur : v.cur = .slot g k) (words req : List Dword) (f : FillRun)
    (stamp : Option (BitVec 16)) (r : BitVec 8) : (v.appendFill words req f stamp).readS r = v.readS r := by
  obtain ⟨t, hu⟩ := State.appendFill_eq v words req f stamp
  rw [hu]
  exact issuedB_readS (s := { appended v words req f stamp with
    tiles := t, ops := SMap.put v.ops v.nextId (v.opHere v.setB .engine) }) hcur v.nextId v.setB r

theorem appendFill_domino {v : State} {g k : Nat} (hcur : v.cur = .slot g k) (words req : List Dword) (f : FillRun)
    (st : BitVec 16) : (v.appendFill words req f (some st)).domino f.dom
      = acceptedDomino (v.domino f.dom) f (some st) (v.nextId + 1) := by
  obtain ⟨t, hu⟩ := State.appendFill_eq v words req f (some st)
  obtain ⟨x, m, -, -, -, hissued⟩ := issuedB_eq (s := { appended v words req f (some st) with
    tiles := t, ops := SMap.put v.ops v.nextId (v.opHere v.setB .engine) }) hcur v.nextId v.setB
  rw [hu, hissued]
  exact SMap.get_put_same _ _ _ _

theorem State.liveSlot_slot {s : State} {h : Dword} {x : OSlot} (hx : s.liveSlot h = .ok x) :
    (s.domino s.dominoHere).slot (handleSlot h) = x := by
  obtain ⟨-, -, hx⟩ := except_bind_ok hx
  split at hx
  · rename_i y hy
    obtain ⟨-, -, hx⟩ := except_bind_ok hx
    cases hx
    rw [Domino.slot, SMap.get, hy]
    rfl
  · cases hx

/-- The slot that a fill fills is FILLING, stamped, the fill among those in flight. -/
theorem appendFill_slot {s v : State} {g k : Nat} (hcur : s.cur = .slot g k) (hv : FillFrom s v) (words req : List Dword)
    {f : FillRun} (st : BitVec 16) {h : Dword} {x : OSlot} (hx : s.liveSlot h = .ok x) (hdom : f.dom = s.dominoHere)
    (hslot : f.slot = handleSlot h) :
    ((v.appendFill words req f (some st)).domino s.dominoHere).slot f.slot
      = { x with st := .filling, stamp := st, fills := x.fills ++ [v.nextId + 1] } := by
  rw [← hdom, appendFill_domino (hv.cur.trans hcur)]
  have hdomino : v.domino f.dom = s.domino s.dominoHere := by rw [hdom, State.domino, hv.dominoes]; rfl
  rw [hdomino]
  refine (SMap.get_put_same _ _ _ _).trans ?_
  rw [hslot, State.liveSlot_slot hx]

/-- The KIND of an appended command. -/
theorem kind_flagWord {v : State} {req req' : List Dword} {f : FillRun} {store : Bool} {w0 : Dword} {ws : List Dword}
    {n : Nat} (h : n < 16) : (fillCommand v (w0 :: flagWord req' n :: ws) req f store).kind = n := by
  show (flagWord req' n).toNat / 2 ^ 0 % 2 ^ 4 = n
  have hmask : ((~~~ 0xF : Dword)).toNat % 2 ^ 4 = 0 := by decide
  rw [flagWord, BitVec.toNat_or, BitVec.toNat_and, Nat.pow_zero, Nat.div_one, Nat.or_mod_two_pow, Nat.and_mod_two_pow,
    hmask, Nat.and_zero, Nat.zero_or, BitVec.toNat_ofNat, Nat.mod_eq_of_lt (a := n) (by omega), Nat.mod_eq_of_lt (by omega)]

/-! ### The bytes of `ofillv` -/

/-- A digit added at a place that held zero. -/
theorem digit_add {S c p : Nat} (hS : S / 2 ^ (8 * p) % 256 = 0) (hc : c < 256) (m : Nat) :
    (S + c * 2 ^ (8 * p)) / 2 ^ (8 * m) % 256 = if m = p then c else S / 2 ^ (8 * m) % 256 := by
  have hpos : ∀ j, 0 < 2 ^ (8 * j) := fun j => Nat.two_pow_pos _
  rcases Nat.lt_trichotomy m p with h | rfl | h
  · obtain ⟨j, rfl⟩ := Nat.exists_eq_add_of_lt h
    have hsplit : c * 2 ^ (8 * (m + j + 1)) = 2 ^ (8 * m) * (256 * (c * 2 ^ (8 * j))) := by
      rw [show 8 * (m + j + 1) = 8 * m + (8 + 8 * j) by ring, Nat.pow_add, Nat.pow_add]
      ring
    rw [if_neg (by omega), hsplit, Nat.add_mul_div_left _ _ (hpos m), Nat.add_mul_mod_self_left]
  · rw [if_pos rfl, Nat.add_mul_div_right _ _ (hpos m), Nat.add_mod, hS, Nat.zero_add, Nat.mod_mod, Nat.mod_eq_of_lt hc]
  · obtain ⟨j, rfl⟩ := Nat.exists_eq_add_of_lt h
    have hsplit : (2 : Nat) ^ (8 * (p + j + 1)) = 2 ^ (8 * p) * (256 * 2 ^ (8 * j)) := by
      rw [show 8 * (p + j + 1) = 8 * p + (8 + 8 * j) by ring, Nat.pow_add, Nat.pow_add]
    rw [if_neg (by omega), hsplit, ← Nat.div_div_eq_div_mul, ← Nat.div_div_eq_div_mul, ← Nat.div_div_eq_div_mul,
      ← Nat.div_div_eq_div_mul, Nat.add_mul_div_right _ _ (hpos p)]
    congr 2
    omega

/-- Bytes put at places of their own are found there. -/
theorem digit_sum (c place : Nat → Nat) (hc : ∀ i, c i < 256) : ∀ (n : Nat),
    (∀ i j, i < n → j < n → place i = place j → i = j) →
    let S := (List.range n).foldl (fun y i => y + c i * 2 ^ (8 * place i)) 0
    (∀ i, i < n → S / 2 ^ (8 * place i) % 256 = c i) ∧ ∀ m, (∀ i, i < n → place i ≠ m) → S / 2 ^ (8 * m) % 256 = 0
  | 0, _ => ⟨fun i hi => absurd hi (by omega), fun m _ => by simp⟩
  | n + 1, hinj => by
    obtain ⟨hin, hout⟩ := digit_sum c place hc n fun i j hi hj => hinj i j (by omega) (by omega)
    have hfree : ∀ i, i < n → place i ≠ place n := fun i hi h => by
      have := hinj i n (by omega) (by omega) h
      omega
    have hadd := digit_add (hout (place n) hfree) (hc n)
    simp only [List.range_succ, List.foldl_append, List.foldl_cons, List.foldl_nil]
    refine ⟨fun i hi => ?_, fun m hm => ?_⟩
    · rw [hadd]
      by_cases h : i = n
      · rw [h, if_pos rfl]
      · rw [if_neg (hfree i (by omega)), hin i (by omega)]
    · rw [hadd, if_neg fun h => hm n (by omega) h.symm, hout m fun i hi => hm i (by omega)]

theorem permuteBytes_digit {rows : List Nat} (hinj : ∀ i j, i < 2048 → j < 2048 → destination rows i = destination rows j → i = j)
    (x : Nat) {i : Nat} (hi : i < 2048) :
    permuteBytes rows x / 2 ^ (8 * destination rows i) % 256 = x / 2 ^ (8 * i) % 256 :=
  (digit_sum (fun i => x / 2 ^ (8 * i) % 256) (patternIndex rows) (fun _ => Nat.mod_lt _ (by decide)) 2048 hinj).1 i hi

theorem joinElems_eq_packCodes (w : Nat) (l : List Nat) : joinElems w l = packCodes w l := by
  induction l with
  | nil => rfl
  | cons x l ih => rw [packCodes_cons, ← ih]; rfl

/-- A byte of words laid one after another. -/
theorem joinElems_byte (l : List Nat) (i : Nat) :
    joinElems 32 l / 2 ^ (8 * i) % 256 = l.getD (i / 4) 0 / 2 ^ (8 * (i % 4)) % 256 := by
  have hword := packCodes_digit 32 l (i / 4)
  have hsplit : 8 * i = 32 * (i / 4) + 8 * (i % 4) := by omega
  rw [joinElems_eq_packCodes, hsplit, Nat.pow_add, ← Nat.div_div_eq_div_mul]
  generalize packCodes 32 l / 2 ^ (32 * (i / 4)) = n at *
  generalize l.getD (i / 4) 0 = m at *
  have hr : i % 4 < 4 := Nat.mod_lt _ (by decide)
  generalize i % 4 = r at *
  interval_cases r <;> omega

/-- The words of registers, one register after another. -/
theorem getD_flatMap_words (F : Nat → Nat → Nat) {n k : Nat} (h : k < 64 * n) :
    ((List.range n).flatMap fun r => (List.range 64).map fun l => F r l).getD k 0 = F (k / 64) (k % 64) := by
  induction n with
  | zero => omega
  | succ n ih =>
    have hlen : ((List.range n).flatMap fun r => (List.range 64).map fun l => F r l).length = 64 * n := by
      simp [List.length_flatMap, Nat.mul_comm]
    rw [List.range_succ (n := n), List.flatMap_append]
    by_cases hk : k < 64 * n
    · rw [List.getD_append _ _ _ _ (by omega), ih hk]
    · rw [List.getD_append_right _ _ _ _ (by omega), hlen, List.flatMap_singleton, getD_map_range _ _ (by omega),
        show k / 64 = n by omega, show k % 64 = k - 64 * n by omega]

/-- The number that `ofillv` sends. -/
def ofillvBlock (s : State) (a : BitVec 8) (p : Pattern) : Nat :=
  permuteBytes p.rows (joinElems 32 (((List.range 8).map (a.toNat + ·)).flatMap fun r =>
    (List.range 64).map fun l => (s.grp.regs.lane r l).toNat))

theorem ofillvBlock_byte {s : State} {a : BitVec 8} {p : Pattern}
    (hinj : ∀ i j, i < 2048 → j < 2048 → destination p.rows i = destination p.rows j → i = j) {i : Nat} (hi : i < 2048) :
    ofillvBlock s a p / 2 ^ (8 * destination p.rows i) % 256 = blockByte s.grp.regs a.toNat i := by
  rw [ofillvBlock, permuteBytes_digit hinj _ hi, joinElems_byte, List.flatMap_map,
    getD_flatMap_words (fun r l => (s.grp.regs.lane (a.toNat + r) l).toNat) (by omega), blockByte, Nat.div_div_eq_div_mul]

/-- The fill that `ofillv` appends. -/
def ofillvRun (s : State) (d a b : BitVec 8) (x : OSlot) (p : Pattern) (e : Dword) : FillRun :=
  { dom := s.dominoHere, slot := handleSlot (s.readS d), gen := x.gen, fentry := e,
    block := some (ofillvBlock s a p, (s.readS b).toNat / 16),
    after := (s.domino s.dominoHere).readersAhead (handleSlot (s.readS d)) }

theorem exec_ofillv {s : State} {d a b : BitVec 8} {x : OSlot} {p : Pattern} {e : Dword} {C : MClass} (hlog : Unlogged s)
    (hneed : Ready s [d, b]) (hpip : s.needPip s.setB = .ok ()) (hx : s.liveSlot (s.readS d) = .ok x)
    (hw : (s.readS b).toNat < 2 ^ 11) (ha : a.toNat ≤ 216) (hp : s.pattern ((s.readS b).toNat % 16) = some p)
    (hctx : p.ctx = s.ctxOf s.cur) (hregs : s.needRegs ((List.range 8).map (a.toNat + ·)) = .ok ())
    (hready : s.need [] ((List.range 8).map (a.toNat + ·)) = .ok ())
    (hclean : s.needClean ((List.range 8).map (a.toNat + ·)) (BitVec.allOnes 64) = .ok ())
    (he : s.recEntry x.record = .ok e) (h3 : (fmtOf e).kind ≠ 3) (hC : classOf (fmtOf e) = some C)
    (hbits : C.depth * elemBits (fmtOf e) = 512) (hrows : (s.readS b).toNat / 16 + 32 ≤ recRows x.record)
    (hroom : s.queued s.dominoHere < 32) :
    exec (.ofillv d a b) s = .next (s.appendFill [0, 4, 0, s.readS d, 0, 0, 0, 0] [] (ofillvRun s d a b x p e)
      (some p.sig)) := by
  have hstep := fun chain r => State.hiddenStep_of_unlogged (s := s) hlog chain r
  have hfirst : bits (s.readS b) 10 4 = (s.readS b).toNat / 16 := by
    show (s.readS b).toNat / 2 ^ 4 % 2 ^ 7 = _
    omega
  have htable : bits (s.readS b) 3 0 = (s.readS b).toNat % 16 := by simp [bits]
  have hsmall : (s.readS b).toNat / 2 ^ 11 = 0 := Nat.div_eq_of_lt hw
  have hbytes : rowBytes (fmtOf e) C = 64 := by rw [rowBytes, hbits]
  have hkind : ((fmtOf e).kind != 3) = true := bne_iff_ne.2 h3
  show execOfillv d a b s = _
  simp only [execOfillv, show s.need [d, b] = .ok () from hneed, hpip, hx, hsmall, ha, hfirst, htable, hp, hctx, hregs,
    hready, hclean, he, hkind, hC, hbytes, hrows, hroom, except_ok_bind, beq_self_eq_true, Bool.and_self, decide_true,
    guardRes_true, hstep, counting_ok, finish_ok]
  rfl

theorem bits_2_0 (w : Dword) : bits w 2 0 = w.toNat % 8 := by simp [bits]

section Ostore

variable {d a b : BitVec 8} {s t : State} {q : List Dword} {key : Nat} {T : Tensor} {acc : Nat} {acc2 : Option Nat}

/-- The accumulators that `ostore` names, one or the pair of an fp64 result. -/
def StoreFrom (s : State) (w : Dword) (acc : Nat) (acc2 : Option Nat) : Prop :=
  w.toNat < 16 ∧ (w.getLsbD 3 = true → w.toNat % 2 = 0) ∧ s.liveAcc (w.toNat % 8) = .ok acc
    ∧ if w.getLsbD 3 then ∃ k, acc2 = some k ∧ s.liveAcc (w.toNat % 8 + 1) = .ok k else acc2 = none

/-- The store that `ostore` appends. -/
def ostoreRun (s : State) (acc : Nat) (acc2 : Option Nat) (key : Nat) (T : Tensor) : FillRun :=
  { dom := s.dominoHere, slot := acc, acc2 := acc2, tensor := key, tgen := T.gen, fentry := T.entry,
    entry := sfRecord s, md := modeOf s,
    after := ((s.domino s.dominoHere).queue.filter fun o => o.onAcc (acc :: acc2.toList)).map MatOp.id }

/-- What `ostore` does once its accumulators, its rounding mode and its format have passed. -/
theorem exec_ostore_passed {w : Dword} (hw : w = s.readS a) (hneed : Ready s [d, a, b]) (hpip : s.needPip s.setB = .ok ())
    (hacc : StoreFrom s w acc acc2) (hrm : rmOf (modeOf s) ≠ 5)
    (hsf : if w.getLsbD 3 then sfRecord s = 0x8DE87FE000000000
      else sfRecord s = 0x8C2E0FE000000000 ∨ sfRecord s = 0x983E000000000000)
    (hq : s.fillRequest (s.readS b) = .ok (q, t)) (hT : t.handle (s.readS d) = .ok (key, T)) :
    exec (.ostore d a b) s = finish (counting s.setB
      (if storeStatus T q ≠ 0 then .ok ((t.writeS d (BitVec.ofNat 64 (storeStatus T q))).retire)
       else do
        guardRes (decide (s.queued s.dominoHere < 32)) (.wait (.unit (2 ^ 40 + s.dominoHere)) s)
        t.hiddenStep (fillChain s.dominoHere) (.ok ((t.writeS d 0).appendFill
          [0, flagWord q 5, s.readS d, w, s.readS b, 0, 0, 0] q (ostoreRun s acc acc2 key T) none)))) := by
  obtain ⟨hsmall, heven, hfirst, hsecond⟩ := hacc
  subst hw
  have hnum := bits_2_0 (s.readS a)
  have hdiv : (s.readS a).toNat / 16 = 0 := Nat.div_eq_of_lt hsmall
  show execOstore d a b s = _
  cases hwide : (s.readS a).getLsbD 3 with
  | true =>
    simp only [hwide, if_true] at hsecond hsf
    obtain ⟨k, rfl, hk⟩ := hsecond
    have heven' : (s.readS a).toNat % 8 % 2 = 0 := by
      have := heven hwide
      omega
    have hbit : (sfRecord s).getLsbD 63 = true := hsf ▸ by decide
    have hformat : (sfRecord s == recFp64) = true := hsf ▸ by decide
    simp only [execOstore, show s.need [d, a, b] = .ok () from hneed, hpip, hnum, hdiv, bitAt, hwide, except_ok_bind,
      beq_self_eq_true, Bool.true_and, Bool.not_true, Bool.false_or, heven', guardRes_true, State.needRound_ok hrm, hfirst,
      if_true, hk, Except.map, State.mode_eq, State.fmtHere_mdSF, hbit, hformat, hq, hT]
    rfl
  | false =>
    simp only [hwide, Bool.false_eq_true, if_false] at hsecond hsf
    subst hsecond
    have hbit : (sfRecord s).getLsbD 63 = true := by
      rcases hsf with h | h <;> rw [h] <;> decide
    have hformat : (sfRecord s == recFp32 || sfRecord s == recI32) = true := by
      rcases hsf with h | h <;> rw [h] <;> decide
    simp only [execOstore, show s.need [d, a, b] = .ok () from hneed, hpip, hnum, hdiv, bitAt, hwide, except_ok_bind,
      beq_self_eq_true, Bool.true_and, Bool.not_false, Bool.true_or, guardRes_true, State.needRound_ok hrm, hfirst,
      Bool.false_eq_true, if_false, State.mode_eq, State.fmtHere_mdSF, hbit, hformat, hq, hT]
    rfl

theorem exec_ostore_refused (hneed : Ready s [d, a, b]) (hpip : s.needPip s.setB = .ok ())
    (hacc : StoreFrom s (s.readS a) acc acc2) (hrm : rmOf (modeOf s) ≠ 5)
    (hsf : if (s.readS a).getLsbD 3 then sfRecord s = 0x8DE87FE000000000
      else sfRecord s = 0x8C2E0FE000000000 ∨ sfRecord s = 0x983E000000000000)
    (hq : s.fillRequest (s.readS b) = .ok (q, t)) (hT : t.handle (s.readS d) = .ok (key, T))
    (hst : storeStatus T q ≠ 0) : exec (.ostore d a b) s = puts t d (BitVec.ofNat 64 (storeStatus T q)) := by
  rw [exec_ostore_passed rfl hneed hpip hacc hrm hsf hq hT, if_pos hst]
  rfl

theorem exec_ostore_accepted (hlog : Unlogged s) (hneed : Ready s [d, a, b]) (hpip : s.needPip s.setB = .ok ())
    (hacc : StoreFrom s (s.readS a) acc acc2) (hrm : rmOf (modeOf s) ≠ 5)
    (hsf : if (s.readS a).getLsbD 3 then sfRecord s = 0x8DE87FE000000000
      else sfRecord s = 0x8C2E0FE000000000 ∨ sfRecord s = 0x983E000000000000)
    (hq : s.fillRequest (s.readS b) = .ok (q, t)) (hT : t.handle (s.readS d) = .ok (key, T))
    (hst : storeStatus T q = 0) (hroom : s.queued s.dominoHere < 32) :
    exec (.ostore d a b) s = .next ((t.writeS d 0).appendFill
      [0, flagWord q 5, s.readS d, s.readS a, s.readS b, 0, 0, 0] q (ostoreRun s acc acc2 key T) none) := by
  rw [exec_ostore_passed rfl hneed hpip hacc hrm hsf hq hT, if_neg (not_not.2 hst),
    State.hiddenStep_of_unlogged ((State.fillRequest_looked hq).unlogged hlog), decide_eq_true hroom]
  rfl

theorem exec_ostore_round (hneed : Ready s [d, a, b]) (hpip : s.needPip s.setB = .ok ())
    (hsmall : (s.readS a).toNat < 16) (heven : (s.readS a).getLsbD 3 = true → (s.readS a).toNat % 2 = 0)
    (hrm : rmOf (modeOf s) = 5) : exec (.ostore d a b) s = traps s 1 := by
  have hnum := bits_2_0 (s.readS a)
  have hpair : (!(s.readS a).getLsbD 3 || (s.readS a).toNat % 8 % 2 == 0) = true := by
    cases h : (s.readS a).getLsbD 3
    · rfl
    · have := heven h
      simp
      omega
  show execOstore d a b s = _
  simp only [execOstore, show s.need [d, a, b] = .ok () from hneed, hpip, hnum, Nat.div_eq_of_lt hsmall, bitAt,
    except_ok_bind, beq_self_eq_true, Bool.true_and, hpair, guardRes_true, State.needRound_illegal hrm]
  exact finish_illegal s

end Ostore

theorem fillStatus_bad {T : Tensor} {q : List Dword} (r : Dword) (h : requestBad T q = true) : fillStatus T q r = 1 := by
  rw [fillStatus, if_pos h]

theorem fillStatus_rows {T : Tensor} {q : List Dword} {r : Dword} (h : requestBad T q = false)
    (hr : recRows r < reqFirst q + reqRows q) : fillStatus T q r = 2 := by
  rw [fillStatus, if_neg (by rw [h]; decide), if_pos hr]

theorem storeStatus_rows {T : Tensor} {q : List Dword} (h : requestBad T q = false) (hr : 128 < reqFirst q + reqRows q) :
    storeStatus T q = 2 := by
  rw [storeStatus, if_neg (by rw [h]; decide), if_pos hr]

theorem fillRequests : FillRequests := by
  intro d a b s t g k hcur hlog hready hpip dk room filling
  refine ⟨fun x q key T hx hq hT => ?_, fun x p e C hx hw ha hp hctx hregs hpend hclean he h3 hC hbits hrows hroom => ?_,
    fun acc acc2 q key T => ?_⟩
  · refine ⟨exec_ofill_refused hready hpip hx hq hT, fillStatus_bad x.record, fun hbad hr => fillStatus_rows hbad hr,
      fun hst hroom => ?_⟩
    have hlook := State.fillRequest_looked hq
    have hfrom := FillFrom.of_looked hcur hlook d 0
    refine ⟨_, _, _, ofillRun s a x key T, exec_ofill_accepted hlog hready hpip hx hq hT hst hroom,
      appendFill_appends hcur hfrom _ q _ _ rfl rfl, rfl, kind_flagWord (by decide), rfl, rfl, rfl, rfl, fun hd => ?_,
      fun r hr => ?_, appendFill_slot hcur hfrom _ q _ hx rfl rfl⟩
    · rw [appendFill_readS (hfrom.cur.trans hcur)]
      exact State.readS_writeS_zero t hd
    · rw [appendFill_readS (hfrom.cur.trans hcur), State.readS_writeS_other t 0 hr]
      obtain ⟨c, f, r', rfl⟩ := hlook
      rfl
  · have hready' : Ready s [d, b] := need_of_ready hready (by simp)
    refine ⟨_, _, _, ofillvRun s d a b x p e, ofillvBlock s a p, exec_ofillv hlog hready' hpip hx hw ha hp hctx hregs hpend
      hclean he h3 hC hbits hrows hroom, appendFill_appends hcur (FillFrom.refl s) _ [] _ _ rfl rfl, ?_, rfl, rfl,
      appendFill_slot hcur (FillFrom.refl s) _ [] _ hx rfl rfl, fun r => appendFill_readS hcur _ _ _ _ r,
      fun _ hinj i hi => ?_⟩
    · show bits 4 3 0 = 4
      decide
    · rw [ofillvBlock_byte hinj hi, State.grp, hcur]
      rfl
  · intro w wide hsmall heven hacc hacc2
    have hstore : StoreFrom s w acc acc2 := ⟨hsmall, heven, hacc, hacc2⟩
    refine ⟨exec_ostore_round hready hpip hsmall heven, fun hrm hsf hq hT => ?_⟩
    refine ⟨exec_ostore_refused hready hpip hstore hrm hsf hq hT, fun hbad hr => storeStatus_rows hbad hr, fun hst hroom => ?_⟩
    have hfrom := FillFrom.of_looked hcur (State.fillRequest_looked hq) d 0
    refine ⟨_, _, _, ostoreRun s acc acc2 key T, exec_ostore_accepted hlog hready hpip hstore hrm hsf hq hT hst hroom,
      appendFill_appends hcur hfrom _ q _ _ rfl rfl, rfl, kind_flagWord (by decide), rfl, rfl, rfl, rfl, rfl, fun hd => ?_⟩
    rw [appendFill_readS (hfrom.cur.trans hcur)]
    exact State.readS_writeS_zero t hd

/-- Settles O37: a request read and accepted is one command appended to the hidden chain; the rows of a fill land in its slot
and nowhere else. -/
theorem fills : Obligations.Fills := ⟨fillRequests, fillCompletion⟩

end Sys2Proof.Proofs

/-! The distributor: examinations that place or pass, and the release of groups: O47. -/

namespace Sys2Proof.Proofs

open Host (Outcome)
open Sys2Proof Sys2Proof.Machine Sys2Proof.Stated

/-! ## Sparse data -/

theorem SMap.mem_of_find {α : Type} {m : SMap α} {k : Nat} {v : α} (h : SMap.find m k = some v) : (k, v) ∈ m := by
  induction m with
  | nil => cases h
  | cons e m ih =>
    obtain ⟨j, w⟩ := e
    rw [SMap.find] at h
    split at h
    · rename_i hj
      cases h
      exact hj ▸ List.mem_cons_self
    · exact List.mem_cons_of_mem _ (ih h)

/-- Entries of a changed map are the new one or old ones. -/
theorem SMap.mem_put {α : Type} {m : SMap α} {k : Nat} {v : α} {e : Nat × α} (h : e ∈ SMap.put m k v) :
    e = (k, v) ∨ e ∈ m := by
  induction m with
  | nil => exact .inl (List.mem_singleton.1 h)
  | cons a m ih =>
    obtain ⟨j, w⟩ := a
    rw [SMap.put] at h
    split at h
    · exact (List.mem_cons.1 h).imp_right id
    · split at h
      · exact (List.mem_cons.1 h).imp_right (List.mem_cons_of_mem _)
      · rcases List.mem_cons.1 h with h | h
        · exact .inr (h ▸ List.mem_cons_self)
        · exact (ih h).imp_right (List.mem_cons_of_mem _)

/-- The first n numbers from `base` on are given the values of f. -/
def putRange {α : Type} (m : SMap α) (base n : Nat) (f : Nat → α) : SMap α :=
  (List.range n).foldl (fun m i => SMap.put m (base + i) (f i)) m

theorem putRange_succ {α : Type} (m : SMap α) (base n : Nat) (f : Nat → α) :
    putRange m base (n + 1) f = SMap.put (putRange m base n f) (base + n) (f n) := by
  rw [putRange, List.range_succ, List.foldl_append]
  rfl

theorem find_putRange_same {α : Type} (m : SMap α) (base : Nat) {n i : Nat} (f : Nat → α) (h : i < n) :
    SMap.find (putRange m base n f) (base + i) = some (f i) := by
  induction n with
  | zero => omega
  | succ n ih =>
    rw [putRange_succ]
    by_cases hi : i = n
    · rw [hi, SMap.find_put_same]
    · rw [SMap.find_put_other _ _ (by omega), ih (by omega)]

theorem find_putRange_below {α : Type} (m : SMap α) {base j : Nat} (n : Nat) (f : Nat → α) (h : j < base) :
    SMap.find (putRange m base n f) j = SMap.find m j := by
  induction n with
  | zero => rfl
  | succ n ih => rw [putRange_succ, SMap.find_put_other _ _ (by omega), ih]

theorem mem_putRange {α : Type} {m : SMap α} {base n : Nat} {f : Nat → α} {e : Nat × α} (h : e ∈ putRange m base n f) :
    (∃ i, i < n ∧ e = (base + i, f i)) ∨ e ∈ m := by
  induction n with
  | zero => exact .inr h
  | succ n ih =>
    rw [putRange_succ] at h
    rcases SMap.mem_put h with h | h
    · exact .inl ⟨n, by omega, h⟩
    · rcases ih h with ⟨i, hi, he⟩ | h
      · exact .inl ⟨i, by omega, he⟩
      · exact .inr h

/-! ## A level with nothing to place -/

/-- Nothing is saved, no formed group waits, no gang is partly reserved: all that an examination of a package can do is
place entries of its streams. -/
def Settled (pkg : Nat) (s : State) : Prop :=
  s.gangHeld pkg = none ∧ (∀ f ∈ s.formed, f.2.waits = false) ∧ ∀ h ∈ s.groups, h.2.life ≠ .saved

theorem Settled.gangHeld {pkg : Nat} {s : State} (h : Settled pkg s) : s.gangHeld pkg = none := h.1

/-- A fold whose function leaves a state alone, for every item of the list, leaves it. -/
theorem foldl_fixed {α : Type} {f : State → α → State} {l : List α} {s : State} (h : ∀ x ∈ l, f s x = s) :
    l.foldl f s = s := by
  induction l with
  | nil => rfl
  | cons x l ih =>
    rw [List.foldl_cons, h x List.mem_cons_self]
    exact ih fun y hy => h y (List.mem_cons_of_mem _ hy)

theorem State.group_of_find {s : State} {g : Nat} {x : Group} (h : SMap.find s.groups g = some x) : s.group g = x := by
  rw [State.group, SMap.get, h]
  rfl

theorem State.group_not_saved {s : State} (h : ∀ h ∈ s.groups, h.2.life ≠ .saved) (g : Nat) : (s.group g).life ≠ .saved := by
  rw [State.group, SMap.get]
  cases hf : SMap.find s.groups g with
  | none => exact Life.noConfusion
  | some x => exact h _ (SMap.mem_of_find hf)

theorem State.relaunchLevel_of_settled {s : State} {pkg : Nat} (h : Settled pkg s) (level pref : Nat) :
    s.relaunchLevel pkg level pref = s := by
  obtain ⟨-, -, hgroups⟩ := h
  refine foldl_fixed fun e _ => ?_
  have hlife : ((s.group e.1).life == Life.saved) = false := beq_false_of_ne (State.group_not_saved hgroups e.1)
  have hno : s.relaunchable e.1 = false := by
    simp only [State.relaunchable, hlife, Bool.false_and]
  simp only [hno, Bool.and_false, Bool.false_and, Bool.false_eq_true, if_false]

theorem State.admitFormed_of_settled {s : State} {pkg : Nat} (h : Settled pkg s) : s.admitFormed pkg = s := by
  obtain ⟨-, hformed, -⟩ := h
  refine foldl_fixed fun e he => ?_
  simp only [hformed e he, Bool.false_and, Bool.false_eq_true, if_false]

theorem State.settleGang_of_settled {s : State} {pkg : Nat} (h : Settled pkg s) (level pref : Nat) :
    s.settleGang pkg level pref = s := by
  obtain ⟨hgang, -⟩ := h
  simp only [State.settleGang, State.heldLevel, hgang, Option.map_none]

theorem State.placeLevel_succ {s : State} {pkg : Nat} (h : Settled pkg s) (level pref n : Nat) :
    s.placeLevel pkg level pref (n + 1) =
      let (a, s1) := s.serveLevel pkg level pref
      if a then s1.placeLevel pkg level pref n else s1 := by
  rw [State.placeLevel, State.admitFormed_of_settled h, State.settleGang_of_settled h]

/-- No stream of the level is served. -/
theorem State.serveLevel_nil {s : State} {pkg level : Nat} (hks : s.rotation.filter (s.served pkg level) = [])
    (pref : Nat) : s.serveLevel pkg level pref = (false, s) := by
  simp [State.serveLevel, hks, State.tryPersist, State.passes, State.rotate]

theorem State.placeLevel_nil {s : State} {pkg level : Nat} (h : Settled pkg s)
    (hks : s.rotation.filter (s.served pkg level) = []) (pref n : Nat) : s.placeLevel pkg level pref n = s := by
  cases n with
  | zero => rfl
  | succ n =>
    rw [State.placeLevel_succ h, State.serveLevel_nil hks]
    rfl

theorem State.examineLevel_nil {s : State} {pkg level : Nat} (h : Settled pkg s)
    (hks : s.rotation.filter (s.served pkg level) = []) (pref : Nat) : s.examineLevel pkg level pref = s := by
  rw [State.examineLevel, State.relaunchLevel_of_settled h, State.placeLevel_nil h hks]

/-- With no stream served at any level, an examination does nothing. -/
theorem exec_examination_quiet {s : State} {pkg : Nat} (h : Settled pkg s)
    (hks : ∀ level, level < 4 → s.rotation.filter (s.served pkg level) = []) (pref : Nat) :
    exec (.distributorExamination pkg pref) s = .next s := by
  show execDistributorExamination pkg pref s = _
  unfold execDistributorExamination
  split
  · rw [foldl_fixed]
    intro level hl
    refine State.examineLevel_nil h (hks level ?_) pref
    simp only [List.mem_cons, List.not_mem_nil, or_false] at hl
    omega
  · rfl

/-! ## A level with one stream -/

/-- The one stream of its level, with an entry whose turn has come: `s1` is the state its attempt starts from. -/
theorem State.rotate_one {s : State} {k pref : Nat} {e : Entry} {es : List Entry} {x : Stream}
    (hx : x = if (s.stream k).turn then s.stream k else { (s.stream k).turns 1 with turn := true })
    (he : x.entries = e :: es) (hd : 0 < x.deficit) :
    s.rotate pref [k] =
      match ({ s with streams := SMap.put s.streams k x } : State).tryEntry k e pref with
      | .placed s1 => (true, if (s1.stream k).entries.isEmpty then s1.leaveRotation k else s1)
      | .blocked s1 => (false, s1.turnOver k) := by
  have hentries : (s.stream k).entries = e :: es := by
    rw [← he, hx, Stream.turns]
    split <;> rfl
  rw [State.rotate]
  simp only [hentries]
  rw [← hx, if_neg (by omega)]
  rfl

/-- A stream whose head was tried without success has D > 0 still: it lacks room, no turns. -/
theorem Stream.shortBy_of_pos {x : Stream} (h : 0 < x.deficit) : x.shortBy = none := by
  simp [Stream.shortBy, h]

theorem State.stream_turnOver (s : State) (k : Nat) : (s.turnOver k).stream k = { s.stream k with turn := false } := by
  rw [State.stream, State.turnOver]
  exact SMap.get_put_same _ _ _ _

theorem State.serveLevel_one {s : State} {pkg level k pref : Nat} (hks : s.rotation.filter (s.served pkg level) = [k])
    (hp : s.persistEntry k = none) (hd : (s.rotate pref [k]).1 = false → 0 < ((s.rotate pref [k]).2.stream k).deficit) :
    s.serveLevel pkg level pref = s.rotate pref [k] := by
  have hpasses : s.passes pkg level pref 2 = s.rotate pref [k] := by
    rw [State.passes]
    dsimp only
    rw [hks]
    generalize s.rotate pref [k] = r at hd
    obtain ⟨a, t⟩ := r
    cases a
    · simp only [List.filterMap_cons, Stream.shortBy_of_pos (hd rfl), List.filterMap_nil]
      rfl
    · rfl
  simp only [State.serveLevel, hks, State.tryPersist, hp]
  exact hpasses

/-! ## An examination of a package with one stream -/

/-- The one stream served in a package, at its own level. -/
def OneStream (s : State) (pkg k : Nat) : Prop :=
  ∀ level, level < 4 → s.rotation.filter (s.served pkg level) = if level = streamPrio k then [k] else []

theorem streamPrio_lt (k : Nat) : streamPrio k < 4 := Nat.mod_lt _ (by decide)

theorem OneStream.own_level {s : State} {pkg k : Nat} (h : OneStream s pkg k) :
    s.rotation.filter (s.served pkg (streamPrio k)) = [k] := (h _ (streamPrio_lt k)).trans (if_pos rfl)

theorem State.served_congr {s t : State} (h : t.ctxs = s.ctxs) (pkg level : Nat) : t.served pkg level = s.served pkg level := by
  funext j
  simp only [State.served, State.ctx, h]

/-- No other level serves the stream, wherever it stands in the rotation. -/
theorem State.served_of_other_level (s : State) (pkg : Nat) {level k : Nat} (h : level ≠ streamPrio k) :
    s.served pkg level k = false := by
  simp only [State.served, beq_false_of_ne (Ne.symm h), Bool.and_false, Bool.false_and]

/-- A fold over levels of which one changes the state, and the others leave alone what was before and what is after. -/
theorem foldl_one {f : State → Nat → State} {s u : State} {level : Nat} (hf : f s level = u) : ∀ {l : List Nat}, l.Nodup →
    level ∈ l → (∀ x ∈ l, x ≠ level → f s x = s ∧ f u x = u) → l.foldl f s = u
  | x :: l, hn, hmem, hother => by
    obtain ⟨hx, hl⟩ := List.nodup_cons.1 hn
    rw [List.foldl_cons]
    by_cases h : x = level
    · subst h
      rw [hf]
      exact foldl_fixed fun y hy => (hother y (List.mem_cons_of_mem _ hy) fun h => hx (h ▸ hy)).2
    · rw [(hother x List.mem_cons_self h).1]
      exact foldl_one hf hl ((List.mem_cons.1 hmem).resolve_left (Ne.symm h))
        fun y hy => hother y (List.mem_cons_of_mem _ hy)

/-- What the stream's level comes to is what the examination comes to. -/
theorem exec_examination_one {s u : State} {pkg k pref : Nat} {b : Bool} (hon : (s.pkg pkg).on = true) (hs : Settled pkg s)
    (hone : OneStream s pkg k) (hserve : s.serveLevel pkg (streamPrio k) pref = (b, u)) (hu : Settled pkg u)
    (hctx : u.ctxs = s.ctxs) (hrot : u.rotation = s.rotation.erase k ++ if b then [] else [k]) :
    exec (.distributorExamination pkg pref) s = .next u := by
  have hother : ∀ level, level < 4 → level ≠ streamPrio k → u.rotation.filter (u.served pkg level) = [] := fun level hl hne => by
    rw [hrot, State.served_congr hctx, List.filter_append, ← List.erase_filter, hone level hl, if_neg hne]
    cases b
    · simp [State.served_of_other_level s pkg hne]
    · rfl
  have hbusy : s.examineLevel pkg (streamPrio k) pref = u := by
    rw [State.examineLevel, State.relaunchLevel_of_settled hs, show 704 * 64 = 45055 + 1 from rfl, State.placeLevel_succ hs,
      hserve]
    cases b
    · rfl
    · refine State.placeLevel_nil hu ?_ pref 45055
      rw [hrot, State.served_congr hctx, List.filter_append, ← List.erase_filter, hone.own_level]
      simp
  show execDistributorExamination pkg pref s = _
  unfold execDistributorExamination
  rw [if_pos hon, foldl_one hbusy (by decide)]
  · have := streamPrio_lt k
    simp only [List.mem_cons, List.not_mem_nil, or_false]
    omega
  · intro level hl hne
    simp only [List.mem_cons, List.not_mem_nil, or_false] at hl
    have hlt : level < 4 := by omega
    exact ⟨State.examineLevel_nil hs (by rw [hone level hlt, if_neg hne]) pref,
      State.examineLevel_nil hu (hother level hlt hne) pref⟩

/-! ## Attempts -/

/-- The stream in its turn. -/
def begun (x : Stream) : Stream := if x.turn then x else { x.turns 1 with turn := true }

theorem begun_entries (x : Stream) : (begun x).entries = x.entries := by
  unfold begun
  split <;> rfl

/-- With a turn a quantum set meanwhile comes into force (R147, R387). -/
theorem begun_eq (x : Stream) :
    let y : Stream := if x.turn then x
      else { x with quantum := x.due, next := none, deficit := x.deficit + 64 * (x.due : Int) }
    (begun x).deficit = y.deficit ∧ { begun x with turn := false } = { y with turn := false } := by
  unfold begun
  split
  · exact ⟨rfl, rfl⟩
  · simp [Stream.turns]

/-- An entry of the one stream that does not fit: the stream's turn passes. -/
theorem exec_examination_blocked {s : State} {pkg k pref : Nat} {e : Entry} (hon : (s.pkg pkg).on = true)
    (hs : Settled pkg s) (hone : OneStream s pkg k) (hp : s.persistEntry k = none) (he : (s.stream k).entries = [e])
    (hd : 0 < (begun (s.stream k)).deficit)
    (htry : ({ s with streams := SMap.put s.streams k (begun (s.stream k)) } : State).tryEntry k e pref
      = .blocked { s with streams := SMap.put s.streams k (begun (s.stream k)) }) :
    exec (.distributorExamination pkg pref) s
      = .next (({ s with streams := SMap.put s.streams k (begun (s.stream k)) } : State).turnOver k) := by
  have hrotate := State.rotate_one (s := s) (k := k) (pref := pref) rfl ((begun_entries _).trans he) hd
  rw [show (if (s.stream k).turn then s.stream k else { (s.stream k).turns 1 with turn := true }) = begun (s.stream k)
    from rfl, htry] at hrotate
  dsimp only at hrotate
  have hserve := State.serveLevel_one hone.own_level hp fun _ => by
    rw [hrotate, State.stream_turnOver]
    show 0 < (SMap.get (SMap.put s.streams k (begun (s.stream k))) k {}).deficit
    rw [SMap.get_put_same]
    exact hd
  rw [hrotate] at hserve
  exact exec_examination_one hon hs hone hserve hs rfl rfl

/-- An entry of the one stream that is placed, the last of it: the stream leaves the rotation. -/
theorem exec_examination_placed {s u : State} {pkg k pref : Nat} {e : Entry} (hon : (s.pkg pkg).on = true)
    (hs : Settled pkg s) (hone : OneStream s pkg k) (hp : s.persistEntry k = none) (he : (s.stream k).entries = [e])
    (hd : 0 < (begun (s.stream k)).deficit)
    (htry : ({ s with streams := SMap.put s.streams k (begun (s.stream k)) } : State).tryEntry k e pref = .placed u)
    (hu : Settled pkg u) (hctx : u.ctxs = s.ctxs) (hrot : u.rotation = s.rotation) (hempty : (u.stream k).entries = []) :
    exec (.distributorExamination pkg pref) s = .next (u.leaveRotation k) := by
  have hrotate := State.rotate_one (s := s) (k := k) (pref := pref) rfl ((begun_entries _).trans he) hd
  rw [show (if (s.stream k).turn then s.stream k else { (s.stream k).turns 1 with turn := true }) = begun (s.stream k)
    from rfl, htry] at hrotate
  simp only [hempty, List.isEmpty_nil, if_true] at hrotate
  have hserve := State.serveLevel_one hone.own_level hp fun h => by
    rw [hrotate] at h
    cases h
  rw [hrotate] at hserve
  refine exec_examination_one hon hs hone hserve hu hctx ?_
  rw [if_pos rfl, List.append_nil, ← hrot]
  rfl

/-! ## Workgroups placed -/

theorem setGroup_foldl (s : State) (l : List (Nat × Nat)) (f : Nat → Group) :
    l.foldl (fun s e => s.setGroup e.1 (f e.2)) s
      = { s with groups := l.foldl (fun m e => SMap.put m e.1 (f e.2)) s.groups } := by
  induction l generalizing s with
  | nil => rfl
  | cons e l ih => exact ih _

/-- Units are tagged in the table of units, and what the race detector holds of them is forgotten. -/
theorem State.tagUnits_frame (s : State) (pkg die core base n : Nat) (t : UnitTag) :
    ∃ x r, s.tagUnits pkg die core base n t = { s with units := x, race := r } := by
  unfold State.tagUnits
  split
  · exact ⟨s.units, s.race, rfl⟩
  · exact ⟨_, _, rfl⟩

theorem foldl_zipIdx_numbers {α : Type} (m : SMap α) (base n : Nat) (f : Nat → α) :
    ((List.range n).map (base + ·)).zipIdx.foldl (fun m e => SMap.put m e.1 (f e.2)) m = putRange m base n f := by
  have hzip : ((List.range n).map (base + ·)).zipIdx = (List.range n).map fun i => (base + i, i) := by
    refine List.ext_getElem (by simp) fun i _ _ => ?_
    simp
  rw [hzip, List.foldl_map]
  rfl

/-- The state once a workgroup W of n groups has been placed: it takes the next number, its groups the numbers after it;
its units, its slots of a domino and the race detector's record of its region change. -/
def placedState (s : State) (W : Workgroup) (n : Nat) (f : Nat → Group) (units : SMap UnitTag) (race : Race)
    (dominoes : SMap Domino) : State :=
  { s with nextId := s.nextId + 1 + n, wgs := SMap.put s.wgs s.nextId W, units := units, race := race,
           dominoes := dominoes, groups := putRange s.groups (s.nextId + 1) n f }

theorem State.placeWg_eq (s : State) (pkg ctx : Nat) (n : Need) (p : Plan) (w : Workgroup) (race : Bool)
    (mk : Nat → Nat → Group) :
    ∃ W units r dominoes, W.groups = (List.range n.groups).map (s.nextId + 1 + ·) ∧
      s.placeWg pkg ctx n p w race mk = (s.nextId, placedState s W n.groups (mk s.nextId) units r dominoes) := by
  let W : Workgroup := { w with pkg := pkg, die := p.die, core := p.core, ctx := ctx,
                                groups := (List.range n.groups).map (s.nextId + 1 + ·), base := p.base, bytes := n.bytes,
                                oslots := p.oslots, aslots := p.aslots, race := race }
  obtain ⟨x, r, htag⟩ := State.tagUnits_frame
    ({ s with nextId := s.nextId + 1 + n.groups, wgs := SMap.put s.wgs s.nextId W } : State) pkg p.die p.core p.base
    (unitsIn n.bytes) { ctx := ctx, race := race }
  unfold State.placeWg
  simp only [State.fresh]
  rw [show (State.setWg _ s.nextId _) = ({ s with nextId := s.nextId + 1 + n.groups, wgs := SMap.put s.wgs s.nextId W } : State)
    from rfl, htag, setGroup_foldl, foldl_zipIdx_numbers]
  split
  · exact ⟨W, x, r, s.dominoes, rfl, rfl⟩
  · exact ⟨W, x, r, _, rfl, rfl⟩

theorem State.learnAll_frame (s : State) (ws : List Who) (c : SMap Nat) : ∃ r, s.learnAll ws c = { s with race := r } := by
  unfold State.learnAll
  split <;> exact ⟨_, rfl⟩

/-- What was settled stays so as groups that are not saved come to stand, and launches with nothing reserved change. -/
theorem Settled.of_placed {s u : State} {pkg base n : Nat} {f : Nat → Group} (h : Settled pkg s)
    (hgang : u.gangHeld pkg = s.gangHeld pkg) (hformed : u.formed = s.formed)
    (hgroups : u.groups = putRange s.groups base n f) (hf : ∀ i, (f i).life ≠ .saved) : Settled pkg u := by
  obtain ⟨h1, h2, h3⟩ := h
  refine ⟨hgang.trans h1, hformed ▸ h2, fun e he => ?_⟩
  rw [hgroups] at he
  rcases mem_putRange he with ⟨i, -, rfl⟩ | he
  · exact hf i
  · exact h3 e he

/-- Of a package with no gang partly reserved, entries see what stands. -/
theorem State.shadow_of_none {s : State} {pkg : Nat} (h : s.gangHeld pkg = none) : s.shadow pkg = s := by
  rw [State.shadow, h]

theorem State.stream_leaveRotation_entries (s : State) (k : Nat) :
    ((s.leaveRotation k).stream k).entries = (s.stream k).entries := by
  rw [State.stream, State.leaveRotation]
  dsimp only
  rw [SMap.get_put_same]

/-- A stream whose only entry is taken has none. -/
theorem State.takeEntry_entries {s : State} {k : Nat} {e : Entry} (h : (s.stream k).entries = [e]) :
    ((s.takeEntry k e).stream k).entries = [] := by
  rw [State.stream, State.takeEntry]
  dsimp only
  rw [SMap.get_put_same]
  simp [h]

/-! ## Continuation records -/

/-- What a continuation record needs. -/
def contPlan (s : State) (pkg k pref : Nat) : Option Plan :=
  pickPlan (s.coresOf pkg (List.range 8))
    (fun d c => s.planOn pkg d c { groups := 1, bytes := 1024, level := streamPrio k }) pref

/-- The group a continuation record starts as (R126). -/
def contGroup (s : State) (pkg k : Nat) (p : Plan) (code frame join : Dword) (wg i : Nat) : Group :=
  freshGroup pkg (streamCtx k) wg p i p.base code (BitVec.allOnes 64) [(1, frame), (2, join)] s.cycle

theorem State.tryCont_blocked {s : State} {pkg k pref : Nat} (ctx : Nat) (e : Entry) (code frame join : Dword)
    (know : SMap Nat) (h : s.gangHeld pkg = none) (hp : contPlan s pkg k pref = none) :
    s.tryCont k pkg ctx e code frame join know pref = .blocked s := by
  unfold State.tryCont
  rw [State.shadow_of_none h]
  dsimp only
  rw [show pickPlan _ (fun d c => s.planOn pkg d c { contNeed with level := streamPrio k }) pref = none from hp]

/-- A continuation record placed: one group, all else as it was but the tables it enters. -/
theorem State.tryCont_placed {s : State} {pkg k pref : Nat} {p : Plan} (e : Entry) (code frame join : Dword)
    (know : SMap Nat) (h : s.gangHeld pkg = none) (hp : contPlan s pkg k pref = some p) :
    ∃ W units r dominoes, s.tryCont k pkg (streamCtx k) e code frame join know pref = .placed
      ((placedState s W 1 (contGroup s pkg k p code frame join s.nextId) units r dominoes).takeEntry k e) := by
  obtain ⟨W, units, r, dominoes, -, hplace⟩ := State.placeWg_eq s pkg (streamCtx k) contNeed p { stream := k } false
    (contGroup s pkg k p code frame join)
  obtain ⟨r', hlearn⟩ := foldl_race (f := fun u g => u.learnAll (u.groupWhos g) know)
    (fun u g => State.learnAll_frame u _ know) W.groups
    (placedState s W 1 (contGroup s pkg k p code frame join s.nextId) units r dominoes)
  refine ⟨W, units, r', dominoes, ?_⟩
  unfold State.tryCont
  rw [State.shadow_of_none h]
  dsimp only
  rw [show pickPlan _ (fun d c => s.planOn pkg d c { contNeed with level := streamPrio k }) pref = some p from hp]
  dsimp only
  rw [show (fun wg i => freshGroup pkg (streamCtx k) wg p i p.base code (BitVec.allOnes 64) [(1, frame), (2, join)]
    s.cycle) = contGroup s pkg k p code frame join from rfl, hplace]
  dsimp only
  rw [show (State.wg (placedState s W contNeed.groups _ units r dominoes) s.nextId) = W from SMap.get_put_same _ _ _ _]
  exact congrArg (fun u => Attempt.placed (State.takeEntry u k e)) hlearn

/-- What the obligation says of a continuation record's group. -/
theorem contGroup_starts (s : State) (pkg k : Nat) (p : Plan) (code frame join : Dword) (wg : Nat) :
    let G := contGroup s pkg k p code frame join wg 0
    G.life = .placed ∧ G.pkg = pkg ∧ G.die = p.die ∧ G.core = p.core ∧ G.part = 0 ∧ G.hart.ctx = streamCtx k
      ∧ G.slot0.st = .run ∧ G.slot0.pc = code &&& ~~~ 3 ∧ G.slot0.own = BitVec.allOnes 64
      ∧ G.slot0.mask = BitVec.allOnes 64 ∧ SMap.get G.hart.sregs 1 0 = frame ∧ SMap.get G.hart.sregs 2 0 = join := by
  refine ⟨rfl, rfl, rfl, rfl, rfl, rfl, rfl, rfl, rfl, rfl, ?_, ?_⟩ <;>
    simp [contGroup, freshGroup, SMap.get, SMap.find, SMap.put]

/-- A continuation record that is the one stream's last entry. -/
theorem exec_examination_cont {s : State} {pkg k pref : Nat} {code frame join : Dword} {know : SMap Nat}
    (hon : (s.pkg pkg).on = true) (hs : Settled pkg s) (hone : OneStream s pkg k) (hk : streamPkg k = pkg)
    (he : (s.stream k).entries = [.cont code frame join know]) (hd : 0 < (begun (s.stream k)).deficit) :
    (∀ p, contPlan s pkg k pref = some p → ∃ W units r dominoes streams,
      exec (.distributorExamination pkg pref) s = .next { placedState s W 1
        (contGroup s pkg k p code frame join s.nextId) units r dominoes with
        streams := streams, rotation := s.rotation.erase k }
      ∧ (SMap.get streams k {}).entries = [])
    ∧ (contPlan s pkg k pref = none → exec (.distributorExamination pkg pref) s
        = .next (({ s with streams := SMap.put s.streams k (begun (s.stream k)) } : State).turnOver k)) := by
  have hpersist : s.persistEntry k = none := by
    rw [State.persistEntry, he]
    rfl
  have hgang := hs.gangHeld
  subst hk
  constructor
  · intro p hp
    obtain ⟨W, units, r, dominoes, htry⟩ := State.tryCont_placed
      (s := { s with streams := SMap.put s.streams k (begun (s.stream k)) }) (.cont code frame join know) code frame join
      know hgang hp
    refine ⟨W, units, r, dominoes, _, (exec_examination_placed hon hs hone hpersist he hd htry ?_ rfl rfl ?_).trans rfl, ?_⟩
    · exact hs.of_placed rfl rfl rfl fun i => Life.noConfusion
    · exact State.takeEntry_entries ((congrArg Stream.entries (SMap.get_put_same _ _ _ _)).trans
        ((begun_entries _).trans he))
    · refine (State.stream_leaveRotation_entries _ k).trans ?_
      exact State.takeEntry_entries ((congrArg Stream.entries (SMap.get_put_same _ _ _ _)).trans
        ((begun_entries _).trans he))
  · intro hp
    have htry := State.tryCont_blocked (s := { s with streams := SMap.put s.streams k (begun (s.stream k)) })
      (streamCtx k) (.cont code frame join know) code frame join know hgang hp
    exact exec_examination_blocked hon hs hone hpersist he hd htry

/-! ## Launches -/

theorem State.zeroBars_frame (s : State) (key : Nat) (org : BitVec 16) (n : Nat) :
    ∃ m g a, s.zeroBars key org n = { s with mem := m, grans := g, armers := a } := by
  unfold State.zeroBars
  induction n with
  | zero => exact ⟨s.mem, s.grans, s.armers, rfl⟩
  | succ n ih =>
    obtain ⟨m, g, a, h⟩ := ih
    rw [List.range_succ, List.foldl_append, h]
    simp only [List.foldl_cons, List.foldl_nil, State.putBytes]
    exact ⟨_, _, _, rfl⟩

/-- Groups learn what a launch carries: in the race detector alone. -/
theorem State.learnAll_groups_frame (s : State) (l : List Nat) (c : SMap Nat) :
    ∃ r, l.foldl (fun u g => u.learnAll (u.groupWhos g) c) s = { s with race := r } :=
  foldl_race (fun u _ => State.learnAll_frame u _ c) l s

/-- The workgroup of a launch before it stands on a core. -/
def launchWg (l : Launch) (id stream n : Nat) : Workgroup :=
  { launch := some id, stream := stream, rank := l.rankOf n,
    left_ := 2 * l.budget - (l.need id).groups * groupCharge l.initg, bars := 32 * l.bars }

/-- The workgroup of a launch placed: memory changes where its barriers lie. -/
theorem State.placeLaunchWg_eq (s : State) (id stream n : Nat) (p : Plan) :
    ∃ W units r dominoes m g a, W.groups = (List.range ((s.launch id).extent 1)).map (s.nextId + 1 + ·) ∧
      (s.placeLaunchWg id stream n p).2 =
        { placedState s W ((s.launch id).extent 1) ((s.launch id).groupAt n p s.cycle s.nextId) units r dominoes with
          mem := m, grans := g, armers := a } := by
  obtain ⟨W, units, r, dominoes, hW, hplace⟩ := State.placeWg_eq s (s.launch id).pkg (s.launch id).ctx
    ((s.launch id).need id) p (launchWg (s.launch id) id stream n) (s.launch id).racechk
    ((s.launch id).groupAt n p s.cycle)
  unfold launchWg at hplace
  unfold State.placeLaunchWg
  dsimp only
  rw [hplace]
  dsimp only
  split
  · obtain ⟨r', hlearn⟩ := State.learnAll_groups_frame (placedState s W ((s.launch id).need id).groups
      ((s.launch id).groupAt n p s.cycle s.nextId) units r dominoes) (State.wg _ s.nextId).groups (s.launch id).know
    exact ⟨W, units, r', dominoes, s.mem, s.grans, s.armers, hW, hlearn⟩
  · rename_i key _
    obtain ⟨m, g, a, hzero⟩ := State.zeroBars_frame (placedState s W ((s.launch id).need id).groups
      ((s.launch id).groupAt n p s.cycle s.nextId) units r dominoes) key (originOf 1 p.die p.core)
      (min (s.launch id).bars ((s.launch id).slice / 32))
    rw [hzero]
    obtain ⟨r', hlearn⟩ := State.learnAll_groups_frame { placedState s W ((s.launch id).need id).groups
      ((s.launch id).groupAt n p s.cycle s.nextId) units r dominoes with mem := m, grans := g, armers := a }
      (State.wg _ s.nextId).groups (s.launch id).know
    exact ⟨W, units, r', dominoes, m, g, a, hW, hlearn⟩

/-- Where the next workgroup of a launch goes. -/
def launchPlan (s : State) (pkg id pref : Nat) : Option Plan :=
  pickPlan (s.coresOf pkg (List.range 8)) (fun d c => s.planOn pkg d c ((s.launch id).need id)) pref

theorem State.tryLaunch_blocked {s : State} {k id pref : Nat} (hpkg : (s.launch id).pkg = streamPkg k)
    (hgang : (s.launch id).gang = 1) (h : s.gangHeld (streamPkg k) = none)
    (hp : launchPlan s (streamPkg k) id pref = none) : s.tryEntry k (.launch id) pref = .blocked s := by
  rw [launchPlan, ← hpkg] at hp
  simp only [State.tryEntry, hgang, ne_eq, not_true_eq_false, if_false, State.shadow_of_none h, State.planNext, hp]

/-- The last workgroup of a launch placed. -/
theorem State.tryLaunch_placed {s : State} {k id pref : Nat} {p : Plan} (hpkg : (s.launch id).pkg = streamPkg k)
    (hgang : (s.launch id).gang = 1) (h : s.gangHeld (streamPkg k) = none)
    (hlast : (s.launch id).wgCount = (s.launch id).placed + 1) (hp : launchPlan s (streamPkg k) id pref = some p) :
    ∃ W units r dominoes m g a, W.groups = (List.range ((s.launch id).extent 1)).map (s.nextId + 1 + ·) ∧
      s.tryEntry k (.launch id) pref = .placed
        (({ placedState s W ((s.launch id).extent 1) ((s.launch id).groupAt (s.launch id).placed p s.cycle s.nextId)
              units r dominoes with
            mem := m, grans := g, armers := a,
            launches := SMap.put s.launches id
              { s.launch id with placed := (s.launch id).placed + 1, reserved := [] } } : State).takeEntry k (.launch id)) := by
  obtain ⟨W, units, r, dominoes, m, g, a, hW, hplace⟩ := State.placeLaunchWg_eq s id k (s.launch id).placed p
  refine ⟨W, units, r, dominoes, m, g, a, hW, ?_⟩
  rw [launchPlan, ← hpkg] at hp
  simp only [State.tryEntry, hgang, ne_eq, not_true_eq_false, if_false, State.shadow_of_none h, State.planNext, hp, hplace]
  unfold State.launchPlaced
  exact congrArg Attempt.placed (if_pos (le_of_eq hlast))

/-- A launch with nothing reserved makes no gang held. -/
theorem State.gangHeld_setLaunch {s : State} {pkg : Nat} (h : s.gangHeld pkg = none) (id : Nat) {l : Launch}
    (hl : l.reserved = []) : (s.setLaunch id l).gangHeld pkg = none := by
  rw [State.gangHeld, Option.map_eq_none_iff, List.find?_eq_none] at h ⊢
  intro e he
  rcases SMap.mem_put he with rfl | he
  · simp [hl]
  · exact h e he

/-- A launch that is the one stream's last entry, and whose last workgroup is due. -/
theorem exec_examination_launch {s : State} {pkg k id pref : Nat} (hon : (s.pkg pkg).on = true) (hs : Settled pkg s)
    (hone : OneStream s pkg k) (hk : streamPkg k = pkg) (he : (s.stream k).entries = [.launch id])
    (hd : 0 < (begun (s.stream k)).deficit) (hpkg : (s.launch id).pkg = pkg) (hgang : (s.launch id).gang = 1)
    (hpersist : (s.launch id).persist = false) :
    (∀ p, (s.launch id).wgCount = (s.launch id).placed + 1 → launchPlan s pkg id pref = some p →
      ∃ W units r dominoes m g a streams, W.groups = (List.range ((s.launch id).extent 1)).map (s.nextId + 1 + ·) ∧
        exec (.distributorExamination pkg pref) s = .next { placedState s W ((s.launch id).extent 1)
          ((s.launch id).groupAt (s.launch id).placed p s.cycle s.nextId) units r dominoes with
          mem := m, grans := g, armers := a,
          launches := SMap.put s.launches id { s.launch id with placed := (s.launch id).placed + 1, reserved := [] },
          streams := streams, rotation := s.rotation.erase k }
        ∧ (SMap.get streams k {}).entries = [])
    ∧ (launchPlan s pkg id pref = none → exec (.distributorExamination pkg pref) s
        = .next (({ s with streams := SMap.put s.streams k (begun (s.stream k)) } : State).turnOver k)) := by
  have hpersist' : s.persistEntry k = none := by
    rw [State.persistEntry, he]
    simp [hpersist]
  have hheld := hs.gangHeld
  subst hk
  constructor
  · intro p hlast hp
    obtain ⟨W, units, r, dominoes, m, g, a, hW, htry⟩ := State.tryLaunch_placed
      (s := { s with streams := SMap.put s.streams k (begun (s.stream k)) }) hpkg hgang hheld hlast hp
    have hentries := State.takeEntry_entries (s := { placedState { s with streams := SMap.put s.streams k (begun (s.stream k)) }
        W ((s.launch id).extent 1) ((s.launch id).groupAt (s.launch id).placed p s.cycle s.nextId) units r dominoes with
        mem := m, grans := g, armers := a,
        launches := SMap.put s.launches id { s.launch id with placed := (s.launch id).placed + 1, reserved := [] } })
      (e := .launch id) (k := k) ((congrArg Stream.entries (SMap.get_put_same _ _ _ _)).trans ((begun_entries _).trans he))
    refine ⟨W, units, r, dominoes, m, g, a, _, hW,
      (exec_examination_placed hon hs hone hpersist' he hd htry ?_ rfl rfl hentries).trans rfl,
      (State.stream_leaveRotation_entries _ k).trans hentries⟩
    refine hs.of_placed ?_ rfl rfl fun i => Life.noConfusion
    exact (State.gangHeld_setLaunch hheld id rfl).trans hheld.symm
  · intro hp
    have htry := State.tryLaunch_blocked (s := { s with streams := SMap.put s.streams k (begun (s.stream k)) })
      (id := id) (pref := pref) hpkg hgang hheld hp
    exact exec_examination_blocked hon hs hone hpersist' he hd htry

/-- The groups of a launch start as R126 says. -/
theorem launchGroup_starts (l : Launch) (p : Plan) (cycle wg i : Nat) {pkg : Nat} (hpkg : l.pkg = pkg) :
    let G := l.groupAt l.placed p cycle wg i
    G.life = .placed ∧ G.pkg = pkg ∧ G.die = p.die ∧ G.core = p.core ∧ G.part = i % 4 ∧ G.hart.ctx = l.ctx
      ∧ G.slot0.pc = l.word 0 &&& ~~~ 3 ∧ G.slot0.own = lanesBelow (l.extent 0) ∧ G.slot0.mask = lanesBelow (l.extent 0)
      ∧ SMap.get G.hart.sregs 1 0 = l.args ∧ G.regs.granules = l.initg ∧ G.wid0 = l.wid0 l.placed i
      ∧ G.trap.traph = l.word 0x68 ∧ G.trap.preempth = l.word 0x70 := by
  refine ⟨rfl, hpkg, rfl, rfl, rfl, rfl, rfl, rfl, rfl, ?_, rfl, rfl, rfl, rfl⟩
  simp [Launch.groupAt, freshGroup, SMap.get, SMap.find, SMap.put]

theorem placement : Placement := by
  intro pkg pref k s x y exam idle only need on passes
  have hy : y = if x.turn then x
      else { x with quantum := x.due, next := none, deficit := x.deficit + 64 * (x.due : Int) } := rfl
  obtain ⟨hdeficit, hturn⟩ := begun_eq x
  have hsplit : ∀ e, only e → (s.pkg pkg).on = true ∧ Settled pkg s ∧ OneStream s pkg k ∧ streamPkg k = pkg
      ∧ (s.stream k).entries = [e] ∧ 0 < (begun (s.stream k)).deficit := by
    rintro e ⟨⟨hon, hgang, hformed, hgroups⟩, hk, he, hd, hone⟩
    exact ⟨hon, ⟨hgang, hformed, hgroups⟩, hone, hk, he, hdeficit ▸ hd⟩
  have hpasses : ∀ e, (s.stream k).entries = [e] → exec exam s
      = .next (({ s with streams := SMap.put s.streams k (begun (s.stream k)) } : State).turnOver k) → passes e := by
    intro e he h
    have hstream : (({ s with streams := SMap.put s.streams k (begun (s.stream k)) } : State).turnOver k).stream k
        = { y with turn := false } := by
      rw [State.stream_turnOver, ← hturn]
      exact congrArg (fun z : Stream => { z with turn := false }) (SMap.get_put_same _ _ _ _)
    refine ⟨_, h, rfl, hstream, rfl, ?_⟩
    rw [hstream, ← hturn]
    exact (begun_entries x).trans he
  refine ⟨fun code frame join know honly => ?_, fun id honly => ?_, fun hidle hsus => ?_, fun hoff => ?_⟩
  · obtain ⟨hon, hs, hone, hk, he, hd⟩ := hsplit _ honly
    obtain ⟨hplaced, hblocked⟩ := exec_examination_cont (pref := pref) hon hs hone hk he hd
    refine ⟨fun p hp => ?_, fun hp => hpasses _ he (hblocked hp)⟩
    obtain ⟨W, units, r, dominoes, streams, hexec, hempty⟩ := hplaced p hp
    refine ⟨_, s.nextId + 1, hexec, hempty, ?_, rfl, fun j G hj hG => ?_, ?_⟩
    · show k ∉ (s.rotation.erase k).filter _
      rw [← List.erase_filter, hone.own_level]
      simp
    · show SMap.find (putRange _ _ _ _) j = _
      rw [find_putRange_below _ _ _ (by omega), hG]
    · rw [State.group_of_find (find_putRange_same _ _ _ (i := 0) (by decide))]
      exact contGroup_starts s pkg k p code frame join s.nextId
  · intro l hpkg hgang hpersist
    obtain ⟨hon, hs, hone, hk, he, hd⟩ := hsplit _ honly
    obtain ⟨hplaced, hblocked⟩ := exec_examination_launch (pref := pref) hon hs hone hk he hd hpkg hgang hpersist
    refine ⟨fun p hlast hp => ?_, fun hp => hpasses _ he (hblocked hp)⟩
    obtain ⟨W, units, r, dominoes, m, g, a, streams, hW, hexec, hempty⟩ := hplaced p hlast hp
    have hwg : SMap.get (SMap.put s.wgs s.nextId W) s.nextId {} = W := SMap.get_put_same _ _ _ _
    refine ⟨_, s.nextId, hexec, hempty, congrArg Launch.placed (SMap.get_put_same _ _ _ _), ?_, fun i hi => ?_⟩
    · refine (congrArg (fun w : Workgroup => w.groups.length) hwg).trans ?_
      rw [hW, List.length_map, List.length_range]
    · have hgid : W.groups.getD i 0 = s.nextId + 1 + i := by
        rw [hW, getD_map_range _ _ hi]
      have hgroup : ∀ x : State, x.wg s.nextId = W →
          x.groups = putRange s.groups (s.nextId + 1) (l.extent 1) (l.groupAt l.placed p s.cycle s.nextId) →
          x.group ((x.wg s.nextId).groups.getD i 0) = l.groupAt l.placed p s.cycle s.nextId i := fun x hx hgs => by
        rw [hx, hgid, State.group_of_find (hgs ▸ find_putRange_same _ _ _ hi)]
      intro G
      have hG : G = l.groupAt l.placed p s.cycle s.nextId i := by
        refine hgroup _ ?_ ?_
        · exact hwg
        · rfl
      rw [hG]
      exact launchGroup_starts l p s.cycle s.nextId i hpkg
  · obtain ⟨-, hgang, hformed, hgroups⟩ := hidle
    refine exec_examination_quiet ⟨hgang, hformed, hgroups⟩ (fun level _ => ?_) pref
    refine List.filter_eq_nil_iff.2 fun j hj => ?_
    by_cases hjp : streamPkg j = pkg
    · rcases hsus j hj hjp with h | h <;> simp [State.served, h]
    · simp [State.served, hjp]
  · show execDistributorExamination pkg pref s = _
    rw [execDistributorExamination, hoff]
    rfl

/-! ## The release of a group (R127, R147, R182) -/

/-- WAIT requests are answered in the packages' records and what is sent. -/
theorem State.answerWaits_frame (s : State) : ∃ p x, s.answerWaits = { s with pkgs := p, sent := x } := by
  have hsend : ∀ (l : List WaitReq) (pkg : Nat) (f : WaitReq → List Byte) (u : State),
      ∃ x, l.foldl (fun s w => s.send pkg 2 (f w)) u = { u with sent := x } := by
    intro l pkg f
    induction l with
    | nil => exact fun u => ⟨u.sent, rfl⟩
    | cons w l ih =>
      intro u
      obtain ⟨x, h⟩ := ih (u.send pkg 2 (f w))
      exact ⟨x, by rw [List.foldl_cons, h]; rfl⟩
  unfold State.answerWaits
  generalize s.pkgs = l
  induction l generalizing s with
  | nil => exact ⟨s.pkgs, s.sent, rfl⟩
  | cons e l ih =>
    rw [List.foldl_cons]
    dsimp only
    split
    · exact ih s
    · obtain ⟨x, hx⟩ := hsend (e.2.waits.filter s.waitOver) e.1 (fun w => reqReply w.req 0 w.req.ctx w.req.key 0 0 [])
        (s.setPkg e.1 { s.pkg e.1 with waits := (s.pkg e.1).waits.filter fun w => !s.waitOver w })
      rw [hx]
      obtain ⟨p, y, h⟩ := ih { s.setPkg e.1 { s.pkg e.1 with waits := (s.pkg e.1).waits.filter fun w => !s.waitOver w } with
        sent := x }
      exact ⟨p, y, by rw [h]; rfl⟩

/-- The units of a region, as they are after its workgroup has left: as they were, if its region had been saved. -/
def unitsLeft (s : State) (w : Workgroup) : SMap UnitTag :=
  if w.saved.isSome then s.units else (s.freeUnits w.pkg w.die w.core w.base (unitsIn w.bytes)).units

theorem State.freeUnits_frame (s : State) (pkg die core base n : Nat) :
    s.freeUnits pkg die core base n = { s with units := (s.freeUnits pkg die core base n).units } := by
  unfold State.freeUnits
  split <;> rfl

theorem State.releaseWg_eq (s : State) (id : Nat) : ∃ dominoes wgs, s.releaseWg id
    = { s with units := unitsLeft s (s.wg id), dominoes := dominoes, wgs := SMap.erase wgs id } := by
  have hfree : (if (s.wg id).saved.isSome then s
      else s.freeUnits (s.wg id).pkg (s.wg id).die (s.wg id).core (s.wg id).base (unitsIn (s.wg id).bytes))
      = { s with units := unitsLeft s (s.wg id) } := by
    unfold unitsLeft
    split
    · rfl
    · exact State.freeUnits_frame s _ _ _ _ _
  unfold State.releaseWg
  dsimp only
  rw [hfree]
  split <;> split <;> exact ⟨_, _, rfl⟩

/-- A stream is charged in the table of streams. -/
theorem State.charge_frame (s : State) (g : Group) : s.charge g = { s with streams := (s.charge g).streams } := by
  unfold State.charge
  dsimp only
  split <;> rfl

theorem State.charge_streams {s : State} {g : Group} {x : Stream} (hl : g.life = .draining)
    (hw : (s.wg g.wg).launch = none) (hx : SMap.find s.streams (s.wg g.wg).stream = some x) :
    SMap.find (s.charge g).streams (s.wg g.wg).stream
      = some { x with deficit := x.deficit - ((g.resident + (s.cycle - g.placedAt) : Nat) : Int) } := by
  simp [State.charge, hl, hw, hx, SMap.find_put_same]

/-- The state before the workgroup of a released group is looked at: charged, its holding returned, the group gone. -/
def leftState (s : State) (g : Nat) (G : Group) : State :=
  let s := s.charge G
  let w := s.wg G.wg
  let s := s.setWg G.wg { w with groups := w.groups.erase g, left_ := w.left_ + G.regs.holding }
  let s := match w.launch with
    | none => s
    | some id => s.setLaunch id { s.launch id with alive := (s.launch id).alive - 1 }
  { s with groups := SMap.erase s.groups g }

theorem State.releaseGroup_eq {s : State} {g : Nat} {G : Group} (h : s.group g = G) :
    s.releaseGroup g = (if ((leftState s g G).wg G.wg).groups.isEmpty then (leftState s g G).releaseWg G.wg
      else leftState s g G).answerWaits := by
  subst h
  rfl

/-- The launches after a group of workgroup w is released: one group of its launch less is alive. -/
def launchesLeft (s : State) (w : Workgroup) : SMap Launch :=
  match w.launch with
  | none => s.launches
  | some id => SMap.put s.launches id { s.launch id with alive := (s.launch id).alive - 1 }

theorem launchesLeft_none {s : State} {w : Workgroup} (h : w.launch = none) : launchesLeft s w = s.launches := by
  rw [launchesLeft, h]

theorem launchesLeft_some {s : State} {w : Workgroup} {id : Nat} (h : w.launch = some id) :
    launchesLeft s w = SMap.put s.launches id { s.launch id with alive := (s.launch id).alive - 1 } := by
  rw [launchesLeft, h]

theorem leftState_eq (s : State) (g : Nat) (G : Group) :
    leftState s g G = { s with
      streams := (s.charge G).streams,
      wgs := SMap.put s.wgs G.wg { s.wg G.wg with
        groups := (s.wg G.wg).groups.erase g, left_ := (s.wg G.wg).left_ + G.regs.holding },
      launches := launchesLeft s (s.wg G.wg), groups := SMap.erase s.groups g } := by
  obtain ⟨x, hx⟩ : ∃ x, s.charge G = { s with streams := x } := ⟨_, State.charge_frame s G⟩
  unfold leftState
  rw [hx]
  dsimp only
  split
  · rename_i hl
    rw [launchesLeft_none (w := s.wg G.wg) hl]
    rfl
  · rename_i id hl
    rw [launchesLeft_some (w := s.wg G.wg) hl]
    rfl

theorem leftState_wg (s : State) (g : Nat) (G : Group) : (leftState s g G).wg G.wg
    = { s.wg G.wg with groups := (s.wg G.wg).groups.erase g, left_ := (s.wg G.wg).left_ + G.regs.holding } := by
  rw [leftState_eq]
  exact SMap.get_put_same _ _ _ _

/-- The units of a region are free once its workgroup has left, unless the region was saved. -/
theorem unitsLeft_free {s : State} {w : Workgroup} {key i : Nat} (hsaved : w.saved = none)
    (hslice : s.coreSlice w.pkg w.die w.core 0 = some key) (hi : i < unitsIn w.bytes) :
    SMap.find (unitsLeft s w) ((key - sliceBase) / 1024 + w.base / 1024 + i) = none := by
  rw [unitsLeft, hsaved, if_neg (by decide), State.freeUnits, hslice]
  cases hf : SMap.find _ _ with
  | none => rfl
  | some x =>
    have hmem := (List.mem_filter.1 (SMap.mem_of_find hf)).2
    simp only [Bool.not_eq_true', Bool.and_eq_false_iff, decide_eq_false_iff_not] at hmem
    omega

theorem releases : Releases := by
  intro g s G hG hlife W
  have hgroup := State.group_of_find hG
  refine ⟨fun h => ?_, fun hpips hparked => ?_⟩
  · show execGroupRelease g s = _
    simp only [execGroupRelease, hG]
    refine if_neg ?_
    rcases h with h | h <;> simp [h]
  have hexec : exec (.groupRelease g) s = .next (s.releaseGroup g) := by
    show execGroupRelease g s = _
    simp [execGroupRelease, hG, hlife, hpips, hparked]
  have hlaunch : ∀ id, W.launch = some id →
      (SMap.get (launchesLeft s W) id {}).alive = (s.launch id).alive - 1 := fun id hid => by
    rw [launchesLeft_some hid]
    exact congrArg Launch.alive (SMap.get_put_same _ _ _ _)
  rw [hexec, State.releaseGroup_eq hgroup, leftState_wg]
  by_cases hempty : W.groups.erase g = []
  · obtain ⟨dominoes, wgs, hrel⟩ := State.releaseWg_eq (leftState s g G) G.wg
    obtain ⟨p, x, hans⟩ := State.answerWaits_frame ((leftState s g G).releaseWg G.wg)
    have hw := leftState_wg s g G
    rw [if_pos (by rw [hempty]; rfl), hans, hrel, hw, leftState_eq]
    refine ⟨_, rfl, SMap.find_erase_same _ _, fun j hj => SMap.find_erase_other _ hj, rfl, hlaunch,
      fun y hl hy => State.charge_streams hlife hl hy, fun h => absurd hempty h,
      fun _ => ⟨SMap.find_erase_same _ _, fun key i hsaved hslice hi => ?_⟩⟩
    exact unitsLeft_free hsaved hslice hi
  · obtain ⟨p, x, hans⟩ := State.answerWaits_frame (leftState s g G)
    rw [if_neg (by simpa using hempty), hans, leftState_eq]
    exact ⟨_, rfl, SMap.find_erase_same _ _, fun j hj => SMap.find_erase_other _ hj, rfl, hlaunch,
      fun y hl hy => State.charge_streams hlife hl hy, fun _ => ⟨SMap.get_put_same _ _ _ _, rfl⟩,
      fun h => absurd h hempty⟩

/-- Settles O47: at every level but the stream's the examination changes nothing, and there it is one attempt; a release
is followed through its parts. -/
theorem distribution : Obligations.Distribution := ⟨placement, releases⟩

end Sys2Proof.Proofs

/-! Scalar floating point: what the instructions put, and where they trap (of O13). -/

namespace Sys2Proof.Proofs

open Host (Outcome)
open Sys2Proof Sys2Proof.Machine Sys2Proof.Stated

/-! ## The formats of scalar floating point (R106) -/

theorem State.scalarFmt_ok {s : State} {k : Nat} (h : FloatRecord (s.fmtHere k)) : s.scalarFmt k = .ok (fmtOf (s.fmtHere k)) := by
  refine if_pos ?_
  rcases h with h | h <;> simp [h, recFp32, recFp64]

theorem State.scalarFmt_refused {s : State} {k : Nat} (h : ¬ FloatRecord (s.fmtHere k)) :
    s.scalarFmt k = .error (s.fmtFault (if (s.fmtHere k).getLsbD 63 then 3 else 0) k) := by
  refine (if_neg fun hc => h ?_).trans ?_
  · rw [Bool.or_eq_true, decide_eq_true_iff, decide_eq_true_iff] at hc
    exact hc
  · cases hb : (s.fmtHere k).getLsbD 63
    · exact if_neg (by rw [bitAt, hb]; decide)
    · exact if_pos hb

/-- fp32 and fp64 are wide, so no operand of theirs is flushed. -/
theorem State.sval_eq {s : State} {r : Dword} (h : FloatRecord r) (n : BitVec 8) : s.sval (fmtOf r) n = floatOf s r n := by
  rcases h with rfl | rfl <;> rfl

/-! ## Instructions that round -/

section Sfarith

variable {d : BitVec 8} {srcs : List (BitVec 8)} {f : Fmt → ModeWord → List Val → Nat} {s : State}

theorem sfArith_puts (hneed : s.need (d :: srcs) = .ok ()) (hsf : FloatRecord (sfRecord s)) (hdf : FloatRecord (dfRecord s))
    (hrm : rmOf (modeOf s) ≠ 5) :
    sfArith d srcs f s
      = puts s d (BitVec.ofNat 64 (f (fmtOf (dfRecord s)) (modeOf s) (srcs.map (floatOf s (sfRecord s))))) := by
  have hs := State.scalarFmt_ok (s := s) (k := mdSF (modeOf s)) (by rw [State.fmtHere_mdSF]; exact hsf)
  have hd := State.scalarFmt_ok (s := s) (k := mdDF (modeOf s)) (by rw [State.fmtHere_mdDF]; exact hdf)
  have hvals : srcs.map (s.sval (fmtOf (sfRecord s))) = srcs.map (floatOf s (sfRecord s)) :=
    List.map_congr_left fun n _ => State.sval_eq hsf n
  rw [State.fmtHere_mdSF] at hs
  rw [State.fmtHere_mdDF] at hd
  rw [sfArith, hneed, except_ok_bind, State.needRound_ok hrm, except_ok_bind, State.mode_eq, hs, except_ok_bind, hd,
    except_ok_bind, hvals]
  rfl

theorem sfArith_round (hneed : s.need (d :: srcs) = .ok ()) (hrm : rmOf (modeOf s) = 5) : sfArith d srcs f s = traps s 1 := by
  rw [sfArith, hneed, except_ok_bind, State.needRound_illegal hrm]
  exact finish_illegal s

theorem sfArith_format (hneed : s.need (d :: srcs) = .ok ()) (hrm : rmOf (modeOf s) ≠ 5) (hsf : ¬ FloatRecord (sfRecord s)) :
    sfArith d srcs f s = traps s 3 (BitVec.ofNat 64 ((if (sfRecord s).getLsbD 63 then 3 else 0) * 32
      + ((modeOf s).extractLsb' 0 5).toNat)) := by
  have hs := State.scalarFmt_refused (s := s) (k := mdSF (modeOf s)) (by rw [State.fmtHere_mdSF]; exact hsf)
  rw [State.fmtHere_mdSF, mdSF_eq] at hs
  rw [sfArith, hneed, except_ok_bind, State.needRound_ok hrm, except_ok_bind, State.mode_eq, mdSF_eq, hs]
  refine (finish_trapAt s 3 _ 0 0).trans ?_
  rw [fmtDetail, Nat.zero_mul, Nat.zero_add]

/-- What an instruction that rounds once puts. -/
theorem sfRound_puts {op : Nat → List Val → Val} (hneed : s.need (d :: srcs) = .ok ()) (hsf : FloatRecord (sfRecord s))
    (hdf : FloatRecord (dfRecord s)) (hrm : rmOf (modeOf s) ≠ 5) :
    sfRound srcs op d s = puts s d (BitVec.ofNat 64 (roundTo (fmtOf (dfRecord s)) (rmOf (modeOf s)) (ovOf (modeOf s))
      (op (rmOf (modeOf s)) (srcs.map (floatOf s (sfRecord s)))))) := by
  rw [sfRound, sfArith_puts hneed hsf hdf hrm]
  simp only [roundMode, mdRM_eq]
  rfl

/-- What an element function puts: its exact value rounded, another to nearest. -/
theorem sfElem_puts {a : BitVec 8} (g : Val → Val × Bool) (hneed : s.need [d, a] = .ok ()) (hsf : FloatRecord (sfRecord s))
    (hdf : FloatRecord (dfRecord s)) (hrm : rmOf (modeOf s) ≠ 5) :
    sfArith d [a] (fun df md l => elemFun df md (g (argVal l 0))) s =
      if (g (floatOf s (sfRecord s) a)).2 then
        puts s d (BitVec.ofNat 64 (roundTo (fmtOf (dfRecord s)) (rmOf (modeOf s)) (ovOf (modeOf s)) (g (floatOf s (sfRecord s) a)).1))
      else puts s d (BitVec.ofNat 64
        (roundNearest (fmtOf (dfRecord s)) (rmOf (modeOf s)) (ovOf (modeOf s)) (g (floatOf s (sfRecord s) a)).1)) := by
  rw [sfArith_puts hneed hsf hdf hrm]
  show puts s d (BitVec.ofNat 64 (elemFun _ _ (g (floatOf s (sfRecord s) a)))) = _
  generalize g (floatOf s (sfRecord s) a) = y
  obtain ⟨v, exact⟩ := y
  rw [elemFun, roundMode, mdRM_eq]
  cases exact <;> rfl

end Sfarith

theorem exec_sfexp2 (d a : BitVec 8) (s : State) :
    exec (.sfexp2 d a) s = sfArith d [a] (fun df md l => elemFun df md (exp2Val (argVal l 0))) s := rfl

theorem scalarFloats : ScalarFloats := by
  intro d a b s hready hsf hdf hrm
  have h2 : s.need [d, a, b] = .ok () := hready
  have h1 : s.need [d, a] = .ok () := need_of_ready hready (by simp)
  have h3 : s.need [d, a, b, d] = .ok () := need_of_ready hready (by simp)
  refine ⟨?_, ?_, ?_, ?_, ?_, ?_, ?_, ?_, ?_⟩
  · exact (show execSfadd d a b s = _ from sfRound_puts h2 hsf hdf hrm)
  · exact (show execSfsub d a b s = _ from sfRound_puts h2 hsf hdf hrm)
  · exact (show execSfmul d a b s = _ from sfRound_puts h2 hsf hdf hrm)
  · exact (show execSffma d a b s = _ from sfRound_puts h3 hsf hdf hrm)
  · exact (show execSfdiv d a b s = _ from sfRound_puts h2 hsf hdf hrm)
  · exact (show execSfmin d a b s = _ from sfRound_puts h2 hsf hdf hrm)
  · exact (show execSfmax d a b s = _ from sfRound_puts h2 hsf hdf hrm)
  · exact (show execSfsqrt d a s = _ from sfRound_puts h1 hsf hdf hrm)
  · rw [exec_sfexp2]
    exact sfElem_puts exp2Val h1 hsf hdf hrm

/-- The instructions of R107 and R108 read their operands among d, a and b, and round. -/
def RoundsOnce (i : Instr) (d a b : BitVec 8) (s : State) : Prop :=
  ∃ srcs op, (∀ x ∈ d :: srcs, x ∈ [d, a, b]) ∧ exec i s = sfRound srcs op d s

section Shape

variable {d a b : BitVec 8} {s : State}

theorem roundsOnce_of_two {i : Instr} {op : Nat → List Val → Val} (h : exec i s = sfRound [a, b] op d s) :
    RoundsOnce i d a b s := ⟨[a, b], op, by simp, h⟩

theorem roundsOnce_of_three {i : Instr} {op : Nat → List Val → Val} (h : exec i s = sfRound [a, b, d] op d s) :
    RoundsOnce i d a b s := ⟨[a, b, d], op, by simp, h⟩

end Shape

theorem roundsOnce {f : BitVec 8 → BitVec 8 → BitVec 8 → Instr}
    (hf : f ∈ ([.sfadd, .sfsub, .sfmul, .sfdiv, .sfmin, .sfmax, .sffma] : List (BitVec 8 → BitVec 8 → BitVec 8 → Instr)))
    (d a b : BitVec 8) (s : State) : RoundsOnce (f d a b) d a b s := by
  simp only [List.mem_cons, List.not_mem_nil, or_false] at hf
  rcases hf with rfl | rfl | rfl | rfl | rfl | rfl | rfl
  · exact roundsOnce_of_two (show execSfadd d a b s = _ from rfl)
  · exact roundsOnce_of_two (show execSfsub d a b s = _ from rfl)
  · exact roundsOnce_of_two (show execSfmul d a b s = _ from rfl)
  · exact roundsOnce_of_two (show execSfdiv d a b s = _ from rfl)
  · exact roundsOnce_of_two (show execSfmin d a b s = _ from rfl)
  · exact roundsOnce_of_two (show execSfmax d a b s = _ from rfl)
  · exact roundsOnce_of_three (show execSffma d a b s = _ from rfl)

theorem scalarFloatFaults : ScalarFloatFaults := by
  intro d a b s hready f hf k
  obtain ⟨srcs, op, hsrcs, hexec⟩ := roundsOnce hf d a b s
  have hneed : s.need (d :: srcs) = .ok () := need_of_ready hready hsrcs
  rw [hexec]
  exact ⟨sfArith_round hneed, sfArith_format hneed⟩

/-! ## Conversion (R89, R111) -/

theorem State.useFmt_ok {s : State} {k : Nat} {kinds : List Nat} (h : (s.fmtHere k).getLsbD 63 = true)
    (hk : (fmtOf (s.fmtHere k)).kind ∈ kinds) : s.useFmt k kinds = .ok (fmtOf (s.fmtHere k)) := by
  have hbit : bitAt (s.fmtHere k) 63 = true := h
  simp [State.useFmt, hbit, hk]

theorem mem_kinds_le_two {n : Nat} (h : n ≤ 2) : n ∈ [0, 1, 2] := by
  interval_cases n <;> decide

theorem scalarConversion : ScalarConversion := by
  intro d a s F G hready hsf hF hF2 hdf hG hG2 x c
  have hs : s.sf [0, 1, 2] = .ok F := by
    rw [State.sf, State.mode_eq, State.useFmt_ok] <;> rw [State.fmtHere_mdSF]
    · rw [hF]
    · exact hsf
    · exact hF ▸ mem_kinds_le_two hF2
  have hd : s.df [0, 1, 2] = .ok G := by
    rw [State.df, State.mode_eq, State.useFmt_ok] <;> rw [State.fmtHere_mdDF]
    · rw [hG]
    · exact hdf
    · exact hG ▸ mem_kinds_le_two hG2
  show execSfcvt d a s = _
  rw [execSfcvt, show s.need [d, a] = .ok () from hready, except_ok_bind, hs, except_ok_bind, hd, except_ok_bind,
    State.mode_eq]
  show puts s d (BitVec.ofNat 64 (if G.kind = 1 then extendCode G 64 c else c)) = _
  congr 2
  by_cases hk : G.kind = 1
  · simp [hk, extendCode]
  · simp [hk]

end Sys2Proof.Proofs

/-! Exact arithmetic on values (R81, R107; of O13). -/

namespace Sys2Proof.Proofs

open Sys2Proof Sys2Proof.Machine Sys2Proof.Stated

/-! ## The number of a finite value -/

/-- The sign of a value. -/
def signOf (neg : Bool) : ℚ := if neg then -1 else 1

@[simp] theorem signOf_true : signOf true = -1 := rfl
@[simp] theorem signOf_false : signOf false = 1 := rfl

theorem abs_signOf (neg : Bool) : |signOf neg| = 1 := by cases neg <;> simp

theorem signOf_bne (a b : Bool) : signOf (a != b) = signOf a * signOf b := by cases a <;> cases b <;> simp

theorem signOf_cast (neg : Bool) : (((if neg then -1 else 1 : ℤ)) : ℚ) = signOf neg := by cases neg <;> simp

theorem number_fin (neg : Bool) (m : Nat) (e : Int) (more : Bool) :
    number (.fin neg m e more) = signOf neg * m * (2 : ℚ) ^ e := rfl

@[simp] theorem number_fin_zero (neg : Bool) (e : Int) (more : Bool) : number (.fin neg 0 e more) = 0 := by simp [number_fin]

theorem abs_number_fin (neg : Bool) (m : Nat) (e : Int) (more : Bool) :
    |number (.fin neg m e more)| = (m : ℚ) * (2 : ℚ) ^ e := by
  rw [number_fin, abs_mul, abs_mul, abs_signOf, one_mul, Nat.abs_cast, abs_of_pos (by positivity)]

theorem number_eq_zero {neg : Bool} {m : Nat} {e : Int} {more : Bool} : number (.fin neg m e more) = 0 ↔ m = 0 := by
  rw [← abs_eq_zero, abs_number_fin, mul_eq_zero, Nat.cast_eq_zero, or_iff_left (by positivity)]

theorem exact_fin (neg : Bool) (m : Nat) (e : Int) : Exact (.fin neg m e false) := ⟨neg, m, e, rfl⟩

/-- A power of two by a greater exponent is a multiple of it. -/
theorem zpow_eq_mul_of_le {lo e : Int} (h : lo ≤ e) : (2 : ℚ) ^ e = ((2 ^ (e - lo).toNat : Nat) : ℚ) * (2 : ℚ) ^ lo := by
  rw [Nat.cast_pow, Nat.cast_ofNat, ← zpow_natCast, Int.toNat_of_nonneg (by omega), ← zpow_add₀ two_ne_zero, sub_add_cancel]

/-- An integer multiple of a quantum as a value. -/
theorem number_of_int (i : Int) (lo : Int) (more : Bool) :
    number (.fin (decide (i < 0)) i.natAbs lo more) = i * (2 : ℚ) ^ lo := by
  rw [number_fin, Nat.cast_natAbs]
  by_cases hi : i < 0
  · rw [decide_eq_true hi, abs_of_neg hi]; simp
  · rw [decide_eq_false hi, abs_of_nonneg (by omega)]; simp

/-! ## Sums and products -/

theorem addVal_fin (rm : Nat) (a b : Bool) (m n : Nat) (e g : Int) (u v : Bool) :
    Exact (addVal rm (.fin a m e false) (.fin b n g false))
      ∧ number (addVal rm (.fin a m e u) (.fin b n g v)) = number (.fin a m e u) + number (.fin b n g v) := by
  unfold addVal
  by_cases hm : m = 0
  · by_cases hn : n = 0
    · subst hm hn; simp [exact_fin]
    · subst hm; simp [hn, exact_fin, number_fin]
  · by_cases hn : n = 0
    · subst hn; simp [hm, exact_fin, number_fin]
    · simp only [hm, hn, decide_false, Bool.and_self, Bool.false_eq_true, if_false]
      set lo := min e g with hlo
      set i : Int := (if a then -1 else 1) * (m * 2 ^ (e - lo).toNat : Nat)
        + (if b then -1 else 1) * (n * 2 ^ (g - lo).toNat : Nat) with hi
      have hsum : (i : ℚ) * 2 ^ lo = number (.fin a m e u) + number (.fin b n g v) := by
        rw [hi, number_fin, number_fin, zpow_eq_mul_of_le (lo := lo) (e := e) (by omega),
          zpow_eq_mul_of_le (lo := lo) (e := g) (by omega), Int.cast_add, Int.cast_mul, Int.cast_mul, signOf_cast, signOf_cast]
        push_cast
        ring
      by_cases hz : i = 0
      · rw [if_pos hz]
        refine ⟨exact_fin _ _ _, ?_⟩
        rw [← hsum, hz]
        simp
      · rw [if_neg hz]
        exact ⟨exact_fin _ _ _, (number_of_int i lo false).trans hsum⟩

theorem number_mulVal_fin (a b : Bool) (m n : Nat) (e g : Int) (u v : Bool) :
    number (mulVal (.fin a m e u) (.fin b n g v)) = number (.fin a m e u) * number (.fin b n g v) := by
  show number (.fin (a != b) (m * n) (e + g) false) = _
  rw [number_fin, number_fin, number_fin, signOf_bne, zpow_add₀ two_ne_zero, Nat.cast_mul]
  ring

theorem fmaVal_fin (rm : Nat) (a b c : Bool) (m n k : Nat) (e g h : Int) :
    fmaVal rm (.fin a m e false) (.fin b n g false) (.fin c k h false)
      = addVal rm (.fin (a != b) (m * n) (e + g) false) (.fin c k h false) := rfl

/-! ## Quotients -/

theorem div_le_of_nat (m n : Nat) : ((m / n : Nat) : ℚ) ≤ (m : ℚ) / n := Nat.cast_div_le

theorem lt_nat_div_add_one (m : Nat) {n : Nat} (hn : n ≠ 0) : (m : ℚ) / n < ((m / n : Nat) : ℚ) + 1 := by
  rw [div_lt_iff₀ (by positivity)]
  exact_mod_cast (by rw [mul_comm]; exact Nat.lt_mul_div_succ m (Nat.pos_of_ne_zero hn))

/-- The quotient of a finite value by one that is not zero: its magnitude is cut, at a place above its 69th bit. -/
theorem divVal_fin (a b : Bool) {m n : Nat} (e g : Int) (u v : Bool) (hm : m ≠ 0) (hn : n ≠ 0) :
    divVal (.fin a m e u) (.fin b n g v) = .fin (a != b) (m * 2 ^ (70 + n.log2) / n) (e - g - (70 + n.log2 : Nat))
      (decide (m * 2 ^ (70 + n.log2) % n ≠ 0)) := by
  rw [divVal, if_neg hn, if_neg hm]

/-- A number of at least 2^69 units loses less than its 2^-64th part when it is cut to whole units. -/
theorem cut_bounds {m n : Nat} (hm : m ≠ 0) (hn : n ≠ 0) :
    let q : ℚ := ((m * 2 ^ (70 + n.log2) / n : Nat) : ℚ)
    let r : ℚ := (m : ℚ) * 2 ^ (70 + n.log2) / n
    q ≤ r ∧ r - q ≤ r / 2 ^ 69 := by
  intro q r
  have hr : ((m * 2 ^ (70 + n.log2) : Nat) : ℚ) / n = r := by push_cast; rfl
  have hlow : q ≤ r := hr ▸ div_le_of_nat _ n
  have hhigh : r < q + 1 := hr ▸ lt_nat_div_add_one _ hn
  have hbig : 2 ^ 69 ≤ r := by
    rw [le_div_iff₀ (by positivity)]
    have h1 : n < 2 ^ (n.log2 + 1) := Nat.lt_log2_self
    have h2 : 2 ^ 69 * n ≤ m * 2 ^ (70 + n.log2) := calc
      2 ^ 69 * n ≤ 2 ^ 69 * 2 ^ (n.log2 + 1) := Nat.mul_le_mul_left _ h1.le
      _ = 1 * 2 ^ (70 + n.log2) := by ring
      _ ≤ m * 2 ^ (70 + n.log2) := Nat.mul_le_mul_right _ (Nat.pos_of_ne_zero hm)
    exact_mod_cast h2
  refine ⟨hlow, ?_⟩
  rw [le_div_iff₀ (by positivity)]
  linarith

theorem abs_quotient (a b : Bool) (m n : Nat) (e g : Int) (u v : Bool) (k : Nat) :
    |number (.fin a m e u) / number (.fin b n g v)| = (m : ℚ) * 2 ^ k / n * (2 : ℚ) ^ (e - g - k) := by
  rw [abs_div, abs_number_fin, abs_number_fin, zpow_sub₀ two_ne_zero, zpow_sub₀ two_ne_zero, zpow_natCast]
  field_simp

theorem divVal_bounds (a b : Bool) (m n : Nat) (e g : Int) (u v : Bool) (hn : n ≠ 0) :
    let x := number (.fin a m e u) / number (.fin b n g v)
    let q := number (divVal (.fin a m e u) (.fin b n g v))
    |q| ≤ |x| ∧ |x| - |q| ≤ |x| / 2 ^ 69 := by
  intro x q
  by_cases hm : m = 0
  · subst hm
    simp [x, q, divVal, hn]
  · obtain ⟨hlow, hcut⟩ := cut_bounds hm hn
    have hx : |x| = _ := abs_quotient a b m n e g u v (70 + n.log2)
    have hq : q = number (.fin (a != b) _ _ _) := congrArg number (divVal_fin a b e g u v hm hn)
    have hpos : (0 : ℚ) < 2 ^ (e - g - (70 + n.log2 : Nat) : Int) := by positivity
    rw [hx, hq, abs_number_fin]
    refine ⟨mul_le_mul_of_nonneg_right hlow hpos.le, ?_⟩
    rw [← sub_mul]
    exact (mul_le_mul_of_nonneg_right hcut hpos.le).trans_eq (div_mul_eq_mul_div _ _ _)

/-! ## Square roots -/

theorem isqrt_sq_le {n : Nat} : ∀ (k r : Nat), r * r ≤ n → isqrt n k r * isqrt n k r ≤ n
  | 0, _, h => h
  | k + 1, r, h => by
    rw [isqrt]
    by_cases ht : (r + 2 ^ k) * (r + 2 ^ k) ≤ n
    · rw [if_pos ht]; exact isqrt_sq_le k _ ht
    · rw [if_neg ht]; exact isqrt_sq_le k _ h

theorem lt_isqrt_succ_sq {n : Nat} : ∀ (k r : Nat), n < (r + 2 ^ k) * (r + 2 ^ k) →
    n < (isqrt n k r + 1) * (isqrt n k r + 1)
  | 0, _, h => h
  | k + 1, r, h => by
    rw [isqrt]
    by_cases ht : (r + 2 ^ k) * (r + 2 ^ k) ≤ n
    · rw [if_pos ht]
      refine lt_isqrt_succ_sq k _ ?_
      rwa [add_assoc, ← two_mul, ← pow_succ']
    · rw [if_neg ht]
      exact lt_isqrt_succ_sq k _ (by omega)

/-- The integer square root as the model starts it. -/
def rootOf (n : Nat) : Nat := isqrt n (n.log2 / 2 + 1) 0

theorem rootOf_sq_le (n : Nat) : rootOf n * rootOf n ≤ n := isqrt_sq_le _ _ (by omega)

theorem lt_rootOf_succ_sq (n : Nat) : n < (rootOf n + 1) * (rootOf n + 1) := by
  refine lt_isqrt_succ_sq _ _ ?_
  calc n < 2 ^ (n.log2 + 1) := Nat.lt_log2_self
    _ ≤ 2 ^ ((n.log2 / 2 + 1) + (n.log2 / 2 + 1)) := Nat.pow_le_pow_right (by omega) (by omega)
    _ = _ := by rw [pow_add, zero_add]

theorem sqrtVal_fin {m : Nat} (e : Int) (more : Bool) (hm : m ≠ 0) :
    let k : Nat := 140 + (e % 2).toNat
    sqrtVal (.fin false m e more) = .fin false (rootOf (m * 2 ^ k)) ((e - k) / 2)
      (decide (rootOf (m * 2 ^ k) * rootOf (m * 2 ^ k) ≠ m * 2 ^ k)) := by
  intro k
  rw [sqrtVal, if_neg hm, if_neg Bool.false_ne_true]
  rfl

theorem half_exponent_sq {e : Int} {k : Nat} (h : (e - k) % 2 = 0) : ((2 : ℚ) ^ ((e - k) / 2)) ^ 2 * 2 ^ k = 2 ^ e := by
  rw [← zpow_natCast, ← zpow_natCast, ← zpow_mul, ← zpow_add₀ two_ne_zero]
  congr 1
  omega

theorem sqrtVal_bounds {m : Nat} (e : Int) (more : Bool) (hm : m ≠ 0) :
    0 ≤ number (sqrtVal (.fin false m e more))
      ∧ number (sqrtVal (.fin false m e more)) ^ 2 ≤ number (.fin false m e more) := by
  rw [sqrtVal_fin e more hm]
  set k : Nat := 140 + (e % 2).toNat with hk
  have hsq : ((rootOf (m * 2 ^ k) : ℚ)) * rootOf (m * 2 ^ k) ≤ m * 2 ^ k := by
    exact_mod_cast rootOf_sq_le (m * 2 ^ k)
  have hhalf : ((2 : ℚ) ^ ((e - k) / 2)) ^ 2 * 2 ^ k = 2 ^ e := half_exponent_sq (by omega)
  simp only [number_fin, signOf_false, one_mul]
  refine ⟨by positivity, ?_⟩
  calc ((rootOf (m * 2 ^ k) : ℚ) * (2 : ℚ) ^ ((e - k) / 2)) ^ 2
      = rootOf (m * 2 ^ k) * rootOf (m * 2 ^ k) * ((2 : ℚ) ^ ((e - k) / 2)) ^ 2 := by ring
    _ ≤ m * 2 ^ k * ((2 : ℚ) ^ ((e - k) / 2)) ^ 2 := mul_le_mul_of_nonneg_right hsq (by positivity)
    _ = m * 2 ^ e := by rw [← hhalf]; ring

/-- A large number is hardly above the square below its root. -/
theorem le_sq_of_lt_succ_sq {q : ℚ} {r : Nat} (hq : 2 ^ 140 ≤ q) (h : q < ((r : ℚ) + 1) * (r + 1)) :
    q ≤ (r : ℚ) ^ 2 * (1 + 1 / 2 ^ 60) := by
  have hr : (2 : ℚ) ^ 70 < (r : ℚ) + 1 := by
    refine lt_of_pow_lt_pow_left₀ 2 (by positivity) ?_
    rw [← pow_mul, pow_two]
    exact hq.trans_lt h
  norm_num at hr ⊢
  nlinarith

/-- The square root loses nothing of 60 bits. -/
theorem le_sqrtVal_sq {m : Nat} (e : Int) (more : Bool) (hm : m ≠ 0) :
    number (.fin false m e more) ≤ number (sqrtVal (.fin false m e more)) ^ 2 * (1 + 1 / 2 ^ 60) := by
  rw [sqrtVal_fin e more hm]
  set k : Nat := 140 + (e % 2).toNat with hk
  have hbig : (2 : ℚ) ^ 140 ≤ (m * 2 ^ k : Nat) := by
    have h1 : 2 ^ 140 ≤ m * 2 ^ k :=
      (Nat.pow_le_pow_right two_pos (by omega)).trans (Nat.le_mul_of_pos_left _ (Nat.pos_of_ne_zero hm))
    exact_mod_cast h1
  have hroot := le_sq_of_lt_succ_sq hbig (by exact_mod_cast lt_rootOf_succ_sq (m * 2 ^ k))
  have hhalf : ((2 : ℚ) ^ ((e - k) / 2)) ^ 2 * 2 ^ k = 2 ^ e := half_exponent_sq (by omega)
  rw [Nat.cast_mul, Nat.cast_pow, Nat.cast_ofNat] at hroot
  simp only [number_fin, signOf_false, one_mul]
  calc (m : ℚ) * 2 ^ e = m * 2 ^ k * ((2 : ℚ) ^ ((e - k) / 2)) ^ 2 := by rw [← hhalf]; ring
    _ ≤ (rootOf (m * 2 ^ k) : ℚ) ^ 2 * (1 + 1 / 2 ^ 60) * ((2 : ℚ) ^ ((e - k) / 2)) ^ 2 :=
        mul_le_mul_of_nonneg_right hroot (by positivity)
    _ = _ := by ring

theorem exactArithmetic : ExactArithmetic := by
  rintro rm x y z ⟨a, m, e, rfl⟩ ⟨b, n, g, rfl⟩ ⟨c, k, h, rfl⟩
  refine ⟨⟨(addVal_fin rm a b m n e g false false).1, (addVal_fin rm a b m n e g false false).2⟩,
    ⟨exact_fin _ _ _, number_mulVal_fin a b m n e g false false⟩, ?_, ?_, ?_⟩
  · rw [fmaVal_fin, ← number_mulVal_fin]
    exact ⟨(addVal_fin rm _ _ _ _ _ _ false false).1, (addVal_fin rm _ _ _ _ _ _ false false).2⟩
  · intro hy
    obtain ⟨hle, hcut⟩ := divVal_bounds a b m n e g false false (fun hn => hy (number_eq_zero.mpr hn))
    refine ⟨hle, hcut.trans ?_⟩
    gcongr <;> norm_num
  · intro hx
    have hm : m ≠ 0 := fun hm => hx.ne' (number_eq_zero.mpr hm)
    cases a with
    | false => exact sqrtVal_bounds e false hm
    | true =>
      have : number (.fin true m e false) ≤ 0 := by
        rw [number_fin, signOf_true, neg_one_mul, neg_mul]
        have : (0 : ℚ) ≤ (m : ℚ) * 2 ^ e := by positivity
        linarith
      exact absurd hx this.not_gt

end Sys2Proof.Proofs

/-! What rounding to a float format writes (R85 to R87, R112, R171; of O13). -/

namespace Sys2Proof.Proofs

open Sys2Proof Sys2Proof.Machine Sys2Proof.Stated

/-! ## Cutting at a quantum -/

/-- `y` is q, half a unit more when the guard bit is set, and a rest that `below` tells from nothing. -/
def CutsAs (y : ℚ) (q : Nat) (guard below : Bool) : Prop :=
  ∃ t : ℚ, 0 ≤ t ∧ t < 1 / 2 ∧ y = q + (if guard then 1 / 2 else 0) + t ∧ (below = true ↔ t ≠ 0)

theorem cutsAs_nat (n : Nat) : CutsAs n n false false := ⟨0, le_refl 0, by norm_num, by simp, by simp⟩

/-- A natural number over 2h, by its quotients and its rest. -/
theorem cutsAs_div (m : Nat) {h : Nat} (hh : 0 < h) :
    CutsAs ((m : ℚ) / (2 * h)) (m / (2 * h)) (decide (m / h % 2 = 1)) (decide (m % h ≠ 0)) := by
  have hq : m / (2 * h) = m / h / 2 := by rw [mul_comm, Nat.div_div_eq_div_mul]
  have hpos : (0 : ℚ) < h := by exact_mod_cast hh
  have hrest : ((m % h : Nat) : ℚ) < h := by exact_mod_cast Nat.mod_lt m hh
  have hm : (m : ℚ) = h * (m / h : Nat) + (m % h : Nat) := by exact_mod_cast (Nat.div_add_mod m h).symm
  have hk : ((m / h : Nat) : ℚ) = 2 * (m / h / 2 : Nat) + (m / h % 2 : Nat) := by
    exact_mod_cast (Nat.div_add_mod (m / h) 2).symm
  refine ⟨(m % h : Nat) / (2 * h), by positivity, ?_, ?_, ?_⟩
  · rw [div_lt_div_iff₀ (by positivity) (by norm_num)]
    linarith
  · have hbit : ((m / h % 2 : Nat) : ℚ) / 2 = if decide (m / h % 2 = 1) = true then 1 / 2 else 0 := by
      rcases Nat.mod_two_eq_zero_or_one (m / h) with h0 | h1 <;> simp [*]
    rw [hq, ← hbit]
    rw [hk] at hm
    rw [hm]
    field_simp
  · simp [hh.ne']

theorem cutAt_cuts (m : Nat) (e qe : Int) :
    CutsAs ((m : ℚ) * 2 ^ (e - qe)) (cutAt m e false qe).1 (cutAt m e false qe).2.1 (cutAt m e false qe).2.2 := by
  unfold cutAt
  by_cases he : qe ≤ e
  · rw [if_pos he]
    have : (m : ℚ) * 2 ^ (e - qe) = ((m * 2 ^ (e - qe).toNat : Nat) : ℚ) := by
      rw [Nat.cast_mul, Nat.cast_pow, Nat.cast_ofNat, ← zpow_natCast, Int.toNat_of_nonneg (by omega)]
    rw [this]
    exact cutsAs_nat _
  · rw [if_neg he]
    obtain ⟨d, hd⟩ : ∃ d : Nat, (qe - e).toNat = d + 1 := ⟨(qe - e).toNat - 1, by omega⟩
    have hy : (m : ℚ) * 2 ^ (e - qe) = (m : ℚ) / (2 * (2 ^ d : Nat)) := by
      rw [show e - qe = -((d + 1 : Nat) : ℤ) by omega, zpow_neg, zpow_natCast, ← div_eq_mul_inv, pow_succ']
      push_cast
      rfl
    simp only [hd, Nat.add_sub_cancel]
    rw [hy]
    by_cases hs : m.log2 + 2 < d + 1
    · rw [if_pos hs]
      have hlt : m < 2 ^ d := Nat.lt_log2_self.trans_le (Nat.pow_le_pow_right (by omega) (by omega))
      have := cutsAs_div m (h := 2 ^ d) (by positivity)
      rw [Nat.div_eq_of_lt (by omega : m < 2 * 2 ^ d), Nat.div_eq_of_lt hlt, Nat.mod_eq_of_lt hlt] at this
      rwa [Bool.or_false]
    · rw [if_neg hs, pow_succ']
      exact cutsAs_div m (by positivity)

/-! ## Choosing between two candidates (R85) -/

/-- The candidate c at `a`, or the one that is chosen of it and c + 1 at `b`, for x from `a` on and below `b`. -/
def pick (rm : Nat) (neg : Bool) (c : Nat) (a b x : ℚ) : Nat := if x = a then c else chosen rm neg c (x - a) (b - x)

section Pick

variable {rm : Nat} {neg : Bool} {c : Nat} {a b x : ℚ}

theorem chosen_bounds (lo hi : ℚ) : c ≤ chosen rm neg c lo hi ∧ chosen rm neg c lo hi ≤ c + 1 := by
  unfold chosen
  repeat' split
  all_goals omega

theorem chosen_scale {lo hi u : ℚ} (hu : 0 < u) : chosen rm neg c (lo * u) (hi * u) = chosen rm neg c lo hi := by
  simp only [chosen, mul_lt_mul_iff_left₀ hu, mul_left_inj' hu.ne']

theorem chosen_add_even (k : Nat) (lo hi : ℚ) : chosen rm neg (2 * k + c) lo hi = 2 * k + chosen rm neg c lo hi := by
  unfold chosen
  rw [show (2 * k + c) % 2 = c % 2 by omega]
  repeat' split
  all_goals omega

theorem le_pick : c ≤ pick rm neg c a b x := by
  unfold pick
  split
  · exact le_refl c
  · exact (chosen_bounds _ _).1

theorem pick_le : pick rm neg c a b x ≤ c + 1 := by
  unfold pick
  split
  · omega
  · exact (chosen_bounds _ _).2

theorem pick_scale {u : ℚ} (hu : 0 < u) : pick rm neg c (a * u) (b * u) (x * u) = pick rm neg c a b x := by
  simp only [pick, ← sub_mul, chosen_scale hu, mul_left_inj' hu.ne']

theorem pick_add_even (k : Nat) : pick rm neg (2 * k + c) a b x = 2 * k + pick rm neg c a b x := by
  unfold pick
  rw [chosen_add_even]
  split <;> rfl

theorem pick_same : pick rm neg c a b a = c := if_pos rfl

theorem pick_of_ne (h : x ≠ a) : pick rm neg c a b x = chosen rm neg c (x - a) (b - x) := if_neg h

end Pick

/-- What the guard bit and the rest say of the candidates. -/
theorem CutsAs.facts {y : ℚ} {q : Nat} {g b : Bool} (h : CutsAs y q g b) :
    (y = q ↔ g = false ∧ b = false) ∧ (y - q < q + 1 - y ↔ g = false) ∧ (y - q = q + 1 - y ↔ g = true ∧ b = false) := by
  obtain ⟨t, ht0, ht1, rfl, hb⟩ := h
  have hb' : b = false ↔ t = 0 := by rw [← Bool.not_eq_true, hb, not_not]
  rw [hb']
  cases g
  · refine ⟨by simp, by simp; linarith, by simp; linarith⟩
  · refine ⟨by simp; linarith, by simp; linarith, ⟨fun h => ⟨rfl, ?_⟩, fun h => ?_⟩⟩
    · simp at h; linarith
    · simp [h.2]; norm_num

/-- The rounding step picks as R85 says. -/
theorem roundStep_of_cuts {rm : Nat} (hrm : rm ≤ 5) (neg : Bool) {y : ℚ} {q : Nat} {g b : Bool} (h : CutsAs y q g b) :
    roundStep rm neg q g b = pick rm neg q q (q + 1) y := by
  obtain ⟨hexact, hlow, htie⟩ := h.facts
  simp only [pick, chosen, roundStep, hexact, hlow, htie]
  cases g <;> cases b
  · interval_cases rm <;> simp
  · interval_cases rm <;> cases neg <;> simp
  · rcases Nat.mod_two_eq_zero_or_one q with hq | hq <;> interval_cases rm <;> cases neg <;> simp [hq]
  · interval_cases rm <;> cases neg <;> simp

/-! ## The magnitudes of a format's codes -/

section Magnitudes

variable {F : Fmt}

/-- The exponent field of a magnitude code as it counts: a subnormal has the first normal's. -/
def grade (F : Fmt) (c : Nat) : Nat := max (c / 2 ^ F.fw) 1

/-- The magnitude of a code in quanta. -/
def quanta (F : Fmt) (c : Nat) : Nat := c - (grade F c - 1) * 2 ^ F.fw

/-- The magnitude of a code, for all codes, also those beyond the format's last. -/
def magnitude (F : Fmt) (c : Nat) : ℚ := quanta F c * (2 : ℚ) ^ ((grade F c : ℤ) - F.bias - F.fw)

theorem one_le_grade (c : Nat) : 1 ≤ grade F c := le_max_right _ _

theorem grade_mul_le (c : Nat) : (grade F c - 1) * 2 ^ F.fw ≤ c := by
  unfold grade
  rcases Nat.eq_zero_or_pos (c / 2 ^ F.fw) with h | h
  · simp [h]
  · rw [max_eq_left h]
    exact (Nat.mul_le_mul_right _ (by omega)).trans (Nat.div_mul_le_self c _)

theorem code_eq (c : Nat) : (grade F c - 1) * 2 ^ F.fw + quanta F c = c := Nat.add_sub_cancel' (grade_mul_le c)

theorem grade_of_lt {c : Nat} (h : c < 2 ^ F.fw) : grade F c = 1 := by rw [grade, Nat.div_eq_of_lt h]; rfl

theorem quanta_of_lt {c : Nat} (h : c < 2 ^ F.fw) : quanta F c = c := by simp [quanta, grade_of_lt h]

theorem grade_of_ge {c : Nat} (h : 2 ^ F.fw ≤ c) : grade F c = c / 2 ^ F.fw :=
  max_eq_left ((Nat.one_le_div_iff (by positivity)).mpr h)

theorem quanta_of_ge {c : Nat} (h : 2 ^ F.fw ≤ c) : quanta F c = 2 ^ F.fw + c % 2 ^ F.fw := by
  have h1 := code_eq (F := F) c
  have h2 := Nat.div_add_mod c (2 ^ F.fw)
  have h3 := one_le_grade (F := F) c
  rw [grade_of_ge h] at h1 h3
  obtain ⟨g, hg⟩ := Nat.exists_eq_add_of_le h3
  rw [hg, Nat.add_sub_cancel_left] at h1
  rw [hg] at h2
  nlinarith [h1, h2]

theorem quanta_lt (c : Nat) : quanta F c < 2 * 2 ^ F.fw := by
  rcases lt_or_ge c (2 ^ F.fw) with h | h
  · rw [quanta_of_lt h]; omega
  · have := Nat.mod_lt c (y := 2 ^ F.fw) (by positivity)
    rw [quanta_of_ge h]; omega

theorem le_quanta {c : Nat} (h : 2 ^ F.fw ≤ c) : 2 ^ F.fw ≤ quanta F c := by
  rw [quanta_of_ge h]; omega

/-- The code of `s` quanta of a grade; of twice 2^FW it is the first of the next grade. -/
theorem magnitude_of_quanta {g s : Nat} (hg : 1 ≤ g) (hs : s ≤ 2 * 2 ^ F.fw) (hn : 2 ^ F.fw ≤ s ∨ g = 1) :
    magnitude F ((g - 1) * 2 ^ F.fw + s) = s * (2 : ℚ) ^ ((g : ℤ) - F.bias - F.fw) := by
  obtain ⟨g, rfl⟩ := Nat.exists_eq_add_of_le' hg
  rw [Nat.add_sub_cancel]
  rcases lt_or_ge s (2 ^ F.fw) with h | h
  · obtain rfl : g = 0 := by omega
    rw [Nat.zero_mul, Nat.zero_add, magnitude, quanta_of_lt h, grade_of_lt h]
  · rcases lt_or_ge s (2 * 2 ^ F.fw) with h2 | h2
    · have hgr : grade F (g * 2 ^ F.fw + s) = g + 1 := by
        rw [grade_of_ge (by omega), Nat.mul_comm, Nat.mul_add_div (by positivity)]
        rw [show s / 2 ^ F.fw = 1 from Nat.div_eq_of_lt_le (by omega) (by omega)]
      rw [magnitude, quanta, hgr, Nat.add_sub_cancel, Nat.add_sub_cancel_left]
    · obtain rfl : s = 2 * 2 ^ F.fw := by omega
      have hgr : grade F (g * 2 ^ F.fw + 2 * 2 ^ F.fw) = g + 2 := by
        rw [grade_of_ge (by omega), ← Nat.add_mul, Nat.mul_div_cancel _ (by positivity)]
      rw [magnitude, quanta, hgr, show g * 2 ^ F.fw + 2 * 2 ^ F.fw - (g + 2 - 1) * 2 ^ F.fw = 2 ^ F.fw by
        rw [show g + 2 - 1 = g + 1 from rfl, Nat.add_mul]; omega]
      rw [show ((g + 2 : Nat) : ℤ) - F.bias - F.fw = ((g + 1 : Nat) : ℤ) - F.bias - F.fw + 1 by push_cast; ring,
        zpow_add_one₀ two_ne_zero]
      push_cast
      ring

theorem magnitude_succ (c : Nat) : magnitude F (c + 1) = magnitude F c + (2 : ℚ) ^ ((grade F c : ℤ) - F.bias - F.fw) := by
  have hn : 2 ^ F.fw ≤ quanta F c + 1 ∨ grade F c = 1 := by
    rcases lt_or_ge c (2 ^ F.fw) with h | h
    · exact .inr (grade_of_lt h)
    · exact .inl ((le_quanta h).trans (by omega))
  have := magnitude_of_quanta (F := F) (one_le_grade c) (Nat.succ_le_of_lt (quanta_lt c)) hn
  rw [Nat.succ_eq_add_one, ← Nat.add_assoc, code_eq] at this
  rw [this, magnitude]
  push_cast
  ring

theorem magnitude_eq (c : Nat) : magnitude F c = quanta F c * (2 : ℚ) ^ ((grade F c : ℤ) - F.bias - F.fw) := rfl

theorem magnitude_succ_eq (c : Nat) :
    magnitude F (c + 1) = (quanta F c + 1) * (2 : ℚ) ^ ((grade F c : ℤ) - F.bias - F.fw) := by
  rw [magnitude_succ, magnitude]; ring

theorem magnitude_strictMono : StrictMono (magnitude F) :=
  strictMono_nat_of_lt_succ fun c => by rw [magnitude_succ]; exact lt_add_of_pos_right _ (by positivity)

@[simp] theorem magnitude_zero : magnitude F 0 = 0 := by simp [magnitude, quanta]

theorem magnitude_pow : magnitude F (2 ^ F.fw) = (2 : ℚ) ^ (1 - F.bias) := by
  have := magnitude_of_quanta (F := F) (g := 1) (s := 2 ^ F.fw) le_rfl (by omega) (.inl le_rfl)
  rw [Nat.sub_self, Nat.zero_mul, Nat.zero_add] at this
  rw [this, Nat.cast_pow, Nat.cast_ofNat, ← zpow_natCast, ← zpow_add₀ two_ne_zero]
  congr 1
  push_cast
  ring

/-- The codes grow without bound. -/
theorem le_magnitude (c : Nat) : (c : ℚ) * (2 : ℚ) ^ (1 - F.bias - F.fw) ≤ magnitude F c := by
  induction c with
  | zero => simp
  | succ c ih =>
    have hstep : (2 : ℚ) ^ (1 - F.bias - F.fw) ≤ (2 : ℚ) ^ ((grade F c : ℤ) - F.bias - F.fw) :=
      zpow_le_zpow_right₀ one_le_two (by have := one_le_grade (F := F) c; omega)
    rw [magnitude_succ, Nat.cast_succ, add_mul, one_mul]
    exact add_le_add ih hstep

/-- Every magnitude lies at a code or between it and the next. -/
theorem exists_magnitude_between {x : ℚ} (hx : 0 ≤ x) : ∃ c, magnitude F c ≤ x ∧ x < magnitude F (c + 1) := by
  have hbig : ∃ c, x < magnitude F c := by
    have hu : (0 : ℚ) < (2 : ℚ) ^ (1 - F.bias - F.fw) := by positivity
    obtain ⟨n, hn⟩ := exists_nat_gt (x / (2 : ℚ) ^ (1 - F.bias - F.fw))
    exact ⟨n, ((div_lt_iff₀ hu).mp hn).trans_le (le_magnitude n)⟩
  classical
  have hne : Nat.find hbig ≠ 0 := fun h => by
    have := Nat.find_spec hbig
    rw [h, magnitude_zero] at this
    exact absurd hx this.not_ge
  obtain ⟨c, hc⟩ := Nat.exists_eq_succ_of_ne_zero hne
  exact ⟨c, not_lt.mp (Nat.find_min hbig (by omega)), by rw [← Nat.succ_eq_add_one, ← hc]; exact Nat.find_spec hbig⟩

/-- What a code of no NaN and no infinity reads as. -/
theorem number_readFloat {c : Nat} (h : c < 2 ^ (F.ew + F.fw)) :
    number (readFloat { F with policy := 2 } c) = magnitude F c := by
  have hdiv : c / 2 ^ F.fw < 2 ^ F.ew := by
    rw [Nat.div_lt_iff_lt_mul (by positivity), ← pow_add]; exact h
  have hneg : c / 2 ^ (F.fw + F.ew) = 0 := Nat.div_eq_of_lt (by rwa [add_comm])
  rcases lt_or_ge c (2 ^ F.fw) with hc | hc
  · rw [magnitude, quanta_of_lt hc, grade_of_lt hc]
    simp [readFloat, hneg, Nat.div_eq_of_lt hc, Nat.mod_eq_of_lt hc, number_fin]
  · have hpos : c / 2 ^ F.fw ≠ 0 := (Nat.div_pos hc (by positivity)).ne'
    rw [magnitude, quanta_of_ge hc, grade_of_ge hc]
    simp [readFloat, hneg, Nat.mod_eq_of_lt hdiv, hpos, number_fin]

end Magnitudes

end Sys2Proof.Proofs

/-! Rounding a value to a float format, by its neighbours among the codes (R85 to R87; of O13). -/

namespace Sys2Proof.Proofs

open Sys2Proof Sys2Proof.Machine Sys2Proof.Stated

/-! ## The code of a rounded significand -/

section Assemble

variable {F : Fmt} {rm : Nat} {ov neg : Bool}

/-- The exponent of the quantum at which `roundTo` cuts. -/
def quantumOf (F : Fmt) (m : Nat) (e : Int) : Int :=
  (if F.w ≤ 16 then e + m.log2 else max (e + m.log2) (1 - F.bias)) - F.fw

/-- What `roundTo` makes of the significand `q` in quanta 2^qe. -/
def assemble (F : Fmt) (rm : Nat) (ov neg : Bool) (qe : Int) (q : Nat) : Nat :=
  if q < 2 ^ F.fw then (if F.w ≤ 16 then signed F neg 0 else signed F neg q)
  else
    let carry := q = 2 ^ (F.fw + 1)
    let frac := if carry then 0 else q - 2 ^ F.fw
    let ef : Int := qe + F.fw + F.bias + (if carry then 1 else 0)
    if ef ≤ 0 then signed F neg 0
    else
      let code := ef.toNat * 2 ^ F.fw + frac
      if maxCode F < code then overflowCode F rm ov neg else signed F neg code

/-- What a rounded magnitude code gives: beyond the largest finite one, an overflow. -/
def deliver (F : Fmt) (rm : Nat) (ov neg : Bool) (c : Nat) : Nat :=
  if maxCode F < c then overflowCode F rm ov neg else signed F neg c

theorem roundTo_fin {m : Nat} (e : Int) (more : Bool) (hm : m ≠ 0) :
    roundTo F rm ov (.fin neg m e more) = assemble F rm ov neg (quantumOf F m e)
      (roundStep rm neg (cutAt m e more (quantumOf F m e)).1 (cutAt m e more (quantumOf F m e)).2.1
        (cutAt m e more (quantumOf F m e)).2.2) := by
  have hz : ¬ (decide (m = 0) && !more) = true := by simp [hm]
  rw [roundTo, if_neg hz]
  rfl

theorem assemble_normal {g q : Nat} (hg : 1 ≤ g) (hlow : 2 ^ F.fw ≤ q) {qe : Int}
    (hqe : qe = (g : ℤ) - F.bias - F.fw) :
    assemble F rm ov neg qe q = deliver F rm ov neg ((g - 1) * 2 ^ F.fw + q) := by
  obtain ⟨g, rfl⟩ := Nat.exists_eq_add_of_le' hg
  rw [assemble, if_neg (by omega), deliver, Nat.add_sub_cancel]
  by_cases hc : q = 2 ^ (F.fw + 1)
  · have hef : qe + F.fw + F.bias + 1 = ((g + 2 : Nat) : ℤ) := by rw [hqe]; push_cast; ring
    have hcode : (g + 2) * 2 ^ F.fw = g * 2 ^ F.fw + q := by rw [hc, pow_succ]; ring
    simp only [hc, if_true, hef, Int.toNat_natCast, Nat.add_zero]
    rw [if_neg (by omega), hcode, hc]
  · have hef : qe + F.fw + F.bias + 0 = ((g + 1 : Nat) : ℤ) := by rw [hqe]; push_cast; ring
    have hcode : (g + 1) * 2 ^ F.fw + (q - 2 ^ F.fw) = g * 2 ^ F.fw + q := by rw [Nat.add_mul]; omega
    simp only [hc, if_false, hef, Int.toNat_natCast]
    rw [if_neg (by omega), hcode]

theorem assemble_subnormal {q : Nat} (hw : 16 < F.w) (hq : q < 2 ^ F.fw) (qe : Int) :
    assemble F rm ov neg qe q = signed F neg q := by
  rw [assemble, if_pos hq, if_neg (by omega)]

/-- A narrow format's result below its smallest normal. -/
theorem assemble_flush {q : Nat} {qe : Int} (hlow : 2 ^ F.fw ≤ q)
    (hqe : qe + F.fw + F.bias < 0 ∨ (q < 2 * 2 ^ F.fw ∧ qe + F.fw + F.bias = 0)) :
    assemble F rm ov neg qe q = signed F neg 0 := by
  rw [assemble, if_neg (by omega)]
  have hpow : 2 ^ (F.fw + 1) = 2 * 2 ^ F.fw := pow_succ' 2 _
  by_cases hc : q = 2 ^ (F.fw + 1)
  · simp only [hc, if_true]
    exact if_pos (by omega)
  · simp only [hc, if_false]
    exact if_pos (by omega)

end Assemble

/-! ## The place of a magnitude -/

section Place

variable {m : Nat} {e : Int}

theorem zpow_top_le (hm : m ≠ 0) : (2 : ℚ) ^ (e + m.log2) ≤ (m : ℚ) * 2 ^ e := by
  have : ((2 ^ m.log2 : Nat) : ℚ) ≤ m := by exact_mod_cast Nat.log2_self_le hm
  rw [zpow_add₀ two_ne_zero, mul_comm, zpow_natCast]
  push_cast at this
  exact mul_le_mul_of_nonneg_right this (by positivity)

theorem lt_zpow_top (m : Nat) (e : Int) : (m : ℚ) * 2 ^ e < (2 : ℚ) ^ (e + m.log2 + 1) := by
  have : (m : ℚ) < ((2 ^ (m.log2 + 1) : Nat) : ℚ) := by exact_mod_cast Nat.lt_log2_self
  rw [add_assoc, zpow_add₀ two_ne_zero, mul_comm (2 ^ e)]
  push_cast at this
  exact mul_lt_mul_of_pos_right (by exact_mod_cast this) (by positivity)

theorem top_lt {k : Int} (hm : m ≠ 0) (h : (m : ℚ) * 2 ^ e < (2 : ℚ) ^ k) : e + m.log2 < k :=
  (zpow_lt_zpow_iff_right₀ one_lt_two).mp ((zpow_top_le hm).trans_lt h)

theorem le_top {k : Int} (h : (2 : ℚ) ^ k ≤ (m : ℚ) * 2 ^ e) : k ≤ e + m.log2 :=
  Int.lt_add_one_iff.mp ((zpow_lt_zpow_iff_right₀ (one_lt_two (α := ℚ))).mp (h.trans_lt (lt_zpow_top m e)))

theorem zpow_two_pow (k : Nat) (e : Int) : ((2 ^ k : Nat) : ℚ) * (2 : ℚ) ^ (e - k) = 2 ^ e := by
  rw [Nat.cast_pow, Nat.cast_ofNat, ← zpow_natCast, ← zpow_add₀ two_ne_zero, add_sub_cancel]

end Place

section RoundTo

variable {F : Fmt} {rm : Nat} {ov neg : Bool} {m : Nat} {e : Int}

/-- The code below a magnitude tells the quantum at which it is cut. -/
theorem quantumOf_eq {c : Nat} (hm : m ≠ 0) (hc : 2 ^ F.fw ≤ c ∨ 16 < F.w) (hlow : magnitude F c ≤ (m : ℚ) * 2 ^ e)
    (hhigh : (m : ℚ) * 2 ^ e < magnitude F (c + 1)) : quantumOf F m e = (grade F c : ℤ) - F.bias - F.fw := by
  have hg := one_le_grade (F := F) c
  rcases lt_or_ge c (2 ^ F.fw) with h | h
  · have hw : ¬ F.w ≤ 16 := by omega
    have htop : e + m.log2 < 1 - F.bias := top_lt hm (by
      rw [← magnitude_pow]
      exact hhigh.trans_le (magnitude_strictMono.monotone h))
    rw [quantumOf, if_neg hw, max_eq_right htop.le, grade_of_lt h]
    rfl
  · have h1 : (2 : ℚ) ^ ((grade F c : ℤ) - F.bias) ≤ (m : ℚ) * 2 ^ e := by
      refine le_trans ?_ hlow
      rw [← zpow_two_pow F.fw, magnitude_eq]
      exact mul_le_mul_of_nonneg_right (by exact_mod_cast le_quanta h) (by positivity)
    have h2 : (m : ℚ) * 2 ^ e < (2 : ℚ) ^ ((grade F c : ℤ) - F.bias + 1) := by
      refine hhigh.trans_le ?_
      rw [magnitude_succ_eq, zpow_add_one₀ two_ne_zero, ← zpow_two_pow F.fw ((grade F c : ℤ) - F.bias), mul_right_comm]
      refine mul_le_mul_of_nonneg_right ?_ (by positivity)
      have := quanta_lt (F := F) c
      exact_mod_cast (by omega : quanta F c + 1 ≤ 2 ^ F.fw * 2)
    have htop : e + m.log2 = (grade F c : ℤ) - F.bias :=
      le_antisymm (Int.lt_add_one_iff.mp (top_lt hm h2)) (le_top h1)
    rw [quantumOf, htop]
    split
    · rfl
    · rw [max_eq_left (by omega)]

theorem nat_eq_of_between {q n : Nat} {y : ℚ} (hq : (q : ℚ) ≤ y) (hq' : y < q + 1) (hn : (n : ℚ) ≤ y) (hn' : y < n + 1) :
    q = n := by
  have h1 : (q : ℚ) < ((n + 1 : Nat) : ℚ) := by push_cast; linarith
  have h2 : (n : ℚ) < ((q + 1 : Nat) : ℚ) := by push_cast; linarith
  rw [Nat.cast_lt] at h1 h2
  omega

theorem CutsAs.between {y : ℚ} {q : Nat} {g b : Bool} (h : CutsAs y q g b) : (q : ℚ) ≤ y ∧ y < q + 1 := by
  obtain ⟨t, ht0, ht1, rfl, -⟩ := h
  cases g <;> constructor <;> simp <;> linarith

/-- The significand that `roundTo` rounds to, from the quanta on both sides of the value. -/
theorem roundStep_cutAt (hrm : rm ≤ 5) (qe : Int) {n : Nat} (hlow : (n : ℚ) * 2 ^ qe ≤ (m : ℚ) * 2 ^ e)
    (hhigh : (m : ℚ) * 2 ^ e < (n + 1) * (2 : ℚ) ^ qe) :
    roundStep rm neg (cutAt m e false qe).1 (cutAt m e false qe).2.1 (cutAt m e false qe).2.2
      = pick rm neg n (n * (2 : ℚ) ^ qe) ((n + 1) * (2 : ℚ) ^ qe) ((m : ℚ) * 2 ^ e) := by
  have hcut := cutAt_cuts m e qe
  have hpos : (0 : ℚ) < 2 ^ qe := by positivity
  have hy : (m : ℚ) * 2 ^ (e - qe) * 2 ^ qe = (m : ℚ) * 2 ^ e := by
    rw [mul_assoc, ← zpow_add₀ two_ne_zero, sub_add_cancel]
  obtain ⟨hq, hq'⟩ := hcut.between
  rw [← hy] at hlow hhigh ⊢
  have hn : (cutAt m e false qe).1 = n :=
    nat_eq_of_between hq hq' (le_of_mul_le_mul_right hlow hpos) (lt_of_mul_lt_mul_right hhigh hpos.le)
  rw [roundStep_of_cuts hrm neg hcut, hn, pick_scale hpos]

/-- Rounding a magnitude between two codes gives the one that R85 picks, but no flushed one. -/
theorem roundTo_between (hrm : rm ≤ 5) (hfw : 1 ≤ F.fw) (hM : 2 ^ F.fw ≤ maxCode F) {c : Nat} (hm : m ≠ 0)
    (hc : 2 ^ F.fw ≤ c ∨ 16 < F.w) (hlow : magnitude F c ≤ (m : ℚ) * 2 ^ e)
    (hhigh : (m : ℚ) * 2 ^ e < magnitude F (c + 1)) :
    roundTo F rm ov (.fin neg m e false)
      = deliver F rm ov neg (pick rm neg c (magnitude F c) (magnitude F (c + 1)) ((m : ℚ) * 2 ^ e)) := by
  have hg := one_le_grade (F := F) c
  rw [roundTo_fin e false hm, quantumOf_eq hm hc hlow hhigh]
  rw [magnitude_eq] at hlow ⊢
  rw [magnitude_succ_eq] at hhigh ⊢
  rw [roundStep_cutAt hrm _ hlow hhigh]
  obtain ⟨k, hk⟩ : ∃ k, (grade F c - 1) * 2 ^ F.fw = 2 * k := by
    obtain ⟨f, hf⟩ := Nat.exists_eq_add_of_le' hfw
    exact ⟨(grade F c - 1) * 2 ^ f, by rw [hf, pow_succ]; ring⟩
  have hcode : c = 2 * k + quanta F c := by rw [← hk]; exact (code_eq c).symm
  set a : ℚ := quanta F c * (2 : ℚ) ^ ((grade F c : ℤ) - F.bias - F.fw)
  set b : ℚ := (quanta F c + 1) * (2 : ℚ) ^ ((grade F c : ℤ) - F.bias - F.fw)
  have hpick : pick rm neg c a b (m * 2 ^ e) = 2 * k + pick rm neg (quanta F c) a b (m * 2 ^ e) := by
    rw [← pick_add_even, ← hcode]
  have h1 : quanta F c ≤ pick rm neg (quanta F c) a b (m * 2 ^ e) := le_pick
  have h2 : pick rm neg (quanta F c) a b (m * 2 ^ e) ≤ quanta F c + 1 := pick_le
  have h3 := quanta_lt (F := F) c
  rw [hpick, ← hk]
  rcases lt_or_ge (pick rm neg (quanta F c) a b (m * 2 ^ e)) (2 ^ F.fw) with h | h
  · have hcs : c < 2 ^ F.fw := by
      by_contra hcn
      exact absurd (le_quanta (not_lt.mp hcn)) (by omega)
    rw [assemble_subnormal (by omega) h, deliver, grade_of_lt hcs, Nat.sub_self, Nat.zero_mul, Nat.zero_add,
      if_neg (by omega)]
  · exact assemble_normal hg h rfl

end RoundTo

end Sys2Proof.Proofs

/-! Rounding to a float format, case by case, and rounding to nearest (R81, R85 to R87, R91, R112, R171; of O13). -/

namespace Sys2Proof.Proofs

open Sys2Proof Sys2Proof.Machine Sys2Proof.Stated

/-! ## What a record that passes its check is -/

theorem float_of_check {r : Dword} {F : Fmt} (hF : F = fmtOf r) (hr : checkRecord r = 0) (hk : F.kind = 0) :
    2 ≤ F.ew ∧ F.policy ≤ 2 := by
  subst hF
  unfold checkRecord at hr
  simp only [hk] at hr
  grind

section Codes

variable {F : Fmt} {rm : Nat} {ov neg : Bool}

theorem four_mul_le (hew : 2 ≤ F.ew) : 4 * 2 ^ F.fw ≤ 2 ^ (F.ew + F.fw) := by
  rw [pow_add]
  exact Nat.mul_le_mul_right _ (Nat.pow_le_pow_right (n := 2) (by omega) hew)

theorem maxCode_lt : maxCode F < 2 ^ (F.ew + F.fw) := by
  have h1 : 0 < 2 ^ (F.ew + F.fw) := by positivity
  have h2 : 0 < 2 ^ F.fw := by positivity
  unfold maxCode
  split <;> omega

theorem pow_le_maxCode (hew : 2 ≤ F.ew) : 2 ^ F.fw ≤ maxCode F := by
  have h1 := four_mul_le hew
  have h2 : 0 < 2 ^ F.fw := by positivity
  unfold maxCode
  split <;> omega

theorem signed_eq (mag : Nat) :
    signed F neg mag = if neg = false then mag else if F.sign = true then 2 ^ (F.ew + F.fw) + mag else 0 := by
  cases neg <;> simp [signed, add_comm]

/-- The code of an infinite value, as a magnitude with its sign. -/
theorem infCode_eq (hp : F.policy ≤ 2) :
    infCode F ov neg = signed F neg (if F.policy = 0 then (2 ^ F.ew - 1) * 2 ^ F.fw
      else if F.policy = 1 ∧ ov = false then 2 ^ (F.ew + F.fw) - 1 else maxCode F) := by
  unfold infCode
  obtain h | h | h : F.policy = 0 ∨ F.policy = 1 ∨ F.policy = 2 := by omega
  · simp [h]
  · cases ov
    · cases neg <;> cases hs : F.sign <;> simp [h, hs, nanCode, signed, add_comm]
    · simp [h]
  · simp [h]

/-- The direction in which a result beyond the largest finite value goes to infinity. -/
theorem overflowCode_eq (hrm : rm ≤ 5) (hp : F.policy ≤ 2) :
    overflowCode F rm ov neg = signed F neg (overflowMag F rm ov neg) := by
  unfold overflowCode overflowMag
  obtain h | h | h : F.policy = 0 ∨ F.policy = 1 ∨ F.policy = 2 := by omega
  all_goals
    rw [infCode_eq hp, h]
    interval_cases rm <;> cases ov <;> cases neg <;> simp

theorem signed_unsigned (hs : F.sign = false) (mag : Nat) : signed F true mag = 0 := by simp [signed, hs]

theorem overflowCode_unsigned (hs : F.sign = false) : overflowCode F rm ov true = 0 := by
  have hinf : infCode F ov true = 0 := by
    unfold infCode
    repeat' split
    all_goals first | exact signed_unsigned hs _ | rfl | simp_all
  simp only [overflowCode, signed_unsigned hs, hinf, ite_self]

theorem roundTo_unsigned (hs : F.sign = false) (m : Nat) (e : Int) (more : Bool) :
    roundTo F rm ov (.fin true m e more) = 0 := by
  unfold roundTo
  simp only [signed_unsigned hs, overflowCode_unsigned hs, ite_self]

theorem roundTo_zero (e : Int) : roundTo F rm ov (.fin neg 0 e false) = signed F neg 0 := rfl

/-- The payload of a NaN keeps its leading bits. -/
theorem payload_shift (p w k : Nat) :
    (if w ≤ k then p * 2 ^ (k - w) else p / 2 ^ (w - k)) = p * 2 ^ k / 2 ^ w := by
  split
  next h =>
    obtain ⟨j, rfl⟩ := Nat.exists_eq_add_of_le h
    rw [Nat.add_sub_cancel_left, pow_add, mul_comm (2 ^ w), ← mul_assoc, Nat.mul_div_cancel _ (by positivity)]
  next h =>
    obtain ⟨j, rfl⟩ := Nat.exists_eq_add_of_le (Nat.le_of_not_le h)
    rw [Nat.add_sub_cancel_left, pow_add, mul_comm (2 ^ k), Nat.mul_div_mul_right _ _ (by positivity)]

theorem nanCode_eq (hp : F.policy ≤ 2) (p w : Nat) :
    nanCode F neg p w = if F.policy = 2 then 0
      else (if neg = true ∧ F.sign = true then 2 ^ (F.ew + F.fw) else 0) + (if F.policy = 1 then 2 ^ (F.ew + F.fw) - 1
        else (2 ^ F.ew - 1) * 2 ^ F.fw + 2 ^ (F.fw - 1) + p * 2 ^ (F.fw - 1) / 2 ^ w) := by
  unfold nanCode
  obtain h | h | h : F.policy = 0 ∨ F.policy = 1 ∨ F.policy = 2 := by omega
  · simp only [h, payload_shift, Bool.and_eq_true]
    simp [add_assoc]
  · simp [h]
  · simp [h]

end Codes

/-! ## A value with something below its last digit -/

section Sticky

variable {F : Fmt} {rm : Nat} {ov neg : Bool} {m : Nat}

theorem log2_four_mul_add_one (hm : m ≠ 0) : (4 * m + 1).log2 = m.log2 + 2 := by
  have h1 := Nat.log2_self_le hm
  have h2 : m < 2 ^ (m.log2 + 1) := Nat.lt_log2_self
  rw [Nat.log2_eq_iff (by omega)]
  rw [pow_succ] at h2
  constructor <;> rw [pow_succ, pow_succ] <;> omega

theorem cutAt_of_lt (m : Nat) (e : Int) (more : Bool) (d : Nat) :
    cutAt m e more (e + (d + 1 : Nat)) = if m.log2 + 2 < d + 1 then (0, false, decide (m ≠ 0) || more)
      else (m / 2 ^ (d + 1), decide (m / 2 ^ d % 2 = 1), more || decide (m % 2 ^ d ≠ 0)) := by
  rw [cutAt, if_neg (by omega), show (e + (d + 1 : Nat) - e).toNat = d + 1 by omega]
  rfl

theorem cutAt_sticky {e qe : Int} (hm : m ≠ 0) (hqe : e < qe) : cutAt m e true qe = cutAt (4 * m + 1) (e - 2) false qe := by
  obtain ⟨d, rfl⟩ : ∃ d : Nat, qe = e + (d + 1 : Nat) := ⟨(qe - e - 1).toNat, by omega⟩
  have hquarter : (4 * m + 1) / 4 = m := by omega
  have hfour (k : Nat) : (4 * m + 1) / 2 ^ (k + 2) = m / 2 ^ k := by
    rw [pow_add, mul_comm (2 ^ k), ← Nat.div_div_eq_div_mul, show 2 ^ 2 = 4 from rfl, hquarter]
  have hodd : (4 * m + 1) % 2 ^ (d + 2) ≠ 0 := fun h => by
    have : 2 ∣ 4 * m + 1 := (dvd_pow_self 2 (by omega)).trans (Nat.dvd_of_mod_eq_zero h)
    omega
  rw [cutAt_of_lt, show e + (d + 1 : Nat) = e - 2 + ((d + 2) + 1 : Nat) by push_cast; ring, cutAt_of_lt,
    log2_four_mul_add_one hm, show d + 2 + 1 = d + 1 + 2 from rfl, hfour, hfour, decide_eq_true hodd]
  by_cases hs : m.log2 + 2 < d + 1
  · rw [if_pos hs, if_pos (by omega)]
    simp
  · rw [if_neg hs, if_neg (by omega)]
    simp

theorem roundTo_sticky (e : Int) (hm : 2 ^ (F.fw + 1) ≤ m) :
    roundTo F rm ov (.fin neg m e true) = roundTo F rm ov (.fin neg (4 * m + 1) (e - 2) false) := by
  have hm0 : m ≠ 0 := ((Nat.two_pow_pos _).trans_le hm).ne'
  have hlog : F.fw + 1 ≤ m.log2 := (Nat.le_log2 hm0).mpr hm
  have hq : quantumOf F (4 * m + 1) (e - 2) = quantumOf F m e := by
    rw [quantumOf, quantumOf, log2_four_mul_add_one hm0]
    push_cast
    ring_nf
  have hlt : e < quantumOf F m e := by
    unfold quantumOf
    split <;> omega
  rw [roundTo_fin e true hm0, roundTo_fin (e - 2) false (by omega), hq, cutAt_sticky hm0 hlt]

end Sticky

/-! ## Below the smallest normal of a narrow format (R87) -/

section Narrow

variable {F : Fmt} {rm : Nat} {ov neg : Bool} {m : Nat} {e : Int}

theorem assemble_carry {qe : Int} (hqe : qe + F.fw + F.bias = 0) :
    assemble F rm ov neg qe (2 * 2 ^ F.fw) = deliver F rm ov neg (2 ^ F.fw) := by
  have hpow : 2 * 2 ^ F.fw = 2 ^ (F.fw + 1) := (pow_succ' 2 _).symm
  have hlow : ¬ 2 * 2 ^ F.fw < 2 ^ F.fw := (Nat.le_mul_of_pos_left _ two_pos).not_gt
  rw [assemble, if_neg hlow, deliver]
  simp [hpow, hqe]

theorem exists_quanta (x : ℚ) (hx : 0 ≤ x) (u : ℚ) (hu : 0 < u) : ∃ n : Nat, n * u ≤ x ∧ x < (n + 1) * u :=
  ⟨⌊x / u⌋₊, by rw [← le_div_iff₀ hu]; exact Nat.floor_le (by positivity), by
    rw [← div_lt_iff₀ hu]; exact Nat.lt_floor_add_one _⟩

/-- The value, half below the quantum of the smallest normal, next below the smallest normal. -/
def belowLeast (F : Fmt) : ℚ := magnitude F (2 ^ F.fw) - 2 ^ (-F.bias - (F.fw : ℤ))

theorem belowLeast_eq (F : Fmt) : belowLeast F = (2 * 2 ^ F.fw - 1) * (2 : ℚ) ^ (-F.bias - (F.fw : ℤ)) := by
  have h := zpow_two_pow F.fw (-F.bias)
  push_cast at h
  rw [belowLeast, magnitude_pow, sub_mul, one_mul, mul_assoc, h, show 1 - F.bias = -F.bias + 1 by ring,
    zpow_add_one₀ two_ne_zero, mul_comm]

theorem least_eq (F : Fmt) : magnitude F (2 ^ F.fw) = 2 * 2 ^ F.fw * (2 : ℚ) ^ (-F.bias - (F.fw : ℤ)) := by
  have h := belowLeast_eq F
  rw [belowLeast] at h
  linarith

/-- A magnitude below half the smallest normal lies below the value next to it. -/
theorem le_belowLeast {x : ℚ} (h : x < (2 : ℚ) ^ (-F.bias)) : x ≤ belowLeast F := by
  have h1 : (1 : ℚ) ≤ 2 ^ F.fw := one_le_pow₀ one_le_two
  have h2 : (0 : ℚ) < 2 ^ (-F.bias - (F.fw : ℤ)) := by positivity
  have h3 := zpow_two_pow F.fw (-F.bias)
  push_cast at h3
  rw [belowLeast_eq]
  rw [← h3] at h
  nlinarith

/-- In a narrow format every significand has its first bit. -/
theorem exists_narrow_quanta (hw : F.w ≤ 16) (hm : m ≠ 0) :
    ∃ n : Nat, 2 ^ F.fw ≤ n ∧ n < 2 * 2 ^ F.fw ∧ n * 2 ^ quantumOf F m e ≤ (m : ℚ) * 2 ^ e
      ∧ (m : ℚ) * 2 ^ e < (n + 1) * 2 ^ quantumOf F m e := by
  have hqe : quantumOf F m e = e + m.log2 - F.fw := by rw [quantumOf, if_pos hw]
  obtain ⟨n, hn, hn'⟩ := exists_quanta ((m : ℚ) * 2 ^ e) (by positivity) (2 ^ quantumOf F m e) (by positivity)
  refine ⟨n, ?_, ?_, hn, hn'⟩
  · have h1 := zpow_top_le (e := e) hm
    rw [← zpow_two_pow F.fw, ← hqe] at h1
    have h2 := lt_of_mul_lt_mul_right (h1.trans_lt hn') (by positivity)
    have h3 : 2 ^ F.fw < n + 1 := by exact_mod_cast h2
    omega
  · have h1 := lt_zpow_top m e
    rw [zpow_add_one₀ two_ne_zero, ← zpow_two_pow F.fw (e + m.log2), ← hqe, mul_right_comm] at h1
    have h2 := lt_of_mul_lt_mul_right (hn.trans_lt h1) (by positivity)
    have h3 : n < 2 ^ F.fw * 2 := by exact_mod_cast h2
    omega

/-- Whether a narrow format rounds a magnitude up to its smallest normal. -/
def RoundsUpToLeast (F : Fmt) (rm : Nat) (neg : Bool) (x : ℚ) : Prop :=
  belowLeast F < x
    ∧ chosen rm neg (2 * 2 ^ F.fw - 1) (x - belowLeast F) (magnitude F (2 ^ F.fw) - x) = 2 * 2 ^ F.fw

theorem not_roundsUpToLeast {x : ℚ} (h : x ≤ belowLeast F) : ¬ RoundsUpToLeast F rm neg x := fun hup => absurd h hup.1.not_ge

theorem cast_lastQuanta (k : Nat) : ((2 * 2 ^ k - 1 : Nat) : ℚ) = 2 * 2 ^ k - 1 := by
  have : 1 ≤ 2 ^ k := Nat.one_le_two_pow
  rw [Nat.cast_sub (by omega)]
  push_cast
  ring

/-- The rounding of the last quanta below the smallest normal. -/
theorem assemble_last (hM : 2 ^ F.fw ≤ maxCode F) {qe : Int} (hqe : qe = -F.bias - F.fw) {x : ℚ} (hx : belowLeast F ≤ x)
    [Decidable (RoundsUpToLeast F rm neg x)] :
    assemble F rm ov neg qe (pick rm neg (2 * 2 ^ F.fw - 1) (belowLeast F) (magnitude F (2 ^ F.fw)) x)
      = signed F neg (if RoundsUpToLeast F rm neg x then 2 ^ F.fw else 0) := by
  have hpow1 : 1 ≤ 2 ^ F.fw := Nat.one_le_two_pow
  have hq0 : qe + F.fw + F.bias = 0 := by rw [hqe]; ring
  by_cases heq : x = belowLeast F
  · rw [if_neg (not_roundsUpToLeast heq.le), heq, pick_same, assemble_flush (by omega) (.inr ⟨by omega, hq0⟩)]
  · obtain ⟨hlow, hhigh⟩ : 2 * 2 ^ F.fw - 1 ≤ chosen rm neg (2 * 2 ^ F.fw - 1) (x - belowLeast F) (magnitude F (2 ^ F.fw) - x)
        ∧ chosen rm neg (2 * 2 ^ F.fw - 1) (x - belowLeast F) (magnitude F (2 ^ F.fw) - x) ≤ 2 * 2 ^ F.fw - 1 + 1 :=
      chosen_bounds _ _
    rw [pick_of_ne heq]
    by_cases hup : chosen rm neg (2 * 2 ^ F.fw - 1) (x - belowLeast F) (magnitude F (2 ^ F.fw) - x) = 2 * 2 ^ F.fw
    · rw [if_pos ⟨lt_of_le_of_ne hx (Ne.symm heq), hup⟩, hup, assemble_carry hq0, deliver, if_neg (by omega)]
    · rw [if_neg fun h => hup h.2, assemble_flush (by omega) (.inr ⟨by omega, hq0⟩)]

/-- A narrow format's rounding below its smallest normal: only what is rounded up to the smallest normal is no zero. -/
theorem roundTo_narrow (hrm : rm ≤ 5) (hM : 2 ^ F.fw ≤ maxCode F) (hw : F.w ≤ 16) (hm : m ≠ 0)
    (hx : (m : ℚ) * 2 ^ e < magnitude F (2 ^ F.fw)) [Decidable (RoundsUpToLeast F rm neg (m * 2 ^ e))] :
    roundTo F rm ov (.fin neg m e false)
      = signed F neg (if RoundsUpToLeast F rm neg (m * 2 ^ e) then 2 ^ F.fw else 0) := by
  have hqe : quantumOf F m e = e + m.log2 - F.fw := by rw [quantumOf, if_pos hw]
  have htop : e + m.log2 < 1 - F.bias := top_lt hm (by rwa [magnitude_pow] at hx)
  obtain ⟨n, hlow, hhigh, hn, hn'⟩ := exists_narrow_quanta (e := e) hw hm
  have hle : n ≤ pick rm neg n (n * 2 ^ quantumOf F m e) ((n + 1) * 2 ^ quantumOf F m e) (m * 2 ^ e) := le_pick
  have hpick : pick rm neg n (n * 2 ^ quantumOf F m e) ((n + 1) * 2 ^ quantumOf F m e) (m * 2 ^ e) ≤ n + 1 := pick_le
  rw [roundTo_fin e false hm, roundStep_cutAt hrm _ hn hn']
  rcases lt_or_eq_of_le (show e + m.log2 ≤ -F.bias by omega) with hsmall | hedge
  · have hnear : (m : ℚ) * 2 ^ e ≤ belowLeast F :=
      le_belowLeast ((lt_zpow_top m e).trans_le (zpow_le_zpow_right₀ one_le_two (by omega)))
    rw [assemble_flush (hlow.trans hle) (.inl (by omega)), if_neg (not_roundsUpToLeast hnear)]
  · have hq : quantumOf F m e = -F.bias - F.fw := by rw [hqe, hedge]
    have hnear : belowLeast F = (2 * 2 ^ F.fw - 1 : Nat) * 2 ^ quantumOf F m e := by rw [belowLeast_eq, cast_lastQuanta, hq]
    by_cases hlast : n = 2 * 2 ^ F.fw - 1
    · have hleast : magnitude F (2 ^ F.fw) = ((2 * 2 ^ F.fw - 1 : Nat) + 1) * 2 ^ quantumOf F m e := by
        rw [least_eq, cast_lastQuanta, hq, sub_add_cancel]
      rw [hlast, ← hnear] at hn
      rw [hlast, ← hnear, ← hleast]
      exact assemble_last hM hq hn
    · have hbelow : (m : ℚ) * 2 ^ e ≤ belowLeast F := by
        rw [hnear]
        refine hn'.le.trans (mul_le_mul_of_nonneg_right ?_ (by positivity))
        exact_mod_cast (by omega : n + 1 ≤ 2 * 2 ^ F.fw - 1)
      rw [assemble_flush (hlow.trans hle) (.inr ⟨by omega, by rw [hq]; ring⟩), if_neg (not_roundsUpToLeast hbelow)]

end Narrow

/-! ## The obligation's parts -/

/-- The last code's quantum. -/
theorem magnitude_maxCode_succ {F : Fmt} (hM : 2 ^ F.fw ≤ maxCode F) :
    magnitude F (maxCode F + 1)
      = magnitude F (maxCode F) + (2 : ℚ) ^ (((maxCode F / 2 ^ F.fw : Nat) : ℤ) - F.bias - F.fw) := by
  rw [magnitude_succ, grade_of_ge hM]

theorem number_code {F : Fmt} {c : Nat} (h : c ≤ maxCode F) :
    number (readFloat { F with policy := 2 } c) = magnitude F c := number_readFloat (h.trans_lt maxCode_lt)

section Rounding

variable {F : Fmt} {rm : Nat} {ov neg : Bool} {m : Nat} {e : Int}

theorem roundTo_code (hrm : rm ≤ 5) (hfw : 1 ≤ F.fw) (hM : 2 ^ F.fw ≤ maxCode F) (hm : m ≠ 0) {c : Nat} (hc : c ≤ maxCode F)
    (hwide : 2 ^ F.fw ≤ c ∨ 16 < F.w) (hx : (m : ℚ) * 2 ^ e = magnitude F c) :
    roundTo F rm ov (.fin neg m e false) = signed F neg c := by
  rw [roundTo_between hrm hfw hM hm hwide hx.ge (hx ▸ magnitude_strictMono (Nat.lt_succ_self c)), hx, pick_same, deliver,
    if_neg hc.not_gt]

/-- Strictly between two codes. -/
theorem roundTo_strictly (hrm : rm ≤ 5) (hfw : 1 ≤ F.fw) (hM : 2 ^ F.fw ≤ maxCode F) (hm : m ≠ 0) {c : Nat}
    (hwide : 2 ^ F.fw ≤ c ∨ 16 < F.w) (hlow : magnitude F c < (m : ℚ) * 2 ^ e) (hhigh : (m : ℚ) * 2 ^ e < magnitude F (c + 1)) :
    roundTo F rm ov (.fin neg m e false) = deliver F rm ov neg
      (chosen rm neg c (m * 2 ^ e - magnitude F c) (magnitude F (c + 1) - m * 2 ^ e)) := by
  rw [roundTo_between hrm hfw hM hm hwide hlow.le hhigh, pick_of_ne hlow.ne']

theorem roundTo_beyond (hrm : rm ≤ 5) (hfw : 1 ≤ F.fw) (hM : 2 ^ F.fw ≤ maxCode F) (hm : m ≠ 0)
    (hx : magnitude F (maxCode F + 1) ≤ (m : ℚ) * 2 ^ e) :
    roundTo F rm ov (.fin neg m e false) = overflowCode F rm ov neg := by
  obtain ⟨c, hlow, hhigh⟩ := exists_magnitude_between (F := F) (x := (m : ℚ) * 2 ^ e) (by positivity)
  have hc : maxCode F < c := by
    have := magnitude_strictMono.lt_iff_lt.mp (hx.trans_lt hhigh)
    omega
  rw [roundTo_between hrm hfw hM hm (.inl (by omega)) hlow hhigh, deliver, if_pos (hc.trans_le le_pick)]

/-- The last quanta of a normal and of a subnormal are odd alike. -/
theorem roundsUpToLeast_iff (hfw : 1 ≤ F.fw) {x : ℚ} (h : belowLeast F < x) : RoundsUpToLeast F rm neg x
    ↔ chosen rm neg (2 ^ F.fw - 1) (x - belowLeast F) (magnitude F (2 ^ F.fw) - x) = 2 ^ F.fw := by
  obtain ⟨k, hk⟩ : ∃ k, 2 ^ F.fw = 2 * k := by
    obtain ⟨f, hf⟩ := Nat.exists_eq_add_of_le' hfw
    exact ⟨2 ^ f, by rw [hf, pow_succ']⟩
  have hpow1 : 1 ≤ 2 ^ F.fw := Nat.one_le_two_pow
  have hsum : 2 * 2 ^ F.fw - 1 = 2 * k + (2 ^ F.fw - 1) := by omega
  rw [RoundsUpToLeast, and_iff_right h, hsum, chosen_add_even, ← hk]
  omega

/-- R87's flush, as the statement splits it. -/
theorem roundTo_flush (hrm : rm ≤ 5) (hfw : 1 ≤ F.fw) (hM : 2 ^ F.fw ≤ maxCode F) (hw : F.w ≤ 16) (hm : m ≠ 0) :
    ((m : ℚ) * 2 ^ e ≤ belowLeast F → roundTo F rm ov (.fin neg m e false) = signed F neg 0)
    ∧ (belowLeast F < (m : ℚ) * 2 ^ e → (m : ℚ) * 2 ^ e < magnitude F (2 ^ F.fw) →
        roundTo F rm ov (.fin neg m e false) = signed F neg
          (if chosen rm neg (2 ^ F.fw - 1) (m * 2 ^ e - belowLeast F) (magnitude F (2 ^ F.fw) - m * 2 ^ e) = 2 ^ F.fw
            then 2 ^ F.fw else 0)) := by
  classical
  constructor
  · intro hx
    have hlt : (m : ℚ) * 2 ^ e < magnitude F (2 ^ F.fw) := hx.trans_lt (sub_lt_self _ (by positivity))
    rw [roundTo_narrow hrm hM hw hm hlt, if_neg (not_roundsUpToLeast hx)]
  · intro hx hlt
    rw [roundTo_narrow hrm hM hw hm hlt]
    simp only [roundsUpToLeast_iff hfw hx]

end Rounding

theorem rounding : Rounding := by
  intro r F hF hr hk hfw rm hrm ov neg val code out M ulp least near
  obtain ⟨hew, hpol⟩ := float_of_check hF hr hk
  have hM : 2 ^ F.fw ≤ maxCode F := pow_le_maxCode hew
  have hcode (c : Nat) : signed F neg c = code c := signed_eq c
  have hval {c : Nat} (hc : c ≤ M) : val c = magnitude F c := number_code hc
  have hleast : least = magnitude F (2 ^ F.fw) := hval hM
  have hnear : near = belowLeast F := congrArg (· - (2 : ℚ) ^ (-F.bias - (F.fw : ℤ))) hleast
  have hulp : magnitude F M + ulp = magnitude F (M + 1) := (magnitude_maxCode_succ hM).symm
  refine ⟨fun m e hmpos _ => ?_, fun e => (roundTo_zero e).trans (hcode 0), fun hs hn m e more => ?_, ?_, fun p w _ _ => nanCode_eq hpol p w⟩
  · intro x
    have hm : m ≠ 0 := hmpos.ne'
    refine ⟨fun c hc hwide hx => ?_, fun c hc hwide hlow hhigh => ?_, fun hw => ?_, fun hlow hhigh hch => ?_,
      fun hlow hout => ?_, fun hm2 => roundTo_sticky e hm2⟩
    · rw [hval hc] at hx
      rw [← hcode]
      exact roundTo_code hrm hfw hM hm hc hwide hx
    · rw [hval hc.le] at hlow ⊢
      rw [hval (show c + 1 ≤ M from hc)] at hhigh ⊢
      rw [← hcode]
      exact (roundTo_strictly hrm hfw hM hm hwide hlow hhigh).trans
        (if_neg ((chosen_bounds _ _).2.trans (show c + 1 ≤ M from hc)).not_gt)
    · rw [hleast, hnear, ← hcode, ← hcode]
      exact roundTo_flush hrm hfw hM hw hm
    · rw [hval le_rfl, hulp] at hhigh hch
      rw [hval le_rfl] at hlow
      rw [← hcode]
      refine (roundTo_strictly hrm hfw hM hm (.inl hM) hlow hhigh).trans ?_
      rw [hch, deliver, if_neg (lt_irrefl _)]
    · rw [hval le_rfl, hulp] at hout
      rw [hval le_rfl] at hlow
      rw [← hcode, ← overflowCode_eq hrm hpol]
      rcases le_or_gt (magnitude F (M + 1)) x with hge | hlt
      · exact roundTo_beyond hrm hfw hM hm hge
      · refine (roundTo_strictly hrm hfw hM hm (.inl hM) hlow hlt).trans ?_
        rw [hout.resolve_left hlt.not_ge, deliver, if_pos (Nat.lt_succ_self _)]
  · rw [hn]
    exact roundTo_unsigned hs m e more
  · exact (infCode_eq hpol).trans (hcode _)

/-! ## Rounding to nearest (R112, R171) -/

section Nearest

variable {F : Fmt} {rm : Nat} {ov neg : Bool} {m : Nat} {e : Int}

theorem magAbove_fin (a b : Bool) (m n : Nat) (e g : Int) (u : Bool) :
    magAbove (.fin a m e false) (.fin b n g u) = true ↔ (n : ℚ) * 2 ^ g < (m : ℚ) * 2 ^ e := by
  have hpos : (0 : ℚ) < 2 ^ min e g := by positivity
  rw [zpow_eq_mul_of_le (min_le_left e g), zpow_eq_mul_of_le (min_le_right e g), ← mul_assoc, ← mul_assoc,
    mul_lt_mul_iff_left₀ hpos, ← Nat.cast_mul, ← Nat.cast_mul, Nat.cast_lt]
  simp [magAbove]

/-- The largest finite value is one. -/
theorem maxVal_eq (F : Fmt) : ∃ n g, maxVal F = .fin false n g false := by
  have hneg : maxCode F / 2 ^ (F.fw + F.ew) = 0 := Nat.div_eq_of_lt (by rw [add_comm]; exact maxCode_lt)
  unfold maxVal readFloat
  by_cases h : maxCode F / 2 ^ F.fw % 2 ^ F.ew = 0
  · simp [h, hneg]
  · simp [h, hneg]

theorem magAbove_maxVal : magAbove (.fin neg m e false) (maxVal F) = true ↔ magnitude F (maxCode F) < (m : ℚ) * 2 ^ e := by
  obtain ⟨n, g, hv⟩ := maxVal_eq F
  have hnum : (n : ℚ) * 2 ^ g = magnitude F (maxCode F) := by
    rw [← number_code le_rfl, show readFloat { F with policy := 2 } (maxCode F) = .fin false n g false from hv, number_fin,
      signOf_false, one_mul]
  rw [hv, magAbove_fin, hnum]

/-- A value above the codes' range is beyond the largest finite one. -/
theorem magnitude_maxCode_lt (hM : 2 ^ F.fw ≤ maxCode F) : magnitude F (maxCode F) < (2 : ℚ) ^ ((2 : ℤ) ^ F.ew - F.bias) := by
  have hg : grade F (maxCode F) + 1 ≤ 2 ^ F.ew := by
    rw [grade_of_ge hM]
    exact Nat.div_lt_of_lt_mul (by rw [← pow_add, add_comm]; exact maxCode_lt)
  have hq : (quanta F (maxCode F) : ℚ) < (2 ^ (F.fw + 1) : Nat) := by
    rw [pow_succ']
    exact_mod_cast quanta_lt (F := F) (maxCode F)
  calc magnitude F (maxCode F) < (2 ^ (F.fw + 1) : Nat) * (2 : ℚ) ^ ((grade F (maxCode F) : ℤ) - F.bias - F.fw) :=
        mul_lt_mul_of_pos_right hq (by positivity)
    _ = (2 : ℚ) ^ ((grade F (maxCode F) : ℤ) + 1 - F.bias) := by
        rw [← zpow_two_pow (F.fw + 1) ((grade F (maxCode F) : ℤ) + 1 - F.bias)]
        congr 2
        push_cast
        ring
    _ ≤ _ := zpow_le_zpow_right₀ one_le_two (by
        have : ((grade F (maxCode F) + 1 : Nat) : ℤ) ≤ ((2 ^ F.ew : Nat) : ℤ) := by exact_mod_cast hg
        push_cast at this
        omega)

theorem roundNearest_fin (hm : m ≠ 0) : roundNearest F rm ov (.fin neg m e false)
    = if 2 ^ F.ew - F.bias < e + m.log2 then roundTo F rm ov (.fin neg m e false)
      else if e + m.log2 < 1 - F.bias - F.fw then roundTo F rm ov (.fin neg m e false)
      else if magAbove (.fin neg m e false) (maxVal F) then roundTo F rm ov (.fin neg m e false)
      else roundTo F 0 ov (.fin neg m e false) := by
  rw [roundNearest, if_neg hm]

end Nearest

theorem nearestRounding : NearestRounding := by
  intro r F hF hr hk rm _ ov neg m e hmpos x top tiny
  obtain ⟨hew, -⟩ := float_of_check hF hr hk
  have hM : 2 ^ F.fw ≤ maxCode F := pow_le_maxCode hew
  have hm : m ≠ 0 := hmpos.ne'
  have htop : top = magnitude F (maxCode F) := number_code le_rfl
  rw [roundNearest_fin hm]
  constructor
  · intro hlow hhigh
    rw [htop] at hhigh
    have h1 := top_lt hm (hhigh.trans_lt (magnitude_maxCode_lt hM))
    have h2 := le_top hlow
    have h3 : ¬ magAbove (.fin neg m e false) (maxVal F) = true := fun h => absurd (magAbove_maxVal.mp h) hhigh.not_gt
    rw [if_neg h1.not_gt, if_neg h2.not_gt, if_neg h3]
  · rintro (hsmall | hlarge)
    · rw [if_pos (top_lt hm hsmall), ite_self]
    · rw [htop] at hlarge
      rw [if_pos (magAbove_maxVal.mpr hlarge), ite_self, ite_self]

end Sys2Proof.Proofs

/-! How near the exponential element function lies to 2^x (R112; of O13). -/

namespace Sys2Proof.Proofs

open Sys2Proof Sys2Proof.Machine Sys2Proof.Stated

/-! ## The scale of the element functions' fixed-point numbers -/

/-- 2^320, the scale of the fixed-point numbers. -/
noncomputable def unit320 : ℝ := ((2 ^ 320 : Nat) : ℝ)

theorem unit320_eq : unit320 = (2 : ℝ) ^ 320 := by rw [unit320, Nat.cast_pow, Nat.cast_ofNat]

theorem two_pow_320_pos : 0 < 2 ^ 320 := by positivity

theorem unit320_pos : 0 < unit320 := by rw [unit320_eq]; positivity

theorem le_unit320 : 2 ^ 256 ≤ unit320 := by
  rw [unit320_eq]
  exact pow_le_pow_right₀ one_le_two (by norm_num)

/-- The natural number below a quotient of natural numbers, by less than 1. -/
theorem nat_div_near (a : Nat) {b : Nat} (hb : 0 < b) : ((a / b : Nat) : ℝ) ≤ a / b ∧ (a : ℝ) / b < (a / b : Nat) + 1 :=
  ⟨Nat.cast_div_le, by
    rw [div_lt_iff₀ (by exact_mod_cast hb), mul_comm]
    exact_mod_cast Nat.lt_mul_div_succ a hb⟩

theorem div_unit_near (a : Nat) :
    ((a / 2 ^ 320 : Nat) : ℝ) ≤ a / unit320 ∧ (a : ℝ) / unit320 < (a / 2 ^ 320 : Nat) + 1 :=
  nat_div_near a two_pow_320_pos

/-! ## The series -/

section Series

/-- The n-th term of the exponential series. -/
noncomputable def expTerm (z : ℝ) (n : Nat) : ℝ := z ^ n / n.factorial

theorem expTerm_succ (z : ℝ) (n : Nat) : expTerm z (n + 1) = expTerm z n * z / (n + 1) := by
  rw [expTerm, expTerm, Nat.factorial_succ, pow_succ]
  push_cast
  field_simp

variable {y : Nat} {z : ℝ}

/-- One step of the scaled series loses less than 2 units. -/
theorem nextTerm_near (hz : z = y / unit320) (n t : Nat) :
    let t' : ℝ := ((t * y / 2 ^ 320 / (n + 1) : Nat) : ℝ)
    t' ≤ t * z / (n + 1) ∧ t * z / (n + 1) - 2 ≤ t' := by
  intro t'
  obtain ⟨h1, h2⟩ := div_unit_near (t * y)
  obtain ⟨h3, h4⟩ := nat_div_near (t * y / 2 ^ 320) (b := n + 1) (by omega)
  have hprod : ((t * y : Nat) : ℝ) / unit320 = t * z := by rw [hz, Nat.cast_mul, mul_div_assoc]
  rw [hprod] at h1 h2
  rw [Nat.cast_succ] at h3 h4
  have hpos : (0 : ℝ) < n + 1 := by positivity
  refine ⟨h3.trans (div_le_div_of_nonneg_right h1 hpos.le), ?_⟩
  have h5 : (t * z - 1) / (n + 1) ≤ ((t * y / 2 ^ 320 : Nat) : ℝ) / (n + 1) :=
    div_le_div_of_nonneg_right (by linarith) hpos.le
  have h6 : (1 : ℝ) / (n + 1) ≤ 1 := by rw [div_le_one hpos]; linarith [(Nat.cast_nonneg n : (0 : ℝ) ≤ n)]
  rw [sub_div] at h5
  linarith

/-- The scaled series from a term on, given within `c` units. -/
theorem expSeries_near (hz : z = y / unit320) (hz1 : z ≤ 1) : ∀ (fuel n t c : Nat),
    (t : ℝ) ≤ unit320 * expTerm z n → unit320 * expTerm z n - c ≤ t →
    (expSeries y fuel n t : ℝ) ≤ unit320 * ∑ k ∈ Finset.range fuel, expTerm z (n + k)
      ∧ unit320 * ∑ k ∈ Finset.range fuel, expTerm z (n + k) - fuel * (c + 2 * fuel) ≤ expSeries y fuel n t
  | 0, n, t, c, _, _ => by simp [expSeries]
  | fuel + 1, n, t, c, hhigh, hlow => by
    have hz0 : 0 ≤ z := by rw [hz]; exact div_nonneg (Nat.cast_nonneg y) unit320_pos.le
    have hpos : (0 : ℝ) < n + 1 := by positivity
    obtain ⟨h1, h2⟩ := nextTerm_near hz n t
    have hscale : unit320 * expTerm z (n + 1) = unit320 * expTerm z n * z / (n + 1) := by rw [expTerm_succ]; ring
    have hup : (t : ℝ) * z / (n + 1) ≤ unit320 * expTerm z (n + 1) := by
      rw [hscale]
      exact div_le_div_of_nonneg_right (mul_le_mul_of_nonneg_right hhigh hz0) hpos.le
    have hdown : unit320 * expTerm z (n + 1) - c ≤ (t : ℝ) * z / (n + 1) := by
      have h3 : (unit320 * expTerm z n - t) * z / (n + 1) ≤ c := by
        rw [div_le_iff₀ hpos]
        nlinarith [(Nat.cast_nonneg n : (0 : ℝ) ≤ n), (Nat.cast_nonneg c : (0 : ℝ) ≤ c), mul_nonneg (Nat.cast_nonneg c) hz0,
          mul_nonneg (Nat.cast_nonneg (α := ℝ) c) (Nat.cast_nonneg (α := ℝ) n)]
      rw [hscale]
      rw [sub_mul, sub_div] at h3
      linarith
    obtain ⟨ih1, ih2⟩ := expSeries_near hz hz1 fuel (n + 1) (t * y / 2 ^ 320 / (n + 1)) (c + 2) (h1.trans hup)
      (by rw [Nat.cast_add c 2, Nat.cast_ofNat]; linarith)
    have hsum : ∑ k ∈ Finset.range (fuel + 1), expTerm z (n + k)
        = ∑ k ∈ Finset.range fuel, expTerm z (n + 1 + k) + expTerm z n := by
      rw [Finset.sum_range_succ']
      simp only [Nat.add_zero, Nat.add_assoc, Nat.add_comm 1]
    rw [expSeries, hsum, Nat.cast_add, Nat.cast_succ]
    rw [Nat.cast_add c 2, Nat.cast_ofNat] at ih2
    constructor
    · linarith
    · nlinarith [(Nat.cast_nonneg fuel : (0 : ℝ) ≤ fuel), (Nat.cast_nonneg c : (0 : ℝ) ≤ c)]

/-- The model's series is near the exponential, and at least 1. -/
theorem expSeries_near_exp (hz : z = y / unit320) (hz1 : z ≤ 1) :
    let t : ℝ := (expSeries y 90 0 (2 ^ 320) : ℝ) / unit320
    |Real.exp z - t| ≤ 1 / 2 ^ 38 := by
  intro t
  have hz0 : 0 ≤ z := by rw [hz]; exact div_nonneg (Nat.cast_nonneg y) unit320_pos.le
  have hfirst : ((2 ^ 320 : Nat) : ℝ) = unit320 * expTerm z 0 := by
    simp only [expTerm, pow_zero, Nat.factorial_zero, Nat.cast_one, div_one, mul_one, unit320]
  obtain ⟨h1, h2⟩ := expSeries_near hz hz1 90 0 (2 ^ 320) 0 (hfirst.le) (by rw [Nat.cast_zero, sub_zero]; exact hfirst.ge)
  have hexp := Real.exp_bound (x := z) (by rwa [abs_of_nonneg hz0]) (n := 90) (by norm_num)
  have hrest : |z| ^ 90 * ((Nat.succ 90 : ℝ) / ((Nat.factorial 90 : ℝ) * (90 : Nat))) ≤ 1 / 2 ^ 40 := by
    have : |z| ^ 90 ≤ 1 := pow_le_one₀ (abs_nonneg z) (by rwa [abs_of_nonneg hz0])
    refine (mul_le_of_le_one_left (by positivity) this).trans ?_
    norm_num [Nat.factorial]
  simp only [Nat.zero_add] at h1 h2
  have hS : ∑ k ∈ Finset.range 90, expTerm z k = ∑ k ∈ Finset.range 90, z ^ k / k.factorial := rfl
  rw [hS] at h1 h2
  set s := ∑ k ∈ Finset.range 90, z ^ k / (k.factorial : ℝ)
  have ht1 : t ≤ s := by rw [div_le_iff₀ unit320_pos]; linarith
  have ht2 : s - 1 / 2 ^ 40 ≤ t := by
    have := le_unit320
    rw [le_div_iff₀ unit320_pos]
    simp only [Nat.cast_ofNat, Nat.cast_zero] at h2
    linarith
  rw [abs_le] at hexp ⊢
  constructor <;> linarith [hexp.1, hexp.2]

theorem one_le_expSeries (y fuel n : Nat) : 2 ^ 320 ≤ expSeries y (fuel + 1) n (2 ^ 320) := Nat.le_add_right _ _

end Series

/-! ## The fixed-point number below a value -/

section Fixed

/-- The scaled magnitude, cut to a natural number. -/
def scaledDown (m : Nat) (e : Int) : Nat :=
  if 0 ≤ e + 320 then m * 2 ^ (e + 320).toNat else m / 2 ^ (-(e + 320)).toNat

theorem scaledDown_near (m : Nat) (e : Int) :
    (scaledDown m e : ℝ) ≤ (m : ℝ) * 2 ^ e * unit320 ∧ (m : ℝ) * 2 ^ e * unit320 < scaledDown m e + 1 := by
  have hscale : (2 : ℝ) ^ e * unit320 = (2 : ℝ) ^ (e + 320) := by rw [unit320_eq, zpow_add₀ two_ne_zero]; rfl
  rw [mul_assoc, hscale, scaledDown]
  by_cases he : 0 ≤ e + 320
  · obtain ⟨d, hd⟩ := Int.eq_ofNat_of_zero_le he
    rw [if_pos he, hd, Int.toNat_natCast, zpow_natCast, Nat.cast_mul, Nat.cast_pow, Nat.cast_ofNat]
    exact ⟨le_rfl, lt_add_one _⟩
  · obtain ⟨d, hd⟩ := Int.eq_ofNat_of_zero_le (show 0 ≤ -(e + 320) by omega)
    have hneg : e + 320 = -(d : ℤ) := by omega
    have h := nat_div_near m (b := 2 ^ d) (by positivity)
    rw [Nat.cast_pow, Nat.cast_ofNat] at h
    rw [if_neg he, hd, Int.toNat_natCast, hneg, zpow_neg, zpow_natCast, ← div_eq_mul_inv]
    exact h

/-- The fixed-point number at or below a value. -/
def fixedBelow (neg : Bool) (m : Nat) (e : Int) : Int := if neg then -(scaledDown m e : Int) - 1 else scaledDown m e

theorem fixedBelow_near (neg : Bool) (m : Nat) (e : Int) (more : Bool) :
    let x : ℝ := ((number (.fin neg m e more) : ℚ) : ℝ)
    (fixedBelow neg m e : ℝ) ≤ x * unit320 ∧ x * unit320 ≤ fixedBelow neg m e + 1 := by
  intro x
  obtain ⟨h1, h2⟩ := scaledDown_near m e
  have hx : x = (signOf neg : ℚ) * ((m : ℝ) * 2 ^ e) := by
    simp only [x, number_fin, Rat.cast_mul, Rat.cast_natCast, Rat.cast_zpow, Rat.cast_ofNat, mul_assoc]
  rw [hx]
  cases neg
  · simp only [signOf_false, Rat.cast_one, one_mul, fixedBelow, Bool.false_eq_true, if_false, Int.cast_natCast]
    exact ⟨h1, h2.le⟩
  · simp only [signOf_true, Rat.cast_neg, Rat.cast_one, fixedBelow, if_true, Int.cast_sub, Int.cast_neg, Int.cast_natCast,
      Int.cast_one]
    constructor <;> linarith

end Fixed

/-! ## The exponential of a fraction -/

section Fraction

theorem ln2Scaled_near : |Real.log 2 - ln2Scaled / unit320| ≤ 1 / 10 ^ 9 := by
  have hsplit : 2 ^ 320 = 2 ^ 160 * 2 ^ 160 := by rw [← pow_add]
  have hlow : 6931471803 * 2 ^ 320 ≤ ln2Scaled * 10 ^ 10 := by rw [hsplit, ln2Scaled]; norm_num
  have hhigh : ln2Scaled * 10 ^ 10 ≤ 6931471808 * 2 ^ 320 := by rw [hsplit, ln2Scaled]; norm_num
  have hlow' : 0.6931471803 ≤ ln2Scaled / unit320 := by
    have : ((6931471803 * 2 ^ 320 : Nat) : ℝ) ≤ (ln2Scaled * 10 ^ 10 : Nat) := Nat.cast_le.mpr hlow
    rw [Nat.cast_mul, ← unit320, Nat.cast_mul, Nat.cast_pow, Nat.cast_ofNat, Nat.cast_ofNat] at this
    rw [le_div_iff₀ unit320_pos]
    linarith
  have hhigh' : ln2Scaled / unit320 ≤ 0.6931471808 := by
    have : ((ln2Scaled * 10 ^ 10 : Nat) : ℝ) ≤ (6931471808 * 2 ^ 320 : Nat) := Nat.cast_le.mpr hhigh
    rw [Nat.cast_mul, Nat.cast_mul, ← unit320, Nat.cast_pow, Nat.cast_ofNat, Nat.cast_ofNat] at this
    rw [div_le_iff₀ unit320_pos]
    linarith
  have h1 := Real.log_two_gt_d9
  have h2 := Real.log_two_lt_d9
  rw [abs_le]
  constructor <;> linarith

/-- The exponential of numbers in [0, 1] that lie near each other. -/
theorem exp_near {w z : ℝ} (hz1 : z ≤ 1) (hwz : |w - z| ≤ 1 / 2 ^ 29) : |Real.exp w - Real.exp z| ≤ 1 / 2 ^ 26 := by
  have hu : |w - z| ≤ 1 := hwz.trans (by norm_num)
  have hexp : Real.exp z ≤ 4 := (Real.exp_le_exp.mpr hz1).trans (Real.exp_one_lt_three.le.trans (by norm_num))
  have hdiff : Real.exp w - Real.exp z = Real.exp z * (Real.exp (w - z) - 1) := by
    rw [mul_sub, ← Real.exp_add, mul_one, add_sub_cancel]
  rw [hdiff, abs_mul, abs_of_pos (Real.exp_pos z)]
  calc Real.exp z * |Real.exp (w - z) - 1| ≤ 4 * (2 * (1 / 2 ^ 29)) :=
        mul_le_mul hexp ((Real.abs_exp_sub_one_le hu).trans (by linarith)) (abs_nonneg _) (by norm_num)
    _ = 1 / 2 ^ 26 := by norm_num

/-- The exponents of 2^v and of the series, for a fraction f at most u below v and a product at most u above its y. -/
theorem exponent_near {f v y u L : ℝ} (hf0 : 0 ≤ f) (hf1 : f ≤ 1) (hL : |Real.log 2 - L| ≤ 1 / 10 ^ 9)
    (hu : u ≤ 1 / 10 ^ 12) (hlow : f ≤ v) (hhigh : v ≤ f + u) (hy1 : y ≤ f * L) (hy2 : f * L ≤ y + u) :
    |Real.log 2 * v - y| ≤ 1 / 2 ^ 29 := by
  have hlog0 : 0 < Real.log 2 := Real.log_pos one_lt_two
  have hlog1 : Real.log 2 ≤ 1 := Real.log_two_lt_d9.le.trans (by norm_num)
  have h1 : |f * (Real.log 2 - L)| ≤ 1 / 10 ^ 9 := by
    rw [abs_mul, abs_of_nonneg hf0]
    exact (mul_le_of_le_one_left (abs_nonneg _) hf1).trans hL
  have h2 : 0 ≤ Real.log 2 * (v - f) := mul_nonneg hlog0.le (by linarith)
  have h3 : Real.log 2 * (v - f) ≤ u := (mul_le_of_le_one_left (by linarith) hlog1).trans (by linarith)
  have hsum : Real.log 2 * v - y = f * (Real.log 2 - L) + Real.log 2 * (v - f) + (f * L - y) := by ring
  rw [abs_le] at h1
  rw [hsum, abs_le]
  norm_num at h1 hu ⊢
  constructor <;> linarith [h1.1, h1.2]

/-- The scaled exponential of a fixed-point fraction r, for what lies at most a unit above it. -/
theorem expSeries_near_two_rpow {r y : Nat} (hy1 : (y : ℝ) ≤ (r * ln2Scaled : Nat) / unit320)
    (hy2 : ((r * ln2Scaled : Nat) : ℝ) / unit320 < y + 1) (hr : (r : ℝ) ≤ unit320) {v : ℝ} (hlow : r / unit320 ≤ v)
    (hhigh : v ≤ r / unit320 + 1 / unit320) :
    |(2 : ℝ) ^ v - expSeries y 90 0 (2 ^ 320) / unit320| ≤ 1 / 2 ^ 25 := by
  have hS0 := unit320_pos
  have hunit : 1 / unit320 ≤ 1 / 10 ^ 12 := one_div_le_one_div_of_le (by norm_num) (le_trans (by norm_num) le_unit320)
  have hf0 : 0 ≤ r / unit320 := by positivity
  have hf1 : r / unit320 ≤ 1 := (div_le_one hS0).mpr hr
  have hL1 : ln2Scaled / unit320 ≤ 1 := by linarith [(abs_le.mp ln2Scaled_near).1, Real.log_two_lt_d9]
  have hprod : ((r * ln2Scaled : Nat) : ℝ) / unit320 = r / unit320 * (ln2Scaled / unit320) * unit320 := by
    rw [Nat.cast_mul, mul_assoc, div_mul_cancel₀ _ hS0.ne', div_mul_eq_mul_div]
  rw [hprod] at hy1 hy2
  have hz1 : y / unit320 ≤ r / unit320 * (ln2Scaled / unit320) := (div_le_iff₀ hS0).mpr hy1
  have hz2 : r / unit320 * (ln2Scaled / unit320) ≤ y / unit320 + 1 / unit320 := by
    rw [← add_div, le_div_iff₀ hS0]
    exact hy2.le
  have hzone : y / unit320 ≤ 1 := hz1.trans (mul_le_one₀ hf1 (by positivity) hL1)
  have hexp := exp_near hzone (exponent_near hf0 hf1 ln2Scaled_near hunit hlow hhigh hz1 hz2)
  have hseries := expSeries_near_exp (y := y) rfl hzone
  rw [Real.rpow_def_of_pos two_pos]
  exact (abs_sub_le _ _ _).trans ((add_le_add hexp hseries).trans (by norm_num))

/-- R112: 2^x for an x that is no integer. -/
theorem exp2Frac_near (neg : Bool) (m : Nat) (e : Int) (more : Bool) : ∃ k j, exp2Frac neg m e = .fin false k j true
    ∧ |(2 : ℝ) ^ ((number (.fin neg m e more) : ℚ) : ℝ) - (k : ℝ) * (2 : ℝ) ^ (j : ℤ)|
      ≤ (k : ℝ) * (2 : ℝ) ^ (j : ℤ) / 2 ^ 24 := by
  set i := fixedBelow neg m e with hi
  set n : Int := i / ((2 ^ 320 : Nat) : Int) with hn
  set r : Nat := (i % ((2 ^ 320 : Nat) : Int)).toNat with hr
  set k := expSeries (r * ln2Scaled / 2 ^ 320) 90 0 (2 ^ 320) with hk
  refine ⟨k, n - 320, rfl, ?_⟩
  have hS0 := unit320_pos
  have hpos : (0 : Int) < ((2 ^ 320 : Nat) : Int) := Int.natCast_pos.mpr (two_pow_320_pos)
  have hmod := Int.emod_nonneg i hpos.ne'
  have hlt : (r : ℝ) ≤ unit320 := by
    have := Int.emod_lt_of_pos i hpos
    rw [← Int.toNat_of_nonneg hmod] at this
    exact Nat.cast_le.mpr (Int.ofNat_lt.mp this).le
  have hsplit : (i : ℝ) = n * unit320 + r := by
    have h1 : i = n * ((2 ^ 320 : Nat) : Int) + (r : Int) := by
      rw [hr, Int.toNat_of_nonneg hmod, hn, mul_comm]
      exact (Int.mul_ediv_add_emod i _).symm
    calc (i : ℝ) = ((n * ((2 ^ 320 : Nat) : Int) + (r : Int) : Int) : ℝ) := congrArg _ h1
      _ = n * unit320 + r := by rw [Int.cast_add, Int.cast_mul, Int.cast_natCast, Int.cast_natCast, unit320]
  obtain ⟨h1, h2⟩ := fixedBelow_near neg m e more
  set x : ℝ := ((number (.fin neg m e more) : ℚ) : ℝ)
  rw [← hi, hsplit] at h1 h2
  have hlow : r / unit320 ≤ x - n := by rw [div_le_iff₀ hS0]; linarith
  have hhigh : x - n ≤ r / unit320 + 1 / unit320 := by rw [← add_div, le_div_iff₀ hS0]; linarith
  obtain ⟨hy1, hy2⟩ := div_unit_near (r * ln2Scaled)
  have hnear := expSeries_near_two_rpow hy1 hy2 hlt hlow hhigh
  have hone : 1 ≤ k / unit320 := by
    rw [one_le_div hS0, unit320]
    exact_mod_cast one_le_expSeries (r * ln2Scaled / 2 ^ 320) 89 0
  have hpow : (2 : ℝ) ^ x = (2 : ℝ) ^ n * (2 : ℝ) ^ (x - n) := by
    rw [← Real.rpow_intCast, ← Real.rpow_add two_pos, add_sub_cancel]
  have hval : (k : ℝ) * (2 : ℝ) ^ (n - 320) = (2 : ℝ) ^ n * (k / unit320) := by
    rw [zpow_sub₀ two_ne_zero, unit320_eq]
    field_simp
  have hn0 : (0 : ℝ) < 2 ^ n := by positivity
  rw [hpow, hval, ← mul_sub, abs_mul, abs_of_pos hn0, mul_div_assoc]
  refine mul_le_mul_of_nonneg_left (hnear.trans ?_) hn0.le
  have : (1 : ℝ) / 2 ^ 25 ≤ 1 / 2 ^ 24 := by norm_num
  exact this.trans (div_le_div_of_nonneg_right hone (by positivity))

end Fraction

end Sys2Proof.Proofs

/-! How near the logarithm's element function lies to log2 x (R171; of O13). -/

namespace Sys2Proof.Proofs

open Sys2Proof Sys2Proof.Machine Sys2Proof.Stated

/-! ## Logarithms of numbers cut to the scale -/

/-- Cutting a number of at least 2^320 to a natural number hardly changes its logarithm. -/
theorem logb_cut {q : Nat} {v : ℝ} (hq : unit320 ≤ q) (hlow : (q : ℝ) ≤ v) (hhigh : v < q + 1) :
    Real.logb 2 q ≤ Real.logb 2 v ∧ Real.logb 2 v ≤ Real.logb 2 q + 2 / unit320 := by
  have hS0 := unit320_pos
  have hq0 : (0 : ℝ) < q := hS0.trans_le hq
  have hv0 : 0 < v := hq0.trans_le hlow
  refine ⟨Real.logb_le_logb_of_le one_lt_two hq0 hlow, ?_⟩
  have hratio : Real.log (v / q) ≤ 1 / unit320 := by
    refine (Real.log_le_sub_one_of_pos (by positivity)).trans ?_
    rw [div_sub_one hq0.ne']
    exact (div_le_div_of_nonneg_right (by linarith) hq0.le).trans (one_div_le_one_div_of_le hS0 hq)
  have hlog : 1 / 2 ≤ Real.log 2 := (by norm_num : (1 / 2 : ℝ) ≤ 0.6931471803).trans Real.log_two_gt_d9.le
  have hdiff : Real.logb 2 v - Real.logb 2 q = Real.log (v / q) / Real.log 2 := by
    rw [← Real.logb_div hv0.ne' hq0.ne', Real.logb]
  have : Real.log (v / q) / Real.log 2 ≤ 2 / unit320 := by
    rw [div_le_iff₀ (by linarith)]
    calc Real.log (v / q) ≤ 2 / unit320 * (1 / 2) := by
          rwa [div_mul_div_comm, mul_one, div_mul_cancel_right₀ two_ne_zero, ← one_div]
      _ ≤ 2 / unit320 * Real.log 2 := mul_le_mul_of_nonneg_left hlog (by positivity)
  linarith

/-- The logarithm of a scaled number of [1, 2). -/
noncomputable def scaledLog (y : Nat) : ℝ := Real.logb 2 (y / unit320)

theorem scaledLog_eq {y : Nat} (hy : 2 ^ 320 ≤ y) : scaledLog y = Real.logb 2 y - Real.logb 2 unit320 := by
  have : y ≠ 0 := (lt_of_lt_of_le two_pow_320_pos hy).ne'
  rw [scaledLog, Real.logb_div (Nat.cast_ne_zero.mpr this) unit320_pos.ne']

theorem unit_le_cast {y : Nat} (hy : 2 ^ 320 ≤ y) : unit320 ≤ y := Nat.cast_le.mpr hy

theorem scaledLog_mem {y : Nat} (hy : 2 ^ 320 ≤ y) (hy2 : y < 2 * 2 ^ 320) : 0 ≤ scaledLog y ∧ scaledLog y ≤ 1 := by
  have hS0 := unit320_pos
  have h1 := unit_le_cast hy
  have h2 : (y : ℝ) ≤ (2 * 2 ^ 320 : Nat) := Nat.cast_le.mpr hy2.le
  rw [Nat.cast_mul, Nat.cast_ofNat, ← unit320] at h2
  refine ⟨Real.logb_nonneg one_lt_two ((one_le_div hS0).mpr h1), ?_⟩
  rw [← Real.logb_self_eq_one one_lt_two]
  exact Real.logb_le_logb_of_le one_lt_two (div_pos (hS0.trans_le h1) hS0) ((div_le_iff₀ hS0).mpr h2)

/-! ## The bits of a logarithm -/

theorem le_half {a q : Nat} (h : 2 * a ≤ q) : a ≤ q / 2 := by omega

theorem square_div_lt {a y : Nat} (ha : 0 < a) (h : y < 2 * a) : y * y / a < 2 * (2 * a) := by
  rw [Nat.div_lt_iff_lt_mul ha]
  calc y * y < (2 * a) * (2 * a) := Nat.mul_self_lt_mul_self h
    _ = 2 * (2 * a) * a := by ring

/-- The square of a scaled number, cut. -/
theorem two_mul_scaledLog {y : Nat} (hy : 2 ^ 320 ≤ y) :
    let q := y * y / 2 ^ 320
    2 ^ 320 ≤ q ∧ scaledLog q ≤ 2 * scaledLog y ∧ 2 * scaledLog y ≤ scaledLog q + 2 / unit320 := by
  intro q
  have hS0 := unit320_pos
  have hq : 2 ^ 320 ≤ q := (Nat.le_div_iff_mul_le two_pow_320_pos).mpr (Nat.mul_le_mul hy hy)
  obtain ⟨h1, h2⟩ := div_unit_near (y * y)
  obtain ⟨h3, h4⟩ := logb_cut (unit_le_cast hq) h1 h2
  have hy0 : (y : ℝ) ≠ 0 := (hS0.trans_le (unit_le_cast hy)).ne'
  have hsq : Real.logb 2 ((y * y : Nat) / unit320) = 2 * Real.logb 2 y - Real.logb 2 unit320 := by
    rw [Real.logb_div (by rw [Nat.cast_mul]; exact mul_ne_zero hy0 hy0) hS0.ne', Nat.cast_mul, Real.logb_mul hy0 hy0, two_mul]
  rw [hsq] at h3 h4
  rw [scaledLog_eq hy, scaledLog_eq hq]
  refine ⟨hq, ?_, ?_⟩ <;> linarith

/-- Half of a scaled number, cut. -/
theorem scaledLog_half {q : Nat} (hq : 2 * 2 ^ 320 ≤ q) :
    2 ^ 320 ≤ q / 2 ∧ scaledLog (q / 2) ≤ scaledLog q - 1 ∧ scaledLog q - 1 ≤ scaledLog (q / 2) + 2 / unit320 := by
  have hhalf : 2 ^ 320 ≤ q / 2 := le_half hq
  have hq1 : 2 ^ 320 ≤ q := (le_half hq).trans (Nat.div_le_self q 2)
  have hq0 : (q : ℝ) ≠ 0 := (unit320_pos.trans_le (unit_le_cast hq1)).ne'
  obtain ⟨h1, h2⟩ := nat_div_near q (b := 2) two_pos
  obtain ⟨h3, h4⟩ := logb_cut (unit_le_cast hhalf) h1 h2
  rw [Nat.cast_ofNat, Real.logb_div hq0 two_ne_zero, Real.logb_self_eq_one one_lt_two] at h3 h4
  rw [scaledLog_eq hhalf, scaledLog_eq hq1]
  refine ⟨hhalf, ?_, ?_⟩ <;> linarith

/-- One bit of a logarithm: the next scaled number. -/
theorem log2Bits_step {y : Nat} (hy : 2 ^ 320 ≤ y) (hy2 : y < 2 * 2 ^ 320) (fuel acc : Nat) :
    ∃ y' bit : Nat, log2Bits (fuel + 1) y acc = log2Bits fuel y' (2 * acc + bit) ∧ 2 ^ 320 ≤ y' ∧ y' < 2 * 2 ^ 320
      ∧ bit + scaledLog y' ≤ 2 * scaledLog y ∧ 2 * scaledLog y ≤ bit + scaledLog y' + 4 / unit320 := by
  obtain ⟨hq, h1, h2⟩ := two_mul_scaledLog hy
  have hpow : 2 ^ 321 = 2 * 2 ^ 320 := by rw [← pow_succ']
  have hquot : 2 / unit320 + 2 / unit320 = 4 / unit320 := by rw [← add_div]; norm_num
  have hnonneg : 0 ≤ 2 / unit320 := (div_pos two_pos unit320_pos).le
  have hlt : y * y / 2 ^ 320 < 2 * (2 * 2 ^ 320) := square_div_lt two_pow_320_pos hy2
  rw [log2Bits]
  simp only [hpow]
  set q := y * y / 2 ^ 320
  by_cases hbit : 2 * 2 ^ 320 ≤ q
  · obtain ⟨h3, h4, h5⟩ := scaledLog_half hbit
    rw [if_pos hbit]
    exact ⟨q / 2, 1, rfl, h3, (Nat.div_lt_iff_lt_mul two_pos).mpr (by rwa [mul_comm]),
      by rw [Nat.cast_one]; linarith, by rw [Nat.cast_one]; linarith⟩
  · rw [if_neg hbit]
    exact ⟨q, 0, rfl, hq, not_le.mp hbit, by rw [Nat.cast_zero]; linarith, by rw [Nat.cast_zero]; linarith⟩

/-- The bits found are those of the logarithm, but for what the cuts took away. -/
theorem log2Bits_near : ∀ (fuel y acc : Nat), 2 ^ 320 ≤ y → y < 2 * 2 ^ 320 →
    (log2Bits fuel y acc : ℝ) ≤ 2 ^ fuel * (acc + scaledLog y)
      ∧ 2 ^ fuel * (acc + scaledLog y) ≤ log2Bits fuel y acc + 1 + 2 ^ fuel * (4 / unit320)
  | 0, y, acc, hy, hy2 => by
    obtain ⟨h0, h1⟩ := scaledLog_mem hy hy2
    have : 0 ≤ 4 / unit320 := (div_pos (by norm_num) unit320_pos).le
    rw [log2Bits, pow_zero, one_mul, one_mul]
    constructor <;> linarith
  | fuel + 1, y, acc, hy, hy2 => by
    obtain ⟨y', bit, heq, h1, h2, h3, h4⟩ := log2Bits_step hy hy2 fuel acc
    obtain ⟨ih1, ih2⟩ := log2Bits_near fuel y' (2 * acc + bit) h1 h2
    have hpos : (0 : ℝ) < 2 ^ fuel := by positivity
    have hlow := mul_le_mul_of_nonneg_left h3 hpos.le
    have hhigh := mul_le_mul_of_nonneg_left h4 hpos.le
    rw [Nat.cast_add, Nat.cast_mul, Nat.cast_ofNat] at ih1 ih2
    rw [heq, pow_succ]
    constructor <;> linarith

/-! ## The logarithm of a value -/

/-- The scaled significand of a value. -/
def significand320 (m : Nat) : Nat := if m.log2 ≤ 320 then m * 2 ^ (320 - m.log2) else m / 2 ^ (m.log2 - 320)

/-- The significand lies in [1, 2). -/
theorem significand320_mem {m : Nat} (hm : m ≠ 0) : 2 ^ 320 ≤ significand320 m ∧ significand320 m < 2 * 2 ^ 320 := by
  have h1 := Nat.log2_self_le hm
  have h2 : m < 2 ^ (m.log2 + 1) := Nat.lt_log2_self
  unfold significand320
  by_cases hl : m.log2 ≤ 320
  · have hsum : 2 ^ 320 = 2 ^ m.log2 * 2 ^ (320 - m.log2) := by rw [← pow_add, Nat.add_sub_cancel' hl]
    rw [if_pos hl, hsum, ← mul_assoc]
    rw [pow_succ'] at h2
    exact ⟨Nat.mul_le_mul_right _ h1, Nat.mul_lt_mul_of_pos_right h2 (by positivity)⟩
  · have hsum : 2 ^ m.log2 = 2 ^ 320 * 2 ^ (m.log2 - 320) := by rw [← pow_add, Nat.add_sub_cancel' (by omega)]
    rw [if_neg hl, Nat.le_div_iff_mul_le (by positivity), Nat.div_lt_iff_lt_mul (by positivity)]
    rw [pow_succ', hsum, ← mul_assoc] at h2
    exact ⟨hsum ▸ h1, h2⟩

theorem significand320_cut (m : Nat) : (significand320 m : ℝ) ≤ m * unit320 / 2 ^ m.log2
    ∧ m * unit320 / 2 ^ m.log2 < significand320 m + 1 := by
  unfold significand320
  by_cases hl : m.log2 ≤ 320
  · have hsum : unit320 = 2 ^ (320 - m.log2) * 2 ^ m.log2 := by rw [unit320_eq, ← pow_add, Nat.sub_add_cancel hl]
    rw [if_pos hl, hsum, ← mul_assoc, mul_div_cancel_right₀ _ (by positivity), Nat.cast_mul, Nat.cast_pow, Nat.cast_ofNat]
    exact ⟨le_rfl, lt_add_one _⟩
  · have hsum : (2 : ℝ) ^ m.log2 = 2 ^ (m.log2 - 320) * unit320 := by
      rw [unit320_eq, ← pow_add, Nat.sub_add_cancel (by omega)]
    have h := nat_div_near m (b := 2 ^ (m.log2 - 320)) (by positivity)
    rw [Nat.cast_pow, Nat.cast_ofNat] at h
    rw [if_neg hl, hsum, mul_div_mul_right _ _ unit320_pos.ne']
    exact h

theorem scaledLog_significand {m : Nat} (hm : m ≠ 0) : scaledLog (significand320 m) ≤ Real.logb 2 m - m.log2
    ∧ Real.logb 2 m - m.log2 ≤ scaledLog (significand320 m) + 2 / unit320 := by
  have hmem := (significand320_mem hm).1
  have hm0 : (m : ℝ) ≠ 0 := Nat.cast_ne_zero.mpr hm
  obtain ⟨h1, h2⟩ := significand320_cut m
  obtain ⟨h3, h4⟩ := logb_cut (unit_le_cast hmem) h1 h2
  rw [Real.logb_div (mul_ne_zero hm0 unit320_pos.ne') (by positivity), Real.logb_mul hm0 unit320_pos.ne', Real.logb_pow,
    Real.logb_self_eq_one one_lt_two, mul_one] at h3 h4
  rw [scaledLog_eq hmem]
  constructor <;> linarith

/-- The logarithm in units of 2^-260, cut. -/
def log2Units (m : Nat) (e : Int) : Int :=
  (e + m.log2) * ((2 ^ 260 : Nat) : Int) + log2Bits 260 (significand320 m) 0

theorem log2Val_fin {m : Nat} (e : Int) (more : Bool) (hm : m ≠ 0) (hpow : m ≠ 2 ^ m.log2) :
    log2Val (.fin false m e more) = if log2Units m e < 0
      then (.fin true ((log2Units m e).natAbs - 1) (-260) true, false)
      else (.fin false (log2Units m e).natAbs (-260) true, false) := by
  rw [log2Val, if_neg hm, if_neg Bool.false_ne_true]
  exact if_neg hpow

/-- The number that `log2Val` finds is the cut one or the next above it. -/
theorem number_log2Val {m : Nat} (e : Int) (more : Bool) (hm : m ≠ 0) (hpow : m ≠ 2 ^ m.log2) :
    ∃ d : ℝ, 0 ≤ d ∧ d ≤ 1
      ∧ ((number (log2Val (.fin false m e more)).1 : ℚ) : ℝ) = (log2Units m e + d) * (2 : ℝ) ^ (-260 : ℤ) := by
  rw [log2Val_fin e more hm hpow]
  generalize log2Units m e = i
  by_cases hi : i < 0
  · have habs : ((i.natAbs - 1 : Nat) : ℝ) = -(i + 1) := by
      rw [← Int.cast_natCast, show ((i.natAbs - 1 : Nat) : ℤ) = -(i + 1) by omega]
      push_cast
      ring
    refine ⟨1, zero_le_one, le_rfl, ?_⟩
    rw [if_pos hi, number_fin, signOf_true, Rat.cast_mul, Rat.cast_mul, Rat.cast_natCast, habs, Rat.cast_zpow]
    push_cast
    ring
  · have habs : ((i.natAbs : Nat) : ℝ) = i := by
      rw [← Int.cast_natCast, show ((i.natAbs : Nat) : ℤ) = i by omega]
    refine ⟨0, le_rfl, zero_le_one, ?_⟩
    rw [if_neg hi, number_fin, signOf_false, Rat.cast_mul, Rat.cast_mul, Rat.cast_natCast, habs, Rat.cast_zpow]
    push_cast
    ring

/-- The logarithm of a significand and its bits, an exponent and one unit apart. -/
theorem units_near {g l k d t p u : ℝ} (hp : p = 2 ^ 260) (hu1 : u ≤ 1 / 2 ^ 254) (hl1 : g ≤ l) (hl2 : l ≤ g + u)
    (hk1 : k ≤ p * g) (hk2 : p * g ≤ k + 1 + p * (2 * u)) (hd0 : 0 ≤ d) (hd1 : d ≤ 1) :
    |t + l - (t * p + k + d) * p⁻¹| ≤ 1 / 2 ^ 250 := by
  have hp0 : 0 < p := by rw [hp]; positivity
  have hinv : p⁻¹ ≤ 1 / 2 ^ 256 := by
    rw [hp, ← one_div]
    exact one_div_le_one_div_of_le (by positivity) (pow_le_pow_right₀ one_le_two (by omega))
  have hinv0 : 0 < p⁻¹ := inv_pos.mpr hp0
  have h1 : k * p⁻¹ ≤ g := by rw [← div_eq_mul_inv, div_le_iff₀ hp0, mul_comm]; exact hk1
  have h2 : g ≤ k * p⁻¹ + p⁻¹ + 2 * u := by
    have := mul_le_mul_of_nonneg_right hk2 hinv0.le
    rw [mul_comm p g, mul_inv_cancel_right₀ hp0.ne', add_mul, add_mul, one_mul, mul_comm p, mul_inv_cancel_right₀ hp0.ne'] at this
    exact this
  have h3 : d * p⁻¹ ≤ p⁻¹ := mul_le_of_le_one_left hinv0.le hd1
  have h4 : 0 ≤ d * p⁻¹ := by positivity
  have hexp : (t * p + k + d) * p⁻¹ = t + k * p⁻¹ + d * p⁻¹ := by
    rw [add_mul, add_mul, mul_inv_cancel_right₀ hp0.ne']
  rw [hexp, abs_le]
  norm_num at hinv hu1 ⊢
  constructor <;> linarith

/-- R171: log2 x for an x that is no power of two. -/
theorem log2Val_near {m : Nat} (e : Int) (hm : m ≠ 0) (hpow : m ≠ 2 ^ m.log2) :
    (log2Val (.fin false m e false)).2 = false
      ∧ |Real.logb 2 ((number (.fin false m e false) : ℚ) : ℝ) - ((number (log2Val (.fin false m e false)).1 : ℚ) : ℝ)|
        ≤ 1 / 2 ^ 250 := by
  refine ⟨by rw [log2Val_fin e false hm hpow]; split <;> rfl, ?_⟩
  have hm0 : (m : ℝ) ≠ 0 := Nat.cast_ne_zero.mpr hm
  obtain ⟨h1, h2⟩ := scaledLog_significand hm
  obtain ⟨hmem1, hmem2⟩ := significand320_mem hm
  obtain ⟨h3, h4⟩ := log2Bits_near 260 (significand320 m) 0 hmem1 hmem2
  obtain ⟨d, hd0, hd1, hnum⟩ := number_log2Val e false hm hpow
  have hu1 : 2 / unit320 ≤ 1 / 2 ^ 254 := by
    rw [div_le_div_iff₀ unit320_pos (by positivity)]
    have := le_unit320
    norm_num at this ⊢
    linarith
  have hlog : Real.logb 2 ((number (.fin false m e false) : ℚ) : ℝ)
      = ((e + m.log2 : Int) : ℝ) + (Real.logb 2 m - m.log2) := by
    rw [number_fin, signOf_false, one_mul, Rat.cast_mul, Rat.cast_natCast, Rat.cast_zpow, Rat.cast_ofNat,
      Real.logb_mul hm0 (by positivity), ← Real.rpow_intCast, Real.logb_rpow two_pos (by norm_num)]
    push_cast
    ring
  have hunits : ((log2Units m e : Int) : ℝ)
      = ((e + m.log2 : Int) : ℝ) * (2 : ℝ) ^ 260 + log2Bits 260 (significand320 m) 0 := by
    rw [log2Units, Int.cast_add, Int.cast_mul, Int.cast_natCast, Int.cast_natCast, Nat.cast_pow, Nat.cast_ofNat]
  have hinv : (2 : ℝ) ^ (-260 : ℤ) = ((2 : ℝ) ^ 260)⁻¹ := by rw [zpow_neg]; rfl
  rw [Nat.cast_zero, zero_add] at h3 h4
  rw [hnum, hlog, hunits, hinv]
  refine units_near rfl hu1 h1 h2 h3 ?_ hd0 hd1
  rw [← mul_div_assoc 2 2, show (2 : ℝ) * 2 = 4 by norm_num]
  exact h4

end Sys2Proof.Proofs

/-! The element functions (R112, R171), and scalar floating point as a whole (O13). -/

namespace Sys2Proof.Proofs

open Sys2Proof Sys2Proof.Machine Sys2Proof.Stated

/-! ## Values that are integers -/

section Integers

variable {neg : Bool} {m : Nat} {e : Int}

/-- How the model tells that a value has no fraction. -/
def HasNoFraction (m : Nat) (e : Int) : Prop := 0 ≤ e ∨ m % 2 ^ (-e).toNat = 0

theorem zpow_of_neg {e : Int} (he : e < 0) : (2 : ℚ) ^ e = ((2 ^ (-e).toNat : Nat) : ℚ)⁻¹ := by
  rw [Nat.cast_pow, Nat.cast_ofNat, ← zpow_natCast, ← zpow_neg, Int.toNat_of_nonneg (by omega), neg_neg]

theorem toInt_eq (h : HasNoFraction m e) : ((Val.toInt (.fin neg m e false) : ℤ) : ℚ) = number (.fin neg m e false) := by
  have habs : (((if 0 ≤ e then ((m * 2 ^ e.toNat : Nat) : Int) else ((m / 2 ^ (-e).toNat : Nat) : Int)) : ℤ) : ℚ)
      = (m : ℚ) * 2 ^ e := by
    by_cases he : 0 ≤ e
    · rw [if_pos he, Int.cast_natCast, Nat.cast_mul, Nat.cast_pow, Nat.cast_ofNat, ← zpow_natCast, Int.toNat_of_nonneg he]
    · rw [if_neg he, zpow_of_neg (by omega), Int.cast_natCast,
        Nat.cast_div (Nat.dvd_of_mod_eq_zero (h.resolve_left he)) (by positivity), div_eq_mul_inv]
  rw [number_fin, mul_assoc, ← habs, Val.toInt]
  generalize (if 0 ≤ e then ((m * 2 ^ e.toNat : Nat) : Int) else ((m / 2 ^ (-e).toNat : Nat) : Int)) = n
  cases neg <;> simp

theorem hasNoFraction_of_int {i : Int} (h : number (.fin neg m e false) = i) : HasNoFraction m e := by
  by_cases he : 0 ≤ e
  · exact .inl he
  · refine .inr (Nat.mod_eq_zero_of_dvd ⟨i.natAbs, ?_⟩)
    have habs := abs_number_fin neg m e false
    rw [h, zpow_of_neg (by omega), ← div_eq_mul_inv, eq_div_iff (by positivity)] at habs
    have : ((i.natAbs * 2 ^ (-e).toNat : Nat) : ℚ) = m := by
      rw [Nat.cast_mul, Nat.cast_natAbs, Int.cast_abs]
      exact habs
    rw [mul_comm]
    exact_mod_cast this.symm

end Integers

/-! ## 2^x (R112) -/

section Exp2

variable {neg : Bool} {m : Nat} {e : Int}

theorem top_lt_of_abs {k : Nat} (hm : m ≠ 0) (h : |number (.fin neg m e false)| < 2 ^ k) : e + m.log2 < k := by
  rw [abs_number_fin, ← zpow_natCast] at h
  exact top_lt hm h

theorem exp2Val_fin (hm : m ≠ 0) (htop : ¬ 14 < e + m.log2) : exp2Val (.fin neg m e false)
    = if 0 ≤ e || m % 2 ^ (-e).toNat = 0 then (.fin false 1 (Val.toInt (.fin neg m e false)) false, true)
      else (exp2Frac neg m e, false) := by
  rw [exp2Val, if_neg hm, if_neg htop]

theorem exp2Val_int (hm : m ≠ 0) {i : Int} (hi : number (.fin neg m e false) = i)
    (hx : |number (.fin neg m e false)| < 2 ^ 15) : exp2Val (.fin neg m e false) = (.fin false 1 i false, true) := by
  have htop := top_lt_of_abs hm hx
  have hint := hasNoFraction_of_int hi
  have hval : Val.toInt (.fin neg m e false) = i := by
    have := toInt_eq (neg := neg) hint
    rw [hi] at this
    exact_mod_cast this
  have hcond : (decide (0 ≤ e) || decide (m % 2 ^ (-e).toNat = 0)) = true := by
    rw [Bool.or_eq_true, decide_eq_true_iff, decide_eq_true_iff]
    exact hint
  rw [exp2Val_fin hm (by omega), if_pos hcond, hval]

theorem exp2Val_fraction (hm : m ≠ 0) (hi : ∀ i : ℤ, number (.fin neg m e false) ≠ i)
    (hx : |number (.fin neg m e false)| < 2 ^ 15) : exp2Val (.fin neg m e false) = (exp2Frac neg m e, false) := by
  have htop := top_lt_of_abs hm hx
  have hcond : ¬ (decide (0 ≤ e) || decide (m % 2 ^ (-e).toNat = 0)) = true := by
    rw [Bool.or_eq_true, decide_eq_true_iff, decide_eq_true_iff]
    exact fun hint => hi _ (toInt_eq hint).symm
  rw [exp2Val_fin hm (by omega), if_neg hcond]

theorem exp2Val_large (hm : m ≠ 0) (hx : 2 ^ 15 ≤ |number (.fin neg m e false)|) :
    exp2Val (.fin neg m e false) = (.fin false 1 (if neg then -(2 ^ 14) else 2 ^ 14) true, false) := by
  have htop : ((15 : Nat) : ℤ) ≤ e + m.log2 := by
    rw [abs_number_fin, ← zpow_natCast] at hx
    exact le_top hx
  rw [exp2Val, if_neg hm, if_pos (by omega)]

end Exp2

/-! ## log2 x (R171) -/

section Log2

variable {neg : Bool} {m : Nat} {e : Int}

theorem number_pow (e : Int) (h : m = 2 ^ m.log2) : number (.fin false m e false) = (2 : ℚ) ^ (e + m.log2) := by
  rw [number_fin, signOf_false, one_mul, zpow_add₀ two_ne_zero, mul_comm, zpow_natCast]
  congr 1
  exact_mod_cast h

/-- A power of two is one bit, and no negative number. -/
theorem of_number_eq_zpow {i : Int} (hm : m ≠ 0) (h : number (.fin neg m e false) = (2 : ℚ) ^ i) :
    neg = false ∧ m = 2 ^ m.log2 ∧ e + m.log2 = i := by
  have hmag : (m : ℚ) * 2 ^ e = 2 ^ i := by
    rw [← abs_number_fin neg m e false, h, abs_of_pos (by positivity)]
  have htop : e + m.log2 = i := by
    refine le_antisymm (Int.lt_add_one_iff.mp (top_lt hm ?_)) (le_top hmag.ge)
    rw [hmag]
    exact zpow_lt_zpow_right₀ one_lt_two (by omega)
  refine ⟨?_, ?_, htop⟩
  · cases neg
    · rfl
    · have h1 : (0 : ℚ) < 2 ^ i := by positivity
      rw [number_fin, signOf_true, mul_assoc, hmag] at h
      linarith
  · rw [← htop, zpow_add₀ two_ne_zero, mul_comm, zpow_natCast] at hmag
    have := mul_left_cancel₀ (by positivity) hmag
    exact_mod_cast this

theorem log2Val_pow (hm : m ≠ 0) {i : Int} (h : number (.fin neg m e false) = (2 : ℚ) ^ i) :
    log2Val (.fin neg m e false) = (valOfInt i, true) := by
  obtain ⟨rfl, hpow, htop⟩ := of_number_eq_zpow hm h
  rw [log2Val, if_neg hm, if_neg Bool.false_ne_true, ← htop]
  exact if_pos hpow

end Log2

/-! ## 1 / x (R171) -/

theorem number_rcpVal {m : Nat} (neg : Bool) (e : Int) (hm : m ≠ 0) :
    number (rcpVal (.fin neg m e false)) * number (.fin neg m e false)
      = |number (rcpVal (.fin neg m e false))| * |number (.fin neg m e false)| := by
  rw [show rcpVal (.fin neg m e false) = _ from divVal_fin false neg 0 e false false one_ne_zero hm, abs_number_fin,
    abs_number_fin, number_fin, number_fin]
  cases neg <;> simp

theorem rcpVal_bounds {m : Nat} (neg : Bool) (e : Int) (hm : m ≠ 0) :
    let p := number (rcpVal (.fin neg m e false)) * number (.fin neg m e false)
    0 ≤ p ∧ p ≤ 1 ∧ 1 ≤ p * (1 + 1 / 2 ^ 60) := by
  intro p
  obtain ⟨hle, hcut⟩ := divVal_bounds false neg 1 m 0 e false false hm
  have hone : number (.fin false 1 0 false) = 1 := by simp [number_fin]
  have hx : 0 < |number (.fin neg m e false)| := abs_pos.mpr (fun h => hm (number_eq_zero.mp h))
  have hp : p = _ := number_rcpVal neg e hm
  change |number (rcpVal (.fin neg m e false))| ≤ _ at hle
  change _ - |number (rcpVal (.fin neg m e false))| ≤ _ at hcut
  rw [hone, abs_div, abs_one] at hle hcut
  have h1 := mul_le_mul_of_nonneg_right hle hx.le
  have h2 := mul_le_mul_of_nonneg_right hcut hx.le
  rw [sub_mul, div_mul_eq_mul_div _ (2 ^ 69), div_mul_cancel₀ _ hx.ne'] at h2
  rw [div_mul_cancel₀ _ hx.ne'] at h1
  rw [← hp] at h1 h2
  refine ⟨by rw [hp]; positivity, h1, ?_⟩
  norm_num at h2 ⊢
  linarith

/-! ## 1 / √x (R171) -/

section Rsq

variable {m : Nat}

/-- The radicand of the reciprocal root: an even power of two over the significand. -/
def radicand (n : Nat) : Nat := 2 ^ (2 * (140 + n.log2)) / n

theorem rsqVal_fin (e : Int) (hm : m ≠ 0) :
    let odd := (e % 2).toNat
    let n := m * 2 ^ odd
    ∃ more, rsqVal (.fin false m e false)
      = .fin false (rootOf (radicand n)) (-((e - odd) / 2) - (140 + n.log2 : Nat)) more := by
  intro odd n
  rw [rsqVal, if_neg hm, if_neg Bool.false_ne_true]
  exact ⟨_, rfl⟩

/-- The square of the root over the power of two, times the significand. -/
theorem rootOf_radicand {n : Nat} (hn : n ≠ 0) :
    let p := (rootOf (radicand n) : ℚ) ^ 2 * n / 2 ^ (2 * (140 + n.log2))
    p ≤ 1 ∧ 1 ≤ p * (1 + 1 / 2 ^ 60) := by
  intro p
  have hn0 : (0 : ℚ) < n := by exact_mod_cast Nat.pos_of_ne_zero hn
  have hpow : (0 : ℚ) < 2 ^ (2 * (140 + n.log2)) := by positivity
  have hcast : ((2 ^ (2 * (140 + n.log2)) : Nat) : ℚ) = 2 ^ (2 * (140 + n.log2)) := by push_cast; rfl
  have hle : (rootOf (radicand n) : ℚ) ^ 2 ≤ 2 ^ (2 * (140 + n.log2)) / n := by
    have h1 : ((rootOf (radicand n) * rootOf (radicand n) : Nat) : ℚ) ≤ (radicand n : ℚ) := Nat.cast_le.mpr (rootOf_sq_le _)
    rw [Nat.cast_mul, ← pow_two] at h1
    exact h1.trans (hcast ▸ div_le_of_nat (2 ^ (2 * (140 + n.log2))) n)
  have hlt : (2 : ℚ) ^ (2 * (140 + n.log2)) / n < ((rootOf (radicand n) : ℚ) + 1) * (rootOf (radicand n) + 1) := by
    refine (hcast ▸ lt_nat_div_add_one (2 ^ (2 * (140 + n.log2))) hn).trans_le ?_
    exact_mod_cast Nat.succ_le_of_lt (lt_rootOf_succ_sq (radicand n))
  have hbig : (2 : ℚ) ^ 140 ≤ 2 ^ (2 * (140 + n.log2)) / n := by
    rw [le_div_iff₀ hn0]
    have h1 : (n : ℚ) ≤ 2 ^ (n.log2 + 1) := by exact_mod_cast (Nat.lt_log2_self (n := n)).le
    calc (2 : ℚ) ^ 140 * n ≤ 2 ^ 140 * 2 ^ (n.log2 + 1) := mul_le_mul_of_nonneg_left h1 (by positivity)
      _ = 2 ^ (140 + (n.log2 + 1)) := (pow_add _ _ _).symm
      _ ≤ _ := pow_le_pow_right₀ one_le_two (by omega)
  have hroot := le_sq_of_lt_succ_sq hbig hlt
  rw [le_div_iff₀ hn0] at hle
  rw [div_le_iff₀ hn0] at hroot
  simp only [p]
  refine ⟨(div_le_one hpow).mpr hle, ?_⟩
  rw [div_mul_eq_mul_div, le_div_iff₀ hpow, one_mul, mul_right_comm]
  exact hroot

theorem rsqVal_bounds (e : Int) (hm : m ≠ 0) :
    let r := number (rsqVal (.fin false m e false))
    let x := number (.fin false m e false)
    0 ≤ r ∧ r ^ 2 * x ≤ 1 ∧ 1 ≤ r ^ 2 * x * (1 + 1 / 2 ^ 60) := by
  intro r x
  obtain ⟨more, hval⟩ := rsqVal_fin e hm
  set odd := (e % 2).toNat with hodd
  set n := m * 2 ^ odd with hn
  have hn0 : n ≠ 0 := Nat.mul_ne_zero hm (by positivity)
  have hr : r = rootOf (radicand n) * (2 : ℚ) ^ (-((e - odd) / 2) - (140 + n.log2 : Nat)) := by
    simp only [r, hval, number_fin, signOf_false, one_mul]
  have hx : x = n * (2 : ℚ) ^ (e - odd) := by
    simp only [x, number_fin, signOf_false, one_mul, hn]
    rw [Nat.cast_mul, Nat.cast_pow, Nat.cast_ofNat, mul_assoc, ← zpow_natCast, ← zpow_add₀ two_ne_zero, add_sub_cancel]
  have hexp : ((2 : ℚ) ^ (-((e - odd) / 2) - (140 + n.log2 : Nat))) ^ 2 * (2 : ℚ) ^ (e - odd)
      = (2 ^ (2 * (140 + n.log2)))⁻¹ := by
    rw [← zpow_natCast, ← zpow_natCast, ← zpow_mul, ← zpow_add₀ two_ne_zero, ← zpow_neg]
    congr 1
    omega
  have hsq : r ^ 2 * x = (rootOf (radicand n) : ℚ) ^ 2 * n / 2 ^ (2 * (140 + n.log2)) := by
    rw [hr, hx, div_eq_mul_inv, ← hexp]
    ring
  rw [hsq]
  exact ⟨by rw [hr]; positivity, rootOf_radicand hn0⟩

end Rsq

/-! ## The obligation -/

theorem elementFunctions : ElementFunctions := by
  refine ⟨fun _ _ _ => ⟨rfl, rfl, rfl, rfl⟩, rfl, rfl, rfl, rfl, rfl, rfl, fun neg => ⟨?_, fun e => ⟨rfl, rfl, ?_, rfl⟩⟩, ?_⟩
  · cases neg <;> rfl
  · cases neg <;> rfl
  intro neg m e hmpos x
  have hm : m ≠ 0 := hmpos.ne'
  refine ⟨fun i hi hx => exp2Val_int hm hi hx, fun hi hx => ?_, fun hx => exp2Val_large hm hx, ?_,
    fun i hi => log2Val_pow hm hi, ?_, rcpVal_bounds neg e hm, ?_, ?_⟩
  · obtain ⟨k, j, hval, hnear⟩ := exp2Frac_near neg m e false
    exact ⟨k, j, (exp2Val_fraction hm hi hx).trans (by rw [hval]), hnear⟩
  · rintro rfl
    constructor
    · show (log2Val (.fin true m e false)).1.isNan = true
      rw [log2Val, if_neg hm]
      rfl
    · show (rsqVal (.fin true m e false)).isNan = true
      rw [rsqVal, if_neg hm]
      rfl
  · rintro rfl hi
    exact log2Val_near e hm fun hpow => hi _ (number_pow e hpow)
  · rintro rfl
    exact rsqVal_bounds e hm
  · rintro rfl
    exact le_sqrtVal_sq e false hm

/-- Settles O13: an instruction puts the rounding of its exact value; a rounding picks one of the two codes beside the value
by the cut at their quantum; the series and the bits of the element functions are followed term by term. -/
theorem scalarFloat : Obligations.ScalarFloat :=
  ⟨scalarFloats, scalarFloatFaults, scalarConversion, exactArithmetic, rounding, nearestRounding, elementFunctions⟩

end Sys2Proof.Proofs

/-! Scalar results, branches and calls, registers that trap: O1 to O5. -/

namespace Sys2Proof.Proofs

open Host (Outcome)
open Sys2Proof Sys2Proof.Machine Sys2Proof.Stated

/-! ## Row 0x1 (R62, R63) -/

theorem alu_puts {s : State} {d a b : BitVec 8} (f : Dword → Dword → Dword) (h : Ready s [d, a, b]) :
    alu f d a b s = puts s d (f (s.readS a) (s.readS b)) :=
  finish_scalarOp (fun s => f (s.readS a) (s.readS b)) h

theorem alu1_puts {s : State} {d a : BitVec 8} (f : Dword → Dword) (h : Ready s [d, a]) :
    alu1 f d a s = puts s d (f (s.readS a)) :=
  finish_scalarOp (fun s => f (s.readS a)) h

/-- A product of two signed values fits in twice their width. -/
theorem mulHighSigned_eq (x y : Dword) : mulHighSigned x y = (x.signExtend 128 * y.signExtend 128).extractLsb' 64 64 := by
  have hz : x.signExtend 128 * y.signExtend 128 = BitVec.ofInt 128 (x.toInt * y.toInt) := by
    rw [BitVec.ofInt_mul]; rfl
  apply BitVec.eq_of_toNat_eq
  rw [hz, mulHighSigned, BitVec.extractLsb'_toNat, BitVec.toNat_ofInt, BitVec.toNat_ofInt, Nat.shiftRight_eq_div_pow]
  generalize x.toInt * y.toInt = p
  omega

theorem mulHighUnsigned_eq (x y : Dword) : mulHighUnsigned x y = (x.setWidth 128 * y.setWidth 128).extractLsb' 64 64 := by
  have hp : x.toNat * y.toNat < 2 ^ 128 := by
    calc x.toNat * y.toNat < 2 ^ 64 * 2 ^ 64 := Nat.mul_lt_mul'' x.isLt y.isLt
      _ = 2 ^ 128 := by norm_num
  apply BitVec.eq_of_toNat_eq
  rw [mulHighUnsigned, BitVec.extractLsb'_toNat, BitVec.toNat_mul, BitVec.toNat_setWidth, BitVec.toNat_setWidth,
    Nat.mod_eq_of_lt (a := x.toNat) (by omega), Nat.mod_eq_of_lt (a := y.toNat) (by omega), Nat.mod_eq_of_lt hp,
    Nat.shiftRight_eq_div_pow, BitVec.toNat_ofNat]

theorem bits_5_0 (y : Dword) : bits y 5 0 = y.toNat % 64 := by simp [bits]

/-- Settles O2: every instruction of the row puts a function of its sources; a shift takes six bits of its count. -/
theorem scalarArithmetic : Obligations.ScalarArithmetic := by
  intro d a b s h x y
  refine ⟨alu_puts (· + ·) h, alu_puts (· - ·) h, alu_puts (· * ·) h, ?_, ?_, alu_puts (· &&& ·) h, alu_puts (· ||| ·) h,
    alu_puts (· ^^^ ·) h, ?_, ?_, ?_, finish_scalarOp (fun s => if s.readS d ≠ 0 then s.readS a else s.readS b) h⟩
  · exact (alu_puts mulHighSigned h).trans (by rw [mulHighSigned_eq])
  · exact (alu_puts mulHighUnsigned h).trans (by rw [mulHighUnsigned_eq])
  · exact (alu_puts (fun x y => x <<< bits y 5 0) h).trans (by rw [bits_5_0])
  · exact (alu_puts (fun x y => x >>> bits y 5 0) h).trans (by rw [bits_5_0])
  · exact (alu_puts (fun x y => x.sshiftRight (bits y 5 0)) h).trans (by rw [bits_5_0])

theorem divSigned_of_ne {x y : Dword} (h : y ≠ 0) : divSigned x y = x.sdiv y := if_neg h
theorem divUnsigned_of_ne {x y : Dword} (h : y ≠ 0) : divUnsigned x y = x.udiv y := if_neg h
theorem remSigned_of_ne {x y : Dword} (h : y ≠ 0) : remSigned x y = x.srem y := if_neg h
theorem remUnsigned_of_ne {x y : Dword} (h : y ≠ 0) : remUnsigned x y = x.umod y := if_neg h

/-- Settles O3: a divisor of zero first; the least number by -1 is the one quotient that overflows. -/
theorem division : Obligations.Division := by
  intro d a b s h x y least
  have hdiv : exec (.sdiv d a b) s = puts s d (divSigned x y) := alu_puts divSigned h
  have hdivn : exec (.sdivn d a b) s = puts s d (divUnsigned x y) := alu_puts divUnsigned h
  have hrem : exec (.srem d a b) s = puts s d (remSigned x y) := alu_puts remSigned h
  have hremn : exec (.sremn d a b) s = puts s d (remUnsigned x y) := alu_puts remUnsigned h
  rw [hdiv, hdivn, hrem, hremn]
  refine ⟨fun hy => ?_, fun hx hy => ?_, fun hy hxy => ?_, fun hy => ?_⟩
  · rw [hy]
    exact ⟨rfl, rfl, rfl, rfl⟩
  · rw [hx, hy, show divSigned least (-1) = least by decide, show remSigned least (-1) = 0 by decide]
    exact ⟨rfl, rfl⟩
  · have hq : (x.sdiv y).toInt = x.toInt.tdiv y.toInt := BitVec.toInt_sdiv_of_ne_or_ne x y (not_and_or.1 hxy)
    refine ⟨x.sdiv y, x.srem y, by rw [divSigned_of_ne hy], by rw [remSigned_of_ne hy], hq, ?_⟩
    rw [hq, BitVec.toInt_srem, Int.tmod_def]
  · refine ⟨x.udiv y, x.umod y, by rw [divUnsigned_of_ne hy], by rw [remUnsigned_of_ne hy], BitVec.toNat_udiv, ?_⟩
    rw [BitVec.umod_eq, BitVec.udiv_eq, BitVec.toNat_umod, BitVec.toNat_udiv, Nat.mod_eq_sub]

/-! ## Row 0x2 (R64, R65) and `splace` (R69) -/

theorem aluShift_puts {s : State} {d a n : BitVec 8} (f : Dword → Nat → Dword) (h : Ready s [d, a]) (hn : n.toNat < 64) :
    aluShift f d a n s = puts s d (f (s.readS a) n.toNat) := by
  rw [aluShift, if_pos hn]
  exact alu1_puts (fun x => f x n.toNat) h

/-- The count of leading zeros places the value between two powers of two. -/
theorem leadingZeros_spec (x : Dword) : leadingZeros x ≤ 64 ∧ x.toNat < 2 ^ (64 - leadingZeros x)
    ∧ (leadingZeros x < 64 → 2 ^ (63 - leadingZeros x) ≤ x.toNat) := by
  unfold leadingZeros
  split
  · rename_i hx
    simp [hx]
  · rename_i hx
    have hx0 : x.toNat ≠ 0 := fun h => hx (BitVec.eq_of_toNat_eq h)
    have hlog : x.toNat.log2 < 64 := (Nat.log2_lt hx0).2 x.isLt
    refine ⟨by omega, ?_, fun _ => ?_⟩
    · rw [show 64 - (63 - x.toNat.log2) = x.toNat.log2 + 1 by omega]
      exact Nat.lt_log2_self
    · rw [show 63 - (63 - x.toNat.log2) = x.toNat.log2 by omega]
      exact Nat.log2_self_le hx0

/-- The field that `sbfx` takes, bit by bit: the field's own bits, and above them its sign where it is asked for. -/
theorem fieldExtract_bit (x y : Dword) {j : Nat} (hj : j < 64) : (fieldExtract x y).getLsbD j = fieldBit x y j := by
  unfold fieldExtract fieldBit
  generalize hw : bits y 13 8 + 1 = w
  generalize bits y 5 0 = lo
  have hw64 : w ≤ 64 := by
    have : bits y 13 8 < 2 ^ 6 := Nat.mod_lt _ (by norm_num)
    omega
  have hfield : ∀ i < 64, (BitVec.ofNat 64 (x.toNat / 2 ^ lo % 2 ^ w)).getLsbD i = (decide (i < w) && x.getLsbD (lo + i)) :=
    fun i hi => by
      rw [BitVec.getLsbD_ofNat, Nat.testBit_mod_two_pow, Nat.testBit_div_two_pow, Nat.add_comm i]
      simp [hi, BitVec.getLsbD]
  have hones : (~~~ BitVec.ofNat 64 (2 ^ w - 1)).getLsbD j = !decide (j < w) := by
    rw [BitVec.getLsbD_not, BitVec.getLsbD_ofNat, Nat.testBit_two_pow_sub_one]
    simp [hj]
  have hsign := hfield (w - 1) (by omega)
  have htop : w - 1 < w := by omega
  simp only [htop, decide_true, Bool.true_and] at hsign
  simp only [hsign, bitAt]
  split
  · rename_i h
    rw [BitVec.getLsbD_or, hfield j hj, hones]
    simp only [Bool.and_eq_true] at h
    by_cases hjw : j < w <;> simp [hjw, h]
  · rename_i h
    rw [hfield j hj]
    by_cases hjw : j < w
    · simp [hjw]
    · simp only [hjw, decide_false, Bool.false_and, if_false]
      exact (Bool.eq_false_iff.2 h).symm

/-- A field below bit i beside what stands from bit i on: their sum is their union. -/
theorem field_add_eq_or {hi lo : Nat} (i : Nat) (h : lo < 2 ^ i) : hi * 2 ^ i + lo = hi * 2 ^ i ||| lo := by
  rw [Nat.mul_comm]
  exact Nat.two_pow_add_eq_or_of_lt h hi

theorem toNat_masked (x : Dword) {n : Nat} (h : n < 64) : (x &&& BitVec.ofNat 64 (2 ^ n - 1)).toNat = x.toNat % 2 ^ n := by
  have : 2 ^ n < 2 ^ 64 := Nat.pow_lt_pow_right (by norm_num) h
  rw [BitVec.toNat_and, BitVec.toNat_ofNat, Nat.mod_eq_of_lt (a := 2 ^ n - 1) (by omega), Nat.and_two_pow_sub_one_eq_mod]

theorem toNat_shiftLeft_field (x : Dword) {k n : Nat} (h : x.toNat < 2 ^ k) (hn : k + n ≤ 64) :
    (x <<< n).toNat = x.toNat * 2 ^ n := by
  rw [BitVec.toNat_shiftLeft, Nat.shiftLeft_eq, Nat.mod_eq_of_lt]
  calc x.toNat * 2 ^ n < 2 ^ k * 2 ^ n := Nat.mul_lt_mul_of_pos_right h (by positivity)
    _ = 2 ^ (k + n) := (pow_add 2 k n).symm
    _ ≤ 2 ^ 64 := Nat.pow_le_pow_right (by norm_num) hn

/-- The fields of an SRAM-window address do not overlap. -/
theorem placeAddress_eq (x y : Dword) : placeAddress x y = 0x00F0000000000000#64 ||| (x &&& 0x3FF) <<< 30
    ||| (x >>> 10 &&& 7) <<< 27 ||| (x >>> 13 &&& 0x7F) <<< 20 ||| (y &&& 0xFFFFF) := by
  have hA : (x &&& 0x3FF).toNat = bits x 9 0 := by simpa [bits] using toNat_masked x (n := 10) (by norm_num)
  have hB : (x >>> 10 &&& 7).toNat = bits x 12 10 := by
    simpa [bits, Nat.shiftRight_eq_div_pow] using toNat_masked (x >>> 10) (n := 3) (by norm_num)
  have hC : (x >>> 13 &&& 0x7F).toNat = bits x 19 13 := by
    simpa [bits, Nat.shiftRight_eq_div_pow] using toNat_masked (x >>> 13) (n := 7) (by norm_num)
  have hD : (y &&& 0xFFFFF).toNat = bits y 19 0 := by simpa [bits] using toNat_masked y (n := 20) (by norm_num)
  have lA : bits x 9 0 < 2 ^ 10 := Nat.mod_lt _ (by norm_num)
  have lB : bits x 12 10 < 2 ^ 3 := Nat.mod_lt _ (by norm_num)
  have lC : bits x 19 13 < 2 ^ 7 := Nat.mod_lt _ (by norm_num)
  have lD : bits y 19 0 < 2 ^ 20 := Nat.mod_lt _ (by norm_num)
  apply BitVec.eq_of_toNat_eq
  rw [placeAddress, BitVec.toNat_or, BitVec.toNat_or, BitVec.toNat_or, BitVec.toNat_or, BitVec.toNat_ofNat,
    toNat_shiftLeft_field (k := 10) _ (by rwa [hA]) (by norm_num), toNat_shiftLeft_field (k := 3) _ (by rwa [hB]) (by norm_num),
    toNat_shiftLeft_field (k := 7) _ (by rwa [hC]) (by norm_num), hA, hB, hC, hD]
  generalize bits x 9 0 = A at *
  generalize bits x 12 10 = B at *
  generalize bits x 19 13 = C at *
  generalize bits y 19 0 = D at *
  rw [Nat.or_assoc, Nat.or_assoc, Nat.or_assoc, ← field_add_eq_or 20 lD, ← field_add_eq_or 27 (by omega),
    ← field_add_eq_or 30 (by omega), show (0x00F0000000000000#64).toNat = 15 * 2 ^ 52 by rfl,
    ← field_add_eq_or 52 (by omega)]
  omega

/-- R64, R65, R69: each instruction of the row puts its function of what it reads. -/
theorem rowTwo : RowTwo := by
  intro d a b n i w s h hn x y
  have h1 : Ready s [d, a] := need_of_ready h (by simp)
  have h0 : Ready s [d] := need_of_ready h (by simp)
  refine ⟨finish_scalarOp _ h0, finish_scalarOp (fun s => (s.readS d <<< 16) ||| i.setWidth 64) h0, ?_,
    alu1_puts (· + sext64 b) h1, alu1_puts (· &&& sext64 b) h1, aluShift_puts (fun x k => x <<< k) h1 hn,
    aluShift_puts (fun x k => x >>> k) h1 hn, aluShift_puts (fun x k => x.sshiftRight k) h1 hn, ?_, ?_, ?_, ?_, ?_,
    ⟨leadingZeros x, alu1_puts (fun x => BitVec.ofNat 64 (leadingZeros x)) h1, leadingZeros_spec x⟩, ?_,
    ⟨fieldExtract x y, alu_puts fieldExtract h, fun j => fieldExtract_bit x y⟩, ?_⟩
  · show finish (scalarOp d [] _ s 2) = _
    rw [scalarOp, show s.need [d] = .ok () from h0]
    rfl
  · exact (alu_puts (fun x y => ofBool64 (x == y)) h).trans (by simp [ofBool64, x, y])
  · exact (alu_puts (fun x y => ofBool64 (x.slt y)) h).trans (by simp [ofBool64, BitVec.slt, x, y])
  · exact (alu_puts (fun x y => ofBool64 (x.ult y)) h).trans (by simp [ofBool64, BitVec.ult, x, y])
  · refine (alu_puts (fun x y => if y.slt x then y else x) h).trans ?_
    by_cases hxy : x.toInt ≤ y.toInt <;> simp [BitVec.slt, hxy, x, y, not_lt.2, not_le.1]
  · refine (alu_puts (fun x y => if x.slt y then y else x) h).trans ?_
    rcases lt_trichotomy x.toInt y.toInt with hxy | hxy | hxy
    · rw [if_pos (by simpa [BitVec.slt] using hxy), if_pos hxy.le]
    · rw [if_neg (by simpa [BitVec.slt] using hxy.ge), if_pos hxy.le, show s.readS a = s.readS b from BitVec.eq_of_toInt_eq hxy]
    · rw [if_neg (by simpa [BitVec.slt] using hxy.le), if_neg (not_le.2 hxy)]
  · refine (alu1_puts (fun x => BitVec.ofNat 64 (onesCount x)) h1).trans ?_
    rw [onesCount, List.countP_eq_length_filter]
  · exact (alu_puts placeAddress h).trans (by rw [placeAddress_eq])

/-- R64: a shift count beyond 63 makes the instruction illegal before it reads a register. -/
theorem shiftImmediateTraps : ShiftImmediateTraps := by
  intro d a n s h
  have htrap (f : Dword → Nat → Dword) : aluShift f d a n s = traps s 1 := by
    rw [aluShift, if_neg (by omega), finish_illegal]
  exact ⟨htrap _, htrap _, htrap _⟩

/-- Settles O4: row 0x2 puts its results, and a shift count that does not fit is the trap of its word. -/
theorem scalarImmediates : Obligations.ScalarImmediates := ⟨rowTwo, shiftImmediateTraps⟩

/-! ## What a result leaves (R47 to R50) -/

theorem elsewhere_refl (s : State) (a : Agent) : Elsewhere s s a := by
  refine ⟨rfl, ?_⟩
  cases a with
  | sys p d c => exact ⟨rfl, fun _ _ => rfl, rfl⟩
  | slot g k =>
    refine ⟨rfl, fun _ _ => rfl, ?_⟩
    by_cases hk : k = 0 <;> simp [Group.setSlot, State.slot, Group.slot, State.hart, hk]

theorem elsewhere_trans {s t u : State} {a : Agent} (h : Elsewhere s t a) (h' : Elsewhere t u a) : Elsewhere s u a := by
  obtain ⟨hst, hs⟩ := h
  obtain ⟨htu, ht⟩ := h'
  refine ⟨by rw [htu, hst], ?_⟩
  cases a with
  | sys p d c =>
    obtain ⟨hg, hoth, hc⟩ := hs
    obtain ⟨hg', hoth', hc'⟩ := ht
    exact ⟨hg'.trans hg, fun j hj => (hoth' j hj).trans (hoth j hj), by rw [hc', hc]⟩
  | slot g k =>
    obtain ⟨hc, hoth, hg⟩ := hs
    obtain ⟨hc', hoth', hg'⟩ := ht
    refine ⟨hc'.trans hc, fun j hj => (hoth' j hj).trans (hoth j hj), ?_⟩
    rw [hg', hg]
    by_cases hk : k = 0 <;> simp [Group.setSlot, hk]

theorem elsewhere_setHart (s : State) (a : Agent) (h : Hart) : Elsewhere s (s.setHart a h) a := by
  cases a with
  | sys p d c =>
    refine ⟨rfl, rfl, fun j hj => SMap.find_put_other _ _ hj, ?_⟩
    rw [State.slot_setHart, State.hart_setHart]
    exact State.core_setCore s p d c _
  | slot g k =>
    refine ⟨rfl, rfl, fun j hj => SMap.find_put_other _ _ hj, ?_⟩
    rw [State.slot_setHart, State.hart_setHart]
    refine (State.group_setGroup s g _).trans ?_
    by_cases hk : k = 0 <;> simp [Group.setSlot, State.slot, Group.slot, hk]

theorem elsewhere_setSlot (s : State) (a : Agent) (x : Slot) : Elsewhere s (s.setSlot a x) a := by
  cases a with
  | sys p d c =>
    refine ⟨rfl, rfl, fun j hj => SMap.find_put_other _ _ hj, ?_⟩
    rw [State.slot_setSlot, State.hart_setSlot]
    exact State.core_setCore s p d c _
  | slot g k =>
    refine ⟨rfl, rfl, fun j hj => SMap.find_put_other _ _ hj, ?_⟩
    rw [State.slot_setSlot, State.hart_setSlot]
    exact State.group_setGroup s g _

theorem elsewhere_count (s : State) : Elsewhere s s.count s.cur := by
  have h := elsewhere_setHart s s.cur { s.hart s.cur with retired := (s.hart s.cur).retired + 1 }
  unfold State.count
  simp only [State.setHart_cur]
  exact elsewhere_trans h (elsewhere_setSlot _ _ _)

theorem elsewhere_advance (s : State) (n : Nat) : Elsewhere s (s.advance n) s.cur := by
  unfold State.advance
  simp only
  split
  · split <;> exact elsewhere_setSlot _ _ _
  · exact elsewhere_setSlot _ _ _

theorem elsewhere_retire (s : State) (n : Nat) : Elsewhere s (s.retire n) s.cur := by
  have h := elsewhere_advance s.count n
  rw [State.count_cur] at h
  exact elsewhere_trans (elsewhere_count s) h

theorem elsewhere_jump (s : State) (pc : Dword) : Elsewhere s (s.jump pc) s.cur := by
  simp only [State.jump, State.count_cur]
  exact elsewhere_trans (elsewhere_count s) (elsewhere_setSlot _ _ _)

theorem elsewhere_writeS (s : State) (d : BitVec 8) (v : Dword) : Elsewhere s (s.writeS d v) s.cur := by
  unfold State.writeS State.writeMask
  split
  · exact elsewhere_refl _ _
  · split
    · split
      · exact elsewhere_refl _ _
      · exact elsewhere_setSlot _ _ _
    · exact elsewhere_setHart _ _ _

/-- What retiring does to the slot: its per-instruction fields are cleared, and it moves on by n words. -/
theorem State.retire_slot (s : State) (n : Nat) : ∃ c y, (s.retire n).slot s.cur = { s.slot s.cur with
    pc := (s.slot s.cur).pc + 4 * BitVec.ofNat 64 n, clause := c, yielded := y, pmode := none, done := 0, block := none
    passed := false, lastIssue := s.cycle, atReturn := false, named := none, deal := none, closed := (0, 0) } := by
  obtain ⟨c, y, h⟩ := State.advance_slot s.count n
  rw [State.count_cur, State.count_slot] at h
  exact ⟨c, y, h⟩

theorem State.readS_retire (s : State) (n : Nat) (r : BitVec 8) : (s.retire n).readS r = s.readS r := by
  obtain ⟨c, y, h⟩ := State.retire_slot s n
  simp only [State.readS_eq, State.retire_cur, h, State.retire_hart]

/-- The register written reads what was written: s0 discards it, and s63 keeps the lanes the slot owns. -/
theorem State.readS_writeS_same (s : State) (d : BitVec 8) (v : Dword) : (s.writeS d v).readS d =
    if d = 0 then 0 else if d = 63 then (if isSys s.cur then (s.slot s.cur).mask else v &&& (s.slot s.cur).own) else v := by
  rw [State.readS_eq, State.writeS_cur]
  by_cases h0 : d = 0
  · rw [if_pos h0, if_pos h0]
  rw [if_neg h0, if_neg h0]
  by_cases h63 : d = 63
  · rw [if_pos h63, if_pos h63, State.writeS, if_neg h0, if_pos h63, State.writeMask]
    split
    · rfl
    · rw [State.slot_setSlot]
  · rw [if_neg h63, if_neg h63, State.writeS_register s v h0 h63, State.hart_setHart]
    exact SMap.get_put_same _ _ _ _

theorem State.writeS_hart (s : State) (d : BitVec 8) (v : Dword) :
    ∃ m, (s.writeS d v).hart s.cur = { s.hart s.cur with sregs := m } := by
  unfold State.writeS
  split
  · exact ⟨(s.hart s.cur).sregs, rfl⟩
  · split
    · exact ⟨(s.hart s.cur).sregs, State.hart_writeMask s v⟩
    · exact ⟨_, State.hart_setHart _ _ _⟩

@[simp] theorem State.writeS_cycle (s : State) (d : BitVec 8) (v : Dword) : (s.writeS d v).cycle = s.cycle := by
  rw [(elsewhere_writeS s d v).1]

theorem resultStands : ResultStands := by
  intro s d v n
  have hcur := State.writeS_cur s d v
  have hret := elsewhere_retire (s.writeS d v) n
  have hhart := State.retire_hart (s.writeS d v) n
  obtain ⟨c, y, hslot⟩ := State.retire_slot (s.writeS d v) n
  obtain ⟨m, hm⟩ := State.writeS_slot s d v
  obtain ⟨r, hr⟩ := State.writeS_hart s d v
  rw [hcur] at hret hhart hslot
  rw [hr] at hhart
  rw [hm, State.writeS_cycle] at hslot
  refine ⟨_, rfl, elsewhere_trans (elsewhere_writeS s d v) hret, ?_, fun q hq => ?_, ?_, ?_, ?_⟩
  · rw [State.readS_retire, State.readS_writeS_same]
  · rw [State.readS_retire, State.readS_writeS_other s v hq]
  · rw [hhart]
  · rw [hslot]
  · rw [hslot]

theorem State.jump_hart (s : State) (pc : Dword) :
    (s.jump pc).hart s.cur = { s.hart s.cur with retired := (s.hart s.cur).retired + 1 } := by
  simp only [State.jump, State.count_cur, State.hart_setSlot, State.count_hart]

theorem State.jump_slot (s : State) (pc : Dword) : (s.jump pc).slot s.cur = { s.slot s.cur with
    pc := pc, clause := none, yielded := ((s.slot s.cur).clause.map Clause.yield).getD false, pmode := none, done := 0
    block := none, passed := false, lastIssue := s.cycle, atReturn := false, named := none, deal := none
    closed := (0, 0) } := by
  simp only [State.jump, State.count_cur, State.slot_setSlot, State.count_slot]

theorem transferStands : TransferStands := fun s pc =>
  ⟨_, rfl, elsewhere_jump s pc, State.jump_hart s pc, by rw [State.jump_slot]⟩

/-- An instruction whose registers are awaited waits. -/
theorem scalarOp_waits {s : State} {d : BitVec 8} {srcs : List (BitVec 8)} (v : State → Dword) {n : Nat}
    (h : s.pendingOn ((d :: srcs).map BitVec.toNat) [] = some n) : finish (scalarOp d srcs v s) = waits s (.op n) := by
  rw [scalarOp, State.need, h]
  rfl

theorem registerInterlock : RegisterInterlock := by
  intro d a b s n h
  constructor
  · have halu (f : Dword → Dword → Dword) : alu f d a b s = waits s (.op n) := scalarOp_waits _ h
    have hsel (v : State → Dword) : finish (scalarOp d [a, b] v s) = waits s (.op n) := scalarOp_waits v h
    simp only [List.forall_mem_cons, List.not_mem_nil, false_implies, implies_true, and_true]
    exact ⟨halu (· + ·), halu (· - ·), halu (· * ·), halu mulHighSigned, halu mulHighUnsigned, halu divSigned,
      halu divUnsigned, halu remSigned, halu remUnsigned, halu (· &&& ·), halu (· ||| ·), halu (· ^^^ ·),
      halu (fun x y => x <<< bits y 5 0), halu (fun x y => x >>> bits y 5 0), halu (fun x y => x.sshiftRight (bits y 5 0)),
      hsel (fun s => if s.readS d ≠ 0 then s.readS a else s.readS b), halu (fun x y => ofBool64 (x == y)),
      halu (fun x y => ofBool64 (x.slt y)), halu (fun x y => ofBool64 (x.ult y)), halu (fun x y => if y.slt x then y else x),
      halu (fun x y => if x.slt y then y else x), halu fieldExtract, halu placeAddress⟩
  · refine ⟨_, rfl, elsewhere_setSlot _ _ _, State.hart_setSlot _ _ _, ?_⟩
    rw [State.blockSlot, State.slot_setSlot]

/-- Settles O1: a result changes its register and its own slot's progress, a transfer the program counter, and an
instruction with a register awaited only waits. -/
theorem resultsStand : Obligations.ResultsStand := ⟨resultStands, transferStands, registerInterlock⟩

/-! ## Branches and calls (R58 to R60) -/

theorem Slot.hdr_of_clause {x : Slot} {c : Clause} (h : x.clause = some c) : x.hdr = c.hdr := by simp [Slot.hdr, h]

theorem State.target_of_clause {s : State} {c : Clause} (h : (s.slot s.cur).clause = some c) {w : Nat} (o : BitVec w) :
    s.target o = c.hdr + 4 * o.signExtend 64 := by
  rw [State.target, Slot.hdr_of_clause h, sext64]

theorem State.nextClause_of_clause {s : State} {c : Clause} (h : (s.slot s.cur).clause = some c) :
    s.nextClause = c.hdr + 4 * BitVec.ofNat 64 (c.len + 1) := by
  simp [State.nextClause, h, Clause.next]

theorem goes_branchIf (s : State) (c : Bool) (o : BitVec 16) :
    .next (s.branchIf c o) = goes s (if c then s.target o else s.nextClause) := by
  cases c <;> rfl

theorem condBranch_goes {s : State} {d : BitVec 8} (o : BitVec 16) (c : Dword → Bool) (h : Ready s [d]) :
    condBranch d o c s = goes s (if c (s.readS d) then s.target o else s.nextClause) := by
  rw [condBranch, show s.need [d] = .ok () from h, except_ok_bind, finish_ok, goes_branchIf]

theorem getLsbD_63_iff (x : Dword) : x.getLsbD 63 = true ↔ x.toInt < 0 := by
  rw [← BitVec.msb_eq_getLsbD_last x, BitVec.msb_eq_toInt, decide_eq_true_iff]

theorem masked_eq_zero_iff (x : Dword) : x &&& 3 = 0 ↔ bits x 1 0 = 0 := by
  have h : (x &&& 3).toNat = bits x 1 0 := by simpa [bits] using toNat_masked x (n := 2) (by norm_num)
  rw [← h]
  exact ⟨fun hx => by rw [hx]; rfl, fun hx => BitVec.eq_of_toNat_eq hx⟩

theorem State.jumpTarget_aligned {s : State} {a : BitVec 8} (h : s.readS a &&& 3 = 0) : s.jumpTarget a = .ok (s.readS a) :=
  if_pos ((masked_eq_zero_iff _).1 h)

theorem State.jumpTarget_misaligned {s : State} {a : BitVec 8} (h : s.readS a &&& 3 ≠ 0) :
    s.jumpTarget a = .error (s.trapAt 5 (s.readS a)) :=
  if_neg fun hb => h ((masked_eq_zero_iff _).2 hb)

theorem exec_waitc {n k : BitVec 8} (s : State) (hn : n.toNat < 12) (hk : k.toNat < 64) :
    exec (.waitc n k) s = if (s.hart s.cur).pip n.toNat ≤ k.toNat then .next s.retire else waits s (.pip n.toNat k.toNat) := by
  show execWaitc n k s = _
  have hok : (decide (12 ≤ n.toNat) || decide (64 ≤ k.toNat)) = false := by simp; omega
  rw [execWaitc, hok]
  rfl

theorem branchTargets : BranchTargets := by
  intro d a n k o f s c hc h next near far x
  have hd : Ready s [d] := need_of_ready h (by simp)
  have ha : Ready s [a] := need_of_ready h (by simp)
  have hlink : Ready s [62] := need_of_ready h (by simp)
  have hnext : s.nextClause = next := State.nextClause_of_clause hc
  have hnear : s.target o = near := State.target_of_clause hc o
  have hfar : s.target f = far := State.target_of_clause hc f
  have branch (c : Dword → Bool) : condBranch d o c s = goes s (if c x then near else next) := by
    rw [condBranch_goes o c hd, hnear, hnext]
  refine ⟨rfl, ?_, ?_, ?_, ?_, ?_, ?_, fun hal => ?_, fun hal => ?_, exec_waitc s⟩
  · show finish (.ok (s.jump (s.target f))) = _
    rw [hfar]
    rfl
  · exact (branch (fun v => v == 0)).trans (by simp)
  · exact (branch (fun v => v != 0)).trans (by simp)
  · exact (branch (fun v => v.getLsbD 63)).trans (by rw [if_congr (getLsbD_63_iff x) rfl rfl])
  · have hsign : (!x.getLsbD 63) = true ↔ 0 ≤ x.toInt := by
      rw [Bool.not_eq_true', ← Bool.not_eq_true, getLsbD_63_iff, not_lt]
    exact (branch (fun v => !v.getLsbD 63)).trans (by rw [if_congr hsign rfl rfl])
  · show execCall f s = _
    rw [execCall, show s.need [62] = .ok () from hlink, except_ok_bind, hnext, hfar]
    rfl
  · show execJr a s = _
    rw [execJr, show s.need [a] = .ok () from ha, except_ok_bind, State.jumpTarget_aligned hal]
    rfl
  · show execCallr a s = _
    rw [execCallr, show s.need [a, 62] = .ok () from need_of_ready h (by simp), except_ok_bind,
      State.jumpTarget_aligned hal, except_ok_bind, hnext]
    rfl

theorem misalignedTargets : MisalignedTargets := by
  intro a s h hal
  constructor
  · show execJr a s = _
    rw [execJr, show s.need [a] = .ok () from need_of_ready h (by simp), except_ok_bind, State.jumpTarget_misaligned hal]
    exact finish_trapAt s 5 (s.readS a) 0 0
  · show execCallr a s = _
    rw [execCallr, show s.need [a, 62] = .ok () from h, except_ok_bind, State.jumpTarget_misaligned hal]
    exact finish_trapAt s 5 (s.readS a) 0 0

/-- Settles O5: a branch goes to its target or past its clause, and a target that is no word's address is the trap. -/
theorem branches : Obligations.Branches := ⟨branchTargets, misalignedTargets⟩

end Sys2Proof.Proofs

/-! Special registers that are refused: O15. -/

namespace Sys2Proof.Proofs

open Host (Outcome)
open Sys2Proof Sys2Proof.Machine Sys2Proof.Stated

/-! ## Which registers there are (R53) -/

theorem assigned_iff (n : Nat) : Assigned n ↔ (srCommon n || srTrap n || srSystem n) = true := by
  simp [Assigned, srCommon, srTrap, srSystem]
  omega

theorem srReadable_of_not_assigned {n : Nat} (h : ¬ Assigned n) (sys : Bool) : srReadable sys n = false := by
  rw [assigned_iff, Bool.not_eq_true, Bool.or_eq_false_iff, Bool.or_eq_false_iff] at h
  obtain ⟨⟨hc, ht⟩, hs⟩ := h
  cases sys
  · have : ¬ (0x40 ≤ n ∧ n ≤ 0x47) := fun hn => by simp [srTrap] at ht; omega
    simp [srReadable, hc]
    omega
  · simp [srReadable, hc, ht, hs]

theorem srReadable_group {n : Nat} (h : (0x48 ≤ n ∧ n ≤ 0x5A) ∨ (0x100 ≤ n ∧ n < 0x200)) : srReadable false n = false := by
  simp [srReadable, srCommon]
  omega

theorem srReleases_iff (n : Nat) : srReleases n = true ↔ n ∈ releasing := List.contains_iff_mem

theorem assigned_of_releasing {n : Nat} (h : n ∈ releasing) : Assigned n := by
  revert n
  simp [releasing, Assigned]

theorem not_releases_of_not_assigned {n : Nat} (h : ¬ Assigned n) : srReleases n = false :=
  Bool.eq_false_iff.2 fun hr => h (assigned_of_releasing ((srReleases_iff n).1 hr))

theorem srWritable_of_not_assigned {n : Nat} (h : ¬ Assigned n) (sys : Bool) : srWritable sys n = false := by
  rw [assigned_iff, Bool.not_eq_true, Bool.or_eq_false_iff, Bool.or_eq_false_iff] at h
  obtain ⟨⟨hc, ht⟩, hs⟩ := h
  have hcommon : (n == 0x12 || n == 0x21 || n == 0x23) = false := by simp [srCommon] at hc ⊢; omega
  simp [srWritable, ht, hs, hcommon]

theorem srWritable_readOnly {n : Nat} (h : n ∈ readOnly) : srReleases n = false ∧ srWritable true n = false := by
  revert n
  decide

/-! ## The instructions where the register is refused -/

theorem exec_srsr_refused {d : BitVec 8} {n : BitVec 16} {s : State} (h : Ready s [d])
    (hn : srReadable (isSys s.cur) n.toNat = false) : exec (.srsr d n) s = traps s 1 := by
  show execSrsr d n s = _
  have hv : s.srValue n.toNat = none := by rw [State.srValue, hn]; rfl
  rw [execSrsr, show s.need [d] = .ok () from h, except_ok_bind, hv]
  exact finish_illegal s

theorem exec_swsr_refused {d : BitVec 8} {n : BitVec 16} {s : State} (h : Ready s [d])
    (hr : (isSys s.cur && srReleases n.toNat) = false) (hn : srWritable (isSys s.cur) n.toNat = false) :
    exec (.swsr d n) s = traps s 1 := by
  show execSwsr d n s = _
  have hw : s.srWrite n.toNat (s.readS d) = .error s.illegal := by rw [State.srWrite, hn]; rfl
  rw [execSwsr, show s.need [d] = .ok () from h, except_ok_bind, hr, if_neg (by simp), hw]
  exact finish_illegal s

/-- Settles O15: a register that the issuer may not read or write is found before anything else is done. -/
theorem illegalRegisters : Obligations.IllegalRegisters := by
  intro d n s h
  refine ⟨fun ha => ⟨?_, ?_⟩, fun hs hn => ?_, fun hs => ?_, fun hs hn => ?_⟩
  · exact exec_srsr_refused h (srReadable_of_not_assigned ha _)
  · exact exec_swsr_refused h (by rw [not_releases_of_not_assigned ha, Bool.and_false]) (srWritable_of_not_assigned ha _)
  · obtain ⟨hr, hw⟩ := srWritable_readOnly hn
    exact exec_swsr_refused h (by rw [hr, Bool.and_false]) (by rw [hs, hw])
  · exact exec_swsr_refused h (by rw [hs, Bool.false_and]) (by rw [hs]; rfl)
  · exact exec_srsr_refused h (by rw [hs, srReadable_group hn])

end Sys2Proof.Proofs

/-! Reading and writing special registers: O16. -/

namespace Sys2Proof.Proofs

open Host (Outcome)
open Sys2Proof Sys2Proof.Machine Sys2Proof.Stated

/-! ## Reads (R52) -/

/-- A register that is neither recorded for replay nor an acquire is put as it reads. -/
theorem exec_srsr_puts {d : BitVec 8} {n : BitVec 16} {s : State} {v : Dword} (h : Ready s [d]) (hlog : s.logOf s.cur = none)
    (hacq : srAcquires n.toNat = false) (hv : s.srValue n.toNat = some v) : exec (.srsr d n) s = puts s d v := by
  have hin : s.input 0 (n.setWidth 64) v = .ok (v, s) := by rw [State.input, hlog]
  show execSrsr d n s = _
  rw [execSrsr, show s.need [d] = .ok () from h, except_ok_bind, hv]
  simp only [hin, hacq, Bool.and_false, except_ok_bind, ite_self]
  rfl

theorem State.srValue_common {s : State} {n : Nat} (hn : srCommon n = true) : s.srValue n = some (s.srCommonValue n) := by
  rw [State.srValue, srReadable, hn]
  rfl

theorem State.srValue_trap_slot {s : State} {g k n : Nat} (hcur : s.cur = .slot g k) (hn : 0x40 ≤ n ∧ n ≤ 0x47) :
    s.srValue n = some (SMap.get (s.group g).hart.trap n 0) := by
  have hr : srReadable (isSys s.cur) n = true := by simp [srReadable, hcur, isSys, hn]
  have hc : srCommon n = false := by simp [srCommon]; omega
  have ht : srTrap n = true := by simp [srTrap]; omega
  have hs : isSys s.cur = false := by rw [hcur]; rfl
  have hv : s.srTrapValue n = SMap.get (s.group g).hart.trap n 0 := by
    unfold State.srTrapValue
    rw [if_pos (show n ≤ 0x49 by omega), hs, hcur]
    rfl
  rw [State.srValue, hr, hc, ht, hv]
  rfl

theorem registerReads : RegisterReads := by
  intro d s h hlog reads
  have put {n : BitVec 16} (v : Dword) (hacq : srAcquires n.toNat = false) (hn : srCommon n.toNat = true)
      (hv : s.srCommonValue n.toNat = v) : reads n v :=
    exec_srsr_puts h hlog hacq ((State.srValue_common hn).trans (congrArg some hv))
  refine ⟨fun p q r hcur => ?_, fun g k hcur => ?_, ?_⟩
  · refine ⟨put _ rfl rfl ?_, put _ rfl rfl ?_, put _ rfl rfl ?_, put _ rfl rfl ?_, put _ rfl rfl ?_, put _ rfl rfl ?_,
      put _ rfl rfl ?_, put _ rfl rfl ?_, put _ rfl rfl ?_⟩ <;> simp [State.srCommonValue, hcur, isSys, State.placeOf]
  · have hgrp : s.grp = s.group g := by rw [State.grp, hcur, gidOf]
    refine ⟨put _ rfl rfl ?_, put _ rfl rfl ?_, put _ rfl rfl ?_, put _ rfl rfl ?_, put _ rfl rfl ?_, put _ rfl rfl ?_,
      put _ rfl rfl ?_, put _ rfl rfl ?_, fun n hlo hhi => ?_⟩
    case refine_9 =>
      refine exec_srsr_puts h hlog ?_ (State.srValue_trap_slot hcur ⟨hlo, hhi⟩)
      simp [srAcquires]
      omega
    case refine_6 =>
      have hlt := ((s.group g).wid 0).isLt
      have hhigh : bits ((s.group g).wid 0) 63 32 = ((s.group g).wid 0).toNat / 2 ^ 32 := Nat.mod_eq_of_lt (by omega)
      simp [State.srCommonValue, hcur, isSys, hhigh, hgrp]
    all_goals simp [State.srCommonValue, hcur, isSys, State.placeOf, bits, hgrp]
  · rintro p rfl
    exact ⟨put _ rfl rfl rfl, put _ rfl rfl rfl, put _ rfl rfl rfl, put _ rfl rfl rfl⟩

/-! ## What a write leaves (R52, R346, R217) -/

/-- Nothing but the scalar side of a system-class core, its own registers, and registers of packages and contexts. -/
def OwnCoreOnly (s t : State) (p q r : Nat) : Prop :=
  t.cur = s.cur ∧ t.mem = s.mem ∧ t.groups = s.groups ∧ t.ops = s.ops
  ∧ (∀ j, j ≠ coreKey p q r → SMap.find t.cores j = SMap.find s.cores j) ∧ ∀ a, t.readS a = s.readS a

theorem OwnCoreOnly.trans {s t u : State} {p q r : Nat} (h : OwnCoreOnly s t p q r) (h' : OwnCoreOnly t u p q r) :
    OwnCoreOnly s u p q r := by
  obtain ⟨hcur, hmem, hgroups, hops, hcores, hreads⟩ := h
  obtain ⟨hcur', hmem', hgroups', hops', hcores', hreads'⟩ := h'
  exact ⟨hcur'.trans hcur, hmem'.trans hmem, hgroups'.trans hgroups, hops'.trans hops,
    fun j hj => (hcores' j hj).trans (hcores j hj), fun a => (hreads' a).trans (hreads a)⟩

theorem ownCoreOnly_release (s : State) (w : Who) (n p q r : Nat) : OwnCoreOnly s (s.release w n) p q r := by
  unfold State.release
  split <;> exact ⟨rfl, rfl, rfl, rfl, fun _ _ => rfl, fun _ => rfl⟩

theorem ownCoreOnly_setPkg (s : State) (k : Nat) (x : Pkg) (p q r : Nat) : OwnCoreOnly s (s.setPkg k x) p q r :=
  ⟨rfl, rfl, rfl, rfl, fun _ _ => rfl, fun _ => rfl⟩

theorem ownCoreOnly_setCtx (s : State) (k c : Nat) (x : Ctx) (p q r : Nat) : OwnCoreOnly s (s.setCtx k c x) p q r :=
  ⟨rfl, rfl, rfl, rfl, fun _ _ => rfl, fun _ => rfl⟩

/-- A core written with its scalar registers and its slot's mask as they were. -/
theorem ownCoreOnly_setCore {s : State} {p q r : Nat} (hcur : s.cur = .sys p q r) {x : SysCore}
    (hregs : x.hart.sregs = (s.core p q r).hart.sregs) (hslot : x.slot = (s.core p q r).slot) :
    OwnCoreOnly s (s.setCore p q r x) p q r := by
  refine ⟨rfl, rfl, rfl, rfl, fun j hj => SMap.find_put_other _ _ hj, fun a => ?_⟩
  simp [State.readS_eq, State.hart, State.slot, hcur, hregs, hslot]

theorem ownCoreOnly_retire {s : State} {p q r : Nat} (hcur : s.cur = .sys p q r) : OwnCoreOnly s s.retire p q r := by
  obtain ⟨hs, hcore⟩ := elsewhere_retire s 1
  rw [hcur] at hcore
  obtain ⟨hgroups, hcores, -⟩ := hcore
  refine ⟨State.retire_cur _ _, ?_, hgroups, ?_, hcores, State.readS_retire s 1⟩ <;> rw [hs]

/-- What retiring leaves of the registers that hold values. -/
theorem retire_registers {s : State} {p q r : Nat} (hcur : s.cur = .sys p q r) : s.retire.pkgs = s.pkgs
    ∧ s.retire.ctxs = s.ctxs ∧ (s.retire.core p q r).srs = (s.core p q r).srs
    ∧ (s.retire.core p q r).hart.trap = (s.core p q r).hart.trap := by
  have hhart := State.retire_hart s 1
  obtain ⟨hs, hcore⟩ := elsewhere_retire s 1
  rw [hcur] at hcore hhart
  obtain ⟨-, -, hcore⟩ := hcore
  refine ⟨by rw [hs], by rw [hs], by rw [hcore], ?_⟩
  rw [show (s.retire.core p q r).hart = s.retire.hart (.sys p q r) from rfl, hhart]
  rfl

/-- A write has been taken: the register reads it, now and when the instruction is retired. -/
def Taken (s t : State) (p q r n : Nat) (v : Dword) : Prop :=
  OwnCoreOnly s t p q r ∧ t.srValue n = some v ∧ t.retire.srValue n = some v

/-- How one class of registers is written and read: what is read depends only on what retiring leaves. -/
theorem taken_of {s t : State} {p q r n : Nat} {v : Dword} (hcur : s.cur = .sys p q r) (hown : OwnCoreOnly s t p q r)
    (hread : ∀ u : State, u.cur = .sys p q r → u.pkgs = t.pkgs → u.ctxs = t.ctxs →
      (u.core p q r).srs = (t.core p q r).srs → (u.core p q r).hart.trap = (t.core p q r).hart.trap →
      u.srValue n = some v) : Taken s t p q r n v := by
  have htcur : t.cur = .sys p q r := hown.1.trans hcur
  obtain ⟨hpkgs, hctxs, hsrs, htrap⟩ := retire_registers htcur
  exact ⟨hown, hread t htcur rfl rfl rfl rfl, hread _ ((State.retire_cur _ _).trans htcur) hpkgs hctxs hsrs htrap⟩

section Classes

variable {s : State} {p q r n : Nat} {v : Dword} (hcur : s.cur = .sys p q r)
include hcur

/-- A register that a package has once. -/
theorem taken_package (hn : n ∈ [0x50, 0x51, 0x54, 0x55, 0x102, 0x103, 0x182, 0x183, 0x18B]) :
    Taken s (s.setPkg s.selPkg ((s.pkg s.selPkg).setReg n v)) p q r n v := by
  refine taken_of hcur (ownCoreOnly_setPkg _ _ _ _ _ _) fun u hu hpkgs _ _ _ => ?_
  have hreg : (u.pkg p).reg n = v := by
    simp [State.pkg, hpkgs, State.setPkg, State.selPkg, State.pkgOf, State.placeOf, hcur, Pkg.reg, Pkg.setReg]
  fin_cases hn <;> simpa [State.srValue, srReadable, srCommon, srTrap, srSystem, isSys, hu, State.srTrapValue,
    State.srSystemValue, State.selPkg, State.pkgOf, State.placeOf] using hreg

/-- A register of the context that CTXSEL selects. -/
theorem taken_context (hn : n ∈ [0x21, 0x23, 0x57]) : Taken s (s.setCtxReg s.selPkg s.selCtx n v) p q r n v := by
  refine taken_of hcur (ownCoreOnly_setCtx _ _ _ _ _ _ _) fun u hu _ hctxs hsrs _ => ?_
  have hsel : u.selCtx = s.selCtx := by
    simp only [State.selCtx, State.ownReg, hu, hcur, hsrs]
    rfl
  have hreg : u.ctxReg p u.selCtx n = v := by
    rw [hsel, State.ctxReg, State.ctx, hctxs]
    simp [State.setCtxReg, State.setCtx, State.selPkg, State.pkgOf, State.placeOf, hcur]
  fin_cases hn <;> simpa [State.srValue, srReadable, srCommon, srTrap, srSystem, isSys, hu, State.srCommonValue,
    State.srTrapValue, State.selPkg, State.pkgOf, State.placeOf] using hreg

/-- ROOT of the context that CTXSEL selects. -/
theorem taken_root : Taken s (s.setCtx s.selPkg s.selCtx { s.ctx s.selPkg s.selCtx with root := v, direct := false })
    p q r 0x101 v := by
  refine taken_of hcur (ownCoreOnly_setCtx _ _ _ _ _ _ _) fun u hu _ hctxs hsrs _ => ?_
  have hsel : u.selCtx = s.selCtx := by
    simp only [State.selCtx, State.ownReg, hu, hcur, hsrs]
    rfl
  have hroot : (u.ctx p u.selCtx).root = v := by
    rw [hsel, State.ctx, hctxs]
    simp [State.setCtx, State.selPkg, State.pkgOf, State.placeOf, hcur]
  simpa [State.srValue, srReadable, srCommon, srTrap, srSystem, isSys, hu, State.srSystemValue, State.selPkg, State.pkgOf,
    State.placeOf] using hroot

/-- A register that the core has of its own. -/
theorem taken_own (hn : n ∈ [0x59, 0x100, 0x185, 0x188, 0x194]) : Taken s (s.setOwnReg n v) p q r n v := by
  have hset : s.setOwnReg n v = s.setCore p q r { s.core p q r with srs := SMap.put (s.core p q r).srs n v } := by
    simp only [State.setOwnReg, hcur]
  rw [hset]
  refine taken_of hcur (ownCoreOnly_setCore hcur rfl rfl) fun u hu _ _ hsrs _ => ?_
  have hreg : u.ownReg n = v := by simp [State.ownReg, hu, hsrs]
  fin_cases hn <;> simpa [State.srValue, srReadable, srCommon, srTrap, srSystem, isSys, hu, State.srTrapValue,
    State.srSystemValue] using hreg

/-- A trap register of the core. -/
theorem taken_trap (hn : n ∈ [0x40, 0x41, 0x44, 0x45, 0x46, 0x47, 0x48, 0x49]) :
    Taken s (s.setHart s.cur { s.hart s.cur with trap := SMap.put (s.hart s.cur).trap n v }) p q r n v := by
  simp only [hcur, State.setHart]
  refine taken_of hcur (ownCoreOnly_setCore hcur rfl rfl) fun u hu _ _ _ htrap => ?_
  have hreg : SMap.get (u.hart u.cur).trap n 0 = v := by simp [hu, State.hart, htrap]
  fin_cases hn <;> simpa [State.srValue, srReadable, srCommon, srTrap, srSystem, isSys, hu, State.srTrapValue] using hreg

end Classes

/-- A field from bit 0 that holds the value is the value. -/
theorem ofNat_bits_low {v : Dword} {h : Nat} (hv : v.toNat < 2 ^ (h + 1)) : BitVec.ofNat 64 (bits v h 0) = v := by
  rw [bits, pow_zero, Nat.div_one, Nat.sub_zero, Nat.mod_eq_of_lt hv, BitVec.ofNat_toNat, BitVec.setWidth_eq]

theorem bits_eq_zero_of_div {v : Dword} (h : Nat) {l : Nat} (hv : v.toNat / 2 ^ l = 0) : bits v h l = 0 := by
  rw [bits, hv, Nat.zero_mod]

theorem bits_eq_zero_of_lt {v : Dword} (h : Nat) {l : Nat} (hv : v.toNat < 2 ^ l) : bits v h l = 0 :=
  bits_eq_zero_of_div h (Nat.div_eq_of_lt hv)

section Writes

variable {s : State} {p q r n : Nat} {v : Dword} (hcur : s.cur = .sys p q r)
include hcur

theorem srWrite_trapReg (hn : srWritable true n = true) (hlow : 0x40 ≤ n) (ht : srTrap n = true) :
    s.srWrite n v = s.writeTrapReg n v := by
  rw [State.srWrite, show srWritable (isSys s.cur) n = true by rw [hcur]; exact hn, ht, if_neg (show n ≠ 0x12 by omega),
    if_neg (show ¬ n < 0x40 by omega)]
  rfl

theorem srWrite_systemReg (hn : srWritable true n = true) (hlow : 0x40 ≤ n) (ht : srTrap n = false) :
    s.srWrite n v = s.writeSystemReg n v := by
  rw [State.srWrite, show srWritable (isSys s.cur) n = true by rw [hcur]; exact hn, ht, if_neg (show n ≠ 0x12 by omega),
    if_neg (show ¬ n < 0x40 by omega)]
  rfl

/-- The registers that take every value. -/
theorem srWrite_taken_any (h : n ∈ [0x21, 0x23, 0x41, 0x44, 0x45, 0x46, 0x49, 0x50, 0x51, 0x54, 0x55, 0x57, 0x103, 0x183]) :
    ∃ t, s.srWrite n v = .ok t ∧ Taken s t p q r n v := by
  have hclass : n ∈ [0x50, 0x51, 0x54, 0x55, 0x103, 0x183] ∨ n ∈ [0x21, 0x23, 0x57] ∨ n ∈ [0x41, 0x44, 0x45, 0x46, 0x49] := by
    revert n
    decide
  have hsys : isSys s.cur = true := by rw [hcur]; rfl
  rcases hclass with hn | hn | hn
  · refine ⟨_, ?_, taken_package hcur (by revert n; decide)⟩
    rw [State.srWrite, hsys]
    fin_cases hn <;> rfl
  · refine ⟨_, ?_, taken_context hcur hn⟩
    rw [State.srWrite, hsys]
    fin_cases hn <;> rfl
  · refine ⟨_, ?_, taken_trap hcur (by revert n; decide)⟩
    rw [State.srWrite, hsys]
    fin_cases hn <;> rfl

/-- A register that holds what is written takes the write. -/
theorem srWrite_taken (h : Holds n v) : ∃ t, s.srWrite n v = .ok t ∧ Taken s t p q r n v := by
  have trap {n : Nat} {x : Dword} (hx : x = v) (hn : n ∈ [0x40, 0x41, 0x44, 0x45, 0x46, 0x47, 0x48, 0x49])
      (hw : s.srWrite n v = .ok (s.setHart s.cur { s.hart s.cur with trap := SMap.put (s.hart s.cur).trap n x })) :
      ∃ t, s.srWrite n v = .ok t ∧ Taken s t p q r n v := ⟨_, hw, hx ▸ taken_trap hcur hn⟩
  rcases h with h | ⟨rfl, hv⟩ | ⟨rfl, hv⟩ | ⟨rfl, hv⟩ | ⟨rfl, hv⟩ | ⟨rfl, hv, hv', hv''⟩ | ⟨rfl, hv⟩ | ⟨rfl, hv⟩
    | ⟨rfl, hv⟩ | ⟨rfl, hv⟩ | ⟨rfl, hv⟩ | ⟨rfl, hv⟩ | ⟨rfl, hv⟩
  · exact srWrite_taken_any hcur h
  · exact trap (ofNat_bits_low hv) (by decide) (srWrite_trapReg hcur rfl (by decide) rfl)
  · exact trap (ofNat_bits_low hv) (by decide) (srWrite_trapReg hcur rfl (by decide) rfl)
  · exact trap (ofNat_bits_low hv) (by decide) (srWrite_trapReg hcur rfl (by decide) rfl)
  · refine ⟨_, ?_, taken_own hcur (by decide)⟩
    rw [srWrite_trapReg hcur rfl (by decide) rfl, State.writeTrapReg]
    rw [ofNat_bits_low (v := v) (h := 9) hv]
  · refine ⟨_, ?_, taken_root hcur⟩
    have hbits : bits v 7 5 = 0 ∧ bits v 4 0 ≤ 21 := ⟨hv', by simpa [bits] using hv''⟩
    rw [srWrite_systemReg hcur rfl (by decide) rfl, State.writeSystemReg]
    simp [bits_eq_zero_of_lt 63 hv, hbits]
  · refine ⟨_, ?_, taken_package hcur (by decide)⟩
    rw [srWrite_systemReg hcur rfl (by decide) rfl, State.writeSystemReg]
    simpa [bits] using hv
  · refine ⟨_, ?_, taken_package hcur (by decide)⟩
    rw [srWrite_systemReg hcur rfl (by decide) rfl, State.writeSystemReg]
    simpa [bits] using hv
  · refine ⟨_, ?_, taken_own hcur (by decide)⟩
    rw [srWrite_systemReg hcur rfl (by decide) rfl, State.writeSystemReg]
    simp [bits_eq_zero_of_lt 63 hv]
  · refine ⟨_, ?_, taken_own hcur (by decide)⟩
    rw [srWrite_systemReg hcur rfl (by decide) rfl, State.writeSystemReg]
    simp [bits_eq_zero_of_lt 63 hv]
  · refine ⟨_, ?_, taken_own hcur (by decide)⟩
    rw [srWrite_systemReg hcur rfl (by decide) rfl, State.writeSystemReg]
    simp [hv]
  · refine ⟨_, ?_, taken_package hcur (by decide)⟩
    have hrange : (v == 0 || (decide (600 ≤ v.toNat) && decide (v.toNat ≤ 2400))) = true := by simpa using hv
    rw [srWrite_systemReg hcur rfl (by decide) rfl, State.writeSystemReg]
    simp only [hrange, if_true]
  · refine ⟨_, ?_, taken_own hcur (by decide)⟩
    rw [srWrite_systemReg hcur rfl (by decide) rfl, State.writeSystemReg]
    simp [bits_eq_zero_of_lt 63 hv]

end Writes

/-! ## The instruction `swsr` -/

theorem exec_swsr_release_waits {d : BitVec 8} {n : BitVec 16} {s : State} (h : Ready s [d]) (hsys : isSys s.cur = true)
    (hn : n.toNat ∈ releasing) (hbusy : s.accessInFlight = true) : exec (.swsr d n) s = waits s .drain := by
  show execSwsr d n s = _
  rw [execSwsr, show s.need [d] = .ok () from h, except_ok_bind, hsys, (srReleases_iff _).2 hn, hbusy]
  rfl

/-- `swsr` as a write, of a register that is a release on the state that the release leaves. -/
theorem exec_swsr_next {d : BitVec 8} {n : BitVec 16} {s t : State} (h : Ready s [d])
    (hfree : (isSys s.cur && srReleases n.toNat) = true → s.accessInFlight = false)
    (hw : (if (isSys s.cur && srReleases n.toNat) = true then s.release s.thread 4 else s).srWrite n.toNat (s.readS d) = .ok t) :
    exec (.swsr d n) s = .next t.retire := by
  show execSwsr d n s = _
  rw [execSwsr, show s.need [d] = .ok () from h, except_ok_bind]
  cases hr : isSys s.cur && srReleases n.toNat
  · rw [hr, if_neg (by simp)] at hw
    rw [if_neg (by simp), hw]
    rfl
  · rw [hr, if_pos rfl] at hw
    rw [if_pos rfl, hfree hr, Bool.not_false, guardRes_true, except_ok_bind, hw]
    rfl

theorem registerWrites : RegisterWrites := by
  intro d n s p q r hcur h hn
  have hsys : isSys s.cur = true := by rw [hcur]; rfl
  refine ⟨fun hrel hbusy => exec_swsr_release_waits h hsys hrel hbusy, fun hfree => ?_⟩
  have hrel : (isSys s.cur && srReleases n.toNat) = true → s.accessInFlight = false := by
    rw [hsys, Bool.true_and, srReleases_iff]
    exact hfree
  have hown : OwnCoreOnly s (if (isSys s.cur && srReleases n.toNat) = true then s.release s.thread 4 else s) p q r := by
    split
    · exact ownCoreOnly_release _ _ _ _ _ _
    · exact ⟨rfl, rfl, rfl, rfl, fun _ _ => rfl, fun _ => rfl⟩
  obtain ⟨t, hw, htaken, -, hread⟩ := srWrite_taken (hown.1.trans hcur) hn
  have hkept := (hown.trans htaken).trans (ownCoreOnly_retire (htaken.1.trans (hown.1.trans hcur)))
  obtain ⟨-, hmem, hgroups, hops, hcores, hreads⟩ := hkept
  exact ⟨_, exec_swsr_next h hrel hw, hread, hmem, hgroups, hops, hcores, hreads⟩

/-- Settles O16: registers read as the state has them; each class of those that hold values is written and read in one
place, which retiring the instruction leaves alone. -/
theorem registers : Obligations.Registers := ⟨registerReads, registerWrites⟩

end Sys2Proof.Proofs

/-! Writes of system registers that act: O17. -/

namespace Sys2Proof.Proofs

open Host (Outcome)
open Sys2Proof Sys2Proof.Machine Sys2Proof.Stated

theorem regEvent_ok {s t : State} {n : Nat} {v : Dword} (h : s.srWrite n v = .ok t) : regEvent s n v = .next t := by
  rw [regEvent, h]

theorem regEvent_error {s : State} {n : Nat} {v : Dword} {e : Exc} (h : s.srWrite n v = .error e) :
    regEvent s n v = .next s := by
  rw [regEvent, h]

section Events

variable {s : State} {p q r : Nat} (hcur : s.cur = .sys p q r)
include hcur

theorem selPkg_eq : s.selPkg = p := by rw [State.selPkg, hcur]; rfl

theorem ownReg_eq (n : Nat) : s.ownReg n = SMap.get (s.core p q r).srs n 0 := by rw [State.ownReg, hcur]

/-! ## Translation and time (R218, R390) -/

theorem translationFlush_of {v : Dword} (hhigh : v.toNat / 2 ^ 57 = 0) (hlow : v.toNat / 2 ^ 7 % 2 ^ 9 = 0) :
    s.srWrite 0x106 v = if s.translatedWaits p (v.toNat % 64) then .error (.wait .drain s)
      else .ok (s.flush p (v.toNat % 64) (bitAt v 6) (v.toNat / 2 ^ 16 * 2 ^ 16)) := by
  have hbits : bits v 63 57 = 0 ∧ bits v 15 7 = 0 := ⟨bits_eq_zero_of_div 63 hhigh, hlow⟩
  rw [srWrite_systemReg hcur rfl (by decide) rfl]
  show s.writeFlush v = _
  rw [State.writeFlush, hbits.1, hbits.2, bits_5_0, selPkg_eq hcur]
  rfl

end Events

theorem translationFlush : TranslationFlush := by
  intro v s p q r hcur hhigh hlow
  have hw := translationFlush_of hcur hhigh hlow
  refine ⟨fun hwait => ?_, fun hfree => ?_⟩
  · rw [hwait, if_pos rfl] at hw
    exact regEvent_error hw
  · rw [hfree, if_neg (by simp)] at hw
    refine ⟨_, regEvent_ok hw, rfl, fun e => ?_⟩
    simp only [State.flush, bitAt, List.mem_filter, Bool.not_eq_true', Bool.and_eq_false_iff, Bool.or_eq_false_iff,
      beq_eq_false_iff_ne, not_and_or, not_or, Bool.not_eq_true]

/-- A map over values keeps the keys. -/
theorem SMap.find_map {α β : Type} (f : α → β) (m : SMap α) (k : Nat) :
    SMap.find (m.map fun e => (e.1, f e.2)) k = (SMap.find m k).map f := by
  induction m with
  | nil => rfl
  | cons e m ih =>
    obtain ⟨j, x⟩ := e
    by_cases h : j = k <;> simp_all [SMap.find]

theorem timeWrites : TimeWrites := by
  intro v s p q r hcur
  have hw : s.srWrite 0x12 v = .ok (s.writeTimens v) := by rw [State.srWrite, hcur]; rfl
  refine ⟨fun hp => ?_, fun hp => ?_⟩
  · have ht : s.writeTimens v = { s with pkgs := s.pkgs.map fun e => (e.1, { e.2 with timeT := v, timeAt := s.cycle }) } :=
      if_pos ((selPkg_eq hcur).trans hp)
    refine ⟨_, regEvent_ok hw, by rw [ht], fun j x hj => ?_⟩
    have hfind : SMap.find (s.writeTimens v).pkgs j = some { x with timeT := v, timeAt := s.cycle } := by
      rw [ht]
      exact (SMap.find_map (fun x : Pkg => { x with timeT := v, timeAt := s.cycle }) s.pkgs j).trans (by rw [hj])
    have hcycle : (s.writeTimens v).cycle = s.cycle := by rw [ht]
    refine ⟨hfind, ?_⟩
    simp [State.timens, State.pkg, SMap.get, hfind, hcycle]
  · have ht : s.writeTimens v = s := if_neg (by rw [selPkg_eq hcur]; exact hp)
    exact regEvent_ok (hw.trans (by rw [ht]))

/-! ## Tables, quanta, and the registers that hold (R363, R386, R387) -/

theorem plentWrite_of {s : State} {p q r : Nat} (hcur : s.cur = .sys p q r) (v : Dword) :
    exec (.plentWrite v) s = .next (s.writePlent v) :=
  regEvent_ok (srWrite_trapReg hcur rfl (by decide) rfl)

theorem placeEntry_writePlent {s : State} {p q r : Nat} (hcur : s.cur = .sys p q r) (v : Dword) (die core : Nat) :
    (s.writePlent v).placeEntry p die core =
      if die * 128 + core = bits (s.ownReg 0x59) 9 7 * 128 + bits (s.ownReg 0x59) 6 0 then v.setWidth 8
      else s.placeEntry p die core := by
  simp only [State.placeEntry, State.writePlent, selPkg_eq hcur, State.pkg_setPkg]
  split
  · rename_i h
    rw [h, SMap.get_put_same]
  · rename_i h
    rw [SMap.get_put_other _ _ _ h]

theorem routeTableWrite_of {s : State} {p q r n : Nat} (hcur : s.cur = .sys p q r) {v : Dword} (hn : n = 0x186 ∨ n = 0x187)
    (hv : n = 0x187 → v.toNat / 2 ^ 16 = 0 ∧ v.toNat / 2 ^ 12 % 8 = 0) : ∃ t, exec (.routeTableWrite n v) s = .next t
      ∧ SMap.get (t.pkg p).routes (2 * bits (s.ownReg 0x185) 9 0 + (n - 0x186)) 0 = v := by
  have hbad : ¬ ((decide (n = 0x187) && (decide (bits v 63 16 ≠ 0) || decide (bits v 14 12 ≠ 0))) = true) := by
    simp only [Bool.and_eq_true, Bool.or_eq_true, decide_eq_true_eq]
    rintro ⟨hn7, hb⟩
    obtain ⟨hhigh, hlow⟩ := hv hn7
    exact hb.elim (fun h => h (bits_eq_zero_of_div 63 hhigh)) fun h => h hlow
  have hw : s.srWrite n v = s.writeRoute n v := by
    rcases hn with rfl | rfl <;> exact srWrite_systemReg hcur rfl (by decide) rfl
  rw [State.writeRoute, if_neg hbad] at hw
  have hexec : exec (.routeTableWrite n v) s = regEvent s n v := if_pos (by simpa using hn)
  exact ⟨_, hexec.trans (regEvent_ok hw), by simp [selPkg_eq hcur]⟩

theorem streamqWrite_of {s : State} {p q r : Nat} (hcur : s.cur = .sys p q r) {v : Dword} (hv : v.toNat ≤ 2 ^ 40) :
    exec (.streamqWrite v) s = .next (s.setQuantum (streamOfSel p (s.ownReg 0x194)) v.toNat) := by
  refine regEvent_ok ((srWrite_systemReg hcur rfl (by decide) rfl).trans ?_)
  show s.writeStreamq v = _
  rw [State.writeStreamq, if_neg (by omega), selPkg_eq hcur]

theorem stream_setQuantum (s : State) (k v : Nat) :
    (s.setQuantum k v).stream k = { s.stream k with next := some (if v = 0 then 2 ^ 20 else v) } := by
  simp [State.stream, State.setQuantum]

theorem systemRegisterWrite_of {s : State} {p q r n : Nat} (hcur : s.cur = .sys p q r) {v : Dword} (h : Holds n v) :
    ∃ t, exec (.systemRegisterWrite n v) s = .next t ∧ t.srValue n = some v := by
  have hn : [0x12, 0x5A, 0x106, 0x180, 0x181, 0x186, 0x187, 0x18C, 0x191, 0x193, 0x195].contains n = false := by
    simp only [Holds, List.mem_cons, List.not_mem_nil, or_false] at h
    simp only [List.contains_eq_mem, List.mem_cons, List.not_mem_nil, or_false, decide_eq_false_iff_not]
    omega
  obtain ⟨t, hw, -, ht, -⟩ := srWrite_taken hcur h
  refine ⟨t, ?_, ht⟩
  show execSystemRegisterWrite n v s = _
  rw [execSystemRegisterWrite, hn]
  exact regEvent_ok hw

theorem selectedWrites : SelectedWrites := by
  intro v s p q r hcur reg
  have hreg (n : Nat) : reg n = s.ownReg n := (ownReg_eq hcur n).symm
  simp only [hreg]
  refine ⟨⟨_, plentWrite_of hcur v, ?_, fun die core hne => ?_⟩, ⟨?_, fun hhigh hlow => ?_⟩, fun hv => ?_,
    fun n hn => systemRegisterWrite_of hcur hn⟩
  · rw [placeEntry_writePlent hcur, if_pos]
    simp [bits]
  · rw [placeEntry_writePlent hcur, if_neg]
    simpa [bits] using hne
  · have h := routeTableWrite_of hcur (v := v) (.inl rfl) (fun h => absurd h (by decide))
    simpa [bits] using h
  · have h := routeTableWrite_of hcur (v := v) (.inr rfl) (fun _ => ⟨hhigh, hlow⟩)
    simpa [bits] using h
  · refine ⟨_, streamqWrite_of hcur hv, ?_, ?_, ?_⟩
    · rw [stream_setQuantum]
      simp [← BitVec.toNat_inj]
    · rw [stream_setQuantum]
    · show BitVec.ofNat 64 ((s.setQuantum _ _).stream (streamOfSel s.selPkg (s.ownReg 0x194))).quantum = _
      rw [selPkg_eq hcur, stream_setQuantum]
      show _ = BitVec.ofNat 64 (s.stream (streamOfSel s.selPkg (s.ownReg 0x194))).quantum
      rw [selPkg_eq hcur]

/-! ## Unit tags (R387) -/

/-- A selection of one unit that has a key and is not held. -/
theorem tagSelected_one {s : State} {p key : Nat} {sel : Dword} (t : Option UnitTag) (hcount : unitCount sel = 1)
    (hkey : s.unitKey p (unitDie sel) (unitCore sel) (unitFirst sel) = some key)
    (hheld : s.unitHeld p (unitDie sel) (unitCore sel) (unitFirst sel) = false)
    (hctx : ∀ x y, t = some x → SMap.find s.units key = some y → y.ctx = x.ctx) :
    s.tagSelected p sel t false = some (s.setUnit key t false) := by
  have hunits : (List.range 1).map (unitFirst sel + ·) = [unitFirst sel] := rfl
  simp only [State.tagSelected, hcount, hunits, List.filterMap_cons, hkey, List.filterMap_nil, List.length_singleton,
    List.any_cons, hheld, List.any_nil, List.foldl_cons, List.foldl_nil]
  cases t with
  | none => rfl
  | some x =>
    cases hy : SMap.find s.units key with
    | none => rfl
    | some y => simp [hctx x y rfl hy]

/-- A word of a context's number names it, and sets no other bit. -/
theorem ctxWord_bits {c : Nat} (hc : c < 64) : bits (BitVec.ofNat 64 c) 63 9 = 0 ∧ bits (BitVec.ofNat 64 c) 63 11 = 0
    ∧ bits (BitVec.ofNat 64 c) 7 6 = 0 ∧ bits (BitVec.ofNat 64 c) 5 0 = c ∧ bitAt (BitVec.ofNat 64 c) 8 = false
    ∧ bitAt (BitVec.ofNat 64 c) 9 = false ∧ bitAt (BitVec.ofNat 64 c) 10 = false := by
  revert c
  decide

theorem unitTag_of {s : State} {p q r c : Nat} (hcur : s.cur = .sys p q r) (hc : c < 64) {t : State}
    (ht : s.tagSelected p (s.ownReg 0x190) (some { ctx := c, race := false }) false = some t) :
    exec (.unitTag (BitVec.ofNat 64 c)) s = .next t := by
  obtain ⟨-, h11, h6, h0, b8, b9, b10⟩ := ctxWord_bits hc
  have hexec : exec (.unitTag (BitVec.ofNat 64 c)) s = regEvent s 0x191 (BitVec.ofNat 64 c) := if_neg (by simp [b8])
  refine hexec.trans (regEvent_ok ((srWrite_systemReg hcur rfl (by decide) rfl).trans ?_))
  show s.writeUnittag _ = _
  simp [State.writeUnittag, h11, h6, h0, b8, b9, b10, selPkg_eq hcur, ht]

theorem unitFree_of {s : State} {p q r : Nat} (hcur : s.cur = .sys p q r) {t : State}
    (ht : s.tagSelected p (s.ownReg 0x190) none false = some t) : exec (.unitFree 0x100) s = .next t := by
  have hexec : exec (.unitFree 0x100) s = regEvent s 0x191 0x100 := rfl
  refine hexec.trans (regEvent_ok ((srWrite_systemReg hcur rfl (by decide) rfl).trans ?_))
  show (match s.tagSelected s.selPkg (s.ownReg 0x190) none false with | none => _ | some s1 => Except.ok s1) = _
  rw [selPkg_eq hcur, ht]

/-! ## Board windows (R284, R359) -/

/-- What an allotment leaves of the window, given the state in which the window's old contents are kept. -/
def allotted (s : State) (key win : Nat) (b : Board) (ctx : Option Nat) : State := s.setBoard key { b with
  owners := match ctx with | some c => SMap.put b.owners win c | none => SMap.erase b.owners win
  bits := SMap.erase b.bits win
  triggers := b.triggers.filter fun e => e.2.win != win }

section Boards

variable {s : State} {p : Nat} {sel : Dword} {key win : Nat} {ctx : Option Nat}
  (hk : coreKey p (unitDie sel) (unitCore sel) = key) (hwin : bits sel 11 10 = win)
include hk hwin

theorem allotWindow_fresh (hold : SMap.find (s.board key).owners win = none) (hne : ctx ≠ none) :
    s.allotWindow p sel ctx = some (allotted s key win (s.board key) ctx) := by
  unfold State.allotWindow
  simp only [hk, hwin]
  simp [hold, Ne.symm hne]
  rfl

theorem allotWindow_taken {c : Nat} (hold : SMap.find (s.board key).owners win = some c) (hne : ctx ≠ some c)
    (hsus : (s.ctx p c).suspended = true) :
    s.allotWindow p sel ctx = some (allotted (s.saveWindow p key win c) key win (s.board key) ctx) := by
  unfold State.allotWindow
  simp only [hk, hwin]
  simp [hold, Ne.symm hne, hsus]
  rfl

end Boards

theorem board_allotted (s : State) (key win : Nat) (b : Board) (ctx : Option Nat) :
    SMap.find ((allotted s key win b ctx).board key).owners win = ctx
    ∧ SMap.get ((allotted s key win b ctx).board key).bits win 0 = 0 := by
  cases ctx <;>
    simp [allotted, State.board, State.setBoard, SMap.find_put_same, SMap.find_erase_same, SMap.get]

/-- What a suspended context held in a window that is taken from it is kept with it. -/
theorem saveWindow_keeps (s : State) (p key win c : Nat) (b : Board) (ctx : Option Nat) :
    ∃ x, SMap.find ((allotted (s.saveWindow p key win c) key win b ctx).ctx p c).boards (4 * key + win) = some x
      ∧ SMap.get x.bits win 0 = SMap.get (s.board key).bits win 0
      ∧ x.triggers = (s.board key).triggers.filter fun e => e.2.win == win && e.2.ctx == c := by
  have hkept : SMap.find ((s.saveWindow p key win c).ctx p c).boards (4 * key + win) = some
      { bits := SMap.set [] win (SMap.get (s.board key).bits win 0) 0
        triggers := (s.board key).triggers.filter fun e => e.2.win == win && e.2.ctx == c } := by
    simp only [State.saveWindow, State.ctx_setCtx]
    exact SMap.find_put_same _ _ _
  exact ⟨_, hkept, SMap.get_set_same _ _ _ _, rfl⟩

theorem boardAllot_of {s : State} {p q r c : Nat} (hcur : s.cur = .sys p q r) (hc : c < 64) {t : State}
    (ht : s.allotWindow p (s.ownReg 0x192) (some c) = some t) : exec (.boardAllot (BitVec.ofNat 64 c)) s = .next t := by
  obtain ⟨h9, -, h6, h0, b8, -, -⟩ := ctxWord_bits hc
  have hexec : exec (.boardAllot (BitVec.ofNat 64 c)) s = regEvent s 0x193 (BitVec.ofNat 64 c) := if_neg (by simp [b8])
  refine hexec.trans (regEvent_ok ((srWrite_systemReg hcur rfl (by decide) rfl).trans ?_))
  show s.writeBoardallot _ = _
  simp [State.writeBoardallot, h9, h6, h0, b8, selPkg_eq hcur, ht]

theorem boardFree_of {s : State} {p q r : Nat} (hcur : s.cur = .sys p q r) {t : State}
    (ht : s.allotWindow p (s.ownReg 0x192) none = some t) : exec (.boardFree 0x100) s = .next t := by
  have hexec : exec (.boardFree 0x100) s = regEvent s 0x193 0x100 := rfl
  refine hexec.trans (regEvent_ok ((srWrite_systemReg hcur rfl (by decide) rfl).trans ?_))
  show (match s.allotWindow s.selPkg (s.ownReg 0x192) none with | none => _ | some s1 => Except.ok s1) = _
  rw [selPkg_eq hcur, ht]

theorem unitAndBoardTags : UnitAndBoardTags := by
  intro v s p q r key hcur usel bsel core win old keeps
  have husel : s.ownReg 0x190 = usel := ownReg_eq hcur _
  have hbsel : s.ownReg 0x192 = bsel := ownReg_eq hcur _
  have hdie (x : Dword) : unitDie x = x.toNat % 8 := by simp [unitDie, bits]
  have hcore : coreKey p (unitDie bsel) (unitCore bsel) = core := by rw [hdie]; rfl
  refine ⟨fun hcount hkey hheld => ?_, fun c hc hv hold => ?_, fun c hv hold hsus => ?_, fun c d hc hv hold hne hsus => ?_⟩
  · have hone : unitCount usel = 1 := congrArg (· + 1) hcount
    rw [← hdie] at hkey hheld
    refine ⟨fun c hc hctx hv => ?_, fun hv => ?_⟩
    · have htag := tagSelected_one (some { ctx := c, race := false }) hone hkey hheld fun x y hx hy => by
        cases hx
        exact hctx y hy
      rw [hv]
      exact ⟨_, unitTag_of hcur hc (by rw [husel]; exact htag), rfl⟩
    · have htag := tagSelected_one none hone hkey hheld fun x y hx => by cases hx
      rw [hv]
      exact unitFree_of hcur (by rw [husel]; exact htag)
  · rw [hv]
    refine ⟨_, boardAllot_of hcur hc (by rw [hbsel]; exact allotWindow_fresh hcore rfl hold (by simp)), ?_⟩
    exact board_allotted s core win (s.board core) (some c)
  · rw [hv]
    refine ⟨_, boardFree_of hcur (by rw [hbsel]; exact allotWindow_taken hcore rfl hold (by simp) hsus), ?_, ?_⟩
    · exact (board_allotted _ core win _ none).1
    · exact saveWindow_keeps s p core win c _ none
  · rw [hv]
    refine ⟨_, boardAllot_of hcur hc (by
      rw [hbsel]; exact allotWindow_taken hcore rfl hold (by simpa using Ne.symm hne) hsus), ?_, ?_, ?_⟩
    · exact (board_allotted _ core win _ (some c)).1
    · exact (board_allotted _ core win _ (some c)).2
    · exact saveWindow_keeps s p core win d _ (some c)

/-! ## Wakes and messages (R403, R399) -/

theorem sevsend_lane : ∀ i < 32, lanesList (1#64 <<< i) = [i] ∧ bits (1#64 <<< i) 63 32 = 0 := by decide

theorem sevSends : SevSends := by
  intro i s p q r k hi hcur die core hk u
  obtain ⟨hlane, hhigh⟩ := sevsend_lane i hi
  refine regEvent_ok ((srWrite_systemReg hcur rfl (by decide) rfl).trans ?_)
  show s.writeSevsend _ = _
  have hone : s.sevOne p die core = if k.waiting then u.setCore p die core { k with waiting := false }
      else u.wakeCore p die core 5 := by rw [State.sevOne, hk]
  rw [State.writeSevsend, hhigh, hlane, selPkg_eq hcur, ← hone]
  by_cases h16 : i < 16 <;> simp [die, core, h16]

theorem messagesSent : MessagesSent := by
  intro v s p q r head body hcur hhead hbody
  refine regEvent_ok ((srWrite_systemReg hcur rfl (by decide) rfl).trans ?_)
  show s.writeReqsend v = _
  simp only [State.writeReqsend, selPkg_eq hcur, hhead, except_ok_bind, hbody]

/-- Settles O17: each write is the register's own function of the state, on the selection that the writing core has made. -/
theorem systemWrites : Obligations.SystemWrites :=
  ⟨translationFlush, timeWrites, selectedWrites, unitAndBoardTags, sevSends, messagesSent⟩

end Sys2Proof.Proofs

/-! Where translations end: O10. -/

namespace Sys2Proof.Proofs

open Host (Outcome)
open Sys2Proof Sys2Proof.Machine Sys2Proof.Stated

/-! ## The ranges of an address (R54) -/

theorem isWindow_iff (va : Dword) : isWindow va = true ↔ va.toNat / 2 ^ 40 = 0xF000 := by simp [isWindow]
theorem isAlias_iff (va : Dword) : isAlias va = true ↔ va.toNat / 2 ^ 20 = 0xE00000000 := by simp [isAlias]

section Ranges

variable {s : State} {w : Who} {va : Dword} {k : AccKind}

theorem xlate_high (h : 2 ^ 57 ≤ va.toNat) : s.xlate w va k = (.bad, s) := by
  rw [State.xlate, if_pos (by omega)]

theorem xlate_window (h : isWindow va = true) : s.xlate w va k = (s.placeXlate w (va.toNat % 2 ^ 40) k, s) := by
  rw [State.xlate, if_neg (by rw [isWindow_iff] at h; omega), if_pos h]

/-- An address of the aliased local range names a place only for a lane and a thread. -/
theorem xlate_alias (h : isAlias va = true) : s.xlate w va k = match w.kind with
    | .core | .engine => (.bad, s)
    | _ => (s.placeXlate w (w.pkg * 2 ^ 30 + w.die * 2 ^ 27 + w.core * 2 ^ 20 + va.toNat % 2 ^ 20) k, s) := by
  have ha := (isAlias_iff va).1 h
  have hw : ¬ isWindow va = true := by rw [isWindow_iff]; omega
  exact (if_neg (by omega)).trans ((if_neg hw).trans (if_pos h))

/-- Any other address goes by the page tables; a core has no use for the cause of a miss. -/
theorem xlate_pages (hlow : va.toNat < 2 ^ 57) (hw : ¬ isWindow va = true) (ha : ¬ isAlias va = true) :
    s.xlate w va k = match w.kind, (s.pageXlate w va.toNat k).1 with
      | .core, .miss _ => (.bad, (s.pageXlate w va.toNat k).2)
      | _, _ => s.pageXlate w va.toNat k := by
  exact (if_neg (by omega)).trans ((if_neg hw).trans (if_neg ha))

theorem xlate_pages_of_not_core (hlow : va.toNat < 2 ^ 57) (hw : ¬ isWindow va = true) (ha : ¬ isAlias va = true)
    (hk : w.kind ≠ .core) : s.xlate w va k = s.pageXlate w va.toNat k := by
  rw [xlate_pages hlow hw ha]
  split
  · contradiction
  · rfl

theorem xlate_core (hlow : va.toNat < 2 ^ 57) (hw : ¬ isWindow va = true) (ha : ¬ isAlias va = true)
    (hk : w.kind = .core) : (s.xlate w va k).1 = match (s.pageXlate w va.toNat k).1 with
      | .miss _ => .bad
      | x => x := by
  rw [xlate_pages hlow hw ha, hk]
  cases h : (s.pageXlate w va.toNat k).1 <;> simp [h]

theorem placeXlate_fetch (place : Nat) : s.placeXlate w place .fetch = .bad := rfl

/-- The page tables are those of the context, whoever accesses. -/
theorem pageXlate_kind (s : State) (w : Who) (kind : WhoKind) (va : Nat) (k : AccKind) :
    s.pageXlate { w with kind := kind } va k = s.pageXlate w va k := rfl

theorem pageXlate_direct (h : (s.ctx w.pkg w.ctx).direct = true) {a : Nat} (ha : a < 2 ^ 36) :
    s.pageXlate w a k = (.at { key := w.pkg * 2 ^ 39 + a, addr := w.pkg * 2 ^ 39 + a }, s) := by
  rw [State.pageXlate, if_pos h, if_pos ha]

end Ranges

theorem placeXlate_ne_miss (s : State) (w : Who) (place : Nat) (k : AccKind) (c : Nat) :
    s.placeXlate w place k ≠ .miss c := by
  unfold State.placeXlate
  simp only
  repeat' split
  all_goals simp

/-- A core sees no missing page and no permission. -/
theorem xlate_core_ne_miss (s : State) {w : Who} (va : Dword) (k : AccKind) (hk : w.kind = .core) (c : Nat) :
    (s.xlate w va k).1 ≠ .miss c := by
  by_cases hhigh : 2 ^ 57 ≤ va.toNat
  · rw [xlate_high hhigh]
    simp
  by_cases hw : isWindow va = true
  · rw [xlate_window hw]
    exact placeXlate_ne_miss _ _ _ _ _
  by_cases ha : isAlias va = true
  · rw [xlate_alias ha, hk]
    simp
  · rw [xlate_core (by omega) hw ha hk]
    split
    · simp
    · rename_i h
      exact fun hc => h _ hc

theorem addressRanges : AddressRanges := by
  intro s w va k window alias_
  have hwin : isWindow va = true ↔ window := isWindow_iff va
  have hali : isAlias va = true ↔ alias_ := isAlias_iff va
  refine ⟨fun h => by rw [xlate_high h], ?_, ?_, ?_, ?_, fun hk c => xlate_core_ne_miss s va k hk c⟩
  · rintro (h | h) rfl
    · rw [xlate_window (hwin.2 h), placeXlate_fetch]
    · rw [xlate_alias (hali.2 h)]
      split <;> simp [placeXlate_fetch]
  · intro h hk
    rw [xlate_alias (hali.2 h)]
    rcases hk with hk | hk <;> rw [hk]
  · intro hlow hw ha hdirect hva
    rw [xlate_pages hlow (hwin.not.2 hw) (hali.not.2 ha), pageXlate_direct hdirect hva]
    split <;> simp_all
  · intro hw ha hk
    by_cases hhigh : 2 ^ 57 ≤ va.toNat
    · rw [xlate_high hhigh, xlate_high hhigh]
    · have hlow : va.toNat < 2 ^ 57 := by omega
      rw [xlate_core hlow (hwin.not.2 hw) (hali.not.2 ha) hk,
        xlate_pages_of_not_core hlow (hwin.not.2 hw) (hali.not.2 ha) (by simp), pageXlate_kind]
      rfl

/-! ## Places (R208 to R210, R386) -/

theorem listed_iff (s : State) (a b : Nat) : s.listed a b = true ↔ b = a ∨
    ((s.pkg b).on = true ∧ (SMap.get (s.pkg a).routes (2 * b + 1) 0).getLsbD 15 = true
      ∧ ∃ i < 72, (SMap.get (s.pkg a).links i {}).st = 2
        ∧ (if i < 64 then (SMap.get (s.pkg a).routes (2 * b) 0).getLsbD i
            else (SMap.get (s.pkg a).routes (2 * b + 1) 0).getLsbD (i - 64)) = true) := by
  unfold State.listed
  dsimp only
  generalize hx : SMap.get (s.pkg a).routes (2 * b) 0 = x
  generalize hy : SMap.get (s.pkg a).routes (2 * b + 1) 0 = y
  have hport : ∀ i < 72, (x.toNat + 2 ^ 64 * (y.toNat % 256)).testBit i = if i < 64 then x.getLsbD i else y.getLsbD (i - 64) := by
    intro i hi
    rw [Nat.add_comm, Nat.testBit_two_pow_mul_add _ x.isLt, show 256 = 2 ^ 8 from rfl, Nat.testBit_mod_two_pow]
    split
    · rfl
    · simp [show i - 64 < 8 by omega, BitVec.getLsbD]
  simp only [Bool.or_eq_true, beq_iff_eq, Bool.and_eq_true, List.any_eq_true, List.mem_range]
  refine or_congr Iff.rfl (and_assoc.trans (and_congr Iff.rfl (and_congr Iff.rfl (exists_congr fun i => ?_))))
  refine and_congr_right fun hi => ?_
  rw [hport i hi, and_comm]

section Places

variable (s : State) (w : Who) (place : Nat) {k : AccKind}

/-- The key of a place of the physical position that the place table gives its core. -/
def placeKey (s : State) (place : Nat) : Nat :=
  2 ^ 49 + place / 2 ^ 30 * 2 ^ 30 + place / 2 ^ 27 % 8 * 2 ^ 27
    + (s.placeEntry (place / 2 ^ 30) (place / 2 ^ 27 % 8) (place / 2 ^ 20 % 128)).toNat % 128 * 2 ^ 20 + place % 2 ^ 20

/-- The core of a place is enabled on a package that is reached. -/
def PlaceReached (s : State) (w : Who) (place : Nat) : Prop :=
  s.listed w.pkg (place / 2 ^ 30) = true ∧ place / 2 ^ 20 % 128 < 88
    ∧ (s.placeEntry (place / 2 ^ 30) (place / 2 ^ 27 % 8) (place / 2 ^ 20 % 128)).getLsbD 7 = true

theorem coreSlice_place (h : PlaceReached s w place) :
    s.coreSlice (place / 2 ^ 30) (place / 2 ^ 27 % 8) (place / 2 ^ 20 % 128) (place % 2 ^ 20) = some (placeKey s place) := by
  obtain ⟨-, hcore, hvalid⟩ := h
  unfold State.coreSlice
  simp only [hcore, hvalid, decide_true, Bool.and_self, if_true, placeKey, sliceKey, sliceBase, Nat.add_assoc]

theorem placeXlate_unreached (h : ¬ PlaceReached s w place) : s.placeXlate w place k = .bad := by
  unfold State.placeXlate
  simp only
  split
  · rfl
  · rename_i hl
    have hlisted : s.listed w.pkg (place / 2 ^ 30) = true := by simp at hl; exact hl.2
    have hnone : s.coreSlice (place / 2 ^ 30) (place / 2 ^ 27 % 8) (place / 2 ^ 20 % 128) (place % 2 ^ 20) = none := by
      unfold State.coreSlice
      refine if_neg fun hc => h ⟨hlisted, ?_⟩
      simpa using hc
    rw [hnone]

theorem placeXlate_reached (hk : k ≠ .fetch) (h : PlaceReached s w place) :
    s.placeXlate w place k =
      let tag := SMap.find s.units ((placeKey s place - sliceBase) / 1024)
      let race := (tag.map UnitTag.race).getD false
      if w.kind = .core then .at { key := placeKey s place, addr := place, race := race }
      else match tag with
        | some t => if t.ctx = w.ctx then .at { key := placeKey s place, addr := place, race := race } else .bad
        | none => .bad := by
  unfold State.placeXlate
  simp only [hk, h.1, coreSlice_place s w place h]
  rfl

end Places

theorem windowPlaces : WindowPlaces := by
  refine ⟨listed_iff, ?_⟩
  intro s w va k place hk hva p core e key tag there
  have hx : s.xlate w va k = (s.placeXlate w place k, s) := by
    rcases hva with ⟨hw, rfl⟩ | ⟨ha, hkind, rfl⟩
    · exact xlate_window ((isWindow_iff va).2 hw)
    · rw [xlate_alias ((isAlias_iff va).2 ha)]
      rcases hkind with hkind | hkind <;> rw [hkind]
  have hreach : there ↔ PlaceReached s w place := Iff.rfl
  rw [hx]
  refine ⟨fun h => ?_, fun h hc => ?_, fun h hc u hu htag => ?_, fun h hc htag => ?_⟩
  · rw [placeXlate_unreached s w place (hreach.not.1 h)]
  · rw [placeXlate_reached s w place hk h]
    simp only [hc, if_true]
    rfl
  · have hu' : SMap.find s.units ((placeKey s place - sliceBase) / 1024) = some u := hu
    rw [placeXlate_reached s w place hk h]
    simp only [hc, if_false, hu', htag, if_true]
    rfl
  · rw [placeXlate_reached s w place hk h]
    rcases htag with hu | ⟨u, hu, hne⟩
    · have hu' : SMap.find s.units ((placeKey s place - sliceBase) / 1024) = none := hu
      simp only [hc, if_false, hu']
    · have hu' : SMap.find s.units ((placeKey s place - sliceBase) / 1024) = some u := hu
      simp only [hc, if_false, hu', hne]

/-! ## The walk (R214 to R216) -/

theorem walkShift_eq {j : Nat} (hj : j < 4) : walkShift j = levelShift j := by
  interval_cases j <;> rfl

theorem walkIndex_eq (root : Dword) (va : Nat) {j : Nat} (hj : j < 4) :
    walkIndex root va j = va / 2 ^ levelShift j % 2 ^ levelBits (root.toNat % 32) j := by
  interval_cases j <;> rfl

theorem tableAddr_eq (e : Dword) : tableAddr e = e.toNat % 2 ^ 49 / 256 * 256 := by
  rw [tableAddr, BitVec.extractLsb'_toNat, Nat.shiftRight_eq_div_pow]
  omega

theorem noReserved_iff (e : Dword) : NoReserved e ↔ pteReserved e = false := by
  have hhigh : e.extractLsb' 49 15 = 0 ↔ e.toNat / 2 ^ 49 = 0 := by
    have hlt := e.isLt
    rw [← BitVec.toNat_inj, BitVec.extractLsb'_toNat, Nat.shiftRight_eq_div_pow, Nat.mod_eq_of_lt (by omega)]
    rfl
  simp only [NoReserved, pteReserved, hhigh, Bool.or_eq_false_iff, bne_eq_false_iff_eq, and_assoc]

theorem refusedBy_eq (e : Dword) (k : AccKind) : refusedBy e k = leafLacks e k := by
  unfold refusedBy leafLacks
  generalize e.getLsbD 2 = read
  generalize e.getLsbD 3 = write
  generalize e.getLsbD 4 = fetch
  revert read write fetch
  cases k <;> decide

/-- The table that a walk reads at level j. -/
def walkTable (s : State) (root : Dword) (va : Nat) : Nat → Nat
  | 0 => tableAddr root
  | j + 1 => tableAddr (walkEntry s root va j)

theorem walkEntry_eq (s : State) (root : Dword) (va j : Nat) : walkEntry s root va j
    = BitVec.ofNat 64 (Mem.read s.mem (walkTable s root va j + 8 * walkIndex root va j) 8) := by
  cases j <;> rfl

/-- One level of a walk, by its entry. -/
theorem walkFrom_step (s : State) (root : Dword) (va : Nat) {j : Nat} (hj : j < 4) :
    walkFrom s.mem (root.toNat % 32) va (walkTable s root va j) (4 - j) =
      if !(walkEntry s root va j).getLsbD 0 then .missing
      else if pteReserved (walkEntry s root va j) then .bad
      else if (walkEntry s root va j).getLsbD 1 then
        if tableAddr (walkEntry s root va j) % 2 ^ levelShift j ≠ 0 then .bad else .leaf { entry := walkEntry s root va j, level := j }
      else if j = 3 then .bad
      else walkFrom s.mem (root.toNat % 32) va (walkTable s root va (j + 1)) (3 - j) := by
  have hfuel : 4 - j = 3 - j + 1 := by omega
  have hlevel : 3 - (3 - j) = j := by omega
  rw [hfuel, walkFrom, hlevel, ← walkIndex_eq root va hj, ← walkEntry_eq]
  simp only [walkTable, tableAddr_eq, pteAddr]
  rfl

/-- A walk whose first entries lead on goes on at the next. -/
theorem walk_reaches (s : State) (root : Dword) (va : Nat) (hva : va / 2 ^ (36 + root.toNat % 32) = 0) :
    ∀ j < 4, (∀ i < j, LeadsOn (walkEntry s root va i)) →
      walk s.mem root va = walkFrom s.mem (root.toNat % 32) va (walkTable s root va j) (4 - j)
  | 0, _, _ => by
    unfold walk
    simp only [hva, walkTable, tableAddr_eq]
    rfl
  | j + 1, hj, hlead => by
    obtain ⟨hvalid, hres, hleaf⟩ := hlead j (by omega)
    rw [walk_reaches s root va hva j (by omega) fun i hi => hlead i (by omega), walkFrom_step s root va (by omega)]
    simp only [hvalid, (noReserved_iff _).1 hres, hleaf, Bool.not_true, Bool.false_eq_true, if_false,
      show j ≠ 3 by omega, show 4 - (j + 1) = 3 - j by omega]

theorem walk_high (s : State) (root : Dword) (va : Nat) (hva : va / 2 ^ (36 + root.toNat % 32) ≠ 0) :
    walk s.mem root va = .bad := if_pos hva

/-- Translation by a walk, where nothing is buffered. -/
theorem pageXlate_walk {s : State} {w : Who} {va : Nat} {k : AccKind} (hd : (s.ctx w.pkg w.ctx).direct = false)
    (hbuf : SMap.find s.buffered (bufKey w.pkg w.ctx va) = none) : (s.pageXlate w va k).1 =
      match walk s.mem (s.ctx w.pkg w.ctx).root va with
      | .leaf l => s.useLeaf w va k l
      | .missing => .miss 0
      | .bad => .bad := by
  unfold State.pageXlate
  simp only [hd, hbuf, Bool.false_eq_true, if_false]
  cases walk s.mem (s.ctx w.pkg w.ctx).root va <;> rfl

theorem useLeaf_refused {s : State} {w : Who} {va : Nat} {k : AccKind} {l : Leaf} {c : Nat}
    (h : refusedBy l.entry k = some c) : s.useLeaf w va k l = .miss c := by
  rw [State.useLeaf, ← refusedBy_eq, h]

theorem useLeaf_permitted {s : State} {w : Who} {va j : Nat} {k : AccKind} {e : Dword} (hj : j < 4)
    (h : refusedBy e k = none) : s.useLeaf w va k { entry := e, level := j } =
      if s.listed w.pkg ((tableAddr e + va % 2 ^ walkShift j) / 2 ^ 39) = true
      then .at { key := tableAddr e + va % 2 ^ walkShift j, addr := tableAddr e + va % 2 ^ walkShift j, race := e.getLsbD 6 }
      else .bad := by
  rw [State.useLeaf, ← refusedBy_eq, h, walkShift_eq hj, tableAddr_eq]
  rfl

theorem pageWalks : PageWalks := by
  intro s w va k hk hlow hw ha hd hbuf root e x
  have hx : x = match walk s.mem root va.toNat with
      | .leaf l => s.useLeaf w va.toNat k l
      | .missing => .miss 0
      | .bad => .bad := by
    rw [← pageXlate_walk hd hbuf,
      ← xlate_pages_of_not_core hlow ((isWindow_iff va).not.2 hw) ((isAlias_iff va).not.2 ha) hk]
  refine ⟨fun hva => by rw [hx, walk_high s root _ hva], fun hva j hj hlead => ?_⟩
  have hstep : walk s.mem root va.toNat = _ := (walk_reaches s root _ hva j hj hlead).trans (walkFrom_step s root _ hj)
  refine ⟨fun hv => ?_, fun hv hres => ?_, fun h3 => ?_, fun hv hres hleaf => ⟨fun hal => ?_, fun hal => ?_⟩⟩
  · rw [hx, hstep, show walkEntry s root va.toNat j = e j from rfl, hv]
    rfl
  · rw [noReserved_iff, Bool.not_eq_false] at hres
    rw [hx, hstep, show walkEntry s root va.toNat j = e j from rfl, hv, hres]
    rfl
  · rintro ⟨hv, hres, hleaf⟩
    rw [noReserved_iff] at hres
    rw [hx, hstep, show walkEntry s root va.toNat j = e j from rfl, hv, hres, hleaf, if_pos h3]
    rfl
  · rw [noReserved_iff] at hres
    rw [hx, hstep, show walkEntry s root va.toNat j = e j from rfl, hv, hres, hleaf, ← walkShift_eq hj, if_pos hal]
    rfl
  · rw [noReserved_iff] at hres
    have hleaf : x = s.useLeaf w va.toNat k { entry := e j, level := j } := by
      rw [hx, hstep, show walkEntry s root va.toNat j = e j from rfl, hv, hres, hleaf, ← walkShift_eq hj, if_neg (not_not.2 hal)]
      rfl
    exact ⟨fun c hc => hleaf.trans (useLeaf_refused hc), fun hc => hleaf.trans (useLeaf_permitted hj hc)⟩

/-- Settles O10: the range of an address says who resolves it; a place by its core's entry and its unit's tag, a page by the
entries of its walk, one level at a time. -/
theorem addressSpace : Obligations.AddressSpace := ⟨addressRanges, windowPlaces, pageWalks⟩

end Sys2Proof.Proofs

/-! Lane control on cores and in groups: O6. -/

namespace Sys2Proof.Proofs

open Host (Outcome)
open Sys2Proof Sys2Proof.Machine Sys2Proof.Stated

theorem mem_lanesList {m : Lanes} {l : Nat} : l ∈ lanesList m ↔ l < 64 ∧ m.getLsbD l = true := by
  simp [lanesList]

/-! ## The ends of forward ports (R137, R138) -/

theorem Launch.item_setItem (l : Launch) {n n' : Nat} (hn : n < 8) (hn' : n' < 8) (w w' : Nat) (x : PortItem) :
    (l.setItem n w x).item n' w' = if n = n' ∧ w = w' then x else l.item n' w' := by
  unfold Launch.setItem Launch.item
  by_cases h : itemKey n' w' = itemKey n w
  · have hsame : n = n' ∧ w = w' := by unfold itemKey at h; omega
    rw [if_pos hsame, h, SMap.get_put_same]
  · have hother : ¬ (n = n' ∧ w = w') := fun hc => h (by rw [hc.1, hc.2])
    rw [if_neg hother]
    exact SMap.get_put_other _ _ _ h

/-- Releasing an item's publishes ends nothing. -/
theorem Launch.item_releaseItem_ended (l : Launch) {n n' : Nat} (hn : n < 8) (hn' : n' < 8) (w w' : Nat) :
    ((l.releaseItem n w).item n' w').ended = (l.item n' w').ended := by
  unfold Launch.releaseItem
  simp only
  rw [Launch.item_setItem l hn hn']
  split
  · rename_i h
    rw [← h.1, ← h.2]
  · rfl

theorem Launch.item_endItem_ended (l : Launch) {n n' : Nat} (hn : n < 8) (hn' : n' < 8) (w w' : Nat) :
    ((l.endItem n w).item n' w').ended = true ↔ (l.item n' w').ended = true ∨ (n = n' ∧ w = w') := by
  unfold Launch.endItem
  simp only
  rw [Launch.item_releaseItem_ended _ hn hn', Launch.item_releaseItem_ended _ hn hn', Launch.item_setItem l hn hn']
  by_cases h : n = n' ∧ w = w' <;> simp [h]

theorem Launch.endItem_header (l : Launch) (n w : Nat) : (l.endItem n w).header = l.header := rfl

theorem Launch.portOn_of_header {l l' : Launch} (h : l'.header = l.header) (n : Nat) : l'.portOn n = l.portOn n := by
  simp only [Launch.portOn, Launch.binding, Launch.word, h]

/-- The ends of some ports of one item. -/
theorem Launch.endItems_ended {n' : Nat} (hn' : n' < 8) (w w' : Nat) : ∀ (ns : List Nat) (l : Launch), (∀ n ∈ ns, n < 8) →
    (ns.foldl (fun l n => l.endItem n w) l).header = l.header
    ∧ (((ns.foldl (fun l n => l.endItem n w) l).item n' w').ended = true ↔ (l.item n' w').ended = true ∨ (n' ∈ ns ∧ w = w'))
  | [], l, _ => by simp
  | n :: ns, l, h => by
    obtain ⟨hhead, hended⟩ := Launch.endItems_ended hn' w w' ns (l.endItem n w) fun m hm => h m (List.mem_cons_of_mem _ hm)
    refine ⟨hhead, hended.trans ?_⟩
    rw [Launch.item_endItem_ended l (h n (by simp)) hn', List.mem_cons, or_and_right, or_assoc, eq_comm (a := n)]

/-- The ends of the enabled ports of some lanes' items. -/
theorem Launch.endLanesItems_ended {n' : Nat} (hn' : n' < 8) (wid : Nat → Nat) (w' : Nat) : ∀ (ls : List Nat) (l : Launch),
    ((ls.foldl (fun l lane => (l.enabled (List.range 8)).foldl (fun l n => l.endItem n (wid lane)) l) l).item n' w').ended = true
      ↔ (l.item n' w').ended = true ∨ (l.portOn n' = true ∧ ∃ lane ∈ ls, wid lane = w')
  | [], l => by simp
  | lane :: ls, l => by
    have hports : ∀ n ∈ l.enabled (List.range 8), n < 8 := fun n hn => by simp [Launch.enabled] at hn; exact hn.1
    have hmem : n' ∈ l.enabled (List.range 8) ↔ l.portOn n' = true := by simp [Launch.enabled, hn']
    obtain ⟨hhead, hended⟩ := Launch.endItems_ended hn' (wid lane) w' _ l hports
    rw [List.foldl_cons, Launch.endLanesItems_ended hn' wid w' ls, hended, Launch.portOn_of_header hhead, hmem, or_assoc]
    simp only [List.mem_cons, exists_eq_or_imp, and_or_left]

theorem State.endPorts_eq (s : State) (g : Nat) (lanes : Lanes) (ports : List Nat) :
    ∃ m, s.endPorts g lanes ports = { s with launches := m } := by
  unfold State.endPorts
  split
  · exact ⟨s.launches, rfl⟩
  · exact ⟨_, rfl⟩

/-- A slot that lanes have left. -/
def Slot.without (x : Slot) (lanes : Lanes) : Slot := { x with own := x.own &&& ~~~ lanes, mask := x.mask &&& ~~~ lanes }

/-- A group that lanes have left. -/
def Group.without (g : Group) (lanes : Lanes) : Group :=
  { g with exited := g.exited ||| lanes, slot0 := Slot.without g.slot0 lanes, slot1 := Slot.without g.slot1 lanes }

theorem State.endLanes_eq (s : State) (g : Nat) (lanes : Lanes) :
    ∃ m, s.endLanes g lanes = { s.setGroup g (Group.without (s.group g) lanes) with launches := m } :=
  State.endPorts_eq _ _ _ _

theorem State.group_endLanes (s : State) (g : Nat) (lanes : Lanes) :
    (s.endLanes g lanes).group g = Group.without (s.group g) lanes := by
  obtain ⟨m, hm⟩ := State.endLanes_eq s g lanes
  rw [hm]
  exact State.group_setGroup _ _ _

theorem Group.without_slot (x : Group) (lanes : Lanes) (k : Nat) : (Group.without x lanes).slot k = Slot.without (x.slot k) lanes := by
  by_cases hk : k = 0 <;> simp [Group.slot, Group.without, hk]

theorem portsEnd_endLanes (s : State) (g : Nat) (lanes : Lanes) : PortsEnd s (s.endLanes g lanes) g lanes := by
  intro id hid n hn wid
  have hid' : (s.setGroup g (Group.without (s.group g) lanes)).launchOf g = some id := by
    rw [← hid]
    simp only [State.launchOf, State.group_setGroup]
    rfl
  have hend : s.endLanes g lanes = (s.setGroup g (Group.without (s.group g) lanes)).setLaunch id
      ((lanesList lanes).foldl (fun l lane => (l.enabled (List.range 8)).foldl
        (fun l n => l.endItem n ((s.group g).wid lane).toNat) l) (s.launch id)) := by
    show (s.setGroup g (Group.without (s.group g) lanes)).endPorts g lanes (List.range 8) = _
    rw [State.endPorts, hid']
    simp only [State.group_setGroup]
    rfl
  rw [hend, State.launch_setLaunch, Launch.endLanesItems_ended hn fun lane => ((s.group g).wid lane).toNat]
  simp only [mem_lanesList, and_assoc]

theorem endsOfLanes (s : State) (g : Nat) (lanes : Lanes) : ∃ t, s.endLanes g lanes = t
    ∧ t.mem = s.mem ∧ t.grans = s.grans ∧ t.cores = s.cores ∧ (t.group g).exited = (s.group g).exited ||| lanes
    ∧ (∀ k < 2, (t.group g).slot k = { (s.group g).slot k with
        own := ((s.group g).slot k).own &&& ~~~ lanes, mask := ((s.group g).slot k).mask &&& ~~~ lanes })
    ∧ (t.group g).hart = (s.group g).hart ∧ (t.group g).life = (s.group g).life ∧ PortsEnd s t g lanes := by
  obtain ⟨m, hm⟩ := State.endLanes_eq s g lanes
  have hgroup := State.group_endLanes s g lanes
  refine ⟨_, rfl, by rw [hm]; rfl, by rw [hm]; rfl, by rw [hm]; rfl, by rw [hgroup]; rfl, fun k _ => ?_,
    by rw [hgroup]; rfl, by rw [hgroup]; rfl, portsEnd_endLanes s g lanes⟩
  rw [hgroup, Group.without_slot]
  rfl

/-! ## On cores (R61) -/

theorem ofNat_bit_of_one (x : Dword) : ((1 : Lanes) &&& x != 0) = x.getLsbD 0 ∧ ((1 : Lanes) &&& ~~~ x == 0) = x.getLsbD 0 := by
  have hbit (y : Dword) : (1 : Lanes) &&& y = if y.getLsbD 0 then 1 else 0 := by
    ext i hi
    cases i <;> by_cases h : y.getLsbD 0 = true <;> simp_all
  rw [hbit, hbit, BitVec.getLsbD_not]
  cases x.getLsbD 0 <;> decide

theorem bany_goes {s : State} {c : Clause} (hc : (s.slot s.cur).clause = some c) {d : BitVec 8} (o : BitVec 16)
    (h : s.need (d :: s.guardRegs) = .ok ()) : exec (.bany d o) s = goes s
      (if (s.active &&& s.readS d != 0) = true then c.hdr + 4 * o.signExtend 64 else c.hdr + 4 * BitVec.ofNat 64 (c.len + 1)) := by
  show execBany d o s = _
  rw [execBany, h, except_ok_bind, finish_ok, goes_branchIf, State.target_of_clause hc, State.nextClause_of_clause hc]

theorem ball_goes {s : State} {c : Clause} (hc : (s.slot s.cur).clause = some c) {d : BitVec 8} (o : BitVec 16)
    (h : s.need (d :: s.guardRegs) = .ok ()) : exec (.ball d o) s = goes s
      (if (s.active &&& ~~~ s.readS d == 0) = true then c.hdr + 4 * o.signExtend 64 else c.hdr + 4 * BitVec.ofNat 64 (c.len + 1)) := by
  show execBall d o s = _
  rw [execBall, h, except_ok_bind, finish_ok, goes_branchIf, State.target_of_clause hc, State.nextClause_of_clause hc]

theorem laneControlOnCores : LaneControlOnCores := by
  intro d o x s p q r c hcur hc hmask hwave h next near
  have hsys : isSys s.cur = true := by rw [hcur]; rfl
  have hactive : s.active = 1 := if_pos hsys
  have hguard : s.guardRegs = [] := if_pos hsys
  have hd : s.need (d :: s.guardRegs) = .ok () := by
    rw [hguard]
    exact need_of_ready h (by simp)
  obtain ⟨hany, hall⟩ := ofNat_bit_of_one (s.readS d)
  refine ⟨?_, ?_, ?_, ?_, ?_⟩
  · show execBsplit d x s = _
    rw [execBsplit, hguard, List.append_nil, show s.need [d, 60] = .ok () from h, except_ok_bind, hcur]
    simp only [State.target_of_clause hc, State.nextClause_of_clause hc]
    rfl
  · show execBmerge s = _
    rw [execBmerge, hcur]
    rfl
  · rw [bany_goes hc o hd, hactive, hany]
  · rw [ball_goes hc o hd, hactive, hall]
  · show execExit s = _
    rw [execExit, hcur]
    rfl

/-! ## In groups (R124, R125) -/

/-- The program counter of a slot has moved and one more word is counted: the group's other fields are as they were. -/
theorem State.jump_group {s : State} {g k : Nat} (hcur : s.cur = .slot g k) (pc : Dword) :
    ∃ x, (s.jump pc).group g = ({ s.group g with
        hart := { (s.group g).hart with retired := (s.group g).hart.retired + 1 } } : Group).setSlot k x
      ∧ x.own = (s.slot s.cur).own ∧ x.st = (s.slot s.cur).st := by
  have hslot := State.jump_slot s pc
  have hhart := State.jump_hart s pc
  obtain ⟨-, hgroup⟩ := elsewhere_jump s pc
  rw [hcur] at hgroup hhart hslot
  refine ⟨_, hgroup.2.2.trans (by rw [hhart]; rfl), ?_, ?_⟩ <;> rw [hslot, hcur]

theorem State.jump_group_slot {s : State} {g k : Nat} (hcur : s.cur = .slot g k) (pc : Dword) :
    ((s.jump pc).group g).slot k = (s.jump pc).slot s.cur := by
  rw [hcur]; rfl

theorem execExit_slot {s : State} {g k : Nat} (hcur : s.cur = .slot g k) (h : s.need s.guardRegs = .ok ()) :
    exec .exit s =
      let s' := (s.jump s.nextClause).endLanes g s.active
      .next (if (s.active != 0 && ((s'.group g).slot k).own == 0) = true
        then (s'.setSlot s.cur {}).examined s.cur (s.slot s.cur).pc s.word else s') := by
  show execExit s = _
  rw [execExit, hcur]
  simp only [h, except_ok_bind]
  split <;> rfl

/-- Two sets of lanes have none in common. -/
theorem lanes_disjoint_iff (x y : Lanes) : x &&& y = 0 ↔ ∀ l < 64, x.getLsbD l = true → y.getLsbD l = false := by
  constructor
  · intro h l _ hx
    have hl : (x &&& y).getLsbD l = false := by rw [h]; exact BitVec.getLsbD_zero
    rwa [BitVec.getLsbD_and, hx, Bool.true_and] at hl
  · intro h
    refine BitVec.eq_of_getLsbD_eq fun l hl => ?_
    rw [BitVec.getLsbD_and, show (0 : Lanes).getLsbD l = false from BitVec.getLsbD_zero]
    cases hx : x.getLsbD l
    · rfl
    · rw [h l hl hx, Bool.and_false]

/-- One set of lanes lies in another. -/
theorem lanes_subset_iff (x y : Lanes) : x &&& ~~~ y = 0 ↔ ∀ l < 64, x.getLsbD l = true → y.getLsbD l = true := by
  rw [lanes_disjoint_iff]
  refine forall₂_congr fun l hl => ?_
  simp [hl]

/-- What a slot owns after `exit`. -/
theorem own_after_exit {s : State} {g k : Nat} (hcur : s.cur = .slot g k) (pc : Dword) (lanes : Lanes) :
    ((((s.jump pc).endLanes g lanes).group g).slot k).own = (s.slot s.cur).own &&& ~~~ lanes := by
  rw [State.group_endLanes, Group.without_slot, Slot.without, State.jump_group_slot hcur, State.jump_slot]

theorem laneControlInGroups : LaneControlInGroups := by
  intro d o s g k c hcur hc h next near acts own
  have hany := lanes_disjoint_iff s.active (s.readS d)
  have hall := lanes_subset_iff s.active (s.readS d)
  refine ⟨fun ⟨l, hl, ha, hd⟩ => ?_, fun hl => ?_, fun hl => ?_, fun ⟨l, hl, ha, hd⟩ => ?_, fun hg ⟨l, hl, ho, ha⟩ => ?_⟩
  · have hne : s.active &&& s.readS d ≠ 0 := fun h0 => by simp [hany.1 h0 l hl ha] at hd
    rw [bany_goes hc o h, if_pos (by simpa using hne)]
  · rw [bany_goes hc o h, hany.2 hl, if_neg (by simp)]
  · rw [ball_goes hc o h, hall.2 hl, if_pos (by simp)]
  · have hne : s.active &&& ~~~ s.readS d ≠ 0 := fun h0 => by simp [hall.1 h0 l hl ha] at hd
    rw [ball_goes hc o h, if_neg (by simpa using hne)]
  · have hne : own &&& ~~~ s.active ≠ 0 := fun h0 => ha ((lanes_subset_iff _ _).1 h0 l hl ho)
    rw [execExit_slot hcur hg]
    simp only [own_after_exit hcur]
    rw [if_neg (by simpa using fun _ => hne), State.nextClause_of_clause hc]

/-! ## The top entry (R119 to R121) -/

theorem dsOk_iff (g : Group) :
    g.dsOk = true ↔ g.dslo.toNat ≤ g.ds.toNat ∧ g.ds.toNat < g.dshi.toNat ∧ g.ds.toNat % 64 = 0 := by
  simp [Group.dsOk, and_assoc]

theorem topEntries : TopEntries := by
  intro s g j l hl w ds intact
  have hintact : (s.group g).dsOk = true ↔ intact := dsOk_iff _
  refine ⟨fun h => ?_, fun h => ?_⟩
  · have hd : (s.group g).dsOk = false := by rw [← Bool.not_eq_true, hintact]; exact h
    unfold State.topEntry
    simp only [hl, hd]
    rfl
  · have hd := hintact.2 h
    cases ha : s.groupAccess (s.areaWho g j) l 64 0 with
    | error x =>
      unfold State.topEntry
      simp only [hl, hd, ha]
      rfl
    | ok t =>
      have htop : s.topEntry g j = if s.poisoned l.key 64 = true then .error (11, ds, s.integrityDetail l, 0)
          else if (w 3).toNat % 4 < 2 then .ok ({ pc := w 0, own := w 1, mask := w 2, mpKind := w 3, pmode := w 4 }, t)
          else .error (13, ds, 0, 0) := by
        unfold State.topEntry
        simp only [hl, hd, ha]
        rfl
      refine ⟨fun hp => ?_, fun hp hk => ?_, fun hp hk => ?_⟩
      · rw [htop, if_pos hp]
      · rw [htop, hp, if_neg (by simp), if_neg (by omega)]
      · rw [htop, hp, if_neg (by simp), if_pos hk]

/-! ## The rows (R121) -/

section Rows

variable {s t : State} {g j : Nat} {e : DivEntry}

theorem examined_stuck {k : Nat} (tpc : Dword) (w : Word) (h : s.examineOnce g j = .stuck k) :
    s.examined (.slot g j) tpc w = (s.unmerge g k).takeTrap (.slot g k)
      { cause := 13, tpc := ((s.group g).slot k).pc, resume := ((s.group g).slot k).pc, word := 0x0A000000, slot := k } := by
  simp only [State.examined, State.examine, h]

theorem examined_damaged {f : AreaFault} (tpc : Dword) (w : Word) (h : s.examineOnce g j = .damaged f) :
    s.examined (.slot g j) tpc w = s.takeTrap (.slot g j)
      { cause := f.1, tpc := tpc, resume := ((s.group g).slot j).pc, addr := f.2.1, det2 := f.2.2.1, det3 := f.2.2.2,
        word := w, slot := j } := by
  simp only [State.examined, State.examine, h]

theorem examined_nothing (tpc : Dword) (w : Word) (h : s.examineOnce g j = .nothing) :
    s.examined (.slot g j) tpc w = s := by
  simp only [State.examined, State.examine, h]

theorem examined_next {u : State} (tpc : Dword) (w : Word) (hu : u.examineOnce g j = .next s)
    (h : s.examineOnce g j = .nothing) : u.examined (.slot g j) tpc w = s := by
  simp only [State.examined, State.examine, hu, h]

/-- A statement about both slots of a group, by the one and the other. -/
theorem slots_of {k : Nat} (hk : k < 2) (G : Group) {st st' : SlotSt} (h : (G.slot k).st = st)
    (h' : (G.slot (1 - k)).st = st') :
    (G.slot0.st = st ∧ G.slot1.st = st' ∧ k = 0) ∨ (G.slot0.st = st' ∧ G.slot1.st = st ∧ k = 1) := by
  interval_cases k
  · exact .inl ⟨h, h', rfl⟩
  · exact .inr ⟨h', h, rfl⟩

/-- A slot that waits beside one that runs goes on waiting. -/
theorem examineOnce_running {k : Nat} (hk : k < 2) (hw : ((s.group g).slot k).st = .wait)
    (hr : ((s.group g).slot (1 - k)).st = .run) : s.examineOnce g j = .nothing := by
  unfold State.examineOnce
  rcases slots_of hk _ hw hr with ⟨h0, h1, -⟩ | ⟨h0, h1, -⟩ <;> simp [h0, h1]

/-- With the area empty, a slot that runs beside a FREE one goes on. -/
theorem examineOnce_alone {k : Nat} (hk : k < 2) (hds : (s.group g).ds = (s.group g).dshi)
    (hf : ((s.group g).slot k).st = .free) (hr : ((s.group g).slot (1 - k)).st = .run) : s.examineOnce g j = .nothing := by
  unfold State.examineOnce
  rcases slots_of hk _ hf hr with ⟨h0, h1, -⟩ | ⟨h0, h1, -⟩ <;> simp [hds, h0, h1]

/-- Row 4 is done once. -/
theorem examineOnce_draining (hds : (s.group g).ds = (s.group g).dshi) (h0 : (s.group g).slot0.st = .free)
    (h1 : (s.group g).slot1.st = .free) (hlife : (s.group g).life = .draining) : s.examineOnce g j = .nothing := by
  unfold State.examineOnce
  simp [hds, h0, h1, hlife]

/-- Row 4. -/
theorem examineOnce_empty (hds : (s.group g).ds = (s.group g).dshi) (h0 : (s.group g).slot0.st = .free)
    (h1 : (s.group g).slot1.st = .free) (hlife : (s.group g).life = .running) (htile : (s.group g).tile = none) :
    s.examineOnce g j = .next (s.setGroup g { s.group g with life := .draining }) := by
  have hex : (s.group g).examinable = true := by simp [Group.examinable, h0, hlife]
  have hclose : (s.setGroup g { s.group g with life := .draining }).closeTile g
      = (none, s.setGroup g { s.group g with life := .draining }) := by simp [State.closeTile, htile]
  unfold State.examineOnce
  simp [hex, hds, h0, h1, hlife, hclose]

/-- Row 5, both slots waiting at different points. -/
theorem examineOnce_apart (hlife : (s.group g).life ≠ .saved) (hh : (s.group g).hart.handler = false)
    (h0 : (s.group g).slot0.st = .wait) (h1 : (s.group g).slot1.st = .wait)
    (hmp : (s.group g).slot0.mp ≠ (s.group g).slot1.mp) : s.examineOnce g j = .stuck (s.group g).lastWaiter := by
  have hex : (s.group g).examinable = true := by simp [Group.examinable, h0, hlife]
  unfold State.examineOnce
  simp [hex, hh, h0, h1, hmp]

/-- Row 5, a slot waiting beside a FREE one with the area empty. -/
theorem examineOnce_waiting {k : Nat} (hk : k < 2) (hlife : (s.group g).life ≠ .saved)
    (hds : (s.group g).ds = (s.group g).dshi) (hw : ((s.group g).slot k).st = .wait)
    (hf : ((s.group g).slot (1 - k)).st = .free) : s.examineOnce g j = .stuck k := by
  unfold State.examineOnce
  rcases slots_of hk _ hw hf with ⟨h0, h1, rfl⟩ | ⟨h0, h1, rfl⟩ <;> simp [Group.examinable, hlife, hds, h0, h1]

/-- An entry that the rows look at. -/
theorem examineOnce_entry (h : TopIs s g j e t)
    (hlook : (s.group g).slot0.st = .free ∨ (s.group g).slot1.st = .free
      ∨ ((s.group g).slot0.st = .wait ∧ (s.group g).slot1.st = .wait ∧ (s.group g).slot0.mp = (s.group g).slot1.mp)) :
    s.examineOnce g j =
      let x := (s.group g).slot0
      let y := (s.group g).slot1
      let bothWait := x.st == .wait && y.st == .wait
      if e.kind = 0 then
        if (x.st == .free || y.st == .free) = true then
          .next ((t.popEntry g).setGroup g (((t.popEntry g).group g).setSlot (if (x.st == .free) = true then 0 else 1)
            (if (unparked (s.group g) e).own = 0 then {} else unparked (s.group g) e)))
        else .nothing
      else if (x.st == .free && y.st == .free) = true then .next (t.popEntry g)
      else if (!(x.st == .wait || y.st == .wait)) = true then .nothing
      else
        let k := if bothWait = true then 1 - (s.group g).lastWaiter else if (x.st == .wait) = true then 0 else 1
        if e.pc = ((s.group g).slot k).mp then
          .next ((t.popEntry g).setGroup g ((((t.popEntry g).group g).setSlot k
            (combined (s.group g) ((s.group g).slot k) e)).setSlot (1 - k) {}))
        else if bothWait = true then .nothing else .stuck k := by
  obtain ⟨hh, hlife, hds, htop⟩ := h
  have hex : (s.group g).examinable = true := by
    rcases hlook with h | h | ⟨h, -, -⟩ <;> simp [Group.examinable, hlife, h]
  unfold State.examineOnce
  rw [if_neg (by simp [hex]), if_neg (by simp [hh, hds]), if_neg, if_neg, htop]
  · rcases hlook with h | h | ⟨h, h', -⟩
    · simp [h]
    · simp [h]
    · simp [h, h']
  · rcases hlook with h | h | ⟨-, -, h⟩ <;> simp [h]

end Rows

/-! ## What a row leaves -/

theorem Group.ds_setSlot (g : Group) (k : Nat) (x : Slot) : (g.setSlot k x).ds = g.ds := by
  rw [Group.ds, Group.setSlot_hart, Group.ds]

theorem Group.slot_setSlot_ne (g : Group) {k i : Nat} (x : Slot) (h : (i = 0) ≠ (k = 0)) :
    (g.setSlot k x).slot i = g.slot i := by
  by_cases hk : k = 0 <;> by_cases hi : i = 0 <;> simp_all [Group.slot, Group.setSlot]

section Popped

variable (t : State) (g : Nat)

theorem popEntry_ds : ((t.popEntry g).group g).ds = (t.group g).ds + 64 := by
  simp [State.popEntry, Group.ds, Group.setDs]

theorem popEntry_slot (k : Nat) : ((t.popEntry g).group g).slot k = (t.group g).slot k := by
  by_cases hk : k = 0 <;> simp [State.popEntry, Group.setDs, Group.slot, hk]

theorem popEntry_mem : (t.popEntry g).mem = t.mem := rfl

/-- A slot set after a pop. -/
theorem popEntry_setSlot {k : Nat} (hk : k < 2) (x : Slot) :
    let u := (t.popEntry g).setGroup g (((t.popEntry g).group g).setSlot k x)
    (u.group g).ds = (t.group g).ds + 64 ∧ u.mem = t.mem ∧ (u.group g).slot (1 - k) = (t.group g).slot (1 - k)
      ∧ (u.group g).slot k = x := by
  simp only [State.group_setGroup, Group.ds_setSlot, popEntry_ds, Group.slot_setSlot]
  refine ⟨trivial, popEntry_mem t g, ?_, trivial⟩
  rw [Group.slot_setSlot_ne _ _ (by interval_cases k <;> simp), popEntry_slot]

/-- Both slots set after a pop. -/
theorem popEntry_setSlots {k : Nat} (hk : k < 2) (x y : Slot) :
    let u := (t.popEntry g).setGroup g ((((t.popEntry g).group g).setSlot k x).setSlot (1 - k) y)
    (u.group g).ds = (t.group g).ds + 64 ∧ u.mem = t.mem ∧ (u.group g).slot (1 - k) = y ∧ (u.group g).slot k = x := by
  simp only [State.group_setGroup, Group.ds_setSlot, popEntry_ds, Group.slot_setSlot]
  refine ⟨trivial, popEntry_mem t g, trivial, ?_⟩
  rw [Group.slot_setSlot_ne _ _ (by interval_cases k <;> simp), Group.slot_setSlot]

end Popped

theorem unparked_own (G : Group) (e : DivEntry) : (unparked G e).own = e.own &&& ~~~ G.exited := by
  unfold unparked
  simp only
  split <;> rfl

/-- An entry that no slot's own state is kept for. -/
theorem unparked_plain {G : Group} (e : DivEntry) (h : SMap.get G.trap.parked G.ds.toNat {} = {}) : unparked G e =
    { st := .run, pc := e.pc &&& ~~~ 3, own := e.own &&& ~~~ G.exited, mask := e.mask &&& ~~~ G.exited, mp := e.mp,
      pmode := e.pm } := by
  unfold unparked
  simp only [h]
  rfl

section Rows

variable {s t : State} {g j : Nat} {e : DivEntry}

/-- Row 1. -/
theorem examineOnce_park {k : Nat} (hk : k = if (s.group g).slot0.st = .free then 0 else 1) (h : TopIs s g j e t)
    (hfree : (s.group g).slot0.st = .free ∨ (s.group g).slot1.st = .free) (he : e.kind = 0) :
    s.examineOnce g j = .next ((t.popEntry g).setGroup g (((t.popEntry g).group g).setSlot k
      (if (unparked (s.group g) e).own = 0 then {} else unparked (s.group g) e))) := by
  rw [examineOnce_entry h (hfree.imp id .inl), if_pos he, if_pos (by simpa using hfree), hk]
  simp only [beq_iff_eq]

/-- Row 2. -/
theorem examineOnce_join {k : Nat} (hk : k < 2) (h : TopIs s g j e t) (he : e.kind = 1)
    (hw : ((s.group g).slot k).st = .wait) (hpc : e.pc = ((s.group g).slot k).mp)
    (hother : ((s.group g).slot (1 - k)).st = .free ∨ (((s.group g).slot (1 - k)).st = .wait
      ∧ (s.group g).slot0.mp = (s.group g).slot1.mp ∧ k = 1 - (s.group g).lastWaiter)) :
    s.examineOnce g j = .next ((t.popEntry g).setGroup g ((((t.popEntry g).group g).setSlot k
      (combined (s.group g) ((s.group g).slot k) e)).setSlot (1 - k) {})) := by
  rcases hother with hf | ⟨hw', hmp, hlast⟩
  · rcases slots_of hk _ hw hf with ⟨h0, h1, rfl⟩ | ⟨h0, h1, rfl⟩
    · rw [examineOnce_entry h (.inr (.inl h1))]
      simp [he, h0, h1, hpc]
    · rw [examineOnce_entry h (.inl h0)]
      simp [he, h0, h1, hpc]
  · have hboth : (s.group g).slot0.st = .wait ∧ (s.group g).slot1.st = .wait := by
      rcases slots_of hk _ hw hw' with ⟨h0, h1, -⟩ | ⟨h0, h1, -⟩ <;> exact ⟨h0, h1⟩
    rw [examineOnce_entry h (.inr (.inr ⟨hboth.1, hboth.2, hmp⟩))]
    simp [he, hboth, ← hlast, hpc]

/-- Row 3. -/
theorem examineOnce_discard (h : TopIs s g j e t) (he : e.kind = 1) (h0 : (s.group g).slot0.st = .free)
    (h1 : (s.group g).slot1.st = .free) : s.examineOnce g j = .next (t.popEntry g) := by
  rw [examineOnce_entry h (.inl h0)]
  simp [he, h0, h1]

/-- Row 5, with a JOIN entry of another point on the area. -/
theorem examineOnce_other {k : Nat} (hk : k < 2) (h : TopIs s g j e t) (he : e.kind = 1)
    (hw : ((s.group g).slot k).st = .wait) (hf : ((s.group g).slot (1 - k)).st = .free)
    (hpc : e.pc ≠ ((s.group g).slot k).mp) : s.examineOnce g j = .stuck k := by
  rcases slots_of hk _ hw hf with ⟨h0, h1, rfl⟩ | ⟨h0, h1, rfl⟩
  · rw [examineOnce_entry h (.inr (.inl h1))]
    simp [he, h0, h1, hpc]
  · rw [examineOnce_entry h (.inl h0)]
    simp [he, h0, h1, hpc]

end Rows

theorem slotRows : SlotRows := by
  intro s t g j e G out free
  refine ⟨fun k hk h hG hfree he => ?_, fun k hk h hG he hw hpc hother => ?_, fun h hG he h0 h1 => ?_,
    fun hds h0 h1 hlife htile => ?_, fun k hk hlife hh hw hf hentry => ?_, fun hlife hh h0 h1 hmp => ?_,
    fun k tpc w h => examined_stuck tpc w h, fun f tpc w h => examined_damaged tpc w h,
    fun u tpc w h => ⟨examined_nothing tpc w h, fun hu => examined_next tpc w hu h⟩⟩
  · have hk2 : k < 2 := by rw [hk]; split <;> omega
    obtain ⟨hds, hmem, hother, hthis⟩ := popEntry_setSlot t g hk2
      (if (unparked (s.group g) e).own = 0 then {} else unparked (s.group g) e)
    rw [hG] at hds hother
    refine ⟨_, examineOnce_park hk h hfree he, hds, hmem, hother, fun hown => ?_, fun hown hpark => ?_⟩
    · rw [hthis, if_pos ((unparked_own _ _).trans hown)]
    · rw [hthis, if_neg fun h0 => hown ((unparked_own _ _).symm.trans h0)]
      exact unparked_plain e hpark
  · obtain ⟨hds, hmem, hfreed, hthis⟩ := popEntry_setSlots t g hk (combined G (G.slot k) e) {}
    rw [hG] at hds
    refine ⟨_, examineOnce_join hk h he hw hpc hother, hds, hmem, hfreed, ?_⟩
    rw [hthis]
    exact ⟨rfl, rfl, rfl, rfl, rfl⟩
  · refine ⟨_, examineOnce_discard h he h0 h1, by rw [popEntry_ds, hG], popEntry_mem t g, ?_, ?_⟩
    · exact (popEntry_slot t g 0).trans (by rw [hG]; rfl)
    · exact (popEntry_slot t g 1).trans (by rw [hG]; rfl)
  · exact ⟨_, examineOnce_empty hds h0 h1 hlife htile, rfl, State.group_setGroup _ _ _⟩
  · rcases hentry with hds | ⟨h, he, hpc⟩
    · exact examineOnce_waiting hk hlife hds hw hf
    · exact examineOnce_other hk h he hw hf hpc
  · exact examineOnce_apart hlife hh h0 h1 hmp

/-! ## `exit` of a slot's last lanes, and `bmerge` (R123, R125) -/

/-- Slot k of the present group written: the group's fields besides that slot and its scalar side are as they were. -/
theorem group_of_elsewhere {s t : State} {g k : Nat} (hcur : s.cur = .slot g k) (h : Elsewhere s t s.cur) :
    t.group g = ({ s.group g with hart := (t.group g).hart } : Group).setSlot k (t.slot s.cur) := by
  obtain ⟨-, hgroup⟩ := h
  rw [hcur] at hgroup ⊢
  exact hgroup.2.2

theorem other_slot (k : Fin 2) : (1 - k.val = 0) ≠ (k.val = 0) := by
  fin_cases k <;> simp

theorem merges : Merges := by
  intro s g k hcur
  have hexec : exec .bmerge s = if (s.slot s.cur).mp = (s.slot s.cur).hdr then .next ((s.count.setSlot s.cur
      { s.count.slot s.cur with st := .wait, since := s.cycle, waveMode := (s.slot s.cur).pmode }).examined s.cur
        (s.slot s.cur).pc s.word) else .next s.retire := by
    show execBmerge s = _
    rw [execBmerge, hcur]
    rfl
  refine ⟨fun h => by rw [hexec, if_neg h], fun h hrun => ?_⟩
  rw [hexec, if_pos h]
  generalize hx : ({ s.count.slot s.cur with st := .wait, since := s.cycle, waveMode := (s.slot s.cur).pmode } : Slot) = x
  have hwait : x.st = .wait := by rw [← hx]
  have helse : Elsewhere s (s.count.setSlot s.cur x) s.cur := elsewhere_trans (elsewhere_count s) (elsewhere_setSlot _ _ _)
  have hgroup := group_of_elsewhere hcur helse
  rw [State.slot_setSlot] at hgroup
  congr 1
  rw [hcur] at hgroup ⊢
  refine examined_nothing _ _ (examineOnce_running k.isLt ?_ ?_) <;> rw [hgroup]
  · rw [Group.slot_setSlot, hwait]
  · rw [Group.slot_setSlot_ne _ _ (other_slot k)]
    exact hrun

/-- The group of a slot that `exit` has left without lanes. -/
theorem group_after_exit {s : State} {g k : Nat} (hcur : s.cur = .slot g k) (pc : Dword) (lanes : Lanes) :
    ∃ r, (((s.jump pc).endLanes g lanes).setSlot s.cur {}).group g = (Group.without { s.group g with
      hart := { (s.group g).hart with retired := r } } lanes).setSlot k {} := by
  obtain ⟨x, hx, -, -⟩ := State.jump_group hcur pc
  refine ⟨(s.group g).hart.retired + 1, ?_⟩
  rw [hcur, State.setSlot, State.group_setGroup, State.group_endLanes, hx]
  by_cases hk : k = 0 <;> simp [Group.setSlot, Group.without, hk]

theorem portsEnd_of {s s' t t' : State} {g : Nat} {lanes : Lanes} (h : PortsEnd s t g lanes) (hl : s'.launches = s.launches)
    (ht : t'.launches = t.launches) (hid : s'.launchOf g = s.launchOf g) (hwid : (s'.group g).wid = (s.group g).wid) :
    PortsEnd s' t' g lanes := by
  intro id hid' n hn wid
  have hs (i : Nat) : s'.launch i = s.launch i := by rw [State.launch, State.launch, hl]
  have ht' (i : Nat) : t'.launch i = t.launch i := by rw [State.launch, State.launch, ht]
  rw [hs, ht', hwid]
  exact h id (hid ▸ hid') n hn wid

theorem portsEnd_exit {s t : State} {g k : Nat} (hcur : s.cur = .slot g k) (pc : Dword) (lanes : Lanes)
    (ht : t.launches = ((s.jump pc).endLanes g lanes).launches) : PortsEnd s t g lanes := by
  obtain ⟨x, hx, -, -⟩ := State.jump_group hcur pc
  have hframe := (elsewhere_jump s pc).1
  have hl : (s.jump pc).launches = s.launches := by rw [hframe]
  have hwgs : (s.jump pc).wgs = s.wgs := by rw [hframe]
  have hwg : ((s.jump pc).group g).wg = (s.group g).wg := by
    rw [hx]
    by_cases hk : k = 0 <;> simp [Group.setSlot, hk]
  refine portsEnd_of (portsEnd_endLanes (s.jump pc) g lanes) hl.symm ht ?_ ?_
  · simp only [State.launchOf, State.wg, State.launch, hl, hwgs, hwg]
  · funext lane
    rw [hx]
    by_cases hk : k = 0 <;> simp [Group.setSlot, Group.wid, hk]

theorem laneEnds : LaneEnds := by
  refine ⟨endsOfLanes, ?_⟩
  intro s g k hcur h hactive hlast hds y
  have hexit : exec .exit s = .next ((((s.jump s.nextClause).endLanes g s.active).setSlot s.cur {}).examined s.cur
      (s.slot s.cur).pc s.word) := by
    rw [execExit_slot hcur h]
    simp only [own_after_exit hcur, hlast]
    rw [if_pos (by simpa using hactive)]
  obtain ⟨r, hgroup⟩ := group_after_exit hcur s.nextClause s.active
  have hmem : (((s.jump s.nextClause).endLanes g s.active).setSlot s.cur {}).mem = s.mem := by
    obtain ⟨m, hm⟩ := State.endLanes_eq (s.jump s.nextClause) g s.active
    rw [State.setSlot_mem, hm]
    exact State.jump_mem _ _
  have hports : ∀ t : State, t.launches = ((s.jump s.nextClause).endLanes g s.active).launches → PortsEnd s t g s.active :=
    fun t ht => portsEnd_exit hcur s.nextClause s.active ht
  generalize hu : ((s.jump s.nextClause).endLanes g s.active).setSlot s.cur {} = u at hexit hgroup hmem
  have hlaunches : u.launches = ((s.jump s.nextClause).endLanes g s.active).launches := by
    rw [← hu, State.setSlot_launches]
  have hds' : (u.group g).ds = (u.group g).dshi := by
    rw [hgroup]
    fin_cases k <;> exact hds
  have hme : (u.group g).slot k.val = {} := by rw [hgroup, Group.slot_setSlot]
  have hother : ((u.group g).slot (1 - k.val)).st = y.st := by
    rw [hgroup, Group.slot_setSlot_ne _ _ (other_slot k), Group.without_slot]
    rfl
  have hfields : (u.group g).life = (s.group g).life ∧ (u.group g).tile = (s.group g).tile
      ∧ (u.group g).exited = (s.group g).exited ||| s.active := by
    rw [hgroup]
    fin_cases k <;> exact ⟨rfl, rfl, rfl⟩
  obtain ⟨hlife', htile', hexited⟩ := hfields
  rw [hcur] at hexit
  refine ⟨fun hrun => ?_, fun hfree hlife htile => ?_⟩
  · have hnothing : u.examineOnce g k.val = .nothing :=
      examineOnce_alone k.isLt hds' (by rw [hme]) (hother.trans hrun)
    rw [examined_nothing _ _ hnothing] at hexit
    exact ⟨u, hexit, hme, hlife', hother.trans hrun, hexited, hmem, hports u hlaunches⟩
  · have hslots : (u.group g).slot0.st = .free ∧ (u.group g).slot1.st = .free := by
      rcases slots_of k.isLt (u.group g) (st := .free) (by rw [hme]) (hother.trans hfree) with ⟨h0, h1, -⟩ | ⟨h0, h1, -⟩ <;>
        exact ⟨h0, h1⟩
    obtain ⟨h0, h1⟩ := hslots
    have hrow := examineOnce_empty (j := k.val) hds' h0 h1 (hlife'.trans hlife) (htile'.trans htile)
    generalize hv : u.setGroup g { u.group g with life := .draining } = v at hrow
    have hgv : v.group g = { u.group g with life := .draining } := by rw [← hv, State.group_setGroup]
    have hslot (i : Nat) : (v.group g).slot i = (u.group g).slot i := by rw [hgv]; rfl
    have hnothing : v.examineOnce g k.val = .nothing := by
      apply examineOnce_draining <;> rw [hgv]
      · exact hds'
      · exact h0
      · exact h1
    rw [examined_next _ _ hrow hnothing] at hexit
    refine ⟨v, hexit, (hslot _).trans hme, ?_, by rw [hgv], ?_, ?_, hports v ?_⟩
    · rw [hslot, hother, hfree]
    · rw [hgv, ← hexited]
    · rw [← hv, ← hmem]
      rfl
    · rw [← hv, ← hlaunches]
      rfl

/-- Settles O6: lanes act through ACTIVE, end in the group and on their ports, and each row of the slot table is one branch
of the examination, whose entry is the top of the area as it stands in memory. -/
theorem laneControl : Obligations.LaneControl :=
  ⟨laneControlOnCores, laneControlInGroups, laneEnds, topEntries, slotRows, merges⟩

end Sys2Proof.Proofs

namespace Sys2Proof.Proofs
open Host (Outcome)
open Sys2Proof Sys2Proof.Machine Sys2Proof.Stated

/-! # Memory keeps its canonical form (O59)

One lemma for each function of the machine that gives a state. `f_mem` says that `f` leaves memory alone; where `f` may
write, the lemma says that memory in canonical form stays so: of the state `f` gives (`f_memOk`), of a result that holds
one, whether it succeeds or fails (`f_keeps`, `f_ok`), of the meaning of an instruction or an event (`f_good`). The
sections follow the model's files, and each proof looks into one function only: it rests on the lemmas of the functions
that one calls. What writes in the end are `Memory.wf_write`, `Memory.wf_setByte`, `Memory.wf_layBytes` and
`Memory.wf_filter` of the laws.

## Canonical memory in what a function gives -/

/-- What a result holds to: `P` of its value, `E` of what it fails with. -/
abbrev Keeps {ε α : Type} (E : ε → Prop) (P : α → Prop) (x : Except ε α) : Prop :=
  match x with
  | .ok a => P a
  | .error e => E e

/-- What an optional value holds to. -/
abbrev OptKeeps {α : Type} (P : α → Prop) (x : Option α) : Prop :=
  match x with
  | some a => P a
  | none => True

/-- The state in which an instruction traps or waits has its memory in canonical form. -/
abbrev ExcOk (x : Exc) : Prop :=
  match x with
  | .trap _ s => s.memOk
  | .wait _ s => s.memOk

/-- The same of the state in which an engine's command waits or halts. -/
abbrev XErrOk (x : XErr) : Prop :=
  match x with
  | .wait s => s.memOk
  | .halt _ _ _ s => s.memOk

/-- The same of the state at a clause that is entered. -/
abbrev EntryOk (x : Entry1) : Prop :=
  match x with
  | .entered s => s.memOk
  | .ripple s _ _ => s.memOk

/-- The same of the state in which a word runs. -/
abbrev FateOk (x : Fate) : Prop :=
  match x with
  | .runs _ s => s.memOk

/-- The same of the state an examination of the divergence area leads to. -/
abbrev ExamOk (x : Exam) : Prop :=
  match x with
  | .next s => s.memOk
  | _ => True

/-- The same of the state after an attempt at placement. -/
abbrev AttemptOk (x : Attempt) : Prop :=
  match x with
  | .placed s => s.memOk
  | .blocked s => s.memOk

/-- The same of the state after the read of a fence word. -/
abbrev FenceOk (x : Fence) : Prop :=
  match x with
  | .word _ s => s.memOk
  | .waits s => s.memOk
  | .dead s => s.memOk

/-- The next state of a meaning, if it has one, has its memory in canonical form. -/
abbrev Good (x : Outcome State Fault Refusal) : Prop :=
  match x with
  | .next s => s.memOk
  | _ => True

/-! ## Sequencing, optional values and folds -/

theorem bind_eq {ε α β : Type} (x : Except ε α) (f : α → Except ε β) :
    (x >>= f) = match x with | .ok a => f a | .error e => .error e := by
  cases x <;> rfl

theorem keeps_error {ε α : Type} {E : ε → Prop} {P : α → Prop} {e : ε} (h : E e) : Keeps E P (.error e) := h

theorem keeps_bind {ε α β : Type} {E : ε → Prop} {P : α → Prop} {Q : β → Prop} {x : Except ε α}
    {f : α → Except ε β} (hx : Keeps E P x) (hf : ∀ a, P a → Keeps E Q (f a)) : Keeps E Q (x >>= f) := by
  cases x with
  | ok a => exact hf a hx
  | error e => exact hx

theorem keeps_of_ok {ε α : Type} {P : α → Prop} {x : Except ε α} (h : ∀ a, x = .ok a → P a) :
    Keeps (fun _ => True) P x := by
  cases x with
  | ok a => exact h a rfl
  | error e => trivial

theorem keeps_bind_ok {ε α β : Type} {E : ε → Prop} {P : α → Prop} {x : Except ε α} {f : α → Except ε β} {b : β}
    (hx : Keeps E P x) (h : (x >>= f) = .ok b) : ∃ a, P a ∧ f a = .ok b := by
  cases x with
  | ok a => exact ⟨a, hx, h⟩
  | error e => cases h

theorem good_of_next {x : Outcome State Fault Refusal} (h : ∀ t, x = .next t → t.memOk) : Good x := by
  cases x with
  | next t => exact h t rfl
  | _ => trivial

theorem keeps_map {ε α β : Type} {E : ε → Prop} {P : α → Prop} {Q : β → Prop} {x : Except ε α} {f : α → β}
    (hx : Keeps E P x) (hf : ∀ a, P a → Q (f a)) : Keeps E Q (x.map f) := by
  cases x with
  | ok a => exact hf a hx
  | error e => exact hx

theorem optKeeps_bind {α β : Type} {P : α → Prop} {Q : β → Prop} {x : Option α} {f : α → Option β} (hx : OptKeeps P x)
    (hf : ∀ a, P a → OptKeeps Q (f a)) : OptKeeps Q (x >>= f) := by
  cases x with
  | some a => exact hf a hx
  | none => trivial

theorem optKeeps_map {α β : Type} {P : α → Prop} {Q : β → Prop} {x : Option α} {f : α → β} (hx : OptKeeps P x)
    (hf : ∀ a, P a → Q (f a)) : OptKeeps Q (x.map f) := by
  cases x with
  | some a => exact hf a hx
  | none => trivial

theorem optKeeps_of_some {α : Type} {P : α → Prop} {x : Option α} (h : ∀ a, x = some a → P a) : OptKeeps P x := by
  cases x with
  | some a => exact h a rfl
  | none => trivial

theorem optKeeps_some {α : Type} {P : α → Prop} {x : Option α} {a : α} (h : OptKeeps P x) (hx : x = some a) : P a := by
  rw [hx] at h
  exact h

theorem keeps_foldlM {ε α β : Type} {E : ε → Prop} {P : β → Prop} {f : β → α → Except ε β}
    (hf : ∀ b a, P b → Keeps E P (f b a)) {l : List α} {b : β} (hb : P b) : Keeps E P (l.foldlM f b) := by
  induction l generalizing b with
  | nil => exact hb
  | cons a l ih =>
    rw [List.foldlM_cons]
    exact keeps_bind (hf b a hb) fun _ h => ih h

theorem foldl_memOk {α : Type} {f : State → α → State} {l : List α} (hf : ∀ s a, s.memOk → (f s a).memOk) {s : State}
    (hM : s.memOk) : (l.foldl f s).memOk := by
  induction l generalizing s with
  | nil => exact hM
  | cons a l ih => exact ih (hf _ _ hM)

theorem foldl_mem {α : Type} {f : State → α → State} {l : List α} (hf : ∀ s a, (f s a).mem = s.mem) (s : State) :
    (l.foldl f s).mem = s.mem := by
  induction l generalizing s with
  | nil => rfl
  | cons a l ih => exact (ih _).trans (hf _ _)

/-- As `foldl_mem`, with the new state under a name of its own: the kernel need not evaluate the function to compare. -/
theorem foldl_mem_of_eq {α : Type} {f : State → α → State} {l : List α} (hf : ∀ s a t, f s a = t → t.mem = s.mem)
    (s : State) : (l.foldl f s).mem = s.mem := foldl_mem (fun s a => hf s a _ rfl) s

/-! ## Accessors -/

@[simp] theorem State.writeMask_mem (s : State) (v : Dword) : (s.writeMask v).mem = s.mem := by
  unfold State.writeMask
  repeat' split
  all_goals simp

@[simp] theorem State.pipUp_mem (s : State) (a : Agent) (n : Nat) : (s.pipUp a n).mem = s.mem := by simp [State.pipUp]

@[simp] theorem State.pipDown_mem (s : State) (a : Agent) (n : Nat) :
    (s.pipDown a n).mem = s.mem := by simp [State.pipDown]

/-! ## Memory -/

theorem State.pageXlate_memOk {s : State} {w : Who} {va : Nat} {k : AccKind} (hM : s.memOk) :
    (s.pageXlate w va k).2.memOk := by
  unfold State.pageXlate
  grind

/-! ## Happens-before and the detection of races on checked memory -/

@[simp] theorem State.acquire_mem (s : State) (w : Who) (scope : Nat) : (s.acquire w scope).mem = s.mem := by
  unfold State.acquire
  repeat' split
  all_goals simp

@[simp] theorem State.scFence_mem (s : State) (w : Who) (scope : Nat) : (s.scFence w scope).mem = s.mem := by
  unfold State.scFence
  repeat' split
  all_goals simp

@[simp] theorem State.learnAll_mem (s : State) (ws : List Who) (c : SMap Nat) : (s.learnAll ws c).mem = s.mem := by
  unfold State.learnAll
  repeat' split
  all_goals simp

@[simp] theorem State.learnSlot_mem (s : State) (c : SMap Nat) : (s.learnSlot c).mem = s.mem := by
  unfold State.learnSlot
  repeat' split
  all_goals simp

theorem State.raceAccess_keeps {s : State} {w : Who} {l : Loc} {n acc : Nat} {atomic : Bool} (hM : s.memOk) :
    Keeps (fun _ => True) State.memOk (s.raceAccess w l n acc atomic) := by
  unfold State.raceAccess
  grind

theorem State.groupAccess_keeps {s : State} {w : Who} {l : Loc} {n acc : Nat} (hM : s.memOk) :
    Keeps (fun _ => True) State.memOk (s.groupAccess w l n acc) := by
  unfold State.groupAccess
  grind [State.raceAccess_keeps, State.learnAll_mem]

@[simp] theorem State.publishRels_mem (s : State) (w : Who) (key : Nat) : (s.publishRels w key).mem = s.mem := by
  unfold State.publishRels
  repeat' split
  all_goals simp

@[simp] theorem State.readRels_mem (s : State) (w : Who) (key : Nat) : (s.readRels w key).mem = s.mem := by
  unfold State.readRels
  repeat' split
  all_goals simp

@[simp] theorem State.releaseSlot_mem (s : State) (scope : Nat) : (s.releaseSlot scope).mem = s.mem := by
  unfold State.releaseSlot
  grind [State.release_mem, foldl_mem]

@[simp] theorem State.acquireSlot_mem (s : State) (scope : Nat) : (s.acquireSlot scope).mem = s.mem :=
  foldl_mem (fun s w => State.acquire_mem s w scope) s

@[simp] theorem State.post_mem (s : State) (k : Nat) (c : SMap Nat) : (s.post k c).mem = s.mem := by
  unfold State.post
  repeat' split
  all_goals simp

/-! ## The Rhoam links -/

@[simp] theorem State.send_mem (s : State) (pkg kind : Nat) (bytes : List Byte) : (s.send pkg kind bytes).mem = s.mem :=
  rfl

@[simp] theorem State.sendFlit_mem (s : State) (pkg port : Nat) (f : Flit) : (s.sendFlit pkg port f).mem = s.mem := rfl

@[simp] theorem State.setLink_mem (s : State) (pkg port : Nat) (l : Link) : (s.setLink pkg port l).mem = s.mem := rfl

@[simp] theorem State.drain_mem (s : State) (pkg port : Nat) (l : List Flit) : (s.drain pkg port l).mem = s.mem := by
  induction l generalizing s with
  | nil => rfl
  | cons f fs ih =>
    unfold State.drain
    dsimp only
    split
    · exact (ih _).trans rfl
    · rfl

@[simp] theorem State.emit_mem (s : State) (pkg port : Nat) (f : Flit) :
    (s.emit pkg port f).mem = s.mem := by simp [State.emit]

@[simp] theorem State.route_mem (s : State) (pkg target granule : Nat) (f : Flit) :
    (s.route pkg target granule f).mem = s.mem := by
  unfold State.route
  dsimp only
  repeat' split
  all_goals simp

@[simp] theorem State.acceptFlit_mem (s : State) (pkg port : Nat) (f : Flit) :
    (s.acceptFlit pkg port f).mem = s.mem := by simp [State.acceptFlit]

@[simp] theorem State.nak_mem (s : State) (pkg port : Nat) : (s.nak pkg port).mem = s.mem := rfl

@[simp] theorem State.resend_mem (s : State) (pkg port : Nat) (f : Flit) : (s.resend pkg port f).mem = s.mem := by
  unfold State.resend
  grind [State.sendFlit_mem, State.setLink_mem, foldl_mem]

@[simp] theorem State.portDown_mem (s : State) (pkg port : Nat) (l : Link) : (s.portDown pkg port l).mem = s.mem := by
  unfold State.portDown
  grind [State.route_mem, State.setLink_mem, foldl_mem]

@[simp] theorem State.transmit_mem (s : State) (n : Nat) (o : Op) (src ctx : Nat) (origin : BitVec 16)
    (reqs : List LaneReq) : (s.transmit n o src ctx origin reqs).mem = s.mem := by
  unfold State.transmit
  grind [State.route_mem, foldl_mem]

/-! ## Stamp rings and trace rings, what is stopped, and the records that issue, traps, engines and debug write -/

@[simp] theorem State.setCtxReg_mem (s : State) (pkg ctx num : Nat) (v : Dword) :
    (s.setCtxReg pkg ctx num v).mem = s.mem :=
  rfl

@[simp] theorem State.setPart_mem (s : State) (k : Nat) (x : PartSt) : (s.setPart k x).mem = s.mem := rfl

@[simp] theorem State.setDie_mem (s : State) (pkg die : Nat) (x : DieSt) : (s.setDie pkg die x).mem = s.mem := rfl

@[simp] theorem State.setStop_mem (s : State) (a : Agent) (x : Option Stop) : (s.setStop a x).mem = s.mem := by
  unfold State.setStop
  repeat' split
  all_goals simp

@[simp] theorem State.dropFaults_mem (s : State) (p : FaultEntry → Bool) : (s.dropFaults p).mem = s.mem := rfl

theorem State.ringHeader_keeps {s : State} {r : RingRec} (hM : s.memOk) :
    OptKeeps (fun r => r.2.memOk) (s.ringHeader r) := by
  unfold State.ringHeader
  grind [State.xlate_mem]

theorem State.ringReply_memOk {s : State} {q : Nat} {reject : Bool} (hM : s.memOk) :
    (s.ringReply q reject).memOk := by
  unfold State.ringReply
  grind [State.ringDrop_memOk, State.record_memOk, foldl_memOk]

theorem State.tracePart_memOk {s : State} {part gslot pslot ctx kind data0 : Nat} {d1 d2 : Dword} (hM : s.memOk) :
    (s.tracePart part gslot pslot ctx kind data0 d1 d2).memOk := by
  unfold State.tracePart
  grind [State.record_memOk]

theorem State.traceIssue_memOk {s : State} {a : Agent} {hdr : Dword} (hM : s.memOk) :
    (s.traceIssue a hdr).memOk := by
  unfold State.traceIssue
  grind [State.traceSlot_memOk]

theorem State.traceEngine_memOk {s : State} {evt : Bool} {pkg die engine ctx kind data0 : Nat} {d1 d2 : Dword}
    (hM : s.memOk) :
    (s.traceEngine evt pkg die engine ctx kind data0 d1 d2).memOk := by
  unfold State.traceEngine
  grind [State.tracePart_memOk]

@[simp] theorem State.sendMaelub_mem (s : State) (m : MaelubMsg) (req : Option Req) (status : Nat)
    (payload : List Byte) : (s.sendMaelub m req status payload).mem = s.mem := by
  unfold State.sendMaelub
  repeat' split
  all_goals simp

@[simp] theorem State.stepReply_mem (s : State) (r : Option StepRun) (x : Stop) (slots : List Nat) :
    (s.stepReply r x slots).mem = s.mem := by
  unfold State.stepReply
  repeat' split
  all_goals simp

theorem State.stopPart_memOk {s : State} {k code cmp : Nat} (hM : s.memOk) :
    (s.stopPart k code cmp).memOk := by
  unfold State.stopPart
  grind [State.setPart_mem, State.tracePart_memOk, State.stepReply_mem]

theorem State.stopAgent_memOk {s : State} {a : Agent} {code cmp : Nat} (hM : s.memOk) :
    (s.stopAgent a code cmp).memOk := by
  unfold State.stopAgent
  grind [State.stopPart_memOk, State.setCore_mem, State.stepReply_mem]

@[simp] theorem State.holdOp_mem (s : State) (n : Nat) (o : Op) (x : Stop) : (s.holdOp n o x).mem = s.mem := by
  unfold State.holdOp
  repeat' split
  all_goals simp

/-! ## Pending wakes of system-class cores and groups -/

@[simp] theorem State.wakeCore_mem (s : State) (pkg die core bit : Nat) :
    (s.wakeCore pkg die core bit).mem = s.mem := by
  unfold State.wakeCore
  repeat' split
  all_goals simp

@[simp] theorem State.wakeSys_mem (s : State) (pkg bit : Nat) : (s.wakeSys pkg bit).mem = s.mem := by
  unfold State.wakeSys
  grind [State.wakeCore_mem, foldl_mem]

@[simp] theorem State.wakeGroups_mem (s : State) (pkg die core ctx : Nat) :
    (s.wakeGroups pkg die core ctx).mem = s.mem :=
  rfl

/-! ## The rings of the service, and the package's error log -/

theorem State.postAt_keeps {s : State} {pkg : Nat} {va : Dword} {n : Nat} {words : List Dword} (hM : s.memOk) :
    OptKeeps State.memOk (s.postAt pkg va n words) := by
  unfold State.postAt
  grind [State.xlate_mem, State.putBytes_memOk]

theorem State.postError_memOk {s : State} {pkg : Nat} {words : List Dword} (hM : s.memOk) :
    (s.postError pkg words).memOk := by
  unfold State.postError
  grind [State.postAt_keeps, State.setPkg_mem, State.wakeSys_mem]

theorem State.errorRecord_memOk {s : State} {pkg : Nat} {unit_ where_ kind : Dword} (hM : s.memOk) :
    (s.errorRecord pkg unit_ where_ kind).memOk := State.postError_memOk hM

theorem State.postLost_memOk {s : State} {gid : Nat} (hM : s.memOk) :
    (s.postLost gid).memOk := by
  unfold State.postLost
  grind [State.setGroup_mem, State.errorRecord_memOk, foldl_memOk]

/-! ## Forward ports as the launch keeps them -/

@[simp] theorem State.endPorts_mem (s : State) (gid : Nat) (lanes : Lanes) (ports : List Nat) :
    (s.endPorts gid lanes ports).mem = s.mem := by
  unfold State.endPorts
  repeat' split
  all_goals simp

/-! ## The shared operations of the meanings -/

theorem State.hwStore_keeps {s : State} {w : Who} {va : Dword} {l : List (List Dword)} (hM : s.memOk) :
    Keeps (fun _ => True) State.memOk (s.hwStore w va l) := by
  induction l generalizing s va with
  | nil => exact hM
  | cons b bs ih =>
    unfold State.hwStore
    grind [State.xlate_mem, State.putBytes_memOk]

theorem State.hwLoad_keeps {s : State} {w : Who} {va : Dword} {n : Nat} (hM : s.memOk) :
    Keeps (fun _ => True) (fun r => r.2.memOk) (s.hwLoad w va n) := by
  unfold State.hwLoad
  grind [State.xlate_mem]

@[simp] theorem State.countParked_mem (s : State) (pip : Option Nat) : (s.countParked pip).mem = s.mem := by
  unfold State.countParked
  repeat' split
  all_goals simp

@[simp] theorem State.uncount_mem (s : State) (e : FaultEntry) : (s.uncount e).mem = s.mem := by
  unfold State.uncount
  repeat' split
  all_goals simp

@[simp] theorem State.setEscalated_mem (s : State) (gid reason second : Nat) (frame : Dword) :
    (s.setEscalated gid reason second frame).mem = s.mem :=
  rfl

@[simp] theorem State.unescalate_mem (s : State) (gid : Nat) : (s.unescalate gid).mem = s.mem := rfl

@[simp] theorem State.endLanes_mem (s : State) (gid : Nat) (lanes : Lanes) :
    (s.endLanes gid lanes).mem = s.mem := by simp [State.endLanes]

theorem State.resumeFrame_memOk {s : State} {gid img : Nat} (hM : s.memOk) :
    (s.resumeFrame gid img).memOk := by
  unfold State.resumeFrame
  grind [State.setGroup_mem, State.postLost_memOk, State.endLanes_mem]

theorem State.clearResumed_memOk {s : State} {gid : Nat} {head : Dword} (hM : s.memOk) :
    (s.clearResumed gid head).memOk := by
  unfold State.clearResumed
  grind [State.xlate_mem, State.putBytes_memOk]

theorem finish_good {r : Res} (h : Keeps ExcOk State.memOk r) : Good (finish r) := by
  unfold finish
  split
  · exact h
  · exact State.takeTrap_memOk _ _ h
  · exact State.memOk_of_mem (State.blockSlot_mem _ _) h

theorem State.trapAt_ok {s : State} {cause : Nat} {addr det2 det3 : optParam Dword 0} {done : optParam Lanes 0}
    (hM : s.memOk) :
    ExcOk (s.trapAt cause addr det2 det3 done) := hM

theorem State.illegal_ok {s : State} (hM : s.memOk) :
    ExcOk s.illegal := hM

theorem Exc.counted_ok {e : Exc} {pip : Option Nat} (h : ExcOk e) : ExcOk (e.counted pip) := by
  unfold Exc.counted
  grind [State.countParked_mem]

theorem counting_keeps {x : Res} {pip : Option Nat} (h : Keeps ExcOk State.memOk x) :
    Keeps ExcOk State.memOk (counting pip x) := by
  cases x with
  | ok t => exact h
  | error e => exact Exc.counted_ok h

theorem guardRes_keeps {c : Bool} {e : Exc} (h : ExcOk e) : Keeps ExcOk (fun _ => True) (guardRes c e) := by
  unfold guardRes
  grind

theorem State.need_keeps {s : State} {ss : List (BitVec 8)} {vs : optParam (List Nat) []} (hM : s.memOk) :
    Keeps ExcOk (fun _ => True) (s.need ss vs) := by
  unfold State.need
  grind

theorem State.needPip_keeps {s : State} {pip : Option Nat} (hM : s.memOk) :
    Keeps ExcOk (fun _ => True) (s.needPip pip) := by
  unfold State.needPip
  grind

theorem State.fresh_memOk {s : State} (hM : s.memOk) :
    s.fresh.2.memOk := hM

@[simp] theorem State.launchOp_mem (s : State) (o : Op) : (s.launchOp o).mem = s.mem := by
  unfold State.launchOp State.fresh
  grind [State.pipUp_mem]

/-! ## Tile stamp records -/

@[simp] theorem State.setTile_mem (s : State) (n : Nat) (t : Tile) : (s.setTile n t).mem = s.mem := rfl

theorem execTilebeg_good {s : State} {d a : BitVec 8} (hM : s.memOk) :
    Good (execTilebeg d a s) := by
  refine finish_good <| keeps_bind (State.need_keeps hM) fun _ _ => ?_
  grind [State.retire_mem, State.setGroup_mem, State.fresh_memOk, guardRes_keeps, State.writeS_mem, State.setTile_mem,
    State.illegal_ok, bind_eq]

theorem State.writeNextSeq_memOk {s : State} {core pkg ctx : Nat} (hM : s.memOk) :
    (s.writeNextSeq core pkg ctx).memOk := by
  unfold State.writeNextSeq
  grind [State.ringHeader_keeps, State.putBytes_memOk]

theorem State.closeTile_memOk {s : State} {gid : Nat} (hM : s.memOk) :
    (s.closeTile gid).2.memOk := by
  unfold State.closeTile
  grind [State.setGroup_mem, State.writeNextSeq_memOk, State.setTile_mem, State.setCtx_mem]

theorem execTileend_good {s : State} {d : BitVec 8} (hM : s.memOk) :
    Good (execTileend d s) := by
  refine finish_good <| keeps_bind (State.need_keeps hM) fun _ _ => ?_
  grind [State.retire_mem, State.writeS_mem, State.closeTile_memOk, State.illegal_ok]

theorem execStampRecordWrite_good {s : State} {n : Nat} (hM : s.memOk) :
    Good (execStampRecordWrite n s) := by
  unfold execStampRecordWrite
  grind [State.record_memOk]

/-! ## The divergence area and the slot table of R121, checked after every event in a group -/

theorem State.topEntry_keeps {s : State} {gid k : Nat} (hM : s.memOk) :
    Keeps (fun _ => True) (fun r => r.2.memOk) (s.topEntry gid k) := by
  unfold State.topEntry
  grind [State.groupAccess_keeps]

theorem State.pushEntry_keeps {s : State} {gid k : Nat} {e : DivEntry} (hM : s.memOk) :
    Keeps (fun _ => True) State.memOk (s.pushEntry gid k e) := by
  unfold State.pushEntry
  grind [State.setGroup_mem, State.groupAccess_keeps, State.putBytes_memOk]

@[simp] theorem State.popEntry_mem (s : State) (gid : Nat) : (s.popEntry gid).mem = s.mem := rfl

theorem State.parkSlot_keeps {s : State} {gid k : Nat} {x : Slot} (hM : s.memOk) :
    Keeps (fun _ => True) State.memOk (s.parkSlot gid k x) :=
  keeps_bind (State.pushEntry_keeps hM) fun _ h1 => State.memOk_of_mem (by simp) h1

theorem State.examineOnce_ok {s : State} {gid j : Nat} (hM : s.memOk) : ExamOk (s.examineOnce gid j) := by
  unfold State.examineOnce
  extract_lets g x y bothFree bothWait anyFree anyWait hidden
  clear_value x y bothFree bothWait anyFree anyWait hidden
  by_cases hx : g.examinable = true
  · by_cases hh : (hidden || g.ds == g.dshi) = true
    · grind [State.closeTile_memOk, State.setGroup_mem]
    · have htop := State.topEntry_keeps (gid := gid) (k := j) hM
      clear_value g
      cases ht : s.topEntry gid j with
      | error f => grind
      | ok p =>
        obtain ⟨e, t⟩ := p
        rw [ht] at htop
        grind [State.popEntry_mem, State.setGroup_mem]
  · grind

theorem State.examine_memOk {s : State} {gid j n : Nat} (hM : s.memOk) :
    (s.examine gid j n).2.memOk := by
  induction n generalizing s with
  | zero => exact hM
  | succ n ih =>
    have h1 := State.examineOnce_ok (gid := gid) (j := j) hM
    unfold State.examine
    grind

@[simp] theorem State.unmerge_mem (s : State) (gid j : Nat) : (s.unmerge gid j).mem = s.mem := rfl

theorem State.examined_memOk {s : State} {a : Agent} {tpc : Dword} {word : Word} (hM : s.memOk) :
    (s.examined a tpc word).memOk := by
  unfold State.examined
  grind [State.unmerge_mem, State.examine_memOk, State.takeTrap_memOk]

/-! ## Control -/

theorem execNop_good {s : State} (hM : s.memOk) :
    Good (execNop s) := by
  unfold execNop
  grind [State.retire_mem, finish_good]

@[simp] theorem State.branchIf_mem (s : State) (c : Bool) (o : BitVec 16) : (s.branchIf c o).mem = s.mem := by
  unfold State.branchIf
  repeat' split
  all_goals simp

theorem condBranch_good {s : State} {d : BitVec 8} {o : BitVec 16} {c : Dword → Bool} (hM : s.memOk) :
    Good (condBranch d o c s) :=
  finish_good <| keeps_bind (State.need_keeps hM) fun _ _ => State.memOk_of_mem (by simp) hM

theorem execBr_good {s : State} {o : BitVec 24} (hM : s.memOk) :
    Good (execBr o s) := by
  unfold execBr
  grind [finish_good, State.jump_mem]

theorem execBz_good {s : State} {d : BitVec 8} {o : BitVec 16} (hM : s.memOk) :
    Good (execBz d o s) := condBranch_good hM

theorem execBnz_good {s : State} {d : BitVec 8} {o : BitVec 16} (hM : s.memOk) :
    Good (execBnz d o s) := condBranch_good hM

theorem execBltz_good {s : State} {d : BitVec 8} {o : BitVec 16} (hM : s.memOk) :
    Good (execBltz d o s) := condBranch_good hM

theorem execBgez_good {s : State} {d : BitVec 8} {o : BitVec 16} (hM : s.memOk) :
    Good (execBgez d o s) := condBranch_good hM

theorem execCall_good {s : State} {o : BitVec 24} (hM : s.memOk) :
    Good (execCall o s) := finish_good <| keeps_bind (State.need_keeps hM) fun _ _ => State.memOk_of_mem (by simp) hM

theorem State.jumpTarget_keeps {s : State} {a : BitVec 8} (hM : s.memOk) :
    Keeps ExcOk (fun _ => True) (s.jumpTarget a) := by
  unfold State.jumpTarget
  grind [State.trapAt_ok]

theorem execJr_good {s : State} {a : BitVec 8} (hM : s.memOk) :
    Good (execJr a s) :=
  finish_good <| keeps_bind (State.need_keeps hM) fun _ _ => keeps_bind (State.jumpTarget_keeps hM) fun _ _ =>
    State.memOk_of_mem (by simp) hM

theorem execCallr_good {s : State} {a : BitVec 8} (hM : s.memOk) :
    Good (execCallr a s) :=
  finish_good <| keeps_bind (State.need_keeps hM) fun _ _ => keeps_bind (State.jumpTarget_keeps hM) fun _ _ =>
    State.memOk_of_mem (by simp) hM

theorem State.areaTrap_ok {s : State} {f : AreaFault} (hM : s.memOk) :
    ExcOk (s.areaTrap f) := hM

theorem State.split_keeps {s : State} {gid k : Nat} {t : Lanes} {tg m : Dword} (hM : s.memOk) :
    Keeps ExcOk State.memOk (s.split gid k t tg m) := by
  unfold State.split
  grind [State.parkSlot_keeps, State.setSlot_mem, State.trapAt_ok, State.pushEntry_keeps, State.jump_mem,
    State.areaTrap_ok]

theorem execBsplit_good {s : State} {a : BitVec 8} {x : BitVec 32} (hM : s.memOk) :
    Good (execBsplit a x s) := by
  refine finish_good <| keeps_bind (State.need_keeps hM) fun _ _ => ?_
  grind [State.jump_mem, State.split_keeps]

theorem execBmerge_good {s : State} (hM : s.memOk) :
    Good (execBmerge s) := by
  unfold execBmerge
  grind [State.retire_mem, finish_good, State.examined_memOk, State.setSlot_mem, State.count_mem]

theorem execBany_good {s : State} {d : BitVec 8} {o : BitVec 16} (hM : s.memOk) :
    Good (execBany d o s) := finish_good <| keeps_bind (State.need_keeps hM) fun _ _ => State.memOk_of_mem (by simp) hM

theorem execBall_good {s : State} {d : BitVec 8} {o : BitVec 16} (hM : s.memOk) :
    Good (execBall d o s) := finish_good <| keeps_bind (State.need_keeps hM) fun _ _ => State.memOk_of_mem (by simp) hM

theorem execExit_good {s : State} (hM : s.memOk) :
    Good (execExit s) := by
  unfold execExit
  grind [State.need_keeps, finish_good, State.examined_memOk, State.endLanes_mem, State.setSlot_mem, State.setCore_mem,
    State.jump_mem, State.count_mem, bind_eq]

theorem execWaitc_good {s : State} {n t : BitVec 8} (hM : s.memOk) :
    Good (execWaitc n t s) := by
  unfold execWaitc
  grind [State.retire_mem, finish_good, State.illegal_ok]

theorem deliberate_good {s : State} {cause : Nat} {resume : Dword} (hM : s.memOk) :
    Good (deliberate cause resume s) := by
  unfold deliberate
  grind [finish_good]

theorem execTrap_good {s : State} {_n : BitVec 24} (hM : s.memOk) :
    Good (execTrap _n s) := deliberate_good hM

theorem execSvc_good {s : State} {_n : BitVec 24} (hM : s.memOk) :
    Good (execSvc _n s) := deliberate_good hM

/-! ## Replay logs -/

theorem State.logSlot_keeps {s : State} {l : Log} {base : Dword} {cap pos : Nat} (hM : s.memOk) :
    OptKeeps (fun r => r.2.memOk) (s.logSlot l base cap pos) := by
  unfold State.logSlot
  grind [State.xlate_mem]

theorem State.logPut_memOk {s : State} {l : Log} {bytes : Nat} (hM : s.memOk) :
    (s.logPut l bytes).memOk := by
  unfold State.logPut
  grind [State.logSlot_keeps, State.putBytes_memOk]

theorem State.logInput_memOk {s : State} {a : Agent} {l : Log} {count kind : Nat} {where_ value : Dword} {order : Nat}
    (hM : s.memOk) :
    (s.logInput a l count kind where_ value order).memOk := State.logPut_memOk hM

theorem State.diverge_memOk {s : State} {a : Agent} (hM : s.memOk) :
    (s.diverge a).memOk := by
  unfold State.diverge
  grind [State.stopAgent_memOk, State.setCtx_mem]

theorem divergeExc_ok {s : State} (hM : s.memOk) :
    ExcOk (divergeExc s) := State.diverge_memOk hM

@[simp] theorem State.consume_mem (s : State) (a : Agent) (l : Log) (pos extra : Nat) :
    (s.consume a l pos extra).mem = s.mem := by
  unfold State.consume
  repeat' split
  all_goals simp

theorem State.arrive_memOk {s : State} {pkg ctx : Nat} {va : Dword} {l : List Byte} (hM : s.memOk) :
    (s.arrive pkg ctx va l).memOk := by
  induction l generalizing s va with
  | nil => exact hM
  | cons b bs ih =>
    unfold State.arrive
    grind [State.xlate_mem, State.putBytes_memOk]

theorem State.replayArrivals_memOk {s : State} {a : Agent} {l : Log} {n : Nat} (hM : s.memOk) :
    (s.replayArrivals a l n).memOk := by
  induction n generalizing s with
  | zero => exact hM
  | succ n ih =>
    unfold State.replayArrivals
    grind [State.arrive_memOk, State.consume_mem]

theorem State.recordArrivals_memOk {s : State} {a : Agent} {l : Log} (hM : s.memOk) :
    (s.recordArrivals a l).memOk := by
  unfold State.recordArrivals
  grind [State.logPut_memOk, State.logInput_memOk, State.setCtx_mem, foldl_memOk]

theorem State.input_keeps {s : State} {kind : Nat} {where_ live : Dword} (hM : s.memOk) :
    Keeps ExcOk (fun r => r.2.memOk) (s.input kind where_ live) := by
  unfold State.input
  grind [divergeExc_ok, State.logInput_memOk, State.recordArrivals_memOk, State.replayArrivals_memOk, State.consume_mem]

@[simp] theorem State.stepCount_mem (s : State) (l : Log) (va : Dword) : (s.stepCount l va).mem = s.mem := rfl

theorem State.stepEntry_keeps {s : State} {l : Log} {kind : Nat} {va : Dword} (hM : s.memOk) :
    Keeps ExcOk (fun _ => True) (s.stepEntry l kind va) := by
  unfold State.stepEntry
  grind [divergeExc_ok]

@[simp] theorem stepDeliver_mem (before after : State) (d : BitVec 8) (v : Dword) :
    (stepDeliver before after d v).mem = after.mem := by
  unfold stepDeliver
  repeat' split
  all_goals simp

theorem State.stepWith_keeps {s : State} {l : Log} {va : Dword} {d : BitVec 8} {k : State → Res} (hM : s.memOk)
    (h : Keeps ExcOk State.memOk (k s)) : Keeps ExcOk State.memOk (s.stepWith l va d k) := by
  unfold State.stepWith
  grind [State.stepCount_mem, stepDeliver_mem, guardRes_keeps, State.logInput_memOk, State.stepEntry_keeps,
    State.consume_mem, bind_eq]

theorem State.atomicStep_keeps {s : State} {va : Dword} {d : BitVec 8} {k : State → Res} (hM : s.memOk)
    (h : Keeps ExcOk State.memOk (k s)) : Keeps ExcOk State.memOk (s.atomicStep va d k) := by
  unfold State.atomicStep
  grind [State.stepWith_keeps]

theorem State.queueStep_keeps {s : State} {q : Nat} {d : BitVec 8} {k : State → Res} (hM : s.memOk)
    (h : Keeps ExcOk State.memOk (k s)) : Keeps ExcOk State.memOk (s.queueStep q d k) := by
  unfold State.queueStep
  grind [State.stepWith_keeps]

theorem State.ticketStep_keeps {s : State} {home ticket : Dword} {k : State → Res} (hM : s.memOk)
    (h : Keeps ExcOk State.memOk (k s)) : Keeps ExcOk State.memOk (s.ticketStep home ticket k) := by
  unfold State.ticketStep
  grind [bind_eq, State.stepEntry_keeps, guardRes_keeps, divergeExc_ok, State.consume_mem, State.stepCount_mem,
    State.logInput_memOk, Except.map]

theorem State.completed_memOk {s : State} {c : Cmd} (hM : s.memOk) :
    (s.completed c).memOk := by
  unfold State.completed
  grind [State.logInput_memOk, State.setCtx_mem]

/-! ## Scalar integer arithmetic, immediates and bits -/

theorem scalarOp_keeps {s : State} {d : BitVec 8} {srcs : List (BitVec 8)} {v : State → Dword} {words : optParam Nat 1}
    (hM : s.memOk) :
    Keeps ExcOk State.memOk (scalarOp d srcs v s words) :=
  keeps_bind (State.need_keeps hM) fun _ _ => State.memOk_of_mem (by simp) hM

theorem alu_good {s : State} {f : Dword → Dword → Dword} {d a b : BitVec 8} (hM : s.memOk) :
    Good (alu f d a b s) := finish_good (scalarOp_keeps hM)

theorem alu1_good {s : State} {f : Dword → Dword} {d a : BitVec 8} (hM : s.memOk) :
    Good (alu1 f d a s) := finish_good (scalarOp_keeps hM)

theorem aluShift_good {s : State} {f : Dword → Nat → Dword} {d a n : BitVec 8} (hM : s.memOk) :
    Good (aluShift f d a n s) := by
  unfold aluShift
  grind [finish_good, State.illegal_ok, alu1_good]

theorem execSadd_good {s : State} {d a b : BitVec 8} (hM : s.memOk) :
    Good (execSadd d a b s) := alu_good hM

theorem execSsub_good {s : State} {d a b : BitVec 8} (hM : s.memOk) :
    Good (execSsub d a b s) := alu_good hM

theorem execSmul_good {s : State} {d a b : BitVec 8} (hM : s.memOk) :
    Good (execSmul d a b s) := alu_good hM

theorem execSmulh_good {s : State} {d a b : BitVec 8} (hM : s.memOk) :
    Good (execSmulh d a b s) := alu_good hM

theorem execSmulhn_good {s : State} {d a b : BitVec 8} (hM : s.memOk) :
    Good (execSmulhn d a b s) := alu_good hM

theorem execSdiv_good {s : State} {d a b : BitVec 8} (hM : s.memOk) :
    Good (execSdiv d a b s) := alu_good hM

theorem execSdivn_good {s : State} {d a b : BitVec 8} (hM : s.memOk) :
    Good (execSdivn d a b s) := alu_good hM

theorem execSrem_good {s : State} {d a b : BitVec 8} (hM : s.memOk) :
    Good (execSrem d a b s) := alu_good hM

theorem execSremn_good {s : State} {d a b : BitVec 8} (hM : s.memOk) :
    Good (execSremn d a b s) := alu_good hM

theorem execSand_good {s : State} {d a b : BitVec 8} (hM : s.memOk) :
    Good (execSand d a b s) := alu_good hM

theorem execSor_good {s : State} {d a b : BitVec 8} (hM : s.memOk) :
    Good (execSor d a b s) := alu_good hM

theorem execSxor_good {s : State} {d a b : BitVec 8} (hM : s.memOk) :
    Good (execSxor d a b s) := alu_good hM

theorem execSshl_good {s : State} {d a b : BitVec 8} (hM : s.memOk) :
    Good (execSshl d a b s) := alu_good hM

theorem execSshr_good {s : State} {d a b : BitVec 8} (hM : s.memOk) :
    Good (execSshr d a b s) := alu_good hM

theorem execSsar_good {s : State} {d a b : BitVec 8} (hM : s.memOk) :
    Good (execSsar d a b s) := alu_good hM

theorem execSsel_good {s : State} {d a b : BitVec 8} (hM : s.memOk) :
    Good (execSsel d a b s) := finish_good (scalarOp_keeps hM)

theorem execSli_good {s : State} {d : BitVec 8} {i : BitVec 16} (hM : s.memOk) :
    Good (execSli d i s) := finish_good (scalarOp_keeps hM)

theorem execSlih_good {s : State} {d : BitVec 8} {i : BitVec 16} (hM : s.memOk) :
    Good (execSlih d i s) := finish_good (scalarOp_keeps hM)

theorem execSlit_good {s : State} {d : BitVec 8} {x : BitVec 32} (hM : s.memOk) :
    Good (execSlit d x s) := finish_good (scalarOp_keeps hM)

theorem execSaddi_good {s : State} {d a i : BitVec 8} (hM : s.memOk) :
    Good (execSaddi d a i s) := alu1_good hM

theorem execSandi_good {s : State} {d a i : BitVec 8} (hM : s.memOk) :
    Good (execSandi d a i s) := alu1_good hM

theorem execSshli_good {s : State} {d a n : BitVec 8} (hM : s.memOk) :
    Good (execSshli d a n s) := aluShift_good hM

theorem execSshri_good {s : State} {d a n : BitVec 8} (hM : s.memOk) :
    Good (execSshri d a n s) := aluShift_good hM

theorem execSsari_good {s : State} {d a n : BitVec 8} (hM : s.memOk) :
    Good (execSsari d a n s) := aluShift_good hM

theorem execSeq_good {s : State} {d a b : BitVec 8} (hM : s.memOk) :
    Good (execSeq d a b s) := alu_good hM

theorem execSlt_good {s : State} {d a b : BitVec 8} (hM : s.memOk) :
    Good (execSlt d a b s) := alu_good hM

theorem execSltn_good {s : State} {d a b : BitVec 8} (hM : s.memOk) :
    Good (execSltn d a b s) := alu_good hM

theorem execSmin_good {s : State} {d a b : BitVec 8} (hM : s.memOk) :
    Good (execSmin d a b s) := alu_good hM

theorem execSmax_good {s : State} {d a b : BitVec 8} (hM : s.memOk) :
    Good (execSmax d a b s) := alu_good hM

theorem execSclz_good {s : State} {d a : BitVec 8} (hM : s.memOk) :
    Good (execSclz d a s) := alu1_good hM

theorem execSpopc_good {s : State} {d a : BitVec 8} (hM : s.memOk) :
    Good (execSpopc d a s) := alu1_good hM

theorem execSbfx_good {s : State} {d a b : BitVec 8} (hM : s.memOk) :
    Good (execSbfx d a b s) := alu_good hM

theorem execSplace_good {s : State} {d a b : BitVec 8} (hM : s.memOk) :
    Good (execSplace d a b s) := alu_good hM

/-! ## Scalar loads and stores, and the completion of operations in flight -/

theorem State.scalarAccess_keeps {s : State} {va : Dword} {n align : Nat} {k : AccKind} {atomic : Bool} (hM : s.memOk) :
    Keeps ExcOk (fun r => r.2.memOk) (s.scalarAccess va n align k atomic) := by
  unfold State.scalarAccess
  grind [State.parkReissue_mem, State.xlate_mem, State.raceAccess_keeps, State.trapAt_ok]

@[simp] theorem State.writeSFor_mem (s : State) (a : Agent) (n : Nat) (v : Dword) :
    (s.writeSFor a n v).mem = s.mem := by simp [State.writeSFor]

theorem State.loadInput_keeps {s : State} {va live : Dword} (hM : s.memOk) :
    Keeps ExcOk (fun r => r.2.memOk) (s.loadInput va live) := by
  unfold State.loadInput
  grind [State.input_keeps]

theorem State.scalarLoad_keeps {s : State} {l : Loc} {va : Dword} {n : Nat} {d : BitVec 8} (hM : s.memOk) :
    Keeps ExcOk State.memOk (s.scalarLoad l va n d) := by
  refine keeps_bind (State.loadInput_keeps hM) fun _ h1 => ?_
  grind [State.retire_mem, State.writeS_mem, State.trapAt_ok, State.launchOp_mem]

theorem State.scalarDone_keeps {s : State} {d : BitVec 8} {v : Dword} (hM : s.memOk) :
    Keeps ExcOk State.memOk (s.scalarDone d v) := by
  unfold State.scalarDone
  grind [State.retire_mem, State.writeS_mem, State.launchOp_mem]

@[simp] theorem State.openEntries_mem (s : State) (n : Nat) (o : Op) (k : AccKind)
    (pages : List (List (LaneReq × Nat))) : (s.openEntries n o k pages).mem = s.mem := by
  unfold State.openEntries
  grind [State.setGroup_mem, State.openFault_mem, foldl_mem]

@[simp] theorem State.onLinks_mem (s : State) (n : Nat) (o : Op) (reqs : List LaneReq) :
    (s.onLinks n o reqs).mem = s.mem := by simp [State.onLinks]

@[simp] theorem State.parkOp_mem (s : State) (o : Op) (k : AccKind) (missed : List (LaneReq × Nat)) :
    (s.parkOp o k missed).mem = s.mem := by
  unfold State.parkOp
  dsimp only
  repeat' split
  all_goals simp

theorem State.scalarMiss_keeps {s : State} {va : Dword} {align : Nat} {k : AccKind} (hM : s.memOk) :
    OptKeeps (fun r => r.2.memOk) (s.scalarMiss va align k) := by
  unfold State.scalarMiss
  grind [State.xlate_mem]

theorem State.scalarAway_keeps {s : State} {va : Dword} {align : Nat} {k : AccKind} (hM : s.memOk) :
    OptKeeps (fun r => r.2.memOk) (s.scalarAway va align k) := by
  unfold State.scalarAway
  grind [State.xlate_mem]

@[simp] theorem State.sendScalar_mem (s : State) (act : ScalarAct) (d : BitVec 8) (r : LaneReq) (l : Loc)
    (k : AccKind) : (s.sendScalar act d r l k).mem = s.mem := by simp [State.sendScalar]

@[simp] theorem State.parkScalar_mem (s : State) (act : ScalarAct) (d : BitVec 8) (r : LaneReq) (k : AccKind)
    (cause : Nat) : (s.parkScalar act d r k cause).mem = s.mem := by simp [State.parkScalar]

theorem loadAt_good {s : State} {n : Nat} {d : BitVec 8} {srcs : List (BitVec 8)} {addr : State → Dword}
    (hM : s.memOk) :
    Good (loadAt n d srcs addr s) := by
  refine finish_good <| keeps_bind (State.need_keeps hM) fun _ _ => keeps_bind (State.needPip_keeps hM) fun _ _ => ?_
  grind [bind_eq, State.scalarMiss_keeps, State.parkScalar_mem, State.scalarAway_keeps, State.sendScalar_mem,
    State.scalarAccess_keeps, State.scalarLoad_keeps]

theorem storeAt_good {s : State} {n : Nat} {d : BitVec 8} {srcs : List (BitVec 8)} {addr : State → Dword}
    (hM : s.memOk) :
    Good (storeAt n d srcs addr s) := by
  refine finish_good <| keeps_bind (State.need_keeps hM) fun _ _ => keeps_bind (State.needPip_keeps hM) fun _ _ => ?_
  grind [bind_eq, State.scalarMiss_keeps, State.parkScalar_mem, State.scalarAway_keeps, State.sendScalar_mem,
    State.scalarAccess_keeps, State.putBytes_memOk, State.scalarDone_keeps]

theorem execSld8_good {s : State} {d a i : BitVec 8} (hM : s.memOk) :
    Good (execSld8 d a i s) := loadAt_good hM

theorem execSld16_good {s : State} {d a i : BitVec 8} (hM : s.memOk) :
    Good (execSld16 d a i s) := loadAt_good hM

theorem execSld32_good {s : State} {d a i : BitVec 8} (hM : s.memOk) :
    Good (execSld32 d a i s) := loadAt_good hM

theorem execSld64_good {s : State} {d a i : BitVec 8} (hM : s.memOk) :
    Good (execSld64 d a i s) := loadAt_good hM

theorem execSst8_good {s : State} {d a i : BitVec 8} (hM : s.memOk) :
    Good (execSst8 d a i s) := storeAt_good hM

theorem execSst16_good {s : State} {d a i : BitVec 8} (hM : s.memOk) :
    Good (execSst16 d a i s) := storeAt_good hM

theorem execSst32_good {s : State} {d a i : BitVec 8} (hM : s.memOk) :
    Good (execSst32 d a i s) := storeAt_good hM

theorem execSst64_good {s : State} {d a i : BitVec 8} (hM : s.memOk) :
    Good (execSst64 d a i s) := storeAt_good hM

theorem execSldx_good {s : State} {d a b : BitVec 8} (hM : s.memOk) :
    Good (execSldx d a b s) := loadAt_good hM

theorem execSstx_good {s : State} {d a b : BitVec 8} (hM : s.memOk) :
    Good (execSstx d a b s) := storeAt_good hM

@[simp] theorem State.unretire_mem (s : State) (a : Agent) : (s.unretire a).mem = s.mem := by simp [State.unretire]

@[simp] theorem State.rewind_mem (s : State) (o : Op) : (s.rewind o).mem = s.mem := by simp [State.rewind]

theorem State.opTrap_memOk {s : State} {o : Op} {cause : Nat} {addr det2 det3 : Dword} {done : Lanes} (hM : s.memOk) :
    (s.opTrap o cause addr det2 det3 done).memOk := by
  unfold State.opTrap
  grind [State.rewind_mem, State.takeTrap_memOk]

@[simp] theorem State.landOld_mem (s : State) (o : Op) : (s.landOld o).mem = s.mem := by
  unfold State.landOld
  repeat' split
  all_goals simp

@[simp] theorem State.landKept_mem (s : State) (o : Op) : (s.landKept o).mem = s.mem := by
  unfold State.landKept
  repeat' split
  all_goals simp

theorem State.takeEnd_memOk {s : State} {n : Nat} {o : Op} {t : TrapInfo} (hM : s.memOk) :
    (s.takeEnd n o t).memOk := by
  unfold State.takeEnd
  grind [State.landKept_mem, State.postLost_memOk, State.dropOp_mem, State.rewind_mem, State.takeTrap_memOk]

theorem State.endOp_memOk {s : State} {n : Nat} {o : Op} {cause : Nat} {addr det2 det3 : Dword} {left_ : List LaneReq}
    (hM : s.memOk) :
    (s.endOp n o cause addr det2 det3 left_).memOk := by
  unfold State.endOp
  grind [State.holdOp_mem, State.unpark_mem, State.dropFaults_mem, State.takeEnd_memOk]

theorem State.land_memOk {s : State} {o : Op} (hM : s.memOk) :
    (s.land o).memOk := by
  unfold State.land
  grind [State.setGroup_mem, State.landKept_mem, State.writeSFor_mem, State.landOld_mem, State.opTrap_memOk]

theorem State.finishOp_memOk {s : State} {n : Nat} {o : Op} (hM : s.memOk) :
    (s.finishOp n o).memOk := by
  unfold State.finishOp
  grind [State.land_memOk, State.postLost_memOk, State.unpark_mem, State.takeEnd_memOk, State.dropOp_mem]

theorem State.completeOp_memOk {s : State} {n : Nat} (hM : s.memOk) :
    (s.completeOp n).memOk := by
  unfold State.completeOp
  grind [State.holdOp_mem, State.finishOp_memOk]

theorem State.takeDue_memOk {s : State} {n : Nat} {o : Op} (hM : s.memOk) :
    (s.takeDue n o).memOk := by
  unfold State.takeDue
  grind [State.unretire_mem, State.dropOp_mem, State.takeTrap_memOk]

theorem execDeferredDataIntegrityFault_good {s : State} {ag : Agent} (hM : s.memOk) :
    Good (execDeferredDataIntegrityFault ag s) := by
  unfold execDeferredDataIntegrityFault
  grind [State.takeDue_memOk]

/-! ## Launches, continuation records, join blocks and work queues -/

theorem State.cleanAt_keeps {s : State} {l : Loc} {va : Dword} {n : Nat} (hM : s.memOk) :
    Keeps ExcOk (fun _ => True) (s.cleanAt l va n) := by
  unfold State.cleanAt
  grind [State.trapAt_ok]

theorem State.scalarRead_keeps {s : State} {va : Dword} {n align : Nat} (hM : s.memOk) :
    Keeps ExcOk (fun r => r.2.2.memOk) (s.scalarRead va n align) :=
  keeps_bind (State.scalarAccess_keeps hM) fun _ h1 => keeps_bind (State.cleanAt_keeps h1) fun _ _ =>
    State.memOk_of_mem (by simp) h1

@[simp] theorem State.append_mem (s : State) (k : Nat) (e : Entry) : (s.append k e).mem = s.mem := rfl

@[simp] theorem State.pushRecord_mem (s : State) (pkg ctx rec : Nat) (know : SMap Nat) :
    (s.pushRecord pkg ctx rec know).mem = s.mem :=
  rfl

theorem execCpush_good {s : State} {d a : BitVec 8} (hM : s.memOk) :
    Good (execCpush d a s) := by
  refine finish_good <| keeps_bind (State.need_keeps hM) fun _ _ => keeps_bind (State.scalarRead_keeps hM) fun _ h1 =>
    ?_
  grind [State.pushRecord_mem, State.retire_mem, State.queueStep_keeps, State.writeS_mem]

theorem State.objectStep_keeps {s : State} {va : Dword} (hM : s.memOk) :
    Keeps ExcOk (fun r => r.2.memOk) (s.objectStep va) :=
  keeps_bind (State.scalarAccess_keeps hM) fun _ h1 => keeps_bind (State.cleanAt_keeps h1) fun _ _ =>
    State.memOk_of_mem (by simp) h1

theorem execCjoin_good {s : State} {d a : BitVec 8} (hM : s.memOk) :
    Good (execCjoin d a s) := by
  unfold execCjoin
  grind [State.post_mem, State.pushRecord_mem, State.retire_mem, State.need_keeps, State.atomicStep_keeps, finish_good,
    State.releaseSlot_mem, State.acquireSlot_mem, State.writeS_mem, State.objectStep_keeps, State.putBytes_memOk,
    bind_eq]

theorem State.needBase_keeps {s : State} {q : WorkQueue} (hM : s.memOk) :
    Keeps ExcOk (fun _ => True) (s.needBase q) := by
  unfold State.needBase
  grind [guardRes_keeps, State.trapAt_ok]

theorem State.pushStep_keeps {s : State} {va : Dword} {d : BitVec 8} {accepted : Bool} {k : State → Res} (hM : s.memOk)
    (h : Keeps ExcOk State.memOk (k s)) : Keeps ExcOk State.memOk (s.pushStep va d accepted k) := by
  unfold State.pushStep
  grind [State.stepWith_keeps]

theorem execQpush_good {s : State} {d a b : BitVec 8} (hM : s.memOk) :
    Good (execQpush d a b s) := by
  refine finish_good <| counting_keeps <| keeps_bind (State.need_keeps hM) fun _ _ =>
    keeps_bind (State.needPip_keeps hM) fun _ _ =>
    keeps_bind (State.objectStep_keeps (State.memOk_of_mem (State.releaseSlot_mem _ _) hM)) fun r hr =>
      keeps_bind (State.needBase_keeps hr) fun _ _ => ?_
  grind [bind_eq, State.pushStep_keeps, State.scalarAccess_keeps, State.putBytes_memOk, State.scalarDone_keeps]

@[simp] theorem State.popIdle_mem (s : State) : s.popIdle.mem = s.mem := by
  unfold State.popIdle
  repeat' split
  all_goals simp

theorem execQpop_good {s : State} {d a : BitVec 8} (hM : s.memOk) :
    Good (execQpop d a s) := by
  refine finish_good <| keeps_bind (State.need_keeps hM) fun _ _ => State.atomicStep_keeps hM <|
    keeps_bind (State.objectStep_keeps hM) fun r hr => keeps_bind (State.needBase_keeps hr) fun _ _ => ?_
  grind [bind_eq, State.scalarAccess_keeps, State.cleanAt_keeps, State.putBytes_memOk, State.acquireSlot_mem,
    State.popIdle_mem,
    State.writeS_mem, State.retire_mem]

@[simp] theorem State.enqueue_mem (s : State) (l : Launch) : (s.enqueue l).mem = s.mem := rfl

theorem State.readDefaults_keeps {s : State} {va : Dword} {n : Nat} (hM : s.memOk) :
    Keeps ExcOk (fun r => r.2.memOk) (s.readDefaults va n) := by
  induction n generalizing s va with
  | zero => exact hM
  | succ n ih =>
    unfold State.readDefaults
    exact keeps_bind (State.scalarRead_keeps hM) fun r hr => keeps_bind (ih hr) fun r hr => hr

theorem execLaunch_good {s : State} {d a b : BitVec 8} (hM : s.memOk) :
    Good (execLaunch d a b s) := by
  refine finish_good <| keeps_bind (State.need_keeps hM) fun _ _ => keeps_bind (State.scalarRead_keeps hM) fun r hr =>
    ?_
  grind [bind_eq, State.readDefaults_keeps, State.queueStep_keeps, State.enqueue_mem, State.writeS_mem,
    State.retire_mem]

/-! ## Appending to chains, the trigger boards and their firing test -/

theorem State.appendAt_keeps {s : State} {w : Who} {va : Dword} {k : AccKind} (hM : s.memOk) :
    Keeps (fun _ => True) (fun r => r.2.memOk) (s.appendAt w va k) := by
  unfold State.appendAt
  grind [State.xlate_mem]

theorem State.chainAt_keeps {s : State} {w : Who} {c : Dword} (hM : s.memOk) :
    Keeps (fun _ => True) (fun r => r.2.memOk) (s.chainAt w c) := by
  unfold State.chainAt
  grind [State.appendAt_keeps]

@[simp] theorem State.setChain_mem (s : State) (key : Nat) (c : Chain) : (s.setChain key c).mem = s.mem := rfl

theorem State.store8_memOk {s : State} {key : Nat} {v : Dword} {origin : BitVec 16} (hM : s.memOk) :
    (s.store8 key v origin).memOk := by
  unfold State.store8
  grind [State.putBytes_memOk]

theorem State.chainAppend_keeps {s : State} {w : Who} {c k : Dword} {app : Appended} (hM : s.memOk) :
    Keeps (fun _ => True) (fun r => r.2.memOk) (s.chainAppend w c k app) := by
  refine keeps_of_ok fun r h => ?_
  unfold State.chainAppend at h
  split at h
  · cases h
  obtain ⟨⟨l, s1⟩, h1, h⟩ := keeps_bind_ok (State.chainAt_keeps hM) h
  dsimp -zeta only at h1 h
  split at h
  · cases h
  obtain ⟨⟨m, s2⟩, h2, h⟩ := keeps_bind_ok (State.appendAt_keeps h1) h
  dsimp -zeta only at h2 h
  extract_lets org n tail ch s3 s4 jp at h
  have h4 : s4.memOk := State.store8_memOk (State.store8_memOk (State.store8_memOk h2))
  have hj : ∀ s5 : State, s5.memOk → jp s5 = .ok r → r.2.memOk := by
    intro s5 h5 h
    dsimp -zeta only [jp] at h
    extract_lets empty idle s6 s7 at h
    have h6 : s6.memOk := by
      dsimp only [s6]
      split
      · exact State.store8_memOk h5
      · exact h5
    have h7 : s7.memOk := State.store8_memOk h6
    have h8 : (if app.id = 0 then s7.fresh else (app.id, s7)).2.memOk := by
      split
      · exact h7
      · exact h7
    clear_value s7 empty
    generalize (if app.id = 0 then s7.fresh else (app.id, s7)) = q at h h8
    rw [← Except.ok.inj h]
    exact State.memOk_of_mem (State.setChain_mem ..) h8
  split at h
  · exact hj _ h4 h
  · split at h
    · rename_i t s5 ht
      have := State.appendAt_keeps (w := w) (va := tail) (k := .write) h4
      rw [ht] at this
      exact hj _ (State.store8_memOk this) h
    · cases h

@[simp] theorem State.setBoard_mem (s : State) (key : Nat) (b : Board) : (s.setBoard key b).mem = s.mem := rfl

theorem State.fireSlot_memOk {s : State} {key t : Nat} (hM : s.memOk) :
    (s.fireSlot key t).memOk := by
  unfold State.fireSlot
  grind [State.setBoard_mem, State.chainAppend_keeps]

theorem State.firingTest_memOk {s : State} {key : Nat} (hM : s.memOk) :
    (s.firingTest key).memOk := by
  unfold State.firingTest
  grind [State.fireSlot_memOk, foldl_memOk]

theorem State.setBits_memOk {s : State} {key win : Nat} {mask : Dword} {know : SMap Nat} (hM : s.memOk) :
    (s.setBits key win mask know).memOk := by
  unfold State.setBits
  grind [State.post_mem, State.wakeGroups_mem, State.setBoard_mem, State.firingTest_memOk, foldl_mem]

theorem execTbset_good {s : State} {a b : BitVec 8} (hM : s.memOk) :
    Good (execTbset a b s) := by
  unfold execTbset
  dsimp only
  repeat' split
  all_goals grind [State.retire_mem, State.need_keeps, State.setBits_memOk, finish_good, guardRes_keeps,
    State.trapAt_ok, bind_eq]

theorem execTbclr_good {s : State} {a b : BitVec 8} (hM : s.memOk) :
    Good (execTbclr a b s) :=
  finish_good <| keeps_bind (State.need_keeps hM) fun _ _ =>
    keeps_bind (guardRes_keeps (State.trapAt_ok hM)) fun _ _ => State.memOk_of_mem (by simp) hM

theorem execTbread_good {s : State} {d a : BitVec 8} (hM : s.memOk) :
    Good (execTbread d a s) := by
  refine finish_good <| keeps_bind (State.need_keeps hM) fun _ _ => ?_
  grind [State.retire_mem, guardRes_keeps, State.writeS_mem, State.trapAt_ok, State.setBoard_mem, State.illegal_ok,
    bind_eq]

theorem State.arm_keeps {s : State} {d a : BitVec 8} (hM : s.memOk) :
    Keeps ExcOk State.memOk (s.arm d a) := by
  refine keeps_bind (State.scalarRead_keeps hM) fun _ h1 => ?_
  grind [State.retire_mem, State.writeS_mem, State.trapAt_ok, State.setBoard_mem, State.firingTest_memOk]

theorem execTrig_good {s : State} {d a b : BitVec 8} (hM : s.memOk) :
    Good (execTrig d a b s) := by
  refine finish_good <| keeps_bind (State.need_keeps hM) fun _ _ => ?_
  grind [State.retire_mem, State.writeS_mem, State.arm_keeps, State.setBoard_mem, State.illegal_ok]

/-! ## Vector operands -/

@[simp] theorem State.setGrp_mem (s : State) (g : Machine.Group) : (s.setGrp g).mem = s.mem := rfl

theorem State.needReg_keeps {s : State} {r : Nat} (hM : s.memOk) :
    Keeps ExcOk (fun _ => True) (s.needReg r) := by
  unfold State.needReg
  grind [State.trapAt_ok]

theorem State.needRegs_keeps {s : State} {l : List Nat} (hM : s.memOk) :
    Keeps ExcOk (fun _ => True) (s.needRegs l) := by
  induction l with
  | nil => trivial
  | cons r rs ih =>
    unfold State.needRegs
    grind [State.needReg_keeps]

theorem State.needClean_keeps {s : State} {regs : List Nat} {lanes : Lanes} (hM : s.memOk) :
    Keeps ExcOk (fun _ => True) (s.needClean regs lanes) := by
  unfold State.needClean
  grind [State.trapAt_ok, State.setGrp_mem]

theorem State.fmtFault_ok {s : State} {reason k : Nat} {check : optParam Nat 0} (hM : s.memOk) :
    ExcOk (s.fmtFault reason k check) := hM

theorem State.useFmt_keeps {s : State} {k : Nat} {kinds : List Nat} (hM : s.memOk) :
    Keeps ExcOk (fun _ => True) (s.useFmt k kinds) := by
  unfold State.useFmt
  grind [State.fmtFault_ok]

theorem State.sf_keeps {s : State} {kinds : List Nat} (hM : s.memOk) :
    Keeps ExcOk (fun _ => True) (s.sf kinds) := State.useFmt_keeps hM

theorem State.df_keeps {s : State} {kinds : List Nat} (hM : s.memOk) :
    Keeps ExcOk (fun _ => True) (s.df kinds) := State.useFmt_keeps hM

theorem State.needWidth_keeps {s : State} {c : Bool} (hM : s.memOk) :
    Keeps ExcOk (fun _ => True) (s.needWidth c) := by
  unfold State.needWidth
  grind [guardRes_keeps, State.fmtFault_ok]

theorem State.needRound_keeps {s : State} (hM : s.memOk) :
    Keeps ExcOk (fun _ => True) s.needRound := by
  unfold State.needRound
  grind [guardRes_keeps, State.illegal_ok]

theorem State.vcheck_keeps {s : State} {srcs : List (BitVec 8 × Nat)} {d : Option (BitVec 8 × Nat)}
    {ss : List (BitVec 8)} {lanes : Lanes} (hM : s.memOk) :
    Keeps ExcOk (fun _ => True) (s.vcheck srcs d ss lanes) :=
  keeps_bind (guardRes_keeps (State.illegal_ok hM)) fun _ _ =>
    keeps_bind (guardRes_keeps (State.illegal_ok hM)) fun _ _ =>
    keeps_bind (State.needRegs_keeps hM) fun _ _ => keeps_bind (State.need_keeps hM) fun _ _ => State.needClean_keeps hM

@[simp] theorem State.notePorts_mem (s : State) (cs : List (BitVec 8)) (lanes : Lanes) :
    (s.notePorts cs lanes).mem = s.mem := by
  unfold State.notePorts
  dsimp only
  split
  · rfl
  · rfl
  · refine (State.setLaunch_mem ..).trans (foldl_mem (fun s lane => foldl_mem_of_eq (fun s n t h => ?_) s) s)
    split at h
    · rw [← h]
      exact State.readRels_mem ..
    · rw [h]

@[simp] theorem State.vwrite_mem (s : State) (d : BitVec 8) (width : Nat) (lanes : Lanes) (f : Nat → Nat)
    (push : optParam Bool true) : (s.vwrite d width lanes f push).mem = s.mem :=
  rfl

/-! ## Barrier objects and fences -/

@[simp] theorem State.barTell_mem (s : State) (key : Nat) (b : Bar) : (s.barTell key b).mem = s.mem := rfl

theorem State.barPut_memOk {s : State} {key : Nat} {b : Bar} {origin : BitVec 16} (hM : s.memOk) :
    (s.barPut key b origin).memOk := by
  unfold State.barPut
  grind [State.barTell_mem, State.putBytes_memOk]

theorem State.barCommit_memOk {s : State} {key : Nat} {b : Bar} {origin : BitVec 16} (hM : s.memOk) :
    (s.barCommit key b origin).memOk := by
  unfold State.barCommit
  grind [State.setBits_memOk, State.barPut_memOk]

theorem State.credit_memOk {s : State} {key n : Nat} {lander : Option Nat} {know : SMap Nat} {origin : BitVec 16}
    (hM : s.memOk) :
    (s.credit key n lander know origin).memOk := by
  unfold State.credit
  grind [State.post_mem, State.barPut_memOk, State.barCommit_memOk]

theorem State.barAccess_keeps {s : State} {va : Dword} (hM : s.memOk) :
    Keeps ExcOk (fun r => r.2.memOk) (s.barAccess va) := by
  unfold State.barAccess
  grind [State.cleanAt_keeps, State.trapAt_ok, State.scalarAccess_keeps, bind_eq]

theorem execBarinit_good {s : State} {d a b : BitVec 8} (hM : s.memOk) :
    Good (execBarinit d a b s) := by
  unfold execBarinit
  grind [State.barAccess_keeps, State.retire_mem, State.need_keeps, State.atomicStep_keeps, finish_good,
    State.writeS_mem, State.barPut_memOk, State.barCommit_memOk, bind_eq]

theorem execBararr_good {s : State} {d a b : BitVec 8} (hM : s.memOk) :
    Good (execBararr d a b s) :=
  finish_good <| keeps_bind (State.need_keeps hM) fun _ _ => State.atomicStep_keeps hM <|
    keeps_bind (State.barAccess_keeps hM) fun r hr =>
      by grind [State.post_mem, State.trapAt_ok, State.barCommit_memOk, State.writeS_mem, State.retire_mem]

theorem execBarwait_good {s : State} {d a b : BitVec 8} (hM : s.memOk) :
    Good (execBarwait d a b s) :=
  finish_good <| keeps_bind (State.need_keeps hM) fun _ _ => State.atomicStep_keeps hM <|
    keeps_bind (State.barAccess_keeps hM) fun r hr =>
      by grind [State.learnSlot_mem, State.trapAt_ok, State.barCommit_memOk, State.writeS_mem, State.retire_mem]

theorem execFence_good {s : State} {c : BitVec 8} (hM : s.memOk) :
    Good (execFence c s) := by
  refine finish_good <| keeps_bind (guardRes_keeps (State.illegal_ok hM)) fun _ _ =>
    keeps_bind (guardRes_keeps hM) fun _ _ => ?_
  grind [State.retire_mem, State.releaseSlot_mem, State.acquireSlot_mem, State.scFence_mem, foldl_mem]

theorem execGfence_good {s : State} (hM : s.memOk) :
    Good (execGfence s) := by
  refine finish_good <| keeps_bind (guardRes_keeps hM) fun _ _ => ?_
  grind [State.acquire_mem, State.learnSlot_mem, State.retire_mem, State.release_mem, foldl_mem]

/-! ## Rows 0x4 to 0x6 -/

@[simp] theorem State.vdone_mem (s : State) (d : BitVec 8) (width : Nat) (srcs : List (BitVec 8)) (f : Nat → Nat)
    (words : optParam Nat 1) : (s.vdone d width srcs f words).mem = s.mem := by simp [State.vdone]

theorem vecSame_keeps {s : State} {d : BitVec 8} {srcs : List (BitVec 8)} {width : Nat} {f : List Nat → Nat}
    (hM : s.memOk) :
    Keeps ExcOk State.memOk (vecSame d srcs width f s) :=
  keeps_bind (State.vcheck_keeps hM) fun _ _ => State.memOk_of_mem (by simp) hM

theorem vecInt_good {s : State} {d : BitVec 8} {srcs : List (BitVec 8)} {f : Fmt → ModeWord → List ℤ → Nat}
    (hM : s.memOk) :
    Good (vecInt d srcs f s) :=
  finish_good <| keeps_bind (State.sf_keeps hM) fun _ _ => keeps_bind (State.df_keeps hM) fun _ _ =>
    keeps_bind (State.needWidth_keeps hM) fun _ _ => vecSame_keeps hM

theorem vecInt2_good {s : State} {op : ℤ → ℤ → ℤ} {d a b : BitVec 8} (hM : s.memOk) :
    Good (vecInt2 op d a b s) := vecInt_good hM

theorem execVadd_good {s : State} {d a b : BitVec 8} (hM : s.memOk) :
    Good (execVadd d a b s) := vecInt2_good hM

theorem execVsub_good {s : State} {d a b : BitVec 8} (hM : s.memOk) :
    Good (execVsub d a b s) := vecInt2_good hM

theorem execVmul_good {s : State} {d a b : BitVec 8} (hM : s.memOk) :
    Good (execVmul d a b s) := vecInt2_good hM

theorem execVmin_good {s : State} {d a b : BitVec 8} (hM : s.memOk) :
    Good (execVmin d a b s) := vecInt2_good hM

theorem execVmax_good {s : State} {d a b : BitVec 8} (hM : s.memOk) :
    Good (execVmax d a b s) := vecInt2_good hM

theorem execVmad_good {s : State} {d a b : BitVec 8} (hM : s.memOk) :
    Good (execVmad d a b s) := vecInt_good hM

theorem execVdiv_good {s : State} {d a b : BitVec 8} (hM : s.memOk) :
    Good (execVdiv d a b s) := vecInt_good hM

theorem execVrem_good {s : State} {d a b : BitVec 8} (hM : s.memOk) :
    Good (execVrem d a b s) := vecInt2_good hM

theorem execVmulh_good {s : State} {d a b : BitVec 8} (hM : s.memOk) :
    Good (execVmulh d a b s) :=
  finish_good <| keeps_bind (State.sf_keeps hM) fun _ _ => keeps_bind (State.df_keeps hM) fun _ _ =>
    keeps_bind (State.needWidth_keeps hM) fun _ _ => vecSame_keeps hM

theorem vecBits_good {s : State} {d : BitVec 8} {srcs : List (BitVec 8)} {kinds : List Nat} {f : Fmt → List Nat → Nat}
    (hM : s.memOk) :
    Good (vecBits d srcs kinds f s) := by
  refine finish_good <| keeps_bind (State.sf_keeps hM) fun _ _ => ?_
  grind [State.sf_keeps, vecSame_keeps]

theorem execVand_good {s : State} {d a b : BitVec 8} (hM : s.memOk) :
    Good (execVand d a b s) := vecBits_good hM

theorem execVor_good {s : State} {d a b : BitVec 8} (hM : s.memOk) :
    Good (execVor d a b s) := vecBits_good hM

theorem execVxor_good {s : State} {d a b : BitVec 8} (hM : s.memOk) :
    Good (execVxor d a b s) := vecBits_good hM

theorem execVshl_good {s : State} {d a b : BitVec 8} (hM : s.memOk) :
    Good (execVshl d a b s) := vecBits_good hM

theorem execVshr_good {s : State} {d a b : BitVec 8} (hM : s.memOk) :
    Good (execVshr d a b s) := vecBits_good hM

theorem execVpopc_good {s : State} {d a : BitVec 8} (hM : s.memOk) :
    Good (execVpopc d a s) := vecBits_good hM

theorem execVclz_good {s : State} {d a : BitVec 8} (hM : s.memOk) :
    Good (execVclz d a s) := vecBits_good hM

theorem vecFloat_good {s : State} {d : BitVec 8} {srcs : List (BitVec 8)} {f : Fmt → ModeWord → List Val → Nat}
    (hM : s.memOk) :
    Good (vecFloat d srcs f s) :=
  finish_good <| keeps_bind (State.needRound_keeps hM) fun _ _ => keeps_bind (State.sf_keeps hM) fun _ _ =>
    keeps_bind (State.df_keeps hM) fun _ _ => keeps_bind (State.needWidth_keeps hM) fun _ _ => vecSame_keeps hM

theorem vecFloatN_good {s : State} {srcs : List (BitVec 8)} {op : Nat → List Val → Val} {d : BitVec 8} (hM : s.memOk) :
    Good (vecFloatN srcs op d s) := vecFloat_good hM

theorem execVfadd_good {s : State} {d a b : BitVec 8} (hM : s.memOk) :
    Good (execVfadd d a b s) := vecFloatN_good hM

theorem execVfsub_good {s : State} {d a b : BitVec 8} (hM : s.memOk) :
    Good (execVfsub d a b s) := vecFloatN_good hM

theorem execVfmul_good {s : State} {d a b : BitVec 8} (hM : s.memOk) :
    Good (execVfmul d a b s) := vecFloatN_good hM

theorem execVffma_good {s : State} {d a b : BitVec 8} (hM : s.memOk) :
    Good (execVffma d a b s) := vecFloatN_good hM

theorem execVffms_good {s : State} {d a b : BitVec 8} (hM : s.memOk) :
    Good (execVffms d a b s) := vecFloatN_good hM

theorem execVfdiv_good {s : State} {d a b : BitVec 8} (hM : s.memOk) :
    Good (execVfdiv d a b s) := vecFloatN_good hM

theorem execVfsqrt_good {s : State} {d a : BitVec 8} (hM : s.memOk) :
    Good (execVfsqrt d a s) := vecFloatN_good hM

theorem execVfmin_good {s : State} {d a b : BitVec 8} (hM : s.memOk) :
    Good (execVfmin d a b s) := vecFloatN_good hM

theorem execVfmax_good {s : State} {d a b : BitVec 8} (hM : s.memOk) :
    Good (execVfmax d a b s) := vecFloatN_good hM

theorem execVfabs_good {s : State} {d a : BitVec 8} (hM : s.memOk) :
    Good (execVfabs d a s) := vecFloatN_good hM

theorem execVfexp2_good {s : State} {d a : BitVec 8} (hM : s.memOk) :
    Good (execVfexp2 d a s) := vecFloat_good hM

theorem execVflog2_good {s : State} {d a : BitVec 8} (hM : s.memOk) :
    Good (execVflog2 d a s) := vecFloat_good hM

theorem execVfrcp_good {s : State} {d a : BitVec 8} (hM : s.memOk) :
    Good (execVfrcp d a s) := vecFloat_good hM

theorem execVfrsq_good {s : State} {d a : BitVec 8} (hM : s.memOk) :
    Good (execVfrsq d a s) := vecFloat_good hM

theorem execVfscale_good {s : State} {d a b : BitVec 8} (hM : s.memOk) :
    Good (execVfscale d a b s) :=
  finish_good <| keeps_bind (State.needRound_keeps hM) fun _ _ => keeps_bind (State.sf_keeps hM) fun _ _ =>
    keeps_bind (State.df_keeps hM) fun _ _ => keeps_bind (State.needWidth_keeps hM) fun _ _ => vecSame_keeps hM

theorem execVfdp2_good {s : State} {d a b : BitVec 8} (hM : s.memOk) :
    Good (execVfdp2 d a b s) :=
  finish_good <| keeps_bind (State.needRound_keeps hM) fun _ _ => keeps_bind (State.sf_keeps hM) fun _ _ =>
    keeps_bind (State.df_keeps hM) fun _ _ => keeps_bind (State.needWidth_keeps hM) fun _ _ =>
      keeps_bind (State.vcheck_keeps hM) fun _ _ => State.memOk_of_mem (State.vdone_mem ..) hM

theorem vecCmp_good {s : State} {rel : Option Ordering → Bool} {d a b : BitVec 8} (hM : s.memOk) :
    Good (vecCmp rel d a b s) :=
  finish_good <| keeps_bind (State.sf_keeps hM) fun _ _ => keeps_bind (State.vcheck_keeps hM) fun _ _ =>
    State.memOk_of_mem (by simp) hM

theorem execVcmpeq_good {s : State} {d a b : BitVec 8} (hM : s.memOk) :
    Good (execVcmpeq d a b s) := vecCmp_good hM

theorem execVcmpne_good {s : State} {d a b : BitVec 8} (hM : s.memOk) :
    Good (execVcmpne d a b s) := vecCmp_good hM

theorem execVcmplt_good {s : State} {d a b : BitVec 8} (hM : s.memOk) :
    Good (execVcmplt d a b s) := vecCmp_good hM

theorem execVcmple_good {s : State} {d a b : BitVec 8} (hM : s.memOk) :
    Good (execVcmple d a b s) := vecCmp_good hM

theorem execVcmpun_good {s : State} {d a b : BitVec 8} (hM : s.memOk) :
    Good (execVcmpun d a b s) := vecCmp_good hM

theorem execVsel_good {s : State} {d a b : BitVec 8} (hM : s.memOk) :
    Good (execVsel d a b s) := by
  refine finish_good <| keeps_bind (State.sf_keeps hM) fun _ _ => ?_
  grind [State.sf_keeps, vecSame_keeps]

theorem execVmov_good {s : State} {d a : BitVec 8} (hM : s.memOk) :
    Good (execVmov d a s) :=
  finish_good <| keeps_bind (State.sf_keeps hM) fun _ _ => keeps_bind (State.vcheck_keeps hM) fun _ _ =>
    State.memOk_of_mem (by simp) hM

theorem execVbcast_good {s : State} {d a b : BitVec 8} (hM : s.memOk) :
    Good (execVbcast d a b s) := by
  refine finish_good <| keeps_bind (State.sf_keeps hM) fun _ _ => keeps_bind (State.vcheck_keeps hM) fun _ _ =>
    keeps_bind (guardRes_keeps hM) fun _ _ => ?_
  exact State.memOk_of_mem (by rw [State.retire_mem, State.notePorts_mem, State.vwrite_mem]) hM

theorem execVli_good {s : State} {d : BitVec 8} {i : BitVec 16} (hM : s.memOk) :
    Good (execVli d i s) :=
  finish_good <| keeps_bind (State.df_keeps hM) fun _ _ => keeps_bind (State.vcheck_keeps hM) fun _ _ =>
    State.memOk_of_mem (by simp) hM

theorem execVlit_good {s : State} {d : BitVec 8} {x : BitVec 32} (hM : s.memOk) :
    Good (execVlit d x s) :=
  finish_good <| keeps_bind (State.df_keeps hM) fun _ _ => keeps_bind (State.vcheck_keeps hM) fun _ _ =>
    State.memOk_of_mem (by simp) hM

theorem execVget_good {s : State} {d a b : BitVec 8} (hM : s.memOk) :
    Good (execVget d a b s) :=
  finish_good <| keeps_bind (State.sf_keeps hM) fun _ _ => keeps_bind (State.vcheck_keeps hM) fun _ _ =>
    State.memOk_of_mem (by simp) hM

theorem execVput_good {s : State} {d a b : BitVec 8} (hM : s.memOk) :
    Good (execVput d a b s) :=
  finish_good <| keeps_bind (State.sf_keeps hM) fun _ _ => keeps_bind (State.vcheck_keeps hM) fun _ _ =>
    State.memOk_of_mem (by simp) hM

theorem vcvtPlain_keeps {s : State} {sf df : Fmt} {d a p : BitVec 8} (hM : s.memOk) :
    Keeps ExcOk State.memOk (vcvtPlain sf df d a p s) :=
  keeps_bind (guardRes_keeps (State.illegal_ok hM)) fun _ _ => keeps_bind (State.vcheck_keeps hM) fun _ _ =>
    State.memOk_of_mem (by simp) hM

theorem vcvtIntoBlock_keeps {s : State} {sf df : Fmt} {d a p : BitVec 8} (hM : s.memOk) :
    Keeps ExcOk State.memOk (vcvtIntoBlock sf df d a p s) :=
  keeps_bind (State.needWidth_keeps hM) fun _ _ => keeps_bind (guardRes_keeps (State.illegal_ok hM)) fun _ _ =>
    keeps_bind (State.vcheck_keeps hM) fun _ _ => State.memOk_of_mem (by simp) hM

theorem vcvtFromBlock_keeps {s : State} {sf df : Fmt} {d a p : BitVec 8} (hM : s.memOk) :
    Keeps ExcOk State.memOk (vcvtFromBlock sf df d a p s) :=
  keeps_bind (State.needWidth_keeps hM) fun _ _ => keeps_bind (guardRes_keeps (State.illegal_ok hM)) fun _ _ =>
    keeps_bind (State.vcheck_keeps hM) fun _ _ => State.memOk_of_mem (by simp) hM

theorem execVcvt_good {s : State} {d a p : BitVec 8} (hM : s.memOk) :
    Good (execVcvt d a p s) := by
  refine finish_good <| keeps_bind (State.sf_keeps hM) fun _ _ => keeps_bind (State.df_keeps hM) fun _ _ => ?_
  grind [vcvtFromBlock_keeps, vcvtIntoBlock_keeps, State.sf_keeps, vcvtPlain_keeps, State.fmtFault_ok, State.df_keeps]

theorem execVpack_good {s : State} {d a b : BitVec 8} (hM : s.memOk) :
    Good (execVpack d a b s) :=
  finish_good <| keeps_bind (State.sf_keeps hM) fun _ _ => keeps_bind (State.df_keeps hM) fun _ _ =>
    keeps_bind (State.needWidth_keeps hM) fun _ _ => keeps_bind (State.vcheck_keeps hM) fun _ _ =>
      State.memOk_of_mem (State.vdone_mem ..) hM

theorem vecUnpack_good {s : State} {upper : Bool} {d a : BitVec 8} (hM : s.memOk) :
    Good (vecUnpack upper d a s) :=
  finish_good <| keeps_bind (State.sf_keeps hM) fun _ _ => keeps_bind (State.df_keeps hM) fun _ _ =>
    keeps_bind (State.needWidth_keeps hM) fun _ _ => keeps_bind (State.vcheck_keeps hM) fun _ _ =>
      State.memOk_of_mem (State.vdone_mem ..) hM

theorem execVunpkl_good {s : State} {d a : BitVec 8} (hM : s.memOk) :
    Good (execVunpkl d a s) := vecUnpack_good hM

theorem execVunpkh_good {s : State} {d a : BitVec 8} (hM : s.memOk) :
    Good (execVunpkh d a s) := vecUnpack_good hM

/-! ## Row 0x9 -/

theorem State.reqXlate_memOk {s : State} {o : Op} {r : LaneReq} {k : AccKind} (hM : s.memOk) :
    (s.reqXlate o r k).2.memOk := by
  unfold State.reqXlate
  grind [State.xlate_mem]

theorem State.locate_keeps {s : State} {o : Op} {k : AccKind} {l : List LaneReq} (hM : s.memOk) :
    Keeps (fun _ => True) (fun r => r.2.2.memOk) (s.locate o k l) := by
  induction l generalizing s with
  | nil => exact hM
  | cons r rs ih =>
    unfold State.locate
    grind [State.reqXlate_memOk]

theorem State.performLane_keeps {s : State} {o : Op} {r : LaneReq} {l : Loc} (hM : s.memOk) :
    Keeps (fun _ => True) (fun r => r.2.memOk) (s.performLane o r l) := by
  unfold State.performLane
  grind [State.raceAccess_keeps, State.putBytes_memOk]

theorem State.performAll_keeps {s : State} {o : Op} {l : List (LaneReq × Loc)} (hM : s.memOk) :
    Keeps (fun r => r.2.2.2.memOk) (fun r => r.2.memOk) (s.performAll o l) := by
  induction l generalizing s o with
  | nil => exact hM
  | cons r rs ih =>
    unfold State.performAll
    grind [State.performLane_keeps]

theorem State.laneChecks_keeps {s : State} {o : Op} {k : AccKind} {loc : Bool} {reqs : List LaneReq} (hM : s.memOk) :
    Keeps ExcOk (fun _ => True) (s.laneChecks o k loc reqs) := by
  unfold State.laneChecks
  grind [State.trapAt_ok]

theorem State.settleOp_keeps {s : State} {o : Op} (hM : s.memOk) :
    Keeps ExcOk State.memOk (s.settleOp o) := by
  unfold State.settleOp
  grind [State.retire_mem, State.trapAt_ok, State.setGrp_mem, State.launchOp_mem]

theorem State.vecAccess_keeps {s : State} {o : Op} {k : AccKind} {loc : Bool} {reqs : List LaneReq} (hM : s.memOk) :
    Keeps ExcOk State.memOk (s.vecAccess o k loc reqs) := by
  unfold State.vecAccess
  repeat' split
  all_goals grind [State.performAll_keeps, State.locate_keeps, State.laneChecks_keeps, State.trapAt_ok,
    State.parkOp_mem, State.settleOp_keeps, bind_eq]

theorem State.memFmt_keeps {s : State} (hM : s.memOk) :
    Keeps ExcOk (fun _ => True) s.memFmt := by
  refine keeps_bind (State.sf_keeps hM) fun _ _ => keeps_bind (guardRes_keeps (State.fmtFault_ok hM)) fun _ _ => ?_
  grind

theorem State.memCheck_keeps {s : State} {as : List (BitVec 8)} {data : List Nat} {reads : Bool} {ss : List (BitVec 8)}
    (hM : s.memOk) :
    Keeps ExcOk (fun _ => True) (s.memCheck as data reads ss) :=
  keeps_bind (guardRes_keeps (State.illegal_ok hM)) fun _ _ => keeps_bind (State.needRegs_keeps hM) fun _ _ =>
    keeps_bind (State.need_keeps hM) fun _ _ => keeps_bind (State.needClean_keeps hM) fun _ _ => State.needPip_keeps hM

theorem State.issueVec_keeps {s : State} {store : Bool} {data : List Nat} {loc : Bool} {reqs : List LaneReq}
    (hM : s.memOk) :
    Keeps ExcOk State.memOk (s.issueVec store data loc reqs) := State.vecAccess_keeps hM

theorem vecElem_good {s : State} {store : Bool} {d a b : BitVec 8} (hM : s.memOk) :
    Good (vecElem store d a b s) :=
  finish_good <| keeps_bind (State.memFmt_keeps hM) fun _ _ =>
    keeps_bind (guardRes_keeps (State.illegal_ok hM)) fun _ _ => keeps_bind (State.memCheck_keeps hM) fun _ _ =>
    State.issueVec_keeps hM

theorem execVld_good {s : State} {d a b : BitVec 8} (hM : s.memOk) :
    Good (execVld d a b s) := vecElem_good hM

theorem execVst_good {s : State} {d a b : BitVec 8} (hM : s.memOk) :
    Good (execVst d a b s) := vecElem_good hM

theorem vecElem2_good {s : State} {store : Bool} {d a b : BitVec 8} (hM : s.memOk) :
    Good (vecElem2 store d a b s) :=
  finish_good <| keeps_bind (guardRes_keeps (State.illegal_ok hM)) fun _ _ =>
    keeps_bind (State.memFmt_keeps hM) fun _ _ =>
    keeps_bind (guardRes_keeps (State.illegal_ok hM)) fun _ _ => keeps_bind (State.memCheck_keeps hM) fun _ _ =>
      State.issueVec_keeps hM

theorem execVld2_good {s : State} {d a b : BitVec 8} (hM : s.memOk) :
    Good (execVld2 d a b s) := vecElem2_good hM

theorem execVst2_good {s : State} {d a b : BitVec 8} (hM : s.memOk) :
    Good (execVst2 d a b s) := vecElem2_good hM

theorem vecStride_good {s : State} {store : Bool} {d a b : BitVec 8} (hM : s.memOk) :
    Good (vecStride store d a b s) :=
  finish_good <| keeps_bind (State.memFmt_keeps hM) fun _ _ =>
    keeps_bind (guardRes_keeps (State.illegal_ok hM)) fun _ _ => keeps_bind (State.memCheck_keeps hM) fun _ _ =>
    State.issueVec_keeps hM

theorem execVlds_good {s : State} {d a b : BitVec 8} (hM : s.memOk) :
    Good (execVlds d a b s) := vecStride_good hM

theorem execVsts_good {s : State} {d a b : BitVec 8} (hM : s.memOk) :
    Good (execVsts d a b s) := vecStride_good hM

theorem vecQuad_good {s : State} {store : Bool} {d a b : BitVec 8} (hM : s.memOk) :
    Good (vecQuad store d a b s) :=
  finish_good <| keeps_bind (guardRes_keeps (State.illegal_ok hM)) fun _ _ =>
    keeps_bind (State.memCheck_keeps hM) fun _ _ => State.issueVec_keeps hM

theorem execVldq_good {s : State} {d a b : BitVec 8} (hM : s.memOk) :
    Good (execVldq d a b s) := vecQuad_good hM

theorem execVstq_good {s : State} {d a b : BitVec 8} (hM : s.memOk) :
    Good (execVstq d a b s) := vecQuad_good hM

theorem State.walkAll_memOk {s : State} {o : Op} {reqs : List LaneReq} (hM : s.memOk) :
    (s.walkAll o reqs).2.memOk := by
  induction reqs generalizing s with
  | nil => exact hM
  | cons r rs ih =>
    unfold State.walkAll
    grind [State.xlate_mem]

@[simp] theorem State.walkEntries_mem (s : State) (missed : List (LaneReq × Nat)) :
    (s.walkEntries missed).mem = s.mem := by
  unfold State.walkEntries
  grind [State.openFault_mem, foldl_mem]

theorem execVpfx_good {s : State} {n a b : BitVec 8} (hM : s.memOk) :
    Good (execVpfx n a b s) := by
  refine finish_good <| keeps_bind (guardRes_keeps (State.illegal_ok hM)) fun _ _ =>
    keeps_bind (State.memCheck_keeps hM) fun _ _ => ?_
  grind [State.retire_mem, State.walkEntries_mem, State.launchOp_mem, State.walkAll_memOk]

/-! ## Vector and scalar atomics -/

theorem State.atomicLane_memOk {s : State} {o : Op} {r : LaneReq} (hM : s.memOk) :
    (s.atomicLane o r).2.memOk := by
  unfold State.atomicLane
  grind [State.putBytes_memOk]

theorem State.atomicAll_keeps {s : State} {o : Op} {l : List LaneReq} (hM : s.memOk) :
    Keeps (fun r => r.2.2.2.memOk) (fun r => r.2.memOk) (s.atomicAll o l) := by
  induction l generalizing s o with
  | nil => exact hM
  | cons r rs ih =>
    unfold State.atomicAll
    grind [State.raceAccess_keeps, State.atomicLane_memOk]

theorem State.recordLanes_memOk {s : State} {o : Op} {l : Log} {found : List (LaneReq × Nat)} (hM : s.memOk) :
    (s.recordLanes o l found).memOk := by
  unfold State.recordLanes
  grind [State.stepCount_mem, State.logInput_memOk, foldl_memOk]

theorem State.takeRanks_keeps {s : State} {l : Log} {rs : List LaneReq} (hM : s.memOk) :
    Keeps ExcOk (fun r => r.2.memOk) (s.takeRanks l rs) := by
  unfold State.takeRanks
  grind [divergeExc_ok, State.consume_mem, foldl_mem]

theorem State.settleAtomic_keeps {s : State} {o : Op} {here : List LaneReq} (hM : s.memOk) :
    Keeps ExcOk State.memOk (s.settleAtomic o here) := by
  unfold State.settleAtomic
  grind [State.retire_mem, State.trapAt_ok, State.parkOp_mem, State.launchOp_mem, State.landOld_mem, State.onLinks_mem]

theorem atomicRace_ok {s : State} {r : LaneReq} {x : Access} {o : Op} (hM : s.memOk) :
    ExcOk (atomicRace r x o s) := by
  unfold atomicRace
  grind [State.trapAt_ok, State.landOld_mem]

theorem State.recordAtomic_keeps {s : State} {l : Log} {o : Op} {here : List LaneReq} {missed : List (LaneReq × Nat)}
    (hM : s.memOk) :
    Keeps ExcOk State.memOk (s.recordAtomic l o here missed) := by
  unfold State.recordAtomic
  grind [State.settleAtomic_keeps, atomicRace_ok, State.parkOp_mem, State.atomicAll_keeps, State.recordLanes_memOk]

theorem State.replayAtomic_keeps {s : State} {l : Log} {o : Op} {here : List LaneReq} {missed : List (LaneReq × Nat)}
    (hM : s.memOk) :
    Keeps ExcOk State.memOk (s.replayAtomic l o here missed) := by
  refine keeps_bind (State.takeRanks_keeps hM) fun _ h1 => ?_
  grind [State.retire_mem, State.setSlot_mem, State.parkOp_mem, State.launchOp_mem, State.onLinks_mem]

theorem State.issueAtomic_keeps {s : State} {o : Op} {loc : Bool} {reqs : List LaneReq} (hM : s.memOk) :
    Keeps ExcOk State.memOk (s.issueAtomic o loc reqs) := by
  unfold State.issueAtomic
  repeat' split
  all_goals grind [State.replayAtomic_keeps, State.locate_keeps, State.recordAtomic_keeps, State.settleAtomic_keeps,
    atomicRace_ok, State.laneChecks_keeps, State.trapAt_ok, State.parkOp_mem, State.atomicAll_keeps, bind_eq]

theorem vecAtomic_good {s : State} {op : AtOp} {old : Bool} {d a b : BitVec 8} (hM : s.memOk) :
    Good (vecAtomic op old d a b s) :=
  finish_good <| keeps_bind (State.memFmt_keeps hM) fun _ _ =>
    keeps_bind (guardRes_keeps (State.illegal_ok hM)) fun _ _ =>
    keeps_bind (guardRes_keeps (State.illegal_ok hM)) fun _ _ =>
      keeps_bind (guardRes_keeps (State.illegal_ok hM)) fun _ _ =>
      keeps_bind (State.memCheck_keeps hM) fun _ _ => State.issueAtomic_keeps hM

theorem execVatadd_good {s : State} {d a b : BitVec 8} (hM : s.memOk) :
    Good (execVatadd d a b s) := vecAtomic_good hM

theorem execVatmin_good {s : State} {d a b : BitVec 8} (hM : s.memOk) :
    Good (execVatmin d a b s) := vecAtomic_good hM

theorem execVatmax_good {s : State} {d a b : BitVec 8} (hM : s.memOk) :
    Good (execVatmax d a b s) := vecAtomic_good hM

theorem execVatand_good {s : State} {d a b : BitVec 8} (hM : s.memOk) :
    Good (execVatand d a b s) := vecAtomic_good hM

theorem execVator_good {s : State} {d a b : BitVec 8} (hM : s.memOk) :
    Good (execVator d a b s) := vecAtomic_good hM

theorem execVatxor_good {s : State} {d a b : BitVec 8} (hM : s.memOk) :
    Good (execVatxor d a b s) := vecAtomic_good hM

theorem execVatxchg_good {s : State} {d a b : BitVec 8} (hM : s.memOk) :
    Good (execVatxchg d a b s) := vecAtomic_good hM

theorem execVatcas_good {s : State} {d a b : BitVec 8} (hM : s.memOk) :
    Good (execVatcas d a b s) := vecAtomic_good hM

theorem execVradd_good {s : State} {d a b : BitVec 8} (hM : s.memOk) :
    Good (execVradd d a b s) := vecAtomic_good hM

theorem execVrmin_good {s : State} {d a b : BitVec 8} (hM : s.memOk) :
    Good (execVrmin d a b s) := vecAtomic_good hM

theorem execVrmax_good {s : State} {d a b : BitVec 8} (hM : s.memOk) :
    Good (execVrmax d a b s) := vecAtomic_good hM

@[simp] theorem State.rankDone_mem (s : State) (o : Op) (rs : List LaneReq) : (s.rankDone o rs).mem = s.mem := by
  unfold State.rankDone
  grind [State.stepCount_mem, foldl_mem]

@[simp] theorem State.landLanes_mem (s : State) (o : Op) (lanes : List Nat) :
    (s.landLanes o lanes).mem = s.mem := by simp [State.landLanes]

theorem State.applyRanked_memOk {s : State} {n : Nat} {o : Op} {r : LaneReq} (hM : s.memOk) :
    (s.applyRanked n o r).memOk := by
  unfold State.applyRanked
  grind [State.endOp_memOk, State.completeOp_memOk, State.atomicAll_keeps, State.rankDone_mem]

@[simp] theorem State.oldArrive_mem (s : State) (n : Nat) (o : Op) (lanes : List Nat) :
    (s.oldArrive n o lanes).mem = s.mem := by
  unfold State.oldArrive
  repeat' split
  all_goals simp

theorem execAtomicRequestComplete_good {s : State} {op : Nat} (hM : s.memOk) :
    Good (execAtomicRequestComplete op s) := by
  unfold execAtomicRequestComplete
  grind [State.oldArrive_mem, State.applyRanked_memOk, State.completeOp_memOk]

theorem State.needOwnDone_keeps {s : State} (hM : s.memOk) :
    Keeps ExcOk (fun _ => True) s.needOwnDone := guardRes_keeps hM

theorem State.performScalar_keeps {s : State} {o : Op} {d : Nat} {act : ScalarAct} {r : LaneReq} {l : Loc}
    (hM : s.memOk) :
    Keeps (fun _ => True) (fun r => r.2.memOk) (s.performScalar o d act r l) := by
  unfold State.performScalar
  grind [State.acquire_mem, State.raceAccess_keeps, State.putBytes_memOk]

theorem scalarAtomic_good {s : State} {op : AtOp} {d a b : BitVec 8} (hM : s.memOk) :
    Good (scalarAtomic op d a b s) := by
  refine finish_good <| keeps_bind (State.memFmt_keeps hM) fun _ _ =>
    keeps_bind (guardRes_keeps (State.illegal_ok hM)) fun _ _ =>
    keeps_bind (State.need_keeps hM) fun _ _ => keeps_bind (State.needPip_keeps hM) fun _ _ =>
      keeps_bind (State.needOwnDone_keeps hM) fun _ _ => ?_
  dsimp only
  split
  · grind [State.parkScalar_mem, State.scalarMiss_keeps]
  · split
    · grind [State.sendScalar_mem, State.scalarAway_keeps, State.releaseSlot_mem]
    · refine State.atomicStep_keeps hM <| keeps_bind
        (State.scalarAccess_keeps (by grind [State.releaseSlot_mem])) fun r hr => ?_
      grind [State.trapAt_ok, State.launchOp_mem, State.retire_mem, State.putBytes_memOk, State.acquireSlot_mem,
        State.scalarDone_keeps]

theorem execSatadd_good {s : State} {d a b : BitVec 8} (hM : s.memOk) :
    Good (execSatadd d a b s) := scalarAtomic_good hM

theorem execSatcas_good {s : State} {d a b : BitVec 8} (hM : s.memOk) :
    Good (execSatcas d a b s) := scalarAtomic_good hM

/-! ## Collectives -/

theorem State.performPeer_keeps {s : State} {o : Op} {r : LaneReq} {l : Loc} (hM : s.memOk) :
    Keeps (fun _ => True) (fun r => r.2.memOk) (s.performPeer o r l) := by
  unfold State.performPeer
  grind [State.raceAccess_keeps, State.putBytes_memOk]

theorem State.performPeers_keeps {s : State} {o : Op} {l : List (LaneReq × Loc)} (hM : s.memOk) :
    Keeps (fun r => r.2.2.2.memOk) (fun r => r.2.memOk) (s.performPeers o l) := by
  induction l generalizing s o with
  | nil => exact hM
  | cons r rs ih =>
    unfold State.performPeers
    grind [State.performPeer_keeps]

theorem State.issuePeers_keeps {s : State} {o : Op} {which : Nat} {reqs : List LaneReq} (hM : s.memOk) :
    Keeps ExcOk State.memOk (s.issuePeers o which reqs) := by
  unfold State.issuePeers
  grind [State.retire_mem, State.performPeers_keeps, State.locate_keeps, State.trapAt_ok, State.parkOp_mem,
    State.launchOp_mem, State.landOld_mem]

theorem collective_good {s : State} {which : Nat} {d a b : BitVec 8} (hM : s.memOk) :
    Good (collective which d a b s) :=
  finish_good <| keeps_bind (State.memFmt_keeps hM) fun _ _ =>
    keeps_bind (guardRes_keeps (State.illegal_ok hM)) fun _ _ =>
    keeps_bind (guardRes_keeps (State.illegal_ok hM)) fun _ _ =>
      keeps_bind (guardRes_keeps (State.illegal_ok hM)) fun _ _ =>
      keeps_bind (State.needRegs_keeps hM) fun _ _ => keeps_bind (State.need_keeps hM) fun _ _ =>
        keeps_bind (State.needClean_keeps hM) fun _ _ => keeps_bind (State.needPip_keeps hM) fun _ _ =>
          keeps_bind (guardRes_keeps (State.illegal_ok hM)) fun _ _ =>
            keeps_bind (guardRes_keeps (State.illegal_ok hM)) fun _ _ => State.issuePeers_keeps hM

theorem execVcput_good {s : State} {d a b : BitVec 8} (hM : s.memOk) :
    Good (execVcput d a b s) := collective_good hM

theorem execVcget_good {s : State} {d a b : BitVec 8} (hM : s.memOk) :
    Good (execVcget d a b s) := collective_good hM

theorem execVcred_good {s : State} {d a b : BitVec 8} (hM : s.memOk) :
    Good (execVcred d a b s) := collective_good hM

/-! ## Row 0x8 -/

theorem State.unitFmt_keeps {s : State} (hM : s.memOk) :
    Keeps ExcOk (fun _ => True) s.unitFmt := State.sf_keeps hM

theorem moveUnits_good {s : State} {d a : BitVec 8} {dst : Lanes} {take : Nat → Option Nat}
    {more : List (BitVec 8 × Nat)} (hM : s.memOk) :
    Good (moveUnits d a dst take more s) :=
  finish_good <| keeps_bind (State.unitFmt_keeps hM) fun _ _ => keeps_bind (State.vcheck_keeps hM) fun _ _ =>
    keeps_bind (State.needClean_keeps hM) fun _ _ => keeps_bind (State.needClean_keeps hM) fun _ _ =>
    State.memOk_of_mem (by simp) hM

theorem shiftUnits_good {s : State} {d a n : BitVec 8} {take : Nat → Nat → Option Nat} (hM : s.memOk) :
    Good (shiftUnits d a n take s) := by
  unfold shiftUnits
  grind [finish_good, moveUnits_good, State.illegal_ok]

theorem execVshfl_good {s : State} {d a b : BitVec 8} (hM : s.memOk) :
    Good (execVshfl d a b s) := moveUnits_good hM

theorem execVshup_good {s : State} {d a n : BitVec 8} (hM : s.memOk) :
    Good (execVshup d a n s) := shiftUnits_good hM

theorem execVshdn_good {s : State} {d a n : BitVec 8} (hM : s.memOk) :
    Good (execVshdn d a n s) := shiftUnits_good hM

theorem execVxorsh_good {s : State} {d a n : BitVec 8} (hM : s.memOk) :
    Good (execVxorsh d a n s) := shiftUnits_good hM

theorem execVcompact_good {s : State} {d a : BitVec 8} (hM : s.memOk) :
    Good (execVcompact d a s) := moveUnits_good hM

theorem execVexpand_good {s : State} {d a : BitVec 8} (hM : s.memOk) :
    Good (execVexpand d a s) := moveUnits_good hM

theorem execVballot_good {s : State} {d a : BitVec 8} (hM : s.memOk) :
    Good (execVballot d a s) :=
  finish_good <| keeps_bind (State.unitFmt_keeps hM) fun _ _ => keeps_bind (State.vcheck_keeps hM) fun _ _ =>
    State.memOk_of_mem (by simp) hM

theorem execVtopk_good {s : State} {d a k : BitVec 8} (hM : s.memOk) :
    Good (execVtopk d a k s) := by
  refine finish_good <| keeps_bind (guardRes_keeps (State.illegal_ok hM)) fun _ _ =>
    keeps_bind (State.sf_keeps hM) fun _ _ =>
    keeps_bind (guardRes_keeps (State.fmtFault_ok hM)) fun _ _ => keeps_bind (State.vcheck_keeps hM) fun _ _ =>
      keeps_bind (State.needReg_keeps hM) fun _ _ => keeps_bind (State.need_keeps hM) fun _ _ => ?_
  grind [State.vwrite_mem, State.retire_mem]

theorem scanUnits_keeps {s : State} {red : Bool} {d a c : BitVec 8} (hM : s.memOk) :
    Keeps ExcOk State.memOk (scanUnits red d a c s) := by
  refine keeps_bind (State.sf_keeps hM) fun _ _ => keeps_bind (guardRes_keeps (State.illegal_ok hM)) fun _ _ => ?_
  dsimp only
  split
  · refine keeps_bind (State.df_keeps hM) fun _ _ => ?_
    grind [bind_eq, State.needWidth_keeps, State.vcheck_keeps, State.vwrite_mem, State.retire_mem]
  · grind [bind_eq, State.needWidth_keeps, State.vcheck_keeps, State.vwrite_mem, State.retire_mem]

theorem maxIndex_keeps {s : State} {d a : BitVec 8} (hM : s.memOk) :
    Keeps ExcOk State.memOk (maxIndex d a s) := by
  refine keeps_bind (guardRes_keeps (State.illegal_ok hM)) fun _ _ => keeps_bind (State.sf_keeps hM) fun _ _ =>
    keeps_bind (guardRes_keeps (State.fmtFault_ok hM)) fun _ _ => keeps_bind (State.vcheck_keeps hM) fun _ _ =>
      keeps_bind (State.needReg_keeps hM) fun _ _ => keeps_bind (State.need_keeps hM) fun _ _ => ?_
  grind [State.vwrite_mem, State.retire_mem]

theorem execVscan_good {s : State} {d a c : BitVec 8} (hM : s.memOk) :
    Good (execVscan d a c s) := by
  unfold execVscan
  grind [finish_good, scanUnits_keeps, State.illegal_ok]

theorem execVred_good {s : State} {d a c : BitVec 8} (hM : s.memOk) :
    Good (execVred d a c s) := by
  unfold execVred
  grind [finish_good, maxIndex_keeps, scanUnits_keeps, State.illegal_ok]

theorem execXpld_good {s : State} {d a b : BitVec 8} (hM : s.memOk) :
    Good (execXpld d a b s) := by
  refine finish_good <| keeps_bind (State.need_keeps hM) fun _ _ => keeps_bind (State.scalarAccess_keeps hM) fun r hr =>
    keeps_bind (guardRes_keeps (State.trapAt_ok hr)) fun _ _ => ?_
  grind [State.writeS_mem, State.retire_mem]

theorem execVxpat_good {s : State} {d a t : BitVec 8} (hM : s.memOk) :
    Good (execVxpat d a t s) := by
  refine finish_good <| keeps_bind (guardRes_keeps (State.illegal_ok hM)) fun _ _ => ?_
  split
  · exact State.illegal_ok hM
  · refine keeps_bind (guardRes_keeps (State.illegal_ok hM)) fun _ _ => keeps_bind (State.needRegs_keeps hM) fun _ _ =>
      keeps_bind (State.need_keeps hM) fun _ _ => keeps_bind (State.needClean_keeps hM) fun _ _ => ?_
    exact State.memOk_of_mem (by rw [State.retire_mem, State.setGrp_mem]) hM

/-! ## Register claims -/

@[simp] theorem State.setLeft_mem (s : State) (w left_ : Nat) : (s.setLeft w left_).mem = s.mem := rfl

theorem execRclaim_good {s : State} {d n : BitVec 8} (hM : s.memOk) :
    Good (execRclaim d n s) :=
  finish_good <| keeps_bind (State.need_keeps hM) fun _ _ =>
    keeps_bind (guardRes_keeps (State.illegal_ok hM)) fun _ _ => keeps_bind (guardRes_keeps hM) fun _ _ =>
    State.memOk_of_mem (by simp) hM

theorem execRgive_good {s : State} {d n : BitVec 8} (hM : s.memOk) :
    Good (execRgive d n s) :=
  finish_good <| keeps_bind (State.need_keeps hM) fun _ _ =>
    keeps_bind (guardRes_keeps (State.illegal_ok hM)) fun _ _ => keeps_bind (State.need_keeps hM) fun _ _ =>
    State.memOk_of_mem (by simp) hM

theorem execRslice_good {s : State} (hM : s.memOk) :
    Good (execRslice s) := by
  unfold execRslice
  grind [State.setLeft_mem, State.retire_mem, finish_good, State.setGrp_mem]

theorem execRquery_good {s : State} {d : BitVec 8} (hM : s.memOk) :
    Good (execRquery d s) := finish_good <| keeps_bind (State.need_keeps hM) fun _ _ => State.memOk_of_mem (by simp) hM

theorem execClaimGrant_good {s : State} {gid k : Nat} (hM : s.memOk) :
    Good (execClaimGrant gid k s) := by
  unfold execClaimGrant
  grind [execRclaim_good]

theorem execClaimDeadlockFault_good {s : State} {w : Nat} (hM : s.memOk) :
    Good (execClaimDeadlockFault w s) := by
  unfold execClaimDeadlockFault
  grind [State.setSlot_mem, State.takeTrap_memOk]

/-! ## The distributor -/

@[simp] theorem State.setDomino_mem (s : State) (k : Nat) (d : Domino) : (s.setDomino k d).mem = s.mem := rfl

@[simp] theorem State.tagUnits_mem (s : State) (pkg die core base n : Nat) (t : UnitTag) :
    (s.tagUnits pkg die core base n t).mem = s.mem := by
  unfold State.tagUnits
  repeat' split
  all_goals simp

@[simp] theorem State.freeUnits_mem (s : State) (pkg die core base n : Nat) :
    (s.freeUnits pkg die core base n).mem = s.mem := by
  unfold State.freeUnits
  repeat' split
  all_goals simp

theorem State.zeroBars_memOk {s : State} {key : Nat} {org : BitVec 16} {n : Nat} (hM : s.memOk) :
    (s.zeroBars key org n).memOk := by
  unfold State.zeroBars
  grind [State.putBytes_memOk, foldl_memOk]

theorem State.placeWg_memOk {s : State} {pkg ctx : Nat} {n : Need} {p : Plan} {w : Workgroup} {race : Bool}
    {mk : Nat → Nat → Machine.Group} (hM : s.memOk) :
    (s.placeWg pkg ctx n p w race mk).2.memOk := by
  unfold State.placeWg
  grind [State.setWg_mem, State.setGroup_mem, State.fresh_memOk, State.tagUnits_mem, State.setDomino_mem, foldl_mem]

theorem State.placeLaunchWg_memOk {s : State} {id stream n : Nat} {p : Plan} (hM : s.memOk) :
    (s.placeLaunchWg id stream n p).2.memOk := by
  unfold State.placeLaunchWg
  grind [State.zeroBars_memOk, State.learnAll_mem, State.placeWg_memOk, foldl_mem]

theorem State.placePair_keeps {s : State} {id stream n pref : Nat} (hM : s.memOk) :
    OptKeeps State.memOk (s.placePair id stream n pref) := by
  unfold State.placePair
  extract_lets l need both cores r
  have hb : ∀ d c t, both d c = some t → t.memOk := by
    intro d c t h
    simp only [both] at h
    grind [State.setWg_mem, State.placeLaunchWg_memOk]
  split
  · cases hc : cores.findSome? fun c => both c.1 c.2 with
    | none => trivial
    | some t =>
      obtain ⟨c, -, h⟩ := List.exists_of_findSome?_eq_some hc
      exact hb _ _ _ h
  · cases hc : r[pref % max 1 r.length]? with
    | none => trivial
    | some t =>
      obtain ⟨c, -, h⟩ := List.mem_filterMap.1 (List.mem_of_getElem? hc)
      exact hb _ _ _ h

theorem State.gangFrom_memOk {s : State} {id stream first size pref have_ n : Nat} (hM : s.memOk) :
    (s.gangFrom id stream first size pref have_ n).2.memOk := by
  induction n generalizing s have_ with
  | zero => exact hM
  | succ n ih =>
    unfold State.gangFrom
    grind [State.placePair_keeps, State.placeLaunchWg_memOk]

theorem State.shadowOf_memOk {s : State} {id stream : Nat} (hM : s.memOk) :
    (s.shadowOf id stream).memOk := State.gangFrom_memOk hM

theorem State.shadow_memOk {s : State} {pkg : Nat} (hM : s.memOk) :
    (s.shadow pkg).memOk := by
  unfold State.shadow
  grind [State.shadowOf_memOk]

@[simp] theorem State.takeEntry_mem (s : State) (k : Nat) (e : Entry) : (s.takeEntry k e).mem = s.mem := rfl

@[simp] theorem State.launchPlaced_mem (s : State) (k id n : Nat) : (s.launchPlaced k id n).mem = s.mem := by
  unfold State.launchPlaced
  dsimp only
  repeat' split
  all_goals simp

theorem State.tryGang_ok {s : State} {k id pref : Nat} (hM : s.memOk) : AttemptOk (s.tryGang k id pref) := by
  unfold State.tryGang State.tryGang.go
  grind [State.setLaunch_mem, State.launchPlaced_mem, State.gangFrom_memOk]

theorem State.tryCont_ok {s : State} {k pkg ctx : Nat} {e : Entry} {code frame join : Dword} {know : SMap Nat}
    {pref : Nat}
    (hM : s.memOk) : AttemptOk (s.tryCont k pkg ctx e code frame join know pref) := by
  unfold State.tryCont
  grind [State.learnAll_mem, State.takeEntry_mem, State.placeWg_memOk, foldl_mem]

theorem State.tryFormed_ok {s : State} {k pkg ctx id : Nat} {f : Formed} {pref : Nat} (hM : s.memOk) :
    AttemptOk (s.tryFormed k pkg ctx id f pref) := by
  unfold State.tryFormed
  grind [State.takeEntry_mem, State.learnAll_mem, State.placeWg_memOk, State.putBytes_memOk, foldl_mem]

theorem State.tryEntry_ok {s : State} {k : Nat} {e : Entry} {pref : Nat} (hM : s.memOk) :
    AttemptOk (s.tryEntry k e pref) := by
  unfold State.tryEntry
  grind [State.tryGang_ok, State.placeLaunchWg_memOk, State.launchPlaced_mem, State.tryFormed_ok, State.takeEntry_mem,
    State.tryCont_ok]

theorem State.tryPersist_memOk {s : State} {pref : Nat} {l : List Nat} (hM : s.memOk) :
    (s.tryPersist pref l).2.memOk := by
  induction l generalizing s with
  | nil => exact hM
  | cons k ks ih =>
    unfold State.tryPersist
    grind [State.tryEntry_ok]

@[simp] theorem State.turnOver_mem (s : State) (k : Nat) : (s.turnOver k).mem = s.mem := rfl

@[simp] theorem State.leaveRotation_mem (s : State) (k : Nat) : (s.leaveRotation k).mem = s.mem := rfl

theorem State.rotate_memOk {s : State} {pref : Nat} {l : List Nat} (hM : s.memOk) :
    (s.rotate pref l).2.memOk := by
  induction l generalizing s with
  | nil => exact hM
  | cons k ks ih =>
    unfold State.rotate
    grind [State.tryEntry_ok, State.leaveRotation_mem, State.turnOver_mem]

@[simp] theorem State.turns64_mem (s : State) (n : Nat) (ks : List Nat) : (s.turns64 n ks).mem = s.mem := by
  unfold State.turns64
  grind [foldl_mem]

theorem State.passes_memOk {s : State} {pkg level pref n : Nat} (hM : s.memOk) :
    (s.passes pkg level pref n).2.memOk := by
  induction n generalizing s with
  | zero => exact hM
  | succ n ih =>
    unfold State.passes
    grind [State.turns64_mem, State.rotate_memOk]

theorem State.serveLevel_memOk {s : State} {pkg level pref : Nat} (hM : s.memOk) :
    (s.serveLevel pkg level pref).2.memOk := by
  unfold State.serveLevel
  grind [State.passes_memOk, State.tryPersist_memOk]

theorem State.settleGang_memOk {s : State} {pkg level pref : Nat} (hM : s.memOk) :
    (s.settleGang pkg level pref).memOk := by
  unfold State.settleGang
  grind [State.tryGang_ok, State.setLaunch_mem]

@[simp] theorem State.admitFormed_mem (s : State) (pkg : Nat) : (s.admitFormed pkg).mem = s.mem := by
  unfold State.admitFormed
  grind [State.append_mem, foldl_mem]

theorem State.placeLevel_memOk {s : State} {pkg level pref n : Nat} (hM : s.memOk) :
    (s.placeLevel pkg level pref n).memOk := by
  induction n generalizing s with
  | zero => exact hM
  | succ n ih =>
    unfold State.placeLevel
    grind [State.settleGang_memOk, State.admitFormed_mem, State.serveLevel_memOk]

@[simp] theorem State.charge_mem (s : State) (g : Machine.Group) : (s.charge g).mem = s.mem := by
  unfold State.charge
  dsimp only
  repeat' split
  all_goals simp

@[simp] theorem State.releaseWg_mem (s : State) (id : Nat) : (s.releaseWg id).mem = s.mem := by
  unfold State.releaseWg
  dsimp only
  repeat' split
  all_goals simp

@[simp] theorem State.answerWaits_mem (s : State) : s.answerWaits.mem = s.mem := by
  unfold State.answerWaits
  grind [State.setPkg_mem, State.send_mem, foldl_mem]

@[simp] theorem State.releaseGroup_mem (s : State) (gid : Nat) : (s.releaseGroup gid).mem = s.mem := by
  unfold State.releaseGroup
  dsimp only
  repeat' split
  all_goals simp

theorem execGroupRelease_good {s : State} {gid : Nat} (hM : s.memOk) :
    Good (execGroupRelease gid s) := by
  unfold execGroupRelease
  grind [State.releaseGroup_mem]

/-! ## Fetching words, entering a clause, and the fate of a word before it executes -/

theorem State.fetchWord_keeps {s : State} {va : Dword} (hM : s.memOk) :
    Keeps ExcOk (fun r => r.2.memOk) (s.fetchWord va) := by
  unfold State.fetchWord
  grind [State.parkReissue_mem, State.xlate_mem, State.trapAt_ok]

theorem State.clauseForm_ok {s : State} {w : Word} (hM : s.memOk) :
    ExcOk (s.clauseForm w) := hM

theorem State.clauseWords_keeps {s : State} {va : Dword} {n : Nat} (hM : s.memOk) :
    Keeps ExcOk (fun r => r.2.memOk) (s.clauseWords va n) := by
  induction n generalizing s va with
  | zero => exact hM
  | succ n ih =>
    unfold State.clauseWords
    exact keeps_bind (State.fetchWord_keeps hM) fun r hr => keeps_bind (ih hr) fun r hr => hr

theorem State.enterClause_keeps {s : State} (hM : s.memOk) :
    Keeps ExcOk EntryOk s.enterClause := by
  refine keeps_bind (State.fetchWord_keeps hM) fun r hr => ?_
  grind [bind_eq, State.clauseForm_ok, State.clauseWords_keeps, State.setSlot_mem]

theorem State.wordFate_keeps {s : State} {c : Clause} (hM : s.memOk) :
    Keeps ExcOk FateOk (s.wordFate c) := by
  refine keeps_bind (State.fetchWord_keeps hM) fun r hr => ?_
  grind [bind_eq, State.fetchWord_keeps, State.trapAt_ok]

theorem State.rippleHeader_keeps {s : State} {img i : Nat} (hM : s.memOk) :
    Keeps ExcOk (fun _ => True) (s.rippleHeader img i) := by
  unfold State.rippleHeader
  grind [State.clauseWords_keeps, State.fetchWord_keeps, bind_eq]

theorem State.frameOk_keeps {s : State} {img : Nat} (hM : s.memOk) :
    Keeps ExcOk (fun _ => True) (s.frameOk img) := by
  refine keeps_bind (State.rippleHeader_keeps hM) fun _ _ => keeps_bind (State.rippleHeader_keeps hM) fun _ _ => ?_
  grind

/-! ## Which agents may issue, and the address comparators -/

@[simp] theorem State.started_mem (s : State) (a : Agent) : (s.started a).mem = s.mem := by
  unfold State.started
  dsimp only
  repeat' split
  all_goals simp

theorem Exc.started_ok {a : Agent} {e : Exc} (h : ExcOk e) : ExcOk (e.started a) := by
  unfold Exc.started
  grind [State.started_mem]

theorem State.fire_memOk {s : State} {gid k cmp : Nat} {stop : Bool} (hM : s.memOk) :
    (s.fire gid k cmp stop).memOk := by
  unfold State.fire
  grind [State.stopPart_memOk, State.takeTrap_memOk]

/-! ## Error records, saving groups and relaunching them -/

theorem State.saveScalars_keeps {s : State} {gid : Nat} {r : Dword} (hM : s.memOk) :
    Keeps (fun _ => True) State.memOk (s.saveScalars gid r) := State.hwStore_keeps hM

theorem State.saveVectors_keeps {s : State} {gid : Nat} {r : Dword} (hM : s.memOk) :
    Keeps (fun _ => True) State.memOk (s.saveVectors gid r) := State.hwStore_keeps hM

theorem State.escalateSave_memOk {s : State} {gid : Nat} {frame : Dword} (hM : s.memOk) :
    (s.escalateSave gid frame).memOk := by
  unfold State.escalateSave
  grind [State.traceTrap_memOk, State.setEscalated_mem]

@[simp] theorem State.regionMoved_mem (s : State) (old new n : Nat) : (s.regionMoved old new n).mem = s.mem := rfl

@[simp] theorem State.saveRegionOf_mem (s : State) (id : Nat) (slots : Bool) :
    (s.saveRegionOf id slots).mem = s.mem := by
  unfold State.saveRegionOf
  dsimp only
  repeat' split
  all_goals simp

@[simp] theorem State.saveRegion_mem (s : State) (id : Nat) : (s.saveRegion id).mem = s.mem := by
  unfold State.saveRegion
  dsimp only
  repeat' split
  all_goals simp

@[simp] theorem State.enterSaved_mem (s : State) (gid : Nat) :
    (s.enterSaved gid).mem = s.mem := by simp [State.enterSaved]

theorem State.withRecord_keeps {s : State} {gid : Nat} (hM : s.memOk) :
    OptKeeps (fun r => r.2.memOk) (s.withRecord gid) := by
  unfold State.withRecord
  cases s.takeRecord gid with
  | none => trivial
  | some r => exact hM

theorem execWaitSave_good {s : State} {gid : Nat} (hM : s.memOk) :
    Good (execWaitSave gid s) := by
  unfold execWaitSave
  grind [State.setGroup_mem, State.enterSaved_mem, State.parkRecord_mem, State.unescalate_mem, State.saveScalars_keeps,
    State.escalateSave_memOk, State.withRecord_keeps]

@[simp] theorem State.abandon_mem (s : State) (gid : Nat) : (s.abandon gid).mem = s.mem := by
  unfold State.abandon
  grind [State.uncount_mem, State.setGroup_mem, State.unpark_mem, State.dropFaults_mem, foldl_mem]

theorem State.hardwareSaved_memOk {s : State} {gid : Nat} {r : Dword} {stood : SMap Slot} (hM : s.memOk) :
    (s.hardwareSaved gid r stood).memOk := by
  unfold State.hardwareSaved
  grind [State.setGroup_mem, State.enterSaved_mem, State.errorRecord_memOk]

theorem State.saveStores_keeps {s : State} {gid : Nat} {r : Dword} {entered : Bool} (hM : s.memOk) :
    Keeps (fun _ => True) State.memOk (s.saveStores gid r entered) := by
  unfold State.saveStores
  grind [State.xlate_mem, State.saveVectors_keeps, State.saveScalars_keeps, State.hwStore_keeps, State.putBytes_memOk,
    bind_eq]

theorem State.hardwareSave_memOk {s : State} {gid : Nat} (hM : s.memOk) :
    (s.hardwareSave gid).memOk := by
  unfold State.hardwareSave
  grind [State.parkRecord_mem, State.hardwareSaved_memOk, State.saveStores_keeps, State.abandon_mem,
    State.escalateSave_memOk, State.withRecord_keeps]

theorem execHardwareSave_good {s : State} {gid : Nat} (hM : s.memOk) :
    Good (execHardwareSave gid s) := by
  unfold execHardwareSave
  grind [State.hardwareSave_memOk]

theorem execPdone_good {s : State} (hM : s.memOk) :
    Good (execPdone s) := by
  unfold execPdone
  repeat' split
  all_goals grind [State.setGroup_mem, State.enterSaved_mem, finish_good, guardRes_keeps, State.parkRecord_mem,
    State.saveScalars_keeps, State.escalateSave_memOk, State.count_mem, State.illegal_ok, bind_eq]

theorem State.endGroup_memOk {s : State} {gid : Nat} (hM : s.memOk) :
    (s.endGroup gid).memOk := by
  unfold State.endGroup
  grind [State.setGroup_mem, State.endLanes_mem, State.closeTile_memOk]

theorem State.restoreRegion_memOk {s : State} {id core : Nat} (hM : s.memOk) :
    (s.restoreRegion id core).memOk := by
  unfold State.restoreRegion
  extract_lets w t dk
  have ht : t.memOk := State.memOk_of_mem (State.tagUnits_mem ..) hM
  split
  · refine State.memOk_of_mem (State.setWg_mem ..) ?_
    split
    · exact State.memOk_of_mem (State.regionMoved_mem ..) (Memory.wf_layBytes _ _ ht)
    · exact State.memOk_of_mem ((State.setDomino_mem ..).trans (State.regionMoved_mem ..)) (Memory.wf_layBytes _ _ ht)
  · exact hM

theorem State.restoreHome_memOk {s : State} {id core : Nat} (hM : s.memOk) :
    (s.restoreHome id core).memOk := by
  unfold State.restoreHome
  grind [State.restoreRegion_memOk]

@[simp] theorem State.carryTables_mem (s : State) (g : Machine.Group) (core : Nat) :
    (s.carryTables g core).mem = s.mem := by
  unfold State.carryTables
  repeat' split
  all_goals simp

theorem State.loadSaved_keeps {s : State} {gid : Nat} {vectors : Bool} (hM : s.memOk) :
    Keeps (fun _ => True) State.memOk (s.loadSaved gid vectors) := by
  unfold State.loadSaved
  grind [State.setGroup_mem, State.postLost_memOk, bind_eq]

theorem State.enterResume_keeps {s : State} {gid : Nat} (hM : s.memOk) :
    Keeps (fun _ => True) State.memOk (s.enterResume gid) := by
  refine keeps_bind (State.loadSaved_keeps hM) fun _ h1 => ?_
  grind [State.setGroup_mem, State.xlate_mem, State.putBytes_memOk]

theorem State.resumeSaved_keeps {s : State} {gid : Nat} (hM : s.memOk) :
    Keeps (fun _ => True) State.memOk (s.resumeSaved gid) := by
  unfold State.resumeSaved
  grind [State.frameOk_keeps, State.resumeFrame_memOk, State.examined_memOk, State.endGroup_memOk,
    State.loadSaved_keeps, State.clearResumed_memOk, bind_eq]

theorem State.relaunchGo_memOk {s : State} {gid : Nat} (hM : s.memOk) :
    (s.relaunchGo gid).memOk := by
  unfold State.relaunchGo
  grind [State.setGroup_mem, State.parkRecord_mem, State.resumeSaved_keeps, State.enterResume_keeps,
    State.escalateSave_memOk]

theorem State.relaunch_memOk {s : State} {gid core gslot : Nat} (hM : s.memOk) :
    (s.relaunch gid core gslot).memOk := by
  unfold State.relaunch
  grind [State.setGroup_mem, State.carryTables_mem, State.relaunchGo_memOk, State.restoreHome_memOk]

theorem execSavedGroupRelaunch_good {s : State} {gid pref : Nat} (hM : s.memOk) :
    Good (execSavedGroupRelaunch gid pref s) := by
  unfold execSavedGroupRelaunch
  grind [State.relaunchGo_memOk, State.relaunch_memOk]

theorem State.relaunchLevel_memOk {s : State} {pkg level pref : Nat} (hM : s.memOk) :
    (s.relaunchLevel pkg level pref).memOk := by
  unfold State.relaunchLevel
  grind [State.setGroup_mem, State.relaunch_memOk, foldl_memOk]

theorem State.examineLevel_memOk {s : State} {pkg level pref : Nat} (hM : s.memOk) :
    (s.examineLevel pkg level pref).memOk := by
  unfold State.examineLevel
  grind [State.placeLevel_memOk, State.relaunchLevel_memOk]

theorem execDistributorExamination_good {s : State} {pkg pref : Nat} (hM : s.memOk) :
    Good (execDistributorExamination pkg pref s) := by
  unfold execDistributorExamination
  grind [State.examineLevel_memOk]

theorem execRegisterFileError_good {s : State} {gid reg lane : Nat} (hM : s.memOk) :
    Good (execRegisterFileError gid reg lane s) := by
  unfold execRegisterFileError
  grind [State.setGroup_mem]

theorem execEccError_good {s : State} {key : Nat} {corrected : Bool} (hM : s.memOk) :
    Good (execEccError key corrected s) := by
  unfold execEccError
  grind [State.errorRecord_memOk]

/-! ## Tensors -/

@[simp] theorem State.setTensor_mem (s : State) (k : Nat) (t : Tensor) : (s.setTensor k t).mem = s.mem := rfl

theorem State.handle_keeps {s : State} {h : Dword} (hM : s.memOk) :
    Keeps ExcOk (fun _ => True) (s.handle h) := by
  unfold State.handle
  grind [State.trapAt_ok]

theorem State.readDwords_keeps {s : State} {va : Dword} {n : Nat} (hM : s.memOk) :
    Keeps ExcOk (fun r => r.2.memOk) (s.readDwords va n) := by
  induction n generalizing s va with
  | zero => exact hM
  | succ n ih =>
    unfold State.readDwords
    exact keeps_bind (State.scalarRead_keeps hM) fun r hr => keeps_bind (ih hr) fun r hr => hr

theorem execTdesc_good {s : State} {d a : BitVec 8} (hM : s.memOk) :
    Good (execTdesc d a s) := by
  refine finish_good <| keeps_bind (State.need_keeps hM) fun _ _ =>
    keeps_bind (guardRes_keeps (State.trapAt_ok hM)) fun _ _ =>
    keeps_bind (State.readDwords_keeps hM) fun r hr => keeps_bind (State.readDwords_keeps hr) fun r hr =>
      keeps_bind (guardRes_keeps (State.fmtFault_ok hM)) fun _ _ => ?_
  grind [State.setTensor_mem, State.writeS_mem, State.retire_mem]

theorem execTquery_good {s : State} {d a b : BitVec 8} (hM : s.memOk) :
    Good (execTquery d a b s) := by
  refine finish_good <| keeps_bind (State.need_keeps hM) fun _ _ => keeps_bind (State.handle_keeps hM) fun _ _ => ?_
  grind [State.retire_mem, State.writeS_mem, State.illegal_ok]

theorem execTfree_good {s : State} {d a : BitVec 8} (hM : s.memOk) :
    Good (execTfree d a s) := by
  refine finish_good <| keeps_bind (State.need_keeps hM) fun _ _ => ?_
  grind [State.retire_mem, guardRes_keeps, State.writeS_mem, State.setTensor_mem, bind_eq]

theorem handleAccess_good {s : State} {store : Bool} {d a b : BitVec 8} (hM : s.memOk) :
    Good (handleAccess store d a b s) := by
  refine finish_good <| keeps_bind (guardRes_keeps (State.illegal_ok hM)) fun _ _ =>
    keeps_bind (State.need_keeps hM) fun _ _ =>
    keeps_bind (State.handle_keeps hM) fun r hr => keeps_bind (guardRes_keeps (State.fmtFault_ok hM)) fun _ _ =>
      keeps_bind (guardRes_keeps (State.illegal_ok hM)) fun _ _ => keeps_bind (State.memCheck_keeps hM) fun _ _ =>
        keeps_bind (State.needRegs_keeps hM) fun _ _ => keeps_bind (State.need_keeps hM) fun _ _ =>
          keeps_bind (State.needClean_keeps hM) fun _ _ => keeps_bind (guardRes_keeps hM) fun _ _ => ?_
  dsimp only
  split
  · grind [State.trapAt_ok]
  · exact keeps_bind (State.vecAccess_keeps (State.memOk_of_mem (State.learnAll_mem ..) hM)) fun t ht =>
      State.memOk_of_mem (State.post_mem ..) ht

theorem execVldt_good {s : State} {d a b : BitVec 8} (hM : s.memOk) :
    Good (execVldt d a b s) := handleAccess_good hM

theorem execVstt_good {s : State} {d a b : BitVec 8} (hM : s.memOk) :
    Good (execVstt d a b s) := handleAccess_good hM

/-! ## The relay engines -/

@[simp] theorem State.setCmd_mem (s : State) (id : Nat) (c : Cmd) : (s.setCmd id c).mem = s.mem := rfl

@[simp] theorem State.tileStamp_mem (s : State) (n stage : Nat) (last : Bool) :
    (s.tileStamp n stage last).mem = s.mem := by
  unfold State.tileStamp
  repeat' split
  all_goals simp

@[simp] theorem State.tileStart_mem (s : State) (x : Option (Nat × Bool)) (since : Nat) :
    (s.tileStart x since).mem = s.mem := by
  unfold State.tileStart
  repeat' split
  all_goals simp

@[simp] theorem State.tileMoves_mem (s : State) (x : Option (Nat × Bool)) : (s.tileMoves x).mem = s.mem := by
  unfold State.tileMoves
  repeat' split
  all_goals simp

@[simp] theorem State.tileEnd_mem (s : State) (id : Nat) : (s.tileEnd id).mem = s.mem := by
  unfold State.tileEnd
  dsimp only
  repeat' split
  all_goals simp

@[simp] theorem State.tileWork_mem (s : State) (id : Nat) : (s.tileWork id).mem = s.mem := by
  unfold State.tileWork
  repeat' split
  all_goals simp

@[simp] theorem State.engineFault_mem (s : State) (id : Nat) (va : Dword) (k : AccKind) (cause : Nat) :
    (s.engineFault id va k cause).mem = s.mem := by
  unfold State.engineFault
  repeat' split
  all_goals simp

theorem State.engineReadOne_keeps {s : State} {id : Nat} {va : Dword} {n : Nat} (hM : s.memOk) :
    Keeps XErrOk (fun r => r.2.2.memOk) (s.engineReadOne id va n) := by
  unfold State.engineReadOne
  grind [State.xlate_mem, State.raceAccess_keeps, State.engineFault_mem]

theorem State.engineRead_keeps {s : State} {id : Nat} {va : Dword} {n : Nat} (hM : s.memOk) :
    Keeps XErrOk (fun r => r.2.2.memOk) (s.engineRead id va n) :=
  keeps_foldlM (P := fun r : Nat × Option (BitVec 16) × State => r.2.2.memOk)
    (fun _ _ ha => keeps_bind (State.engineReadOne_keeps ha) fun _ hr => hr) hM

theorem State.landWrite_memOk {s : State} {c : Cmd} {l : Loc} {w : Spill} (hM : s.memOk) :
    (s.landWrite c l w).memOk := by
  unfold State.landWrite
  grind [State.putBytes_memOk]

theorem State.engineWriteOne_keeps {s : State} {id : Nat} {w : Spill} (hM : s.memOk) :
    Keeps XErrOk State.memOk (s.engineWriteOne id w) := by
  unfold State.engineWriteOne
  grind [State.setCmd_mem, State.landWrite_memOk, State.xlate_mem, State.raceAccess_keeps, State.engineFault_mem]

theorem State.engineWrite_keeps {s : State} {id : Nat} {w : Spill} (hM : s.memOk) :
    Keeps XErrOk State.memOk (s.engineWrite id w) := keeps_foldlM (fun _ _ h => State.engineWriteOne_keeps h) hM

theorem State.unspill_keeps {s : State} {id : Nat} {l : List Spill} (hM : s.memOk) :
    Keeps XErrOk State.memOk (s.unspill id l) := by
  induction l generalizing s with
  | nil => exact hM
  | cons w ws ih =>
    unfold State.unspill
    grind [State.setCmd_mem, State.engineWriteOne_keeps]

theorem State.writeBack_keeps {s : State} {id page : Nat} (hM : s.memOk) :
    Keeps XErrOk State.memOk (s.writeBack id page) := State.unspill_keeps hM

theorem State.moveGranule_keeps {s : State} {id : Nat} (hM : s.memOk) :
    Keeps XErrOk State.memOk (s.moveGranule id) := by
  unfold State.moveGranule
  grind [State.setCmd_mem, State.engineWrite_keeps, State.tileMoves_mem, State.engineRead_keeps, bind_eq]

theorem State.moveRest_keeps {s : State} {id n : Nat} (hM : s.memOk) :
    Keeps XErrOk State.memOk (s.moveRest id n) := by
  induction n generalizing s with
  | zero => exact hM
  | succ n ih =>
    unfold State.moveRest
    exact keeps_bind (State.moveGranule_keeps hM) fun _ h => ih h

@[simp] theorem State.abandonRelay_mem (s : State) (id : Nat) : (s.abandonRelay id).mem = s.mem := by
  unfold State.abandonRelay
  repeat' split
  all_goals simp

theorem State.engineStore_keeps {s : State} {w : Who} {l : Loc} {v : Dword} {origin : BitVec 16} (hM : s.memOk) :
    Keeps (fun _ => True) State.memOk (s.engineStore w l v origin) := by
  unfold State.engineStore
  grind [State.raceAccess_keeps, State.store8_memOk]

theorem State.finishCommand_memOk {s : State} {id : Nat} (hM : s.memOk) :
    (s.finishCommand id).memOk := by
  unfold State.finishCommand
  grind [State.setCmd_mem, State.store8_memOk, State.completeOp_memOk, State.setChain_mem, State.traceEngine_memOk]

theorem State.endPost_memOk {s : State} {n : Nat} (hM : s.memOk) :
    (s.endPost n).memOk := by
  unfold State.endPost
  grind [State.finishCommand_memOk]

theorem State.writeStatus_keeps {s : State} {id : Nat} (hM : s.memOk) :
    Keeps (fun _ => True) State.memOk (s.writeStatus id) := by
  unfold State.writeStatus
  grind [State.xlate_mem, State.raceAccess_keeps, State.putBytes_memOk]

theorem State.markHalted_memOk {s : State} {id status : Nat} {det2 det3 : Dword} (hM : s.memOk) :
    (s.markHalted id status det2 det3).memOk := by
  unfold State.markHalted
  grind [State.setCmd_mem, State.writeStatus_keeps, State.tileEnd_mem, State.dropFaults_mem, State.store8_memOk,
    State.setChain_mem]

theorem State.postRaces_memOk {s : State} {n id : Nat} {x : Access} (hM : s.memOk) :
    (s.postRaces n id x).memOk := by
  unfold State.postRaces
  grind [State.endPost_memOk, State.markHalted_memOk]

theorem State.tryPost_memOk {s : State} {n : Nat} (hM : s.memOk) :
    (s.tryPost n).memOk := by
  unfold State.tryPost
  repeat' split
  all_goals grind [State.post_mem, State.endPost_memOk, State.xlate_mem, State.raceAccess_keeps, State.wakeCore_mem,
    State.traceEngine_memOk, State.postRaces_memOk, State.engineFault_mem, State.putBytes_memOk,
    State.engineStore_keeps, State.release_mem, bind_eq]

theorem State.postTo_memOk {s : State} {id : Nat} {queue : Dword} (hM : s.memOk) :
    (s.postTo id queue).memOk := by
  unfold State.postTo
  grind [State.setCmd_mem, State.fresh_memOk, State.tryPost_memOk]

theorem State.haltCommand_memOk {s : State} {id status : Nat} {det2 det3 : Dword} (hM : s.memOk) :
    (s.haltCommand id status det2 det3).memOk := by
  unfold State.haltCommand
  grind [State.finishCommand_memOk, State.markHalted_memOk, State.postTo_memOk]

theorem State.effectCompl_keeps {s : State} {id : Nat} (hM : s.memOk) :
    Keeps (fun _ => True) State.memOk (s.effectCompl id) := by
  unfold State.effectCompl
  grind [State.setChain_mem, State.engineStore_keeps, State.release_mem]

theorem State.effectCredit_keeps {s : State} {id landed : Nat} (hM : s.memOk) :
    Keeps (fun _ => True) State.memOk (s.effectCredit id landed) := by
  unfold State.effectCredit
  grind [State.credit_memOk, State.xlate_mem, State.raceAccess_keeps]

theorem State.effectBit_memOk {s : State} {id : Nat} (hM : s.memOk) :
    (s.effectBit id).memOk := by
  unfold State.effectBit
  grind [State.setBits_memOk]

theorem State.completionEffects_memOk {s : State} {id landed : Nat} (hM : s.memOk) :
    (s.completionEffects id landed).memOk := by
  unfold State.completionEffects
  grind [State.effectBit_memOk, State.setCmd_mem, State.effectCredit_keeps, State.writeStatus_keeps,
    State.haltCommand_memOk, State.finishCommand_memOk, State.effectCompl_keeps, State.tileEnd_mem,
    State.diverge_memOk, State.completed_memOk, State.postTo_memOk, bind_eq]

theorem State.appendExc_ok {s : State} {e : AppendErr} (hM : s.memOk) :
    ExcOk (s.appendExc e) := by
  unfold State.appendExc
  grind [State.parkReissue_mem, State.trapAt_ok, State.illegal_ok]

@[simp] theorem State.dropFill_mem (s : State) (id : Nat) : (s.dropFill id).mem = s.mem := by
  unfold State.dropFill
  dsimp only
  repeat' split
  all_goals simp

@[simp] theorem State.classB_mem (s : State) (n : Nat) (pip : Option Nat) : (s.classB n pip).mem = s.mem := by
  unfold State.classB
  repeat' split
  all_goals simp

theorem State.resumeChain_memOk {s : State} {l : Loc} {skip : Bool} (hM : s.memOk) :
    (s.resumeChain l skip).2.memOk := by
  unfold State.resumeChain
  grind [State.abandonRelay_mem, State.dropFill_mem, State.store8_memOk, State.setChain_mem]

theorem State.appendEvent_keeps {s : State} {va : Dword} {l : Loc} {off acc : Nat} {atomic : Bool} (hM : s.memOk) :
    Keeps ExcOk State.memOk (s.appendEvent va l off acc atomic) := by
  unfold State.appendEvent
  grind [State.raceAccess_keeps, State.trapAt_ok]

theorem State.appendEvents_keeps {s : State} {c k : Dword} (hM : s.memOk) :
    Keeps ExcOk State.memOk (s.appendEvents c k) := by
  unfold State.appendEvents
  split
  · exact hM
  · split
    · exact hM
    · split
      · exact keeps_bind (State.appendEvent_keeps hM) fun _ h => keeps_bind (State.appendEvent_keeps h) fun _ h =>
          State.appendEvent_keeps h
      · split
        · exact hM
        · split
          · exact hM
          · exact keeps_bind (State.appendEvent_keeps hM) fun _ h => keeps_bind (State.appendEvent_keeps h) fun _ h =>
              keeps_bind (State.appendEvent_keeps h) fun _ h => keeps_bind (State.appendEvent_keeps h) fun _ h =>
                keeps_bind (State.appendEvent_keeps h) fun _ h => State.appendEvent_keeps h

theorem execEappend_good {s : State} {d a b : BitVec 8} (hM : s.memOk) :
    Good (execEappend d a b s) := by
  refine finish_good <| counting_keeps <| keeps_bind (State.need_keeps hM) fun _ _ =>
    keeps_bind (State.needPip_keeps hM) fun _ _ =>
    keeps_bind (State.appendEvents_keeps hM) fun s hs => ?_
  dsimp only
  split
  · refine keeps_bind (guardRes_keeps (State.trapAt_ok hs)) fun _ _ => ?_
    grind [State.chainAppend_keeps, State.fresh_memOk, State.appendExc_ok, State.ticketStep_keeps, State.tileWork_mem,
      State.pipUp_mem, State.classB_mem, State.writeS_mem, State.retire_mem]
  · grind [State.chainAt_keeps, State.appendExc_ok, State.resumeChain_memOk, State.writeS_mem, State.retire_mem]

theorem State.slotObject_keeps {s : State} {va : Dword} {k : AccKind} (hM : s.memOk) :
    Keeps ExcOk (fun r => r.2.memOk) (s.slotObject va k) :=
  keeps_bind (guardRes_keeps (State.trapAt_ok hM)) fun _ _ =>
    keeps_bind (guardRes_keeps (State.trapAt_ok hM)) fun _ _ =>
    keeps_bind (State.scalarAccess_keeps hM) fun _ h => keeps_bind (State.cleanAt_keeps h) fun _ _ => h

theorem State.objectWord_keeps {s : State} {va off : Dword} (hM : s.memOk) :
    Keeps ExcOk (fun r => r.2.memOk) (s.objectWord va off) :=
  keeps_bind (guardRes_keeps (State.trapAt_ok hM)) fun _ _ =>
    keeps_bind (guardRes_keeps (State.trapAt_ok hM)) fun _ _ =>
    keeps_bind (State.scalarAccess_keeps hM) fun _ h => keeps_bind (State.cleanAt_keeps h) fun _ _ => h

theorem execEseq_good {s : State} {d a : BitVec 8} (hM : s.memOk) :
    Good (execEseq d a s) :=
  finish_good <| keeps_bind (State.need_keeps hM) fun _ _ => keeps_bind (State.objectWord_keeps hM) fun _ h1 =>
    State.memOk_of_mem (by simp) h1

theorem execEvpoll_good {s : State} {d a : BitVec 8} (hM : s.memOk) :
    Good (execEvpoll d a s) :=
  finish_good <| keeps_bind (State.need_keeps hM) fun _ _ => keeps_bind (State.objectWord_keeps hM) fun _ h1 =>
    State.memOk_of_mem (by simp) h1

theorem execEvack_good {s : State} {d a b : BitVec 8} (hM : s.memOk) :
    Good (execEvack d a b s) := by
  refine finish_good <| keeps_bind (State.need_keeps hM) fun _ _ => ?_
  grind [State.retire_mem, State.releaseSlot_mem, State.writeS_mem, State.store8_memOk, State.slotObject_keeps, bind_eq]

/-! ## Relays -/

@[simp] theorem State.appendHidden_mem (s : State) (id chain : Nat) (c : Cmd) :
    (s.appendHidden id chain c).mem = s.mem :=
  rfl

theorem State.hiddenStep_keeps {s : State} {chain : Nat} {k : Res} (hM : s.memOk)
    (h : Keeps ExcOk State.memOk k) : Keeps ExcOk State.memOk (s.hiddenStep chain k) := by
  unfold State.hiddenStep
  grind [State.ticketStep_keeps]

theorem State.relayRequest_keeps {s : State} {t : Tensor} {va : Dword} (hM : s.memOk) :
    Keeps ExcOk (fun r => r.2.2.memOk) (s.relayRequest t va) := by
  refine keeps_bind (guardRes_keeps (State.trapAt_ok hM)) fun _ _ => keeps_bind (State.scalarRead_keeps hM) fun r hr =>
    ?_
  grind [bind_eq, guardRes_keeps, State.trapAt_ok, State.readDwords_keeps]

theorem execRelay_good {s : State} {d a b : BitVec 8} (hM : s.memOk) :
    Good (execRelay d a b s) := by
  refine finish_good <| counting_keeps <| keeps_bind (State.need_keeps hM) fun _ _ =>
    keeps_bind (State.needPip_keeps hM) fun _ _ =>
    keeps_bind (State.handle_keeps hM) fun r hr => keeps_bind (State.relayRequest_keeps hM) fun r hr => ?_
  grind [State.fresh_memOk, State.hiddenStep_keeps, State.appendHidden_mem, State.setTensor_mem, State.tileWork_mem,
    State.pipUp_mem, State.classB_mem, State.writeS_mem, State.retire_mem]

theorem execRelayFactoringDone_good {s : State} {id : Nat} (hM : s.memOk) :
    Good (execRelayFactoringDone id s) := by
  unfold execRelayFactoringDone
  grind [State.setCmd_mem]

theorem State.walkPages_keeps {s : State} {id : Nat} {k : AccKind} {l : List (Dword × Nat)} (hM : s.memOk) :
    Keeps XErrOk State.memOk (s.walkPages id k l) := by
  refine keeps_foldlM (fun s va h => ?_) hM
  grind [State.xlate_mem, State.engineFault_mem]

theorem execRelayPassStart_good {s : State} {id : Nat} (hM : s.memOk) :
    Good (execRelayPassStart id s) := by
  unfold execRelayPassStart
  repeat' split
  all_goals grind [State.setCmd_mem, State.haltCommand_memOk, State.learnAll_mem, State.setTensor_mem,
    State.tileMoves_mem, State.walkPages_keeps, bind_eq]

theorem State.readAll_keeps {s : State} {id : Nat} {l : List (Dword × Nat)} (hM : s.memOk) :
    Keeps XErrOk (fun r => r.2.memOk) (s.readAll id l) :=
  keeps_foldlM (P := fun r : ReadMap × State => r.2.memOk)
    (fun _ _ ha => keeps_bind (State.engineRead_keeps ha) fun _ hr => hr) hM

theorem State.writeAll_keeps {s : State} {id : Nat} {l : List Spill} (hM : s.memOk) :
    Keeps (fun e => XErrOk e.1) State.memOk (s.writeAll id l) := by
  induction l generalizing s with
  | nil => exact hM
  | cons w ws ih =>
    unfold State.writeAll
    grind [State.engineWrite_keeps]

@[simp] theorem State.poisonDests_mem (s : State) (id : Nat) (l : List (Dword × Nat)) :
    (s.poisonDests id l).mem = s.mem := by
  unfold State.poisonDests
  grind [State.xlate_mem, foldl_mem]

@[simp] theorem State.passDone_mem (s : State) (id : Nat) (r : RelayRun) (p : Pass) :
    (s.passDone id r p).mem = s.mem := by simp [State.passDone]

theorem State.passBreaks_memOk {s : State} {id : Nat} {r : RelayRun} {p : Pass} {rest : List (Dword × Nat)} {st : Nat}
    {d2 d3 : Dword} (hM : s.memOk) :
    (s.passBreaks id r p rest st d2 d3).memOk := by
  unfold State.passBreaks
  grind [State.poisonDests_mem, State.passDone_mem, State.haltCommand_memOk]

theorem State.stopCommand_memOk {s : State} {id st : Nat} {d2 d3 : Dword} (hM : s.memOk) :
    (s.stopCommand id st d2 d3).memOk := by
  unfold State.stopCommand
  grind [State.setCmd_mem, State.haltCommand_memOk, State.passBreaks_memOk]

@[simp] theorem State.passWaits_mem (s s1 : State) (id : Nat) : (s.passWaits s1 id).mem = s.mem := rfl

theorem State.runPass_memOk {s : State} {id : Nat} {r : RelayRun} {p : Pass} (hM : s.memOk) :
    (s.runPass id r p).memOk := by
  unfold State.runPass
  grind [State.setCmd_mem, State.readAll_keeps, State.passDone_mem, State.passBreaks_memOk, State.writeAll_keeps,
    State.passWaits_mem]

theorem execRelayPassComplete_good {s : State} {id : Nat} (hM : s.memOk) :
    Good (execRelayPassComplete id s) := by
  unfold execRelayPassComplete
  grind [State.passDone_mem, State.runPass_memOk]

/-! ## The domino matrix engine -/

theorem State.unclaimedSlot_ok {s : State} {h : Nat} (hM : s.memOk) :
    ExcOk (s.unclaimedSlot h) := hM

theorem State.liveSlot_keeps {s : State} {h : Dword} (hM : s.memOk) :
    Keeps ExcOk (fun _ => True) (s.liveSlot h) := by
  refine keeps_bind (guardRes_keeps (State.illegal_ok hM)) fun _ _ => ?_
  grind [guardRes_keeps, State.unclaimedSlot_ok, bind_eq]

theorem State.claimedSlot_keeps {s : State} {n shown : Nat} (hM : s.memOk) :
    Keeps ExcOk (fun _ => True) (s.claimedSlot n shown) := by
  unfold State.claimedSlot
  grind [State.unclaimedSlot_ok]

theorem State.liveAcc_keeps {s : State} {n : Nat} (hM : s.memOk) :
    Keeps ExcOk (fun _ => True) (s.liveAcc n) := by
  unfold State.liveAcc
  grind [State.trapAt_ok]

theorem execOclaim_good {s : State} {d a : BitVec 8} (hM : s.memOk) :
    Good (execOclaim d a s) := by
  refine finish_good <| keeps_bind (State.need_keeps hM) fun _ _ => ?_
  grind [State.retire_mem, State.writeS_mem, State.setDomino_mem]

@[simp] theorem State.freeSlot_mem (s : State) (dk n : Nat) : (s.freeSlot dk n).mem = s.mem := by
  unfold State.freeSlot
  dsimp only
  repeat' split
  all_goals simp

theorem execSlotReleaseComplete_good {s : State} {dk n : Nat} (hM : s.memOk) :
    Good (execSlotReleaseComplete dk n s) := by
  unfold execSlotReleaseComplete
  grind [State.freeSlot_mem]

theorem execOrel_good {s : State} {a : BitVec 8} (hM : s.memOk) :
    Good (execOrel a s) := by
  refine finish_good <| keeps_bind (State.need_keeps hM) fun _ _ => keeps_bind (State.liveSlot_keeps hM) fun _ _ => ?_
  grind [State.retire_mem, State.fresh_memOk, State.setDomino_mem, State.freeSlot_mem, State.classB_mem]

theorem execOrec_good {s : State} {d a b : BitVec 8} (hM : s.memOk) :
    Good (execOrec d a b s) := by
  refine finish_good <| keeps_bind (State.need_keeps hM) fun _ _ => keeps_bind (State.liveSlot_keeps hM) fun _ _ => ?_
  grind [State.retire_mem, State.writeS_mem, State.illegal_ok]

theorem State.recEntry_keeps {s : State} {r : Dword} (hM : s.memOk) :
    Keeps ExcOk (fun _ => True) (s.recEntry r) := by
  unfold State.recEntry
  grind [State.fmtFault_ok]

theorem State.needStamp_keeps {s : State} {x : OSlot} {operand slot : Nat} (hM : s.memOk) :
    Keeps ExcOk (fun _ => True) (s.needStamp x operand slot) := by
  unfold State.needStamp
  grind [guardRes_keeps, State.trapAt_ok]

theorem State.extraSlot_keeps {s : State} {sparse : Bool} {n shown : Nat} (hM : s.memOk) :
    Keeps ExcOk (fun _ => True) (s.extraSlot sparse n shown) := by
  unfold State.extraSlot
  split
  · exact keeps_map (State.claimedSlot_keeps hM) fun _ _ => trivial
  · trivial

theorem matrixOp_good {s : State} {which : Nat} {d a b : BitVec 8} (hM : s.memOk) :
    Good (matrixOp which d a b s) := by
  refine finish_good <| keeps_bind (State.need_keeps hM) fun _ _ =>
    keeps_bind (guardRes_keeps (State.trapAt_ok hM)) fun _ _ =>
    keeps_bind (guardRes_keeps (State.illegal_ok hM)) fun _ _ =>
      keeps_bind (guardRes_keeps (State.illegal_ok hM)) fun _ _ =>
      keeps_bind (State.liveAcc_keeps hM) fun acc _ => keeps_bind (State.liveSlot_keeps hM) fun xa _ =>
        keeps_bind (State.liveSlot_keeps hM) fun xb _ => keeps_bind (guardRes_keeps (State.illegal_ok hM)) fun _ _ =>
          keeps_bind (State.extraSlot_keeps hM) fun xb2 _ => keeps_bind (State.extraSlot_keeps hM) fun xm _ =>
            keeps_bind (guardRes_keeps (State.illegal_ok hM)) fun _ _ =>
              keeps_bind (State.recEntry_keeps hM) fun ea _ =>
              keeps_bind (State.recEntry_keeps hM) fun eb _ => ?_
  extract_lets reason lg dk waits dom f jp
  have hj : ∀ eb2, Keeps ExcOk State.memOk (jp eb2) := by
    intro eb2
    dsimp -zeta only [jp]
    split
    · exact keeps_error (State.fmtFault_ok hM)
    · refine keeps_bind (guardRes_keeps (State.fmtFault_ok hM)) fun _ _ =>
      keeps_bind (guardRes_keeps (State.illegal_ok hM)) fun _ _ => ?_
      extract_lets jp2
      have hj : ∀ acc2, Keeps ExcOk State.memOk (jp2 acc2) := by
        intro acc2
        refine keeps_bind (State.needStamp_keeps hM) fun _ _ => keeps_bind (State.needStamp_keeps hM) fun _ _ =>
          keeps_bind (P := fun _ => True) ?_ fun _ _ => keeps_bind (P := fun _ => True) ?_ fun _ _ =>
            keeps_bind (guardRes_keeps hM) fun _ _ => keeps_bind (State.needPip_keeps hM) fun _ _ => ?_
        · cases xb2 with
          | none => trivial
          | some x => exact State.needStamp_keeps hM
        · cases xm with
          | none => trivial
          | some x => exact State.needStamp_keeps hM
        · refine State.memOk_of_mem ((State.classB_mem ..).trans ((State.retire_mem ..).trans ?_)) hM
          have h3 : ∀ t : State, t.mem = s.mem → (match s.grp.tile with
              | none => t
              | some n => t.setTile n { t.tile n with matrix := true }).mem = s.mem := by
            intro t ht
            split
            · exact ht
            · exact (State.setTile_mem ..).trans ht
          split
          · exact h3 _ ((State.tileWork_mem ..).trans (State.setDomino_mem ..))
          · exact (State.pipUp_mem ..).trans (h3 _ ((State.tileWork_mem ..).trans (State.setDomino_mem ..)))
      split
      · exact keeps_bind (P := fun _ => True) (keeps_map (State.liveAcc_keeps hM) fun _ _ => trivial) fun _ _ => hj _
      · exact hj _
  cases xb2 with
  | none => exact hj _
  | some x => exact keeps_bind (State.recEntry_keeps hM) fun _ _ => hj _

theorem execMma_good {s : State} {d a b : BitVec 8} (hM : s.memOk) :
    Good (execMma d a b s) := matrixOp_good hM

theorem execMmas_good {s : State} {d a b : BitVec 8} (hM : s.memOk) :
    Good (execMmas d a b s) := matrixOp_good hM

theorem execMmar_good {s : State} {d a b : BitVec 8} (hM : s.memOk) :
    Good (execMmar d a b s) := matrixOp_good hM

theorem execMmaz_good {s : State} {d a b : BitVec 8} (hM : s.memOk) :
    Good (execMmaz d a b s) := matrixOp_good hM

@[simp] theorem State.fenceFault_mem (s : State) (dk : Nat) (o : MatOp) (cause : Nat) (held : Parked) :
    (s.fenceFault dk o cause held).mem = s.mem :=
  rfl

theorem State.readFence_ok {s : State} {dk : Nat} {o : MatOp} (hM : s.memOk) : FenceOk (s.readFence dk o) := by
  unfold State.readFence
  grind [State.xlate_mem, State.fenceFault_mem]

theorem execMatrixOperationStart_good {s : State} {dk : Nat} (hM : s.memOk) :
    Good (execMatrixOperationStart dk s) := by
  unfold execMatrixOperationStart
  extract_lets d
  split
  · exact hM
  · split
    · exact hM
    · extract_lets ready begin_
      have hb : ∀ o t, t.memOk → (begin_ o t).memOk := by
        intro o t ht
        grind [State.setDomino_mem, State.setTile_mem]
      clear_value begin_
      grind [State.readFence_ok, State.setDomino_mem]

theorem execRaggedFenceRead_good {s : State} {dk : Nat} (hM : s.memOk) :
    Good (execRaggedFenceRead dk s) := by
  unfold execRaggedFenceRead
  grind [State.setDomino_mem, State.readFence_ok]

theorem State.testResult_memOk {s : State} {dk u : Nat} {failed : Bool} (hM : s.memOk) :
    (s.testResult dk u failed).memOk := by
  unfold State.testResult
  grind [State.postError_memOk, State.setDomino_mem]

theorem State.runTest_memOk {s : State} {dk : Nat} {o : MatOp} {rest : List MatOp} (hM : s.memOk) :
    (s.runTest dk o rest).memOk := by
  unfold State.runTest
  grind [State.testResult_memOk, State.completeOp_memOk, State.setDomino_mem]

theorem execMatrixOperationComplete_good {s : State} {dk : Nat} (hM : s.memOk) :
    Good (execMatrixOperationComplete dk s) := by
  unfold execMatrixOperationComplete
  dsimp only
  repeat' split
  all_goals grind [State.runTest_memOk, State.setTile_mem, State.completeOp_memOk, State.setDomino_mem]

theorem State.accWord_keeps {s : State} {d a b : BitVec 8} (hM : s.memOk) :
    Keeps ExcOk (fun _ => True) (s.accWord d a b) := by
  refine keeps_bind (guardRes_keeps (State.illegal_ok hM)) fun _ _ =>
    keeps_bind (guardRes_keeps (State.illegal_ok hM)) fun _ _ =>
    keeps_bind (State.liveAcc_keeps hM) fun r hr => ?_
  split
  · exact keeps_bind (P := fun _ => True) (keeps_map (State.liveAcc_keeps hM) fun _ _ => trivial) fun _ _ => trivial
  · trivial

theorem execOread_good {s : State} {d a b : BitVec 8} (hM : s.memOk) :
    Good (execOread d a b s) := by
  refine finish_good <| keeps_bind (State.need_keeps hM) fun _ _ => keeps_bind (State.accWord_keeps hM) fun _ _ =>
    keeps_bind (State.needRegs_keeps hM) fun _ _ => keeps_bind (State.need_keeps hM) fun _ _ =>
      keeps_bind (guardRes_keeps hM) fun _ _ => ?_
  grind [State.trapAt_ok, State.setGrp_mem, State.retire_mem]

theorem execOwrite_good {s : State} {d a b : BitVec 8} (hM : s.memOk) :
    Good (execOwrite d a b s) := by
  refine finish_good <| keeps_bind (State.need_keeps hM) fun _ _ => keeps_bind (State.accWord_keeps hM) fun _ _ =>
    keeps_bind (State.needRegs_keeps hM) fun _ _ => keeps_bind (State.need_keeps hM) fun _ _ =>
      keeps_bind (State.needClean_keeps hM) fun _ _ => keeps_bind (guardRes_keeps hM) fun _ _ => ?_
  exact State.memOk_of_mem (by rw [State.retire_mem, State.setDomino_mem]) hM

theorem execMfence_good {s : State} (hM : s.memOk) :
    Good (execMfence s) := finish_good <| keeps_bind (guardRes_keeps hM) fun _ _ => State.memOk_of_mem (by simp) hM

theorem execMtest_good {s : State} {n : BitVec 24} (hM : s.memOk) :
    Good (execMtest n s) := by
  refine finish_good <| keeps_bind (guardRes_keeps (State.trapAt_ok hM)) fun _ _ =>
    keeps_bind (guardRes_keeps (State.illegal_ok hM)) fun _ _ => ?_
  grind [State.retire_mem, State.fresh_memOk, State.setDomino_mem, State.classB_mem]

theorem execSelfTestInject_good {s : State} {dk : Nat} {failed : Bool} (hM : s.memOk) :
    Good (execSelfTestInject dk failed s) := by
  unfold execSelfTestInject
  grind [State.testResult_memOk, State.setDomino_mem]

/-! ## Fills of operand slots and stores of accumulators -/

@[simp] theorem State.acceptFill_mem (s : State) (dk slot : Nat) (stamp : BitVec 16) (id : Nat) :
    (s.acceptFill dk slot stamp id).mem = s.mem :=
  rfl

@[simp] theorem State.appendFill_mem (s : State) (words req : List Dword) (f : FillRun) (stamp : Option (BitVec 16)) :
    (s.appendFill words req f stamp).mem = s.mem := by
  have h : ∀ t : State, t.fresh.2.mem = t.mem := fun _ => rfl
  unfold State.appendFill
  grind [State.retire_mem, State.acceptFill_mem, State.pipUp_mem, State.tileWork_mem, State.classB_mem,
    State.appendHidden_mem]

theorem State.fillRequest_keeps {s : State} {va : Dword} (hM : s.memOk) :
    Keeps ExcOk (fun r => r.2.memOk) (s.fillRequest va) :=
  keeps_bind (guardRes_keeps (State.trapAt_ok hM)) fun _ _ => keeps_bind (State.scalarRead_keeps hM) fun _ h1 =>
    State.memOk_of_mem (by simp) h1

theorem execOfill_good {s : State} {d a b : BitVec 8} (hM : s.memOk) :
    Good (execOfill d a b s) := by
  refine finish_good <| counting_keeps <| keeps_bind (State.need_keeps hM) fun _ _ =>
    keeps_bind (State.needPip_keeps hM) fun _ _ =>
    keeps_bind (State.liveSlot_keeps hM) fun x _ => keeps_bind (State.fillRequest_keeps hM) fun r hr =>
      keeps_bind (State.handle_keeps hr) fun t _ => ?_
  dsimp only
  split
  · exact State.memOk_of_mem ((State.retire_mem ..).trans (State.writeS_mem ..)) hr
  · exact keeps_bind (guardRes_keeps hM) fun _ _ =>
      State.hiddenStep_keeps hr (State.memOk_of_mem ((State.appendFill_mem ..).trans (State.writeS_mem ..)) hr)

theorem execOfillv_good {s : State} {d a b : BitVec 8} (hM : s.memOk) :
    Good (execOfillv d a b s) := by
  refine finish_good <| counting_keeps <| keeps_bind (State.need_keeps hM) fun _ _ =>
    keeps_bind (State.needPip_keeps hM) fun _ _ =>
    keeps_bind (State.liveSlot_keeps hM) fun x _ => keeps_bind (guardRes_keeps (State.illegal_ok hM)) fun _ _ => ?_
  split
  · grind [State.illegal_ok]
  · refine keeps_bind (guardRes_keeps (State.illegal_ok hM)) fun _ _ => keeps_bind (State.needRegs_keeps hM) fun _ _ =>
      keeps_bind (State.need_keeps hM) fun _ _ => keeps_bind (State.recEntry_keeps hM) fun e _ =>
        keeps_bind (guardRes_keeps (State.fmtFault_ok hM)) fun _ _ =>
          keeps_bind (guardRes_keeps (State.illegal_ok hM)) fun _ _ =>
          keeps_bind (State.needClean_keeps hM) fun _ _ => keeps_bind (guardRes_keeps hM) fun _ _ =>
            State.hiddenStep_keeps hM (State.memOk_of_mem (State.appendFill_mem ..) hM)

theorem execOstore_good {s : State} {d a b : BitVec 8} (hM : s.memOk) :
    Good (execOstore d a b s) := by
  refine finish_good <| counting_keeps <| keeps_bind (State.need_keeps hM) fun _ _ =>
    keeps_bind (State.needPip_keeps hM) fun _ _ =>
    keeps_bind (guardRes_keeps (State.illegal_ok hM)) fun _ _ => keeps_bind (State.needRound_keeps hM) fun _ _ =>
      keeps_bind (State.liveAcc_keeps hM) fun acc _ => ?_
  extract_lets entry th dk jp
  have hj : ∀ acc2, Keeps ExcOk State.memOk (jp acc2) := by
    intro acc2
    refine keeps_bind (guardRes_keeps (State.fmtFault_ok hM)) fun _ _ =>
      keeps_bind (guardRes_keeps (State.fmtFault_ok hM)) fun _ _ =>
      keeps_bind (State.fillRequest_keeps hM) fun r hr => keeps_bind (State.handle_keeps hr) fun t _ => ?_
    dsimp only
    split
    · exact State.memOk_of_mem ((State.retire_mem ..).trans (State.writeS_mem ..)) hr
    · exact keeps_bind (guardRes_keeps hM) fun _ _ =>
        State.hiddenStep_keeps hr (State.memOk_of_mem ((State.appendFill_mem ..).trans (State.writeS_mem ..)) hr)
  split
  · exact keeps_bind (P := fun _ => True) (keeps_map (State.liveAcc_keeps hM) fun _ _ => trivial) fun _ _ => hj _
  · exact hj _

@[simp] theorem State.fillEnds_mem (s : State) (id : Nat) (f : FillRun) (bytes : Nat) (bad : Bool) :
    (s.fillEnds id f bytes bad).mem = s.mem :=
  rfl

@[simp] theorem State.handleTurn_mem (s : State) (id : Nat) (f : FillRun) :
    (s.handleTurn id f).mem = s.mem := by simp [State.handleTurn]

@[simp] theorem State.handleUsed_mem (s : State) (id : Nat) (f : FillRun) :
    (s.handleUsed id f).mem = s.mem := by simp [State.handleUsed]

theorem State.runFill_memOk {s : State} {id : Nat} {c : Cmd} {f : FillRun} (hM : s.memOk) :
    (s.runFill id c f).memOk := by
  unfold State.runFill
  grind [State.readAll_keeps, State.haltCommand_memOk, State.handleUsed_mem, State.fillEnds_mem, State.setDomino_mem,
    State.handleTurn_mem, State.tileMoves_mem]

theorem execFillComplete_good {s : State} {id : Nat} (hM : s.memOk) :
    Good (execFillComplete id s) := by
  unfold execFillComplete
  grind [State.runFill_memOk]

theorem State.cbStore_keeps {s : State} {id : Nat} {t : Tensor} {es : List (ElemAt × Nat × Option (BitVec 16))}
    {e : ElemAt} (hM : s.memOk) :
    Keeps XErrOk (fun r => r.2.memOk) (s.cbStore id t es e) :=
  keeps_bind (State.engineRead_keeps hM) fun _ h1 => State.memOk_of_mem (by simp) h1

theorem State.storeWrites_keeps {s : State} {id : Nat} {t : Tensor} {c : Cmd} {f : FillRun} (hM : s.memOk) :
    Keeps XErrOk (fun r => r.2.memOk) (s.storeWrites id t c f) := by
  unfold State.storeWrites
  dsimp only
  split
  · exact hM
  · exact keeps_foldlM (P := fun r : List Spill × State => r.2.memOk)
      (fun _ _ ha => keeps_bind (State.cbStore_keeps ha) fun _ hr => hr) hM

theorem State.runStore_memOk {s : State} {id : Nat} {c : Cmd} {f : FillRun} (hM : s.memOk) :
    (s.runStore id c f).memOk := by
  unfold State.runStore
  grind [State.setCmd_mem, State.haltCommand_memOk, State.handleUsed_mem, State.writeAll_keeps, State.handleTurn_mem,
    State.passWaits_mem, State.storeWrites_keeps]

/-! ## The start and the end of engine commands, and the posting of event records -/

theorem State.captureAccess_keeps {s : State} {id : Nat} {l : Loc} (hM : s.memOk) :
    Keeps (fun _ => True) State.memOk (s.captureAccess id l) := by
  unfold State.captureAccess
  grind [State.raceAccess_keeps, State.learnAll_mem]

theorem State.engStart_memOk {s : State} {id : Nat} (hM : s.memOk) :
    (s.engStart id).memOk := State.traceEngine_memOk hM

theorem State.capture_keeps {s : State} {id : Nat} (hM : s.memOk) :
    Keeps XErrOk State.memOk (s.capture id) := by
  unfold State.capture
  grind [State.setCmd_mem, State.xlate_mem, State.captureAccess_keeps, State.engineFault_mem, State.engStart_memOk]

@[simp] theorem State.cmdAcquire_mem (s : State) (id : Nat) : (s.cmdAcquire id).mem = s.mem := by
  unfold State.cmdAcquire
  dsimp only
  repeat' split
  all_goals simp

theorem State.checkBar_keeps {s : State} {id : Nat} (hM : s.memOk) :
    Keeps XErrOk (fun _ => True) (s.checkBar id) := by
  unfold State.checkBar
  grind

theorem State.readRequest_keeps {s : State} {id : Nat} (hM : s.memOk) :
    Keeps XErrOk State.memOk (s.readRequest id) := by
  unfold State.readRequest
  grind [State.setCmd_mem, State.engineRead_keeps, bind_eq]

theorem State.engineDwords_keeps {s : State} {id : Nat} {va : Dword} {n : Nat} (hM : s.memOk) :
    Keeps XErrOk (fun r => r.2.memOk) (s.engineDwords id va n) := by
  induction n generalizing s va with
  | zero => exact hM
  | succ n ih =>
    unfold State.engineDwords
    exact keeps_bind (State.engineRead_keeps hM) fun r hr => keeps_bind (ih hr) fun r hr => hr

theorem State.startRelay_keeps {s : State} {id : Nat} (hM : s.memOk) :
    Keeps XErrOk State.memOk (s.startRelay id) := by
  unfold State.startRelay
  grind [State.setCmd_mem, State.setTensor_mem, State.engineDwords_keeps, bind_eq]

theorem State.queueRoom_keeps {s : State} {dk : Nat} (hM : s.memOk) :
    Keeps XErrOk (fun _ => True) (s.queueRoom dk) := by
  unfold State.queueRoom
  grind

theorem State.startFill_keeps {s : State} {id : Nat} (hM : s.memOk) :
    Keeps XErrOk State.memOk (s.startFill id) := by
  unfold State.startFill
  grind [State.setCmd_mem, State.queueRoom_keeps, State.acceptFill_mem, bind_eq]

theorem State.startStore_keeps {s : State} {id : Nat} (hM : s.memOk) :
    Keeps XErrOk State.memOk (s.startStore id) := by
  unfold State.startStore
  extract_lets c dk wide n accs live
  split
  · exact hM
  · split
    · exact hM
    · extract_lets st
      split
      · exact hM
      · exact keeps_bind (State.queueRoom_keeps hM) fun _ _ => State.memOk_of_mem (State.setCmd_mem ..) hM

theorem State.startWork_keeps {s : State} {id : Nat} (hM : s.memOk) :
    Keeps XErrOk State.memOk (s.startWork id) := by
  refine keeps_bind (State.capture_keeps hM) fun s1 h1 => ?_
  have h2 : (s1.cmdAcquire id).memOk := State.memOk_of_mem (State.cmdAcquire_mem ..) h1
  extract_lets s2 c checked run
  have hc : ∀ t : State, t.memOk → Keeps XErrOk State.memOk (checked t) := fun _ h => State.memOk_of_mem
      (State.setCmd_mem ..) h
  have hr : ∀ t : State, t.memOk → Keeps XErrOk State.memOk (run t) := by
    intro t ht
    refine keeps_bind (State.checkBar_keeps ht) fun _ _ => ?_
    split
    · exact keeps_bind (State.startRelay_keeps ht) hc
    · exact keeps_bind (State.startFill_keeps ht) hc
    · exact keeps_bind (State.startStore_keeps ht) hc
    · exact hc _ ht
  split
  · exact h2
  · split
    · exact h2
    · split
      · exact keeps_bind (State.readRequest_keeps h2) hr
      · exact hr _ h2

theorem State.settle_memOk {s : State} {id : Nat} {x : Except XErr State} (h : Keeps XErrOk State.memOk x) :
    (s.settle id x).memOk := by
  unfold State.settle
  grind [State.haltCommand_memOk]

theorem State.nextCommand_keeps {s : State} {key : Nat} {ch : Chain} (hM : s.memOk) :
    OptKeeps (fun r => r.2.memOk) (s.nextCommand key ch) := by
  unfold State.nextCommand
  have hf : s.fresh.2.memOk := hM
  split
  · cases ch.queue.head? <;> grind
  · grind [State.setCmd_mem, State.dropFill_mem]

theorem execCommandStart_good {s : State} {key : Nat} (hM : s.memOk) :
    Good (execCommandStart key s) := by
  unfold execCommandStart
  grind [State.setCmd_mem, State.startWork_keeps, State.tileStart_mem, State.settle_memOk, State.nextCommand_keeps,
    State.setChain_mem, State.engStart_memOk]

theorem State.endMove_memOk {s : State} {id : Nat} {c : Cmd} (hM : s.memOk) :
    (s.endMove id c).memOk := by
  unfold State.endMove
  grind [State.settle_memOk, State.completionEffects_memOk, State.moveRest_keeps]

theorem State.endRelay_memOk {s : State} {id : Nat} {r : RelayRun} (hM : s.memOk) :
    (s.endRelay id r).memOk := by
  unfold State.endRelay
  grind [State.abandonRelay_mem, State.completionEffects_memOk]

theorem State.endStore_memOk {s : State} {id : Nat} {c : Cmd} {f : FillRun} (hM : s.memOk) :
    (s.endStore id c f).memOk := by
  unfold State.endStore
  grind [State.runStore_memOk, State.completionEffects_memOk]

theorem execCommandComplete_good {s : State} {id : Nat} (hM : s.memOk) :
    Good (execCommandComplete id s) := by
  unfold execCommandComplete
  grind [State.endRelay_memOk, State.completionEffects_memOk, State.endMove_memOk, State.endStore_memOk]

theorem execEventRecordPost_good {s : State} {n : Nat} (hM : s.memOk) :
    Good (execEventRecordPost n s) := State.tryPost_memOk hM

/-! ## Trap entry as an event, `tret`, escalation and its replies, pre-emption requests -/

theorem State.frameHere_keeps {s : State} {gid : Nat} (hM : s.memOk) :
    Keeps ExcOk (fun _ => True) (s.frameHere gid) := by
  unfold State.frameHere
  grind [State.parkReissue_mem, State.trapAt_ok]

theorem State.returnGroup_keeps {s : State} {gid : Nat} (hM : s.memOk) :
    Keeps ExcOk State.memOk (s.returnGroup gid) := by
  refine keeps_bind (guardRes_keeps (State.illegal_ok hM)) fun _ _ =>
    keeps_bind (State.frameHere_keeps hM) fun img hi =>
    keeps_bind (State.frameOk_keeps hM) fun ok _ => keeps_bind (guardRes_keeps (State.illegal_ok hM)) fun _ _ =>
      keeps_bind (guardRes_keeps hM) fun _ _ => State.examined_memOk <| State.clearResumed_memOk <|
        State.resumeFrame_memOk <| State.memOk_of_mem (State.count_mem ..) hM

theorem State.returnCore_keeps {s : State} {p d c : Nat} (hM : s.memOk) :
    Keeps ExcOk State.memOk (s.returnCore p d c) :=
  keeps_bind (guardRes_keeps (State.illegal_ok hM)) fun _ _ => keeps_bind (guardRes_keeps hM) fun _ _ =>
    State.memOk_of_mem (by simp) hM

theorem execTret_good {s : State} (hM : s.memOk) :
    Good (execTret s) := by
  unfold execTret
  grind [finish_good, State.returnCore_keeps, State.returnGroup_keeps]

theorem execSystemCoreTrapEntry_good {s : State} {ag : Agent} (hM : s.memOk) :
    Good (execSystemCoreTrapEntry ag s) := by
  unfold execSystemCoreTrapEntry
  grind [State.takeDue_memOk, State.dropOp_mem]

theorem execPreemptionRequestTaken_good {s : State} {gid : Nat} (hM : s.memOk) :
    Good (execPreemptionRequestTaken gid s) := by
  unfold execPreemptionRequestTaken
  grind [State.takeTrap_memOk]

theorem State.postEscalation_keeps {s : State} {pkg : Nat} {words : List Dword} (hM : s.memOk) :
    OptKeeps State.memOk (s.postEscalation pkg words) := by
  unfold State.postEscalation
  grind [State.postAt_keeps, State.setPkg_mem]

theorem execEscalationRecordPost_good {s : State} {pkg : Nat} (hM : s.memOk) :
    Good (execEscalationRecordPost pkg s) := by
  unfold execEscalationRecordPost
  grind [State.postEscalation_keeps, State.setGroup_mem, State.wakeSys_mem, State.setCtx_mem]

theorem State.escResume_memOk {s : State} {gid : Nat} (hM : s.memOk) :
    (s.escResume gid).memOk := by
  unfold State.escResume
  grind [State.frameOk_keeps, State.resumeFrame_memOk, State.examined_memOk, State.endGroup_memOk,
    State.parkRecord_mem, State.clearResumed_memOk, State.unescalate_mem]

theorem State.replyResume_memOk {s : State} {gid : Nat} {x : Escalation} (hM : s.memOk) :
    (s.replyResume gid x).memOk := by
  unfold State.replyResume
  grind [State.escResume_memOk, State.trapEntry_memOk, State.setGroup_mem, State.unescalate_mem]

theorem execTrapEntry_good {s : State} {gid : Nat} (hM : s.memOk) :
    Good (execTrapEntry gid s) := by
  unfold execTrapEntry
  grind [State.escResume_memOk, State.trapEntry_memOk, State.unescalate_mem]

theorem execEscalationReplyResume_good {s : State} {pkg : Nat} {v : Dword} (hM : s.memOk) :
    Good (execEscalationReplyResume pkg v s) := by
  unfold execEscalationReplyResume
  grind [State.replyResume_memOk]

theorem execEscalationReplyEnd_good {s : State} {pkg : Nat} {v : Dword} (hM : s.memOk) :
    Good (execEscalationReplyEnd pkg v s) := by
  unfold execEscalationReplyEnd
  grind [State.endGroup_memOk]

/-! ## Fault records and their replies -/

theorem execFaultRecordPost_good {s : State} {pkg : Nat} (hM : s.memOk) :
    Good (execFaultRecordPost pkg s) := by
  unfold execFaultRecordPost
  grind [State.postAt_keeps, State.setPkg_mem, State.wakeSys_mem]

theorem State.atomicParked_keeps {s : State} {o : Op} {here : List LaneReq} (hM : s.memOk) :
    Keeps (fun r => r.2.2.2.memOk) (fun r => r.2.memOk) (s.atomicParked o here) := by
  unfold State.atomicParked
  grind [State.atomicAll_keeps, State.recordLanes_memOk]

theorem State.performParked_keeps {s : State} {o : Op} {here : List (LaneReq × Loc)} (hM : s.memOk) :
    Keeps (fun r => r.2.2.2.memOk) (fun r => r.2.memOk) (s.performParked o here) := by
  unfold State.performParked
  split
  · exact State.atomicParked_keeps hM
  · exact keeps_map (State.performPeers_keeps hM) fun _ h => h
  · rename_i d act r l _ _
    have h := State.performScalar_keeps (o := o) (d := d) (act := act) (r := r) (l := l) hM
    grind
  · exact keeps_map (State.performAll_keeps hM) fun _ h => h

@[simp] theorem State.tensorUsed_mem (s : State) (o : Op) (here : List (LaneReq × Loc)) :
    (s.tensorUsed o here).mem = s.mem := by
  unfold State.tensorUsed
  repeat' split
  all_goals simp

theorem State.performed_memOk {s : State} {n : Nat} {o : Op} {k : State → State} (hM : s.memOk)
    (h : ∀ t, t.memOk → (k t).memOk) : (s.performed n o k).memOk := by
  unfold State.performed
  grind [State.endOp_memOk]

theorem State.replayLanes_memOk {s : State} {gid n : Nat} {reqs : List LaneReq} (hM : s.memOk) :
    (s.replayLanes gid n reqs).memOk := by
  unfold State.replayLanes
  repeat' split
  all_goals grind [State.openEntries_mem, State.tensorUsed_mem, State.locate_keeps, State.endOp_memOk,
    State.unpark_mem, State.performParked_keeps, State.performed_memOk, State.onLinks_mem]

theorem State.performAway_memOk {s : State} {n : Nat} {o : Op} (hM : s.memOk) :
    (s.performAway n o).memOk := by
  unfold State.performAway
  grind [State.tensorUsed_mem, State.endOp_memOk, State.performParked_keeps, State.performed_memOk,
    State.completeOp_memOk]

theorem State.opGoesOn_memOk {s : State} {n : Nat} {o : Op} (hM : s.memOk) :
    (s.opGoesOn n o).memOk := by
  unfold State.opGoesOn
  grind [State.performAway_memOk, State.completeOp_memOk]

theorem execScalarAccessComplete_good {s : State} {op : Nat} (hM : s.memOk) :
    Good (execScalarAccessComplete op s) := by
  unfold execScalarAccessComplete
  grind [State.opGoesOn_memOk]

theorem execVectorAccessComplete_good {s : State} {op : Nat} (hM : s.memOk) :
    Good (execVectorAccessComplete op s) := by
  unfold execVectorAccessComplete
  grind [State.opGoesOn_memOk]

theorem execCollectiveComplete_good {s : State} {op : Nat} (hM : s.memOk) :
    Good (execCollectiveComplete op s) := by
  unfold execCollectiveComplete
  grind [State.opGoesOn_memOk]

@[simp] theorem State.replayWalk_mem (s : State) (e : FaultEntry) : (s.replayWalk e).mem = s.mem := by
  unfold State.replayWalk
  grind [State.xlate_mem, State.openFault_mem]

theorem State.replayCommand_memOk {s : State} {id : Nat} {va : Dword} (hM : s.memOk) :
    (s.replayCommand id va).memOk := by
  unfold State.replayCommand
  grind [State.setCmd_mem, State.stopCommand_memOk, State.writeBack_keeps]

@[simp] theorem State.fenceReply_mem (s : State) (dk : Nat) (dead : Bool) : (s.fenceReply dk dead).mem = s.mem := by
  unfold State.fenceReply
  dsimp only
  repeat' split
  all_goals simp

theorem execFaultReplyReplay_good {s : State} {pkg : Nat} {v : Dword} (hM : s.memOk) :
    Good (execFaultReplyReplay pkg v s) := by
  unfold execFaultReplyReplay
  grind [State.fenceReply_mem, State.uncount_mem, State.replayWalk_mem, State.replayCommand_memOk, State.unpark_mem,
    State.replayLanes_memOk, State.dropFaults_mem, State.ringReply_memOk]

theorem State.rejectWord_memOk {s : State} {gid slot : Nat} {va : Dword} {word : Word} (hM : s.memOk) :
    (s.rejectWord gid slot va word).memOk := by
  unfold State.rejectWord
  grind [State.endGroup_memOk, State.unpark_mem, State.takeTrap_memOk]

theorem State.rejectRecord_memOk {s : State} {gid : Nat} (hM : s.memOk) :
    (s.rejectRecord gid).memOk := by
  unfold State.rejectRecord
  grind [State.escalate_memOk, State.endGroup_memOk, State.unpark_mem, State.escalateSave_memOk]

theorem State.rejectCommand_memOk {s : State} {id : Nat} {va : Dword} (hM : s.memOk) :
    (s.rejectCommand id va).memOk := by
  unfold State.rejectCommand
  grind [State.setCmd_mem, State.endPost_memOk, State.stopCommand_memOk]

theorem execFaultReplyReject_good {s : State} {pkg : Nat} {v : Dword} (hM : s.memOk) :
    Good (execFaultReplyReject pkg v s) := by
  unfold execFaultReplyReject
  grind [State.fenceReply_mem, State.uncount_mem, State.endOp_memOk, State.unpark_mem, State.rejectRecord_memOk,
    State.dropFaults_mem, State.rejectCommand_memOk, State.rejectWord_memOk, State.ringReply_memOk]

/-! ## The suspension of a context and its return -/

@[simp] theorem State.requestAll_mem (s : State) (pkg ctx : Nat) (v : Bool) : (s.requestAll pkg ctx v).mem = s.mem :=
  rfl

theorem execContextSuspend_good {s : State} {pkg ctx : Nat} (hM : s.memOk) :
    Good (execContextSuspend pkg ctx s) := by
  unfold execContextSuspend
  grind [State.requestAll_mem, State.setCtx_mem]

theorem State.saveFormats_keeps {s : State} {pkg ctx : Nat} (hM : s.memOk) :
    OptKeeps State.memOk (s.saveFormats pkg ctx) := by
  unfold State.saveFormats
  grind [State.hwStore_keeps]

@[simp] theorem State.loadFormats_mem (s : State) (pkg ctx : Nat) : (s.loadFormats pkg ctx).mem = s.mem := by
  unfold State.loadFormats
  repeat' split
  all_goals simp

theorem State.rejoin_memOk {s : State} {pkg ctx n : Nat} {saved : Board} (hM : s.memOk) :
    (s.rejoin pkg ctx n saved).memOk := by
  unfold State.rejoin
  grind [State.setBoard_mem, State.setCtx_mem, State.firingTest_memOk]

theorem State.restoreBoards_memOk {s : State} {pkg ctx : Nat} (hM : s.memOk) :
    (s.restoreBoards pkg ctx).memOk := by
  unfold State.restoreBoards
  grind [State.rejoin_memOk, foldl_memOk]

@[simp] theorem State.saveContext_mem (s : State) (pkg ctx : Nat) : (s.saveContext pkg ctx).mem = s.mem := by
  unfold State.saveContext
  grind [State.saveRegionOf_mem, foldl_mem]

@[simp] theorem State.roomFound_mem (s : State) (pkg ctx : Nat) : (s.roomFound pkg ctx).mem = s.mem := by
  unfold State.roomFound
  repeat' split
  all_goals simp

@[simp] theorem State.lacksRoom_mem (s : State) (pkg ctx : Nat) : (s.lacksRoom pkg ctx).mem = s.mem := by
  unfold State.lacksRoom
  dsimp only
  repeat' split
  all_goals simp

theorem execSuspensionComplete_good {s : State} {pkg ctx : Nat} (hM : s.memOk) :
    Good (execSuspensionComplete pkg ctx s) := by
  unfold execSuspensionComplete
  grind [State.saveContext_mem, State.roomFound_mem, State.saveFormats_keeps, State.setCtx_mem, State.lacksRoom_mem]

theorem execContextResume_good {s : State} {pkg ctx : Nat} (hM : s.memOk) :
    Good (execContextResume pkg ctx s) := by
  unfold execContextResume
  grind [State.restoreBoards_memOk, State.loadFormats_mem, State.requestAll_mem, State.setCtx_mem]

/-! ## Special registers -/

theorem stateOf_memOk {s : State} {o : Outcome State Fault Refusal} (hM : s.memOk) (h : Good o) :
    (stateOf s o).memOk := by
  unfold stateOf
  grind

@[simp] theorem State.setOwnReg_mem (s : State) (n : Nat) (v : Dword) : (s.setOwnReg n v).mem = s.mem := by
  unfold State.setOwnReg
  repeat' split
  all_goals simp

theorem execSrsr_good {s : State} {d : BitVec 8} {n : BitVec 16} (hM : s.memOk) :
    Good (execSrsr d n s) := by
  unfold execSrsr
  repeat' split
  all_goals grind [State.acquire_mem, State.retire_mem, State.need_keeps, finish_good, State.writeS_mem,
    State.input_keeps, State.illegal_ok, bind_eq]

@[simp] theorem State.flush_mem (s : State) (pkg ctx : Nat) (all : Bool) (va : Nat) :
    (s.flush pkg ctx all va).mem = s.mem :=
  rfl

theorem State.writeFlush_keeps {s : State} {v : Dword} (hM : s.memOk) :
    Keeps ExcOk State.memOk (s.writeFlush v) := by
  unfold State.writeFlush
  grind [State.flush_mem, State.illegal_ok]

@[simp] theorem State.writeTimens_mem (s : State) (v : Dword) : (s.writeTimens v).mem = s.mem := by
  unfold State.writeTimens
  repeat' split
  all_goals simp

theorem State.writeCqpush_keeps {s : State} {va : Dword} (hM : s.memOk) :
    Keeps ExcOk State.memOk (s.writeCqpush va) := by
  refine keeps_bind (State.scalarRead_keeps hM) fun _ h1 => ?_
  grind [State.pushRecord_mem, State.setOwnReg_mem]

@[simp] theorem State.sevOne_mem (s : State) (pkg die core : Nat) : (s.sevOne pkg die core).mem = s.mem := by
  unfold State.sevOne
  repeat' split
  all_goals simp

theorem State.writeSevsend_keeps {s : State} {v : Dword} (hM : s.memOk) :
    Keeps ExcOk State.memOk (s.writeSevsend v) := by
  unfold State.writeSevsend
  grind [State.sevOne_mem, State.illegal_ok, foldl_mem]

theorem State.readBytes_keeps {s : State} {w : Who} {at_ va : Dword} {n : Nat} (hM : s.memOk) :
    Keeps ExcOk (fun _ => True) (s.readBytes w at_ va n) := by
  induction n generalizing s va with
  | zero => trivial
  | succ n ih =>
    unfold State.readBytes
    have hx := State.xlate_mem s w va .read
    split
    · split
      · exact keeps_error (State.trapAt_ok hM)
      · rename_i s1 he _
        rw [he] at hx
        exact keeps_map (ih (State.memOk_of_mem hx hM)) fun _ _ => trivial
    · exact keeps_error (State.trapAt_ok hM)

theorem State.writeReqsend_keeps {s : State} {va : Dword} (hM : s.memOk) :
    Keeps ExcOk State.memOk (s.writeReqsend va) :=
  keeps_bind (State.readBytes_keeps hM) fun _ _ => keeps_bind (State.readBytes_keeps hM) fun _ _ =>
    State.memOk_of_mem (by simp) hM

theorem State.zeroUnit_memOk {s : State} {key : Nat} (hM : s.memOk) :
    (s.zeroUnit key).memOk := by
  unfold State.zeroUnit
  grind [State.putBytes_memOk, foldl_memOk]

theorem State.setUnit_memOk {s : State} {key : Nat} {t : Option UnitTag} {zero : Bool} (hM : s.memOk) :
    (s.setUnit key t zero).memOk := by
  unfold State.setUnit
  grind [State.zeroUnit_memOk]

theorem State.tagSelected_keeps {s : State} {pkg : Nat} {sel : Dword} {t : Option UnitTag} {zero : Bool}
    (hM : s.memOk) :
    OptKeeps State.memOk (s.tagSelected pkg sel t zero) := by
  unfold State.tagSelected
  grind [State.setUnit_memOk, foldl_memOk]

theorem State.writeUnittag_keeps {s : State} {v : Dword} (hM : s.memOk) :
    Keeps ExcOk State.memOk (s.writeUnittag v) := by
  unfold State.writeUnittag
  grind [State.tagSelected_keeps, State.illegal_ok]

@[simp] theorem State.saveWindow_mem (s : State) (pkg key win ctx : Nat) : (s.saveWindow pkg key win ctx).mem = s.mem :=
  rfl

theorem State.allotWindow_keeps {s : State} {pkg : Nat} {sel : Dword} {ctx : Option Nat} (hM : s.memOk) :
    OptKeeps State.memOk (s.allotWindow pkg sel ctx) := by
  unfold State.allotWindow
  grind [State.saveWindow_mem, State.setBoard_mem]

theorem State.writeBoardallot_keeps {s : State} {v : Dword} (hM : s.memOk) :
    Keeps ExcOk State.memOk (s.writeBoardallot v) := by
  unfold State.writeBoardallot
  grind [State.allotWindow_keeps, State.illegal_ok]

@[simp] theorem State.setQuantum_mem (s : State) (k v : Nat) : (s.setQuantum k v).mem = s.mem := rfl

theorem State.writeStreamq_keeps {s : State} {v : Dword} (hM : s.memOk) :
    Keeps ExcOk State.memOk (s.writeStreamq v) := by
  unfold State.writeStreamq
  grind [State.setQuantum_mem, State.illegal_ok]

@[simp] theorem State.writePlent_mem (s : State) (v : Dword) : (s.writePlent v).mem = s.mem := rfl

theorem State.writeRoute_keeps {s : State} {n : Nat} {v : Dword} (hM : s.memOk) :
    Keeps ExcOk State.memOk (s.writeRoute n v) := by
  unfold State.writeRoute
  grind [State.setPkg_mem, State.illegal_ok]

theorem State.writeFltreply_keeps {s : State} {v : Dword} (hM : s.memOk) :
    Keeps ExcOk State.memOk (s.writeFltreply v) := by
  unfold State.writeFltreply
  grind [stateOf_memOk, execFaultReplyReject_good, execFaultReplyReplay_good, State.illegal_ok]

theorem State.writeEscreply_keeps {s : State} {v : Dword} (hM : s.memOk) :
    Keeps ExcOk State.memOk (s.writeEscreply v) := by
  unfold State.writeEscreply
  grind [stateOf_memOk, execEscalationReplyResume_good, execEscalationReplyEnd_good, State.illegal_ok]

theorem State.writePreempt_keeps {s : State} {v : Dword} (hM : s.memOk) :
    Keeps ExcOk State.memOk (s.writePreempt v) := by
  unfold State.writePreempt
  grind [execContextSuspend_good, stateOf_memOk, execContextResume_good, State.setPkg_mem, State.illegal_ok]

theorem State.writeDbgtrc_keeps {s : State} {v : Dword} (hM : s.memOk) :
    Keeps ExcOk State.memOk (s.writeDbgtrc v) := by
  unfold State.writeDbgtrc
  grind [State.setPart_mem, State.setDie_mem, State.illegal_ok]

theorem State.writeDebug_keeps {s : State} {n : Nat} {v : Dword} (hM : s.memOk) :
    Keeps ExcOk State.memOk (s.writeDebug n v) := by
  unfold State.writeDebug
  grind [State.setPart_mem, State.writeDbgtrc_keeps, State.setCore_mem, State.setCtxReg_mem, State.setCtx_mem,
    State.setOwnReg_mem, State.illegal_ok]

theorem State.writeTrapReg_keeps {s : State} {n : Nat} {v : Dword} (hM : s.memOk) :
    Keeps ExcOk State.memOk (s.writeTrapReg n v) := by
  unfold State.writeTrapReg
  grind [State.writeEscreply_keeps, State.writePreempt_keeps, State.setHart_mem, State.writePlent_mem,
    State.setPkg_mem, State.setCtxReg_mem, State.setOwnReg_mem]

theorem State.writeSystemReg_keeps {s : State} {n : Nat} {v : Dword} (hM : s.memOk) :
    Keeps ExcOk State.memOk (s.writeSystemReg n v) := by
  unfold State.writeSystemReg
  grind [State.writeRoute_keeps, State.writeFltreply_keeps, State.writeBoardallot_keeps, State.writeCqpush_keeps,
    State.setPkg_mem, State.writeReqsend_keeps, State.writeDebug_keeps, State.writeSevsend_keeps,
    State.writeFlush_keeps, State.writeStreamq_keeps, State.writeUnittag_keeps, State.setCtx_mem, State.setOwnReg_mem,
    State.illegal_ok]

theorem State.srWrite_keeps {s : State} {n : Nat} {v : Dword} (hM : s.memOk) :
    Keeps ExcOk State.memOk (s.srWrite n v) := by
  unfold State.srWrite
  grind [State.writeTimens_mem, State.writeTrapReg_keeps, State.setCtxReg_mem, State.illegal_ok,
    State.writeSystemReg_keeps]

theorem execSwsr_good {s : State} {d : BitVec 8} {n : BitVec 16} (hM : s.memOk) :
    Good (execSwsr d n s) := by
  refine finish_good <| keeps_bind (State.need_keeps hM) fun _ _ => ?_
  split
  · exact keeps_bind (guardRes_keeps hM) fun _ _ =>
      keeps_bind (State.srWrite_keeps (State.memOk_of_mem (State.release_mem ..) hM)) fun _ h =>
        State.memOk_of_mem (State.retire_mem ..) h
  · exact keeps_bind (State.srWrite_keeps hM) fun _ h => State.memOk_of_mem (State.retire_mem ..) h

theorem regEvent_good {s : State} {n : Nat} {v : Dword} (hM : s.memOk) :
    Good (regEvent s n v) := by
  unfold regEvent
  grind [State.srWrite_keeps]

theorem execTranslationFlush_good {s : State} {v : Dword} (hM : s.memOk) :
    Good (execTranslationFlush v s) := regEvent_good hM

theorem execTimensWrite_good {s : State} {v : Dword} (hM : s.memOk) :
    Good (execTimensWrite v s) := regEvent_good hM

theorem execCqpushWrite_good {s : State} {v : Dword} (hM : s.memOk) :
    Good (execCqpushWrite v s) := regEvent_good hM

theorem execSevsendWrite_good {s : State} {v : Dword} (hM : s.memOk) :
    Good (execSevsendWrite v s) := regEvent_good hM

theorem execReqsendWrite_good {s : State} {v : Dword} (hM : s.memOk) :
    Good (execReqsendWrite v s) := regEvent_good hM

theorem execUnitTag_good {s : State} {v : Dword} (hM : s.memOk) :
    Good (execUnitTag v s) := by
  unfold execUnitTag
  grind [regEvent_good]

theorem execUnitFree_good {s : State} {v : Dword} (hM : s.memOk) :
    Good (execUnitFree v s) := by
  unfold execUnitFree
  grind [regEvent_good]

theorem execBoardAllot_good {s : State} {v : Dword} (hM : s.memOk) :
    Good (execBoardAllot v s) := by
  unfold execBoardAllot
  grind [regEvent_good]

theorem execBoardFree_good {s : State} {v : Dword} (hM : s.memOk) :
    Good (execBoardFree v s) := by
  unfold execBoardFree
  grind [regEvent_good]

theorem execStreamqWrite_good {s : State} {v : Dword} (hM : s.memOk) :
    Good (execStreamqWrite v s) := regEvent_good hM

theorem execPlentWrite_good {s : State} {v : Dword} (hM : s.memOk) :
    Good (execPlentWrite v s) := regEvent_good hM

theorem execRouteTableWrite_good {s : State} {num : Nat} {v : Dword} (hM : s.memOk) :
    Good (execRouteTableWrite num v s) := by
  unfold execRouteTableWrite
  grind [regEvent_good]

theorem execSystemRegisterWrite_good {s : State} {num : Nat} {v : Dword} (hM : s.memOk) :
    Good (execSystemRegisterWrite num v s) := by
  unfold execSystemRegisterWrite
  grind [regEvent_good]

/-! ## Waiting and marks, boot, power, links and the phase planner -/

theorem execWfe_good {s : State} {n : BitVec 24} (hM : s.memOk) :
    Good (execWfe n s) := by
  refine finish_good <| keeps_bind (guardRes_keeps hM) fun _ _ => ?_
  grind [bind_eq, State.input_keeps, State.retire_mem, State.setHart_mem, State.acquire_mem, State.learnAll_mem]

theorem execWfeTimeout_good {s : State} {ag : Agent} (hM : s.memOk) :
    Good (execWfeTimeout ag s) := by
  unfold execWfeTimeout
  grind [State.setHart_mem]

theorem execTmark_good {s : State} {c a b : BitVec 8} (hM : s.memOk) :
    Good (execTmark c a b s) := by
  refine finish_good <| keeps_bind (State.need_keeps hM) fun _ _ => ?_
  grind [State.retire_mem, State.traceSlot_memOk, State.illegal_ok]

theorem State.copyImage_memOk {s : State} {pkg off len : Nat} (hM : s.memOk) :
    (s.copyImage pkg off len).memOk := by
  unfold State.copyImage
  grind [State.putBytes_memOk, foldl_memOk]

@[simp] theorem State.startCores_mem (s : State) (pkg entry ctl : Nat) (strap : Bool) :
    (s.startCores pkg entry ctl strap).mem = s.mem := by
  unfold State.startCores
  grind [State.setCore_mem, foldl_mem]

theorem State.wipe_memOk {s : State} {pkg : Nat} (hM : s.memOk) :
    (s.wipe pkg).memOk := Memory.wf_filter _ hM

theorem execPowerOn_good {s : State} {pkg : Nat} {strap : Bool} (hM : s.memOk) :
    Good (execPowerOn pkg strap s) := by
  unfold execPowerOn
  grind [State.startCores_mem, State.wipe_memOk, State.setPkg_mem, State.setCtx_mem, State.copyImage_memOk]

theorem execPowerOff_good {s : State} {pkg : Nat} (hM : s.memOk) :
    Good (execPowerOff pkg s) := by
  unfold execPowerOff
  grind [State.wipe_memOk]

theorem execThermalThrottle_good {s : State} {pkg temp power : Nat} (hM : s.memOk) :
    Good (execThermalThrottle pkg temp power s) := by
  unfold execThermalThrottle
  grind [State.setPkg_mem]

theorem execThermalPowerOff_good {s : State} {pkg temp : Nat} (hM : s.memOk) :
    Good (execThermalPowerOff pkg temp s) := by
  unfold execThermalPowerOff
  grind [State.wipe_memOk]

@[simp] theorem State.alignTime_mem (s : State) : s.alignTime.mem = s.mem := by
  unfold State.alignTime
  dsimp only
  repeat' split
  all_goals simp

theorem execLinkBringUp_good {s : State} {pkg idx dom : Nat} (hM : s.memOk) :
    Good (execLinkBringUp pkg idx dom s) := by
  unfold execLinkBringUp
  grind [State.alignTime_mem, State.setPkg_mem, State.wakeSys_mem]

theorem execFlitReceive_good {s : State} {pkg port : Nat} {flit : List Byte} (hM : s.memOk) :
    Good (execFlitReceive pkg port flit s) := by
  unfold execFlitReceive
  grind [State.acceptFlit_mem, State.resend_mem, State.portDown_mem, State.nak_mem, State.wakeSys_mem,
    State.setLink_mem]

theorem State.commandTimeout_memOk {s : State} {id : Nat} {c : Cmd} (hM : s.memOk) :
    (s.commandTimeout id c).memOk := by
  unfold State.commandTimeout
  grind [State.setCmd_mem, State.endPost_memOk, State.stopCommand_memOk]

theorem execRemoteAccessTimeout_good {s : State} {op : Nat} (hM : s.memOk) :
    Good (execRemoteAccessTimeout op s) := by
  refine good_of_next fun t h => ?_
  unfold execRemoteAccessTimeout at h
  split at h
  · cases h
    exact hM
  · cases h
    exact State.commandTimeout_memOk hM
  · split at h
    · split at h
      · cases h
        exact State.commandTimeout_memOk hM
      · cases h
        exact hM
    · split at h
      · split at h
        · cases h
          exact State.endOp_memOk hM
        · cases h
          exact hM
      · cases h
        exact hM

theorem State.readRun_keeps {s : State} {n : Nat} {va : Dword} {k : Nat} (hM : s.memOk) :
    Keeps ExcOk (fun r => r.2.memOk) (s.readRun n va k) := by
  induction k generalizing s va with
  | zero => exact hM
  | succ n ih =>
    unfold State.readRun
    exact keeps_bind (State.scalarRead_keeps hM) fun r hr => keeps_bind (ih hr) fun r hr => hr

theorem State.tryStore_memOk {s : State} {w : Who} {va v : Dword} (hM : s.memOk) :
    (s.tryStore w va v).memOk := by
  unfold State.tryStore
  grind [State.xlate_mem, State.putBytes_memOk]

theorem State.writeSchedule_memOk {s : State} {w : Who} {p : PhasePlan} (hM : s.memOk) :
    (s.writeSchedule w p).memOk := by
  unfold State.writeSchedule
  grind [State.tryStore_memOk, foldl_memOk]

@[simp] theorem State.sendMaps_mem (s : State) (p : PhasePlan) : (s.sendMaps p).mem = s.mem := by
  unfold State.sendMaps
  grind [State.route_mem, State.emit_mem, foldl_mem]

@[simp] theorem State.setCircuits_mem (s : State) (p : PhasePlan) (q : Nat) : (s.setCircuits p q).mem = s.mem := by
  unfold State.setCircuits
  grind [State.setPkg_mem, foldl_mem]

theorem execA2aplan_good {s : State} {d a : BitVec 8} (hM : s.memOk) :
    Good (execA2aplan d a s) := by
  refine finish_good <| counting_keeps <| keeps_bind (State.need_keeps hM) fun _ _ =>
    keeps_bind (State.needPip_keeps hM) fun _ _ =>
    keeps_bind (State.scalarRead_keeps hM) fun r hr => ?_
  obtain ⟨r, x, s1⟩ := r
  dsimp -zeta only at hr ⊢
  extract_lets w status n ports pkg now start o
  have hs : ∀ (t : State) n, t.memOk → Keeps ExcOk State.memOk (status t n) := fun t n h =>
    State.memOk_of_mem ((State.retire_mem ..).trans (State.writeS_mem ..)) h
  clear_value status
  split
  · exact hs _ _ hr
  · refine keeps_bind (State.readRun_keeps hr) fun q h2 => ?_
    obtain ⟨parts, s2⟩ := q
    dsimp -zeta only at h2 ⊢
    split
    · exact hs _ _ h2
    · split
      · exact hs _ _ h2
      · split
        · exact hs _ _ h2
        · refine keeps_bind (State.readRun_keeps h2) fun q h3 => ?_
          obtain ⟨t, s3⟩ := q
          dsimp -zeta only at h3 ⊢
          split
          · exact hs _ _ h3
          · extract_lets p t s5 s6
            have h5 : s5.memOk := State.memOk_of_mem (State.sendMaps_mem ..) (State.writeSchedule_memOk h3)
            have h6 : s6.memOk := by
              dsimp only [s6]
              split
              · exact h5
              · exact State.memOk_of_mem (State.pipUp_mem ..) h5
            exact State.memOk_of_mem ((State.classB_mem ..).trans ((State.retire_mem ..).trans
                (State.writeS_mem ..))) h6

theorem State.phaseBit_memOk {s : State} {p : PhasePlan} {part : Nat} (hM : s.memOk) :
    (s.phaseBit p part).memOk := by
  unfold State.phaseBit
  grind [State.setBits_memOk]

theorem execPlanPhaseStart_good {s : State} {pkg : Nat} (hM : s.memOk) :
    Good (execPlanPhaseStart pkg s) := by
  unfold execPlanPhaseStart
  grind [State.phaseBit_memOk, State.setCircuits_mem, foldl_memOk]

theorem execPlanComplete_good {s : State} {pkg : Nat} (hM : s.memOk) :
    Good (execPlanComplete pkg s) := by
  unfold execPlanComplete
  grind [State.xlate_mem, State.completeOp_memOk, State.putBytes_memOk]

/-! ## `fwpub`, `fwend` and the arrival of publishes -/

theorem State.enabledPort_keeps {s : State} {n : Nat} (hM : s.memOk) :
    Keeps ExcOk (fun _ => True) (s.enabledPort n) := by
  unfold State.enabledPort
  grind [State.illegal_ok]

theorem execFwpub_good {s : State} {n : BitVec 8} (hM : s.memOk) :
    Good (execFwpub n s) := by
  refine finish_good <| keeps_bind (State.enabledPort_keeps hM) fun r hr => ?_
  refine keeps_bind (State.needReg_keeps hM) fun _ _ => keeps_bind (State.need_keeps hM) fun _ _ =>
    keeps_bind (State.needClean_keeps hM) fun _ _ => ?_
  have hf : ∀ (l : List Nat) (f : State → Nat → State), (∀ t x, (f t x).mem = t.mem) → ∀ t : State,
      (l.foldl f t).mem = t.mem :=
    fun _ _ h t => foldl_mem h t
  grind [State.publishRels_mem, State.setLaunch_mem, State.retire_mem, State.setSlot_mem]

theorem execFwend_good {s : State} {m : BitVec 8} (hM : s.memOk) :
    Good (execFwend m s) := by
  refine finish_good <| keeps_bind (State.need_keeps hM) fun _ _ => ?_
  grind [State.retire_mem, guardRes_keeps, State.endPorts_mem, State.illegal_ok, bind_eq]

theorem execPublishArrival_good {s : State} {n : Nat} (hM : s.memOk) :
    Good (execPublishArrival n s) := by
  unfold execPublishArrival
  grind [State.setLaunch_mem]

/-! ## Ripple clauses -/

theorem rippleExec_good {s : State} {i : Instr} (hM : s.memOk) :
    Good (rippleExec i s) := by
  cases i with
  | nop => exact execNop_good hM
  | vadd => exact execVadd_good hM
  | vsub => exact execVsub_good hM
  | vmul => exact execVmul_good hM
  | vmulh => exact execVmulh_good hM
  | vmad => exact execVmad_good hM
  | vdiv => exact execVdiv_good hM
  | vrem => exact execVrem_good hM
  | vmin => exact execVmin_good hM
  | vmax => exact execVmax_good hM
  | vand => exact execVand_good hM
  | vor => exact execVor_good hM
  | vxor => exact execVxor_good hM
  | vshl => exact execVshl_good hM
  | vshr => exact execVshr_good hM
  | vpopc => exact execVpopc_good hM
  | vclz => exact execVclz_good hM
  | vfadd => exact execVfadd_good hM
  | vfsub => exact execVfsub_good hM
  | vfmul => exact execVfmul_good hM
  | vffma => exact execVffma_good hM
  | vffms => exact execVffms_good hM
  | vfdiv => exact execVfdiv_good hM
  | vfsqrt => exact execVfsqrt_good hM
  | vfmin => exact execVfmin_good hM
  | vfmax => exact execVfmax_good hM
  | vfexp2 => exact execVfexp2_good hM
  | vflog2 => exact execVflog2_good hM
  | vfrcp => exact execVfrcp_good hM
  | vfrsq => exact execVfrsq_good hM
  | vfabs => exact execVfabs_good hM
  | vfscale => exact execVfscale_good hM
  | vfdp2 => exact execVfdp2_good hM
  | vsel => exact execVsel_good hM
  | vcvt => exact execVcvt_good hM
  | vmov => exact execVmov_good hM
  | vbcast => exact execVbcast_good hM
  | vli => exact execVli_good hM
  | vlit => exact execVlit_good hM
  | vput => exact execVput_good hM
  | vpack => exact execVpack_good hM
  | vunpkl => exact execVunpkl_good hM
  | vunpkh => exact execVunpkh_good hM
  | fwpub => exact execFwpub_good hM
  | _ => exact finish_good (keeps_error (State.illegal_ok hM))

@[simp] theorem State.waveEnd_mem (s : State) (hdr : Dword) : (s.waveEnd hdr).mem = s.mem := by
  unfold State.waveEnd
  dsimp only
  repeat' split
  all_goals simp

theorem State.waveTrap_memOk {s : State} {hdr : Dword} {start : Option State} {t : TrapInfo} (hM : s.memOk)
    (h : OptKeeps State.memOk start) : (s.waveTrap hdr start t).memOk := by
  unfold State.waveTrap
  grind [State.trapEntry_memOk, State.setGrp_mem, State.takeTrap_memOk]

theorem State.waveBlock_memOk {s : State} {start : Option State} {b : Block} (hM : s.memOk)
    (h : OptKeeps State.memOk start) : (s.waveBlock start b).memOk := by
  unfold State.waveBlock
  grind [State.blockSlot_mem]

theorem State.waveFire_memOk {s : State} {hdr : Dword} {start : Option State} {f : Nat × Bool} (hM : s.memOk)
    (h : OptKeeps State.memOk start) : (s.waveFire hdr start f).memOk := by
  unfold State.waveFire
  grind [State.fire_memOk, State.waveTrap_memOk]

theorem State.waveWords_good {c : Clause} {start : Option State} (h : OptKeeps State.memOk start) (n : Nat) :
    ∀ {s : State}, s.memOk → Good (s.waveWords c start n) := by
  induction n with
  | zero => exact fun h => h
  | succ n ih =>
    intro s hM
    unfold State.waveWords
    have hf := State.wordFate_keeps (c := c) hM
    split
    · rename_i t s1 he
      rw [he] at hf
      split
      · exact State.waveFire_memOk hf h
      · exact State.waveTrap_memOk hM h
    · rename_i b s1 he
      rw [he] at hf
      exact State.waveBlock_memOk hf h
    · rename_i i s1 he
      rw [he] at hf
      split
      · exact State.waveFire_memOk hf h
      · have hr := rippleExec_good (i := i) hf
        split
        · rename_i s2 he2
          rw [he2] at hr
          grind [State.waveTrap_memOk, State.waveBlock_memOk, State.waveEnd_mem]
        · exact hr

theorem State.rippleAt_good {s : State} {ps : List Nat} (hM : s.memOk) :
    Good (s.rippleAt ps) := by
  unfold State.rippleAt
  grind [State.setSlot_mem, State.waveWords_good, State.blockSlot_mem]

theorem State.rippleGo_good {s : State} (hM : s.memOk) :
    Good s.rippleGo := by
  unfold State.rippleGo
  grind [State.clauseWords_keeps, finish_good, State.waveWords_good, State.enterClause_keeps, State.started_mem,
    Exc.started_ok, State.rippleAt_good]

theorem execRippleRound_good {s : State} {gid k : Nat} (hM : s.memOk) :
    Good (execRippleRound gid k s) := by
  unfold execRippleRound
  grind [State.rippleGo_good]

/-! ## Debug -/

theorem execBrk_good {s : State} {_n : BitVec 24} (hM : s.memOk) :
    Good (execBrk _n s) := by
  unfold execBrk
  grind [deliberate_good, State.retire_mem, finish_good, State.stopPart_memOk]

theorem execAddressComparatorFire_good {s : State} {gid k : Nat} (hM : s.memOk) :
    Good (execAddressComparatorFire gid k s) := by
  unfold execAddressComparatorFire
  grind [State.fire_memOk, State.fetchWord_keeps]

theorem execTraceSample_good {s : State} {part : Nat} (hM : s.memOk) :
    Good (execTraceSample part s) := by
  unfold execTraceSample
  grind [State.setPart_mem, State.record_memOk]

theorem refuse_memOk {s : State} {status : Nat} (hM : s.memOk) : (refuse s status).2.memOk := hM

theorem State.serveStop_memOk {s : State} {m : MaelubMsg} (hM : s.memOk) : (s.serveStop m).2.memOk := by
  unfold State.serveStop
  grind [State.stopPart_memOk, refuse_memOk, State.stopAgent_memOk]

theorem State.applyHeld_memOk {s : State} {n : Nat} (hM : s.memOk) :
    (s.applyHeld n).memOk := by
  unfold State.applyHeld
  grind [State.completeOp_memOk, State.landOld_mem]

theorem State.applyHold_memOk {s : State} {x : Stop} (hM : s.memOk) :
    (s.applyHold x).memOk := by
  unfold State.applyHold
  grind [State.applyHeld_memOk, foldl_memOk]

theorem State.flushHold_memOk {s : State} {part : Nat} {x : Stop} (hM : s.memOk) :
    (s.flushHold part x).memOk := by
  unfold State.flushHold
  grind [State.setPart_mem, State.applyHold_memOk]

theorem State.resumePart_memOk {s : State} {part : Nat} {x : Stop} {step : Option StepRun} (hM : s.memOk) :
    (s.resumePart part x step).memOk := by
  unfold State.resumePart
  grind [State.setPart_mem, State.applyHold_memOk, State.setGroup_mem, foldl_mem]

theorem State.resumeCore_memOk {s : State} {a : Agent} {x : Stop} {step : Option StepRun} (hM : s.memOk) :
    (s.resumeCore a x step).memOk := by
  unfold State.resumeCore
  grind [State.applyHold_memOk, State.setCore_mem]

theorem State.serveRun_memOk {s : State} {m : MaelubMsg} (hM : s.memOk) : (s.serveRun m).2.memOk := by
  unfold State.serveRun
  grind [State.resumeCore_memOk, refuse_memOk, State.resumePart_memOk]

theorem State.serveStep_memOk {s : State} {m : MaelubMsg} {req : Option Req} (hM : s.memOk) :
    (s.serveStep m req).2.memOk := by
  unfold State.serveStep
  grind [State.resumeCore_memOk, refuse_memOk, State.resumePart_memOk, State.flushHold_memOk]

theorem execMaelubStepTimeout_good {s : State} {pkg : Nat} (hM : s.memOk) :
    Good (execMaelubStepTimeout pkg s) := by
  unfold execMaelubStepTimeout
  grind [State.stopAgent_memOk]

theorem State.serveDump_memOk {s : State} {m : MaelubMsg} (hM : s.memOk) : (s.serveDump m).2.memOk := by
  unfold State.serveDump
  grind [refuse_memOk]

theorem State.debugXlate_keeps {s : State} {pkg ctx : Nat} {va : Dword} {k : AccKind} (hM : s.memOk) :
    OptKeeps (fun r => r.2.memOk) (s.debugXlate pkg ctx va k) := by
  unfold State.debugXlate
  grind [State.xlate_mem]

theorem State.debugKeys_keeps {s : State} {pkg ctx : Nat} {k : AccKind} {n : Nat} {va : Dword} (hM : s.memOk) :
    OptKeeps (fun r => r.2.memOk) (s.debugKeys pkg ctx k n va) := by
  induction n generalizing s va with
  | zero => exact hM
  | succ n ih =>
    unfold State.debugKeys
    exact optKeeps_bind (State.debugXlate_keeps hM) fun r hr => optKeeps_bind (ih hr) fun r hr => hr

theorem State.serveRdmem_memOk {s : State} {m : MaelubMsg} (hM : s.memOk) : (s.serveRdmem m).2.memOk := by
  unfold State.serveRdmem
  grind [State.debugKeys_keeps, refuse_memOk]

theorem State.putRun_memOk {s : State} {org : BitVec 16} {l : List (Nat × Byte)} {n : Nat} (hM : s.memOk) :
    (s.putRun org l n).memOk := by
  induction n generalizing s l with
  | zero => cases l <;> exact hM
  | succ n ih =>
    cases l with
    | nil => exact hM
    | cons e l =>
      unfold State.putRun
      dsimp only
      split
      · exact ih (State.putBytes_memOk _ _ _ _ hM)
      · exact ih (State.putBytes_memOk _ _ _ _ hM)

theorem State.serveWrmem_memOk {s : State} {m : MaelubMsg} (hM : s.memOk) : (s.serveWrmem m).2.memOk := by
  unfold State.serveWrmem
  grind [State.putRun_memOk, State.debugKeys_keeps, refuse_memOk]

theorem State.serveRdsr_memOk {s : State} {m : MaelubMsg} (hM : s.memOk) : (s.serveRdsr m).2.memOk := by
  unfold State.serveRdsr
  grind [refuse_memOk]

theorem State.serveWrsr_memOk {s : State} {m : MaelubMsg} (hM : s.memOk) : (s.serveWrsr m).2.memOk := by
  unfold State.serveWrsr
  grind [State.srWrite_keeps, refuse_memOk]

theorem State.writeStopped_memOk {s : State} {a : Agent} {cls reg lane : Nat} {v : Dword} (hM : s.memOk) :
    (s.writeStopped a cls reg lane v).2.memOk := by
  unfold State.writeStopped
  grind [State.setGroup_mem, State.postLost_memOk, State.writeS_mem, refuse_memOk, State.setHart_mem]

theorem State.serveWrreg_memOk {s : State} {m : MaelubMsg} (hM : s.memOk) : (s.serveWrreg m).2.memOk := by
  unfold State.serveWrreg
  grind [State.writeStopped_memOk, refuse_memOk]

theorem State.serveStatus_memOk {s : State} {m : MaelubMsg} (hM : s.memOk) : (s.serveStatus m).2.memOk := hM

theorem State.serve_memOk {s : State} {m : MaelubMsg} {req : Option Req} (hM : s.memOk) :
    (s.serve m req).2.memOk := by
  unfold State.serve
  grind [State.serveRun_memOk, State.serveDump_memOk, State.serveWrreg_memOk, State.serveStop_memOk,
    State.serveWrsr_memOk, State.serveStatus_memOk, State.serveWrmem_memOk, refuse_memOk, State.serveStep_memOk,
    State.serveRdmem_memOk, State.serveRdsr_memOk]

theorem State.maelub_good {s : State} {m : MaelubMsg} {op : Nat} (hM : s.memOk) :
    Good (s.maelub m op) := by
  unfold State.maelub
  grind [State.serve_memOk, State.sendMaelub_mem]

theorem execMaelubStop_good {s : State} {m : MaelubMsg} (hM : s.memOk) :
    Good (execMaelubStop m s) := State.maelub_good hM

theorem execMaelubRun_good {s : State} {m : MaelubMsg} (hM : s.memOk) :
    Good (execMaelubRun m s) := State.maelub_good hM

theorem execMaelubStep_good {s : State} {m : MaelubMsg} (hM : s.memOk) :
    Good (execMaelubStep m s) := State.maelub_good hM

theorem execMaelubDump_good {s : State} {m : MaelubMsg} (hM : s.memOk) :
    Good (execMaelubDump m s) := State.maelub_good hM

theorem execMaelubRdmem_good {s : State} {m : MaelubMsg} (hM : s.memOk) :
    Good (execMaelubRdmem m s) := State.maelub_good hM

theorem execMaelubWrmem_good {s : State} {m : MaelubMsg} (hM : s.memOk) :
    Good (execMaelubWrmem m s) := State.maelub_good hM

theorem execMaelubRdsr_good {s : State} {m : MaelubMsg} (hM : s.memOk) :
    Good (execMaelubRdsr m s) := State.maelub_good hM

theorem execMaelubWrsr_good {s : State} {m : MaelubMsg} (hM : s.memOk) :
    Good (execMaelubWrsr m s) := State.maelub_good hM

theorem execMaelubWrreg_good {s : State} {m : MaelubMsg} (hM : s.memOk) :
    Good (execMaelubWrreg m s) := State.maelub_good hM

theorem execMaelubStatus_good {s : State} {m : MaelubMsg} (hM : s.memOk) :
    Good (execMaelubStatus m s) := by
  unfold execMaelubStatus
  grind [State.maelub_good]

/-! ## The regroup unit -/

theorem State.dieAccess_keeps {s : State} {va : Dword} {n align : Nat} {k : AccKind} (hM : s.memOk) :
    Keeps ExcOk (fun r => r.2.memOk) (s.dieAccess va n align k) := by
  unfold State.dieAccess
  grind [State.trapAt_ok, State.scalarAccess_keeps]

theorem State.regroupSet_keeps {s : State} {va : Dword} (hM : s.memOk) :
    Keeps ExcOk (fun r => r.2.2.memOk) (s.regroupSet va) :=
  keeps_bind (State.dieAccess_keeps hM) fun _ h1 => keeps_bind (State.cleanAt_keeps h1) fun _ _ =>
    keeps_bind (guardRes_keeps (State.trapAt_ok h1)) fun _ _ => State.memOk_of_mem (by simp) h1

theorem State.formGroup_memOk {s : State} {r : RegroupSet} {desc bucket : Nat} {stage : List Nat} {q lanes : Nat}
    (hM : s.memOk) :
    (s.formGroup r desc bucket stage q lanes).memOk := by
  unfold State.formGroup
  grind [State.fresh_memOk, State.append_mem, State.putBytes_memOk]

theorem State.stageBlocks_keeps {s : State} {va : Dword} {n : Nat} (hM : s.memOk) :
    Keeps ExcOk (fun r => r.2.memOk) (s.stageBlocks va n) := by
  induction n generalizing s va with
  | zero => exact hM
  | succ n ih =>
    unfold State.stageBlocks
    have hx := State.xlate_mem s s.thread va .write
    split
    · exact keeps_error (State.trapAt_ok hM)
    · split
      · rename_i l s1 he
        rw [he] at hx
        exact keeps_bind (ih (State.memOk_of_mem hx hM)) fun r hr => hr
      · exact keeps_error (State.trapAt_ok hM)

theorem State.stageArea_keeps {s : State} {r : RegroupSet} {st : Dword} (hM : s.memOk) :
    Keeps ExcOk (fun r => r.2.memOk) (s.stageArea r st) :=
  keeps_bind (guardRes_keeps (State.trapAt_ok hM)) fun _ _ => State.stageBlocks_keeps hM

theorem State.stageLane_memOk {s : State} {r : RegroupSet} {words : List (List Word)} {stage : List Nat} {lane i : Nat}
    (hM : s.memOk) :
    (s.stageLane r words stage lane i).memOk := by
  unfold State.stageLane
  grind [State.putBytes_memOk, foldl_memOk]

theorem Exc.withDone_ok {x : Deal} {dealt : Lanes} {e : Exc} (h : ExcOk e) : ExcOk (e.withDone x dealt) := by
  unfold Exc.withDone
  grind [State.setSlot_mem]

theorem State.dealLane_keeps {s : State} {x : Deal} {lane : Nat} (hM : s.memOk) :
    Keeps ExcOk State.memOk (s.dealLane x lane) := by
  unfold State.dealLane
  refine State.atomicStep_keeps hM (keeps_bind (State.dieAccess_keeps hM) ?_)
  rintro ⟨e, s1⟩ (h1 : s1.memOk)
  refine keeps_bind (State.cleanAt_keeps h1) fun _ _ => ?_
  extract_lets w st i
  clear_value w st i
  refine keeps_bind (guardRes_keeps hM) fun _ _ => keeps_bind (State.stageArea_keeps h1) ?_
  rintro ⟨m, s2⟩ (h2 : s2.memOk)
  dsimp -zeta only
  extract_lets s3
  have h3 : s3.memOk := State.memOk_of_mem (State.post_mem ..) (State.stageLane_memOk h2)
  clear_value s3
  split
  · exact State.formGroup_memOk (State.putBytes_memOk _ _ _ _ h3)
  · exact State.putBytes_memOk _ _ _ _ h3

theorem State.dealAll_keeps {s : State} {x : Deal} {dealt : Lanes} {l : List Nat} (hM : s.memOk) :
    Keeps ExcOk State.memOk (s.dealAll x dealt l) := by
  induction l generalizing s dealt with
  | nil => exact hM
  | cons lane rest ih =>
    unfold State.dealAll
    have hl := State.dealLane_keeps (x := x) (lane := lane) hM
    split
    · rename_i t he
      rw [he] at hl
      exact ih hl
    · rename_i e he
      rw [he] at hl
      exact keeps_error (Exc.withDone_ok hl)

theorem State.dealRead_keeps {s : State} {d a b : BitVec 8} (hM : s.memOk) :
    Keeps ExcOk (fun r => r.2.memOk) (s.dealRead d a b) :=
  keeps_bind (State.vcheck_keeps hM) fun _ _ => keeps_bind (State.regroupSet_keeps hM) fun _ hr =>
    keeps_bind (State.needRegs_keeps hr) fun _ _ => keeps_bind (State.need_keeps hr) fun _ _ =>
      keeps_bind (State.needClean_keeps hr) fun _ _ => hr

theorem execRgdeal_good {s : State} {d a b : BitVec 8} (hM : s.memOk) :
    Good (execRgdeal d a b s) := by
  unfold execRgdeal
  grind [State.retire_mem, State.dealAll_keeps, finish_good, State.examined_memOk, State.endLanes_mem,
    State.setSlot_mem, State.writeS_mem, State.dealRead_keeps, bind_eq]

theorem State.closeOne_keeps {s : State} {x : Deal} {q : Nat} (hM : s.memOk) :
    Keeps ExcOk (fun r => r.2.memOk) (s.closeOne x q) := by
  refine keeps_bind (State.dieAccess_keeps hM) ?_
  rintro ⟨e, s1⟩ (h1 : s1.memOk)
  refine keeps_bind (State.cleanAt_keeps h1) fun _ _ => ?_
  extract_lets w c
  generalize BitVec.ofNat 64 (s1.bytesAt (e.key + 8) 8) = st
  clear_value w c
  refine keeps_bind (guardRes_keeps hM) fun _ _ => ?_
  split
  · exact h1
  · refine keeps_bind (State.stageArea_keeps h1) ?_
    rintro ⟨m, s2⟩ (h2 : s2.memOk)
    refine keeps_bind (State.atomicStep_keeps h2 ?_) fun t ht => ht
    exact State.formGroup_memOk (State.putBytes_memOk _ _ _ _ h2)

theorem Exc.closing_ok {x : Deal} {q n : Nat} {e : Exc} (h : ExcOk e) : ExcOk (e.closing x q n) := by
  unfold Exc.closing
  grind [State.setSlot_mem]

theorem State.closeFrom_keeps {s : State} {x : Deal} {fuel k n : Nat} (hM : s.memOk) :
    Keeps ExcOk (fun r => r.2.memOk) (s.closeFrom x fuel k n) := by
  induction n generalizing s fuel k with
  | zero => exact hM
  | succ n ih =>
    unfold State.closeFrom
    have hc := State.closeOne_keeps (x := x) (q := fuel) hM
    split
    · rename_i e he
      rw [he] at hc
      exact keeps_error (Exc.closing_ok hc)
    · rename_i m t he
      rw [he] at hc
      exact ih hc

theorem State.closeRead_keeps {s : State} {d a : BitVec 8} (hM : s.memOk) :
    Keeps ExcOk (fun r => r.2.memOk) (s.closeRead d a) :=
  keeps_bind (State.need_keeps hM) fun _ _ => keeps_bind (State.regroupSet_keeps hM) fun _ hr =>
    keeps_bind (State.needRegs_keeps hr) fun _ _ => hr

theorem execRgclose_good {s : State} {d a : BitVec 8} (hM : s.memOk) :
    Good (execRgclose d a s) := by
  unfold execRgclose
  grind [State.retire_mem, finish_good, State.closeRead_keeps, State.writeS_mem, State.closeFrom_keeps, bind_eq]

/-! ## The request protocol -/

theorem State.placePieces_keeps {s : State} {w : Who} {l : List (Dword × List Byte)} (hM : s.memOk) :
    OptKeeps (fun r => r.2.memOk) (s.placePieces w l) := by
  induction l generalizing s with
  | nil => exact hM
  | cons e rest ih =>
    obtain ⟨va, l⟩ := e
    unfold State.placePieces
    have hx := State.xlate_mem s w va .write
    split
    · rename_i y t he
      rw [he] at hx
      exact optKeeps_map (ih (State.memOk_of_mem hx hM)) fun _ h => h
    · trivial

theorem State.writeWhole_keeps {s : State} {w : Who} {va : Dword} {l : List Byte} {origin : BitVec 16} (hM : s.memOk) :
    OptKeeps State.memOk (s.writeWhole w va l origin) := by
  unfold State.writeWhole
  grind [State.placePieces_keeps, State.putBytes_memOk, foldl_memOk]

theorem State.portArrival_keeps {s : State} {pkg ctx port : Nat} {va : Dword} {l : List Byte} (hM : s.memOk) :
    OptKeeps State.memOk (s.portArrival pkg ctx port va l) := by
  unfold State.portArrival
  grind [State.setCtx_mem, State.writeWhole_keeps]

theorem State.portRead_keeps {s : State} {w : Who} {va : Dword} {n : Nat} (hM : s.memOk) :
    OptKeeps (fun r => r.2.memOk) (s.portRead w va n) := by
  induction n generalizing s va with
  | zero => exact hM
  | succ n ih =>
    unfold State.portRead
    have hx := State.xlate_mem s w va .read
    split
    · rename_i y t he
      rw [he] at hx
      split
      · trivial
      · exact optKeeps_map (ih (State.memOk_of_mem hx hM)) fun _ h => h
    · trivial

theorem State.ringRequest_keeps {s : State} {pkg port : Nat} {bytes : List Byte} (hM : s.memOk) :
    OptKeeps State.memOk (s.ringRequest pkg port bytes) := by
  unfold State.ringRequest
  grind [State.setPkg_mem, State.wakeSys_mem, State.portArrival_keeps]

theorem execRequestSlotWrite_good {s : State} {x : Arrival} {bytes : List Byte} (hM : s.memOk) :
    Good (execRequestSlotWrite x bytes s) := by
  unfold execRequestSlotWrite
  grind [State.ringRequest_keeps, State.setPkg_mem]

theorem State.deny_memOk {s : State} {status : Nat} (hM : s.memOk) :
    (s.deny status).state.memOk := hM

@[simp] theorem State.tookTurn_mem (s : State) (r : Req) : (s.tookTurn r).mem = s.mem := by
  unfold State.tookTurn
  repeat' split
  all_goals simp

theorem Reply.out_good {x : Reply} {r : Req} (h : x.state.memOk) : Good (x.out r) := by
  unfold Reply.out
  grind [State.tookTurn_mem, State.send_mem]

theorem State.request_good {s : State} {r : Req} {op : Nat} {f : Reply} (hM : s.memOk) (h : f.state.memOk) :
    Good (s.request r op f) := by
  unfold State.request
  grind [Reply.out_good, State.deny_memOk]

theorem State.givePages_keeps {s : State} {pkg die ctx n : Nat} (hM : s.memOk) :
    OptKeeps (fun r => r.2.memOk) (s.givePages pkg die ctx n) := by
  unfold State.givePages
  grind [State.setPkg_mem]

theorem State.zeroRange_memOk {s : State} {key n : Nat} (hM : s.memOk) :
    (s.zeroRange key n).memOk := Memory.wf_filter _ hM

theorem State.giveTable_keeps {s : State} {pkg ctx : Nat} (hM : s.memOk) :
    OptKeeps (fun r => r.2.memOk) (s.giveTable pkg ctx) := by
  refine optKeeps_bind (State.givePages_keeps hM) fun r hr => ?_
  cases r.1.head? with
  | none => trivial
  | some p => exact State.zeroRange_memOk hr

theorem State.giveRoot_memOk {s : State} {pkg ctx : Nat} (hM : s.memOk) :
    ∀ r, s.giveRoot pkg ctx = some r → r.2.memOk := by
  intro r h
  unfold State.giveRoot at h
  extract_lets p base free at h
  obtain ⟨i, -, hi⟩ := Option.map_eq_some_iff.1 h
  rw [← hi]
  exact State.zeroRange_memOk (State.memOk_of_mem (State.setPkg_mem ..) hM)

theorem State.putEntry_memOk {s : State} {key e : Nat} (hM : s.memOk) :
    (s.putEntry key e).memOk := by
  unfold State.putEntry
  grind [State.putBytes_memOk]

theorem State.leafTable_memOk {pkg ctx va : Nat} (n : Nat) : ∀ {s : State} {table : Nat}, s.memOk →
    ∀ r, s.leafTable pkg ctx table va n = some r → r.2.memOk := by
  induction n with
  | zero =>
    intro s table hM r hr
    rw [← Option.some.inj hr]
    exact hM
  | succ n ih =>
    intro s table hM r hr
    unfold State.leafTable at hr
    dsimp only at hr
    split at hr
    · exact ih hM r hr
    · obtain ⟨q, hq, h⟩ := Option.bind_eq_some_iff.1 hr
      exact ih (State.putEntry_memOk (optKeeps_some (P := fun r => r.2.memOk) (State.giveTable_keeps hM) hq)) r h

theorem State.mapPage_memOk {s : State} {pkg ctx va page flags : Nat} (hM : s.memOk) :
    ∀ t, s.mapPage pkg ctx va page flags = some t → t.memOk := by
  intro t h
  unfold State.mapPage at h
  obtain ⟨r, hr, rfl⟩ := Option.map_eq_some_iff.1 h
  exact State.putEntry_memOk (State.leafTable_memOk _ hM r hr)

theorem State.mapPages_memOk {pkg ctx flags : Nat} (ps : List Nat) : ∀ {s : State} {va : Nat}, s.memOk →
    ∀ t, s.mapPages pkg ctx va flags ps = some t → t.memOk := by
  induction ps with
  | nil =>
    intro s va hM t ht
    rw [← Option.some.inj ht]
    exact hM
  | cons p ps ih =>
    intro s va hM t ht
    obtain ⟨s1, h1, h2⟩ := Option.bind_eq_some_iff.1 ht
    exact ih (State.mapPage_memOk hM s1 h1) t h2

theorem State.unmapPage_memOk {s : State} {pkg ctx va : Nat} (hM : s.memOk) :
    (s.unmapPage pkg ctx va).memOk := by
  unfold State.unmapPage
  grind [State.putEntry_memOk, State.setPkg_mem]

@[simp] theorem State.flushRange_mem (s : State) (pkg ctx va len : Nat) : (s.flushRange pkg ctx va len).mem = s.mem :=
  rfl

theorem State.onAll_keeps {s : State} {f : State → Nat → Option State} {l : List Nat} (hM : s.memOk)
    (h : ∀ t p, t.memOk → OptKeeps State.memOk (f t p)) : OptKeeps State.memOk (s.onAll f l) := by
  induction l generalizing s with
  | nil => exact hM
  | cons p ps ih =>
    unfold State.onAll
    exact optKeeps_bind (h s p hM) fun _ ht => ih ht

theorem State.openOn_memOk {s : State} {ctx : Nat} {key : BitVec 58} {members : List Nat} {pkg : Nat} (hM : s.memOk) :
    ∀ t, s.openOn ctx key members pkg = some t → t.memOk := by
  intro t h
  obtain ⟨r, hr, rfl⟩ := Option.map_eq_some_iff.1 h
  exact State.memOk_of_mem (State.setCtx_mem ..) (State.giveRoot_memOk hM r hr)

theorem State.serveOpen_memOk {s : State} {r : Req} (hM : s.memOk) :
    (s.serveOpen r).2.2.2.memOk := by
  unfold State.serveOpen
  grind [State.openOn_memOk, State.onAll_keeps]

theorem execReqOpen_good {s : State} {r : Req} (hM : s.memOk) :
    Good (execReqOpen r s) := by
  unfold execReqOpen
  grind [State.serveOpen_memOk, Reply.out_good, State.deny_memOk, State.tookTurn_mem, State.send_mem]

@[simp] theorem State.endContext_mem (s : State) (pkg ctx : Nat) :
    (s.endContext pkg ctx).mem = s.mem := by simp [State.endContext]

theorem execReqClose_good {s : State} {r : Req} (hM : s.memOk) :
    Good (execReqClose r s) := by
  unfold execReqClose
  grind [State.endContext_mem, State.request_good, foldl_mem]

@[simp] theorem State.flushAll_mem (s : State) (r : Req) : (s.flushAll r).mem = s.mem := by
  unfold State.flushAll
  grind [State.flushRange_mem, foldl_mem]

theorem State.serveMap_memOk {s : State} {r : Req} (hM : s.memOk) :
    (s.serveMap r).state.memOk := by
  unfold State.serveMap
  have hp : ∀ (ps : List Nat) (t : State) p, t.memOk →
      OptKeeps State.memOk (t.mapPages p r.ctx r.addr.toNat r.arg0.toNat ps) :=
    fun ps t p h => optKeeps_of_some (State.mapPages_memOk ps h)
  grind [State.onAll_keeps, State.flushAll_mem, State.givePages_keeps, State.deny_memOk]

theorem execReqMap_good {s : State} {r : Req} (hM : s.memOk) :
    Good (execReqMap r s) := by
  unfold execReqMap
  grind [State.serveMap_memOk, State.request_good]

theorem State.serveUnmap_memOk {s : State} {r : Req} (hM : s.memOk) :
    (s.serveUnmap r).state.memOk := by
  unfold State.serveUnmap
  grind [State.flushAll_mem, State.unmapPage_memOk, State.deny_memOk, foldl_memOk]

theorem execReqUnmap_good {s : State} {r : Req} (hM : s.memOk) :
    Good (execReqUnmap r s) := by
  unfold execReqUnmap
  grind [State.serveUnmap_memOk, State.request_good]

theorem State.placeSections_keeps {s : State} {pkg ctx : Nat} {l : List (Dword × List Byte)} (hM : s.memOk) :
    OptKeeps State.memOk (s.placeSections pkg ctx l) := by
  induction l generalizing s with
  | nil => exact hM
  | cons e rest ih =>
    unfold State.placeSections
    exact optKeeps_bind (State.writeWhole_keeps hM) fun _ h => ih h

theorem State.serveLoad_memOk {s : State} {r : Req} (hM : s.memOk) :
    (s.serveLoad r).state.memOk := by
  unfold State.serveLoad
  grind [State.onAll_keeps, State.placeSections_keeps, State.portRead_keeps, State.deny_memOk]

theorem execReqLoad_good {s : State} {r : Req} (hM : s.memOk) :
    Good (execReqLoad r s) := by
  unfold execReqLoad
  grind [State.serveLoad_memOk, State.request_good]

@[simp] theorem State.openQueue_mem (s : State) (pkg ctx q : Nat) (x : Queue) : (s.openQueue pkg ctx q x).mem = s.mem :=
  rfl

theorem State.serveQueue_memOk {s : State} {r : Req} (hM : s.memOk) :
    (s.serveQueue r).state.memOk := by
  unfold State.serveQueue
  grind [State.openQueue_mem, State.deny_memOk, foldl_mem]

theorem execReqQueue_good {s : State} {r : Req} (hM : s.memOk) :
    Good (execReqQueue r s) := by
  unfold execReqQueue
  grind [State.serveQueue_memOk, State.request_good]

@[simp] theorem State.enqueueAll_mem (s : State) (ls : List Launch) : (s.enqueueAll ls).mem = s.mem := by
  unfold State.enqueueAll
  grind [State.enqueue_mem, foldl_mem]

theorem State.readHeader_keeps {s : State} {r : Req} (hM : s.memOk) :
    OptKeeps (fun r => r.2.memOk) (s.readHeader r) := by
  unfold State.readHeader
  grind [State.portRead_keeps]

theorem State.serveLaunch_memOk {s : State} {r : Req} (hM : s.memOk) :
    (s.serveLaunch r).state.memOk := by
  unfold State.serveLaunch
  grind [State.setPkg_mem, State.deny_memOk, State.enqueueAll_mem, State.readHeader_keeps]

theorem execReqLaunch_good {s : State} {r : Req} (hM : s.memOk) :
    Good (execReqLaunch r s) := by
  unfold execReqLaunch
  grind [State.serveLaunch_memOk, State.request_good]

theorem execReqWait_good {s : State} {r : Req} (hM : s.memOk) :
    Good (execReqWait r s) := by
  unfold execReqWait
  grind [State.request_good, State.setPkg_mem, State.deny_memOk, State.tookTurn_mem]

theorem State.serveQuantum_memOk {s : State} {r : Req} (hM : s.memOk) :
    (s.serveQuantum r).state.memOk := by
  unfold State.serveQuantum
  grind [State.setQuantum_mem, State.deny_memOk, foldl_mem]

theorem execReqQuantum_good {s : State} {r : Req} (hM : s.memOk) :
    Good (execReqQuantum r s) := by
  unfold execReqQuantum
  grind [State.serveQuantum_memOk, State.request_good]

theorem State.serveRead_memOk {s : State} {r : Req} (hM : s.memOk) :
    (s.serveRead r).state.memOk := by
  unfold State.serveRead
  grind [State.portRead_keeps, State.deny_memOk]

theorem execReqRead_good {s : State} {r : Req} (hM : s.memOk) :
    Good (execReqRead r s) := by
  unfold execReqRead
  grind [State.request_good, State.serveRead_memOk]

theorem State.serveWrite_memOk {s : State} {r : Req} (hM : s.memOk) :
    (s.serveWrite r).state.memOk := by
  unfold State.serveWrite
  grind [State.deny_memOk, State.portArrival_keeps]

theorem execReqWrite_good {s : State} {r : Req} (hM : s.memOk) :
    Good (execReqWrite r s) := by
  unfold execReqWrite
  grind [State.serveWrite_memOk, State.request_good]

theorem State.serveFmt_memOk {s : State} {r : Req} (hM : s.memOk) :
    (s.serveFmt r).state.memOk := by
  unfold State.serveFmt
  grind [State.deny_memOk, State.setCtx_mem, foldl_mem]

theorem execReqFmt_good {s : State} {r : Req} (hM : s.memOk) :
    Good (execReqFmt r s) := by
  unfold execReqFmt
  grind [State.serveFmt_memOk, State.request_good]

theorem State.serveReserve_memOk {s : State} {r : Req} (hM : s.memOk) :
    (s.serveReserve r).state.memOk := by
  unfold State.serveReserve
  grind [State.setPkg_mem, State.deny_memOk]

theorem execReqReserve_good {s : State} {r : Req} (hM : s.memOk) :
    Good (execReqReserve r s) := by
  unfold execReqReserve
  grind [State.serveReserve_memOk, State.request_good]

theorem State.serveSuspend_memOk {s : State} {r : Req} (hM : s.memOk) :
    (s.serveSuspend r).state.memOk := by
  unfold State.serveSuspend
  grind [execContextSuspend_good, stateOf_memOk, execContextResume_good, State.deny_memOk, foldl_memOk]

theorem execReqSuspend_good {s : State} {r : Req} (hM : s.memOk) :
    Good (execReqSuspend r s) := by
  unfold execReqSuspend
  grind [State.serveSuspend_memOk, State.request_good]

theorem execReqDebug_good {s : State} {r : Req} (hM : s.memOk) :
    Good (execReqDebug r s) := by
  unfold execReqDebug
  grind [State.serve_memOk, State.request_good, State.deny_memOk, State.tookTurn_mem]

theorem State.serveSlice_memOk {s : State} {r : Req} (hM : s.memOk) :
    (s.serveSlice r).state.memOk := by
  unfold State.serveSlice
  grind [State.tagSelected_keeps, State.deny_memOk]

theorem execReqSlice_good {s : State} {r : Req} (hM : s.memOk) :
    Good (execReqSlice r s) := by
  unfold execReqSlice
  grind [State.request_good, State.serveSlice_memOk]

theorem State.serveBoard_memOk {s : State} {r : Req} (hM : s.memOk) :
    (s.serveBoard r).state.memOk := by
  unfold State.serveBoard
  grind [State.allotWindow_keeps, State.deny_memOk]

theorem execReqBoard_good {s : State} {r : Req} (hM : s.memOk) :
    Good (execReqBoard r s) := by
  unfold execReqBoard
  grind [State.serveBoard_memOk, State.request_good]

/-! ## Modes, format entries and scalar floating point -/

@[simp] theorem State.setMd_mem (s : State) (m : ModeWord) : (s.setMd m).mem = s.mem := by simp [State.setMd]

theorem execSetmode_good {s : State} {x : BitVec 24} (hM : s.memOk) :
    Good (execSetmode x s) :=
  finish_good <| keeps_bind (guardRes_keeps (State.illegal_ok hM)) fun _ _ => State.memOk_of_mem (by simp) hM

theorem execModeone_good {s : State} {x : BitVec 24} (hM : s.memOk) :
    Good (execModeone x s) :=
  finish_good <| keeps_bind (guardRes_keeps (State.illegal_ok hM)) fun _ _ => State.memOk_of_mem (by simp) hM

theorem execRdmode_good {s : State} {d : BitVec 8} (hM : s.memOk) :
    Good (execRdmode d s) := finish_good (scalarOp_keeps hM)

theorem execWrmode_good {s : State} {a : BitVec 8} (hM : s.memOk) :
    Good (execWrmode a s) :=
  finish_good <| keeps_bind (State.need_keeps hM) fun _ _ =>
    keeps_bind (guardRes_keeps (State.illegal_ok hM)) fun _ _ => State.memOk_of_mem (by simp) hM

@[simp] theorem State.setFmt_mem (s : State) (k : Nat) (x : Dword) : (s.setFmt k x).mem = s.mem := rfl

theorem execFmtset_good {s : State} {a b : BitVec 8} (hM : s.memOk) :
    Good (execFmtset a b s) :=
  finish_good <| keeps_bind (State.need_keeps hM) fun _ _ =>
    keeps_bind (guardRes_keeps (State.fmtFault_ok hM)) fun _ _ =>
    keeps_bind (guardRes_keeps (State.fmtFault_ok hM)) fun _ _ => State.memOk_of_mem (by simp) hM

theorem execFmtget_good {s : State} {d a : BitVec 8} (hM : s.memOk) :
    Good (execFmtget d a s) := finish_good (scalarOp_keeps hM)

theorem State.scalarFmt_keeps {s : State} {k : Nat} (hM : s.memOk) :
    Keeps ExcOk (fun _ => True) (s.scalarFmt k) := by
  unfold State.scalarFmt
  grind [State.fmtFault_ok]

theorem sfArith_good {s : State} {d : BitVec 8} {srcs : List (BitVec 8)} {f : Fmt → ModeWord → List Val → Nat}
    (hM : s.memOk) :
    Good (sfArith d srcs f s) :=
  finish_good <| keeps_bind (State.need_keeps hM) fun _ _ => keeps_bind (State.needRound_keeps hM) fun _ _ =>
    keeps_bind (State.scalarFmt_keeps hM) fun _ _ => keeps_bind (State.scalarFmt_keeps hM) fun _ _ =>
      State.memOk_of_mem ((State.retire_mem ..).trans (State.writeS_mem ..)) hM

theorem sfRound_good {s : State} {srcs : List (BitVec 8)} {op : Nat → List Val → Val} {d : BitVec 8} (hM : s.memOk) :
    Good (sfRound srcs op d s) := sfArith_good hM

theorem execSfadd_good {s : State} {d a b : BitVec 8} (hM : s.memOk) :
    Good (execSfadd d a b s) := sfRound_good hM

theorem execSfsub_good {s : State} {d a b : BitVec 8} (hM : s.memOk) :
    Good (execSfsub d a b s) := sfRound_good hM

theorem execSfmul_good {s : State} {d a b : BitVec 8} (hM : s.memOk) :
    Good (execSfmul d a b s) := sfRound_good hM

theorem execSffma_good {s : State} {d a b : BitVec 8} (hM : s.memOk) :
    Good (execSffma d a b s) := sfRound_good hM

theorem execSfdiv_good {s : State} {d a b : BitVec 8} (hM : s.memOk) :
    Good (execSfdiv d a b s) := sfRound_good hM

theorem execSfmin_good {s : State} {d a b : BitVec 8} (hM : s.memOk) :
    Good (execSfmin d a b s) := sfRound_good hM

theorem execSfmax_good {s : State} {d a b : BitVec 8} (hM : s.memOk) :
    Good (execSfmax d a b s) := sfRound_good hM

theorem execSfsqrt_good {s : State} {d a : BitVec 8} (hM : s.memOk) :
    Good (execSfsqrt d a s) := sfRound_good hM

theorem execSfexp2_good {s : State} {d a : BitVec 8} (hM : s.memOk) :
    Good (execSfexp2 d a s) := sfArith_good hM

theorem execSfcmp_good {s : State} {d a b : BitVec 8} (hM : s.memOk) :
    Good (execSfcmp d a b s) :=
  finish_good <| keeps_bind (State.need_keeps hM) fun _ _ => keeps_bind (State.scalarFmt_keeps hM) fun _ _ =>
    State.memOk_of_mem (by simp) hM

theorem execSfclass_good {s : State} {d a : BitVec 8} (hM : s.memOk) :
    Good (execSfclass d a s) :=
  finish_good <| keeps_bind (State.need_keeps hM) fun _ _ => keeps_bind (State.scalarFmt_keeps hM) fun _ _ =>
    State.memOk_of_mem (by simp) hM

theorem execSfcvt_good {s : State} {d a : BitVec 8} (hM : s.memOk) :
    Good (execSfcvt d a s) :=
  finish_good <| keeps_bind (State.need_keeps hM) fun _ _ => keeps_bind (State.sf_keeps hM) fun _ _ =>
    keeps_bind (State.df_keeps hM) fun _ _ => State.memOk_of_mem ((State.retire_mem ..).trans (State.writeS_mem ..)) hM

/-! ## The dispatch -/

theorem exec_good_of_instruction {i : Instr} {s : State} (hi : isEvent i = false) (hM : s.memOk) : Good (exec i s) := by
  cases i with
  | nop => exact execNop_good hM
  | br => exact execBr_good hM
  | bz => exact execBz_good hM
  | bnz => exact execBnz_good hM
  | bltz => exact execBltz_good hM
  | bgez => exact execBgez_good hM
  | call => exact execCall_good hM
  | jr => exact execJr_good hM
  | callr => exact execCallr_good hM
  | bsplit => exact execBsplit_good hM
  | bmerge => exact execBmerge_good hM
  | bany => exact execBany_good hM
  | ball => exact execBall_good hM
  | exit => exact execExit_good hM
  | waitc => exact execWaitc_good hM
  | trap n => exact execTrap_good (_n := n) hM
  | sadd => exact execSadd_good hM
  | ssub => exact execSsub_good hM
  | smul => exact execSmul_good hM
  | smulh => exact execSmulh_good hM
  | smulhn => exact execSmulhn_good hM
  | sdiv => exact execSdiv_good hM
  | sdivn => exact execSdivn_good hM
  | srem => exact execSrem_good hM
  | sremn => exact execSremn_good hM
  | sand => exact execSand_good hM
  | sor => exact execSor_good hM
  | sxor => exact execSxor_good hM
  | sshl => exact execSshl_good hM
  | sshr => exact execSshr_good hM
  | ssar => exact execSsar_good hM
  | ssel => exact execSsel_good hM
  | sli => exact execSli_good hM
  | slih => exact execSlih_good hM
  | slit => exact execSlit_good hM
  | saddi => exact execSaddi_good hM
  | sandi => exact execSandi_good hM
  | sshli => exact execSshli_good hM
  | sshri => exact execSshri_good hM
  | ssari => exact execSsari_good hM
  | seq => exact execSeq_good hM
  | slt => exact execSlt_good hM
  | sltn => exact execSltn_good hM
  | smin => exact execSmin_good hM
  | smax => exact execSmax_good hM
  | sclz => exact execSclz_good hM
  | spopc => exact execSpopc_good hM
  | sbfx => exact execSbfx_good hM
  | sld8 => exact execSld8_good hM
  | sld16 => exact execSld16_good hM
  | sld32 => exact execSld32_good hM
  | sld64 => exact execSld64_good hM
  | sst8 => exact execSst8_good hM
  | sst16 => exact execSst16_good hM
  | sst32 => exact execSst32_good hM
  | sst64 => exact execSst64_good hM
  | sldx => exact execSldx_good hM
  | sstx => exact execSstx_good hM
  | srsr => exact execSrsr_good hM
  | swsr => exact execSwsr_good hM
  | splace => exact execSplace_good hM
  | sfadd => exact execSfadd_good hM
  | sfmul => exact execSfmul_good hM
  | sffma => exact execSffma_good hM
  | vadd => exact execVadd_good hM
  | vsub => exact execVsub_good hM
  | vmul => exact execVmul_good hM
  | vmulh => exact execVmulh_good hM
  | vmad => exact execVmad_good hM
  | vdiv => exact execVdiv_good hM
  | vrem => exact execVrem_good hM
  | vmin => exact execVmin_good hM
  | vmax => exact execVmax_good hM
  | vand => exact execVand_good hM
  | vor => exact execVor_good hM
  | vxor => exact execVxor_good hM
  | vshl => exact execVshl_good hM
  | vshr => exact execVshr_good hM
  | vpopc => exact execVpopc_good hM
  | vclz => exact execVclz_good hM
  | vfadd => exact execVfadd_good hM
  | vfsub => exact execVfsub_good hM
  | vfmul => exact execVfmul_good hM
  | vffma => exact execVffma_good hM
  | vffms => exact execVffms_good hM
  | vfdiv => exact execVfdiv_good hM
  | vfsqrt => exact execVfsqrt_good hM
  | vfmin => exact execVfmin_good hM
  | vfmax => exact execVfmax_good hM
  | vfexp2 => exact execVfexp2_good hM
  | vflog2 => exact execVflog2_good hM
  | vfrcp => exact execVfrcp_good hM
  | vfrsq => exact execVfrsq_good hM
  | vfabs => exact execVfabs_good hM
  | vfscale => exact execVfscale_good hM
  | vfdp2 => exact execVfdp2_good hM
  | vcmpeq => exact execVcmpeq_good hM
  | vcmpne => exact execVcmpne_good hM
  | vcmplt => exact execVcmplt_good hM
  | vcmple => exact execVcmple_good hM
  | vcmpun => exact execVcmpun_good hM
  | vsel => exact execVsel_good hM
  | vcvt => exact execVcvt_good hM
  | vmov => exact execVmov_good hM
  | vbcast => exact execVbcast_good hM
  | vli => exact execVli_good hM
  | vlit => exact execVlit_good hM
  | vget => exact execVget_good hM
  | vput => exact execVput_good hM
  | vpack => exact execVpack_good hM
  | vunpkl => exact execVunpkl_good hM
  | vunpkh => exact execVunpkh_good hM
  | setmode => exact execSetmode_good hM
  | modeone => exact execModeone_good hM
  | rdmode => exact execRdmode_good hM
  | wrmode => exact execWrmode_good hM
  | fmtset => exact execFmtset_good hM
  | fmtget => exact execFmtget_good hM
  | sfsub => exact execSfsub_good hM
  | sfdiv => exact execSfdiv_good hM
  | sfmin => exact execSfmin_good hM
  | sfmax => exact execSfmax_good hM
  | sfcmp => exact execSfcmp_good hM
  | sfcvt => exact execSfcvt_good hM
  | sfexp2 => exact execSfexp2_good hM
  | sfsqrt => exact execSfsqrt_good hM
  | sfclass => exact execSfclass_good hM
  | vshfl => exact execVshfl_good hM
  | vshup => exact execVshup_good hM
  | vshdn => exact execVshdn_good hM
  | vxorsh => exact execVxorsh_good hM
  | vballot => exact execVballot_good hM
  | vscan => exact execVscan_good hM
  | vred => exact execVred_good hM
  | vtopk => exact execVtopk_good hM
  | vxpat => exact execVxpat_good hM
  | xpld => exact execXpld_good hM
  | rgdeal => exact execRgdeal_good hM
  | rgclose => exact execRgclose_good hM
  | vcompact => exact execVcompact_good hM
  | vexpand => exact execVexpand_good hM
  | vld => exact execVld_good hM
  | vst => exact execVst_good hM
  | vld2 => exact execVld2_good hM
  | vst2 => exact execVst2_good hM
  | vlds => exact execVlds_good hM
  | vsts => exact execVsts_good hM
  | vldt => exact execVldt_good hM
  | vstt => exact execVstt_good hM
  | vldq => exact execVldq_good hM
  | vstq => exact execVstq_good hM
  | vpfx => exact execVpfx_good hM
  | vatadd => exact execVatadd_good hM
  | vatmin => exact execVatmin_good hM
  | vatmax => exact execVatmax_good hM
  | vatand => exact execVatand_good hM
  | vator => exact execVator_good hM
  | vatxor => exact execVatxor_good hM
  | vatxchg => exact execVatxchg_good hM
  | vatcas => exact execVatcas_good hM
  | vradd => exact execVradd_good hM
  | vrmin => exact execVrmin_good hM
  | vrmax => exact execVrmax_good hM
  | barinit => exact execBarinit_good hM
  | bararr => exact execBararr_good hM
  | barwait => exact execBarwait_good hM
  | fence => exact execFence_good hM
  | gfence => exact execGfence_good hM
  | rclaim => exact execRclaim_good hM
  | rgive => exact execRgive_good hM
  | rslice => exact execRslice_good hM
  | rquery => exact execRquery_good hM
  | fwpub => exact execFwpub_good hM
  | fwend => exact execFwend_good hM
  | cpush => exact execCpush_good hM
  | cjoin => exact execCjoin_good hM
  | qpush => exact execQpush_good hM
  | qpop => exact execQpop_good hM
  | launch => exact execLaunch_good hM
  | oclaim => exact execOclaim_good hM
  | orel => exact execOrel_good hM
  | ofill => exact execOfill_good hM
  | ofillv => exact execOfillv_good hM
  | mma => exact execMma_good hM
  | mmas => exact execMmas_good hM
  | mmar => exact execMmar_good hM
  | mmaz => exact execMmaz_good hM
  | oread => exact execOread_good hM
  | owrite => exact execOwrite_good hM
  | ostore => exact execOstore_good hM
  | mtest => exact execMtest_good hM
  | mfence => exact execMfence_good hM
  | orec => exact execOrec_good hM
  | eappend => exact execEappend_good hM
  | eseq => exact execEseq_good hM
  | relay => exact execRelay_good hM
  | tdesc => exact execTdesc_good hM
  | tquery => exact execTquery_good hM
  | tfree => exact execTfree_good hM
  | trig => exact execTrig_good hM
  | tbset => exact execTbset_good hM
  | tbclr => exact execTbclr_good hM
  | tbread => exact execTbread_good hM
  | evpoll => exact execEvpoll_good hM
  | evack => exact execEvack_good hM
  | tilebeg => exact execTilebeg_good hM
  | tileend => exact execTileend_good hM
  | vcput => exact execVcput_good hM
  | vcget => exact execVcget_good hM
  | vcred => exact execVcred_good hM
  | a2aplan => exact execA2aplan_good hM
  | satadd => exact execSatadd_good hM
  | satcas => exact execSatcas_good hM
  | tret => exact execTret_good hM
  | pdone => exact execPdone_good hM
  | brk n => exact execBrk_good (_n := n) hM
  | svc n => exact execSvc_good (_n := n) hM
  | tmark => exact execTmark_good hM
  | wfe => exact execWfe_good hM
  | _ => cases hi

theorem exec_good_of_event {i : Instr} {s : State} (hi : isEvent i = true) (hM : s.memOk) : Good (exec i s) := by
  cases i with
  | rippleRound => exact execRippleRound_good hM
  | publishArrival => exact execPublishArrival_good hM
  | distributorExamination => exact execDistributorExamination_good hM
  | groupRelease => exact execGroupRelease_good hM
  | waitSave => exact execWaitSave_good hM
  | savedGroupRelaunch => exact execSavedGroupRelaunch_good hM
  | claimGrant => exact execClaimGrant_good hM
  | claimDeadlockFault => exact execClaimDeadlockFault_good hM
  | faultRecordPost => exact execFaultRecordPost_good hM
  | faultReplyReplay => exact execFaultReplyReplay_good hM
  | faultReplyReject => exact execFaultReplyReject_good hM
  | scalarAccessComplete => exact execScalarAccessComplete_good hM
  | vectorAccessComplete => exact execVectorAccessComplete_good hM
  | atomicRequestComplete => exact execAtomicRequestComplete_good hM
  | collectiveComplete => exact execCollectiveComplete_good hM
  | deferredDataIntegrityFault => exact execDeferredDataIntegrityFault_good hM
  | commandStart => exact execCommandStart_good hM
  | commandComplete => exact execCommandComplete_good hM
  | eventRecordPost => exact execEventRecordPost_good hM
  | relayFactoringDone => exact execRelayFactoringDone_good hM
  | relayPassStart => exact execRelayPassStart_good hM
  | relayPassComplete => exact execRelayPassComplete_good hM
  | stampRecordWrite => exact execStampRecordWrite_good hM
  | fillComplete => exact execFillComplete_good hM
  | slotReleaseComplete => exact execSlotReleaseComplete_good hM
  | matrixOperationStart => exact execMatrixOperationStart_good hM
  | raggedFenceRead => exact execRaggedFenceRead_good hM
  | matrixOperationComplete => exact execMatrixOperationComplete_good hM
  | selfTestInject => exact execSelfTestInject_good hM
  | trapEntry => exact execTrapEntry_good hM
  | escalationRecordPost => exact execEscalationRecordPost_good hM
  | escalationReplyResume => exact execEscalationReplyResume_good hM
  | escalationReplyEnd => exact execEscalationReplyEnd_good hM
  | systemCoreTrapEntry => exact execSystemCoreTrapEntry_good hM
  | preemptionRequestTaken => exact execPreemptionRequestTaken_good hM
  | hardwareSave => exact execHardwareSave_good hM
  | contextSuspend => exact execContextSuspend_good hM
  | suspensionComplete => exact execSuspensionComplete_good hM
  | contextResume => exact execContextResume_good hM
  | addressComparatorFire => exact execAddressComparatorFire_good hM
  | registerFileError => exact execRegisterFileError_good hM
  | eccError => exact execEccError_good hM
  | translationFlush => exact execTranslationFlush_good hM
  | timensWrite => exact execTimensWrite_good hM
  | cqpushWrite => exact execCqpushWrite_good hM
  | sevsendWrite => exact execSevsendWrite_good hM
  | reqsendWrite => exact execReqsendWrite_good hM
  | unitTag => exact execUnitTag_good hM
  | unitFree => exact execUnitFree_good hM
  | boardAllot => exact execBoardAllot_good hM
  | boardFree => exact execBoardFree_good hM
  | streamqWrite => exact execStreamqWrite_good hM
  | plentWrite => exact execPlentWrite_good hM
  | routeTableWrite => exact execRouteTableWrite_good hM
  | systemRegisterWrite => exact execSystemRegisterWrite_good hM
  | maelubStop => exact execMaelubStop_good hM
  | maelubRun => exact execMaelubRun_good hM
  | maelubStep => exact execMaelubStep_good hM
  | maelubStepTimeout => exact execMaelubStepTimeout_good hM
  | maelubDump => exact execMaelubDump_good hM
  | maelubRdmem => exact execMaelubRdmem_good hM
  | maelubWrmem => exact execMaelubWrmem_good hM
  | maelubRdsr => exact execMaelubRdsr_good hM
  | maelubWrsr => exact execMaelubWrsr_good hM
  | maelubWrreg => exact execMaelubWrreg_good hM
  | maelubStatus => exact execMaelubStatus_good hM
  | requestSlotWrite => exact execRequestSlotWrite_good hM
  | reqOpen => exact execReqOpen_good hM
  | reqClose => exact execReqClose_good hM
  | reqMap => exact execReqMap_good hM
  | reqUnmap => exact execReqUnmap_good hM
  | reqLoad => exact execReqLoad_good hM
  | reqQueue => exact execReqQueue_good hM
  | reqLaunch => exact execReqLaunch_good hM
  | reqRead => exact execReqRead_good hM
  | reqWrite => exact execReqWrite_good hM
  | reqFmt => exact execReqFmt_good hM
  | reqReserve => exact execReqReserve_good hM
  | reqSuspend => exact execReqSuspend_good hM
  | reqDebug => exact execReqDebug_good hM
  | reqWait => exact execReqWait_good hM
  | reqSlice => exact execReqSlice_good hM
  | reqBoard => exact execReqBoard_good hM
  | reqQuantum => exact execReqQuantum_good hM
  | flitReceive => exact execFlitReceive_good hM
  | remoteAccessTimeout => exact execRemoteAccessTimeout_good hM
  | linkBringUp => exact execLinkBringUp_good hM
  | planPhaseStart => exact execPlanPhaseStart_good hM
  | planComplete => exact execPlanComplete_good hM
  | wfeTimeout => exact execWfeTimeout_good hM
  | traceSample => exact execTraceSample_good hM
  | powerOn pkg strap => exact @execPowerOn_good s pkg strap hM
  | thermalThrottle => exact execThermalThrottle_good hM
  | thermalPowerOff => exact execThermalPowerOff_good hM
  | powerOff => exact execPowerOff_good hM
  | _ => cases hi

theorem exec_good {i : Instr} {s : State} (hM : s.memOk) : Good (exec i s) := by
  cases h : isEvent i with
  | false => exact exec_good_of_instruction h hM
  | true => exact exec_good_of_event h hM

/-! ## The issue of one word by one agent -/

theorem afterIssue_good {a : Agent} {pc : Dword} {w : Word} {o : Outcome State Fault Refusal} (h : Good o) :
    Good (afterIssue a pc w o) := by
  unfold afterIssue
  grind [State.examined_memOk, State.postLost_memOk]

theorem stepEnd_good {a : Agent} {s : State} {o : Outcome State Fault Refusal} (h : Good o) : Good (stepEnd a s o) := by
  unfold stepEnd
  grind [State.stopAgent_memOk]

theorem State.compared_good {s : State} {o : Outcome State Fault Refusal} (hM : s.memOk) (h : Good o) :
    Good (s.compared o) := by
  unfold State.compared
  grind [State.fire_memOk]

theorem State.issueWord_good {s : State} {c : Clause} (hM : s.memOk) :
    Good (s.issueWord c) := by
  unfold State.issueWord
  grind [finish_good, afterIssue_good, exec_good, State.wordFate_keeps, State.compared_good]

theorem State.issueClause_good {s : State} (hM : s.memOk) :
    Good s.issueClause := by
  unfold State.issueClause
  grind [finish_good, State.issueWord_good, afterIssue_good, State.traceIssue_memOk, State.enterClause_keeps,
    State.started_mem, Exc.started_ok, State.rippleAt_good]

theorem State.issueAs_good {s : State} {a : Agent} (hM : s.memOk) :
    Good (s.issueAs a) := by
  unfold State.issueAs
  grind [execDeferredDataIntegrityFault_good, State.issueClause_good, execSystemCoreTrapEntry_good,
    State.issueWord_good, afterIssue_good, State.rippleGo_good, State.started_mem]

theorem State.issue_good {s : State} {a : Agent} (hM : s.memOk) :
    Good (s.issue a) := by
  unfold State.issue
  grind [stepEnd_good, State.issueAs_good]

/-! ## Where the outside makes no choice -/

theorem State.tryIssue_keeps {s : State} {a : Agent} (hM : s.memOk) : OptKeeps Good (s.tryIssue a) := by
  unfold State.tryIssue
  grind [State.issue_good]

theorem State.marked_memOk {s : State} (hM : s.memOk) :
    s.marked.memOk := hM

theorem State.tryEvent_keeps {s : State} {f : State → Outcome State Fault Refusal} (h : Good (f s)) :
    OptKeeps Good (s.tryEvent f) := by
  unfold State.tryEvent
  grind

/-! ## Events, and a step -/

/-- What may happen of itself keeps memory in canonical form. -/
def AllGood (l : List (State → Outcome State Fault Refusal)) : Prop := ∀ f ∈ l, ∀ s : State, s.memOk → Good (f s)

theorem AllGood.append {l m : List (State → Outcome State Fault Refusal)} (hl : AllGood l) (hm : AllGood m) :
    AllGood (l ++ m) := List.forall_mem_append.2 ⟨hl, hm⟩

theorem AllGood.map {α : Type} {l : List α} {f : α → State → Outcome State Fault Refusal}
    (h : ∀ x, ∀ s : State, s.memOk → Good (f x s)) : AllGood (l.map f) := List.forall_mem_map.2 fun x _ => h x

theorem AllGood.flatMap {α : Type} {l : List α} {f : α → List (State → Outcome State Fault Refusal)}
    (h : ∀ x, AllGood (f x)) : AllGood (l.flatMap f) := fun g hg => by
  obtain ⟨x, -, hx⟩ := List.mem_flatMap.1 hg
  exact h x g hx

@[simp] theorem allGood_nil : AllGood [] := fun _ h => nomatch h
@[simp] theorem allGood_cons {f : State → Outcome State Fault Refusal}
    {l : List (State → Outcome State Fault Refusal)} :
    AllGood (f :: l) ↔ (∀ s : State, s.memOk → Good (f s)) ∧ AllGood l := List.forall_mem_cons

theorem allGood_groupEvents (gid : Nat) : AllGood (groupEvents gid) := by
  simp only [groupEvents, allGood_cons, allGood_nil, and_true]
  exact ⟨fun _ => execTrapEntry_good, fun _ => execPreemptionRequestTaken_good, fun _ => execHardwareSave_good,
    fun _ => execWaitSave_good, fun _ => execGroupRelease_good, fun _ => execClaimGrant_good,
    fun _ => execClaimGrant_good, fun _ => execSavedGroupRelaunch_good, fun _ => execWfeTimeout_good,
    fun _ => execWfeTimeout_good⟩

theorem allGood_opEvents (n : Nat) (o : Op) : AllGood (opEvents n o) := by
  simp only [opEvents, allGood_cons, allGood_nil, and_true]
  refine ⟨fun _ => execScalarAccessComplete_good, fun _ => execVectorAccessComplete_good,
    fun _ => execAtomicRequestComplete_good, fun _ => execCollectiveComplete_good, ?_⟩
  split
  · exact fun _ => execSystemCoreTrapEntry_good
  · exact fun _ => execDeferredDataIntegrityFault_good

theorem allGood_pkgEvents (pkg : Nat) : AllGood (pkgEvents pkg) := by
  simp only [pkgEvents, allGood_cons, allGood_nil, and_true]
  exact ⟨fun _ => execFaultRecordPost_good, fun _ => execEscalationRecordPost_good, fun _ => execRequestSlotWrite_good,
    fun _ => execPlanPhaseStart_good, fun _ => execPlanComplete_good, fun _ => execMaelubStepTimeout_good⟩

theorem allGood_cmdEvents (n : Nat) : AllGood (cmdEvents n) := by
  simp only [cmdEvents, allGood_cons, allGood_nil, and_true]
  exact ⟨fun _ => execCommandComplete_good, fun _ => execRelayFactoringDone_good, fun _ => execRelayPassStart_good,
    fun _ => execRelayPassComplete_good, fun _ => execFillComplete_good⟩

theorem allGood_dominoEvents (dk : Nat) (d : Domino) : AllGood (dominoEvents dk d) := by
  refine .append ?_ (.map fun _ _ => execSlotReleaseComplete_good)
  simp only [allGood_cons, allGood_nil, and_true]
  exact ⟨fun _ => execMatrixOperationStart_good, fun _ => execRaggedFenceRead_good,
    fun _ => execMatrixOperationComplete_good⟩

theorem allGood_events (s : State) : AllGood s.events := by
  have units : AllGood (s.groups.flatMap (fun e => groupEvents e.1) ++ s.ops.flatMap (fun e => opEvents e.1 e.2)
      ++ s.chains.map (fun e => execCommandStart e.1) ++ s.cmds.flatMap (fun e => cmdEvents e.1)
      ++ s.posts.map (fun e => execEventRecordPost e.1) ++ s.tiles.map (fun e => execStampRecordWrite e.1)
      ++ s.dominoes.flatMap (fun e => dominoEvents e.1 e.2)) :=
    .append (.append (.append (.append (.append (.append (.flatMap fun _ => allGood_groupEvents _)
      (.flatMap fun _ => allGood_opEvents _ _)) (.map fun _ _ => execCommandStart_good))
      (.flatMap fun _ => allGood_cmdEvents _)) (.map fun _ _ => execEventRecordPost_good))
      (.map fun _ _ => execStampRecordWrite_good)) (.flatMap fun _ => allGood_dominoEvents _ _)
  exact .append (.append (.append (.append (.append (.append units
    (.flatMap fun _ => .map fun _ _ => execPublishArrival_good)) (.map fun _ _ => execClaimDeadlockFault_good))
    (.map fun _ _ => execSuspensionComplete_good)) (.map fun _ _ => execWfeTimeout_good))
    (.map fun _ _ => execTraceSample_good)) (.flatMap fun _ => allGood_pkgEvents _)

/-- The first of a list that is taken keeps what each of them keeps. -/
theorem findSome_keeps {α β : Type} {P : β → Prop} {f : α → Option β} {l : List α} (h : ∀ a ∈ l, OptKeeps P (f a)) :
    OptKeeps P (l.findSome? f) := by
  refine optKeeps_of_some fun b hb => ?_
  obtain ⟨a, ha, hf⟩ := List.exists_of_findSome?_eq_some hb
  exact optKeeps_some (h a ha) hf

theorem optKeeps_or {α : Type} {P : α → Prop} {x y : Option α} (hx : OptKeeps P x) (hy : OptKeeps P y) :
    OptKeeps P (x.or y) := by
  cases x with
  | some a => exact hx
  | none => exact hy

theorem good_getD {x : Option (Outcome State Fault Refusal)} {s : State} (hx : OptKeeps Good x) (hM : s.memOk) :
    Good (x.getD (.next s)) := by
  cases x with
  | some o => exact hx
  | none => exact hM

theorem State.tryDistribute_keeps {s : State} (hM : s.memOk) : OptKeeps Good s.tryDistribute := by
  unfold State.tryDistribute
  split
  · exact findSome_keeps fun e _ => State.tryEvent_keeps (execDistributorExamination_good hM)
  · trivial

theorem State.ownStep_good {s : State} (hM : s.memOk) : Good s.ownStep := by
  have issues : OptKeeps Good (s.agents.findSome? s.tryIssue) := findSome_keeps fun a _ => State.tryIssue_keeps hM
  have events : OptKeeps Good (s.events.findSome? s.tryEvent) :=
    findSome_keeps fun f hf => State.tryEvent_keeps (allGood_events s f hf s hM)
  have first : ∀ x y : Option (Outcome State Fault Refusal), OptKeeps Good x → OptKeeps Good y →
      Good ((if s.cycle % 2 = 0 then x.or y else y.or x).getD (.next s)) := by
    intro x y hx hy
    split
    · exact good_getD (optKeeps_or hx hy) hM
    · exact good_getD (optKeeps_or hy hx) hM
  unfold State.ownStep
  cases s.unpowered with
  | some p => exact @execPowerOn_good s p false hM
  | none =>
    cases hd : s.tryDistribute with
    | some o => exact optKeeps_some (State.tryDistribute_keeps hM) hd
    | none =>
      exact first _ _ issues events

theorem State.take_good {s : State} {t : Turn} (hM : s.memOk) : Good (s.take t) := by
  cases t with
  | issue a => exact State.issue_good hM
  | event i =>
    show Good (if isEvent i then exec i s else .next s)
    split
    · exact exec_good hM
    · exact hM
  | elapse n => exact hM

theorem tick_good {o : Outcome State Fault Refusal} (h : Good o) : Good (tick o) := by
  cases o with
  | next s => exact State.marked_memOk h
  | _ => trivial

theorem step_good {s : State} (hM : s.memOk) : Good (step s) := by
  unfold step
  split
  · exact tick_good (State.take_good hM)
  · exact tick_good (State.ownStep_good hM)

/-- Settles O59: every meaning keeps memory in canonical form, whatever comes of it, and a step issues an instruction or
takes an event. -/
theorem memoryStaysCanonical : Obligations.MemoryStaysCanonical := by
  intro s t hM hst
  have h := step_good hM
  rw [hst] at h
  exact h

end Sys2Proof.Proofs
